-- ==== Sys2Proof/Word.lean ====
section
/-! DEFINITION. The machine's word types: 72-bit scalar words and virtual addresses (02 R60, 07 R142),
128-bit vector values (14 R265), 16-bit predicates (12 R235), bytes, 96-bit slots (10 R202). -/

namespace Sys2Proof

/-- A scalar register, a virtual address or a program counter: 72 bits (07 R142, 12 R235). -/
abbrev Word := BitVec 72
/-- One byte of memory. -/
abbrev Byte := BitVec 8
/-- A vector register: 128 bits (14 R265). -/
abbrev VWord := BitVec 128
/-- A predicate register: 16 bits (12 R235). -/
abbrev KWord := BitVec 16
/-- A handle, an argument word, a return-stack entry: 64 bits. -/
abbrev DWord := BitVec 64
/-- An instruction slot: 96 bits (10 R202). -/
abbrev SlotBits := BitVec 96

end Sys2Proof
end

