-- ==== Sys2Proof/Syntax.lean ====
section
/-! DEFINITION. The syntax of the machine: one constructor of `Instr` for every row of spec/opcode_table.json,
192 instructions with the operand formats of chapters 12, 14, 15, 17 and 20, and 122 device events with the data that
the event carries. Field names follow the manual's encoding tables. -/

namespace Sys2Proof

/-! ### Operands (10 R211, R212) -/

/-- GNEG:GK, the guard of a slot (10 R211). -/
structure Guard where
  neg : Bool
  k : Fin 8
  deriving DecidableEq, Repr, Inhabited

/-- The loop registers named as special operands (10 Table 10.5). -/
inductive LoopReg where
  | lb0 | le0 | lc0 | lb1 | le1 | lc1
  deriving DecidableEq, Repr, Inhabited

/-- A scalar source (12 Table 12.1). -/
inductive SSrc where
  | s (i : Fin 16)
  | imm (v : BitVec 5)
  | zr
  | loop (r : LoopReg)
  | pcn
  deriving DecidableEq, Repr, Inhabited

/-- A scalar register or zr: a scalar destination (12 Table 12.1), and the operands the manual writes "s/zr". -/
inductive SReg where
  | s (i : Fin 16)
  | zr
  deriving DecidableEq, Repr, Inhabited

/-- A scalar register, zr or a small immediate: store data and the B operand of an atomic (15 R310, R320). -/
inductive SData where
  | s (i : Fin 16)
  | zr
  | imm (v : BitVec 5)
  deriving DecidableEq, Repr, Inhabited

/-- A scalar register or a small immediate: the counts of QADV and TDEC (14 Table 14.10, 17 Table 17.1). -/
inductive SCount where
  | s (i : Fin 16)
  | imm (v : BitVec 5)
  deriving DecidableEq, Repr, Inhabited

/-- A scalar source, or B none with the value in TAIL (12 Table 12.5, ADDA and SUBA). -/
inductive SrcImm where
  | src (a : SSrc)
  | imm (v : BitVec 40)
  deriving DecidableEq, Repr, Inhabited

/-- A vector-row source operand (14 Table 14.4); `q` carries its need. -/
inductive VSrc where
  | v (i : Fin 32)
  | q (i : Fin 16) (need : BitVec 4)
  | s (i : Fin 16)
  | imm (v : BitVec 5)
  | zr
  deriving DecidableEq, Repr, Inhabited

/-- A v register or a queue operand with its need: vector destinations and vector store data. -/
inductive VReg where
  | v (i : Fin 32)
  | q (i : Fin 16) (need : BitVec 4)
  deriving DecidableEq, Repr, Inhabited

/-- The data operand of BST (17 R375). -/
inductive BstSrc where
  | s (i : Fin 16)
  | v (i : Fin 32)
  | q (i : Fin 16) (need : BitVec 4)
  deriving DecidableEq, Repr, Inhabited

/-- A predicate register, a scalar register or zr (12 Table 12.8, KMOV). -/
inductive KSrc where
  | k (i : Fin 8)
  | s (i : Fin 16)
  | zr
  deriving DecidableEq, Repr, Inhabited

/-- sB..B+3 or zr, four argument words (17 R342). -/
inductive ArgRegs where
  | base (i : Fin 16)
  | zr
  deriving DecidableEq, Repr, Inhabited

/-! ### Modifiers -/

/-- W of rows 0x00 to 0x04 (12 R236): 64, 32, 16 or 8 bits. -/
inductive IWidth where
  | w64 | w32 | w16 | w8
  deriving DecidableEq, Repr, Inhabited

/-- COND (12 Table 12.7). -/
inductive Cond where
  | eq | ne | lt | le | gt | ge | ltz | lez | gtz | gez | ltu | leu | gtu | geu
  deriving DecidableEq, Repr, Inhabited

/-- The control registers (12 Table 12.12). -/
inductive CtlReg where
  | status | cause | epc | eva | fctl | fstat | tid | core | part | lseq | fold | ladstep | seed
  deriving DecidableEq, Repr, Inhabited

/-- Lane types (14 Table 14.1). -/
inductive LaneTy where
  | i8 | i16 | i32 | i64 | z8 | z16 | z32 | z64 | fp32 | fp16 | bf16 | e4m3 | e5m2 | e2m1 | db8 | db4
  deriving DecidableEq, Repr, Inhabited

/-- The RM field (14 Table 14.3): FCTL.RM or a named mode. -/
inductive RndField where
  | fctl | rn | rz | rd | ru | rs
  deriving DecidableEq, Repr, Inhabited

/-- Scopes (07 Table 7.7, 15 Table 15.2). -/
inductive Scope where
  | core | clu | die | pkg | sys
  deriving DecidableEq, Repr, Inhabited

/-- ORD with its scope (15 Table 15.2). -/
inductive Order where
  | plain
  | acq (sc : Scope)
  | rel (sc : Scope)
  deriving DecidableEq, Repr, Inhabited

/-- Access widths of LD and ST (15 R310): 1, 2, 4, 8, 16 bytes. -/
inductive MWidth where
  | b | h | w | d | a
  deriving DecidableEq, Repr, Inhabited

/-- VRED's ROP (14 R276). -/
inductive RedOp where
  | add | min | max
  deriving DecidableEq, Repr, Inhabited

/-- CRED's OP (15 R335). -/
inductive CredOp where
  | add | min | max | and | or | xor
  deriving DecidableEq, Repr, Inhabited

/-- CRED's FMT (15 R335). -/
inductive CredFmt where
  | i32 | i64 | fp32 | bf16
  deriving DecidableEq, Repr, Inhabited

/-- AMOF.add's FMT (15 R320). -/
inductive AmofFmt where
  | fp32 | bf16 | fp16
  deriving DecidableEq, Repr, Inhabited

/-- MF, the matrix formats (20 Table 20.2). -/
inductive MatFmt where
  | i8 | e4m3 | e5m2 | db8 | e2m1 | db4 | fp16 | bf16
  deriving DecidableEq, Repr, Inhabited

/-- ATTNCFG's DH (20 R405): 32, 64, 96, 128. -/
inductive HeadDim where
  | d32 | d64 | d96 | d128
  deriving DecidableEq, Repr, Inhabited

/-- ATTNCFG's IN (20 R405). -/
inductive AttnIn where
  | e4m3 | e5m2 | db8 | fp16 | bf16
  deriving DecidableEq, Repr, Inhabited

/-- ATTNCFG's OUT (20 R405). -/
inductive AttnOut where
  | fp32 | fp16 | bf16
  deriving DecidableEq, Repr, Inhabited

/-! ### Formats of rows 0x00 to 0x07 -/

/-- D, A, B of Table 12.4. -/
structure Alu3 where
  sh : Bool
  g : Guard
  w : IWidth
  z : Bool
  sat : Bool
  d : SReg
  a : SSrc
  b : SSrc
  deriving DecidableEq, Repr, Inhabited

/-- D, A of Table 12.4. -/
structure Alu2 where
  sh : Bool
  g : Guard
  w : IWidth
  d : SReg
  a : SSrc
  deriving DecidableEq, Repr, Inhabited

/-- ADDI (12 Table 12.4). -/
structure AluI where
  sh : Bool
  g : Guard
  w : IWidth
  z : Bool
  sat : Bool
  d : SReg
  a : SSrc
  imm : BitVec 40
  deriving DecidableEq, Repr, Inhabited

/-- BFX and BFI (12 R239). -/
structure BitField where
  sh : Bool
  g : Guard
  z : Bool
  d : SReg
  a : SSrc
  pos : BitVec 6
  len : BitVec 7
  deriving DecidableEq, Repr, Inhabited

structure LiF where
  sh : Bool
  g : Guard
  d : SReg
  imm : BitVec 40
  deriving DecidableEq, Repr, Inhabited

structure LihF where
  sh : Bool
  g : Guard
  d : SReg
  imm : BitVec 32
  deriving DecidableEq, Repr, Inhabited

structure LeaF where
  sh : Bool
  g : Guard
  d : SReg
  a : SSrc
  b : Option SReg
  scale : BitVec 3
  disp : BitVec 40
  deriving DecidableEq, Repr, Inhabited

structure AddaF where
  sh : Bool
  g : Guard
  d : SReg
  a : SSrc
  b : SrcImm
  deriving DecidableEq, Repr, Inhabited

structure SelectF where
  sh : Bool
  g : Guard
  d : SReg
  a : SSrc
  b : SSrc
  c : Fin 8
  deriving DecidableEq, Repr, Inhabited

structure CmpF where
  g : Guard
  cond : Cond
  w : IWidth
  d : Fin 8
  a : SSrc
  b : Option SSrc
  deriving DecidableEq, Repr, Inhabited

structure CmpiF where
  g : Guard
  cond : Cond
  w : IWidth
  d : Fin 8
  a : SSrc
  imm : BitVec 40
  deriving DecidableEq, Repr, Inhabited

structure K3 where
  g : Guard
  d : Fin 8
  a : Fin 8
  b : Fin 8
  deriving DecidableEq, Repr, Inhabited

structure K2 where
  g : Guard
  d : Fin 8
  a : Fin 8
  deriving DecidableEq, Repr, Inhabited

structure KmovF where
  g : Guard
  d : KSrc
  a : KSrc
  deriving DecidableEq, Repr, Inhabited

/-- An instruction with no operands. -/
structure Bare where
  g : Guard
  deriving DecidableEq, Repr, Inhabited

/-- NOP, whose side is the line word's (10 R215). -/
structure NopF where
  g : Guard
  exec : Bool
  deriving DecidableEq, Repr, Inhabited

/-- A form-3 tail (10 R214) with no register operand. -/
structure BranchF where
  g : Guard
  ofs : BitVec 37
  tslot : BitVec 3
  deriving DecidableEq, Repr, Inhabited

/-- One s register in A. -/
structure RegF where
  g : Guard
  a : Fin 16
  deriving DecidableEq, Repr, Inhabited

structure LoopF where
  g : Guard
  lvl : Bool
  a : Fin 16
  ofs : BitVec 37
  tslot : BitVec 3
  deriving DecidableEq, Repr, Inhabited

structure LoopiF where
  g : Guard
  lvl : Bool
  count : BitVec 20
  lofs : BitVec 17
  eslot : BitVec 3
  deriving DecidableEq, Repr, Inhabited

structure TrapF where
  g : Guard
  imm : BitVec 40
  deriving DecidableEq, Repr, Inhabited

structure GetcF where
  g : Guard
  d : SReg
  reg : CtlReg
  deriving DecidableEq, Repr, Inhabited

structure SetcF where
  g : Guard
  reg : CtlReg
  a : SSrc
  deriving DecidableEq, Repr, Inhabited

/-- TLBI kinds 0 and 1 (12 R260). -/
structure TlbiF where
  g : Guard
  a : SReg
  deriving DecidableEq, Repr, Inhabited

/-- D s/zr, A an s register. -/
structure DstReg where
  g : Guard
  d : SReg
  a : Fin 16
  deriving DecidableEq, Repr, Inhabited

/-! ### Formats of rows 0x08 to 0x0F -/

/-- D, A, B with rounding and saturation (14 R266). -/
structure V3 where
  sh : Bool
  g : Guard
  lt : LaneTy
  d : VReg
  a : VSrc
  b : VSrc
  rm : RndField
  sat : Bool
  deriving DecidableEq, Repr, Inhabited

/-- D, A, B, C: the fused forms (14 R272). -/
structure V4 where
  sh : Bool
  g : Guard
  lt : LaneTy
  d : VReg
  a : VSrc
  b : VSrc
  c : VSrc
  rm : RndField
  sat : Bool
  deriving DecidableEq, Repr, Inhabited

/-- D, A, B with neither rounding nor saturation: VMIN, VMAX, logic and shifts. -/
structure V3n where
  sh : Bool
  g : Guard
  lt : LaneTy
  d : VReg
  a : VSrc
  b : VSrc
  deriving DecidableEq, Repr, Inhabited

/-- D, A with saturation: VABS, VNEG, special functions. -/
structure V2 where
  sh : Bool
  g : Guard
  lt : LaneTy
  d : VReg
  a : VSrc
  sat : Bool
  deriving DecidableEq, Repr, Inhabited

structure VdotF where
  sh : Bool
  g : Guard
  lt : LaneTy
  d : VReg
  a : VSrc
  b : VSrc
  c : Option VSrc
  rm : RndField
  sat : Bool
  deriving DecidableEq, Repr, Inhabited

structure VredF where
  sh : Bool
  g : Guard
  lt : LaneTy
  op : RedOp
  d : VReg
  a : VSrc
  rm : RndField
  sat : Bool
  deriving DecidableEq, Repr, Inhabited

structure VcmpF where
  sh : Bool
  g : Guard
  lt : LaneTy
  cond : Cond
  d : Fin 8
  a : VSrc
  b : Option VSrc
  deriving DecidableEq, Repr, Inhabited

structure VselF where
  sh : Bool
  g : Guard
  lt : LaneTy
  d : VReg
  a : VSrc
  b : VSrc
  c : Fin 8
  deriving DecidableEq, Repr, Inhabited

structure VpermF where
  sh : Bool
  g : Guard
  d : VReg
  a : VSrc
  b : VReg
  deriving DecidableEq, Repr, Inhabited

structure VbcastF where
  sh : Bool
  g : Guard
  lt : LaneTy
  d : VReg
  a : VSrc
  idx : BitVec 5
  deriving DecidableEq, Repr, Inhabited

structure VextF where
  sh : Bool
  g : Guard
  lt : LaneTy
  d : SReg
  a : VReg
  idx : BitVec 5
  deriving DecidableEq, Repr, Inhabited

structure VinsF where
  sh : Bool
  g : Guard
  lt : LaneTy
  d : Fin 32
  a : SCount
  idx : BitVec 5
  deriving DecidableEq, Repr, Inhabited

structure VcvtF where
  sh : Bool
  g : Guard
  dt : LaneTy
  st : LaneTy
  pos : BitVec 4
  d : Fin 32
  a : VSrc
  c : Option (Fin 16)
  rm : RndField
  sat : Bool
  deriving DecidableEq, Repr, Inhabited

structure VpackF where
  sh : Bool
  g : Guard
  dt : LaneTy
  st : LaneTy
  d : Fin 32
  a : VSrc
  b : VSrc
  rm : RndField
  sat : Bool
  deriving DecidableEq, Repr, Inhabited

structure VunpkF where
  sh : Bool
  g : Guard
  dt : LaneTy
  st : LaneTy
  d : Fin 32
  a : VSrc
  rm : RndField
  sat : Bool
  deriving DecidableEq, Repr, Inhabited

/-- VLOOP's count: a register, or COUNT of the tail (14 Table 14.10). -/
inductive LoopCount where
  | s (i : Fin 16)
  | imm (c : BitVec 32)
  deriving DecidableEq, Repr, Inhabited

structure VloopF where
  g : Guard
  n : BitVec 4
  c : LoopCount
  deriving DecidableEq, Repr, Inhabited

structure QcfgF where
  g : Guard
  q : Fin 16
  a : Fin 16
  b : Fin 16
  deriving DecidableEq, Repr, Inhabited

structure QueueF where
  g : Guard
  q : Fin 16
  deriving DecidableEq, Repr, Inhabited

structure QadvF where
  g : Guard
  exec : Bool
  q : Fin 16
  n : SCount
  deriving DecidableEq, Repr, Inhabited

structure QstatF where
  g : Guard
  d : SReg
  q : Fin 16
  deriving DecidableEq, Repr, Inhabited

structure KpushF where
  g : Guard
  k : Fin 8
  mode : BitVec 2
  deriving DecidableEq, Repr, Inhabited

/-! ### Formats of rows 0x10 to 0x14 and of MBIND, MUNBIND -/

/-- A memory operand (15 R307). -/
structure MemOp where
  a : SReg
  b : Option (Fin 16)
  sc : BitVec 3
  disp : BitVec 18
  deriving DecidableEq, Repr, Inhabited

/-- A memory operand without index. -/
structure MemBase where
  a : SReg
  disp : BitVec 18
  deriving DecidableEq, Repr, Inhabited

structure LdF where
  sh : Bool
  g : Guard
  w : MWidth
  z : Bool
  raw : Bool
  acq : Option Scope
  d : SReg
  m : MemOp
  deriving DecidableEq, Repr, Inhabited

structure StF where
  sh : Bool
  g : Guard
  w : MWidth
  z : Bool
  sat : Bool
  raw : Bool
  rel : Option Scope
  d : SData
  m : MemOp
  deriving DecidableEq, Repr, Inhabited

/-- LDQ (qualifier .acq) and STQ (qualifier .rel). -/
structure LdqF where
  sh : Bool
  g : Guard
  q : Fin 16
  need : BitVec 4
  ord : Option Scope
  m : MemOp
  deriving DecidableEq, Repr, Inhabited

/-- VLD (.acq) and VST (.rel). -/
structure VmemF where
  sh : Bool
  g : Guard
  lt : LaneTy
  rm : RndField
  sat : Bool
  raw : Bool
  ord : Option Scope
  d : VReg
  m : MemOp
  deriving DecidableEq, Repr, Inhabited

/-- VLDS and VSTS. -/
structure VstrideF where
  sh : Bool
  g : Guard
  lt : LaneTy
  rm : RndField
  sat : Bool
  raw : Bool
  ord : Option Scope
  d : VReg
  m : MemBase
  stride : Fin 16
  deriving DecidableEq, Repr, Inhabited

/-- VGATH and VSCAT. -/
structure VindexF where
  sh : Bool
  g : Guard
  lt : LaneTy
  rm : RndField
  sat : Bool
  raw : Bool
  ord : Option Scope
  d : VReg
  m : MemBase
  idx : VReg
  sc : BitVec 3
  bound : Option (Fin 16)
  deriving DecidableEq, Repr, Inhabited

structure VgathBcF where
  sh : Bool
  g : Guard
  acq : Option Scope
  q : Fin 16
  need : BitVec 4
  m : MemBase
  b : Fin 32
  c : Fin 16
  deriving DecidableEq, Repr, Inhabited

structure AmoF where
  sh : Bool
  g : Guard
  w : IWidth
  z : Bool
  ord : Order
  d : SReg
  m : MemBase
  b : SData
  deriving DecidableEq, Repr, Inhabited

structure CasF where
  sh : Bool
  g : Guard
  w : IWidth
  z : Bool
  ord : Order
  d : SReg
  m : MemBase
  b : SData
  c : Fin 16
  deriving DecidableEq, Repr, Inhabited

structure AmofF where
  sh : Bool
  g : Guard
  fmt : AmofFmt
  ord : Order
  d : SReg
  m : MemBase
  b : SData
  deriving DecidableEq, Repr, Inhabited

structure FenceF where
  sh : Bool
  g : Guard
  scope : Scope
  deriving DecidableEq, Repr, Inhabited

structure FenceLeaF where
  sh : Bool
  g : Guard
  d : SReg
  deriving DecidableEq, Repr, Inhabited

/-- CPY and CPY2D (15 Table 15.5). -/
structure CpyF where
  sh : Bool
  g : Guard
  d : Fin 16
  a : Fin 16
  b : Fin 16
  c : Option (Fin 16)
  deriving DecidableEq, Repr, Inhabited

structure ReplayF where
  sh : Bool
  g : Guard
  a : Fin 16
  c : Option (Fin 16)
  deriving DecidableEq, Repr, Inhabited

structure CredF where
  sh : Bool
  g : Guard
  op : CredOp
  fmt : CredFmt
  d : Fin 16
  a : Fin 16
  b : Fin 16
  c : Option (Fin 16)
  deriving DecidableEq, Repr, Inhabited

structure EseqF where
  sh : Bool
  g : Guard
  d : SReg
  eng : Fin 4
  deriving DecidableEq, Repr, Inhabited

structure RlqQueryF where
  sh : Bool
  g : Guard
  d : SReg
  a : Fin 16
  deriving DecidableEq, Repr, Inhabited

structure RlqReleaseF where
  sh : Bool
  g : Guard
  d : SReg
  a : Fin 16
  eng : Fin 4
  deriving DecidableEq, Repr, Inhabited

structure MbindF where
  g : Guard
  a : Fin 16
  slot : BitVec 5
  deriving DecidableEq, Repr, Inhabited

/-! ### Formats of rows 0x15 to 0x17 -/

structure InvokeF where
  g : Guard
  d : SReg
  a : Fin 16
  b : ArgRegs
  method : BitVec 8
  deriving DecidableEq, Repr, Inhabited

structure InvokenF where
  g : Guard
  a : Fin 16
  b : ArgRegs
  method : BitVec 8
  deriving DecidableEq, Repr, Inhabited

structure SendMboxF where
  g : Guard
  a : Fin 16
  b : ArgRegs
  deriving DecidableEq, Repr, Inhabited

structure SendActF where
  g : Guard
  a : Fin 16
  b : ArgRegs
  c : Fin 16
  slot : BitVec 5
  deriving DecidableEq, Repr, Inhabited

structure ResolveF where
  g : Guard
  a : Fin 16
  b : SReg
  len : BitVec 6
  deriving DecidableEq, Repr, Inhabited

/-- Two s registers, A and B. -/
structure Reg2 where
  g : Guard
  a : Fin 16
  b : Fin 16
  deriving DecidableEq, Repr, Inhabited

structure BreakF where
  g : Guard
  a : Fin 16
  cause : BitVec 6
  deriving DecidableEq, Repr, Inhabited

structure WhenF where
  g : Guard
  a : Fin 16
  ofs : BitVec 37
  tslot : BitVec 3
  deriving DecidableEq, Repr, Inhabited

structure HgetF where
  g : Guard
  d : SReg
  a : Fin 16
  word : BitVec 2
  c : Option (Fin 8)
  deriving DecidableEq, Repr, Inhabited

structure ObjnewF where
  g : Guard
  d : Fin 16
  a : Fin 16
  b : Fin 16
  cls : BitVec 12
  deriving DecidableEq, Repr, Inhabited

structure MigraF where
  g : Guard
  a : Fin 16
  disp : BitVec 40
  deriving DecidableEq, Repr, Inhabited

/-- HOLD and RELEASE: a register, or MASK (17 Table 17.1). -/
inductive MaskSrc where
  | s (i : Fin 16)
  | mask (m : BitVec 32)
  deriving DecidableEq, Repr, Inhabited

structure HoldF where
  g : Guard
  m : MaskSrc
  deriving DecidableEq, Repr, Inhabited

structure TaskF where
  g : Guard
  d : Fin 16
  a : Fin 16
  n : MaskSrc
  deriving DecidableEq, Repr, Inhabited

structure TdecF where
  g : Guard
  a : Fin 16
  n : SCount
  deriving DecidableEq, Repr, Inhabited

structure TestcF where
  g : Guard
  d : Fin 8
  deriving DecidableEq, Repr, Inhabited

/-- Two s registers, D and A. -/
structure RegD where
  g : Guard
  d : Fin 16
  a : Fin 16
  deriving DecidableEq, Repr, Inhabited

structure PhwaitF where
  g : Guard
  d : SReg
  a : Fin 16
  ofs : BitVec 37
  tslot : BitVec 3
  deriving DecidableEq, Repr, Inhabited

structure FoldF where
  g : Guard
  fold : Fin 16
  deriving DecidableEq, Repr, Inhabited

structure FmembF where
  g : Guard
  d : SReg
  fold : Fin 16
  sel : BitVec 6
  deriving DecidableEq, Repr, Inhabited

structure CbrF where
  g : Guard
  ht : Bool
  k : Fin 8
  fold : Fin 16
  ofs : BitVec 37
  tslot : BitVec 3
  deriving DecidableEq, Repr, Inhabited

structure BstF where
  g : Guard
  d : SReg
  a : Fin 16
  b : BstSrc
  deriving DecidableEq, Repr, Inhabited

structure BseqF where
  g : Guard
  d : SReg
  deriving DecidableEq, Repr, Inhabited

/-! ### Formats of rows 0x18 to 0x1B -/

structure WldF where
  g : Guard
  mf : MatFmt
  a : Fin 16
  disp : BitVec 18
  nact : BitVec 6
  sp : Bool
  deriving DecidableEq, Repr, Inhabited

/-- MMA and MMAS; `chk` is C of the .chk form. -/
structure MmaF where
  g : Guard
  mf : MatFmt
  chk : Option (Fin 16)
  d : Fin 16
  q : Fin 16
  need : BitVec 4
  m : MaskSrc
  deriving DecidableEq, Repr, Inhabited

structure MrecF where
  g : Guard
  mf : MatFmt
  d : Fin 16
  q : Fin 16
  need : BitVec 4
  m : MaskSrc
  deriving DecidableEq, Repr, Inhabited

structure MpldF where
  g : Guard
  a : Fin 16
  disp : BitVec 18
  deriving DecidableEq, Repr, Inhabited

structure TileF where
  g : Guard
  d : Fin 16
  deriving DecidableEq, Repr, Inhabited

/-- ALD and AST. -/
structure TileMemF where
  g : Guard
  d : Fin 16
  a : Fin 16
  disp : BitVec 18
  b : Option (Fin 16)
  deriving DecidableEq, Repr, Inhabited

structure AcvtF where
  g : Guard
  mf : MatFmt
  q : Fin 16
  need : BitVec 4
  a : Fin 16
  m : BitVec 6
  rm : RndField
  sat : Bool
  deriving DecidableEq, Repr, Inhabited

structure LadcfgF where
  g : Guard
  d : Fin 16
  r : BitVec 5
  micro : Bool
  deriving DecidableEq, Repr, Inhabited

structure LadldF where
  g : Guard
  d : Fin 16
  j : Fin 16
  deriving DecidableEq, Repr, Inhabited

structure LadwF where
  g : Guard
  v : Fin 32
  grp : Fin 4
  deriving DecidableEq, Repr, Inhabited

structure AttncfgF where
  g : Guard
  a : Fin 16
  dh : HeadDim
  inp : AttnIn
  out : AttnOut
  deriving DecidableEq, Repr, Inhabited

structure AttnF where
  g : Guard
  chk : Bool
  a : Fin 16
  c : Option (Fin 16)
  deriving DecidableEq, Repr, Inhabited

structure NbmvF where
  g : Guard
  mf : MatFmt
  chk : Bool
  d : Fin 16
  a : Fin 16
  b : Fin 16
  c : Option (Fin 16)
  deriving DecidableEq, Repr, Inhabited

/-! ### Data carried by device events -/

/-- The master of a control-space write: partition and unit class (07 R156). -/
structure Master where
  part : BitVec 6
  cls : BitVec 4
  deriving DecidableEq, Repr, Inhabited

/-- One end's proposal in retraining (24 Table 24.2). -/
structure TrainProposal where
  lanes : BitVec 16
  width : BitVec 5
  slow : Bool
  deriving DecidableEq, Repr, Inhabited

/-- What a patrol read of a line found (26 R476). -/
inductive ScrubResult where
  | clean | corrected | uncorrectable
  deriving DecidableEq, Repr, Inhabited

/-- The unit a strike report names (26 R469). -/
inductive StrikeUnit where
  | core (c : Nat)
  | shepherd (cl : Nat)
  | engine (cl : Nat) (e : Fin 4)
  | switch (n : Nat)
  deriving DecidableEq, Repr, Inhabited

/-- What the host answers to a remote access (07 R144). -/
inductive HostAnswer where
  | data (bytes : List Byte)
  | done
  | refusal
  deriving DecidableEq, Repr, Inhabited

/-- A first-stage or later image offered to the boot ROM (28 R494). -/
structure BootImage where
  bytes : List Byte
  /-- the public key offered with it -/
  key : List Byte
  signature : List Byte
  secver : Nat
  advances : Bool
  deriving DecidableEq, Repr, Inhabited

/-- What forms a Lea group: its packages in ring order (24 R460), and the folds whose package lists name them (02 R77). -/
structure LeaMembers where
  packages : List Nat
  folds : BitVec 16
  deriving DecidableEq, Repr, Inhabited

/-- One connection set-up request of a peer (28 Table 28.1). -/
structure UetOffer where
  aiFull : Bool
  reliable : Bool
  semanticOk : Bool
  congestionOk : Bool
  linkLayerOk : Bool
  security : Bool
  payload : Nat
  deriving DecidableEq, Repr, Inhabited

/-! ### The instructions and the device events -/

/-- One constructor for every row of spec/opcode_table.json. -/
inductive Instr where
  /-- ADD (R238). -/
  | add (f : Alu3)
  /-- ADDI (R238). -/
  | addi (f : AluI)
  /-- SUB (R238). -/
  | sub (f : Alu3)
  /-- MUL (R238). -/
  | mul (f : Alu3)
  /-- MULH (R238). -/
  | mulh (f : Alu3)
  /-- MULHZ (R238). -/
  | mulhz (f : Alu3)
  /-- DIV (R238). -/
  | div (f : Alu3)
  /-- DIVZ (R238). -/
  | divz (f : Alu3)
  /-- REM (R238). -/
  | rem (f : Alu3)
  /-- REMZ (R238). -/
  | remz (f : Alu3)
  /-- MIN (R238). -/
  | minI (f : Alu3)
  /-- MAX (R238). -/
  | maxI (f : Alu3)
  /-- MINZ (R238). -/
  | minz (f : Alu3)
  /-- MAXZ (R238). -/
  | maxz (f : Alu3)
  /-- AND (R238). -/
  | andI (f : Alu3)
  /-- OR (R238). -/
  | orI (f : Alu3)
  /-- XOR (R238). -/
  | xorI (f : Alu3)
  /-- ANDN (R238). -/
  | andn (f : Alu3)
  /-- SHL (R238). -/
  | shl (f : Alu3)
  /-- SHR (R238). -/
  | shr (f : Alu3)
  /-- SAR (R238). -/
  | sar (f : Alu3)
  /-- ROL (R238). -/
  | rol (f : Alu3)
  /-- ROR (R238). -/
  | ror (f : Alu3)
  /-- CLZ (R238). -/
  | clz (f : Alu2)
  /-- CTZ (R238). -/
  | ctz (f : Alu2)
  /-- POPC (R238). -/
  | popc (f : Alu2)
  /-- SEXT (R238). -/
  | sext (f : Alu2)
  /-- ZEXT (R238). -/
  | zext (f : Alu2)
  /-- BFX (R239). -/
  | bfx (f : BitField)
  /-- BFI (R239). -/
  | bfi (f : BitField)
  /-- LI (R241). -/
  | li (f : LiF)
  /-- LIH (R241). -/
  | lih (f : LihF)
  /-- LEA (R241). -/
  | lea (f : LeaF)
  /-- ADDA (R241). -/
  | adda (f : AddaF)
  /-- SUBA (R241). -/
  | suba (f : AddaF)
  /-- SELECT (R241). -/
  | select (f : SelectF)
  /-- CMP (R243). -/
  | cmp (f : CmpF)
  /-- CMPI (R243). -/
  | cmpi (f : CmpiF)
  /-- KAND (R244). -/
  | kand (f : K3)
  /-- KOR (R244). -/
  | kor (f : K3)
  /-- KXOR (R244). -/
  | kxor (f : K3)
  /-- KNOT (R244). -/
  | knot (f : K2)
  /-- KMOV (R244). -/
  | kmov (f : KmovF)
  /-- NOP (R250). -/
  | nop (f : NopF)
  /-- BR (R246). -/
  | br (f : BranchF)
  /-- JMP (R246). -/
  | jmp (f : RegF)
  /-- CALL (R247). -/
  | call (f : BranchF)
  /-- CALLI (R247). -/
  | calli (f : RegF)
  /-- RET (R248). -/
  | ret (f : Bare)
  /-- BRQ (R249). -/
  | brq (f : BranchF)
  /-- END (R251). -/
  | endStrand (f : Bare)
  /-- LOOP (R253). -/
  | loopR (f : LoopF)
  /-- LOOPI (R253). -/
  | loopi (f : LoopiF)
  /-- TRAP (R257). -/
  | trapI (f : TrapF)
  /-- ERET (R187). -/
  | eret (f : Bare)
  /-- BRK (R257). -/
  | brk (f : Bare)
  /-- GETC (R258). -/
  | getc (f : GetcF)
  /-- SETC (R258). -/
  | setc (f : SetcF)
  /-- TLBI_PAGE (R260). -/
  | tlbiPage (f : TlbiF)
  /-- TLBI_SPACE (R260). -/
  | tlbiSpace (f : TlbiF)
  /-- TLBI_PARTITION (R260). -/
  | tlbiPartition (f : Bare)
  /-- SCAN (R261). -/
  | scan (f : DstReg)
  /-- VADD (R272). -/
  | vadd (f : V3)
  /-- VSUB (R272). -/
  | vsub (f : V3)
  /-- VMUL (R272). -/
  | vmul (f : V3)
  /-- VFMA (R272). -/
  | vfma (f : V4)
  /-- VFMS (R272). -/
  | vfms (f : V4)
  /-- VNFMA (R272). -/
  | vnfma (f : V4)
  /-- VMIN (R273). -/
  | vmin (f : V3n)
  /-- VMAX (R273). -/
  | vmax (f : V3n)
  /-- VABS (R273). -/
  | vabs (f : V2)
  /-- VNEG (R273). -/
  | vneg (f : V2)
  /-- VAND (R274). -/
  | vand (f : V3n)
  /-- VOR (R274). -/
  | vor (f : V3n)
  /-- VXOR (R274). -/
  | vxor (f : V3n)
  /-- VSHL (R274). -/
  | vshl (f : V3n)
  /-- VSHR (R274). -/
  | vshr (f : V3n)
  /-- VSAR (R274). -/
  | vsar (f : V3n)
  /-- VDOT (R275). -/
  | vdot (f : VdotF)
  /-- VRED (R276). -/
  | vred (f : VredF)
  /-- VCMP (R277). -/
  | vcmp (f : VcmpF)
  /-- VSEL (R278). -/
  | vsel (f : VselF)
  /-- VPERM (R279). -/
  | vperm (f : VpermF)
  /-- VBCAST (R280). -/
  | vbcast (f : VbcastF)
  /-- VEXT (R280). -/
  | vext (f : VextF)
  /-- VINS (R280). -/
  | vins (f : VinsF)
  /-- VRCP (R282). -/
  | vrcp (f : V2)
  /-- VRSQ (R282). -/
  | vrsq (f : V2)
  /-- VEXP (R282). -/
  | vexp (f : V2)
  /-- VEXP2 (R282). -/
  | vexp2 (f : V2)
  /-- VLOG2 (R282). -/
  | vlog2 (f : V2)
  /-- VTANH (R282). -/
  | vtanh (f : V2)
  /-- VSIN (R282). -/
  | vsin (f : V2)
  /-- VCOS (R282). -/
  | vcos (f : V2)
  /-- VCVT (R284). -/
  | vcvt (f : VcvtF)
  /-- VPACK (R287). -/
  | vpack (f : VpackF)
  /-- VUNPK (R288). -/
  | vunpk (f : VunpkF)
  /-- VLOOP (R292). -/
  | vloop (f : VloopF)
  /-- VDRAIN (R293). -/
  | vdrain (f : Bare)
  /-- QCFG_BIND (R295). -/
  | qcfgBind (f : QcfgF)
  /-- QCFG_UNBIND (R295). -/
  | qcfgUnbind (f : QcfgF)
  /-- QLINK (R296). -/
  | qlink (f : QueueF)
  /-- QADV_P (R298). -/
  | qadvP (f : QadvF)
  /-- QADV_C (R298). -/
  | qadvC (f : QadvF)
  /-- QSTAT (R301). -/
  | qstat (f : QstatF)
  /-- KPUSH (R302). -/
  | kpush (f : KpushF)
  /-- LD (R311). -/
  | ld (f : LdF)
  /-- ST (R312). -/
  | st (f : StF)
  /-- LDQ (R313). -/
  | ldq (f : LdqF)
  /-- STQ (R313). -/
  | stq (f : LdqF)
  /-- VLD (R315). -/
  | vld (f : VmemF)
  /-- VST (R315). -/
  | vst (f : VmemF)
  /-- VLDS (R316). -/
  | vlds (f : VstrideF)
  /-- VSTS (R316). -/
  | vsts (f : VstrideF)
  /-- VGATH (R317). -/
  | vgath (f : VindexF)
  /-- VSCAT (R317). -/
  | vscat (f : VindexF)
  /-- VGATH_BC (R318). -/
  | vgathBc (f : VgathBcF)
  /-- AMO_ADD (R321). -/
  | amoAdd (f : AmoF)
  /-- AMO_MIN (R321). -/
  | amoMin (f : AmoF)
  /-- AMO_MAX (R321). -/
  | amoMax (f : AmoF)
  /-- AMO_AND (R321). -/
  | amoAnd (f : AmoF)
  /-- AMO_OR (R321). -/
  | amoOr (f : AmoF)
  /-- AMO_XOR (R321). -/
  | amoXor (f : AmoF)
  /-- AMO_SWAP (R321). -/
  | amoSwap (f : AmoF)
  /-- AMO_CAS (R321). -/
  | amoCas (f : CasF)
  /-- AMOF_ADD (R322). -/
  | amofAdd (f : AmofF)
  /-- FENCE (R323). -/
  | fence (f : FenceF)
  /-- FENCE_SYS_LEA (R323). -/
  | fenceSysLea (f : FenceLeaF)
  /-- CPY (R331). -/
  | cpy (f : CpyF)
  /-- CPY2D (R333). -/
  | cpy2d (f : CpyF)
  /-- REPLAY (R334). -/
  | replay (f : ReplayF)
  /-- CRED (R335). -/
  | cred (f : CredF)
  /-- ESEQ (R329). -/
  | eseq (f : EseqF)
  /-- RLQ_QUERY (R336). -/
  | rlqQuery (f : RlqQueryF)
  /-- RLQ_RELEASE (R336). -/
  | rlqRelease (f : RlqReleaseF)
  /-- MBIND (R337). -/
  | mbind (f : MbindF)
  /-- MUNBIND (R337). -/
  | munbind (f : RegF)
  /-- INVOKE (R345). -/
  | invoke (f : InvokeF)
  /-- INVOKEN (R345). -/
  | invoken (f : InvokenF)
  /-- SEND_MAILBOX (R346). -/
  | sendMailbox (f : SendMboxF)
  /-- SEND_ACTIVE (R346). -/
  | sendActive (f : SendActF)
  /-- RESOLVE_VALUE (R348). -/
  | resolveValue (f : ResolveF)
  /-- RESOLVE_OBJECT (R348). -/
  | resolveObject (f : Reg2)
  /-- BREAK (R349). -/
  | breakAnswer (f : BreakF)
  /-- WHEN (R352). -/
  | when (f : WhenF)
  /-- HSTAT (R351). -/
  | hstat (f : DstReg)
  /-- HGET (R351). -/
  | hget (f : HgetF)
  /-- HSYNC (R353). -/
  | hsync (f : RegF)
  /-- HRETIRE (R354). -/
  | hretire (f : RegF)
  /-- OBJNEW (R356). -/
  | objnew (f : ObjnewF)
  /-- OBJFREE (R357). -/
  | objfree (f : RegF)
  /-- MIGR (R358). -/
  | migr (f : RegF)
  /-- MIGRA (R358). -/
  | migra (f : MigraF)
  /-- HOLD (R359). -/
  | hold (f : HoldF)
  /-- RELEASE (R359). -/
  | release (f : HoldF)
  /-- TASK (R361). -/
  | task (f : TaskF)
  /-- TDEC (R362). -/
  | tdec (f : TdecF)
  /-- LAUNCH (R363). -/
  | launch (f : DstReg)
  /-- CANCEL (R364). -/
  | cancel (f : RegF)
  /-- TESTC (R365). -/
  | testc (f : TestcF)
  /-- PHTOK (R366). -/
  | phtok (f : RegD)
  /-- PHWAIT (R367). -/
  | phwait (f : PhwaitF)
  /-- TQCFG (R368). -/
  | tqcfg (f : RegF)
  /-- TNEXT (R369). -/
  | tnext (f : RegD)
  /-- FJOIN (R370). -/
  | fjoin (f : FoldF)
  /-- FLEAVE (R370). -/
  | fleave (f : FoldF)
  /-- FMEMB (R371). -/
  | fmemb (f : FmembF)
  /-- CBR_ALL (R372). -/
  | cbrAll (f : CbrF)
  /-- CBR_ANY (R372). -/
  | cbrAny (f : CbrF)
  /-- FSYNC (R373). -/
  | fsync (f : FoldF)
  /-- BST (R375). -/
  | bst (f : BstF)
  /-- BSEQ (R376). -/
  | bseq (f : BseqF)
  /-- WLD (R408). -/
  | wld (f : WldF)
  /-- WSWP (R387). -/
  | wswp (f : Bare)
  /-- GANG (R384). -/
  | gang (f : Bare)
  /-- MMA (R412). -/
  | mma (f : MmaF)
  /-- MMAS (R412). -/
  | mmas (f : MmaF)
  /-- MPLD (R411). -/
  | mpld (f : MpldF)
  /-- MREC (R412). -/
  | mrec (f : MrecF)
  /-- AZERO (R414). -/
  | azero (f : TileF)
  /-- AZERO_RELEASE (R414). -/
  | azeroRelease (f : TileF)
  /-- ALD (R415). -/
  | ald (f : TileMemF)
  /-- AST (R415). -/
  | ast (f : TileMemF)
  /-- ACVT (R416). -/
  | acvt (f : AcvtF)
  /-- LADCFG (R395). -/
  | ladcfg (f : LadcfgF)
  /-- LADPUSH (R396). -/
  | ladpush (f : TileF)
  /-- LADRD (R397). -/
  | ladrd (f : TileF)
  /-- LADLD (R397). -/
  | ladld (f : LadldF)
  /-- LADW (R420). -/
  | ladw (f : LadwF)
  /-- ATTNCFG (R421). -/
  | attncfg (f : AttncfgF)
  /-- ATTN (R422). -/
  | attn (f : AttnF)
  /-- NBMV (R424). -/
  | nbmv (f : NbmvF)
  -- device events (rows 193 to 314 of the table)
  /-- STRAND_SELECT (R68). -/
  | strandSelect (core : Nat)
  /-- ROUTINE_PROMOTION (R68). -/
  | routinePromotion (core slot : Nat)
  /-- STRAND_PARK_CONTEXT (R69). -/
  | strandParkContext (core idx : Nat)
  /-- INVOCATION_ARRIVAL (R52). -/
  | invocationArrival (i : Nat)
  /-- FORWARDED_INVOCATION (R49). -/
  | forwardedInvocation (i : Nat)
  /-- RESOLUTION_NOTICE (R44). -/
  | resolutionNotice (i : Nat)
  /-- BREAK_NOTICE (R58). -/
  | breakNotice (i : Nat)
  /-- RETIRE_NOTICE (R503). -/
  | retireNotice (i : Nat)
  /-- RETIRED_MARK_EXPIRY (R503). -/
  | retiredMarkExpiry (core n : Nat)
  /-- PENDING_ANSWER_TIMEOUT (R503). -/
  | pendingAnswerTimeout (core n : Nat)
  /-- WAITER_REGISTRATION (R56). -/
  | waiterRegistration (i : Nat)
  /-- REGISTRATION_RETRY (R56). -/
  | registrationRetry (i : Nat)
  /-- HSYNC_REQUEST (R353). -/
  | hsyncRequest (i : Nat)
  /-- HSYNC_ACK (R353). -/
  | hsyncAck (core idx : Nat)
  /-- HSYNC_TIMEOUT (R353). -/
  | hsyncTimeout (core idx : Nat)
  /-- MAILBOX_MESSAGE (R71). -/
  | mailboxMessage (i : Nat)
  /-- ACTIVE_MESSAGE (R346). -/
  | activeMessage (i : Nat)
  /-- TASK_RELEASE (R101). -/
  | taskRelease (i : Nat)
  /-- CONTEXT_MOVE (R358). -/
  | contextMove (i : Nat)
  /-- CONTEXT_RETURN (R358). -/
  | contextReturn (i : Nat)
  /-- FRAME_RELEASE (R64). -/
  | frameRelease (i : Nat)
  /-- EVENT_RECORD_TASK_DECREMENT (R100). -/
  | eventRecordTaskDecrement (cl : Nat)
  /-- EVENT_RECORD_LEVEL_DECREMENT (R362). -/
  | eventRecordLevelDecrement (cl : Nat)
  /-- EVENT_RECORD_FAULT_NOTICE (R99). -/
  | eventRecordFaultNotice (cl : Nat)
  /-- CANCEL_AT_SHEPHERD (R107). -/
  | cancelAtShepherd (cl : Nat)
  /-- LAUNCH_DISTRIBUTE (R87). -/
  | launchDistribute (cl : Nat)
  /-- PIPELINE_MESSAGE_ENQUEUE (R89). -/
  | pipelineMessageEnqueue (cl n : Nat)
  /-- PIPELINE_DRAIN (R92). -/
  | pipelineDrain (cl n : Nat)
  /-- DISTRIBUTOR_EVALUATION (R93). -/
  | distributorEvaluation (cl n stage : Nat)
  /-- CLUSTER_POWER_GATE (R97). -/
  | clusterPowerGate (cl : Nat)
  /-- CLUSTER_WAKE (R97). -/
  | clusterWake (cl : Nat)
  /-- PREEMPT_REQUEST (R102). -/
  | preemptRequest (core requester : Nat) (m : Master)
  /-- RESUME (R104). -/
  | resume (core : Nat) (m : Master)
  /-- TRAP_ENTRY (R179). -/
  | trapEntry (core idx : Nat)
  /-- STORE_DENIAL_RESPONSE (R157). -/
  | storeDenialResponse (i : Nat)
  /-- CORE_PARK (R196). -/
  | corePark (core : Nat)
  /-- PARKACT_RETRY (R197). -/
  | parkactRetry (core : Nat) (m : Master)
  /-- PARKACT_END (R197). -/
  | parkactEnd (core : Nat) (m : Master)
  /-- STRAND_WATCHDOG (R198). -/
  | strandWatchdog (core idx : Nat)
  /-- MACHINE_CHECK (R200). -/
  | machineCheck (core : Nat) (touched : BitVec 32)
  /-- ROUTINE_TABLE_WRITE (R67). -/
  | routineTableWrite (m : Master) (core slot : Nat) (bytes : List Byte)
  /-- EVENT_COUNTER_SELECT_WRITE (R481). -/
  | eventCounterSelectWrite (m : Master) (pa : Nat) (value : BitVec 64)
  /-- CONTROL_BLOCK_WRITE (R106). -/
  | controlBlockWrite (m : Master) (pa : Nat) (value : BitVec 64)
  /-- BRACKEN_SCAN_COMPLETE (R218). -/
  | brackenScanComplete (cl : Nat)
  /-- REMOTE_ACCESS_RESPONSE (R440). -/
  | remoteAccessResponse (i : Nat) (host : HostAnswer)
  /-- REMOTE_TIMEOUT (R158). -/
  | remoteTimeout (core idx : Nat)
  /-- FLIT_RESEND (R440). -/
  | flitResend (i : Nat)
  /-- REQUEST_FLIT_ARRIVAL (R441). -/
  | requestFlitArrival (i : Nat)
  /-- RETRY_RESPONSE (R442). -/
  | retryResponse (i : Nat)
  /-- DUPLICATE_WINDOW_RELEASE (R442). -/
  | duplicateWindowRelease (i : Nat)
  /-- FLIT_AGE_DISCARD (R439). -/
  | flitAgeDiscard (i : Nat)
  /-- SUB_BYTE_STORE (R171). -/
  | subByteStore (i : Nat)
  /-- CROSS_DIE_WRITE_APPLY (R163). -/
  | crossDieWriteApply (i : Nat)
  /-- AWAIT_REWALK (R319). -/
  | awaitRewalk (core idx : Nat)
  /-- PAGE_WAIT_TIMEOUT (R319). -/
  | pageWaitTimeout (core idx : Nat)
  /-- QUEUE_WAIT_TIMEOUT (R300). -/
  | queueWaitTimeout (core idx : Nat)
  /-- QUEUE_LINK_FLIT (R296). -/
  | queueLinkFlit (i : Nat)
  /-- QUEUE_UNLINK_FLIT (R295). -/
  | queueUnlinkFlit (i : Nat)
  /-- QUEUE_SLOT_WRITE_MESSAGE (R297). -/
  | queueSlotWriteMessage (i : Nat)
  /-- QUEUE_PUBLISH_MESSAGE (R298). -/
  | queuePublishMessage (i : Nat)
  /-- QUEUE_CREDIT_MESSAGE (R298). -/
  | queueCreditMessage (i : Nat)
  /-- ENGINE_COMMAND_START (R327). -/
  | engineCommandStart (core : Nat) (eng : Fin 4)
  /-- COPY_SECTOR (R466). -/
  | copySector (cl : Nat)
  /-- ENGINE_COMMAND_END (R330). -/
  | engineCommandEnd (core : Nat) (eng : Fin 4)
  /-- CRED_RESULT (R335). -/
  | credResult (i : Nat)
  /-- ATTN_BLOCK (R400). -/
  | attnBlock (cl : Nat)
  /-- ATTN_PAGE_REWALK (R402). -/
  | attnPageRewalk (cl : Nat)
  /-- ATTN_PAGE_TIMEOUT (R402). -/
  | attnPageTimeout (cl : Nat)
  /-- LADDER_MERGE (R396). -/
  | ladderMerge (core : Nat)
  /-- GANG_OPEN (R384). -/
  | gangOpen (cl : Nat) (row : Fin 4)
  /-- GANG_BARRIER_TIMEOUT (R385). -/
  | gangBarrierTimeout (cl : Nat) (row : Fin 4)
  /-- FOLD_CONTRIBUTION (R444). -/
  | foldContribution (i : Nat)
  /-- FOLD_OUTCOME (R80). -/
  | foldOutcome (i : Nat)
  /-- FOLD_LEAVE_RECORDED (R450). -/
  | foldLeaveRecorded (i : Nat)
  /-- FOLD_EJECT (R81). -/
  | foldEject (pkg : Nat) (fold : Fin 16) (core : Nat)
  /-- FOLD_OUTCOME_TIMEOUT (R81). -/
  | foldOutcomeTimeout (core idx : Nat)
  /-- STRIKE_REPORT (R470). -/
  | strikeReport (unit : StrikeUnit)
  /-- PATROL_SCRUB (R476). -/
  | patrolScrub (pa : Nat) (r : ScrubResult)
  /-- POISON_REPORT (R478). -/
  | poisonReport (pa : Nat)
  /-- PARTITION_FENCE (R480). -/
  | partitionFence (pkg : Nat) (part : BitVec 6)
  /-- TEARDOWN_RELEASE (R446). -/
  | teardownRelease (pkg : Nat) (part : BitVec 6)
  /-- LINK_FRAME_RECEIVE (R453). -/
  | linkFrameReceive (link : Nat) (crcOk : Bool)
  /-- LINK_ACK_SEND (R453). -/
  | linkAckSend (link : Nat)
  /-- LINK_ACK_RECEIVE (R454). -/
  | linkAckReceive (link : Nat)
  /-- LINK_REPLAY_REQUEST (R454). -/
  | linkReplayRequest (link : Nat)
  /-- LOSS_OF_LIGHT (R456). -/
  | lossOfLight (link : Nat) (lost : BitVec 16)
  /-- RESTRIPE_NOTICE (R456). -/
  | restripeNotice (link : Nat)
  /-- LASER_SOCKET_FAILURE (R468). -/
  | laserSocketFailure (pkg socket : Nat)
  /-- RESTRIPE_MARKER (R468). -/
  | restripeMarker (link : Nat)
  /-- LINK_RETRAIN (R458). -/
  | linkRetrain (link : Nat) (own far : TrainProposal)
  /-- RETRAIN_RETRY (R458). -/
  | retrainRetry (link : Nat)
  /-- LARK_RECEIVE (R461). -/
  | larkReceive (pkg : Nat)
  /-- LEA_OPERATION_RECEIVE (R462). -/
  | leaOperationReceive (pkg : Nat) (seq : Nat)
  /-- LARK_TIMEOUT (R464). -/
  | larkTimeout (pkg : Nat)
  /-- UET_RMA_WRITE (R488). -/
  | uetRmaWrite (pkg : Nat) (job : BitVec 24) (va : Word) (bytes : List Byte)
  /-- UET_RMA_READ (R488). -/
  | uetRmaRead (pkg : Nat) (job : BitVec 24) (va : Word) (len : Nat)
  /-- UET_MAILBOX_SEND (R489). -/
  | uetMailboxSend (pkg : Nat) (port : Fin 4) (job : BitVec 24) (ip : BitVec 128) (va : Word) (bytes : List Byte)
  /-- MGMT_APPLY_CONFIG (R493). -/
  | mgmtApplyConfig (pkg : Nat) (body signature : List Byte)
  /-- MGMT_REMOVE_PARTITION (R493). -/
  | mgmtRemovePartition (pkg : Nat) (part : BitVec 6)
  /-- MGMT_ATTESTATION_QUOTE (R496). -/
  | mgmtAttestationQuote (pkg : Nat) (nonce : List Byte) (part : BitVec 6)
  /-- MGMT_SET_POWER_CAP (R498). -/
  | mgmtSetPowerCap (pkg : Nat) (die : Fin 4) (watts : BitVec 16)
  /-- RESET_BOOT (R494). -/
  | resetBoot (pkg : Nat) (bank0 bank1 : BootImage)
  /-- POWER_TELEMETRY_REFRESH (R497). -/
  | powerTelemetryRefresh (pkg : Nat) (words : List (BitVec 32))
  /-- BUS_VOLTAGE_FAULT (R497). -/
  | busVoltageFault (pkg millivolts : Nat)
  /-- BOILING_LIMIT_RENEWAL (R498). -/
  | boilingLimitRenewal (pkg : Nat) (die : Fin 4) (watts : Nat)
  /-- BOILING_LIMIT_LAPSE (R498). -/
  | boilingLimitLapse (pkg : Nat) (die : Fin 4)
  /-- THERMAL_THROTTLE (R499). -/
  | thermalThrottle (pkg : Nat) (die : Fin 4) (centi : Nat)
  /-- THERMAL_STOP (R499). -/
  | thermalStop (pkg : Nat) (die : Fin 4) (centi : Nat)
  /-- CONNECTOR_CHECK (R500). -/
  | connectorCheck (pkg conn : Nat) (value baseline : Nat) (wmask : BitVec 16)
  /-- DEGRADATION_REPORT (R500). -/
  | degradationReport (pkg conn : Nat)
  /-- ULTRA_ETHERNET_PORT_DOWN (R486). -/
  | ultraEthernetPortDown (pkg : Nat) (port : Fin 4)
  /-- ULTRA_ETHERNET_PORT_UP (R490). -/
  | ultraEthernetPortUp (pkg : Nat) (port : Fin 4)
  /-- UET_CONNECTION_SETUP (R485). -/
  | uetConnectionSetup (pkg : Nat) (port : Fin 4) (offer : UetOffer)
  /-- MGMT_UNKNOWN_REQUEST (R491). -/
  | mgmtUnknownRequest (pkg : Nat) (code : BitVec 64)
  /-- SIGNED_IMAGE_VIA_ULTRA_ETHERNET (R494). -/
  | signedImageViaUltraEthernet (pkg : Nat) (image : BootImage)
  /-- BUS_VOLTAGE_RECOVERY (R497). -/
  | busVoltageRecovery (pkg millivolts : Nat)
  /-- THERMAL_THROTTLE_END (R499). -/
  | thermalThrottleEnd (pkg : Nat) (die : Fin 4) (centi : Nat)
  /-- FOLD_JOIN_RECORDED (R370). -/
  | foldJoinRecorded (i : Nat)
  /-- LEA_SEQUENCE_TIMEOUT (R375). -/
  | leaSequenceTimeout (core idx : Nat)
  /-- LARK_TRANSMITTER_RESTORE (R464). -/
  | larkTransmitterRestore (pkg : Nat)
  /-- DOMAIN_FORMATION (R19). -/
  | domainFormation (numbers : List (Nat × Nat))
  /-- LEA_GROUP_FORMATION (R460). -/
  | leaGroupFormation (group : BitVec 16) (members : LeaMembers)
  deriving DecidableEq, Repr, Inhabited

end Sys2Proof
end

