-- ==== Sys2Proof/WellFormed.lean ====
section
/-! DEFINITION. Which instructions are instructions: the conditions of the entries of chapters 12, 14, 15, 17 and 20
that a scanner decides from the slot alone under check 6 of Table 10.7, and guard 1000 (10 R211, check 7).
Conditions that the types of Syntax.lean already hold (operand classes, enumerated modifiers) are not repeated. -/

namespace Sys2Proof

/-- Width of a lane in bits (14 Table 14.1). -/
def LaneTy.width : LaneTy → Nat
  | .i8 => 8 | .i16 => 16 | .i32 => 32 | .i64 => 64
  | .z8 => 8 | .z16 => 16 | .z32 => 32 | .z64 => 64
  | .fp32 => 32 | .fp16 => 16 | .bf16 => 16 | .e4m3 => 8 | .e5m2 => 8 | .e2m1 => 4
  | .db8 => 8 | .db4 => 4

/-- Lanes of a 128-bit value (14 Table 14.1). -/
def LaneTy.lanes (t : LaneTy) : Nat := 128 / t.width

/-- Signed integer lane types. -/
def LaneTy.isSigned : LaneTy → Bool
  | .i8 | .i16 | .i32 | .i64 => true
  | _ => false

/-- Unsigned integer lane types. -/
def LaneTy.isUnsigned : LaneTy → Bool
  | .z8 | .z16 | .z32 | .z64 => true
  | _ => false

/-- Integer lane types, codes 0x00 to 0x07. -/
def LaneTy.isInt (t : LaneTy) : Bool := t.isSigned || t.isUnsigned

/-- Block element types, codes 0x0E and 0x0F. -/
def LaneTy.isBlock : LaneTy → Bool
  | .db8 | .db4 => true
  | _ => false

/-- Floating-point lane types, codes 0x08 to 0x0D. -/
def LaneTy.isFloat (t : LaneTy) : Bool := !t.isInt && !t.isBlock

/-- Lane types with which a small immediate operand is legal (14 Table 14.4). -/
def LaneTy.immLegal : LaneTy → Bool
  | .e4m3 | .e5m2 | .e2m1 | .db8 | .db4 => false
  | _ => true

/-- Guard 1000 is not an instruction (10 R211). -/
def Guard.ok (g : Guard) : Bool := !(g.neg && g.k == 0)

/-- A need runs from 1 to 15 (10 R213). -/
def needOk (n : BitVec 4) : Bool := n != 0

def VSrc.ok (t : LaneTy) : VSrc → Bool
  | .q _ n => needOk n
  | .imm _ => t.immLegal
  | _ => true

def VReg.ok : VReg → Bool
  | .q _ n => needOk n
  | .v _ => true

/-- A C source: never a queue (10 R213). -/
def VSrc.okC (t : LaneTy) : VSrc → Bool
  | .q _ _ => false
  | .imm _ => t.immLegal
  | _ => true

def BstSrc.ok : BstSrc → Bool
  | .q _ n => needOk n
  | _ => true

/-- SC is 0 to 4, and zero without an index (15 R306, R307). -/
def MemOp.ok (m : MemOp) : Bool :=
  decide (m.sc.toNat ≤ 4) && (m.b.isSome || m.sc == 0)

/-- An s register named as a pair is s0 to s14 (15 R326). -/
def pairOk : Option (Fin 16) → Bool
  | none => true
  | some r => decide (r.val ≤ 14)

/-- sB..B+3 needs B from s0 to s12 (17 R342). -/
def ArgRegs.ok : ArgRegs → Bool
  | .base r => decide (r.val ≤ 12)
  | .zr => true

/-- M of the matrix entries when B is none: 1 to 32 in six bits (20 Table 20.1). -/
def mCountOk : MaskSrc → Bool
  | .s _ => true
  | .mask m => decide (1 ≤ m.toNat) && decide (m.toNat ≤ 32)

/-- A loop's end lies beyond the slot after the loop instruction (12 R252); `pos` is the slot's index in its line, and
the comparison is of the offsets from that line. -/
def loopEndOk (pos : Nat) (lineOfs : Int) (slot : Nat) : Bool :=
  decide ((if pos < 4 then (pos : Int) + 1 else 8) < lineOfs * 8 + slot)

def fpRmOk (t : LaneTy) (rm : RndField) : Bool := t.isFloat || rm == .fctl

/-- Z of rows 0x00 and 0x01 (12 Table 12.4): `none` where both values are legal. -/
def Alu3.ok (f : Alu3) (z : Option Bool) (satOk : Bool) : Bool :=
  f.g.ok && (z.all (· == f.z)) && (satOk || !f.sat)

def V3.ok (f : V3) : Bool :=
  f.g.ok && !f.lt.isBlock && f.d.ok && f.a.ok f.lt && f.b.ok f.lt && fpRmOk f.lt f.rm

def V4.ok (f : V4) : Bool :=
  f.g.ok && !f.lt.isBlock && f.d.ok && f.a.ok f.lt && f.b.ok f.lt && f.c.okC f.lt && fpRmOk f.lt f.rm

def V3n.ok (f : V3n) (intOnly : Bool) : Bool :=
  f.g.ok && !f.lt.isBlock && (!intOnly || f.lt.isInt) && f.d.ok && f.a.ok f.lt && f.b.ok f.lt

/-- VABS and VNEG: no unsigned type, SAT only with an integer type (14 R272). -/
def V2.okAbs (f : V2) : Bool :=
  f.g.ok && !f.lt.isBlock && !f.lt.isUnsigned && (f.lt.isInt || !f.sat) && f.d.ok && f.a.ok f.lt

/-- Row 0x0D: FP32, FP16 and BF16 (14 R281). -/
def V2.okSpecial (f : V2) : Bool :=
  f.g.ok && (f.lt == .fp32 || f.lt == .fp16 || f.lt == .bf16) && f.d.ok && f.a.ok f.lt

/-- Products a destination lane, for VDOT's legal source types (14 R275). -/
def LaneTy.dotGroup : LaneTy → Option Nat
  | .i8 | .z8 => some 4
  | .i16 | .z16 => some 2
  | .fp16 | .bf16 => some 2
  | .e4m3 | .e5m2 => some 4
  | .e2m1 => some 8
  | _ => none

def VdotF.ok (f : VdotF) : Bool :=
  f.g.ok && f.lt.dotGroup.isSome && f.d.ok && f.a.ok f.lt && f.b.ok f.lt && fpRmOk f.lt f.rm &&
  (match f.c with
   | none => true
   | some (.q _ _) => false
   | some (.imm _) => f.lt.isInt
   | some _ => true)

def VredF.ok (f : VredF) : Bool :=
  f.g.ok && !f.lt.isBlock && f.d.ok && f.a.ok f.lt &&
  (f.rm == .fctl || (f.lt.isFloat && f.op == .add)) && (!f.sat || f.op == .add)

/-- The conditions 0 to 9 that VCMP takes, and those with B none (12 Table 12.7, 14 R277). -/
def Cond.isZero : Cond → Bool
  | .ltz | .lez | .gtz | .gez => true
  | _ => false

def Cond.isUnsigned : Cond → Bool
  | .ltu | .leu | .gtu | .geu => true
  | _ => false

def VcmpF.ok (f : VcmpF) : Bool :=
  f.g.ok && !f.lt.isBlock && f.lt != .e2m1 && f.a.ok f.lt && !f.cond.isUnsigned &&
  (match f.b with
   | none => f.cond.isZero
   | some b => !f.cond.isZero && b.ok f.lt)

def VselF.ok (f : VselF) : Bool :=
  f.g.ok && !f.lt.isBlock && f.d.ok && f.a.ok f.lt && f.b.ok f.lt

def VpermF.ok (f : VpermF) : Bool :=
  f.g.ok && f.d.ok && f.a.ok .i8 && f.b.ok

def VbcastF.ok (f : VbcastF) : Bool :=
  f.g.ok && !f.lt.isBlock && f.d.ok && f.a.ok f.lt && decide (f.idx.toNat < f.lt.lanes) &&
  (match f.a with
   | .v _ | .q _ _ => true
   | _ => f.idx == 0)

def VextF.ok (f : VextF) : Bool :=
  f.g.ok && !f.lt.isBlock && f.a.ok && decide (f.idx.toNat < f.lt.lanes)

def VinsF.ok (f : VinsF) : Bool :=
  f.g.ok && !f.lt.isBlock && decide (f.idx.toNat < f.lt.lanes) &&
  (match f.a with
   | .s _ => true
   | .imm _ => f.lt.immLegal)

def VcvtF.ok (f : VcvtF) : Bool :=
  f.g.ok && f.dt != f.st && !(f.dt.isBlock && f.st.isBlock) && f.a.ok f.st &&
  (f.c.isSome == (f.dt.isBlock || f.st.isBlock)) &&
  decide (f.pos.toNat < max (f.dt.lanes / f.st.lanes) (f.st.lanes / f.dt.lanes))

def VpackF.ok (f : VpackF) : Bool :=
  f.g.ok && !f.dt.isBlock && !f.st.isBlock && f.dt.lanes == 2 * f.st.lanes && f.a.ok f.st && f.b.ok f.st

def VunpkF.ok (f : VunpkF) : Bool :=
  f.g.ok && !f.dt.isBlock && !f.st.isBlock && f.st.lanes == 2 * f.dt.lanes && f.a.ok f.st &&
  decide (f.d.val ≤ 30)

def VmemF.ok (f : VmemF) : Bool := f.g.ok && !f.lt.isBlock && f.d.ok && f.m.ok
def VstrideF.ok (f : VstrideF) : Bool := f.g.ok && !f.lt.isBlock && f.d.ok
def VindexF.ok (f : VindexF) : Bool :=
  f.g.ok && !f.lt.isBlock && f.d.ok && f.idx.ok && decide (f.sc.toNat ≤ 4)

/-- Z of LD with a width of 8 or 16 bytes is not an instruction (15 R310). -/
def LdF.ok (f : LdF) : Bool :=
  f.g.ok && f.m.ok && (!f.z || (f.w != .d && f.w != .a))

/-- ST: .sat up to four bytes, Z only with .sat (15 R310). -/
def StF.ok (f : StF) : Bool :=
  f.g.ok && f.m.ok && (!f.z || f.sat) && (!f.sat || (f.w != .d && f.w != .a))

def CredF.ok (f : CredF) : Bool :=
  f.g.ok && pairOk f.c &&
  (match f.op with
   | .and | .or | .xor => f.fmt == .i32 || f.fmt == .i64
   | _ => true)

/-- RESOLVE's length and value registers (17 R343). -/
def ResolveF.ok (f : ResolveF) : Bool :=
  f.g.ok && decide (f.len.toNat ≤ 32) &&
  (match f.b with
   | .zr => f.len == 0
   | .s r => f.len != 0 && decide (r.val + (f.len.toNat + 7) / 8 ≤ 16))

/-- SEL of FMEMB (17 Table 17.4). -/
def selOk (sel : BitVec 6) : Bool :=
  decide (sel.toNat ≤ 6) || (decide (8 ≤ sel.toNat) && decide (sel.toNat ≤ 39))

/-- The matrix formats that may be sparse: MF 000 to 101 (20 R405). -/
def MatFmt.sparseOk : MatFmt → Bool
  | .fp16 | .bf16 => false
  | _ => true

def MmaF.ok (f : MmaF) (sparse : Bool) : Bool :=
  f.g.ok && needOk f.need && mCountOk f.m && (!sparse || f.mf.sparseOk)

/-- Whether `i`, in slot `pos` of its line, is an instruction (10 R209, check 6 and check 7). A device event is no
instruction of a slot. -/
def Instr.wf (pos : Nat) : Instr → Bool
  | .add f | .sub f | .mul f => f.ok none true
  | .addi f => f.g.ok
  | .mulh f => f.ok (some false) false
  | .mulhz f => f.ok (some true) false
  | .div f | .rem f => f.ok (some false) true
  | .divz f | .remz f => f.ok (some true) true
  | .minI f | .maxI f => f.ok (some false) false
  | .minz f | .maxz f => f.ok (some true) false
  | .andI f | .orI f | .xorI f | .andn f | .shl f | .shr f | .sar f | .rol f | .ror f => f.ok none false
  | .clz f | .ctz f | .popc f => f.g.ok
  | .sext f | .zext f => f.g.ok && f.w != .w64
  | .bfx f => f.g.ok && decide (1 ≤ f.len.toNat) && decide (f.pos.toNat + f.len.toNat ≤ 64)
  | .bfi f => f.g.ok && !f.z && decide (1 ≤ f.len.toNat) && decide (f.pos.toNat + f.len.toNat ≤ 64)
  | .li f => f.g.ok
  | .lih f => f.g.ok
  | .lea f => f.g.ok && decide (f.scale.toNat ≤ 4)
  | .adda f | .suba f => f.g.ok
  | .select f => f.g.ok
  | .cmp f => f.g.ok && (f.cond.isZero == f.b.isNone)
  | .cmpi f => f.g.ok && !f.cond.isZero
  | .kand f | .kor f | .kxor f => f.g.ok
  | .knot f => f.g.ok
  | .kmov f => f.g.ok &&
      (match f.d, f.a with
       | .k _, _ => true
       | _, .k _ => true
       | _, _ => false)
  | .nop f => f.g.ok
  | .br f | .call f | .brq f => f.g.ok
  | .jmp f | .calli f => f.g.ok
  | .ret f | .endStrand f => f.g.ok
  | .loopR f => f.g.ok && loopEndOk pos f.ofs.toInt f.tslot.toNat
  | .loopi f => f.g.ok && decide (f.eslot.toNat ≤ 4) && loopEndOk pos f.lofs.toInt f.eslot.toNat
  | .trapI f => f.g.ok
  | .eret f | .brk f | .tlbiPartition f => f.g.ok
  | .getc f => f.g.ok
  | .setc f => f.g.ok &&
      (match f.reg with
       | .status | .cause | .fctl | .fstat | .seed => true
       | _ => false)
  | .tlbiPage f | .tlbiSpace f => f.g.ok
  | .scan f => f.g.ok
  | .vadd f | .vsub f | .vmul f => f.ok
  | .vfma f | .vfms f | .vnfma f => f.ok
  | .vmin f | .vmax f => f.ok false
  | .vabs f | .vneg f => f.okAbs
  | .vand f | .vor f | .vxor f => f.ok false
  | .vshl f | .vshr f | .vsar f => f.ok true
  | .vdot f => f.ok
  | .vred f => f.ok
  | .vcmp f => f.ok
  | .vsel f => f.ok
  | .vperm f => f.ok
  | .vbcast f => f.ok
  | .vext f => f.ok
  | .vins f => f.ok
  | .vrcp f | .vrsq f | .vexp f | .vexp2 f | .vlog2 f | .vtanh f | .vsin f | .vcos f => f.okSpecial
  | .vcvt f => f.ok
  | .vpack f => f.ok
  | .vunpk f => f.ok
  | .vloop f => f.g.ok && f.n != 0
  | .vdrain f => f.g.ok
  | .qcfgBind f | .qcfgUnbind f => f.g.ok
  | .qlink f => f.g.ok
  | .qadvP f | .qadvC f => f.g.ok &&
      (match f.n with
       | .s _ => true
       | .imm v => decide (1 ≤ v.toNat) && decide (v.toNat ≤ 15))
  | .qstat f => f.g.ok
  | .kpush f => f.g.ok && f.mode != 3
  | .ld f => f.ok
  | .st f => f.ok
  | .ldq f | .stq f => f.g.ok && needOk f.need && f.m.ok
  | .vld f | .vst f => f.ok
  | .vlds f | .vsts f => f.ok
  | .vgath f | .vscat f => f.ok
  | .vgathBc f => f.g.ok && needOk f.need
  | .amoAdd f | .amoMin f | .amoMax f | .amoAnd f | .amoOr f | .amoXor f | .amoSwap f => f.g.ok
  | .amoCas f => f.g.ok
  | .amofAdd f => f.g.ok
  | .fence f => f.g.ok
  | .fenceSysLea f => f.g.ok
  | .cpy f => f.g.ok && pairOk f.c
  | .cpy2d f => f.g.ok && pairOk f.c && decide (f.b.val ≤ 14)
  | .replay f => f.g.ok && pairOk f.c
  | .cred f => f.ok
  | .eseq f => f.g.ok
  | .rlqQuery f => f.g.ok
  | .rlqRelease f => f.g.ok
  | .mbind f => f.g.ok
  | .munbind f => f.g.ok
  | .invoke f => f.g.ok && f.b.ok
  | .invoken f => f.g.ok && f.b.ok
  | .sendMailbox f => f.g.ok && f.b.ok
  | .sendActive f => f.g.ok && f.b.ok
  | .resolveValue f => f.ok
  | .resolveObject f => f.g.ok
  | .breakAnswer f => f.g.ok && f.cause != 0
  | .when f => f.g.ok
  | .hstat f => f.g.ok
  | .hget f => f.g.ok
  | .hsync f | .hretire f | .objfree f | .migr f | .cancel f | .tqcfg f => f.g.ok
  | .objnew f => f.g.ok
  | .migra f => f.g.ok
  | .hold f | .release f => f.g.ok
  | .task f => f.g.ok
  | .tdec f => f.g.ok &&
      (match f.n with
       | .s _ => true
       | .imm v => decide (1 ≤ v.toNat) && decide (v.toNat ≤ 15))
  | .launch f => f.g.ok
  | .testc f => f.g.ok
  | .phtok f => f.g.ok
  | .phwait f => f.g.ok
  | .tnext f => f.g.ok && f.d != f.a
  | .fjoin f | .fleave f | .fsync f => f.g.ok
  | .fmemb f => f.g.ok && selOk f.sel
  | .cbrAll f | .cbrAny f => f.g.ok
  | .bst f => f.g.ok && f.b.ok
  | .bseq f => f.g.ok
  | .wld f => f.g.ok && decide (1 ≤ f.nact.toNat) && decide (f.nact.toNat ≤ 32) && (!f.sp || f.mf.sparseOk)
  | .wswp f | .gang f => f.g.ok
  | .mma f => f.ok false
  | .mmas f => f.ok true
  | .mpld f => f.g.ok
  | .mrec f => f.g.ok && needOk f.need && mCountOk f.m
  | .azero f | .azeroRelease f | .ladpush f | .ladrd f => f.g.ok
  | .ald f | .ast f => f.g.ok
  | .acvt f => f.g.ok && needOk f.need && decide (1 ≤ f.m.toNat) && decide (f.m.toNat ≤ 32)
  | .ladcfg f => f.g.ok
  | .ladld f => f.g.ok
  | .ladw f => f.g.ok
  | .attncfg f => f.g.ok
  | .attn f => f.g.ok && pairOk f.c
  | .nbmv f => f.g.ok && decide (f.b.val ≤ 14) && pairOk f.c
  | _ => false

/-- A well-formed instruction of slot `pos`. -/
abbrev WellFormed (pos : Nat) (i : Instr) : Prop := i.wf pos = true

end Sys2Proof
end

