-- ==== Sys2Proof/Decode.lean ====
section
/-! DEFINITION. The slot of Table 10.3 and its two readings: `encodeSlot`, written from the encoding tables of
chapters 10, 12, 14, 15, 17 and 20, and `decode`, which takes the fields out of a slot and accepts it only when every
field the entry does not use holds its unused value (10 R209), that is when encoding what it read gives the slot
again, and when the entry's conditions hold (WellFormed.lean). -/

namespace Sys2Proof

/-! ### The slot (10 Table 10.3) -/

structure Slot where
  opc : BitVec 10
  md : BitVec 6
  gneg : BitVec 1
  gk : BitVec 3
  d : BitVec 8
  a : BitVec 8
  b : BitVec 8
  dn : BitVec 4
  an : BitVec 4
  bn : BitVec 4
  tail : BitVec 40
  deriving DecidableEq, Repr, Inhabited

def Slot.pack (s : Slot) : SlotBits :=
  s.opc ++ s.md ++ s.gneg ++ s.gk ++ s.d ++ s.a ++ s.b ++ s.dn ++ s.an ++ s.bn ++ s.tail

def Slot.unpack (w : SlotBits) : Slot :=
  { opc := w.extractLsb' 86 10, md := w.extractLsb' 80 6, gneg := w.extractLsb' 79 1, gk := w.extractLsb' 76 3,
    d := w.extractLsb' 68 8, a := w.extractLsb' 60 8, b := w.extractLsb' 52 8, dn := w.extractLsb' 48 4,
    an := w.extractLsb' 44 4, bn := w.extractLsb' 40 4, tail := w.extractLsb' 0 40 }

/-- Why a slot is not an instruction: the checks 4 to 7 of Table 10.7. -/
inductive Reject where
  | opcode | side | fields | guard
  deriving DecidableEq, Repr, Inhabited

/-! ### Operand specifiers (10 R212, Tables 10.4 and 10.5) -/

abbrev Spec := BitVec 8

def specS (i : Fin 16) : Spec := BitVec.ofNat 8 i.val
def specV (i : Fin 32) : Spec := BitVec.ofNat 8 (0x20 + i.val)
def specQ (i : Fin 16) : Spec := BitVec.ofNat 8 (0x40 + i.val)
def specK (i : Fin 8) : Spec := BitVec.ofNat 8 (0x60 + i.val)
def specA (i : Fin 16) : Spec := BitVec.ofNat 8 (0x80 + i.val)
def specZr : Spec := 0xA7#8
def specPcn : Spec := 0xA8#8
def specImm (v : BitVec 5) : Spec := 6#3 ++ v
def specNone : Spec := 0xE0#8

def getS (b : Spec) : Fin 16 := Fin.ofNat 16 b.toNat
def getV (b : Spec) : Fin 32 := Fin.ofNat 32 b.toNat
def getK (b : Spec) : Fin 8 := Fin.ofNat 8 b.toNat
def getImm (b : Spec) : BitVec 5 := b.extractLsb' 0 5
/-- The class bits [7:5]. -/
def specClass (b : Spec) : Nat := b.toNat / 32

def LoopReg.code : LoopReg → BitVec 8
  | .lb0 => 0xA0#8 | .le0 => 0xA1#8 | .lc0 => 0xA2#8 | .lb1 => 0xA3#8 | .le1 => 0xA4#8 | .lc1 => 0xA5#8

def SSrc.spec : SSrc → Spec
  | .s i => specS i
  | .imm v => specImm v
  | .zr => specZr
  | .loop r => r.code
  | .pcn => specPcn

def getSSrc (b : Spec) : SSrc :=
  match specClass b with
  | 0 => .s (getS b)
  | 6 => .imm (getImm b)
  | _ =>
    match b.toNat with
    | 0xA0 => .loop .lb0
    | 0xA1 => .loop .le0
    | 0xA2 => .loop .lc0
    | 0xA3 => .loop .lb1
    | 0xA4 => .loop .le1
    | 0xA5 => .loop .lc1
    | 0xA8 => .pcn
    | _ => .zr

def SReg.spec : SReg → Spec
  | .s i => specS i
  | .zr => specZr
def getSReg (b : Spec) : SReg := if specClass b = 0 then .s (getS b) else .zr

def SData.spec : SData → Spec
  | .s i => specS i
  | .zr => specZr
  | .imm v => specImm v
def getSData (b : Spec) : SData :=
  match specClass b with
  | 0 => .s (getS b)
  | 6 => .imm (getImm b)
  | _ => .zr

def SCount.spec : SCount → Spec
  | .s i => specS i
  | .imm v => specImm v
def getSCount (b : Spec) : SCount := if specClass b = 0 then .s (getS b) else .imm (getImm b)

def VSrc.spec : VSrc → Spec
  | .v i => specV i
  | .q i _ => specQ i
  | .s i => specS i
  | .imm x => specImm x
  | .zr => specZr
def VSrc.need : VSrc → BitVec 4
  | .q _ n => n
  | _ => 0
def getVSrc (b : Spec) (n : BitVec 4) : VSrc :=
  match specClass b with
  | 0 => .s (getS b)
  | 1 => .v (getV b)
  | 2 => .q (getS b) n
  | 6 => .imm (getImm b)
  | _ => .zr

def VReg.spec : VReg → Spec
  | .v i => specV i
  | .q i _ => specQ i
def VReg.need : VReg → BitVec 4
  | .q _ n => n
  | _ => 0
def getVReg (b : Spec) (n : BitVec 4) : VReg := if specClass b = 2 then .q (getS b) n else .v (getV b)

def BstSrc.spec : BstSrc → Spec
  | .s i => specS i
  | .v i => specV i
  | .q i _ => specQ i
def BstSrc.need : BstSrc → BitVec 4
  | .q _ n => n
  | _ => 0
def getBstSrc (b : Spec) (n : BitVec 4) : BstSrc :=
  match specClass b with
  | 1 => .v (getV b)
  | 2 => .q (getS b) n
  | _ => .s (getS b)

def KSrc.spec : KSrc → Spec
  | .k i => specK i
  | .s i => specS i
  | .zr => specZr
def getKSrc (b : Spec) : KSrc :=
  match specClass b with
  | 3 => .k (getK b)
  | 0 => .s (getS b)
  | _ => .zr

def ArgRegs.spec : ArgRegs → Spec
  | .base i => specS i
  | .zr => specZr
def getArgRegs (b : Spec) : ArgRegs := if specClass b = 0 then .base (getS b) else .zr

/-- A field of one class, or none. -/
def optSpec {α : Type} (f : α → Spec) : Option α → Spec
  | some x => f x
  | none => specNone
def getOpt {α : Type} (f : Spec → α) (b : Spec) : Option α := if b = specNone then none else some (f b)

/-! ### Modifier codes -/

def IWidth.code : IWidth → BitVec 2
  | .w64 => 0 | .w32 => 1 | .w16 => 2 | .w8 => 3
def getIWidth (b : BitVec 2) : IWidth :=
  match b.toNat with
  | 0 => .w64 | 1 => .w32 | 2 => .w16 | _ => .w8

def Cond.code : Cond → BitVec 4
  | .eq => 0 | .ne => 1 | .lt => 2 | .le => 3 | .gt => 4 | .ge => 5 | .ltz => 6 | .lez => 7 | .gtz => 8
  | .gez => 9 | .ltu => 10 | .leu => 11 | .gtu => 12 | .geu => 13
def getCond (b : BitVec 4) : Cond :=
  match b.toNat with
  | 0 => .eq | 1 => .ne | 2 => .lt | 3 => .le | 4 => .gt | 5 => .ge | 6 => .ltz | 7 => .lez | 8 => .gtz
  | 9 => .gez | 10 => .ltu | 11 => .leu | 12 => .gtu | _ => .geu

def CtlReg.code : CtlReg → BitVec 4
  | .status => 0 | .cause => 1 | .epc => 2 | .eva => 3 | .fctl => 4 | .fstat => 5 | .tid => 6 | .core => 7
  | .part => 8 | .lseq => 9 | .fold => 10 | .ladstep => 11 | .seed => 12
def getCtlReg (b : BitVec 4) : CtlReg :=
  match b.toNat with
  | 0 => .status | 1 => .cause | 2 => .epc | 3 => .eva | 4 => .fctl | 5 => .fstat | 6 => .tid | 7 => .core
  | 8 => .part | 9 => .lseq | 10 => .fold | 11 => .ladstep | _ => .seed

def LaneTy.code : LaneTy → BitVec 5
  | .i8 => 0 | .i16 => 1 | .i32 => 2 | .i64 => 3 | .z8 => 4 | .z16 => 5 | .z32 => 6 | .z64 => 7 | .fp32 => 8
  | .fp16 => 9 | .bf16 => 10 | .e4m3 => 11 | .e5m2 => 12 | .e2m1 => 13 | .db8 => 14 | .db4 => 15
def getLaneTy (b : BitVec 5) : LaneTy :=
  match b.toNat with
  | 0 => .i8 | 1 => .i16 | 2 => .i32 | 3 => .i64 | 4 => .z8 | 5 => .z16 | 6 => .z32 | 7 => .z64 | 8 => .fp32
  | 9 => .fp16 | 10 => .bf16 | 11 => .e4m3 | 12 => .e5m2 | 13 => .e2m1 | 14 => .db8 | _ => .db4

def RndField.code : RndField → BitVec 3
  | .fctl => 0 | .rn => 1 | .rz => 2 | .rd => 3 | .ru => 4 | .rs => 5
def getRnd (b : BitVec 3) : RndField :=
  match b.toNat with
  | 0 => .fctl | 1 => .rn | 2 => .rz | 3 => .rd | 4 => .ru | _ => .rs

def Scope.code : Scope → BitVec 3
  | .core => 0 | .clu => 1 | .die => 2 | .pkg => 3 | .sys => 4
def getScope (b : BitVec 3) : Scope :=
  match b.toNat with
  | 0 => .core | 1 => .clu | 2 => .die | 3 => .pkg | _ => .sys

def MWidth.code : MWidth → BitVec 3
  | .b => 0 | .h => 1 | .w => 2 | .d => 3 | .a => 4
def getMWidth (b : BitVec 3) : MWidth :=
  match b.toNat with
  | 0 => .b | 1 => .h | 2 => .w | 3 => .d | _ => .a

def RedOp.code : RedOp → BitVec 2
  | .add => 0 | .min => 1 | .max => 2
def getRedOp (b : BitVec 2) : RedOp :=
  match b.toNat with
  | 0 => .add | 1 => .min | _ => .max

def CredOp.code : CredOp → BitVec 3
  | .add => 0 | .min => 1 | .max => 2 | .and => 3 | .or => 4 | .xor => 5
def getCredOp (b : BitVec 3) : CredOp :=
  match b.toNat with
  | 0 => .add | 1 => .min | 2 => .max | 3 => .and | 4 => .or | _ => .xor

def CredFmt.code : CredFmt → BitVec 2
  | .i32 => 0 | .i64 => 1 | .fp32 => 2 | .bf16 => 3
def getCredFmt (b : BitVec 2) : CredFmt :=
  match b.toNat with
  | 0 => .i32 | 1 => .i64 | 2 => .fp32 | _ => .bf16

def AmofFmt.code : AmofFmt → BitVec 2
  | .fp32 => 0 | .bf16 => 1 | .fp16 => 2
def getAmofFmt (b : BitVec 2) : AmofFmt :=
  match b.toNat with
  | 0 => .fp32 | 1 => .bf16 | _ => .fp16

def MatFmt.code : MatFmt → BitVec 3
  | .i8 => 0 | .e4m3 => 1 | .e5m2 => 2 | .db8 => 3 | .e2m1 => 4 | .db4 => 5 | .fp16 => 6 | .bf16 => 7
def getMatFmt (b : BitVec 3) : MatFmt :=
  match b.toNat with
  | 0 => .i8 | 1 => .e4m3 | 2 => .e5m2 | 3 => .db8 | 4 => .e2m1 | 5 => .db4 | 6 => .fp16 | _ => .bf16

def HeadDim.code : HeadDim → BitVec 2
  | .d32 => 0 | .d64 => 1 | .d96 => 2 | .d128 => 3
def getHeadDim (b : BitVec 2) : HeadDim :=
  match b.toNat with
  | 0 => .d32 | 1 => .d64 | 2 => .d96 | _ => .d128

def AttnIn.code : AttnIn → BitVec 3
  | .e4m3 => 0 | .e5m2 => 1 | .db8 => 2 | .fp16 => 3 | .bf16 => 4
def getAttnIn (b : BitVec 3) : AttnIn :=
  match b.toNat with
  | 0 => .e4m3 | 1 => .e5m2 | 2 => .db8 | 3 => .fp16 | _ => .bf16

def AttnOut.code : AttnOut → BitVec 2
  | .fp32 => 0 | .fp16 => 1 | .bf16 => 2
def getAttnOut (b : BitVec 2) : AttnOut :=
  match b.toNat with
  | 0 => .fp32 | 1 => .fp16 | _ => .bf16

def bit1 (b : Bool) : BitVec 1 := BitVec.ofBool b
/-- Bit `n` of a field. -/
def bitAt {w : Nat} (b : BitVec w) (n : Nat) : Bool := b.getLsbD n
def fieldAt {w : Nat} (b : BitVec w) (lo len : Nat) : BitVec len := b.extractLsb' lo len

/-! ### Common parts -/

def getGuard (s : Slot) : Guard := { neg := bitAt s.gneg 0, k := Fin.ofNat 8 s.gk.toNat }

/-- A slot with every field but opcode and guard unused (10 R209). -/
def slotOf (opc : Nat) (g : Guard) : Slot :=
  { opc := BitVec.ofNat 10 opc, md := 0, gneg := bit1 g.neg, gk := BitVec.ofNat 3 g.k.val,
    d := specNone, a := specNone, b := specNone, dn := 0, an := 0, bn := 0, tail := 0 }

/-- TAIL form 2: C and IMM32 (10 R214). -/
def tail2 (c : Spec) (imm : BitVec 32) : BitVec 40 := c ++ imm
def tailC (s : Slot) : Spec := fieldAt s.tail 32 8
def tailImm (s : Slot) : BitVec 32 := fieldAt s.tail 0 32
/-- TAIL form 3: OFS and TSLOT (10 R214). -/
def tail3 (ofs : BitVec 37) (ts : BitVec 3) : BitVec 40 := ofs ++ ts
def tailOfs (s : Slot) : BitVec 37 := fieldAt s.tail 3 37
def tailTslot (s : Slot) : BitVec 3 := fieldAt s.tail 0 3

/-! ### Rows 0x00 to 0x07 (chapter 12) -/

def encAlu3 (opc : Nat) (f : Alu3) : Slot :=
  { slotOf opc f.g with
    md := bit1 f.sh ++ f.w.code ++ bit1 f.z ++ bit1 f.sat ++ 0#1, d := f.d.spec, a := f.a.spec, b := f.b.spec }
def decAlu3 (s : Slot) : Alu3 :=
  { sh := bitAt s.md 5, g := getGuard s, w := getIWidth (fieldAt s.md 3 2), z := bitAt s.md 2, sat := bitAt s.md 1,
    d := getSReg s.d, a := getSSrc s.a, b := getSSrc s.b }

/-- D, A instructions; Z is fixed by the mnemonic. -/
def encAlu2 (opc : Nat) (z : Bool) (f : Alu2) : Slot :=
  { slotOf opc f.g with md := bit1 f.sh ++ f.w.code ++ bit1 z ++ 0#2, d := f.d.spec, a := f.a.spec }
def decAlu2 (s : Slot) : Alu2 :=
  { sh := bitAt s.md 5, g := getGuard s, w := getIWidth (fieldAt s.md 3 2), d := getSReg s.d, a := getSSrc s.a }

def encAluI (opc : Nat) (f : AluI) : Slot :=
  { slotOf opc f.g with
    md := bit1 f.sh ++ f.w.code ++ bit1 f.z ++ bit1 f.sat ++ 0#1, d := f.d.spec, a := f.a.spec, tail := f.imm }
def decAluI (s : Slot) : AluI :=
  { sh := bitAt s.md 5, g := getGuard s, w := getIWidth (fieldAt s.md 3 2), z := bitAt s.md 2, sat := bitAt s.md 1,
    d := getSReg s.d, a := getSSrc s.a, imm := s.tail }

/-- POS in TAIL [5:0], LEN in [14:8] (12 R239). -/
def encBitField (opc : Nat) (f : BitField) : Slot :=
  { slotOf opc f.g with
    md := bit1 f.sh ++ 0#2 ++ bit1 f.z ++ 0#2, d := f.d.spec, a := f.a.spec, tail := 0#25 ++ f.len ++ 0#2 ++ f.pos }
def decBitField (s : Slot) : BitField :=
  { sh := bitAt s.md 5, g := getGuard s, z := bitAt s.md 2, d := getSReg s.d, a := getSSrc s.a,
    pos := fieldAt s.tail 0 6, len := fieldAt s.tail 8 7 }

def encLi (opc : Nat) (f : LiF) : Slot :=
  { slotOf opc f.g with md := bit1 f.sh ++ 0#5, d := f.d.spec, tail := f.imm }
def decLi (s : Slot) : LiF := { sh := bitAt s.md 5, g := getGuard s, d := getSReg s.d, imm := s.tail }

def encLih (opc : Nat) (f : LihF) : Slot :=
  { slotOf opc f.g with md := bit1 f.sh ++ 0#5, d := f.d.spec, tail := 0#8 ++ f.imm }
def decLih (s : Slot) : LihF := { sh := bitAt s.md 5, g := getGuard s, d := getSReg s.d, imm := tailImm s }

/-- SCALE in MOD [84:82] (12 R241). -/
def encLea (opc : Nat) (f : LeaF) : Slot :=
  { slotOf opc f.g with
    md := bit1 f.sh ++ f.scale ++ 0#2, d := f.d.spec, a := f.a.spec, b := optSpec SReg.spec f.b, tail := f.disp }
def decLea (s : Slot) : LeaF :=
  { sh := bitAt s.md 5, g := getGuard s, d := getSReg s.d, a := getSSrc s.a, b := getOpt getSReg s.b,
    scale := fieldAt s.md 2 3, disp := s.tail }

def encAdda (opc : Nat) (f : AddaF) : Slot :=
  { slotOf opc f.g with
    md := bit1 f.sh ++ 0#5, d := f.d.spec, a := f.a.spec,
    b := match f.b with | .src x => x.spec | .imm _ => specNone,
    tail := match f.b with | .src _ => 0 | .imm v => v }
def decAdda (s : Slot) : AddaF :=
  { sh := bitAt s.md 5, g := getGuard s, d := getSReg s.d, a := getSSrc s.a,
    b := if s.b = specNone then .imm s.tail else .src (getSSrc s.b) }

def encSelect (opc : Nat) (f : SelectF) : Slot :=
  { slotOf opc f.g with
    md := bit1 f.sh ++ 0#5, d := f.d.spec, a := f.a.spec, b := f.b.spec, tail := tail2 (specK f.c) 0 }
def decSelect (s : Slot) : SelectF :=
  { sh := bitAt s.md 5, g := getGuard s, d := getSReg s.d, a := getSSrc s.a, b := getSSrc s.b, c := getK (tailC s) }

/-- COND in MOD [85:82], W in [81:80] (12 Table 12.6). -/
def encCmp (opc : Nat) (f : CmpF) : Slot :=
  { slotOf opc f.g with
    md := f.cond.code ++ f.w.code, d := specK f.d, a := f.a.spec, b := optSpec SSrc.spec f.b }
def decCmp (s : Slot) : CmpF :=
  { g := getGuard s, cond := getCond (fieldAt s.md 2 4), w := getIWidth (fieldAt s.md 0 2), d := getK s.d,
    a := getSSrc s.a, b := getOpt getSSrc s.b }

def encCmpi (opc : Nat) (f : CmpiF) : Slot :=
  { slotOf opc f.g with md := f.cond.code ++ f.w.code, d := specK f.d, a := f.a.spec, tail := f.imm }
def decCmpi (s : Slot) : CmpiF :=
  { g := getGuard s, cond := getCond (fieldAt s.md 2 4), w := getIWidth (fieldAt s.md 0 2), d := getK s.d,
    a := getSSrc s.a, imm := s.tail }

def encK3 (opc : Nat) (f : K3) : Slot :=
  { slotOf opc f.g with d := specK f.d, a := specK f.a, b := specK f.b }
def decK3 (s : Slot) : K3 := { g := getGuard s, d := getK s.d, a := getK s.a, b := getK s.b }

def encK2 (opc : Nat) (f : K2) : Slot := { slotOf opc f.g with d := specK f.d, a := specK f.a }
def decK2 (s : Slot) : K2 := { g := getGuard s, d := getK s.d, a := getK s.a }

def encKmov (opc : Nat) (f : KmovF) : Slot := { slotOf opc f.g with d := f.d.spec, a := f.a.spec }
def decKmov (s : Slot) : KmovF := { g := getGuard s, d := getKSrc s.d, a := getKSrc s.a }

def encBare (opc : Nat) (f : Bare) : Slot := slotOf opc f.g
def decBare (s : Slot) : Bare := { g := getGuard s }

def encBranch (opc : Nat) (f : BranchF) : Slot := { slotOf opc f.g with tail := tail3 f.ofs f.tslot }
def decBranch (s : Slot) : BranchF := { g := getGuard s, ofs := tailOfs s, tslot := tailTslot s }

def encReg (opc : Nat) (f : RegF) : Slot := { slotOf opc f.g with a := specS f.a }
def decReg (s : Slot) : RegF := { g := getGuard s, a := getS s.a }

/-- LVL in MOD [80] (12 Table 12.10). -/
def encLoop (opc : Nat) (f : LoopF) : Slot :=
  { slotOf opc f.g with md := 0#5 ++ bit1 f.lvl, a := specS f.a, tail := tail3 f.ofs f.tslot }
def decLoop (s : Slot) : LoopF :=
  { g := getGuard s, lvl := bitAt s.md 0, a := getS s.a, ofs := tailOfs s, tslot := tailTslot s }

def encLoopi (opc : Nat) (f : LoopiF) : Slot :=
  { slotOf opc f.g with md := 0#5 ++ bit1 f.lvl, tail := f.count ++ f.lofs ++ f.eslot }
def decLoopi (s : Slot) : LoopiF :=
  { g := getGuard s, lvl := bitAt s.md 0, count := fieldAt s.tail 20 20, lofs := fieldAt s.tail 3 17,
    eslot := fieldAt s.tail 0 3 }

def encTrap (opc : Nat) (f : TrapF) : Slot := { slotOf opc f.g with tail := f.imm }
def decTrap (s : Slot) : TrapF := { g := getGuard s, imm := s.tail }

def encGetc (opc : Nat) (f : GetcF) : Slot := { slotOf opc f.g with d := f.d.spec, tail := 0#36 ++ f.reg.code }
def decGetc (s : Slot) : GetcF := { g := getGuard s, d := getSReg s.d, reg := getCtlReg (fieldAt s.tail 0 4) }

def encSetc (opc : Nat) (f : SetcF) : Slot := { slotOf opc f.g with a := f.a.spec, tail := 0#36 ++ f.reg.code }
def decSetc (s : Slot) : SetcF := { g := getGuard s, reg := getCtlReg (fieldAt s.tail 0 4), a := getSSrc s.a }

/-- TLBI: the kind is a small immediate in B (12 Table 12.11). -/
def encTlbi (opc : Nat) (kind : BitVec 5) (f : TlbiF) : Slot :=
  { slotOf opc f.g with a := f.a.spec, b := specImm kind }
def decTlbi (s : Slot) : TlbiF := { g := getGuard s, a := getSReg s.a }
/-- TLBI kind 2 takes A zr (12 R260). -/
def encTlbiAll (opc : Nat) (f : Bare) : Slot := { slotOf opc f.g with a := specZr, b := specImm 2 }

def encDstReg (opc : Nat) (f : DstReg) : Slot := { slotOf opc f.g with d := f.d.spec, a := specS f.a }
def decDstReg (s : Slot) : DstReg := { g := getGuard s, d := getSReg s.d, a := getS s.a }

/-! ### Rows 0x08 to 0x0F (chapter 14) -/

/-- RM, SAT and FIELD of Table 14.2. -/
def vImm (rm : RndField) (sat : Bool) (field : BitVec 28) : BitVec 32 := rm.code ++ bit1 sat ++ field
def vRm (s : Slot) : RndField := getRnd (fieldAt s.tail 29 3)
def vSat (s : Slot) : Bool := bitAt s.tail 28
def vField (s : Slot) : BitVec 28 := fieldAt s.tail 0 28
def vLt (s : Slot) : LaneTy := getLaneTy (fieldAt s.md 0 5)
def vMod (sh : Bool) (t : LaneTy) : BitVec 6 := bit1 sh ++ t.code

def encV3 (opc : Nat) (f : V3) : Slot :=
  { slotOf opc f.g with
    md := vMod f.sh f.lt, d := f.d.spec, a := f.a.spec, b := f.b.spec, dn := f.d.need, an := f.a.need, bn := f.b.need,
    tail := tail2 specNone (vImm f.rm f.sat 0) }
def decV3 (s : Slot) : V3 :=
  { sh := bitAt s.md 5, g := getGuard s, lt := vLt s, d := getVReg s.d s.dn, a := getVSrc s.a s.an,
    b := getVSrc s.b s.bn, rm := vRm s, sat := vSat s }

def encV4 (opc : Nat) (f : V4) : Slot :=
  { slotOf opc f.g with
    md := vMod f.sh f.lt, d := f.d.spec, a := f.a.spec, b := f.b.spec, dn := f.d.need, an := f.a.need, bn := f.b.need,
    tail := tail2 f.c.spec (vImm f.rm f.sat 0) }
def decV4 (s : Slot) : V4 :=
  { sh := bitAt s.md 5, g := getGuard s, lt := vLt s, d := getVReg s.d s.dn, a := getVSrc s.a s.an,
    b := getVSrc s.b s.bn, c := getVSrc (tailC s) 0, rm := vRm s, sat := vSat s }

def encV3n (opc : Nat) (f : V3n) : Slot :=
  { slotOf opc f.g with
    md := vMod f.sh f.lt, d := f.d.spec, a := f.a.spec, b := f.b.spec, dn := f.d.need, an := f.a.need, bn := f.b.need,
    tail := tail2 specNone 0 }
def decV3n (s : Slot) : V3n :=
  { sh := bitAt s.md 5, g := getGuard s, lt := vLt s, d := getVReg s.d s.dn, a := getVSrc s.a s.an,
    b := getVSrc s.b s.bn }

def encV2 (opc : Nat) (f : V2) : Slot :=
  { slotOf opc f.g with
    md := vMod f.sh f.lt, d := f.d.spec, a := f.a.spec, dn := f.d.need, an := f.a.need,
    tail := tail2 specNone (vImm .fctl f.sat 0) }
def decV2 (s : Slot) : V2 :=
  { sh := bitAt s.md 5, g := getGuard s, lt := vLt s, d := getVReg s.d s.dn, a := getVSrc s.a s.an, sat := vSat s }

def encVdot (opc : Nat) (f : VdotF) : Slot :=
  { slotOf opc f.g with
    md := vMod f.sh f.lt, d := f.d.spec, a := f.a.spec, b := f.b.spec, dn := f.d.need, an := f.a.need, bn := f.b.need,
    tail := tail2 (optSpec VSrc.spec f.c) (vImm f.rm f.sat 0) }
def decVdot (s : Slot) : VdotF :=
  { sh := bitAt s.md 5, g := getGuard s, lt := vLt s, d := getVReg s.d s.dn, a := getVSrc s.a s.an,
    b := getVSrc s.b s.bn, c := getOpt (fun x => getVSrc x 0) (tailC s), rm := vRm s, sat := vSat s }

/-- ROP in FIELD [1:0] (14 R276). -/
def encVred (opc : Nat) (f : VredF) : Slot :=
  { slotOf opc f.g with
    md := vMod f.sh f.lt, d := f.d.spec, a := f.a.spec, dn := f.d.need, an := f.a.need,
    tail := tail2 specNone (vImm f.rm f.sat (0#26 ++ f.op.code)) }
def decVred (s : Slot) : VredF :=
  { sh := bitAt s.md 5, g := getGuard s, lt := vLt s, op := getRedOp (fieldAt s.tail 0 2), d := getVReg s.d s.dn,
    a := getVSrc s.a s.an, rm := vRm s, sat := vSat s }

/-- COND in FIELD [3:0] (14 R277). -/
def encVcmp (opc : Nat) (f : VcmpF) : Slot :=
  { slotOf opc f.g with
    md := vMod f.sh f.lt, d := specK f.d, a := f.a.spec, b := optSpec VSrc.spec f.b, an := f.a.need,
    bn := match f.b with | some x => x.need | none => 0,
    tail := tail2 specNone (vImm .fctl false (0#24 ++ f.cond.code)) }
def decVcmp (s : Slot) : VcmpF :=
  { sh := bitAt s.md 5, g := getGuard s, lt := vLt s, cond := getCond (fieldAt s.tail 0 4), d := getK s.d,
    a := getVSrc s.a s.an, b := getOpt (fun x => getVSrc x s.bn) s.b }

def encVsel (opc : Nat) (f : VselF) : Slot :=
  { slotOf opc f.g with
    md := vMod f.sh f.lt, d := f.d.spec, a := f.a.spec, b := f.b.spec, dn := f.d.need, an := f.a.need, bn := f.b.need,
    tail := tail2 (specK f.c) 0 }
def decVsel (s : Slot) : VselF :=
  { sh := bitAt s.md 5, g := getGuard s, lt := vLt s, d := getVReg s.d s.dn, a := getVSrc s.a s.an,
    b := getVSrc s.b s.bn, c := getK (tailC s) }

def encVperm (opc : Nat) (f : VpermF) : Slot :=
  { slotOf opc f.g with
    md := vMod f.sh .i8, d := f.d.spec, a := f.a.spec, b := f.b.spec, dn := f.d.need, an := f.a.need, bn := f.b.need,
    tail := tail2 specNone 0 }
def decVperm (s : Slot) : VpermF :=
  { sh := bitAt s.md 5, g := getGuard s, d := getVReg s.d s.dn, a := getVSrc s.a s.an, b := getVReg s.b s.bn }

/-- IDX in FIELD [4:0] (14 R280). -/
def encVbcast (opc : Nat) (f : VbcastF) : Slot :=
  { slotOf opc f.g with
    md := vMod f.sh f.lt, d := f.d.spec, a := f.a.spec, dn := f.d.need, an := f.a.need,
    tail := tail2 specNone (vImm .fctl false (0#23 ++ f.idx)) }
def decVbcast (s : Slot) : VbcastF :=
  { sh := bitAt s.md 5, g := getGuard s, lt := vLt s, d := getVReg s.d s.dn, a := getVSrc s.a s.an,
    idx := fieldAt s.tail 0 5 }

def encVext (opc : Nat) (f : VextF) : Slot :=
  { slotOf opc f.g with
    md := vMod f.sh f.lt, d := f.d.spec, a := f.a.spec, an := f.a.need,
    tail := tail2 specNone (vImm .fctl false (0#23 ++ f.idx)) }
def decVext (s : Slot) : VextF :=
  { sh := bitAt s.md 5, g := getGuard s, lt := vLt s, d := getSReg s.d, a := getVReg s.a s.an,
    idx := fieldAt s.tail 0 5 }

def encVins (opc : Nat) (f : VinsF) : Slot :=
  { slotOf opc f.g with
    md := vMod f.sh f.lt, d := specV f.d, a := f.a.spec, tail := tail2 specNone (vImm .fctl false (0#23 ++ f.idx)) }
def decVins (s : Slot) : VinsF :=
  { sh := bitAt s.md 5, g := getGuard s, lt := vLt s, d := getV s.d, a := getSCount s.a, idx := fieldAt s.tail 0 5 }

/-- st in FIELD [20:16], pos in FIELD [25:22] (14 R284). -/
def cvtField (st : LaneTy) (pos : BitVec 4) : BitVec 28 := 0#2 ++ pos ++ 0#1 ++ st.code ++ 0#16
def getSt (s : Slot) : LaneTy := getLaneTy (fieldAt s.tail 16 5)

def encVcvt (opc : Nat) (f : VcvtF) : Slot :=
  { slotOf opc f.g with
    md := vMod f.sh f.dt, d := specV f.d, a := f.a.spec, an := f.a.need,
    tail := tail2 (optSpec specS f.c) (vImm f.rm f.sat (cvtField f.st f.pos)) }
def decVcvt (s : Slot) : VcvtF :=
  { sh := bitAt s.md 5, g := getGuard s, dt := vLt s, st := getSt s, pos := fieldAt s.tail 22 4, d := getV s.d,
    a := getVSrc s.a s.an, c := getOpt getS (tailC s), rm := vRm s, sat := vSat s }

def encVpack (opc : Nat) (f : VpackF) : Slot :=
  { slotOf opc f.g with
    md := vMod f.sh f.dt, d := specV f.d, a := f.a.spec, b := f.b.spec, an := f.a.need, bn := f.b.need,
    tail := tail2 specNone (vImm f.rm f.sat (cvtField f.st 0)) }
def decVpack (s : Slot) : VpackF :=
  { sh := bitAt s.md 5, g := getGuard s, dt := vLt s, st := getSt s, d := getV s.d, a := getVSrc s.a s.an,
    b := getVSrc s.b s.bn, rm := vRm s, sat := vSat s }

def encVunpk (opc : Nat) (f : VunpkF) : Slot :=
  { slotOf opc f.g with
    md := vMod f.sh f.dt, d := specV f.d, a := f.a.spec, an := f.a.need,
    tail := tail2 specNone (vImm f.rm f.sat (cvtField f.st 0)) }
def decVunpk (s : Slot) : VunpkF :=
  { sh := bitAt s.md 5, g := getGuard s, dt := vLt s, st := getSt s, d := getV s.d, a := getVSrc s.a s.an, rm := vRm s,
    sat := vSat s }

/-- N in TAIL [3:0], COUNT in [35:4] (14 Table 14.10). -/
def encVloop (opc : Nat) (f : VloopF) : Slot :=
  { slotOf opc f.g with
    a := match f.c with | .s i => specS i | .imm _ => specNone,
    tail := 0#4 ++ (match f.c with | .s _ => 0#32 | .imm c => c) ++ f.n }
def decVloop (s : Slot) : VloopF :=
  { g := getGuard s, n := fieldAt s.tail 0 4, c := if s.a = specNone then .imm (fieldAt s.tail 4 32) else .s (getS s.a) }

/-- A q field that names a binding holds need 1 (14 R290). -/
def encQcfg (opc : Nat) (f : QcfgF) : Slot :=
  { slotOf opc f.g with d := specQ f.q, dn := 1, a := specS f.a, b := specS f.b }
def decQcfg (s : Slot) : QcfgF := { g := getGuard s, q := getS s.d, a := getS s.a, b := getS s.b }

def encQueue (opc : Nat) (f : QueueF) : Slot := { slotOf opc f.g with d := specQ f.q, dn := 1 }
def decQueue (s : Slot) : QueueF := { g := getGuard s, q := getS s.d }

def encQadv (opc : Nat) (f : QadvF) : Slot := { slotOf opc f.g with d := specQ f.q, dn := 1, a := f.n.spec }
def decQadv (side : Bool) (s : Slot) : QadvF :=
  { g := getGuard s, exec := side, q := getS s.d, n := getSCount s.a }

def encQstat (opc : Nat) (f : QstatF) : Slot := { slotOf opc f.g with d := f.d.spec, a := specQ f.q, an := 1 }
def decQstat (s : Slot) : QstatF := { g := getGuard s, d := getSReg s.d, q := getS s.a }

def encKpush (opc : Nat) (f : KpushF) : Slot :=
  { slotOf opc f.g with a := specK f.k, b := specImm (0#3 ++ f.mode) }
def decKpush (s : Slot) : KpushF := { g := getGuard s, k := getK s.a, mode := fieldAt s.b 0 2 }

/-! ### Rows 0x10 to 0x14 (chapter 15) -/

/-- ORD and SCOPE of Table 15.2. -/
def ordCode (o : Order) : BitVec 5 :=
  match o with
  | .plain => 0
  | .acq sc => 1#2 ++ sc.code
  | .rel sc => 2#2 ++ sc.code
def acqOrder : Option Scope → Order
  | some sc => .acq sc
  | none => .plain
def relOrder : Option Scope → Order
  | some sc => .rel sc
  | none => .plain
def getOrder (b : BitVec 5) : Order :=
  match (fieldAt b 3 2).toNat with
  | 1 => .acq (getScope (fieldAt b 0 3))
  | 2 => .rel (getScope (fieldAt b 0 3))
  | _ => .plain
def Order.scope? : Order → Option Scope
  | .plain => none
  | .acq sc => some sc
  | .rel sc => some sc

/-- IMM32 of rows 0x10 to 0x13 (15 Table 15.2). -/
def mImm (ord : Order) (raw sat : Bool) (rm : RndField) (sc : BitVec 3) (bc : Bool) (disp : BitVec 18) : BitVec 32 :=
  ordCode ord ++ bit1 raw ++ bit1 sat ++ rm.code ++ sc ++ bit1 bc ++ disp
def mOrd (s : Slot) : Order := getOrder (fieldAt s.tail 27 5)
def mRaw (s : Slot) : Bool := bitAt s.tail 26
def mSat (s : Slot) : Bool := bitAt s.tail 25
def mRm (s : Slot) : RndField := getRnd (fieldAt s.tail 22 3)
def mSc (s : Slot) : BitVec 3 := fieldAt s.tail 19 3
def mDisp (s : Slot) : BitVec 18 := fieldAt s.tail 0 18

def getMem (s : Slot) : MemOp := { a := getSReg s.a, b := getOpt getS s.b, sc := mSc s, disp := mDisp s }
def getBase (s : Slot) : MemBase := { a := getSReg s.a, disp := mDisp s }

def encLd (opc : Nat) (f : LdF) : Slot :=
  { slotOf opc f.g with
    md := bit1 f.sh ++ f.w.code ++ bit1 f.z ++ 0#1, d := f.d.spec, a := f.m.a.spec, b := optSpec specS f.m.b,
    tail := tail2 specNone (mImm (acqOrder f.acq) f.raw false .fctl f.m.sc false f.m.disp) }
def decLd (s : Slot) : LdF :=
  { sh := bitAt s.md 5, g := getGuard s, w := getMWidth (fieldAt s.md 2 3), z := bitAt s.md 1, raw := mRaw s,
    acq := (mOrd s).scope?, d := getSReg s.d, m := getMem s }

def encSt (opc : Nat) (f : StF) : Slot :=
  { slotOf opc f.g with
    md := bit1 f.sh ++ f.w.code ++ bit1 f.z ++ 0#1, d := f.d.spec, a := f.m.a.spec, b := optSpec specS f.m.b,
    tail := tail2 specNone (mImm (relOrder f.rel) f.raw f.sat .fctl f.m.sc false f.m.disp) }
def decSt (s : Slot) : StF :=
  { sh := bitAt s.md 5, g := getGuard s, w := getMWidth (fieldAt s.md 2 3), z := bitAt s.md 1, sat := mSat s,
    raw := mRaw s, rel := (mOrd s).scope?, d := getSData s.d, m := getMem s }

/-- LDQ and STQ; `rel` picks the qualifier that the mnemonic takes. -/
def encLdq (opc : Nat) (rel : Bool) (f : LdqF) : Slot :=
  { slotOf opc f.g with
    md := bit1 f.sh ++ 0#5, d := specQ f.q, dn := f.need, a := f.m.a.spec, b := optSpec specS f.m.b,
    tail := tail2 specNone
      (mImm (if rel then relOrder f.ord else acqOrder f.ord) false false .fctl f.m.sc false f.m.disp) }
def decLdq (s : Slot) : LdqF :=
  { sh := bitAt s.md 5, g := getGuard s, q := getS s.d, need := s.dn, ord := (mOrd s).scope?, m := getMem s }

def encVmem (opc : Nat) (rel : Bool) (f : VmemF) : Slot :=
  { slotOf opc f.g with
    md := vMod f.sh f.lt, d := f.d.spec, dn := f.d.need, a := f.m.a.spec, b := optSpec specS f.m.b,
    tail := tail2 specNone
      (mImm (if rel then relOrder f.ord else acqOrder f.ord) f.raw f.sat f.rm f.m.sc false f.m.disp) }
def decVmem (s : Slot) : VmemF :=
  { sh := bitAt s.md 5, g := getGuard s, lt := vLt s, rm := mRm s, sat := mSat s, raw := mRaw s,
    ord := (mOrd s).scope?, d := getVReg s.d s.dn, m := getMem s }

def encVstride (opc : Nat) (rel : Bool) (f : VstrideF) : Slot :=
  { slotOf opc f.g with
    md := vMod f.sh f.lt, d := f.d.spec, dn := f.d.need, a := f.m.a.spec, b := specS f.stride,
    tail := tail2 specNone
      (mImm (if rel then relOrder f.ord else acqOrder f.ord) f.raw f.sat f.rm 0 false f.m.disp) }
def decVstride (s : Slot) : VstrideF :=
  { sh := bitAt s.md 5, g := getGuard s, lt := vLt s, rm := mRm s, sat := mSat s, raw := mRaw s,
    ord := (mOrd s).scope?, d := getVReg s.d s.dn, m := getBase s, stride := getS s.b }

def encVindex (opc : Nat) (rel : Bool) (f : VindexF) : Slot :=
  { slotOf opc f.g with
    md := vMod f.sh f.lt, d := f.d.spec, dn := f.d.need, a := f.m.a.spec, b := f.idx.spec, bn := f.idx.need,
    tail := tail2 (optSpec specS f.bound)
      (mImm (if rel then relOrder f.ord else acqOrder f.ord) f.raw f.sat f.rm f.sc false f.m.disp) }
def decVindex (s : Slot) : VindexF :=
  { sh := bitAt s.md 5, g := getGuard s, lt := vLt s, rm := mRm s, sat := mSat s, raw := mRaw s,
    ord := (mOrd s).scope?, d := getVReg s.d s.dn, m := getBase s, idx := getVReg s.b s.bn, sc := mSc s,
    bound := getOpt getS (tailC s) }

/-- VGATH.bc has BC set and LT 0x00 (15 R318). -/
def encVgathBc (opc : Nat) (f : VgathBcF) : Slot :=
  { slotOf opc f.g with
    md := bit1 f.sh ++ 0#5, d := specQ f.q, dn := f.need, a := f.m.a.spec, b := specV f.b,
    tail := tail2 (specS f.c) (mImm (acqOrder f.acq) false false .fctl 0 true f.m.disp) }
def decVgathBc (s : Slot) : VgathBcF :=
  { sh := bitAt s.md 5, g := getGuard s, acq := (mOrd s).scope?, q := getS s.d, need := s.dn, m := getBase s,
    b := getV s.b, c := getS (tailC s) }

def encAmo (opc : Nat) (f : AmoF) : Slot :=
  { slotOf opc f.g with
    md := bit1 f.sh ++ f.w.code ++ bit1 f.z ++ 0#2, d := f.d.spec, a := f.m.a.spec, b := f.b.spec,
    tail := tail2 specNone (mImm f.ord false false .fctl 0 false f.m.disp) }
def decAmo (s : Slot) : AmoF :=
  { sh := bitAt s.md 5, g := getGuard s, w := getIWidth (fieldAt s.md 3 2), z := bitAt s.md 2, ord := mOrd s,
    d := getSReg s.d, m := getBase s, b := getSData s.b }

def encCas (opc : Nat) (f : CasF) : Slot :=
  { slotOf opc f.g with
    md := bit1 f.sh ++ f.w.code ++ bit1 f.z ++ 0#2, d := f.d.spec, a := f.m.a.spec, b := f.b.spec,
    tail := tail2 (specS f.c) (mImm f.ord false false .fctl 0 false f.m.disp) }
def decCas (s : Slot) : CasF :=
  { sh := bitAt s.md 5, g := getGuard s, w := getIWidth (fieldAt s.md 3 2), z := bitAt s.md 2, ord := mOrd s,
    d := getSReg s.d, m := getBase s, b := getSData s.b, c := getS (tailC s) }

/-- FMT in MOD [84:83] (15 R320). -/
def encAmof (opc : Nat) (f : AmofF) : Slot :=
  { slotOf opc f.g with
    md := bit1 f.sh ++ f.fmt.code ++ 0#3, d := f.d.spec, a := f.m.a.spec, b := f.b.spec,
    tail := tail2 specNone (mImm f.ord false false .fctl 0 false f.m.disp) }
def decAmof (s : Slot) : AmofF :=
  { sh := bitAt s.md 5, g := getGuard s, fmt := getAmofFmt (fieldAt s.md 3 2), ord := mOrd s, d := getSReg s.d,
    m := getBase s, b := getSData s.b }

/-- SCOPE in MOD [84:82], LEA in [81] (15 R323). -/
def encFence (opc : Nat) (f : FenceF) : Slot :=
  { slotOf opc f.g with md := bit1 f.sh ++ f.scope.code ++ 0#2, tail := tail2 specNone 0 }
def decFence (s : Slot) : FenceF :=
  { sh := bitAt s.md 5, g := getGuard s, scope := getScope (fieldAt s.md 2 3) }
def encFenceLea (opc : Nat) (f : FenceLeaF) : Slot :=
  { slotOf opc f.g with md := bit1 f.sh ++ 4#3 ++ 1#1 ++ 0#1, d := f.d.spec, tail := tail2 specNone 0 }
def decFenceLea (s : Slot) : FenceLeaF := { sh := bitAt s.md 5, g := getGuard s, d := getSReg s.d }

def encCpy (opc : Nat) (f : CpyF) : Slot :=
  { slotOf opc f.g with
    md := bit1 f.sh ++ 0#5, d := specS f.d, a := specS f.a, b := specS f.b, tail := tail2 (optSpec specS f.c) 0 }
def decCpy (s : Slot) : CpyF :=
  { sh := bitAt s.md 5, g := getGuard s, d := getS s.d, a := getS s.a, b := getS s.b, c := getOpt getS (tailC s) }

def encReplay (opc : Nat) (f : ReplayF) : Slot :=
  { slotOf opc f.g with md := bit1 f.sh ++ 0#5, a := specS f.a, tail := tail2 (optSpec specS f.c) 0 }
def decReplay (s : Slot) : ReplayF :=
  { sh := bitAt s.md 5, g := getGuard s, a := getS s.a, c := getOpt getS (tailC s) }

/-- OP in MOD [84:82], FMT in [81:80] (15 R335). -/
def encCred (opc : Nat) (f : CredF) : Slot :=
  { slotOf opc f.g with
    md := bit1 f.sh ++ f.op.code ++ f.fmt.code, d := specS f.d, a := specS f.a, b := specS f.b,
    tail := tail2 (optSpec specS f.c) 0 }
def decCred (s : Slot) : CredF :=
  { sh := bitAt s.md 5, g := getGuard s, op := getCredOp (fieldAt s.md 2 3), fmt := getCredFmt (fieldAt s.md 0 2),
    d := getS s.d, a := getS s.a, b := getS s.b, c := getOpt getS (tailC s) }

def encEseq (opc : Nat) (f : EseqF) : Slot :=
  { slotOf opc f.g with
    md := bit1 f.sh ++ 0#5, d := f.d.spec, b := specImm (BitVec.ofNat 5 f.eng.val), tail := tail2 specNone 0 }
def decEseq (s : Slot) : EseqF :=
  { sh := bitAt s.md 5, g := getGuard s, d := getSReg s.d, eng := Fin.ofNat 4 s.b.toNat }

def encRlqQuery (opc : Nat) (f : RlqQueryF) : Slot :=
  { slotOf opc f.g with
    md := bit1 f.sh ++ 0#5, d := f.d.spec, a := specS f.a, b := specImm 0, tail := tail2 specNone 0 }
def decRlqQuery (s : Slot) : RlqQueryF := { sh := bitAt s.md 5, g := getGuard s, d := getSReg s.d, a := getS s.a }
def encRlqRelease (opc : Nat) (f : RlqReleaseF) : Slot :=
  { slotOf opc f.g with
    md := bit1 f.sh ++ 0#5, d := f.d.spec, a := specS f.a, b := specImm (BitVec.ofNat 5 (8 + f.eng.val)),
    tail := tail2 specNone 0 }
def decRlqRelease (s : Slot) : RlqReleaseF :=
  { sh := bitAt s.md 5, g := getGuard s, d := getSReg s.d, a := getS s.a, eng := Fin.ofNat 4 s.b.toNat }

def encMbind (opc : Nat) (f : MbindF) : Slot := { slotOf opc f.g with a := specS f.a, tail := 0#35 ++ f.slot }
def decMbind (s : Slot) : MbindF := { g := getGuard s, a := getS s.a, slot := fieldAt s.tail 0 5 }

/-! ### Rows 0x15 to 0x17 (chapter 17) -/

def encInvoke (opc : Nat) (f : InvokeF) : Slot :=
  { slotOf opc f.g with d := f.d.spec, a := specS f.a, b := f.b.spec, tail := 0#32 ++ f.method }
def decInvoke (s : Slot) : InvokeF :=
  { g := getGuard s, d := getSReg s.d, a := getS s.a, b := getArgRegs s.b, method := fieldAt s.tail 0 8 }

def encInvoken (opc : Nat) (f : InvokenF) : Slot :=
  { slotOf opc f.g with a := specS f.a, b := f.b.spec, tail := 0#32 ++ f.method }
def decInvoken (s : Slot) : InvokenF :=
  { g := getGuard s, a := getS s.a, b := getArgRegs s.b, method := fieldAt s.tail 0 8 }

def encSendMbox (opc : Nat) (f : SendMboxF) : Slot :=
  { slotOf opc f.g with a := specS f.a, b := f.b.spec, tail := tail2 specNone 0 }
def decSendMbox (s : Slot) : SendMboxF := { g := getGuard s, a := getS s.a, b := getArgRegs s.b }

/-- AM in MOD [80] (17 Table 17.1). -/
def encSendAct (opc : Nat) (f : SendActF) : Slot :=
  { slotOf opc f.g with
    md := 1#6, a := specS f.a, b := f.b.spec, tail := tail2 (specS f.c) (0#27 ++ f.slot) }
def decSendAct (s : Slot) : SendActF :=
  { g := getGuard s, a := getS s.a, b := getArgRegs s.b, c := getS (tailC s), slot := fieldAt s.tail 0 5 }

def encResolve (opc : Nat) (f : ResolveF) : Slot :=
  { slotOf opc f.g with a := specS f.a, b := f.b.spec, tail := 0#34 ++ f.len }
def decResolve (s : Slot) : ResolveF :=
  { g := getGuard s, a := getS s.a, b := getSReg s.b, len := fieldAt s.tail 0 6 }

/-- OBJ in MOD [80] (17 Table 17.1). -/
def encResolveObj (opc : Nat) (f : Reg2) : Slot :=
  { slotOf opc f.g with md := 1#6, a := specS f.a, b := specS f.b }
def decReg2 (s : Slot) : Reg2 := { g := getGuard s, a := getS s.a, b := getS s.b }

def encBreak (opc : Nat) (f : BreakF) : Slot := { slotOf opc f.g with a := specS f.a, tail := 0#34 ++ f.cause }
def decBreak (s : Slot) : BreakF := { g := getGuard s, a := getS s.a, cause := fieldAt s.tail 0 6 }

def encWhen (opc : Nat) (f : WhenF) : Slot := { slotOf opc f.g with a := specS f.a, tail := tail3 f.ofs f.tslot }
def decWhen (s : Slot) : WhenF := { g := getGuard s, a := getS s.a, ofs := tailOfs s, tslot := tailTslot s }

def encHget (opc : Nat) (f : HgetF) : Slot :=
  { slotOf opc f.g with
    d := f.d.spec, a := specS f.a, tail := tail2 (optSpec specK f.c) (0#30 ++ f.word) }
def decHget (s : Slot) : HgetF :=
  { g := getGuard s, d := getSReg s.d, a := getS s.a, word := fieldAt s.tail 0 2, c := getOpt getK (tailC s) }

def encObjnew (opc : Nat) (f : ObjnewF) : Slot :=
  { slotOf opc f.g with d := specS f.d, a := specS f.a, b := specS f.b, tail := 0#28 ++ f.cls }
def decObjnew (s : Slot) : ObjnewF :=
  { g := getGuard s, d := getS s.d, a := getS s.a, b := getS s.b, cls := fieldAt s.tail 0 12 }

def encMigra (opc : Nat) (f : MigraF) : Slot := { slotOf opc f.g with a := specS f.a, tail := f.disp }
def decMigra (s : Slot) : MigraF := { g := getGuard s, a := getS s.a, disp := s.tail }

def encHold (opc : Nat) (f : HoldF) : Slot :=
  { slotOf opc f.g with
    a := match f.m with | .s i => specS i | .mask _ => specNone,
    tail := match f.m with | .s _ => 0 | .mask m => 0#8 ++ m }
def decHold (s : Slot) : HoldF :=
  { g := getGuard s, m := if s.a = specNone then .mask (tailImm s) else .s (getS s.a) }

def encTask (opc : Nat) (f : TaskF) : Slot :=
  { slotOf opc f.g with
    d := specS f.d, a := specS f.a, b := match f.n with | .s i => specS i | .mask _ => specNone,
    tail := match f.n with | .s _ => 0 | .mask m => 0#8 ++ m }
def decTask (s : Slot) : TaskF :=
  { g := getGuard s, d := getS s.d, a := getS s.a, n := if s.b = specNone then .mask (tailImm s) else .s (getS s.b) }

def encTdec (opc : Nat) (f : TdecF) : Slot := { slotOf opc f.g with a := specS f.a, b := f.n.spec }
def decTdec (s : Slot) : TdecF := { g := getGuard s, a := getS s.a, n := getSCount s.b }

def encTestc (opc : Nat) (f : TestcF) : Slot := { slotOf opc f.g with d := specK f.d }
def decTestc (s : Slot) : TestcF := { g := getGuard s, d := getK s.d }

def encRegD (opc : Nat) (f : RegD) : Slot := { slotOf opc f.g with d := specS f.d, a := specS f.a }
def decRegD (s : Slot) : RegD := { g := getGuard s, d := getS s.d, a := getS s.a }

def encPhwait (opc : Nat) (f : PhwaitF) : Slot :=
  { slotOf opc f.g with d := f.d.spec, a := specS f.a, tail := tail3 f.ofs f.tslot }
def decPhwait (s : Slot) : PhwaitF :=
  { g := getGuard s, d := getSReg s.d, a := getS s.a, ofs := tailOfs s, tslot := tailTslot s }

/-- FOLD in MOD [85:82] (17 Table 17.1). -/
def encFold (opc : Nat) (f : FoldF) : Slot := { slotOf opc f.g with md := BitVec.ofNat 4 f.fold.val ++ 0#2 }
def getFold (s : Slot) : Fin 16 := Fin.ofNat 16 (fieldAt s.md 2 4).toNat
def decFold (s : Slot) : FoldF := { g := getGuard s, fold := getFold s }

def encFmemb (opc : Nat) (f : FmembF) : Slot :=
  { slotOf opc f.g with md := BitVec.ofNat 4 f.fold.val ++ 0#2, d := f.d.spec, tail := 0#34 ++ f.sel }
def decFmemb (s : Slot) : FmembF :=
  { g := getGuard s, d := getSReg s.d, fold := getFold s, sel := fieldAt s.tail 0 6 }

/-- HT in MOD [81] (17 Table 17.1). -/
def encCbr (opc : Nat) (f : CbrF) : Slot :=
  { slotOf opc f.g with
    md := BitVec.ofNat 4 f.fold.val ++ bit1 f.ht ++ 0#1, a := specK f.k, tail := tail3 f.ofs f.tslot }
def decCbr (s : Slot) : CbrF :=
  { g := getGuard s, ht := bitAt s.md 1, k := getK s.a, fold := getFold s, ofs := tailOfs s, tslot := tailTslot s }

def encBst (opc : Nat) (f : BstF) : Slot :=
  { slotOf opc f.g with d := f.d.spec, a := specS f.a, b := f.b.spec, bn := f.b.need }
def decBst (s : Slot) : BstF := { g := getGuard s, d := getSReg s.d, a := getS s.a, b := getBstSrc s.b s.bn }

def encBseq (opc : Nat) (f : BseqF) : Slot := { slotOf opc f.g with d := f.d.spec }
def decBseq (s : Slot) : BseqF := { g := getGuard s, d := getSReg s.d }

/-! ### Rows 0x18 to 0x1B (chapter 20) -/

def mfMod (mf : MatFmt) (chk : Bool) : BitVec 6 := mf.code ++ bit1 chk ++ 0#2
def getMf (s : Slot) : MatFmt := getMatFmt (fieldAt s.md 3 3)
def getChk (s : Slot) : Bool := bitAt s.md 2
def getDisp18 (s : Slot) : BitVec 18 := fieldAt s.tail 0 18

def encWld (opc : Nat) (f : WldF) : Slot :=
  { slotOf opc f.g with
    md := mfMod f.mf false, a := specS f.a, tail := 0#15 ++ bit1 f.sp ++ f.nact ++ f.disp }
def decWld (s : Slot) : WldF :=
  { g := getGuard s, mf := getMf s, a := getS s.a, disp := getDisp18 s, nact := fieldAt s.tail 18 6,
    sp := bitAt s.tail 24 }

def mSpec : MaskSrc → Spec
  | .s i => specS i
  | .mask _ => specNone
def mMask : MaskSrc → BitVec 32
  | .s _ => 0
  | .mask m => m
def getM (s : Slot) : MaskSrc := if s.b = specNone then .mask (tailImm s) else .s (getS s.b)

def encMma (opc : Nat) (f : MmaF) : Slot :=
  { slotOf opc f.g with
    md := mfMod f.mf f.chk.isSome, d := specA f.d, a := specQ f.q, an := f.need, b := mSpec f.m,
    tail := tail2 (optSpec specS f.chk) (mMask f.m) }
def decMma (s : Slot) : MmaF :=
  { g := getGuard s, mf := getMf s, chk := getOpt getS (tailC s), d := getS s.d, q := getS s.a, need := s.an,
    m := getM s }

def encMrec (opc : Nat) (f : MrecF) : Slot :=
  { slotOf opc f.g with
    md := mfMod f.mf false, d := specA f.d, a := specQ f.q, an := f.need, b := mSpec f.m,
    tail := tail2 specNone (mMask f.m) }
def decMrec (s : Slot) : MrecF :=
  { g := getGuard s, mf := getMf s, d := getS s.d, q := getS s.a, need := s.an, m := getM s }

def encMpld (opc : Nat) (f : MpldF) : Slot := { slotOf opc f.g with a := specS f.a, tail := 0#22 ++ f.disp }
def decMpld (s : Slot) : MpldF := { g := getGuard s, a := getS s.a, disp := getDisp18 s }

/-- AZERO (`rel`: TAIL [0]) and LADRD: a tile in D. -/
def encTileD (opc : Nat) (rel : Bool) (f : TileF) : Slot :=
  { slotOf opc f.g with d := specA f.d, tail := 0#39 ++ bit1 rel }
def decTileD (s : Slot) : TileF := { g := getGuard s, d := getS s.d }
/-- LADPUSH: the tile stands in A. -/
def encTileA (opc : Nat) (f : TileF) : Slot := { slotOf opc f.g with a := specA f.d }
def decTileA (s : Slot) : TileF := { g := getGuard s, d := getS s.a }

def encTileMem (opc : Nat) (f : TileMemF) : Slot :=
  { slotOf opc f.g with d := specA f.d, a := specS f.a, b := optSpec specS f.b, tail := 0#22 ++ f.disp }
def decTileMem (s : Slot) : TileMemF :=
  { g := getGuard s, d := getS s.d, a := getS s.a, disp := getDisp18 s, b := getOpt getS s.b }

def encAcvt (opc : Nat) (f : AcvtF) : Slot :=
  { slotOf opc f.g with
    md := mfMod f.mf false, d := specQ f.q, dn := f.need, a := specA f.a,
    tail := tail2 specNone (0#20 ++ bit1 f.sat ++ f.rm.code ++ 0#2 ++ f.m) }
def decAcvt (s : Slot) : AcvtF :=
  { g := getGuard s, mf := getMf s, q := getS s.d, need := s.dn, a := getS s.a, m := fieldAt s.tail 0 6,
    rm := getRnd (fieldAt s.tail 8 3), sat := bitAt s.tail 11 }

def encLadcfg (opc : Nat) (f : LadcfgF) : Slot :=
  { slotOf opc f.g with d := specA f.d, tail := 0#31 ++ bit1 f.micro ++ 0#3 ++ f.r }
def decLadcfg (s : Slot) : LadcfgF :=
  { g := getGuard s, d := getS s.d, r := fieldAt s.tail 0 5, micro := bitAt s.tail 8 }

def encLadld (opc : Nat) (f : LadldF) : Slot :=
  { slotOf opc f.g with d := specA f.d, tail := 0#36 ++ BitVec.ofNat 4 f.j.val }
def decLadld (s : Slot) : LadldF := { g := getGuard s, d := getS s.d, j := Fin.ofNat 16 (fieldAt s.tail 0 4).toNat }

def encLadw (opc : Nat) (f : LadwF) : Slot :=
  { slotOf opc f.g with a := specV f.v, tail := 0#38 ++ BitVec.ofNat 2 f.grp.val }
def decLadw (s : Slot) : LadwF :=
  { g := getGuard s, v := getV s.a, grp := Fin.ofNat 4 (fieldAt s.tail 0 2).toNat }

def encAttncfg (opc : Nat) (f : AttncfgF) : Slot :=
  { slotOf opc f.g with a := specS f.a, tail := 0#33 ++ f.out.code ++ f.inp.code ++ f.dh.code }
def decAttncfg (s : Slot) : AttncfgF :=
  { g := getGuard s, a := getS s.a, dh := getHeadDim (fieldAt s.tail 0 2), inp := getAttnIn (fieldAt s.tail 2 3),
    out := getAttnOut (fieldAt s.tail 5 2) }

def encAttn (opc : Nat) (f : AttnF) : Slot :=
  { slotOf opc f.g with
    md := 0#3 ++ bit1 f.chk ++ 0#2, a := specS f.a, tail := tail2 (optSpec specS f.c) 0 }
def decAttn (s : Slot) : AttnF :=
  { g := getGuard s, chk := getChk s, a := getS s.a, c := getOpt getS (tailC s) }

def encNbmv (opc : Nat) (f : NbmvF) : Slot :=
  { slotOf opc f.g with
    md := mfMod f.mf f.chk, d := specS f.d, a := specS f.a, b := specS f.b, tail := tail2 (optSpec specS f.c) 0 }
def decNbmv (s : Slot) : NbmvF :=
  { g := getGuard s, mf := getMf s, chk := getChk s, d := getS s.d, a := getS s.a, b := getS s.b,
    c := getOpt getS (tailC s) }

/-! ### The opcode map (10 Table 10.6) -/

/-- The slot of an instruction, from the encoding tables; a device event has none. NOP and QADV stand on either
side (`side`). QCFG_BIND and QCFG_UNBIND are one encoding, which DIR tells apart when it runs (14 R295). -/
def encodeSlot : Instr → Option Slot
  | .add f => some (encAlu3 0x000 f)
  | .addi f => some (encAluI 0x001 f)
  | .sub f => some (encAlu3 0x002 f)
  | .mul f => some (encAlu3 0x003 f)
  | .mulh f => some (encAlu3 0x004 f)
  | .mulhz f => some (encAlu3 0x005 f)
  | .div f => some (encAlu3 0x006 f)
  | .divz f => some (encAlu3 0x007 f)
  | .rem f => some (encAlu3 0x008 f)
  | .remz f => some (encAlu3 0x009 f)
  | .minI f => some (encAlu3 0x00A f)
  | .maxI f => some (encAlu3 0x00B f)
  | .minz f => some (encAlu3 0x00C f)
  | .maxz f => some (encAlu3 0x00D f)
  | .andI f => some (encAlu3 0x020 f)
  | .orI f => some (encAlu3 0x021 f)
  | .xorI f => some (encAlu3 0x022 f)
  | .andn f => some (encAlu3 0x023 f)
  | .shl f => some (encAlu3 0x024 f)
  | .shr f => some (encAlu3 0x025 f)
  | .sar f => some (encAlu3 0x026 f)
  | .rol f => some (encAlu3 0x027 f)
  | .ror f => some (encAlu3 0x028 f)
  | .clz f => some (encAlu2 0x029 false f)
  | .ctz f => some (encAlu2 0x02A false f)
  | .popc f => some (encAlu2 0x02B false f)
  | .sext f => some (encAlu2 0x02C false f)
  | .zext f => some (encAlu2 0x02D true f)
  | .bfx f => some (encBitField 0x02E f)
  | .bfi f => some (encBitField 0x02F f)
  | .li f => some (encLi 0x040 f)
  | .lih f => some (encLih 0x041 f)
  | .lea f => some (encLea 0x042 f)
  | .adda f => some (encAdda 0x043 f)
  | .suba f => some (encAdda 0x044 f)
  | .select f => some (encSelect 0x045 f)
  | .cmp f => some (encCmp 0x080 f)
  | .cmpi f => some (encCmpi 0x081 f)
  | .kand f => some (encK3 0x082 f)
  | .kor f => some (encK3 0x083 f)
  | .kxor f => some (encK3 0x084 f)
  | .knot f => some (encK2 0x085 f)
  | .kmov f => some (encKmov 0x086 f)
  | .nop f => some (encBare 0x0A0 ⟨f.g⟩)
  | .br f => some (encBranch 0x0A1 f)
  | .jmp f => some (encReg 0x0A2 f)
  | .call f => some (encBranch 0x0A3 f)
  | .calli f => some (encReg 0x0A4 f)
  | .ret f => some (encBare 0x0A5 f)
  | .brq f => some (encBranch 0x0A6 f)
  | .endStrand f => some (encBare 0x0A7 f)
  | .loopR f => some (encLoop 0x0C0 f)
  | .loopi f => some (encLoopi 0x0C1 f)
  | .trapI f => some (encTrap 0x0E0 f)
  | .eret f => some (encBare 0x0E1 f)
  | .brk f => some (encBare 0x0E2 f)
  | .getc f => some (encGetc 0x0E3 f)
  | .setc f => some (encSetc 0x0E4 f)
  | .tlbiPage f => some (encTlbi 0x0E5 0 f)
  | .tlbiSpace f => some (encTlbi 0x0E5 1 f)
  | .tlbiPartition f => some (encTlbiAll 0x0E5 f)
  | .scan f => some (encDstReg 0x0E6 f)
  | .vadd f => some (encV3 0x100 f)
  | .vsub f => some (encV3 0x101 f)
  | .vmul f => some (encV3 0x102 f)
  | .vfma f => some (encV4 0x103 f)
  | .vfms f => some (encV4 0x104 f)
  | .vnfma f => some (encV4 0x105 f)
  | .vmin f => some (encV3n 0x106 f)
  | .vmax f => some (encV3n 0x107 f)
  | .vabs f => some (encV2 0x108 f)
  | .vneg f => some (encV2 0x109 f)
  | .vand f => some (encV3n 0x120 f)
  | .vor f => some (encV3n 0x121 f)
  | .vxor f => some (encV3n 0x122 f)
  | .vshl f => some (encV3n 0x123 f)
  | .vshr f => some (encV3n 0x124 f)
  | .vsar f => some (encV3n 0x125 f)
  | .vdot f => some (encVdot 0x140 f)
  | .vred f => some (encVred 0x141 f)
  | .vcmp f => some (encVcmp 0x180 f)
  | .vsel f => some (encVsel 0x181 f)
  | .vperm f => some (encVperm 0x182 f)
  | .vbcast f => some (encVbcast 0x183 f)
  | .vext f => some (encVext 0x184 f)
  | .vins f => some (encVins 0x185 f)
  | .vrcp f => some (encV2 0x1A0 f)
  | .vrsq f => some (encV2 0x1A1 f)
  | .vexp f => some (encV2 0x1A2 f)
  | .vexp2 f => some (encV2 0x1A3 f)
  | .vlog2 f => some (encV2 0x1A4 f)
  | .vtanh f => some (encV2 0x1A5 f)
  | .vsin f => some (encV2 0x1A6 f)
  | .vcos f => some (encV2 0x1A7 f)
  | .vcvt f => some (encVcvt 0x1C0 f)
  | .vpack f => some (encVpack 0x1C1 f)
  | .vunpk f => some (encVunpk 0x1C2 f)
  | .vloop f => some (encVloop 0x1E0 f)
  | .vdrain f => some (encBare 0x1E1 f)
  | .qcfgBind f => some (encQcfg 0x1E2 f)
  | .qcfgUnbind f => some (encQcfg 0x1E2 f)
  | .qlink f => some (encQueue 0x1E3 f)
  | .qadvP f => some (encQadv 0x1E4 f)
  | .qadvC f => some (encQadv 0x1E5 f)
  | .qstat f => some (encQstat 0x1E6 f)
  | .kpush f => some (encKpush 0x1E7 f)
  | .ld f => some (encLd 0x200 f)
  | .st f => some (encSt 0x201 f)
  | .ldq f => some (encLdq 0x220 false f)
  | .stq f => some (encLdq 0x221 true f)
  | .vld f => some (encVmem 0x240 false f)
  | .vst f => some (encVmem 0x241 true f)
  | .vlds f => some (encVstride 0x242 false f)
  | .vsts f => some (encVstride 0x243 true f)
  | .vgath f => some (encVindex 0x244 false f)
  | .vscat f => some (encVindex 0x245 true f)
  | .vgathBc f => some (encVgathBc 0x244 f)
  | .amoAdd f => some (encAmo 0x260 f)
  | .amoMin f => some (encAmo 0x261 f)
  | .amoMax f => some (encAmo 0x262 f)
  | .amoAnd f => some (encAmo 0x263 f)
  | .amoOr f => some (encAmo 0x264 f)
  | .amoXor f => some (encAmo 0x265 f)
  | .amoSwap f => some (encAmo 0x266 f)
  | .amoCas f => some (encCas 0x267 f)
  | .amofAdd f => some (encAmof 0x268 f)
  | .fence f => some (encFence 0x269 f)
  | .fenceSysLea f => some (encFenceLea 0x269 f)
  | .cpy f => some (encCpy 0x280 f)
  | .cpy2d f => some (encCpy 0x281 f)
  | .replay f => some (encReplay 0x282 f)
  | .cred f => some (encCred 0x283 f)
  | .eseq f => some (encEseq 0x284 f)
  | .rlqQuery f => some (encRlqQuery 0x285 f)
  | .rlqRelease f => some (encRlqRelease 0x285 f)
  | .mbind f => some (encMbind 0x2C9 f)
  | .munbind f => some (encReg 0x2CA f)
  | .invoke f => some (encInvoke 0x2A0 f)
  | .invoken f => some (encInvoken 0x2A1 f)
  | .sendMailbox f => some (encSendMbox 0x2A2 f)
  | .sendActive f => some (encSendAct 0x2A2 f)
  | .resolveValue f => some (encResolve 0x2A3 f)
  | .resolveObject f => some (encResolveObj 0x2A3 f)
  | .breakAnswer f => some (encBreak 0x2A4 f)
  | .when f => some (encWhen 0x2A5 f)
  | .hstat f => some (encDstReg 0x2A6 f)
  | .hget f => some (encHget 0x2A7 f)
  | .hsync f => some (encReg 0x2A8 f)
  | .hretire f => some (encReg 0x2A9 f)
  | .objnew f => some (encObjnew 0x2AA f)
  | .objfree f => some (encReg 0x2AB f)
  | .migr f => some (encReg 0x2AC f)
  | .migra f => some (encMigra 0x2AD f)
  | .hold f => some (encHold 0x2AE f)
  | .release f => some (encHold 0x2AF f)
  | .task f => some (encTask 0x2C0 f)
  | .tdec f => some (encTdec 0x2C1 f)
  | .launch f => some (encDstReg 0x2C2 f)
  | .cancel f => some (encReg 0x2C3 f)
  | .testc f => some (encTestc 0x2C4 f)
  | .phtok f => some (encRegD 0x2C5 f)
  | .phwait f => some (encPhwait 0x2C6 f)
  | .tqcfg f => some (encReg 0x2C7 f)
  | .tnext f => some (encRegD 0x2C8 f)
  | .fjoin f => some (encFold 0x2E0 f)
  | .fleave f => some (encFold 0x2E1 f)
  | .fmemb f => some (encFmemb 0x2E2 f)
  | .cbrAll f => some (encCbr 0x2E3 f)
  | .cbrAny f => some (encCbr 0x2E4 f)
  | .fsync f => some (encFold 0x2E5 f)
  | .bst f => some (encBst 0x2E6 f)
  | .bseq f => some (encBseq 0x2E7 f)
  | .wld f => some (encWld 0x300 f)
  | .wswp f => some (encBare 0x301 f)
  | .gang f => some (encBare 0x302 f)
  | .mma f => some (encMma 0x303 f)
  | .mmas f => some (encMma 0x304 f)
  | .mpld f => some (encMpld 0x305 f)
  | .mrec f => some (encMrec 0x306 f)
  | .azero f => some (encTileD 0x320 false f)
  | .azeroRelease f => some (encTileD 0x320 true f)
  | .ald f => some (encTileMem 0x321 f)
  | .ast f => some (encTileMem 0x322 f)
  | .acvt f => some (encAcvt 0x323 f)
  | .ladcfg f => some (encLadcfg 0x340 f)
  | .ladpush f => some (encTileA 0x341 f)
  | .ladrd f => some (encTileD 0x342 false f)
  | .ladld f => some (encLadld 0x343 f)
  | .ladw f => some (encLadw 0x344 f)
  | .attncfg f => some (encAttncfg 0x360 f)
  | .attn f => some (encAttn 0x361 f)
  | .nbmv f => some (encNbmv 0x362 f)
  | .strandSelect .. | .routinePromotion .. | .strandParkContext .. | .invocationArrival .. | .forwardedInvocation .. | .resolutionNotice ..
  | .breakNotice .. | .retireNotice .. | .retiredMarkExpiry .. | .pendingAnswerTimeout .. | .waiterRegistration .. | .registrationRetry ..
  | .hsyncRequest .. | .hsyncAck .. | .hsyncTimeout .. | .mailboxMessage .. | .activeMessage .. | .taskRelease ..
  | .contextMove .. | .contextReturn .. | .frameRelease .. | .eventRecordTaskDecrement .. | .eventRecordLevelDecrement .. | .eventRecordFaultNotice ..
  | .cancelAtShepherd .. | .launchDistribute .. | .pipelineMessageEnqueue .. | .pipelineDrain .. | .distributorEvaluation .. | .clusterPowerGate ..
  | .clusterWake .. | .preemptRequest .. | .resume .. | .trapEntry .. | .storeDenialResponse .. | .corePark ..
  | .parkactRetry .. | .parkactEnd .. | .strandWatchdog .. | .machineCheck .. | .routineTableWrite .. | .eventCounterSelectWrite ..
  | .controlBlockWrite .. | .brackenScanComplete .. | .remoteAccessResponse .. | .remoteTimeout .. | .flitResend .. | .requestFlitArrival ..
  | .retryResponse .. | .duplicateWindowRelease .. | .flitAgeDiscard .. | .subByteStore .. | .crossDieWriteApply .. | .awaitRewalk ..
  | .pageWaitTimeout .. | .queueWaitTimeout .. | .queueLinkFlit .. | .queueUnlinkFlit .. | .queueSlotWriteMessage .. | .queuePublishMessage ..
  | .queueCreditMessage .. | .engineCommandStart .. | .copySector .. | .engineCommandEnd .. | .credResult .. | .attnBlock ..
  | .attnPageRewalk .. | .attnPageTimeout .. | .ladderMerge .. | .gangOpen .. | .gangBarrierTimeout .. | .foldContribution ..
  | .foldOutcome .. | .foldLeaveRecorded .. | .foldEject .. | .foldOutcomeTimeout .. | .strikeReport .. | .patrolScrub ..
  | .poisonReport .. | .partitionFence .. | .teardownRelease .. | .linkFrameReceive .. | .linkAckSend .. | .linkAckReceive ..
  | .linkReplayRequest .. | .lossOfLight .. | .restripeNotice .. | .laserSocketFailure .. | .restripeMarker .. | .linkRetrain ..
  | .retrainRetry .. | .larkReceive .. | .leaOperationReceive .. | .larkTimeout .. | .uetRmaWrite .. | .uetRmaRead ..
  | .uetMailboxSend .. | .mgmtApplyConfig .. | .mgmtRemovePartition .. | .mgmtAttestationQuote .. | .mgmtSetPowerCap .. | .resetBoot ..
  | .powerTelemetryRefresh .. | .busVoltageFault .. | .boilingLimitRenewal .. | .boilingLimitLapse .. | .thermalThrottle .. | .thermalStop ..
  | .connectorCheck .. | .degradationReport .. | .ultraEthernetPortDown .. | .ultraEthernetPortUp .. | .uetConnectionSetup .. | .mgmtUnknownRequest ..
  | .signedImageViaUltraEthernet .. | .busVoltageRecovery .. | .thermalThrottleEnd .. | .foldJoinRecorded .. | .leaSequenceTimeout .. | .larkTransmitterRestore ..
  | .domainFormation .. | .leaGroupFormation .. => none

/-- The side an opcode stands on: false access, true execute, none either (10 Table 10.6). -/
def opSide (row col : Nat) : Option Bool :=
  match row with
  | 0x05 => if col = 0 then none else some false
  | 0x08 | 0x09 | 0x0A | 0x0C | 0x0D | 0x0E | 0x19 | 0x1A => some true
  | 0x0F =>
    match col with
    | 2 | 3 | 6 => some false
    | 4 | 5 => none
    | _ => some true
  | 0x18 => some (!(col = 0 || col = 5))
  | _ => some false

/-- Row 0x00: the fields of the slot, read by its column. -/
def readRow00 (col : Nat) (s : Slot) : Option Instr :=
  match col with
  | 0 => some (.add (decAlu3 s))
  | 1 => some (.addi (decAluI s))
  | 2 => some (.sub (decAlu3 s))
  | 3 => some (.mul (decAlu3 s))
  | 4 => some (.mulh (decAlu3 s))
  | 5 => some (.mulhz (decAlu3 s))
  | 6 => some (.div (decAlu3 s))
  | 7 => some (.divz (decAlu3 s))
  | 8 => some (.rem (decAlu3 s))
  | 9 => some (.remz (decAlu3 s))
  | 10 => some (.minI (decAlu3 s))
  | 11 => some (.maxI (decAlu3 s))
  | 12 => some (.minz (decAlu3 s))
  | 13 => some (.maxz (decAlu3 s))
  | _ => none

/-- Row 0x01: the fields of the slot, read by its column. -/
def readRow01 (col : Nat) (s : Slot) : Option Instr :=
  match col with
  | 0 => some (.andI (decAlu3 s))
  | 1 => some (.orI (decAlu3 s))
  | 2 => some (.xorI (decAlu3 s))
  | 3 => some (.andn (decAlu3 s))
  | 4 => some (.shl (decAlu3 s))
  | 5 => some (.shr (decAlu3 s))
  | 6 => some (.sar (decAlu3 s))
  | 7 => some (.rol (decAlu3 s))
  | 8 => some (.ror (decAlu3 s))
  | 9 => some (.clz (decAlu2 s))
  | 10 => some (.ctz (decAlu2 s))
  | 11 => some (.popc (decAlu2 s))
  | 12 => some (.sext (decAlu2 s))
  | 13 => some (.zext (decAlu2 s))
  | 14 => some (.bfx (decBitField s))
  | 15 => some (.bfi (decBitField s))
  | _ => none

/-- Row 0x02: the fields of the slot, read by its column. -/
def readRow02 (col : Nat) (s : Slot) : Option Instr :=
  match col with
  | 0 => some (.li (decLi s))
  | 1 => some (.lih (decLih s))
  | 2 => some (.lea (decLea s))
  | 3 => some (.adda (decAdda s))
  | 4 => some (.suba (decAdda s))
  | 5 => some (.select (decSelect s))
  | _ => none

/-- Row 0x04: the fields of the slot, read by its column. -/
def readRow04 (col : Nat) (s : Slot) : Option Instr :=
  match col with
  | 0 => some (.cmp (decCmp s))
  | 1 => some (.cmpi (decCmpi s))
  | 2 => some (.kand (decK3 s))
  | 3 => some (.kor (decK3 s))
  | 4 => some (.kxor (decK3 s))
  | 5 => some (.knot (decK2 s))
  | 6 => some (.kmov (decKmov s))
  | _ => none

/-- Row 0x05: the fields of the slot, read by its column. -/
def readRow05 (side : Bool) (col : Nat) (s : Slot) : Option Instr :=
  match col with
  | 0 => some (.nop ⟨getGuard s, side⟩)
  | 1 => some (.br (decBranch s))
  | 2 => some (.jmp (decReg s))
  | 3 => some (.call (decBranch s))
  | 4 => some (.calli (decReg s))
  | 5 => some (.ret (decBare s))
  | 6 => some (.brq (decBranch s))
  | 7 => some (.endStrand (decBare s))
  | _ => none

/-- Row 0x06: the fields of the slot, read by its column. -/
def readRow06 (col : Nat) (s : Slot) : Option Instr :=
  match col with
  | 0 => some (.loopR (decLoop s))
  | 1 => some (.loopi (decLoopi s))
  | _ => none

/-- Row 0x07: the fields of the slot, read by its column. -/
def readRow07 (col : Nat) (s : Slot) : Option Instr :=
  match col with
  | 0 => some (.trapI (decTrap s))
  | 1 => some (.eret (decBare s))
  | 2 => some (.brk (decBare s))
  | 3 => some (.getc (decGetc s))
  | 4 => some (.setc (decSetc s))
  | 5 => if s.b = specImm 0 then some (.tlbiPage (decTlbi s)) else if s.b = specImm 1 then some (.tlbiSpace (decTlbi s)) else some (.tlbiPartition (decBare s))
  | 6 => some (.scan (decDstReg s))
  | _ => none

/-- Row 0x08: the fields of the slot, read by its column. -/
def readRow08 (col : Nat) (s : Slot) : Option Instr :=
  match col with
  | 0 => some (.vadd (decV3 s))
  | 1 => some (.vsub (decV3 s))
  | 2 => some (.vmul (decV3 s))
  | 3 => some (.vfma (decV4 s))
  | 4 => some (.vfms (decV4 s))
  | 5 => some (.vnfma (decV4 s))
  | 6 => some (.vmin (decV3n s))
  | 7 => some (.vmax (decV3n s))
  | 8 => some (.vabs (decV2 s))
  | 9 => some (.vneg (decV2 s))
  | _ => none

/-- Row 0x09: the fields of the slot, read by its column. -/
def readRow09 (col : Nat) (s : Slot) : Option Instr :=
  match col with
  | 0 => some (.vand (decV3n s))
  | 1 => some (.vor (decV3n s))
  | 2 => some (.vxor (decV3n s))
  | 3 => some (.vshl (decV3n s))
  | 4 => some (.vshr (decV3n s))
  | 5 => some (.vsar (decV3n s))
  | _ => none

/-- Row 0x0A: the fields of the slot, read by its column. -/
def readRow0A (col : Nat) (s : Slot) : Option Instr :=
  match col with
  | 0 => some (.vdot (decVdot s))
  | 1 => some (.vred (decVred s))
  | _ => none

/-- Row 0x0C: the fields of the slot, read by its column. -/
def readRow0C (col : Nat) (s : Slot) : Option Instr :=
  match col with
  | 0 => some (.vcmp (decVcmp s))
  | 1 => some (.vsel (decVsel s))
  | 2 => some (.vperm (decVperm s))
  | 3 => some (.vbcast (decVbcast s))
  | 4 => some (.vext (decVext s))
  | 5 => some (.vins (decVins s))
  | _ => none

/-- Row 0x0D: the fields of the slot, read by its column. -/
def readRow0D (col : Nat) (s : Slot) : Option Instr :=
  match col with
  | 0 => some (.vrcp (decV2 s))
  | 1 => some (.vrsq (decV2 s))
  | 2 => some (.vexp (decV2 s))
  | 3 => some (.vexp2 (decV2 s))
  | 4 => some (.vlog2 (decV2 s))
  | 5 => some (.vtanh (decV2 s))
  | 6 => some (.vsin (decV2 s))
  | 7 => some (.vcos (decV2 s))
  | _ => none

/-- Row 0x0E: the fields of the slot, read by its column. -/
def readRow0E (col : Nat) (s : Slot) : Option Instr :=
  match col with
  | 0 => some (.vcvt (decVcvt s))
  | 1 => some (.vpack (decVpack s))
  | 2 => some (.vunpk (decVunpk s))
  | _ => none

/-- Row 0x0F: the fields of the slot, read by its column. -/
def readRow0F (side : Bool) (col : Nat) (s : Slot) : Option Instr :=
  match col with
  | 0 => some (.vloop (decVloop s))
  | 1 => some (.vdrain (decBare s))
  | 2 => some (.qcfgBind (decQcfg s))
  | 3 => some (.qlink (decQueue s))
  | 4 => some (.qadvP (decQadv side s))
  | 5 => some (.qadvC (decQadv side s))
  | 6 => some (.qstat (decQstat s))
  | 7 => some (.kpush (decKpush s))
  | _ => none

/-- Row 0x10: the fields of the slot, read by its column. -/
def readRow10 (col : Nat) (s : Slot) : Option Instr :=
  match col with
  | 0 => some (.ld (decLd s))
  | 1 => some (.st (decSt s))
  | _ => none

/-- Row 0x11: the fields of the slot, read by its column. -/
def readRow11 (col : Nat) (s : Slot) : Option Instr :=
  match col with
  | 0 => some (.ldq (decLdq s))
  | 1 => some (.stq (decLdq s))
  | _ => none

/-- Row 0x12: the fields of the slot, read by its column. -/
def readRow12 (col : Nat) (s : Slot) : Option Instr :=
  match col with
  | 0 => some (.vld (decVmem s))
  | 1 => some (.vst (decVmem s))
  | 2 => some (.vlds (decVstride s))
  | 3 => some (.vsts (decVstride s))
  | 4 => if bitAt s.tail 18 then some (.vgathBc (decVgathBc s)) else some (.vgath (decVindex s))
  | 5 => some (.vscat (decVindex s))
  | _ => none

/-- Row 0x13: the fields of the slot, read by its column. -/
def readRow13 (col : Nat) (s : Slot) : Option Instr :=
  match col with
  | 0 => some (.amoAdd (decAmo s))
  | 1 => some (.amoMin (decAmo s))
  | 2 => some (.amoMax (decAmo s))
  | 3 => some (.amoAnd (decAmo s))
  | 4 => some (.amoOr (decAmo s))
  | 5 => some (.amoXor (decAmo s))
  | 6 => some (.amoSwap (decAmo s))
  | 7 => some (.amoCas (decCas s))
  | 8 => some (.amofAdd (decAmof s))
  | 9 => if bitAt s.md 1 then some (.fenceSysLea (decFenceLea s)) else some (.fence (decFence s))
  | _ => none

/-- Row 0x14: the fields of the slot, read by its column. -/
def readRow14 (col : Nat) (s : Slot) : Option Instr :=
  match col with
  | 0 => some (.cpy (decCpy s))
  | 1 => some (.cpy2d (decCpy s))
  | 2 => some (.replay (decReplay s))
  | 3 => some (.cred (decCred s))
  | 4 => some (.eseq (decEseq s))
  | 5 => if s.b = specImm 0 then some (.rlqQuery (decRlqQuery s)) else some (.rlqRelease (decRlqRelease s))
  | _ => none

/-- Row 0x15: the fields of the slot, read by its column. -/
def readRow15 (col : Nat) (s : Slot) : Option Instr :=
  match col with
  | 0 => some (.invoke (decInvoke s))
  | 1 => some (.invoken (decInvoken s))
  | 2 => if bitAt s.md 0 then some (.sendActive (decSendAct s)) else some (.sendMailbox (decSendMbox s))
  | 3 => if bitAt s.md 0 then some (.resolveObject (decReg2 s)) else some (.resolveValue (decResolve s))
  | 4 => some (.breakAnswer (decBreak s))
  | 5 => some (.when (decWhen s))
  | 6 => some (.hstat (decDstReg s))
  | 7 => some (.hget (decHget s))
  | 8 => some (.hsync (decReg s))
  | 9 => some (.hretire (decReg s))
  | 10 => some (.objnew (decObjnew s))
  | 11 => some (.objfree (decReg s))
  | 12 => some (.migr (decReg s))
  | 13 => some (.migra (decMigra s))
  | 14 => some (.hold (decHold s))
  | 15 => some (.release (decHold s))
  | _ => none

/-- Row 0x16: the fields of the slot, read by its column. -/
def readRow16 (col : Nat) (s : Slot) : Option Instr :=
  match col with
  | 0 => some (.task (decTask s))
  | 1 => some (.tdec (decTdec s))
  | 2 => some (.launch (decDstReg s))
  | 3 => some (.cancel (decReg s))
  | 4 => some (.testc (decTestc s))
  | 5 => some (.phtok (decRegD s))
  | 6 => some (.phwait (decPhwait s))
  | 7 => some (.tqcfg (decReg s))
  | 8 => some (.tnext (decRegD s))
  | 9 => some (.mbind (decMbind s))
  | 10 => some (.munbind (decReg s))
  | _ => none

/-- Row 0x17: the fields of the slot, read by its column. -/
def readRow17 (col : Nat) (s : Slot) : Option Instr :=
  match col with
  | 0 => some (.fjoin (decFold s))
  | 1 => some (.fleave (decFold s))
  | 2 => some (.fmemb (decFmemb s))
  | 3 => some (.cbrAll (decCbr s))
  | 4 => some (.cbrAny (decCbr s))
  | 5 => some (.fsync (decFold s))
  | 6 => some (.bst (decBst s))
  | 7 => some (.bseq (decBseq s))
  | _ => none

/-- Row 0x18: the fields of the slot, read by its column. -/
def readRow18 (col : Nat) (s : Slot) : Option Instr :=
  match col with
  | 0 => some (.wld (decWld s))
  | 1 => some (.wswp (decBare s))
  | 2 => some (.gang (decBare s))
  | 3 => some (.mma (decMma s))
  | 4 => some (.mmas (decMma s))
  | 5 => some (.mpld (decMpld s))
  | 6 => some (.mrec (decMrec s))
  | _ => none

/-- Row 0x19: the fields of the slot, read by its column. -/
def readRow19 (col : Nat) (s : Slot) : Option Instr :=
  match col with
  | 0 => if bitAt s.tail 0 then some (.azeroRelease (decTileD s)) else some (.azero (decTileD s))
  | 1 => some (.ald (decTileMem s))
  | 2 => some (.ast (decTileMem s))
  | 3 => some (.acvt (decAcvt s))
  | _ => none

/-- Row 0x1A: the fields of the slot, read by its column. -/
def readRow1A (col : Nat) (s : Slot) : Option Instr :=
  match col with
  | 0 => some (.ladcfg (decLadcfg s))
  | 1 => some (.ladpush (decTileA s))
  | 2 => some (.ladrd (decTileD s))
  | 3 => some (.ladld (decLadld s))
  | 4 => some (.ladw (decLadw s))
  | _ => none

/-- Row 0x1B: the fields of the slot, read by its column. -/
def readRow1B (col : Nat) (s : Slot) : Option Instr :=
  match col with
  | 0 => some (.attncfg (decAttncfg s))
  | 1 => some (.attn (decAttn s))
  | 2 => some (.nbmv (decNbmv s))
  | _ => none

/-- The fields of a slot, read by its opcode; none where Table 10.6 names no instruction. -/
def readSlot (side : Bool) (s : Slot) : Option Instr :=
  let col := s.opc.toNat % 32
  match s.opc.toNat / 32 with
  | 0x00 => readRow00 col s
  | 0x01 => readRow01 col s
  | 0x02 => readRow02 col s
  | 0x04 => readRow04 col s
  | 0x05 => readRow05 side col s
  | 0x06 => readRow06 col s
  | 0x07 => readRow07 col s
  | 0x08 => readRow08 col s
  | 0x09 => readRow09 col s
  | 0x0A => readRow0A col s
  | 0x0C => readRow0C col s
  | 0x0D => readRow0D col s
  | 0x0E => readRow0E col s
  | 0x0F => readRow0F side col s
  | 0x10 => readRow10 col s
  | 0x11 => readRow11 col s
  | 0x12 => readRow12 col s
  | 0x13 => readRow13 col s
  | 0x14 => readRow14 col s
  | 0x15 => readRow15 col s
  | 0x16 => readRow16 col s
  | 0x17 => readRow17 col s
  | 0x18 => readRow18 col s
  | 0x19 => readRow19 col s
  | 0x1A => readRow1A col s
  | 0x1B => readRow1B col s
  | _ => none

/-- The side rule of Table 10.6 (check 5 of Table 10.7). -/
def sideOk (s : Slot) (side : Bool) : Bool :=
  match opSide (s.opc.toNat / 32) (s.opc.toNat % 32) with
  | none => true
  | some x => x == side

/-- The guard of an instruction; an event has none. -/
def Instr.guard (i : Instr) : Guard :=
  match encodeSlot i with
  | some s => getGuard s
  | none => { neg := false, k := 0 }

/-- Slot `pos` of a line, whose SIDE bit is `side`: the instruction, or the first check of 4 to 7 of Table 10.7 that
it fails. -/
def decodeSlot (pos : Nat) (side : Bool) (s : Slot) : Except Reject Instr :=
  match readSlot side s with
  | none => .error .opcode
  | some i =>
    if !sideOk s side then .error .side
    else if encodeSlot i ≠ some s then .error .fields
    else if i.wf pos then .ok i
    else if (getGuard s).ok then .error .fields
    else
      match readSlot side { s with gneg := 0 } with
      | some j => if j.wf pos then .error .guard else .error .fields
      | none => .error .opcode

/-- Slot `pos` with its 96 bits. -/
def decode (pos : Nat) (side : Bool) (w : SlotBits) : Except Reject Instr :=
  decodeSlot pos side (Slot.unpack w)

/-- The 96 bits of an instruction. -/
def encode (i : Instr) : Option SlotBits := (encodeSlot i).map Slot.pack

/-- The SIDE bit that goes with an instruction. -/
def Instr.side : Instr → Bool
  | .nop f => f.exec
  | .qadvP f => f.exec
  | .qadvC f => f.exec
  | i =>
    match encodeSlot i with
    | some s => (opSide (s.opc.toNat / 32) (s.opc.toNat % 32)).getD false
    | none => false

/-- MOD [85] of the rows that have shadow forms (10 R210). -/
def Slot.shadow (s : Slot) : Bool :=
  let row := s.opc.toNat / 32
  (decide (row ≤ 2) || (decide (8 ≤ row) && decide (row ≤ 14)) || (decide (16 ≤ row) && decide (row ≤ 20))) &&
    bitAt s.md 5

/-- The opcodes whose TAIL is form 3 (12 Tables 12.9, 12.10; 17 Table 17.1). -/
def Slot.form3 (s : Slot) : Bool :=
  decide (s.opc.toNat ∈ [0x0A1, 0x0A3, 0x0A6, 0x0C0, 0x2A5, 0x2C6, 0x2E3, 0x2E4])

/-- The instruction the decoder reads from a word numbered as the opcode table numbers it: a slot on the side its
opcode asks for, in slot 0 of its line. -/
def decodeTableWord (nbits w : Nat) : Option Instr :=
  let bits : SlotBits := BitVec.ofNat 96 (w % 2 ^ nbits)
  let s := Slot.unpack bits
  match decodeSlot 0 ((opSide (s.opc.toNat / 32) (s.opc.toNat % 32)).getD false) s with
  | .ok i => some i
  | .error _ => none

end Sys2Proof
end

