-- ==== Sys2Proof/Machine/Keccak.lean ====
section
/-! DEFINITION. Byte strings as numbers, and SHAKE256 (FIPS 202), which seals a scanned leaf (10 R222) and measures records
and images (28 R493, R494): PRESUMED from the standard that the manual names. The state of 1,600 bits is one number: row y
takes 320 of its bits, and lane x of a row 64 of those. -/

namespace Sys2Proof.Machine

/-! ### Little-endian byte strings -/

def leVal : List Byte → Nat
  | [] => 0
  | b :: t => b.toNat + 256 * leVal t
def leBytes : Nat → Nat → List Byte
  | 0, _ => []
  | n + 1, v => BitVec.ofNat 8 v :: leBytes n (v / 256)

/-! ### The sponge's permutation -/

/-- `v` of `w` bits turned left by `n`. -/
def turnLeft (w n v : Nat) : Nat := (v <<< n ||| v >>> (w - n)) % 2 ^ w
def spongeRow (st y : Nat) : Nat := st >>> (320 * y) % 2 ^ 320
def overRows (f : Nat → Nat) : Nat := (List.range 5).foldl (fun acc y => acc ||| f y <<< (320 * y)) 0
/-- Each lane of a row turned left by one bit: its low 63 bits move up, and its top bit comes in below. -/
def laneTops : Nat := (List.range 5).foldl (fun m x => m ||| 2 ^ (64 * x + 63)) 0
def turnLanes (row : Nat) : Nat := (row &&& (2 ^ 320 - 1 - laneTops)) <<< 1 ||| (row &&& laneTops) >>> 63

/-- Every lane takes up the parities of the columns at either side, the right one turned. -/
def mixColumns (st : Nat) : Nat :=
  let par := (List.range 5).foldl (fun c y => c ^^^ spongeRow st y) 0
  let d := turnLeft 320 64 par ^^^ turnLanes (turnLeft 320 256 par)
  st ^^^ overRows (fun _ => d)

/-- Lanes move along the path (x, y), (y, 2x + 3y), … from (1, 0): the step numbered `t` turns the lane by the triangular number
of t + 1. Lane (0, 0) stays. -/
def moveLanes (st : Nat) : Nat → Nat → Nat → Nat → Nat
  | 0, _, _, _ => st % 2 ^ 64
  | n + 1, t, x, y =>
    let lane := st >>> (320 * y + 64 * x) % 2 ^ 64
    let y' := (2 * x + 3 * y) % 5
    turnLeft 64 ((t + 1) * (t + 2) / 2 % 64) lane <<< (320 * y' + 64 * y) ||| moveLanes st n (t + 1) y y'

/-- Within a row, a bit flips where its right neighbour is 0 and the next is 1. -/
def bendRow (row : Nat) : Nat := row ^^^ ((2 ^ 320 - 1 - turnLeft 320 256 row) &&& turnLeft 320 192 row)

/-- The bits of a round's constant, at 2^j − 1 of lane (0, 0), come from an 8-bit feedback register, seven to a round. -/
def feedback (r : Nat) : Nat := if r < 128 then 2 * r else 2 * r ^^^ 0x171
def roundBits (r : Nat) : Nat × Nat :=
  (List.range 7).foldl (fun p j => (p.1 ||| (p.2 % 2) <<< (2 ^ j - 1), feedback p.2)) (0, r)
def permuteRounds : Nat → Nat → Nat → Nat
  | 0, _, st => st
  | n + 1, r, st =>
    let moved := moveLanes (mixColumns st) 24 0 1 0
    let c := roundBits r
    permuteRounds n c.2 (overRows (fun y => bendRow (spongeRow moved y)) ^^^ c.1)
def permute1600 (st : Nat) : Nat := permuteRounds 24 1 st

/-! ### SHAKE256 -/

/-- The state after a message: 136 bytes at a time, the last block with the suffix 1111 and its padding. -/
def spongeOf : Nat → List Byte → Nat → Nat
  | 0, _, st => st
  | n + 1, msg, st =>
    if msg.length < 136 then permute1600 (st ^^^ leVal msg ^^^ 0x1F <<< (8 * msg.length) ^^^ 0x80 <<< 1080)
    else spongeOf n (msg.drop 136) (permute1600 (st ^^^ leVal (msg.take 136)))

/-- The first `n` ≤ 136 bytes of SHAKE256(msg). -/
def shake256 (msg : List Byte) (n : Nat) : List Byte := leBytes n (spongeOf (msg.length / 136 + 1) msg 0)

end Sys2Proof.Machine
end

