-- ==== Sys2Proof/Machine/Num.lean ====
section
/-! DEFINITION. Exact numbers and the number formats of chapter 05: decoding (R108 to R110), rounding (R127 to R130),
overflow and flags (R128, R132), block elements and pairs (R115 to R118). Every result is computed on integers and
narrowed once. -/

namespace Sys2Proof.Machine

/-- FSTAT's six flags (05 Table 5.7), bit 0 NV to bit 5 SAT. -/
abbrev Flags := BitVec 6
def flagNV : Flags := 1
def flagDZ : Flags := 2
def flagOF : Flags := 4
def flagUF : Flags := 8
def flagNX : Flags := 16
def flagSAT : Flags := 32
def flagIf (b : Bool) (f : Flags) : Flags := if b then f else 0

def b2n (b : Bool) : Nat := if b then 1 else 0
/-- How many bits are set. -/
def ones {w : Nat} (x : BitVec w) : Nat := (List.range w).foldl (fun n i => n + b2n (x.getLsbD i)) 0

/-- The five rounding modes (05 R127). -/
inductive Mode where
  | rn | rz | rd | ru | rs
  deriving DecidableEq, Repr, Inhabited

/-- FCTL.RM (05 R133): 101 to 111 act as rn. -/
def modeOfFctl (fctl : DWord) : Mode :=
  match (fctl.extractLsb' 0 3).toNat with
  | 1 => .rz | 2 => .rd | 3 => .ru | 4 => .rs | _ => .rn

/-- The mode of an RM field (14 Table 14.3). -/
def modeOf (rm : RndField) (fctl : DWord) : Mode :=
  match rm with
  | .fctl => modeOfFctl fctl
  | .rn => .rn | .rz => .rz | .rd => .rd | .ru => .ru | .rs => .rs

/-- An exact value: NaN, an infinity, or (−1)^neg × m × 2^e, whose zero carries a sign (05 R109 to R112). -/
inductive Num where
  | nan
  | inf (neg : Bool)
  | fin (neg : Bool) (m : Nat) (e : Int)
  deriving DecidableEq, Repr, Inhabited

def numZero : Num := .fin false 0 0
def numOfInt (x : Int) : Num := .fin (decide (x < 0)) x.natAbs 0

def Num.isNaN : Num → Bool
  | .nan => true
  | _ => false

/-! ### Floating-point formats (05 Tables 5.1 and 5.2) -/

inductive FpFmt where
  | fp32 | fp16 | bf16 | e4m3 | e5m2 | e2m1
  deriving DecidableEq, Repr, Inhabited

def FpFmt.bits : FpFmt → Nat
  | .fp32 => 32 | .fp16 => 16 | .bf16 => 16 | .e4m3 => 8 | .e5m2 => 8 | .e2m1 => 4
def FpFmt.ebits : FpFmt → Nat
  | .fp32 => 8 | .fp16 => 5 | .bf16 => 8 | .e4m3 => 4 | .e5m2 => 5 | .e2m1 => 2
def FpFmt.fbits : FpFmt → Nat
  | .fp32 => 23 | .fp16 => 10 | .bf16 => 7 | .e4m3 => 3 | .e5m2 => 2 | .e2m1 => 1
def FpFmt.bias : FpFmt → Int
  | .fp32 => 127 | .fp16 => 15 | .bf16 => 127 | .e4m3 => 7 | .e5m2 => 15 | .e2m1 => 1
def FpFmt.hasInf : FpFmt → Bool
  | .e4m3 | .e2m1 => false
  | _ => true
/-- The canonical NaN (05 Table 5.2); E2M1 has none, and a NaN converted to it gives +0 (R128). -/
def FpFmt.nanBits : FpFmt → Nat
  | .fp32 => 0x7FFFFFFF | .fp16 => 0x7FFF | .bf16 => 0x7FFF | .e4m3 => 0x7F | .e5m2 => 0x7F | .e2m1 => 0
/-- The largest finite magnitude's encoding (05 Table 5.1). -/
def FpFmt.maxBits : FpFmt → Nat
  | .fp32 => 0x7F7FFFFF | .fp16 => 0x7BFF | .bf16 => 0x7F7F | .e4m3 => 0x7E | .e5m2 => 0x7B | .e2m1 => 7
def FpFmt.infBits : FpFmt → Nat
  | .fp32 => 0x7F800000 | .fp16 => 0x7C00 | .bf16 => 0x7F80 | .e4m3 => 0x7F | .e5m2 => 0x7C | .e2m1 => 7
def FpFmt.signBit (f : FpFmt) : Nat := 2 ^ (f.bits - 1)
/-- Exponent of the smallest subnormal. -/
def FpFmt.quantum (f : FpFmt) : Int := 1 - f.bias - f.fbits
/-- Exponent of the smallest normal. -/
def FpFmt.minExp (f : FpFmt) : Int := 1 - f.bias

/-- Decode (05 R109, R110). -/
def fpDecode (f : FpFmt) (bits : Nat) : Num :=
  let b := bits % 2 ^ f.bits
  let neg := decide (f.signBit ≤ b)
  let mag := b % f.signBit
  let ex := mag / 2 ^ f.fbits
  let fr := mag % 2 ^ f.fbits
  if f.hasInf && ex == 2 ^ f.ebits - 1 then (if fr = 0 then .inf neg else .nan)
  else if f = .e4m3 ∧ mag = 0x7F then .nan
  else if ex = 0 then .fin neg fr f.quantum
  else .fin neg (2 ^ f.fbits + fr) ((ex : Int) - f.bias - f.fbits)

/-! ### Rounding (05 R127, R129) -/

/-- One LFSR step (05 R130): the state is also the draw. -/
def lfsrStep (seed : BitVec 32) : BitVec 32 :=
  if seed.getLsbD 0 then (seed >>> 1) ^^^ 0x80200003#32 else seed >>> 1

/-- Magnitude m × 2^−k rounded to an integer: q and r are its quotient and remainder by 2^k, `u` a draw (05 R129). -/
def roundMag (mode : Mode) (neg : Bool) (m k : Nat) (u : Nat) : Nat :=
  let q := m / 2 ^ k
  let r := m % 2 ^ k
  if r = 0 then q
  else
    match mode with
    | .rn => if 2 * r > 2 ^ k then q + 1 else if 2 * r = 2 ^ k then q + q % 2 else q
    | .rz => q
    | .rd => if neg then q + 1 else q
    | .ru => if neg then q else q + 1
    | .rs =>
      if neg then (if (2 ^ k - r) * 2 ^ 32 > u * 2 ^ k then q else q + 1)
      else (if r * 2 ^ 32 > u * 2 ^ k then q + 1 else q)

/-- m × 2^e in units of 2^quantum: the rounded magnitude, whether it is inexact, and the LFSR state after the draw that
an inexact rounding under rs takes. A magnitude that lies on the grid takes no draw, also where it then overflows, and so does
an infinity that a format without one replaces: the spec names no such draw (DESIGN CHOICE, log 56). -/
def roundAt (mode : Mode) (neg : Bool) (m : Nat) (e quantum : Int) (seed : BitVec 32) : Nat × Bool × BitVec 32 :=
  if quantum ≤ e then (m * 2 ^ (e - quantum).toNat, false, seed)
  else
    let k := (quantum - e).toNat
    if m % 2 ^ k = 0 then (m / 2 ^ k, false, seed)
    else if mode = .rs then
      let s := lfsrStep seed
      (roundMag mode neg m k s.toNat, true, s)
    else (roundMag mode neg m k 0, true, seed)

/-- An encoded result: its bits, its flags, the LFSR state after it. -/
structure Enc where
  bits : Nat
  flags : Flags
  seed : BitVec 32
  deriving DecidableEq, Repr, Inhabited

/-- What overflow gives (05 R128). -/
def fpOverflow (f : FpFmt) (mode : Mode) (neg sat : Bool) : Nat × Flags :=
  let sg := if neg then f.signBit else 0
  if sat then (sg + f.maxBits, flagSAT ||| flagNX)
  else
    match f with
    | .e4m3 => (f.nanBits, flagOF ||| flagNX)
    | .e2m1 => (sg + f.maxBits, flagOF ||| flagNX)
    | _ =>
      let toInf := match mode with
        | .rn | .rs => true
        | .rz => false
        | .rd => neg
        | .ru => !neg
      (sg + (if toInf then f.infBits else f.maxBits), flagOF ||| flagNX)

/-- Encode a finite non-zero magnitude (05 R128, R129, R132). -/
def fpEncodeFin (f : FpFmt) (mode : Mode) (sat neg : Bool) (m : Nat) (e : Int) (seed : BitVec 32) : Enc :=
  let p := f.fbits
  let top : Int := (Nat.log2 m : Int) + e
  let q0 : Int := max (top - p) f.quantum
  let (r0, inexact, seed') := roundAt mode neg m e q0 seed
  let carry := decide (2 ^ (p + 1) ≤ r0)
  let r := if carry then r0 / 2 else r0
  let q := if carry then q0 + 1 else q0
  let sg := if neg then f.signBit else 0
  let mag : Nat := if r < 2 ^ p then r else ((q + p + f.bias).toNat) * 2 ^ p + (r - 2 ^ p)
  if mag > f.maxBits then
    let (b, fl) := fpOverflow f mode neg sat
    { bits := b, flags := fl, seed := seed' }
  else
    { bits := sg + mag,
      flags := flagIf inexact flagNX ||| flagIf (inexact && decide (top < f.minExp)) flagUF, seed := seed' }

/-- Encode (05 R128): the bits, flags and LFSR state. -/
def fpEncode (f : FpFmt) (mode : Mode) (sat : Bool) (x : Num) (seed : BitVec 32) : Enc :=
  match x with
  | .nan => { bits := f.nanBits, flags := flagIf (f == .e2m1) flagNV, seed := seed }
  | .inf neg =>
    if f.hasInf then { bits := (if neg then f.signBit else 0) + f.infBits, flags := 0, seed := seed }
    else
      let (b, fl) := fpOverflow f mode neg sat
      { bits := b, flags := fl, seed := seed }
  | .fin neg m e =>
    if m = 0 then { bits := if neg then f.signBit else 0, flags := 0, seed := seed }
    else fpEncodeFin f mode sat neg m e seed

/-! ### Exact arithmetic -/

/-- −x. -/
def Num.neg : Num → Num
  | .nan => .nan
  | .inf n => .inf (!n)
  | .fin n m e => .fin (!n) m e

/-- The signed mantissa at exponent `e0 ≤ e`. -/
def scaled (neg : Bool) (m : Nat) (e e0 : Int) : Int :=
  let v : Int := (m : Int) * 2 ^ (e - e0).toNat
  if neg then -v else v

/-- x × y; the flag says 0 × ∞ on non-NaN operands (05 R111). -/
def numMul (x y : Num) : Num × Flags :=
  match x, y with
  | .nan, _ | _, .nan => (.nan, 0)
  | .inf a, .inf b => (.inf (a != b), 0)
  | .inf a, .fin b m _ => if m = 0 then (.nan, flagNV) else (.inf (a != b), 0)
  | .fin a m _, .inf b => if m = 0 then (.nan, flagNV) else (.inf (a != b), 0)
  | .fin a m e, .fin b n f => (.fin (a != b) (m * n) (e + f), 0)

/-- The exact sum of finite terms, as a mantissa at exponent `e0`. -/
def sumFin (e0 : Int) : List Num → Int
  | [] => 0
  | .fin n m e :: t => scaled n m e e0 + sumFin e0 t
  | _ :: t => sumFin e0 t

def minExpOf : List Num → Int → Int
  | [], e0 => e0
  | .fin _ m e :: t, e0 => minExpOf t (if m = 0 then e0 else min e e0)
  | _ :: t, e0 => minExpOf t e0

/-- The exact sum of the terms (05 R112, R137, R138): NaN from a NaN term, NaN with NV from infinities of both signs;
an exact zero is −0 when every term is −0, +0 when every term is +0, and otherwise −0 under rd and +0 else. -/
def numSum (mode : Mode) (ts : List Num) : Num × Flags :=
  let pos := ts.any (fun x => x == .inf false)
  let neg := ts.any (fun x => x == .inf true)
  if pos && neg then (.nan, flagNV)
  else if ts.any Num.isNaN then (.nan, 0)
  else if pos then (.inf false, 0)
  else if neg then (.inf true, 0)
  else
    let e0 := minExpOf ts 0
    let v := sumFin e0 ts
    if v ≠ 0 then (.fin (decide (v < 0)) v.natAbs e0, 0)
    else
      let allNeg := !ts.isEmpty && ts.all (fun x => match x with | .fin n m _ => n && m == 0 | _ => false)
      let allPos := ts.all (fun x => match x with | .fin n m _ => !n && m == 0 | _ => false)
      (.fin (allNeg || (!allPos && mode == .rd)) 0 0, 0)

/-- a × b + c exactly: a NaN input gives NaN without NV (05 R111). -/
def numFma (mode : Mode) (a b c : Num) : Num × Flags :=
  if a.isNaN || b.isNaN || c.isNaN then (.nan, 0)
  else
    let (p, f) := numMul a b
    if f ≠ 0 then (.nan, f) else numSum mode [p, c]

/-- Compare two values that are not NaN, −0 equal to +0. -/
def numLt (x y : Num) : Bool :=
  match x, y with
  | .nan, _ | _, .nan => false
  | .inf a, .inf b => a && !b
  | .inf a, _ => a
  | _, .inf b => !b
  | .fin a m e, .fin b n f =>
    let e0 := min e f
    decide (scaled a m e e0 < scaled b n f e0)
def numEq (x y : Num) : Bool := !x.isNaN && !y.isNaN && !numLt x y && !numLt y x

/-- The sign of a value. -/
def Num.isNeg : Num → Bool
  | .nan => false
  | .inf n => n
  | .fin n _ _ => n

/-- The order of R273: −0 below +0. -/
def numLtZ (x y : Num) : Bool := numLt x y || (numEq x y && x.isNeg && !y.isNeg)

/-- Round to an integer in a range (05 R132, 14 Table 14.9): NaN gives 0, infinity and out-of-range values the nearest
bound, each with NV. -/
def numToInt (mode : Mode) (lo hi : Int) (x : Num) (seed : BitVec 32) : Int × Flags × BitVec 32 :=
  match x with
  | .nan => (0, flagNV, seed)
  | .inf n => (if n then lo else hi, flagNV, seed)
  | .fin n m e =>
    let (r, inexact, seed') := roundAt mode n m e 0 seed
    let v : Int := if n then -(r : Int) else r
    if v < lo then (lo, flagNV, seed')
    else if hi < v then (hi, flagNV, seed')
    else (v, flagIf inexact flagNX, seed')

/-! ### Block elements (05 R115 to R118) -/

/-- DB8 (`four` clear) and DB4: MMAX and B of Table 5.3. -/
def blockMmax (four : Bool) : Nat := if four then 3 else 63
def blockB (four : Bool) : Int := if four then 128 else 132

/-- The element's m, selector and sign. -/
def blockM (four : Bool) (b : Nat) : Nat := if four then b % 4 else b % 64
def blockSel (four : Bool) (b : Nat) : Bool := if four then b / 4 % 2 == 1 else b / 64 % 2 == 1
def blockNeg (four : Bool) (b : Nat) : Bool := if four then b / 8 % 2 == 1 else b / 128 % 2 == 1

/-- Decode an element against its pair (05 R116, R122): none when it decodes an exponent byte of 0xFF. -/
def blockDecode (four : Bool) (e0 e1 : Nat) (b : Nat) : Option Num :=
  let m := blockM four b
  if m = 0 then some numZero
  else
    let e := if blockSel four b then e1 else e0
    if e = 0xFF then none else some (.fin (blockNeg four b) m ((e : Int) - blockB four))

/-- |x| ≤ mm × 2^k for a finite x. -/
def magLe (m : Nat) (e : Int) (mm : Nat) (k : Int) : Bool :=
  let e0 := min e k
  decide (m * 2 ^ (e - e0).toNat ≤ mm * 2 ^ (k - e0).toNat)

/-- The pair that R117 chooses for a whole block. -/
def blockPair (four : Bool) (xs : List Num) : Nat × Nat :=
  let fits (e : Nat) : Bool := xs.all (fun x => match x with
    | .fin _ m ex => magLe m ex (blockMmax four) ((e : Int) - blockB four)
    | _ => true)
  let none0 := xs.all (fun x => match x with | .fin _ m _ => m == 0 | _ => true)
  let e0 := if none0 then 3 else ((List.range' 3 252).find? fits).getD 254
  (e0, e0 - 3)

/-- Encode one element against a pair (05 R118). -/
def blockEncode (four : Bool) (mode : Mode) (sat : Bool) (e0 e1 : Nat) (x : Num) (seed : BitVec 32) : Enc :=
  let mmax := blockMmax four
  let ovf : Flags := if sat then flagSAT else flagOF
  let signPos : Nat := if four then 8 else 128
  let selPos : Nat := if four then 4 else 64
  match x with
  | .nan => { bits := 0, flags := flagNV, seed := seed }
  | .inf n => { bits := (if n then signPos else 0) + mmax, flags := ovf ||| flagNX, seed := seed }
  | .fin n m e =>
    let sel := magLe m e mmax ((e1 : Int) - blockB four)
    let k : Int := ((if sel then e1 else e0 : Nat) : Int) - blockB four
    let (q, inexact, seed') := roundAt mode n m e k seed
    if q = 0 then
      { bits := 0, flags := if m = 0 then 0 else flagUF ||| flagNX, seed := seed' }
    else if mmax < q then
      { bits := (if n then signPos else 0) + (if sel then selPos else 0) + mmax, flags := ovf ||| flagNX, seed := seed' }
    else
      { bits := (if n then signPos else 0) + (if sel then selPos else 0) + q, flags := flagIf inexact flagNX,
        seed := seed' }

/-! ### Lane types -/

/-- The floating-point format of a lane type. -/
def laneFp : LaneTy → FpFmt
  | .fp16 => .fp16 | .bf16 => .bf16 | .e4m3 => .e4m3 | .e5m2 => .e5m2 | .e2m1 => .e2m1
  | _ => .fp32

/-- The bounds of an integer lane type of width w (05 R113). -/
def intLo (signed : Bool) (w : Nat) : Int := if signed then -((2 : Int) ^ (w - 1)) else 0
def intHi (signed : Bool) (w : Nat) : Int := if signed then (2 : Int) ^ (w - 1) - 1 else (2 : Int) ^ w - 1

/-- A w-bit pattern read as signed or unsigned. -/
def intOf (signed : Bool) (w bits : Nat) : Int :=
  let b := bits % 2 ^ w
  if signed && decide (2 ^ (w - 1) ≤ b) then (b : Int) - 2 ^ w else b

/-- An integer modulo 2^w as a pattern. -/
def wrapInt (w : Nat) (x : Int) : Nat := (x % (2 : Int) ^ w).toNat

/-- The value of a lane that is no block element. -/
def laneNum (t : LaneTy) (bits : Nat) : Num :=
  if t.isInt then numOfInt (intOf t.isSigned t.width bits) else fpDecode (laneFp t) bits

/-- Encode a value into a lane type that is no block type; integers under 14 Table 14.9's float row. -/
def laneEncode (t : LaneTy) (mode : Mode) (sat : Bool) (x : Num) (seed : BitVec 32) : Enc :=
  if t.isInt then
    let (v, fl, sd) := numToInt mode (intLo t.isSigned t.width) (intHi t.isSigned t.width) x seed
    { bits := wrapInt t.width v, flags := fl, seed := sd }
  else fpEncode (laneFp t) mode sat x seed

/-- Integer to integer: wraps, or takes the nearest bound under .sat (14 Table 14.9). -/
def intNarrow (signed : Bool) (w : Nat) (sat : Bool) (x : Int) : Nat × Flags :=
  let lo := intLo signed w
  let hi := intHi signed w
  if sat && (decide (x < lo) || decide (hi < x)) then (wrapInt w (if x < lo then lo else hi), flagSAT)
  else (wrapInt w x, 0)

/-- FP32 patterns. -/
def f32 (b : BitVec 32) : Num := fpDecode .fp32 b.toNat
def toF32 (x : Num) : BitVec 32 × Flags :=
  let e := fpEncode .fp32 .rn false x 0
  (BitVec.ofNat 32 e.bits, e.flags)

/-- Min and max of R273 on encoded operands: canonical NaN from a NaN, else the operand's own encoding. -/
def fpMinMax (f : FpFmt) (max : Bool) (a b : Nat) : Nat :=
  let x := fpDecode f a
  let y := fpDecode f b
  if x.isNaN || y.isNaN then f.nanBits
  else if max then (if numLtZ x y then b else a) else (if numLtZ y x then b else a)

end Sys2Proof.Machine
end

