-- ==== Sys2Proof/Config.lean ====
section
/-! DEFINITION. What the manual leaves free, as constants without a body, and the figures that the manual fixes for
every TG4. Nothing in Lean can evaluate an opaque constant here or prove a value of it. -/

namespace Sys2Proof

/-- A word of core state that carries a check code (26 R472): a register of a strand, or another (an accumulator row, a queue
staging entry, a sward status word, a speculation buffer entry); `slot` is the staging of the queue slot at an address. -/
inductive CheckedWord where
  | s (i : Fin 16)
  | v (i : Fin 32)
  | k (i : Fin 8)
  | slot (pa : Nat)
  | other
  deriving DecidableEq, Repr, Inhabited

/-- Who acts in one step: one slot of a strand, the head entry of a strand's sequencer, one translation-cache fill, an upset
that flips one bit or two of a checked word, or one device event. -/
inductive Agent where
  | slot (core strand : Nat)
  | execute (core strand : Nat)
  | fill (core : Nat) (va : Word)
  | flip (core strand : Nat) (w : CheckedWord) (two : Bool)
  | event (i : Instr)
  deriving DecidableEq, Repr, Inhabited

/-- One turn: who acts, how many cycles have passed since the turn before, whether the acting core uses a cached
translation where it holds one (07 R150 lets it use either), whether an upset makes the work of this turn disagree with its
shadow, its mirror or its predicted residue (26 R473, R475; 19 R390; log 10), and 64 bits that nothing constrains. -/
structure Turn where
  agent : Agent
  dt : Nat
  useCache : Bool
  upset : Bool
  free : DWord
  deriving DecidableEq, Repr, Inhabited

/-- The turns, in order: which agent acts next and after how many cycles is not fixed by the manual (01 R502;
DESIGN CHOICE, logs 1 and 2). -/
opaque Config.turn : Nat → Turn

/-- The special functions of 14 R281, in the order of row 0x0D. -/
inductive SpecialFn where
  | rcp | rsq | exp | exp2 | log2 | tanh | sin | cos
  deriving DecidableEq, Repr, Inhabited

/-- Within the bounds of 14 Table 14.8 the result of a special function is one fixed value for an input and a lane type
that the manual does not give (14 R283; log 6): the offset from the exact result in steps of the lane type, which
the operation clamps into the bound. -/
opaque Config.specialOffset : SpecialFn → LaneTy → BitVec 32 → Int

/-- ln l in the log-sum of ATTN (19 R400) has no stated accuracy: the value that the engine takes (log 6). -/
opaque Config.attnLn : BitVec 32 → BitVec 32

/-- SLH-DSA-SHAKE-256s verification (28 R492, R494): key, message, signature. The manual names the scheme and gives no
text of it (log 7). -/
opaque Config.verify256s : List Byte → List Byte → List Byte → Bool

/-- SLH-DSA-SHAKE-256f signature of a quote body under the attestation key drawn from a 96-byte seed (28 R495, R496;
log 7). -/
opaque Config.sign256f : List Byte → List Byte → List Byte

/-- The identity seed of a package, from its physically unclonable circuit (28 R495; log 7). -/
opaque Config.identitySeed : Nat → List Byte

/-- What flash and fuses hold of the keys: the hashes of the four authority keys (28 R493) and of the key of the boot images (28
R494). They are set when a package is made (log 7). -/
opaque Config.authorityHash : Nat → List Byte
opaque Config.bootHash : List Byte

/-- The seal key, drawn from the identity seed at each boot (10 R222; log 8): package
and boot count. -/
opaque Config.sealKey : Nat → Nat → List Byte

/-- The opaque residue bytes of a context record beside its check word (09 R186; log 9). -/
opaque Config.residueByte : DWord → Nat → Byte

/-- The hash by which an upward link is chosen (22 R433): source core, destination package. It is not architectural. -/
opaque Config.linkHash : Nat → Nat → Nat

/-- What the host answers to an engine's access of a host window (07 R144): by the turn's number and the address, the byte
that a read gets, or none where the host refuses it; and whether it takes a write. -/
opaque Config.hostByte : Nat → Word → Option Byte
opaque Config.hostTakes : Nat → Word → Bool

/-- Entry of a table of host windows (0 to 4,095), endpoints (from 4,096) or jobs (from 4,352) as the management agent writes it (28
R486, R488; log 34): by the turn's number. -/
opaque Config.hostTable : Nat → Nat → BitVec 256

/-- A byte of an entry of the pipelined-invocation buffer's spill area, whose layout the manual does not give (07 Table 7.5;
log 44): by the turn's number and the byte's offset. -/
opaque Config.spillByte : Nat → Nat → Byte

/-- The scale base that the management agent sets for a shared space as it writes the space's root entry (05 R125; log 33): by
the turn's number and the space. -/
opaque Config.sharedScale : Nat → Nat → BitVec 64

/-! ### Figures the manual fixes -/

/-- The strike horizon's report limit: 16 reports within 1,024 cycles (26 R470). -/
def Config.strikeLimit : Nat := 16
def Config.strikeWindow : Nat := 1024
/-- Entries of the pipelined-invocation buffer and its spill (07 R155). -/
def Config.pibEntries : Nat := 1280
/-- Those of the buffer itself (01 Table 1.1; 02 R48). -/
def Config.pibBuffer : Nat := 256
/-- Defaults of the timeouts, in cycles (07 R158; 15 R319; 14 R300; 09 R198; 02 R81). -/
def Config.remoteTimeout : Nat := 360000
def Config.pageWait : Nat := 360000
def Config.queueWatchdog : Nat := 1800000
def Config.strandWatchdog : Nat := 18000000
def Config.foldTimeout : Nat := 180000

end Sys2Proof
end

