-- ==== Sys2Proof/Machine/SMap.lean ====
section
/-! DEFINITION. Sparse tables: a list of (key, value) pairs with strictly rising keys and no entry equal to what an
unlisted key reads as, so that equal tables are equal lists. -/

namespace Sys2Proof.Machine

abbrev SMap (β : Type) := List (Nat × β)

/-- What the table holds at `k`; an unlisted key reads as `d`. -/
def smGet {β : Type} (d : β) : SMap β → Nat → β
  | [], _ => d
  | (j, v) :: t, k => if j = k then v else smGet d t k

/-- The table without an entry at `k`. -/
def smErase {β : Type} : SMap β → Nat → SMap β
  | [], _ => []
  | (j, v) :: t, k => if j = k then smErase t k else (j, v) :: smErase t k

/-- The table with `v` listed at `k`. -/
def smPut {β : Type} : SMap β → Nat → β → SMap β
  | [], k, v => [(k, v)]
  | (j, u) :: t, k, v =>
    if j = k then (k, v) :: t else if k < j then (k, v) :: (j, u) :: t else (j, u) :: smPut t k v

/-- The table after writing `v` at `k`: writing the default removes the entry. -/
def smSet {β : Type} [DecidableEq β] (d : β) (m : SMap β) (k : Nat) (v : β) : SMap β :=
  if v = d then smErase m k else smPut m k v

/-- The canonical form, from a key below which nothing may stand. -/
def smWfFrom {β : Type} [DecidableEq β] (d : β) : Nat → SMap β → Bool
  | _, [] => true
  | lo, (k, v) :: t => decide (lo ≤ k) && decide (v ≠ d) && smWfFrom d (k + 1) t

def smWf {β : Type} [DecidableEq β] (d : β) (m : SMap β) : Bool := smWfFrom d 0 m

end Sys2Proof.Machine
end

