-- ==== Sys2Proof/Machine/State.lean ====
section
/-! DEFINITION. The state of a load-store domain of TG4 packages: everything the manual gives the machine, as plain
data. INVENTORY.md lists every piece with the rule that names it and its value at reset. Tables keyed by core, cluster,
die, package, tile element and address are sparse (`SMap`). -/

namespace Sys2Proof.Machine

/-! ### Small parts -/

/-- A hardware loop level (12 R253). -/
structure LoopLevel where
  lb : Word
  le : Word
  lc : BitVec 32
  busy : Bool
  deriving DecidableEq, Repr, Inhabited

/-- A trap cause with what EVA receives (09 R180). -/
structure Cause where
  code : BitVec 6
  eva : Word
  deriving DecidableEq, Repr, Inhabited

/-- The delivery classes of a strand's trap (09 Table 9.1). -/
inductive TrapClass where
  | t | n | v
  deriving DecidableEq, Repr, Inhabited

/-- A trap that a strand has met and not yet entered: class, cause, EPC, and VPC of a class V delivery. -/
structure Pending where
  cls : TrapClass
  cause : Cause
  epc : Word
  vpc : Word
  deriving DecidableEq, Repr, Inhabited

/-- Where a strand's context is held (02 R69): in a register bank, parked in tiles or idle banks, in the save area. -/
inductive Place where
  | bank | parked | saved
  deriving DecidableEq, Repr, Inhabited

/-- A frame and the core that owns it (02 R64). -/
structure Frame where
  owner : Nat
  num : Nat
  deriving DecidableEq, Repr, Inhabited

/-- What the end of a strand counts in (02 R73; 03 R87, R91, R101): a method or mailbox strand; a unit, stage instance
or task of the level at an address of partition space 0x00, managed by a cluster's shepherd. -/
inductive Role where
  | plain
  | unit (cl launch : Nat)
  | stage (cl launch stage inst inSlot : Nat) (outSlot : Option Nat)
  | task (cl : Nat) (level : DWord)
  deriving DecidableEq, Repr, Inhabited

/-- An HSYNC whose acknowledgement has yet to come (17 R353): its answer, the core and strand that asked, since when. -/
structure SyncHold where
  ans : DWord
  core : Nat
  strand : Nat
  since : Nat
  deriving DecidableEq, Repr, Inhabited

/-- The context of R60 as a context move carries it (22 R437), with what holds the strand's messages (log 41). -/
structure Context where
  s : Vector Word 16
  k : Vector KWord 8
  pc : Word
  l0 : LoopLevel
  l1 : LoopLevel
  prio : BitVec 2
  tm : Bool
  ss : Bool
  cancel : Bool
  slot : BitVec 5
  frame : Frame
  role : Role
  wdStart : Nat
  wdFired : Bool
  part : BitVec 6
  hsync : List SyncHold
  deriving DecidableEq, Repr, Inhabited

/-- A strand to be started: an entry of a routine queue (02 R63, R65). `pc = none` takes the slot's bound handler. -/
structure Start where
  pc : Option Word
  /-- a method's own priority (02 Table 2.1), else the slot's -/
  prio : Option (BitVec 2)
  /-- an arrived context (17 R358) -/
  ctx : Option Context
  s8 : Word
  s9 : Word
  s10 : Word
  s11 : Word
  s12 : Word
  s13 : Word
  role : Role
  /-- the object handle whose validity is tested again at selection (17 R357), or 0 -/
  target : DWord
  /-- the receiver record of a method handler (18 R379); that of an object is read again as the handler starts -/
  receiver : List Byte
  /-- the task record that becomes free when the strand starts (03 R101), or none -/
  taskRec : Option Nat
  /-- the answers for which the core keeps an entry until the strand has ended (17 R351) -/
  waitedFor : List DWord
  /-- the sender's partition, for a refusal (02 R52) -/
  part : BitVec 6
  arrival : Nat
  /-- a context that its destination has sent back (17 R358) -/
  back : Bool
  deriving DecidableEq, Repr, Inhabited

/-! ### Accesses -/

/-- The master identity of an access: partition and unit class (07 R156). -/
structure Ident where
  part : BitVec 6
  cls : BitVec 4
  deriving DecidableEq, Repr, Inhabited

/-- The operations of atomics (15 Table 15.4, R322). -/
inductive AtomicOp where
  | add | min | max | and | or | xor | swap | cas
  | fadd (f : AmofFmt)
  deriving DecidableEq, Repr, Inhabited

/-- A read-modify-write at the home. -/
structure Atomic where
  op : AtomicOp
  len : Nat
  signed : Bool
  b : DWord
  c : DWord
  deriving DecidableEq, Repr, Inhabited

/-- An update of elements of one block, indivisible at its executor (05 R120, R121; 07 R171): the address of the block's
first element byte and of its pair in physical memory, how far apart its elements lie (05 Table 5.5), the elements to
write, whether the store chooses a new pair (05 R117), the rounding and the draws. -/
structure BlockWrite where
  elems : Nat
  stride : Nat
  pair : Nat
  four : Bool
  fresh : Bool
  writes : List (Nat × Num)
  mode : Mode
  sat : Bool
  seed : BitVec 32
  deriving DecidableEq, Repr, Inhabited

/-- What an access asks of its home or of a host window (22 Table 22.4; 07 R171). A load of block elements also takes the
bytes of their pairs (05 R121). -/
inductive AccessOp where
  | load (len : Nat) (pair : Option (Nat × Nat))
  | store (bytes : List Byte)
  /-- a store that its slot waits for (09 R195) -/
  | push (bytes : List Byte)
  | atomic (a : Atomic)
  | nibble (high : Bool) (value : BitVec 4)
  | block (bs : List BlockWrite)
  deriving DecidableEq, Repr, Inhabited

/-- Bytes of exponent pairs that an access takes part in (05 R126): physical and virtual address, how many, the placement
of their page. -/
structure ScaleRange where
  pa : Nat
  va : Word
  len : Nat
  geom2 : Bool
  deriving DecidableEq, Repr, Inhabited

/-- One access: its addresses, its placement (07 R153), its page's format code, the host window of an address of space
0xC0 (window, page, offset), the owner core that executes a sub-byte store, whether it is such a store by one that is not the
owner (07 R171), the exponent pairs of the blocks it meets, whether it is a release (07 R166). -/
structure Access where
  pa : Nat
  va : Word
  geom2 : Bool
  fmt : Nat
  host : Option (Nat × Nat × Nat)
  owner : Option Nat
  half : Bool
  scales : List ScaleRange
  rel : Bool
  op : AccessOp
  deriving DecidableEq, Repr, Inhabited

/-- A continuation registered on a phase (02 R75, 17 R367): its core, its task record, its target, its slot, its token. -/
structure Waiter where
  core : Nat
  task : Nat
  pc : Word
  slot : BitVec 5
  token : DWord
  deriving DecidableEq, Repr, Inhabited

/-! ### Strands' parts -/

/-- What a stalled slot waits for. -/
inductive WaitKind where
  | queue | gather | response | task | sequencer | fence | locks | staging | spill | hsync | answer | fold | lea | scan
  | pseq | gang | other
  deriving DecidableEq, Repr, Inhabited

structure Wait where
  kind : WaitKind
  since : Nat
  /-- the queues waited on, each with its binding's count (14 R295) -/
  qs : List (Fin 16 × Nat)
  deriving DecidableEq, Repr, Inhabited

/-- How far an instruction of several steps has got: `stage` counts its parts and carries a value or a sequence number;
`gather` holds the accesses of the attempt `tag`, the answers that have come, by number, and the cause of the element
after them with the table entry whose target denied the walker, which is reported when each of them is answered without one
(15 R308). -/
inductive Prog where
  | none
  | stage (n : Nat) (w : BitVec 128)
  | gather (tag : Nat) (accs : List Access) (got : List (Nat × Option (BitVec 6) × List Byte))
    (fail : Option (Cause × Option Nat))
  deriving DecidableEq, Repr, Inhabited

/-- One execute-side slot in the sequencer (10 R207, 14 R268): its program counter, its instruction, the scalar and
predicate registers as every earlier slot left them, whether its shadow follows it, its place in the core's issue order
(20 R426), and the queue operands captured at its first use: queue, need, slot (07 R174). -/
structure SeqEntry where
  pc : Word
  i : Instr
  s : Vector Word 16
  k : Vector KWord 8
  shadowed : Bool
  /-- the s and k registers whose SHD tag and syndrome stood when the entry issued (26 R473) -/
  badS : BitVec 16
  badK : BitVec 8
  num : Nat
  taken : List (Fin 16 × Nat × List Byte)
  deriving DecidableEq, Repr, Inhabited

/-- An item of the sequencer: one entry, or a VLOOP group with the index of its next entry and the repetitions left
(14 R292). -/
inductive SeqItem where
  | one (e : SeqEntry)
  | group (es : List SeqEntry) (idx left : Nat)
  deriving DecidableEq, Repr, Inhabited

/-- A VLOOP that is capturing: slots still to capture, captured so far, repetitions (14 R292). -/
structure Capture where
  left : Nat
  es : List SeqEntry
  reps : Nat
  deriving DecidableEq, Repr, Inhabited

/-- A contribution to a fold's round that awaits its outcome, and the outcome once it has come (09 Table 9.3: CONTRIB,
OUTV, OUTCOME, FOLDID; 02 R81, R82). `kind` is 0 all, 1 any, 2 sync; `failed` is the outcome of 17 R374. -/
structure Contribution where
  fold : Fin 16
  round : Nat
  kind : Nat
  since : Nat
  arrived : Bool
  outcome : Bool
  failed : Bool
  deriving DecidableEq, Repr, Inhabited

/-- The vector residue that trap entry and pre-emption capture (09 R183, R188; 14 R292, R302). -/
structure Residue where
  core : Nat
  /-- the check word, and whether the record is that of a class V delivery -/
  check : DWord
  v : Bool
  seq : List SeqItem
  capture : Option Capture
  bq : List Bool
  deriving DecidableEq, Repr, Inhabited

/-- The check state of a strand's registers: SHD tags, registers whose check code disagrees with their data bits, those of
them that disagree by more than one bit, and the residues of the s registers (26 R472, R473, R475). -/
structure Checks where
  tagS : BitVec 16
  tagV : BitVec 32
  tagK : BitVec 8
  synS : BitVec 16
  synV : BitVec 32
  synK : BitVec 8
  twoS : BitVec 16
  twoV : BitVec 32
  twoK : BitVec 8
  res : Vector (BitVec 4) 16
  deriving DecidableEq, Repr, Inhabited

/-! ### A strand (02 R60) -/

structure Strand where
  s : Vector Word 16
  v : Vector VWord 32
  k : Vector KWord 8
  pc : Word
  l0 : LoopLevel
  l1 : LoopLevel
  /-- the return stack, most recent entry first; RSDEPTH is its length -/
  rs : List DWord
  prio : BitVec 2
  tm : Bool
  ss : Bool
  cancel : Bool
  slot : BitVec 5
  cause : BitVec 6
  epc : Word
  eva : Word
  hold : BitVec 32
  seq : List SeqItem
  capture : Option Capture
  bq : List Bool
  frame : Frame
  place : Place
  role : Role
  waitedFor : List DWord
  /-- the record address that trap entry used, and the priority that it saved -/
  record : Word
  sprio : BitVec 2
  pending : Option Pending
  /-- the first store denial not yet taken (07 R157) -/
  denial : Option Cause
  wait : Option Wait
  /-- what the head entry of the sequencer waits for -/
  ewait : Option Wait
  prog : Prog
  /-- the same for the head entry of the sequencer -/
  eprog : Prog
  /-- the GANG with which the strand stands at its row's barrier, or its ganged operation once that has started (19 R384) -/
  gang : Option SeqEntry
  /-- the HSYNCs that hold later messages (17 R353) -/
  hsync : List SyncHold
  /-- the answer on whose value the strand runs a method, and the invocation's sender (17 R353) -/
  served : Option (DWord × Nat)
  memb : BitVec 16
  eject : BitVec 16
  /-- collective operations made since joining, by fold (17 R370) -/
  rounds : SMap Nat
  credRounds : SMap Nat
  contrib : Option Contribution
  /-- when the strand watchdog's count began, cycles saved so far, and its pending trap (09 R198) -/
  wdStart : Nat
  wdPending : Bool
  /-- the watchdog has trapped and its count has not restarted -/
  wdFired : Bool
  /-- the next fetch checks TGT: the target of a loop-back or of the strand's start (10 R205) -/
  needTgt : Bool
  checks : Checks
  deriving DecidableEq, Repr, Inhabited

/-- A known state of an answer: the status word of Table 2.3 and the body. -/
structure AnswerState where
  state : BitVec 3
  cause : BitVec 6
  origin : BitVec 22
  len : BitVec 6
  body : List Byte
  deriving DecidableEq, Repr, Inhabited

/-- A method descriptor (02 Table 2.1). -/
structure MethodDesc where
  handler : DWord
  slot : BitVec 5
  prio : BitVec 2
  hkind : BitVec 4
  ab : Bool
  deriving DecidableEq, Repr, Inhabited

structure Invocation where
  target : DWord
  method : BitVec 8
  args : List DWord
  ans : DWord
  sender : Nat
  part : BitVec 6
  deriving DecidableEq, Repr, Inhabited

/-- A combined predicate: the kinds contributed (bit 0 all, 1 any, 2 sync), AND, OR (02 R78, 17 R374). -/
structure FoldValue where
  kinds : BitVec 3
  all : Bool
  any : Bool
  deriving DecidableEq, Repr, Inhabited

/-- One member's contribution to a CRED reduction (15 R335). `ok` is clear when its source could not be read. -/
structure CredIn where
  core : Nat
  strand : Nat
  seq : BitVec 32
  op : CredOp
  fmt : CredFmt
  count : Nat
  ok : Bool
  bytes : List Byte
  deriving DecidableEq, Repr, Inhabited

/-- What a flit in flight carries (22 Tables 22.2, 22.4). -/
inductive Msg where
  | request (a : Access) (strand tag idx : Nat)
  | response (a : Access) (strand tag idx : Nat) (cause : Option (BitVec 6)) (data : List Byte)
  | invocation (x : Invocation)
  | forwarded (x : Invocation) (obj : DWord)
  | active (slot : BitVec 5) (handler : DWord) (args : List DWord)
  | mailbox (pa : Nat) (args : List DWord) (s13 : Word)
  | taskRelease (record : Nat) (handler : DWord) (args : List DWord) (creator : Nat) (slot : BitVec 5) (level : DWord)
  | context (c : Context)
  | contextBack (c : Context)
  | frameRelease (num : Nat)
  | resolution (ans : DWord) (st : AnswerState) (dflt : Bool)
  | broken (ans : DWord) (st : AnswerState) (dflt : Bool)
  | retire (ans : DWord)
  | waiterReg (ans : DWord) (core : Nat)
  | retryReg (ans : DWord) (core : Nat) (due : Nat)
  | hsync (x : SyncHold)
  | queueLink (q : Fin 16) (nslot : Nat) (sz : BitVec 2) (dir : BitVec 2) (base : Nat)
  | queueUnlink (q : Fin 16)
  | queueWrite (q : Fin 16) (pa : Nat) (bytes mask : List Byte)
  /-- the check bits that a shadow slot writes to the slot at `pa` (14 R289) -/
  | queueTag (q : Fin 16) (pa : Nat) (bad : Bool)
  | queuePublish (q : Fin 16) (n : Nat)
  | queueCredit (q : Fin 16) (n : Nat)
  | foldIn (fold : Fin 16) (round : Nat) (strand : Nat) (kind : Nat) (pred : Bool)
  | foldOut (fold : Fin 16) (round : Nat) (strand : Nat) (outcome failed : Bool) (lseq : Nat)
  | foldJoin (fold : Fin 16) (strand : Nat)
  | foldLeave (fold : Fin 16) (strand : Nat)
  | credIn (fold : Fin 16) (round : Nat) (x : CredIn)
  | credOut (seq : BitVec 32) (ok : Bool) (bytes : List Byte)
  | event (bytes : List Byte)
  | retry (target seq : Nat)
  /-- a core has been pre-empted, to the core that asked for it (03 R102) -/
  | preemptDone (core : Nat)
  /-- a destination sector of a copy (25 R467): the command, the sector's number, and what each address receives -/
  | sector (core : Nat) (seq : BitVec 32) (key : Nat) (parts : List (Nat × Bool × List Byte))
  deriving DecidableEq, Repr, Inhabited

/-- Where a flit goes (22 R436 DSTT). -/
inductive Dest where
  | core (n : Nat)
  | shepherd (cl : Nat)
  | home (pa : Nat)
  | block (pa : Nat)
  /-- the Ultra Ethernet port of a die, for accesses through a host window (01 R30; 28 R486) -/
  | ue (die : Nat)
  deriving DecidableEq, Repr, Inhabited

/-- A flit in flight (22 Table 22.3). `sent` gives its AGE; `due` is when a source sends it again. -/
structure Flit where
  src : Nat
  who : Ident
  dst : Dest
  cls : Nat
  seq : BitVec 16
  pseq : BitVec 12
  sent : Nat
  /-- the issuer's die and its four-entry clock (22 R438) -/
  clock : List Nat
  msg : Msg
  deriving DecidableEq, Repr, Inhabited

/-- A flit its source still keeps (22 R440): when it first left and when it was last sent. -/
structure Kept where
  flit : Flit
  first : Nat
  last : Nat
  deriving DecidableEq, Repr, Inhabited

/-- A target's window for one source (22 R441, R442): the entries that are done, each with the old value that an atomic
saved. An entry is executing only within a step. -/
structure Window where
  part : BitVec 6
  high : BitVec 16
  entries : SMap (Option DWord)
  last : Nat
  deriving DecidableEq, Repr, Inhabited

/-! ### Engines (15 R326 to R336, 19 R392, R399) -/

/-- A command's operation with its parameters. -/
inductive EngineOp where
  | cpy (dst src : Word) (rows rowBytes dstride sstride : Nat)
  | replay (of : BitVec 32)
  | nbmv (mf : MatFmt) (chk : Bool) (dst a b : Word) (rows len : Nat)
  | attn (chk : Bool) (q kbase vbase table out lse : Word) (log2s len : Nat) (dh : HeadDim) (inp : AttnIn)
      (outp : AttnOut) (scale : BitVec 32)
  | cred (op : CredOp) (fmt : CredFmt) (dst src : Word) (count : Nat) (fold : Fin 16) (round : Nat)
  deriving DecidableEq, Repr, Inhabited

/-- A command: staged, published or running. `next` counts the sectors done, `units` the 64-byte units written, `missing`
the destination sectors that met a cause, by number, with that cause, in the order they met it. -/
structure Command where
  eng : Fin 4
  seq : BitVec 32
  core : Nat
  strand : Nat
  part : BitVec 6
  prio3 : Bool
  level : DWord
  comp : Word
  task : DWord
  op : EngineOp
  ranges : List (Nat × Nat × Bool)
  registered : Bool
  running : Bool
  /-- the turn of its publication (20 R423) -/
  pub : Nat
  next : Nat
  /-- the destination sectors that a REPLAY copies, by number in the command, or all of them -/
  todo : Option (List Nat)
  units : Nat
  missing : List (Nat × BitVec 6)
  status : Option (BitVec 6)
  stop : Bool
  sent : Bool
  /-- sectors on their way to another package (25 R467) -/
  flying : List Nat
  result : List Byte
  deriving DecidableEq, Repr, Inhabited

/-- One entry of a range-lock table (07 R172, R173): a virtual range of a partition. -/
structure RangeLock where
  part : BitVec 6
  lo : Nat
  hi : Nat
  dst : Bool
  core : Nat
  eng : Fin 4
  seq : BitVec 32
  retained : Bool
  deriving DecidableEq, Repr, Inhabited

/-! ### Core units -/

/-- A translation entry held in a translation cache (07 R150): the page it maps and its two 64-bit words. -/
structure TcEntry where
  part : BitVec 6
  va : Word
  big : Bool
  lo : DWord
  hi : DWord
  /-- SCAN 01 whose SEAL verified (10 R222) -/
  passed : Bool
  deriving DecidableEq, Repr, Inhabited

/-- A routine slot's binding (02 R65, R67). -/
structure Routine where
  handler : DWord
  prio : BitVec 2
  conc : Bool
  /-- bytes 8 to 15 written and not yet in effect -/
  nextHi : DWord
  /-- the pipeline stage instance bound here: shepherd's cluster, launch, stage, instance number -/
  stage : Option (Nat × Nat × Nat × Nat)
  queue : List Start
  waited : Nat
  raised : Bool
  deriving DecidableEq, Repr, Inhabited

/-- A mailbox: binding to a slot, or held as MBOX of a pipeline, and its unbound queue (02 R70; 03 R89). -/
inductive MailBind where
  | none
  | slot (n : BitVec 5)
  | pipeline (cl launch : Nat)
  deriving DecidableEq, Repr, Inhabited

structure MailMsg where
  args : List DWord
  s13 : Word
  part : BitVec 6
  deriving DecidableEq, Repr, Inhabited

structure Mailbox where
  bind : MailBind
  parked : List MailMsg
  deriving DecidableEq, Repr, Inhabited

/-- An entry of a halted core's spill queue (03 R103): a strand's start for a routine slot, a message at a mailbox. -/
inductive Diverted where
  | start (slot : Nat) (q : Start)
  | mail (m : Nat) (x : MailMsg)
  deriving DecidableEq, Repr, Inhabited

/-- An entry of the pipelined-invocation buffer (02 R48, R49, R53, R56, R503; 17 R351). -/
inductive PibEntry where
  /-- a resolution entry of a COMPUTE core -/
  | res (ans : DWord) (st : AnswerState)
  /-- the state a core keeps while a task or continuation for the answer lives on it -/
  | known (ans : DWord) (st : AnswerState)
  | retired (ans : DWord) (at_ : Nat)
  | waiting (ans : DWord) (x : Invocation) (since : Nat) (src : Nat)
  /-- a core registered as a waiter at the COMPUTE core (02 R53) -/
  | waiter (ans : DWord) (core : Nat)
  /-- a continuation of WHEN (17 R352): its task record, target and slot, and whether the answer has come and its record waits
  for its release -/
  | cont (ans : DWord) (task : Nat) (pc : Word) (slot : BitVec 5) (told : Bool)
  /-- an invocation whose argument words are not all resolved (02 R53): the answers it waits for, and those it knows -/
  | args (x : Invocation) (target : DWord) (receiver : List Byte) (d : MethodDesc) (need : List DWord)
    (known : List (DWord × AnswerState))
  deriving DecidableEq, Repr, Inhabited

/-- An operation held on a speculative path (02 R79, R80): a message, an engine append, an advance of a queue's P or C, an
atomic with the register that takes the old value and whether that is zero-extended. -/
inductive Held where
  | send (dst : Dest) (cls : Nat) (m : Msg)
  | append (c : Command)
  | advance (q : Fin 16) (produce : Bool) (n : Nat)
  | tag (pa : Nat) (bad : Option Bool)
  | atomic (x : Access) (d : Option (Fin 16)) (zero : Bool)
  deriving DecidableEq, Repr, Inhabited

/-- A strand's speculation under a collective branch (02 R79). Once its path is confirmed, what it has buffered and held
drains (02 R80). -/
structure Spec where
  strand : Nat
  checkpoint : Strand
  hint : Bool
  confirmed : Bool
  /-- the held atomic at the head has left -/
  atomicOut : Bool
  buf : List Access
  held : List Held
  deferred : Option Pending
  count : Nat
  deriving DecidableEq, Repr, Inhabited

/-- A queue binding (14 R294). -/
structure Queue where
  bound : Bool
  base : Nat
  sz : BitVec 2
  nslot : Nat
  dir : BitVec 2
  peer : Nat
  linked : Bool
  p : BitVec 32
  c : BitVec 32
  /-- the peer's binding of an outbound queue, its ring, once linked -/
  peerQ : Fin 16
  peerBase : Nat
  /-- bindings made so far: what a waiting operand compares (14 R295) -/
  epoch : Nat
  /-- a QLINK of this side waits for its peer's, and the one that failed -/
  asked : Bool
  badLink : Bool
  deriving DecidableEq, Repr, Inhabited

/-- A link flit that has come and has met no QLINK of this side (14 R296): its core, its queue, NSLOT, SZ, DIR, BASE. -/
structure LinkOffer where
  src : Nat
  q : Fin 16
  nslot : Nat
  sz : BitVec 2
  dir : BitVec 2
  base : Nat
  deriving DecidableEq, Repr, Inhabited

/-- A weight plane (19 R386): weight bytes, metadata bytes, pair bytes. -/
structure Plane where
  valid : Bool
  sparse : Bool
  fmt : MatFmt
  nact : Nat
  weights : List Byte
  meta_ : List Byte
  pairs : List Byte
  deriving DecidableEq, Repr, Inhabited

/-- A microprogram bank, as its image (20 Table 20.3). -/
structure Micro where
  kc : BitVec 32
  p : BitVec 32
  mw : Vector (BitVec 16) 4
  rest : BitVec 128
  deriving DecidableEq, Repr, Inhabited

/-- A carry chain in flight (19 R396, R397): the carry and the rung it reaches next. -/
structure Chain where
  carry : SMap (BitVec 32)
  rung : Nat
  deriving DecidableEq, Repr, Inhabited

/-- The ladder (20 R417). -/
structure Ladder where
  configured : Bool
  base : Nat
  r : Nat
  micro : Option Micro
  occupied : BitVec 16
  w : Vector (BitVec 32) 16
  step : BitVec 32
  chains : List Chain
  deriving DecidableEq, Repr, Inhabited

/-- The attention configuration (20 R421). -/
structure AttnCfg where
  dh : HeadDim
  inp : AttnIn
  out : AttnOut
  scale : BitVec 32
  deriving DecidableEq, Repr, Inhabited

/-- An event counter (26 R481). -/
structure Counter where
  select : DWord
  count : DWord
  deriving DecidableEq, Repr, Inhabited

/-- Why a core issues nothing (03 R102, 09 R196, 28 R494 to R499): pre-empted by a requester, parked with its decoding
strand, fenced or torn down. -/
inductive Halt where
  | none
  | preempted (requester : Nat)
  | parked (strand : Nat)
  | stopped
  deriving DecidableEq, Repr, Inhabited

/-! ### A core (01 Table 1.1) -/

structure Core where
  /-- PART; `assigned` is clear while the core belongs to no partition -/
  part : BitVec 6
  assigned : Bool
  fctl : DWord
  fstat : DWord
  seed : BitVec 32
  lseq : BitVec 48
  /-- routine slots 0 to 31; the contexts that wait to resume after a move queue at 32 -/
  routines : SMap Routine
  frames : BitVec 32
  mailboxes : SMap Mailbox
  pib : List PibEntry
  strands : SMap (Option Strand)
  spec : Option Spec
  halt : Halt
  /-- the spill queue of a halted core, oldest first (03 R103) -/
  diverted : List Diverted
  /-- the action written to PARKACT while the core is parked, or 0 (03 R106; 09 R197) -/
  parkAct : BitVec 2
  /-- the cores whose pre-emption has been reported to this one (03 R102) -/
  preempts : List Nat
  residues : SMap (Option Residue)
  queues : Vector Queue 16
  /-- the queue slots, by address, that carry the check bits of a shadow slot, each with whether they disagree with its data (26
  R473) -/
  slotTags : SMap (Option Bool)
  linkOffers : List LinkOffer
  engSeq : Vector (BitVec 32) 4
  staging : List Command
  chains : Vector (List Command) 4
  retained : List Command
  active : Plane
  shadow : Plane
  tiles : SMap (BitVec 32)
  tileAlloc : BitVec 16
  /-- tiles that hold a parked strand: its index (19 R388) -/
  tileStrand : SMap (Option Nat)
  microActive : Micro
  microShadow : Micro
  /-- the issue of an MPLD whose bank is still to be swapped in (07 R175) -/
  mpldAt : Option Nat
  matCount : BitVec 32
  ladder : Ladder
  /-- the ladder configuration that the slots issued so far have set: its base and rung count (20 R418) -/
  ladIssued : Option (Nat × Nat)
  attn : AttnCfg
  counters : Vector Counter 4
  tc : List TcEntry
  /-- cycles of recent strike reports (26 R470) -/
  strikes : List Nat
  /-- synchronise requests not yet acknowledged (17 R353) -/
  hsyncAcks : List SyncHold
  deriving DecidableEq, Repr, Inhabited

/-! ### A cluster -/

/-- A stage of a pipeline as its shepherd keeps it (03 R88 to R95). -/
structure Stage where
  handler : DWord
  qbase : Nat
  cap : Nat
  slotsz : Nat
  maxinst : Nat
  mininst : Nat
  /-- slots of the input queue: produced, claimed and freed counts, and which produced slots are published or skipped -/
  reserved : Nat
  published : Nat
  claimed : Nat
  freed : Nat
  /-- finished or skipped slots at or above `published`, and freed ones at or above `freed` -/
  early : List (Nat × Bool)
  /-- when each filled, unclaimed slot was filled (02 R68) -/
  stamps : SMap Nat
  earlyFree : List Nat
  skipped : List Nat
  /-- instances: core, routine slot, instance number, chosen for removal -/
  instances : List (Nat × Nat × Nat × Bool)
  nextInst : Nat
  lastEval : Nat
  deriving DecidableEq, Repr, Inhabited

/-- A launch that a shepherd manages (03 R87 to R92, 02 R76). -/
structure Launch where
  part : BitVec 6
  level : DWord
  core : Nat
  entry : DWord
  clumask : DWord
  prio : BitVec 2
  arg0 : DWord
  arg1 : DWord
  units : Nat
  nextUnit : Nat
  /-- placed cores and the routine slot bound on each -/
  placed : List (Nat × Nat)
  stages : List Stage
  mbox : Option (Nat × Nat)
  /-- messages waiting at the mailbox for queue 0 (03 R89) -/
  mboxWait : List MailMsg
  kind : BitVec 3
  done : Bool
  /-- not yet distributed -/
  fresh : Bool
  deriving DecidableEq, Repr, Inhabited

/-- The tile work queue (02 R83, 17 R368). -/
structure TileQueue where
  configured : Bool
  rows : BitVec 32
  cols : BitVec 32
  srows : BitVec 16
  scols : BitVec 16
  rule : BitVec 8
  claims : Nat
  deriving DecidableEq, Repr, Inhabited

/-- A row barrier (19 R384): the strands that stand at it, and since when it waits. Once it has opened the ganged operation has
started, and waits for the rows of the lead core's queue, which is bound as it was (`epoch`). -/
structure Barrier where
  waiting : List (Nat × Nat)
  since : Nat
  opened : Bool
  epoch : Nat
  deriving DecidableEq, Repr, Inhabited

/-- A page handed to the bracken scanner (10 R218): requester, the attempt of its SCAN, address, where the leaf lies and what it
held as the scanner began to serve the request. -/
structure ScanReq where
  core : Nat
  strand : Nat
  tag : Nat
  part : BitVec 6
  va : Word
  leaf : Nat
  lo : DWord
  big : Bool
  deriving DecidableEq, Repr, Inhabited

/-- A query tile of ATTN in progress (19 R400): the command, blocks done, and mx, l and o of each query row. -/
structure AttnTile where
  core : Nat
  block : Nat
  mx : List (BitVec 32)
  l : List (BitVec 32)
  o : List (List (BitVec 32))
  stall : Option Nat
  lastWalk : Nat
  deriving DecidableEq, Repr, Inhabited

/-- A shepherd core's own registers (01 R15): the scalar registers, with what the access pipeline holds beside them, and the
control registers of a core (12 Table 12.12) but CORE, which it has none of. -/
structure ShepherdRegs where
  s : Vector Word 16
  k : Vector KWord 8
  pc : Word
  l0 : LoopLevel
  l1 : LoopLevel
  rs : List DWord
  status : DWord
  cause : BitVec 6
  epc : Word
  eva : Word
  fctl : DWord
  fstat : DWord
  tid : DWord
  part : BitVec 6
  lseq : BitVec 48
  fold : DWord
  ladstep : BitVec 32
  seed : BitVec 32
  deriving DecidableEq, Repr, Inhabited

structure Cluster where
  wave : Vector (BitVec 16) 16
  tq : TileQueue
  locks : List RangeLock
  /-- the shepherd's event queue: where its oldest record lies, how many it holds, and the records that wait at the cluster
  ingress while it is full (03 R99) -/
  evHead : Nat
  evCount : Nat
  ingress : List (List Byte)
  shepherd : ShepherdRegs
  launches : SMap (Option Launch)
  nextLaunch : Nat
  /-- the core that cancelled each level, by the record's physical address (02 R74) -/
  cancelled : List (Nat × Nat)
  /-- continuations registered on a phase: level record, phase, task record (02 R75) -/
  phaseWait : List (Nat × BitVec 16 × Waiter)
  nogate : Bool
  gated : Bool
  idleSince : Nat
  wakeDue : Option Nat
  counters : Vector Counter 8
  scans : List ScanReq
  barriers : Vector Barrier 4
  copyNext : Nat
  attn : Option AttnTile
  shepherdMail : List MailMsg
  strikes : List (Nat × Nat)
  deriving DecidableEq, Repr, Inhabited

/-! ### A die (07 R163; 28 R498, R499) -/

structure Die where
  /-- ordinary writes this die has issued -/
  writes : BitVec 16
  /-- writes of each die of the package applied here -/
  applied : Vector (BitVec 16) 4
  hostCap : Nat
  boil : Nat
  boilAt : Nat
  boilLapsed : Bool
  hot : Bool
  stopped : Bool
  deriving DecidableEq, Repr, Inhabited

/-! ### A package -/

/-- A partition's configuration as the device holds it (28 Table 28.4), with its measurement. -/
structure PartCfg where
  clu : Vector DWord 4
  hbmlo : Nat
  hbmhi : Nat
  shared : DWord
  tvbase : DWord
  fqbase : DWord
  fqcap : Nat
  fqall : Bool
  fqmbox : DWord
  ctbase : DWord
  dirbase : DWord
  dircap : Nat
  scales : List DWord
  savebase : DWord
  savesize : DWord
  fctl : DWord
  remto : Nat
  pagewait : Nat
  qwd : Nat
  swd : Nat
  foldto : Nat
  stkbase : DWord
  stklog2 : Nat
  pm : List Byte
  fenced : Bool
  /-- when the last core stopped in a teardown, and whether its release has happened (22 R446) -/
  stoppedAt : Option Nat
  released : Bool
  deriving DecidableEq, Repr, Inhabited

/-- A contribution that has reached the fold's root: the strand's own count of it, its kind and predicate. -/
structure FoldIn where
  core : Nat
  strand : Nat
  own : Nat
  kind : Nat
  pred : Bool
  deriving DecidableEq, Repr, Inhabited

/-- An open round at the root (17 R370; 22 R444): its members, what has come, when it began, and whether its value has
gone to the Lea. -/
structure FoldRound where
  round : Nat
  members : List (Nat × Nat)
  got : List FoldIn
  since : Nat
  sent : Bool
  deriving DecidableEq, Repr, Inhabited

/-- A package's combined contribution to a round of a fold that spans packages, with its Lea sequence (24 R463). -/
structure FarIn where
  round : Nat
  pkg : Nat
  seq : Nat
  v : FoldValue
  deriving DecidableEq, Repr, Inhabited

/-- A CRED reduction at the root (15 R335). -/
structure CredRound where
  round : Nat
  members : List (Nat × Nat)
  got : List CredIn
  sent : Bool
  deriving DecidableEq, Repr, Inhabited

/-- A part of a package's reduced data, with how many parts there are and its Lea sequence. -/
structure CredFar where
  round : Nat
  pkg : Nat
  part : Nat
  parts : Nat
  seq : Nat
  x : CredIn
  deriving DecidableEq, Repr, Inhabited

/-- A member of a fold as its root counts it: the number of the first round that includes it, and one past the last once
the strand has left with commands that still contribute (17 R370). -/
structure FoldMember where
  core : Nat
  strand : Nat
  base : Nat
  limit : Option Nat
  deriving DecidableEq, Repr, Inhabited

/-- A fold in one package (02 R77): its membership registers (the package list holds at most 32), the rounds open at the root, the number of the next. -/
structure Fold where
  clusters : Vector DWord 4
  dies : BitVec 4
  packages : List Nat
  joined : List FoldMember
  base : Nat
  rounds : List FoldRound
  far : List FarIn
  credJoined : List FoldMember
  credBase : Nat
  cred : List CredRound
  credFar : List CredFar
  deriving DecidableEq, Repr, Inhabited

/-- A Lea operation (24 R460): BST data, a fence, a fold contribution, or a page of a copy. -/
inductive LeaOp where
  | bst (part : BitVec 6) (core : Nat) (va : Word) (bytes : List Byte)
  | fence
  | fold (fold : Fin 16) (round pkg : Nat) (v : FoldValue)
  | cred (fold : Fin 16) (round pkg part parts : Nat) (x : CredIn)
  | page (part : BitVec 6) (core : Nat) (num : BitVec 32) (segs : List (Word × List Byte))
  deriving DecidableEq, Repr, Inhabited

/-- The lark of a group (24 Table 24.3). -/
structure Lark where
  group : BitVec 16
  gen : BitVec 16
  holder : Nat
  next : Nat
  applied : Nat
  nack : Nat
  deriving DecidableEq, Repr, Inhabited

/-- A package's Lea engine (24 R460 to R464; 17 R375). -/
structure Lea where
  group : BitVec 16
  members : List Nat
  number : Nat
  /-- the lark frame that came last, and whether this member has yet to act on it -/
  hasLark : Bool
  lark : Lark
  seenGen : BitVec 16
  lastSeen : Nat
  /-- operations waiting for the lark: who asked (core, and strand, 32 for none) and what -/
  queue : List (Nat × Nat × LeaOp)
  sent : List (Nat × LeaOp)
  received : List (Nat × LeaOp)
  applied : Nat
  localNext : Nat
  txOff : Bool
  /-- sequence numbers given to waiting strands: core, strand, number -/
  given : List (Nat × Nat × Nat)
  deriving DecidableEq, Repr, Inhabited

/-- One direction of an optical link, from its transmitter (24 R452 to R458): of each tree port 0 to 15 of a package, and of
its Lea transmitter, 16. A link is numbered package × 17 + port. -/
structure Link where
  live : BitVec 16
  up : Bool
  slow : Bool
  /-- the last link frame sequence given -/
  lastSeq : BitVec 32
  /-- the replay buffer: frames not yet acknowledged, each with the packets that its four flits carry (01 R29; log 31) -/
  replay : List (BitVec 32 × List Flit)
  /-- flits that wait while 64 frames are unacknowledged -/
  waiting : List Flit
  /-- the receiver's highest delivered sequence -/
  delivered : BitVec 32
  /-- what travels: frames, an acknowledgement, a replay request, a restripe notice, a restripe marker -/
  inFlight : List (BitVec 32 × List Flit)
  ackFlight : Option (BitVec 32)
  replayReq : Option (BitVec 32)
  notice : Option (BitVec 16 × BitVec 32)
  /-- when the receiver saw the loss that a notice reports (24 Table 24.1, TIME) -/
  lossAt : Nat
  /-- a restripe marker on its way, with the number of frames ahead of it (24 R468) -/
  marker : Option Nat
  /-- stream beats since the last restripe or retraining -/
  beat : Nat
  attempts : Nat
  retryAt : Option Nat
  /-- it went down by disagreement -/
  disagreed : Bool
  deriving DecidableEq, Repr, Inhabited

/-- A host window (28 Table 28.2) and an endpoint (28 R486). -/
structure HostWindow where
  valid : Bool
  writes : Bool
  part : BitVec 6
  endpt : BitVec 8
  pages : BitVec 32
  hbase : DWord
  rkey : DWord
  deriving DecidableEq, Repr, Inhabited

structure Endpoint where
  ip : BitVec 128
  job : BitVec 24
  deriving DecidableEq, Repr, Inhabited

/-- A connector's degradation (28 R500). -/
structure Connector where
  degraded : Bool
  baseline : Option Nat
  value : Nat
  wmask : BitVec 16
  postedAt : Nat
  deriving DecidableEq, Repr, Inhabited

structure Package where
  formed : Bool
  access : SMap (BitVec 4)
  parts : SMap (Option PartCfg)
  minima : SMap (BitVec 32)
  /-- scale bases of the shared spaces (05 R125) -/
  sharedScales : SMap DWord
  folds : Vector Fold 16
  lea : Lea
  links : Vector Link 17
  lasers : BitVec 69
  counters : Vector (Vector Counter 16) 5
  uePorts : BitVec 4
  connections : List (Nat × UetOffer)
  /-- sends to the host event mailbox: held, and made, newest last (28 R490) -/
  heldSends : List (List Byte)
  hostSends : List (List Byte)
  droppedSends : Nat
  windows : SMap (Option HostWindow)
  endpoints : SMap (Option Endpoint)
  jobs : SMap (Option (BitVec 24 × BitVec 6))
  /-- answers returned over Ultra Ethernet: errors, data, acknowledgements -/
  ueReplies : List (List Byte)
  mgmtEvents : List (List Byte)
  /-- a configuration record whose partition is being torn down before it is applied (28 R493) -/
  pendingCfg : Option (List Byte)
  bm : List Byte
  fused : BitVec 32
  boots : Nat
  booted : Bool
  inReset : Bool
  keyHashes : List (List Byte)
  bootHash : List Byte
  telemetry : Vector (BitVec 32) 42
  connectors : SMap (Option Connector)
  deriving DecidableEq, Repr, Inhabited

/-! ### The domain -/

structure State where
  mem : SMap Byte
  poison : SMap Bool
  /-- poisoned lines of which the management agent has yet to report (26 R478) -/
  poisonDue : List Nat
  cores : SMap Core
  clusters : SMap Cluster
  dies : SMap Die
  packages : SMap Package
  net : List Flit
  kept : List Kept
  /-- next SEQ of each stream, by source and target (22 R440) -/
  seqs : SMap (BitVec 16)
  /-- next PSEQ sent and next to be delivered, by source and destination package (22 R435) -/
  psent : SMap (BitVec 12)
  pdone : SMap (BitVec 12)
  /-- duplicate-filter windows, by source and target (22 R441) -/
  windows : SMap (Option Window)
  now : Nat
  turn : Turn
  tick : Nat
  deriving DecidableEq, Repr, Inhabited

/-! ### Reset values -/

def LoopLevel.free : LoopLevel := { lb := 0, le := 0, lc := 0, busy := false }
/-- No tag, no disagreement, the residues of registers that hold zero. -/
def Checks.reset : Checks :=
  { tagS := 0, tagV := 0, tagK := 0, synS := 0, synV := 0, synK := 0, twoS := 0, twoV := 0, twoK := 0
    res := Vector.replicate 16 0 }
def Routine.reset : Routine :=
  { handler := 0, prio := 0, conc := false, nextHi := 0, stage := none, queue := [], waited := 0, raised := false }
def Mailbox.reset : Mailbox := { bind := .none, parked := [] }
def Queue.reset : Queue :=
  { bound := false, base := 0, sz := 0, nslot := 0, dir := 0, peer := 0, linked := false, p := 0, c := 0, peerQ := 0,
    peerBase := 0, epoch := 0, asked := false, badLink := false }
def Plane.reset : Plane :=
  { valid := false, sparse := false, fmt := .i8, nact := 0, weights := [], meta_ := [], pairs := [] }
/-- FMA(A, W, S): KC 0, P 1, MW1 0xA500 (20 R411). -/
def Micro.reset : Micro := { kc := 0, p := 1, mw := #v[0xA500, 0, 0, 0], rest := 0 }
def Ladder.reset : Ladder :=
  { configured := false, base := 0, r := 0, micro := none, occupied := 0, w := Vector.replicate 16 0, step := 0,
    chains := [] }
/-- DH 128, IN FP16, OUT FP32, SCALE 1.0 (20 R421). -/
def AttnCfg.reset : AttnCfg := { dh := .d128, inp := .fp16, out := .fp32, scale := 0x3F800000 }
def Counter.reset : Counter := { select := 0, count := 0 }

/-- A core at reset: SEED 0x0000_0001 (05 R130), FCTL and FSTAT zero (12 R258), queues and mailboxes unbound (14 R294,
15 R337), routine table zero (02 R67), ladder unconfigured (20 R417); DESIGN CHOICE for the rest (log 3). -/
def Core.reset : Core :=
  { part := 0, assigned := false, fctl := 0, fstat := 0, seed := 1, lseq := 0, routines := [], frames := 0,
    mailboxes := [], pib := [], strands := [], spec := none, halt := .none, diverted := [], parkAct := 0, preempts := [], residues := [],
    queues := Vector.replicate 16 Queue.reset, slotTags := [], linkOffers := [], engSeq := Vector.replicate 4 0, staging := [],
    chains := Vector.replicate 4 [], retained := [], active := Plane.reset, shadow := Plane.reset, tiles := [],
    tileAlloc := 0, tileStrand := [], microActive := Micro.reset, microShadow := Micro.reset, mpldAt := none,
    matCount := 0, ladder := Ladder.reset, ladIssued := none, attn := AttnCfg.reset, counters := Vector.replicate 4 Counter.reset, tc := [],
    strikes := [], hsyncAcks := [] }

def TileQueue.reset : TileQueue :=
  { configured := false, rows := 0, cols := 0, srows := 0, scols := 0, rule := 0, claims := 0 }
def Barrier.reset : Barrier := { waiting := [], since := 0, opened := false, epoch := 0 }
def ShepherdRegs.reset : ShepherdRegs :=
  { s := Vector.replicate 16 0, k := Vector.replicate 8 0, pc := 0, l0 := LoopLevel.free, l1 := LoopLevel.free, rs := [],
    status := 0, cause := 0, epc := 0, eva := 0, fctl := 0, fstat := 0, tid := 0, part := 0, lseq := 0, fold := 0,
    ladstep := 0, seed := 1 }

/-- A cluster at reset: powered, its tile queue unconfigured (02 R84). -/
def Cluster.reset : Cluster :=
  { wave := Vector.replicate 16 0, tq := TileQueue.reset, locks := [], evHead := 0, evCount := 0, ingress := [], shepherd := ShepherdRegs.reset,
    launches := [], nextLaunch := 0, cancelled := [], phaseWait := [], nogate := false, gated := false, idleSince := 0,
    wakeDue := none, counters := Vector.replicate 8 Counter.reset, scans := [],
    barriers := Vector.replicate 4 Barrier.reset, copyNext := 0, attn := none, shepherdMail := [], strikes := [] }

/-- A die at reset: no host request made, so 700 W; BL not renewed, so 400 W (28 R498). -/
def Die.reset : Die :=
  { writes := 0, applied := Vector.replicate 4 0, hostCap := 700, boil := 400, boilAt := 0, boilLapsed := true,
    hot := false, stopped := false }

def Fold.reset : Fold :=
  { clusters := Vector.replicate 4 0, dies := 0, packages := [], joined := [], base := 0, rounds := [], far := [],
    credJoined := [], credBase := 0, cred := [], credFar := [] }
def Lark.reset : Lark := { group := 0, gen := 0, holder := 0, next := 1, applied := 0, nack := 0 }
/-- No group; the local counter starts at 1 (17 R375). -/
def Lea.reset : Lea :=
  { group := 0, members := [], number := 0, hasLark := false, lark := Lark.reset, seenGen := 0, lastSeen := 0,
    queue := [], sent := [], received := [], applied := 0, localNext := 1, txOff := false,
    given := [] }
def Link.reset : Link :=
  { live := 0, up := false, slow := false, lastSeq := 0, replay := [], waiting := [], delivered := 0, inFlight := [],
    ackFlight := none, replayReq := none, notice := none, lossAt := 0, marker := none, beat := 0, attempts := 0, retryAt := none,
    disagreed := false }

/-- A package at reset: every access-table entry clear but those of partition 63 (07 R156), which the table's reader
supplies; BM 64 zero bytes (28 R494). -/
def Package.reset : Package :=
  { formed := false, access := [], parts := [], minima := [], sharedScales := [], folds := Vector.replicate 16 Fold.reset, lea := Lea.reset,
    links := Vector.replicate 17 Link.reset, lasers := BitVec.allOnes 69,
    counters := Vector.replicate 5 (Vector.replicate 16 Counter.reset), uePorts := 0xF, connections := [],
    heldSends := [], hostSends := [], droppedSends := 0, windows := [], endpoints := [], jobs := [], ueReplies := [],
    mgmtEvents := [], pendingCfg := none, bm := List.replicate 64 0, fused := 0, boots := 0, booted := false, inReset := false,
    keyHashes := (List.range 4).map Config.authorityHash, bootHash := Config.bootHash, telemetry := Vector.replicate 42 0, connectors := [] }

/-- What a byte of memory that nothing has written reads as (DESIGN CHOICE, log 4). -/
def Memory.unlisted : Byte := 0

/-- The machine right after reset: no strand, nothing written, no message in flight. -/
def State.reset : State :=
  { mem := [], poison := [], poisonDue := [], cores := [], clusters := [], dies := [], packages := [], net := [], kept := [], seqs := [],
    psent := [], pdone := [], windows := [], now := 0,
    turn := { agent := .slot 0 0, dt := 0, useCache := false, upset := false, free := 0 }, tick := 0 }

/-! ### How a step can stop without a next state -/

/-- Faults of the model itself. The device's own faults are next states. -/
inductive Fault where
  /-- Raised by the meaning of an instruction that is executed while the turn names no live strand whose slot or
  sequencer entry it could be; `step` never does so. Safe. -/
  | noStrand
  deriving DecidableEq, Repr, Inhabited

/-- Refusals. -/
inductive Refusal where
  /-- Raised by Dispatch.lean for an instruction that has no meaning yet. Safe. -/
  | notModelled (mnemonic : String)
  /-- Raised by an access of a master that its access table admits to a word of a package control block whose content
  the manual does not state (log 11). Safe. -/
  | controlWord (pa : Nat)
  deriving DecidableEq, Repr, Inhabited

end Sys2Proof.Machine
end

