-- ==== Sys2Proof/Machine/Mem.lean ====
section
/-! DEFINITION. Accessors of the state, bytes of memory, the physical map (07 R152 to R154), access tables (07 R156),
event counters (26 R481) and the walk of the translation tables (07 R145 to R149). -/

namespace Sys2Proof.Machine

/-! ### Accessors -/

def State.core (s : State) (c : Nat) : Core := smGet Core.reset s.cores c
def State.setCore (s : State) (c : Nat) (x : Core) : State := { s with cores := smPut s.cores c x }
def State.modCore (s : State) (c : Nat) (f : Core → Core) : State := s.setCore c (f (s.core c))

def State.cluster (s : State) (cl : Nat) : Cluster := smGet Cluster.reset s.clusters cl
def State.setCluster (s : State) (cl : Nat) (x : Cluster) : State := { s with clusters := smPut s.clusters cl x }
def State.modCluster (s : State) (cl : Nat) (f : Cluster → Cluster) : State := s.setCluster cl (f (s.cluster cl))

def State.die (s : State) (d : Nat) : Die := smGet Die.reset s.dies d
def State.setDie (s : State) (d : Nat) (x : Die) : State := { s with dies := smPut s.dies d x }
def State.modDie (s : State) (d : Nat) (f : Die → Die) : State := s.setDie d (f (s.die d))

def State.pkg (s : State) (p : Nat) : Package := smGet Package.reset s.packages p
def State.setPkg (s : State) (p : Nat) (x : Package) : State := { s with packages := smPut s.packages p x }
def State.modPkg (s : State) (p : Nat) (f : Package → Package) : State := s.setPkg p (f (s.pkg p))

/-- The cluster, die and package of a core (01 Table 1.2). -/
def clOf (c : Nat) : Nat := c / 16
def dieOf (c : Nat) : Nat := c / 1024
def pkgOf (c : Nat) : Nat := c / 4096

/-- The live strand with an index on a core. -/
def State.strand (s : State) (c k : Nat) : Option Strand := smGet none (s.core c).strands k
def State.setStrand (s : State) (c k : Nat) (x : Strand) : State :=
  s.modCore c (fun co => { co with strands := smPut co.strands k (some x) })
def State.dropStrand (s : State) (c k : Nat) : State :=
  s.modCore c (fun co => { co with strands := smErase co.strands k })
def State.modStrand (s : State) (c k : Nat) (f : Strand → Strand) : State :=
  match s.strand c k with
  | some x => s.setStrand c k (f x)
  | none => s

/-- The live strands of a core, in ascending index. -/
def liveStrands (co : Core) : List (Nat × Strand) :=
  co.strands.filterMap (fun p => match p.2 with | some x => some (p.1, x) | none => none)

/-- The partition configuration that a core belongs to. -/
def State.cfg (s : State) (c : Nat) : Option PartCfg :=
  let co := s.core c
  if co.assigned then smGet none (s.pkg (pkgOf c)).parts co.part.toNat else none
def State.partCfg (s : State) (p : Nat) (part : BitVec 6) : Option PartCfg := smGet none (s.pkg p).parts part.toNat

/-! ### Bytes -/

def State.byte (s : State) (pa : Nat) : Byte := smGet Memory.unlisted s.mem pa
def State.putByte (s : State) (pa : Nat) (b : Byte) : State := { s with mem := smSet Memory.unlisted s.mem pa b }

def readBytes (s : State) (pa : Nat) : Nat → List Byte
  | 0 => []
  | n + 1 => s.byte pa :: readBytes s (pa + 1) n
def writeBytes (s : State) (pa : Nat) : List Byte → State
  | [] => s
  | b :: t => writeBytes (s.putByte pa b) (pa + 1) t

/-- Little-endian value of bytes (00 R4), and the bytes of a value. -/
def readU (s : State) (pa n : Nat) : Nat := leVal (readBytes s pa n)
def readD (s : State) (pa : Nat) : DWord := BitVec.ofNat 64 (readU s pa 8)
def writeU (s : State) (pa n v : Nat) : State := writeBytes s pa (leBytes n v)
def writeD (s : State) (pa : Nat) (v : DWord) : State := writeU s pa 8 v.toNat

/-- The canonical form of memory: addresses strictly rising, no entry equal to what an unlisted address reads as. -/
abbrev Memory.wf (m : SMap Byte) : Prop := smWf Memory.unlisted m = true

/-! ### Fields of words -/

def bits {w : Nat} (x : BitVec w) (lo len : Nat) : Nat := (x.extractLsb' lo len).toNat
def bit {w : Nat} (x : BitVec w) (n : Nat) : Bool := x.getLsbD n
/-- `v` placed in bits [lo+len−1 : lo] of `x`. -/
def setBits {w : Nat} (x : BitVec w) (lo len : Nat) (v : Nat) : BitVec w :=
  let mask : BitVec w := BitVec.ofNat w ((2 ^ len - 1) * 2 ^ lo)
  (x &&& ~~~mask) ||| (BitVec.ofNat w ((v % 2 ^ len) * 2 ^ lo))
def setBit {w : Nat} (x : BitVec w) (n : Nat) (v : Bool) : BitVec w := setBits x n 1 (if v then 1 else 0)

/-- A 64-bit address in partition space 0x00 (07 R504). -/
def space0 (x : DWord) : Word := x.setWidth 72
/-- Sign extension of a 64-bit value to 72 bits. -/
def sext72 (x : DWord) : Word := x.signExtend 72
def zext72 (x : DWord) : Word := x.setWidth 72
def low64 (x : Word) : DWord := x.setWidth 64
def spaceOf (va : Word) : Nat := bits va 64 8

/-! ### The physical map (07 R152 to R154) -/

inductive Site where
  | hbm (pkg stack chan : Nat)
  | share (core ofs : Nat)
  | cblock (cl ofs : Nat)
  | pblock (pkg ofs : Nat)
  | mailbox (cl pos ofs : Nat)
  | hole
  deriving DecidableEq, Repr, Inhabited

/-- Where a global physical address lies (07 Table 7.4). -/
def siteOf (pa : Nat) (geom2 : Bool) : Site :=
  let p := pa / 2 ^ 50
  let o := pa % 2 ^ 50
  if 1024 ≤ p then .hole
  else if o < 0xA000000000 then
    let so := o % (80 * 2 ^ 30)
    .hbm p (o / (80 * 2 ^ 30)) (if geom2 then so / 2 ^ 16 % 32 else so / 2 ^ 8 % 32)
  else if 0x010000000000 ≤ o ∧ o < 0x010100000000 then
    .share (p * 4096 + (o - 0x010000000000) / 2 ^ 20) (o % 2 ^ 20)
  else if 0x020000000000 ≤ o ∧ o < 0x020100000000 then
    .cblock (p * 256 + (o - 0x020000000000) / 2 ^ 24) (o % 2 ^ 24)
  else if 0x020100000000 ≤ o ∧ o < 0x020110000000 then .pblock p (o - 0x020100000000)
  else if 0x030000000000 ≤ o ∧ o < 0x030040000000 then
    let m := o - 0x030000000000
    let pos := m / 2 ^ 17 % 32
    if pos ≤ 16 then .mailbox (p * 256 + m / 2 ^ 22) pos (m % 2 ^ 17) else .hole
  else .hole

/-- Global physical address of an offset in a core's share (01 R22), of a cluster's and of a package's control block. -/
def sharePa (c ofs : Nat) : Nat := pkgOf c * 2 ^ 50 + 0x010000000000 + (c % 4096) * 2 ^ 20 + ofs
def cblockPa (cl ofs : Nat) : Nat := (cl / 256) * 2 ^ 50 + 0x020000000000 + (cl % 256) * 2 ^ 24 + ofs
def pblockPa (p ofs : Nat) : Nat := p * 2 ^ 50 + 0x020100000000 + ofs

/-- HBM and vault bytes: what a table, a stack or a page may lie in. -/
def Site.isMemory : Site → Bool
  | .hbm .. | .share .. => true
  | _ => false

/-- The die of a home, as package × 4 + die (01 R21, R24). -/
def homeDie (pa : Nat) : Nat :=
  match siteOf pa false with
  | .hbm p st _ => p * 4 + st / 2
  | .share c _ => dieOf c
  | .cblock cl _ => cl / 64
  | .pblock p _ => p * 4
  | .mailbox cl _ _ => cl / 64
  | .hole => pa / 2 ^ 50 * 4
def homePkg (pa : Nat) : Nat := pa / 2 ^ 50

/-- A hardware range of a core's share (07 Table 7.5). -/
def hardwareRange (c ofs : Nat) : Bool :=
  decide (ofs < 0x48000) || (decide (0xF0000 ≤ ofs) && decide (c % 16 = 0))

/-- Ordinary vault memory of a cluster (02 R76). -/
def ordinaryVault (cl pa : Nat) : Bool :=
  match siteOf pa false with
  | .share c ofs => decide (clOf c = cl) && !hardwareRange c ofs
  | _ => false

/-! ### Access tables (07 R156) -/

/-- The index of a target within its package: channel, share, mailbox position, cluster block, package block, engine. -/
def targetIndex : Site → Option (Nat × Nat)
  | .hbm p st ch => some (p, st * 32 + ch)
  | .share c _ => some (pkgOf c, 256 + c % 4096)
  | .mailbox cl pos _ => some (cl / 256, 4352 + (cl % 256) * 32 + pos)
  | .cblock cl _ => some (cl / 256, 12544 + cl % 256)
  | .pblock p _ => some (p, 12800)
  | .hole => none
def engineTarget (cl : Nat) (e : Nat) : Nat × Nat := (cl / 256, 12801 + (cl % 256) * 4 + e)

/-- The entry of a target's table for a master: [0] RD, [1] WR, [2] AT, [3] CMD. At reset every entry is clear except
those of partition 63. -/
def State.rights (s : State) (t : Nat × Nat) (id : Ident) : BitVec 4 :=
  smGet (if id.part = 63 then 0xF else 0) (s.pkg t.1).access (t.2 * 1024 + id.part.toNat * 16 + id.cls.toNat)

inductive Right where
  | rd | wr | amo | cmd
  deriving DecidableEq, Repr, Inhabited
def Right.bit : Right → Nat
  | .rd => 0 | .wr => 1 | .amo => 2 | .cmd => 3

/-- What a target's table says. -/
def State.tableAdmits (s : State) (st : Site) (id : Ident) (r : Right) : Bool :=
  match targetIndex st with
  | some t => (s.rights t id).getLsbD r.bit
  | none => false
/-- Whether the target of an access admits it (07 R152, R154, R156). Of the masters of a hardware range only the management
core comes here for any core's: a message unit reaches its own core's (`unitAdmits`), and it, the save logic and the cluster's
shepherd core otherwise act on them as parts of the events that are theirs. -/
def State.admits (s : State) (pa : Nat) (geom2 : Bool) (id : Ident) (r : Right) : Bool :=
  let st := siteOf pa geom2
  match st with
  | .share c ofs => if hardwareRange c ofs then id.cls == 0xB else s.tableAdmits st id r
  | _ => s.tableAdmits st id r
/-- The same for core `c`'s message unit. -/
def State.unitAdmits (s : State) (c pa : Nat) (geom2 : Bool) (part : BitVec 6) (r : Right) : Bool :=
  let st := siteOf pa geom2
  match st with
  | .share d ofs => if hardwareRange d ofs then c == d else s.tableAdmits st { part := part, cls := 7 } r
  | _ => s.tableAdmits st { part := part, cls := 7 } r

/-! ### Event counters (26 R481, R482) -/

/-- `n` events of `code`, of a partition or of none, at one counter. -/
def Counter.add (k : Counter) (code : Nat) (part : Option (BitVec 6)) (n : Nat) : Counter :=
  let hit := bit k.select 63 && decide (bits k.select 0 16 = code) && decide (code ≠ 0) &&
    (!bit k.select 61 || part == some (k.select.extractLsb' 48 6))
  if hit then
    let t := k.count.toNat + n
    { select := if 2 ^ 64 ≤ t then setBit k.select 62 true else k.select, count := BitVec.ofNat 64 t }
  else k

def State.countCore (s : State) (c code n : Nat) (part : Option (BitVec 6)) : State :=
  s.modCore c (fun co => { co with counters := co.counters.map (fun k => k.add code part n) })
def State.countShepherd (s : State) (cl code n : Nat) (part : Option (BitVec 6)) : State :=
  s.modCluster cl (fun x => { x with counters := x.counters.map (fun k => k.add code part n) })
def State.countPort (s : State) (p g code n : Nat) (part : Option (BitVec 6)) : State :=
  let one := fun (gi : Vector Counter 16 × Nat) => if gi.2 = g then gi.1.map (fun k => k.add code part n) else gi.1
  s.modPkg p (fun x => { x with counters := x.counters.zipIdx.map one })

/-- A denial counted at its target (07 R157): a share or mailbox at its core, a channel and the package block at the
port group of its die, a cluster block at its shepherd. -/
def State.countDenial (s : State) (pa : Nat) (part : BitVec 6) : State :=
  match siteOf pa false with
  | .share c _ => s.countCore c 0x10 1 (some part)
  | .mailbox cl pos _ => if pos < 16 then s.countCore (cl * 16 + pos) 0x10 1 (some part)
    else s.countShepherd cl 0x10 1 (some part)
  | .cblock cl _ => s.countShepherd cl 0x10 1 (some part)
  | .hbm p st _ => s.countPort p (st / 2) 0x10 1 (some part)
  | .pblock p _ => s.countPort p 0 0x10 1 (some part)
  | .hole => s

/-! ### Cause codes (09 Table 9.4) -/

abbrev Code := BitVec 6
def cNone : Code := 0x00
def cIllegalEncoding : Code := 0x01
def cBranchTarget : Code := 0x02
def cLineParity : Code := 0x03
def cPrivileged : Code := 0x04
def cUnboundRoutine : Code := 0x05
def cSoftwareTrap : Code := 0x06
def cBreakpoint : Code := 0x07
def cSingleStep : Code := 0x08
def cQueueTimeout : Code := 0x09
def cQueueUnconfigured : Code := 0x0A
def cLoopNesting : Code := 0x0B
def cStackSpill : Code := 0x0C
def cStackFill : Code := 0x0D
def cWcsBusy : Code := 0x0E
def cReservedFormat : Code := 0x0F
def cNotPresent : Code := 0x10
def cPermission : Code := 0x11
def cFormat : Code := 0x12
def cDeny : Code := 0x13
def cMisaligned : Code := 0x14
def cRangeLocked : Code := 0x15
def cGatherBounds : Code := 0x16
def cRemoteTimeout : Code := 0x17
def cPoison : Code := 0x18
def cHostWindow : Code := 0x19
def cMigrate : Code := 0x1A
def cAtomicFormat : Code := 0x1B
def cSpecOverflow : Code := 0x1C
def cLinkDown : Code := 0x1D
def cLinkDisagree : Code := 0x1E
def cAbandoned : Code := 0x1F
def cArithInvalid : Code := 0x20
def cArithDivZero : Code := 0x21
def cArithOverflow : Code := 0x22
def cArithUnderflow : Code := 0x23
def cIntOverflow : Code := 0x24
def cIntDivZero : Code := 0x25
def cConvertRange : Code := 0x26
def cBlockScale : Code := 0x27
def cMatrixShape : Code := 0x28
def cGangMismatch : Code := 0x29
def cLadder : Code := 0x2A
def cAttnTimeout : Code := 0x2B
def cMirror : Code := 0x2C
def cShadow : Code := 0x2D
def cResidue : Code := 0x2E
def cTileQueue : Code := 0x2F
def cHandleKind : Code := 0x30
def cHandleStale : Code := 0x31
def cBrokenReceiver : Code := 0x32
def cBrokenArgument : Code := 0x33
def cAnswerFull : Code := 0x34
def cInvokeDenied : Code := 0x35
def cPhaseFuture : Code := 0x36
def cCancelled : Code := 0x37
def cFoldEjected : Code := 0x38
def cFoldTimeout : Code := 0x39
def cStrikeReplay : Code := 0x3A
def cPreempt : Code := 0x3B
def cMachineCheck : Code := 0x3C
def cFenced : Code := 0x3D
def cWatchdog : Code := 0x3E
def cDoubleFault : Code := 0x3F

/-! ### Translation (07 R145 to R149) -/

/-- A leaf, as the walker or a translation cache gives it: where its entry lies, its two words, whether it maps 256 MiB,
and whether its SCAN counts as passed (10 R222). -/
structure Leaf where
  entry : Nat
  lo : DWord
  hi : DWord
  big : Bool
  passed : Bool
  deriving DecidableEq, Repr, Inhabited

def eV (lo : DWord) : Bool := bit lo 63
def eLeaf (lo : DWord) : Bool := bit lo 62
def ePpn (lo : DWord) : Nat := bits lo 16 44
def eCache (lo : DWord) : Nat := bits lo 6 2
def Leaf.r (x : Leaf) : Bool := bit x.lo 15
def Leaf.w (x : Leaf) : Bool := bit x.lo 14
def Leaf.x (x : Leaf) : Bool := bit x.lo 13
def Leaf.u (x : Leaf) : Bool := bit x.lo 12
def Leaf.scan (x : Leaf) : Nat := bits x.lo 10 2
def Leaf.poison (x : Leaf) : Bool := bit x.lo 9
def Leaf.learep (x : Leaf) : Bool := bit x.lo 8
def Leaf.fmt (x : Leaf) : Nat := bits x.lo 0 6
def Leaf.scale (x : Leaf) : Nat := bits x.hi 48 16
def Leaf.geom (x : Leaf) : Nat := bits x.hi 44 4
def Leaf.owner (x : Leaf) : Nat := bits x.hi 22 22
def Leaf.ownv (x : Leaf) : Bool := bit x.hi 21
def Leaf.await (x : Leaf) : Bool := bit x.hi 20
def Leaf.seal (x : Leaf) : Nat := bits x.hi 0 20
def Leaf.geom2 (x : Leaf) : Bool := x.geom == 2

/-- The physical address that a leaf gives a virtual address (07 Table 7.2). -/
def Leaf.pa (x : Leaf) (va : Word) : Nat :=
  if x.big then ePpn x.lo / 2 ^ 12 * 2 ^ 28 + bits va 0 28 else ePpn x.lo * 2 ^ 16 + bits va 0 16

/-- A page format code that R123 lists, with a geometry and a SCALE that R124 and R125 allow. -/
def fmtBits (fmt : Nat) : Option Nat :=
  match fmt with
  | 0x00 => some 0
  | 0x01 | 0x13 | 0x14 | 0x18 => some 8
  | 0x02 | 0x11 | 0x12 => some 16
  | 0x03 | 0x10 => some 32
  | 0x15 | 0x19 => some 4
  | _ => none
def Leaf.isBlock (x : Leaf) : Bool := x.fmt == 0x18 || x.fmt == 0x19
def Leaf.fmtOk (x : Leaf) : Bool :=
  (fmtBits x.fmt).isSome && decide (x.geom ≤ 2) &&
  (if x.isBlock then
    let unit := (if x.fmt = 0x19 then 2 else 1) * (if x.big then 4096 else 1)
    x.scale % unit == 0
   else true)

/-- A walk's end: a leaf; not present, with whether the leaf it ended at waits (V clear, LEAF and AWAIT set: 15 R319); an
entry whose target denies the walker (log 56). -/
inductive WalkResult where
  | leaf (x : Leaf)
  | absent (await : Bool)
  | denied (pa : Nat)
  deriving DecidableEq, Repr, Inhabited

/-- The first 20 bits of SHAKE256 over the seal key, the entry's address and bits [63:10] of its first word (10 R222;
the bytes of the two values are little-endian, log 8). -/
def sealOf (key : List Byte) (entry : Nat) (lo : DWord) : Nat :=
  leVal (shake256 (key ++ leBytes 8 entry ++ leBytes 7 (bits lo 10 54)) 3) % 2 ^ 20

/-- Whether a leaf counts as passed: SCAN 01 with a SEAL that verifies. -/
def State.sealOk (s : State) (p entry : Nat) (lo hi : DWord) : Bool :=
  decide (bits lo 10 2 = 1) && decide (bits hi 0 20 = sealOf (Config.sealKey p (s.pkg p).boots) entry lo)

/-- Where the table of the next level lies: memory of the walker's own package. -/
def tableOk (p : Nat) (pa : Nat) : Bool := decide (homePkg pa = p) && (siteOf pa false).isMemory

/-- The walker, class 0xA, reads a table entry as an ordinary load that its target's access table admits (07 R150, R156). The
root tables in control space are the walkers' to read (07 R145). -/
def walkerAdmits (s : State) (part : BitVec 6) (level entry : Nat) : Bool :=
  level == 0 || s.admits entry false { part := part, cls := 0xA } .rd

/-- The walk from a table of level `4 − n`. -/
def walkFrom (s : State) (p : Nat) (part : BitVec 6) (va : Word) : Nat → Nat → WalkResult
  | n, table =>
    let level := 4 - n
    let idx := if level = 0 then bits va 64 8 else bits va (64 - 12 * level) 12
    let entry := table + 16 * idx
    let lo := readD s entry
    let hi := readD s (entry + 8)
    if !walkerAdmits s part level entry then .denied entry
    else if !eV lo then .absent (eLeaf lo && bit hi 20 && decide (3 ≤ level))
    else if eLeaf lo then
      if level < 3 then .absent false
      else if level = 3 ∧ ePpn lo % 2 ^ 12 ≠ 0 then .absent false
      else if eCache lo = 3 then .absent false
      else .leaf { entry := entry, lo := lo, hi := hi, big := level == 3, passed := s.sealOk p entry lo hi }
    else
      match n with
      | 0 => .absent false
      | m + 1 => if tableOk p (ePpn lo * 2 ^ 16) then walkFrom s p part va m (ePpn lo * 2 ^ 16) else .absent false

/-- Physical address of a partition's root table (07 R145). -/
def rootPa (p : Nat) (part : BitVec 6) : Nat := pblockPa p (0x200000 + 0x1000 * part.toNat)

/-- The walk of package `p`'s tables for a partition. -/
def State.walk (s : State) (p : Nat) (part : BitVec 6) (va : Word) : WalkResult :=
  if 0xC0 < spaceOf va then .absent false else walkFrom s p part va 4 (rootPa p part)

/-- The page of a virtual address. -/
def pageOf (big : Bool) (va : Word) : Nat := va.toNat / (if big then 2 ^ 28 else 2 ^ 16)
def TcEntry.covers (e : TcEntry) (part : BitVec 6) (va : Word) : Bool :=
  e.part == part && pageOf e.big e.va == pageOf e.big va

/-- The leaf a core uses for an access: the one its translation cache holds, when the turn lets it use that, or the walk's
(07 R150). -/
def State.leafFor (s : State) (c : Nat) (va : Word) : WalkResult :=
  let co := s.core c
  match (if s.turn.useCache then co.tc.find? (fun e => e.covers co.part va) else none) with
  | some e => .leaf { entry := 0, lo := e.lo, hi := e.hi, big := e.big, passed := e.passed }
  | none => s.walk (pkgOf c) co.part va
/-- A denied walk is counted at the target of its entry (07 R157). -/
def State.countWalk (s : State) (w : WalkResult) (part : BitVec 6) : State :=
  match w with
  | .denied pa => s.countDenial pa part
  | _ => s

end Sys2Proof.Machine
end

