-- ==== Sys2Proof/Machine/Home.lean ====
section
/-! DEFINITION. What happens to an access at its home: control-space words (03 R106, 02 R67, 26 R481), access tables
(07 R156), poison (26 R476, R477), loads, stores, atomics (15 R321, R322), sub-byte stores and block updates (05 R120,
R121; 07 R171). -/

namespace Sys2Proof.Machine

/-! ### Words of control space -/

def isManagement (id : Ident) : Bool := id.cls == 0xB
/-- The priority-3 strands of the partition that holds a core. -/
def isSupervisorOf (s : State) (c : Nat) (id : Ident) : Bool :=
  id.cls == 1 && (s.core c).assigned && id.part == (s.core c).part
/-- The priority-3 strands of a partition that holds a cluster (cores are assigned by whole clusters, 28 R492). -/
def holdsCluster (s : State) (cl : Nat) (id : Ident) : Bool := isSupervisorOf s (cl * 16) id

/-- Bit n set while core n of the cluster is parked (09 R196). -/
def parkedWord (s : State) (cl : Nat) : DWord :=
  BitVec.ofNat 64 ((List.range 16).foldl (fun a n =>
    match (s.core (cl * 16 + n)).halt with
    | .parked _ => a + 2 ^ n
    | _ => a) 0)

/-- Bytes 8 to 15 of a routine table entry: CONC and PRIO (02 R67). -/
def routineHi (r : Routine) : DWord := r.nextHi
/-- Those bytes of an entry that LAUNCH binds. -/
def routineTail (prio : BitVec 2) (conc : Bool) : DWord := BitVec.ofNat 64 (prio.toNat * 2 ^ 8 + (if conc then 2 ^ 10 else 0))

def counterWord (k : Counter) (half : Nat) : DWord := if half = 0 then k.select else k.count

/-- An 8-byte word of control space as it reads: none where the manual does not state its content. -/
def ctlRead (s : State) (pa : Nat) : Option DWord :=
  match siteOf pa false with
  | .cblock cl o =>
    let ofs := o / 8 * 8
    if ofs = 0 then some (if (s.cluster cl).nogate then 1 else 0)
    else if 0x1000 ≤ ofs ∧ ofs < 0x3000 then
      let r := smGet Routine.reset (s.core (cl * 16 + (ofs - 0x1000) / 0x200)).routines (ofs % 0x200 / 16)
      some (if ofs % 16 = 0 then r.handler else routineHi r)
    else if ofs = 0x3080 then some (parkedWord s cl)
    else if 0x100000 ≤ ofs ∧ ofs < 0x100400 then
      let k := (s.core (cl * 16 + (ofs - 0x100000) / 0x40)).counters.getD (ofs % 0x40 / 16) Counter.reset
      some (counterWord k (ofs % 16))
    else if 0x100400 ≤ ofs ∧ ofs < 0x100480 then
      some (counterWord ((s.cluster cl).counters.getD ((ofs - 0x100400) / 16) Counter.reset) (ofs % 16))
    else some 0
  | .pblock p o =>
    let ofs := o / 8 * 8
    if 0x100000 ≤ ofs ∧ ofs < 0x100A00 ∧ ofs % 0x200 < 0x100 then
      let g := (s.pkg p).counters.getD ((ofs - 0x100000) / 0x200) (Vector.replicate 16 Counter.reset)
      some (counterWord (g.getD (ofs % 0x200 / 16) Counter.reset) (ofs % 16))
    else if 0x200000 ≤ ofs ∧ ofs < 0x240000 then some (readD s (pa / 8 * 8))
    else none
  | _ => none

/-- What a write of a word of control space does. -/
inductive CtlResult where
  | done (s : State)
  | deny
  | unstated
  deriving DecidableEq, Repr, Inhabited

/-- A counter after a write of SELECT, which clears OVF, or of COUNT (26 R481). -/
def counterWrite (k : Counter) (half : Nat) (v : DWord) : Counter :=
  if half = 0 then
    { k with select := (v &&& 0xA03F00000000FFFF#64) }
  else { k with count := v }

/-- The masters that bind at priority 3: the management agent, a shepherd core, a priority-3 strand of the core's partition. -/
def bindsSupervisor (s : State) (c : Nat) (id : Ident) : Bool := isManagement id || id.cls == 2 || isSupervisorOf s c id
/-- A write to a routine table entry (02 R67): bytes 8 to 15 wait for the next write of bytes 0 to 7, which takes effect
whole; PRIO 3 by a master that is no supervisor is ignored and counted as a denial. -/
def routineWrite (s : State) (id : Ident) (c slot half : Nat) (v : DWord) : State :=
  let co := s.core c
  let r := smGet Routine.reset co.routines slot
  let supervisor := bindsSupervisor s c id
  if half ≠ 0 then
    if bits v 8 2 = 3 ∧ ¬ supervisor then s.countShepherd (clOf c) 0x10 1 (some id.part)
    else s.setCore c { co with routines := smPut co.routines slot { r with nextHi := v &&& 0x700#64 } }
  else
    let prio : BitVec 2 := r.nextHi.extractLsb' 8 2
    if prio = 3 ∧ ¬ supervisor then s.countShepherd (clOf c) 0x10 1 (some id.part)
    else
      let r' := { r with handler := v, prio := prio, conc := bit r.nextHi 10 }
      s.setCore c { co with routines := smPut co.routines slot r' }

/-- As it sets the tables of a shared space, in partition 63's root table, the management agent sets the scale base of the space
(05 R125). The manual gives the base no place that a store names, so its value is free (log 33). -/
def setSharedScale (s : State) (p pa : Nat) : State :=
  let i := (pa - rootPa p 63) / 16
  if rootPa p 63 ≤ pa ∧ 0x80 ≤ i ∧ i < 0xC0 then
    s.modPkg p (fun x => { x with sharedScales := smPut x.sharedScales i (Config.sharedScale s.tick i) })
  else s
/-- A write of PARKACT: 1 retries and 2 ends the decoding strand of a parked core, which the events PARKACT_RETRY and PARKACT_END
carry out; any other value, and a core that is not parked, leave it (09 R197). -/
def parkActWrite (v : DWord) (co : Core) : Core :=
  match co.halt with
  | .parked _ => if bits v 0 2 = 1 ∨ bits v 0 2 = 2 then { co with parkAct := BitVec.ofNat 2 (bits v 0 2) } else co
  | _ => co

/-- The masters of Table 3.6's column "Written by", where it names them, are the only ones that write the word (DEDUCED,
log 19); a table entry's other words are checked by the access table alone. -/
def ctlWrite (s : State) (id : Ident) (pa : Nat) (v : DWord) : CtlResult :=
  match siteOf pa false with
  | .cblock cl o =>
    let ofs := o / 8 * 8
    if ofs = 0 then
      if isManagement id || holdsCluster s cl id then .done (s.modCluster cl (fun x => { x with nogate := bit v 0 }))
      else .deny
    else if 0x1000 ≤ ofs ∧ ofs < 0x3000 then
      .done (routineWrite s id (cl * 16 + (ofs - 0x1000) / 0x200) (ofs % 0x200 / 16) (ofs % 16) v)
    else if 0x3000 ≤ ofs ∧ ofs < 0x3080 then
      if isManagement id || id.cls == 2 then .done (s.modCore (cl * 16 + (ofs - 0x3000) / 8) (parkActWrite v)) else .deny
    else if 0x100000 ≤ ofs ∧ ofs < 0x100400 then
      let c := cl * 16 + (ofs - 0x100000) / 0x40
      if isManagement id || isSupervisorOf s c id then
        let i := ofs % 0x40 / 16
        let f := fun (k : Vector Counter 4) => k.setIfInBounds i (counterWrite (k.getD i Counter.reset) (ofs % 16) v)
        .done (s.modCore c (fun co => { co with counters := f co.counters }))
      else .deny
    else if 0x100400 ≤ ofs ∧ ofs < 0x100480 then
      if isManagement id then
        let i := (ofs - 0x100400) / 16
        let f := fun (k : Vector Counter 8) => k.setIfInBounds i (counterWrite (k.getD i Counter.reset) (ofs % 16) v)
        .done (s.modCluster cl (fun x => { x with counters := f x.counters }))
      else .deny
    else .done s
  | .pblock p o =>
    let ofs := o / 8 * 8
    if 0x100000 ≤ ofs ∧ ofs < 0x100A00 ∧ ofs % 0x200 < 0x100 then
      let g := (ofs - 0x100000) / 0x200
      let i := ofs % 0x200 / 16
      if isManagement id then
        .done (s.modPkg p (fun x =>
          let grp := x.counters.getD g (Vector.replicate 16 Counter.reset)
          let grp' := grp.setIfInBounds i (counterWrite (grp.getD i Counter.reset) (ofs % 16) v)
          { x with counters := x.counters.setIfInBounds g grp' }))
      else .deny
    else if 0x200000 ≤ ofs ∧ ofs < 0x240000 then
      if isManagement id then .done (setSharedScale (writeD s (pa / 8 * 8) v) p (pa / 8 * 8)) else .deny
    else .unstated
  | _ => .unstated

/-! ### Poison (26 R476) -/

def lineOf (pa : Nat) : Nat := pa / 64 * 64
/-- The first poisoned line that a range of bytes meets. -/
def State.poisoned (s : State) (pa n : Nat) : Option Nat :=
  ((List.range ((pa + n - 1) / 64 - pa / 64 + 1)).map (fun i => lineOf pa + 64 * i)).find?
    (fun l => decide (0 < n) && smGet false s.poison l)
/-- A write of all 64 bytes of a line clears its marker. -/
def clearPoison (s : State) (pa n : Nat) : State :=
  let full := ((List.range (n / 64 + 1)).map (fun i => (pa + 63) / 64 * 64 + 64 * i)).filter
    (fun l => decide (l + 64 ≤ pa + n))
  { s with poison := full.foldl (fun m l => smErase m l) s.poison }

/-! ### Reads and writes of bytes at a target -/

inductive Done where
  | ok (s : State) (data : List Byte)
  /-- not performed: the cause, and the address that EVA takes for a poisoned line -/
  | fail (s : State) (c : Code) (line : Option Nat)
  /-- a word of control space whose content the manual does not state -/
  | refuse (pa : Nat)
  deriving DecidableEq, Repr, Inhabited

/-- Bytes of control space, through the words that hold them. -/
def ctlBytes (s : State) (pa : Nat) : Nat → Option (List Byte)
  | 0 => some []
  | n + 1 =>
    match ctlRead s pa, ctlBytes s (pa + 1) n with
    | some w, some t => some (w.extractLsb' (pa % 8 * 8) 8 :: t)
    | _, _ => none

/-- The words of an access to control space, highest first, so that bytes 8 to 15 of a table entry precede bytes 0 to 7. -/
def ctlWords (pa n : Nat) : List Nat :=
  ((List.range ((pa + n - 1) / 8 - pa / 8 + 1)).map (fun i => pa / 8 * 8 + 8 * i)).reverse

/-- The word with the bytes of the access that fall in it replaced. -/
def mergeWord (old : DWord) (w pa : Nat) (bytes : List Byte) : DWord :=
  (List.range 8).foldl (fun a i =>
    if pa ≤ w + i ∧ w + i < pa + bytes.length then setBits a (8 * i) 8 (bytes.getD (w + i - pa) 0).toNat else a) old

/-- A write of bytes 8 to 15 of a routine table's entry that R67 ignores. -/
def routineIgnored (s : State) (id : Ident) (w : Nat) (v : DWord) : Bool :=
  match siteOf w false with
  | .cblock cl o => decide (0x1000 ≤ o) && decide (o < 0x3000) && o % 16 == 8 && bits v 8 2 == 3 &&
      !bindsSupervisor s (cl * 16 + (o - 0x1000) / 0x200) id
  | _ => false
/-- The words of a store, one by one. Where bytes 8 to 15 of an entry are ignored, bytes 0 to 7 of the same write are too. -/
def ctlStore (s : State) (id : Ident) (pa : Nat) (bytes : List Byte) (skip : Bool) : List Nat → Done
  | [] => .ok s []
  | w :: t =>
    if skip then ctlStore s id pa bytes false t
    else
      match ctlRead s w with
      | none => .refuse pa
      | some old =>
        match ctlWrite s id w (mergeWord old w pa bytes) with
        | .done s' => ctlStore s' id pa bytes (routineIgnored s id w (mergeWord old w pa bytes)) t
        | .deny => .fail (s.countDenial pa id.part) cDeny none
        | .unstated => .refuse pa

/-- Root tables are read only by the walkers and the management agent (07 R145). -/
def rootTable (pa : Nat) : Bool :=
  match siteOf pa false with
  | .pblock _ o => decide (0x200000 ≤ o) && decide (o < 0x240000)
  | _ => false

/-- Read bytes that the access table has admitted. -/
def targetLoad (s : State) (id : Ident) (pa n : Nat) (geom2 : Bool) : Done :=
  if (siteOf pa geom2).isMemory then
    match s.poisoned pa n with
    | some l => .fail s cPoison (some l)
    | none => .ok s (readBytes s pa n)
  else if rootTable pa && !(isManagement id || id.cls == 0xA) then .fail (s.countDenial pa id.part) cDeny none
  else
    match ctlBytes s pa n with
    | some b => .ok s b
    | none => .refuse pa

/-- Write bytes that the access table has admitted. -/
def targetStore (s : State) (id : Ident) (pa : Nat) (geom2 : Bool) (bytes : List Byte) : Done :=
  if (siteOf pa geom2).isMemory then .ok (clearPoison (writeBytes s pa bytes) pa bytes.length) []
  else ctlStore s id pa bytes false (ctlWords pa bytes.length)

/-! ### Atomics (15 R321, R322) -/

def amofFp : AmofFmt → FpFmt
  | .fp32 => .fp32 | .bf16 => .bf16 | .fp16 => .fp16

/-- `new` of Table 15.4, or none where the atomic writes nothing. Values are patterns of 8 × len bits. -/
def atomicNew (a : Atomic) (old : Nat) : Option Nat :=
  let w := 8 * a.len
  let b := a.b.toNat % 2 ^ w
  let less := decide (intOf a.signed w old < intOf a.signed w b)
  match a.op with
  | .add => some ((old + b) % 2 ^ w)
  | .min => some (if less then old else b)
  | .max => some (if less then b else old)
  | .and => some (old &&& b)
  | .or => some (old ||| b)
  | .xor => some (old ^^^ b)
  | .swap => some b
  | .cas => if old = a.c.toNat % 2 ^ w then some b else none
  | .fadd f =>
    let sum := (numSum .rn [fpDecode (amofFp f) old, fpDecode (amofFp f) b]).1
    some (fpEncode (amofFp f) .rn false sum 0).bits

/-! ### Blocks (05 R115 to R122) -/

/-- The half byte at a half-byte address. -/
def readNibble (s : State) (h : Nat) : Nat := (s.byte (h / 2)).toNat / (if h % 2 = 0 then 1 else 16) % 16
def writeNibble (s : State) (h v : Nat) : State := s.putByte (h / 2) (setBits (s.byte (h / 2)) (h % 2 * 4) 4 v)

/-- Element `i` of a block whose elements start at half byte `b.elems` and lie `b.stride` half bytes apart. -/
def BlockWrite.place (b : BlockWrite) (i : Nat) : Nat := b.elems + i * b.stride
def writeElem (s : State) (four : Bool) (h v : Nat) : State :=
  if four then writeNibble s h v else s.putByte (h / 2) (BitVec.ofNat 8 v)

/-- The pair against which a block write encodes: its own choice, or the stored one (05 R117, R120). -/
def BlockWrite.pairOf (b : BlockWrite) (s : State) : Nat × Nat :=
  if b.fresh then blockPair b.four (b.writes.map (·.2))
  else ((s.byte b.pair).toNat, (s.byte (b.pair + 1)).toNat)

/-- Encode the elements in ascending order: patterns, flags, LFSR state (05 R118). -/
def blockEncodeAll (b : BlockWrite) (e0 e1 : Nat) : List (Nat × Num) → BitVec 32 → List (Nat × Nat) × Flags × BitVec 32
  | [], sd => ([], 0, sd)
  | (i, x) :: t, sd =>
    let e := blockEncode b.four b.mode b.sat e0 e1 x sd
    let (r, fl, sd') := blockEncodeAll b e0 e1 t e.seed
    ((i, e.bits) :: r, e.flags ||| fl, sd')

/-- The update of a block, elements and pair together (05 R121). -/
def blockApply (s : State) (b : BlockWrite) : State :=
  let (e0, e1) := b.pairOf s
  let (ws, _, _) := blockEncodeAll b e0 e1 b.writes b.seed
  let s1 := ws.foldl (fun st w => writeElem st b.four (b.place w.1) w.2) s
  if b.fresh then writeBytes s1 b.pair [BitVec.ofNat 8 e0, BitVec.ofNat 8 e1] else s1

/-! ### An access at its home -/

/-- An access of no window, owner, half byte or scale bytes, and no release. -/
def plainAccess (pa : Nat) (va : Word) (geom2 : Bool) (fmt : Nat) (op : AccessOp) : Access :=
  { pa := pa, va := va, geom2 := geom2, fmt := fmt, host := none, owner := none, half := false, scales := [], rel := false, op := op }

/-- A store whose slot does not wait for it. -/
def AccessOp.isStore : AccessOp → Bool
  | .load .. | .atomic _ | .push _ => false
  | _ => true

/-- One address for each 64 bytes. -/
def pieces (pa n : Nat) (r : Right) : List (Nat × Right) := (List.range ((n + 63) / 64)).map (fun i => (pa + 64 * i, r))
/-- The scale range that holds a physical address. -/
def Access.scaleAt (a : Access) (pa : Nat) : Option ScaleRange :=
  a.scales.find? (fun r => decide (r.pa ≤ pa) && decide (pa < r.pa + r.len))
/-- The placement of a pair: that of its own page. -/
def Access.pairGeom (a : Access) (pa : Nat) : Bool := ((a.scaleAt pa).map (·.geom2)).getD false

/-- The addresses whose targets an access asks, with the right it asks and the placement. -/
def Access.asks (a : Access) : List (Nat × Right × Bool) :=
  let data := fun (l : List (Nat × Right)) => l.map (fun q => (q.1, q.2, a.geom2))
  match a.op with
  | .load n pair =>
    data (pieces a.pa n .rd) ++ (match pair with | some q => [(q.1, Right.rd, a.pairGeom q.1)] | none => [])
  | .store b | .push b => data (pieces a.pa b.length .wr)
  | .atomic _ => data [(a.pa, .amo)]
  | .nibble _ _ => data [(a.pa, .wr)]
  | .block bs => bs.flatMap (fun b =>
      data (b.writes.map (fun w => (b.place w.1 / 2, Right.wr))) ++
        [(b.pair, .rd, a.pairGeom b.pair), (b.pair, .wr, a.pairGeom b.pair)])

/-- The first address whose target denies the access. -/
def State.deniedAt (s : State) (id : Ident) (a : Access) : Option Nat :=
  (a.asks.find? (fun q => !s.admits q.1 q.2.2 id q.2.1)).map (·.1)

/-- What a block update that takes its stored pair meets there (05 R120, R122; 26 R477): a poisoned line, a byte of 0xFF. -/
def blockMeets (s : State) (b : BlockWrite) : Option (Code × Option Nat) :=
  if b.fresh then none
  else
    match s.poisoned b.pair 2 with
    | some l => some (cPoison, some l)
    | none =>
      let e := b.pairOf s
      if e.1 = 0xFF ∨ e.2 = 0xFF then some (cReservedFormat, none) else none

/-- Perform an access at its home (07 R156, R157; 26 R477). -/
def performAt (s : State) (id : Ident) (a : Access) : Done :=
  match s.deniedAt id a with
  | some pa => .fail (s.countDenial pa id.part) cDeny (some pa)
  | none =>
    match a.op with
    | .load n none => targetLoad s id a.pa n a.geom2
    | .load n (some (q, m)) =>
      match targetLoad s id a.pa n a.geom2, targetLoad s id q m (a.pairGeom q) with
      | .ok s1 d, .ok _ e => .ok s1 (d ++ e)
      | .ok .., r => r
      | r, _ => r
    | .store bytes | .push bytes => targetStore s id a.pa a.geom2 bytes
    | .atomic x =>
      match targetLoad s id a.pa x.len a.geom2 with
      | .ok s1 old =>
        match atomicNew x (leVal old) with
        | none => .ok s1 old
        | some v =>
          match targetStore s1 id a.pa a.geom2 (leBytes x.len v) with
          | .ok s2 _ => .ok s2 old
          | r => r
      | r => r
    | .nibble high v => .ok (writeNibble s (2 * a.pa + (if high then 1 else 0)) v.toNat) []
    | .block bs =>
      match bs.findSome? (blockMeets s) with
      | some e => .fail s e.1 e.2
      | none => .ok (bs.foldl blockApply s) []

end Sys2Proof.Machine
end

