-- ==== Sys2Proof/Machine/Net.lean ====
section
/-! DEFINITION. Flits: sources, targets, sequence numbers, package sequences and die clocks (22 R434 to R442, 07 R163,
R164), which flit may be delivered, and the duplicate filter of its target. A store or message is acknowledged in the
step in which its target executes it (log 20); a load or atomic is kept until its answer arrives. -/

namespace Sys2Proof.Machine

/-- The classes of 22 Table 22.2. -/
def clsREQ : Nat := 0
def clsRSP : Nat := 1
def clsMSG : Nat := 2
def clsNTC : Nat := 3
def clsENG : Nat := 4
def clsCOL : Nat := 5
def clsCTL : Nat := 6
def classOrdered (c : Nat) : Bool := c == 0 || c == 2 || c == 3 || c == 5 || c == 6

/-- A source is a core number and a kind: shepherd, Lea engine, management, any other unit (22 R436). -/
def srcKey (src : Nat) (who : Ident) : Nat :=
  src * 4 + (if who.cls = 2 then 1 else if who.cls = 9 then 2 else if who.cls = 0xB then 3 else 0)

/-- A target of the duplicate filter as one number. -/
def Dest.key : Dest → Nat
  | .core n => n * 4
  | .shepherd cl => cl * 4 + 1
  | .home pa => (match targetIndex (siteOf pa false) with
    | some (p, i) => (p * 65536 + i) * 4 + 2
    | none => (pa / 2 ^ 50 * 65536 + 65535) * 4 + 2)
  | .block pa => (pa / 2 ^ 50 * 65536 + 12800) * 4 + 3
  | .ue d => (d / 4 * 65536 + 12801 + d % 4) * 4 + 3

/-- The die a destination lies on, as package × 4 + die. -/
def Dest.die : Dest → Nat
  | .core n => dieOf n
  | .shepherd cl => cl / 64
  | .home pa => homeDie pa
  | .block pa => homePkg pa * 4
  | .ue d => d
def Dest.pkg (d : Dest) : Nat := d.die / 4

def streamKey (src : Nat) (d : Dest) : Nat := src * 2 ^ 40 + d.key
def Flit.srcKey (f : Flit) : Nat := Machine.srcKey f.src f.who
def Flit.crossDie (f : Flit) : Bool := dieOf f.src / 4 == f.dst.pkg && dieOf f.src != f.dst.die
def Flit.crossPkg (f : Flit) : Bool := pkgOf f.src != f.dst.pkg

/-- An ordinary write of memory (07 R163). -/
def Msg.isWrite : Msg → Bool
  | .request a _ _ _ => a.host.isNone && (match a.op with
    | .load .. | .atomic _ => false
    | _ => true)
  | _ => false
/-- A flit that returns a result is kept until the answer arrives. -/
def Msg.returns : Msg → Bool
  | .request a _ _ _ => (match a.op with
    | .load .. | .atomic _ | .push _ => true
    | _ => false)
  | _ => false

/-- The die's clock as a flit carries it. -/
def clockOf (s : State) (d : Nat) : List Nat :=
  let x := s.die d
  (List.range 4).map (fun j => if j = d % 4 then x.writes.toNat else (x.applied.getD j 0).toNat)

/-- `a` is at or before `b`, modulo 2^16 (07 R163: at most 16,384 writes of a die are pending). -/
def clockLe (a b : Nat) : Bool := decide ((b + 65536 - a % 65536) % 65536 < 32768)

/-- Whether a source may send `n` more flits to a destination (22 R435, R440; 07 R163). -/
def State.room (s : State) (src : Nat) (who : Ident) (d : Dest) (n : Nat) : Bool :=
  let k := srcKey src who
  decide ((s.kept.filter (fun x => x.flit.srcKey == k && x.flit.dst.key == d.key)).length + n ≤ 256) &&
  (pkgOf src == d.pkg ||
    decide ((s.kept.filter (fun x => x.flit.srcKey == k && x.flit.crossPkg && x.flit.dst.pkg == d.pkg &&
      (x.flit.cls == clsREQ || x.flit.cls == clsMSG))).length + n ≤ 2048)) &&
  decide ((s.kept.filter (fun x => dieOf x.flit.src == dieOf src && x.flit.msg.isWrite)).length + n ≤ 16384)

/-- A live path between packages: a live tree port of the source's package, and one of the destination's die, whose ports are
4 × die to 4 × die + 3 (22 R432, R433). -/
def portUp (s : State) (p port : Nat) : Bool := ((s.pkg p).links.getD port Link.reset).up
def livePath (s : State) (p d : Nat) : Bool :=
  p == d / 4 || ((List.range 16).any (portUp s p) && (List.range 4).any (fun i => portUp s (d / 4) (d % 4 * 4 + i)))

/-- The 64-byte flits that a packet takes of a frame: a destination sector is four data flits with its header in the frame
overhead (25 R467), a context move a header and three data flits (22 R437). -/
def Flit.size (f : Flit) : Nat :=
  match f.msg with
  | .sector .. | .context _ | .contextBack _ => 4
  | _ => 1
/-- The frame that the transmitter is still sending takes a packet for which its four flits have room (01 R29; log 31). -/
def joinFrame (l : Link) (f : Flit) : Option Link :=
  match l.inFlight.getLast? with
  | none => none
  | some (q, fs) =>
    let put := fun (x : BitVec 32 × List Flit) => if x.1 == q then (q, fs ++ [f]) else x
    if q = l.lastSeq ∧ 0 < (q - l.delivered).toNat ∧ (q - l.delivered).toNat < 2 ^ 31 ∧ (fs.map Flit.size).sum + f.size ≤ 4 then
      some { l with replay := l.replay.map put, inFlight := l.inFlight.map put }
    else none
/-- A flit leaves its package through a live tree port that the hash picks (22 R433), in a frame of that link, or waits there
while 64 frames are unacknowledged (24 R454). With no live port it waits for one. -/
def linkPush (l : Link) (f : Flit) : Link :=
  if l.waiting ≠ [] then { l with waiting := l.waiting ++ [f] }
  else
    match joinFrame l f with
    | some m => m
    | none =>
      if l.replay.length < 64 then
        let q := l.lastSeq + 1
        { l with lastSeq := q, replay := l.replay ++ [(q, [f])], inFlight := l.inFlight ++ [(q, [f])], beat := l.beat + 16 }
      else { l with waiting := [f] }
def State.link (s : State) (p port : Nat) : Link := (s.pkg p).links.getD port Link.reset
def State.setLink (s : State) (p port : Nat) (l : Link) : State :=
  s.modPkg p (fun x => { x with links := x.links.setIfInBounds port l })
def enterLink (s : State) (f : Flit) : State :=
  let p := pkgOf f.src
  let ports := (List.range 16).filter (portUp s p)
  match ports[Config.linkHash f.src f.dst.pkg % ports.length]? with
  | none => { s with net := s.net ++ [f] }
  | some port => s.setLink p port (linkPush (s.link p port) f)

/-- Hand a flit to the fabric (22 R435, R436, R438, R440). -/
def send (s : State) (src : Nat) (who : Ident) (d : Dest) (cls : Nat) (m : Msg) : State :=
  let key := srcKey src who
  let sk := streamKey key d
  let dd := dieOf src
  let s1 := if m.isWrite then s.modDie dd (fun x => { x with writes := x.writes + 1 }) else s
  let numbered := decide (cls ≠ clsRSP ∧ cls ≠ clsENG)
  let paired := (cls == clsREQ || cls == clsMSG) && pkgOf src != d.pkg
  let seq := if numbered then smGet 0 s1.seqs sk else 0
  let pk := key * 1024 + d.pkg
  let pseq := if paired then smGet 0 s1.psent pk else 0
  let f : Flit :=
    { src := src, who := who, dst := d, cls := cls, seq := seq, pseq := pseq, sent := s.now,
      clock := clockOf s1 dd, msg := m }
  let s2 := if f.crossPkg then enterLink s1 f else { s1 with net := s1.net ++ [f] }
  { s2 with
    kept := if numbered then s1.kept ++ [{ flit := f, first := s.now, last := s.now }] else s1.kept
    seqs := if numbered then smPut s1.seqs sk (seq + 1) else s1.seqs
    psent := if paired then smPut s1.psent pk (pseq + 1) else s1.psent }

/-- Messages of a core's message unit (07 Table 7.6 class 7). -/
def unitIdent (s : State) (c : Nat) : Ident := { part := (s.core c).part, cls := 7 }
def shepherdIdent (part : BitVec 6) : Ident := { part := part, cls := 2 }
def managementIdent : Ident := { part := 63, cls := 0xB }
/-- The number with which the management core of a package sends (22 R436). -/
def managementCore (p : Nat) : Nat := p * 4096
def sendUnit (s : State) (c : Nat) (d : Dest) (cls : Nat) (m : Msg) : State := send s c (unitIdent s c) d cls m
def sendShepherd (s : State) (cl : Nat) (part : BitVec 6) (d : Dest) (cls : Nat) (m : Msg) : State :=
  send s (cl * 16) (shepherdIdent part) d cls m

/-- 50 µs: the flight time (22 R439). -/
def flightLimit : Nat := 90000
def Flit.expired (f : Flit) (now : Nat) : Bool := decide (f.sent + flightLimit ≤ now)

/-- The same flit: its source, target and SEQ. -/
def Flit.same (f g : Flit) : Bool :=
  f.srcKey == g.srcKey && f.dst.key == g.dst.key && f.cls == g.cls && f.seq == g.seq

/-- Whether the writes that a flit's die clock names have been applied at its destination die (07 R163, 22 R438): of a
request, a message and a notice, and of a response, whose data may make its reader know of writes. -/
def clockMet (s : State) (f : Flit) : Bool :=
  if !f.crossPkg && (f.cls == clsREQ || f.cls == clsRSP || f.cls == clsMSG || f.cls == clsNTC) then
    s.kept.all (fun x =>
      let g := x.flit
      !(g.msg.isWrite && g.dst.die == f.dst.die && !g.same f &&
        (let j := dieOf g.src % 4
         dieOf g.src / 4 == f.dst.pkg && clockLe (g.clock.getD j 0) (f.clock.getD j 0))))
  else true

/-- A message for a core of a gated cluster is held until the cluster has woken (03 R97). -/
def gatedFor (s : State) (f : Flit) : Bool :=
  match f.dst with
  | .core c => (s.cluster (clOf c)).gated && f.cls != clsRSP
  | _ => false

/-- A message between a core and one of a package that is not in the domain: it has no path, and is answered as one sent to a
core that does not exist (17 R346, R358; log 54). -/
def toNowhere (s : State) (f : Flit) : Bool :=
  (match f.dst with
    | .core _ => true
    | _ => false) &&
  (f.cls == clsMSG || f.cls == clsNTC) && f.crossPkg && (!(s.pkg f.dst.pkg).formed || !(s.pkg (pkgOf f.src)).formed)

/-- Whether flit `i` may be delivered now: not expired; first of its stream when its class is ordered; its package
sequence next; its die clock met; its cluster awake; a live path to it (22 R433, R434, R435, R438, R439; 03 R97). -/
def deliverable (s : State) (i : Nat) (f : Flit) : Bool :=
  !f.expired s.now && !gatedFor s f && (livePath s (pkgOf f.src) f.dst.die || toNowhere s f) &&
  (!classOrdered f.cls ||
    (s.net.take i).all (fun g => !(g.srcKey == f.srcKey && g.dst.key == f.dst.key && g.cls == f.cls))) &&
  (!((f.cls == clsREQ || f.cls == clsMSG) && f.crossPkg) ||
    (f.pseq == smGet 0 s.pdone (f.srcKey * 1024 + f.dst.pkg) ||
      s.kept.all (fun x => !x.flit.same f))) &&
  clockMet s f

/-- Take flit `i` out of the net when it may be delivered. -/
def takeFlit (s : State) (i : Nat) : Option (Flit × State) :=
  match s.net[i]? with
  | some f => if deliverable s i f then some (f, { s with net := s.net.eraseIdx i }) else none
  | none => none

/-- A source has its acknowledgement or result: it no longer keeps the flit. -/
def release (s : State) (f : Flit) : State := { s with kept := s.kept.filter (fun x => !x.flit.same f) }

/-- Count an event at a flit's target. -/
def countDest (s : State) (d : Dest) (code : Nat) (part : BitVec 6) : State :=
  match d with
  | .core c => s.countCore c code 1 (some part)
  | .shepherd cl => s.countShepherd cl code 1 (some part)
  | .home pa =>
    (match siteOf pa false with
      | .share c _ => s.countCore c code 1 (some part)
      | .mailbox cl pos _ => if pos < 16 then s.countCore (cl * 16 + pos) code 1 (some part)
        else s.countShepherd cl code 1 (some part)
      | .cblock cl _ => s.countShepherd cl code 1 (some part)
      | .hbm p st _ => s.countPort p (st / 2) code 1 (some part)
      | .pblock p _ => s.countPort p 0 code 1 (some part)
      | .hole => s)
  | .block pa => s.countPort (homePkg pa) 0 code 1 (some part)
  | .ue d => s.countPort (d / 4) 0 code 1 (some part)

/-! ### The duplicate filter (22 R441, R442) -/

inductive Verdict where
  | execute (s : State)
  /-- executed before: the saved old value of an atomic -/
  | again (old : DWord)
  | discard (s : State)
  | retry
  deriving DecidableEq, Repr, Inhabited

def Window.reset : Window := { part := 0, high := 0, entries := [], last := 0 }

/-- Windows of one target in use. -/
def windowsOf (s : State) (d : Dest) : Nat :=
  (s.windows.filter (fun w => w.1 % 2 ^ 40 == d.key && w.2.isSome)).length

/-- The window's entries that still lie in the 256 numbers ending at `high`. -/
def slide (w : Window) (high : BitVec 16) : Window :=
  { w with high := high, entries := w.entries.filter (fun e => decide ((high - BitVec.ofNat 16 e.1).toNat < 256)) }

/-- What the target does with an arriving flit, and the state with its window brought up to date. -/
def filterFlit (s : State) (f : Flit) : Verdict :=
  let key := streamKey f.srcKey f.dst
  match smGet none s.windows key with
  | none =>
    if 1024 ≤ windowsOf s f.dst then .retry
    else
      let w : Window := { part := f.who.part, high := f.seq, entries := [], last := s.now }
      .execute { s with windows := smPut s.windows key (some w) }
  | some w =>
    let ahead := (f.seq - w.high).toNat
    if 0 < ahead ∧ ahead < 32768 then
      .execute { s with windows := smPut s.windows key (some { slide w f.seq with last := s.now }) }
    else if (w.high - f.seq).toNat < 256 then
      match smGet none w.entries f.seq.toNat with
      | some old => .again old
      | none => .execute { s with windows := smPut s.windows key (some { w with last := s.now }) }
    else .discard (countDest s f.dst 0x33 f.who.part)

/-- Mark a flit's entry done; a load is not retained. -/
def markDone (s : State) (f : Flit) (old : DWord) : State :=
  let key := streamKey f.srcKey f.dst
  match smGet none s.windows key with
  | some w =>
    let w' := { w with entries := smPut w.entries f.seq.toNat (some old) }
    { s with windows := smPut s.windows key (some w') }
  | none => s

/-- The package sequence and the die clock after a delivery (22 R435, 07 R163). -/
def noteDelivery (s : State) (f : Flit) : State :=
  let s1 :=
    if (f.cls == clsREQ || f.cls == clsMSG) && f.crossPkg && f.pseq == smGet 0 s.pdone (f.srcKey * 1024 + f.dst.pkg)
    then { s with pdone := smPut s.pdone (f.srcKey * 1024 + f.dst.pkg) (f.pseq + 1) } else s
  if f.crossDie && f.clock.length == 4 then
    let merge := fun (j : Nat) (old : BitVec 16) =>
      if clockLe old.toNat (f.clock.getD j 0) then BitVec.ofNat 16 (f.clock.getD j 0) else old
    s1.modDie f.dst.die (fun x => { x with applied := x.applied.mapFinIdx (fun j old _ => merge j old) })
  else s1

/-- A partition whose rights a teardown or fencing has revoked in a package (22 R446). -/
def revoked (s : State) (p : Nat) (part : BitVec 6) : Bool :=
  match s.partCfg p part with
  | some c => c.stoppedAt.isSome
  | none => false

/-- A flit that carries such a partition, of the package it comes from or goes to. -/
def revokedFlit (s : State) (f : Flit) : Bool :=
  revoked s f.dst.pkg f.who.part || revoked s (pkgOf f.src) f.who.part
/-- A core's message unit speaks for a stopped partition through the management agent's identity (DEDUCED, log 27). -/
def noticeIdent (s : State) (c : Nat) : Ident :=
  if revoked s (pkgOf c) (s.core c).part then managementIdent else unitIdent s c

/-- Deliver flit `i` to its target: the flit itself, through the duplicate filter; `act` is what the target does with it.
A flit that may not be delivered, or for which `act` is not ready (`none`: it waits at the ingress), leaves the state as
it is. -/
def deliver (s : State) (i : Nat) (act : State → Flit → Option State) : State :=
  match takeFlit s i with
  | none => s
  | some (f, s1) =>
    if revokedFlit s f then
      countDest (release (noteDelivery s1 f) f) f.dst 0x34 f.who.part
    else
      match filterFlit s1 f with
      | .execute s2 =>
        match act (noteDelivery s2 f) f with
        | some s3 => release (markDone s3 f 0) f
        | none => s
      | .again _ => release (noteDelivery s1 f) f
      | .discard s2 => noteDelivery s2 f
      | .retry => send (countDest s1 f.dst 0x35 f.who.part) f.src f.who (.core f.src) clsRSP (.retry f.dst.key f.seq.toNat)

end Sys2Proof.Machine
end

