-- ==== Sys2Proof/Machine/Records.lean ====
section
/-! DEFINITION. What the device itself reads and writes in memory: fault records (09 R191, R192), shepherd event records
(03 R99), level records (02 R72, R73, R76), task records (03 R98, 17 R360), and the queues of a pipeline's stages (03 R88
to R91). -/

namespace Sys2Proof.Machine

/-! ### Virtual addresses of a partition -/

/-- The device's own translation of an address for a partition: its physical address, or the cause. -/
def devPa (s : State) (p : Nat) (part : BitVec 6) (va : Word) (write : Bool) : Except Code Nat :=
  match s.walk p part va with
  | .absent _ => .error cNotPresent
  | .denied _ => .error cDeny
  | .leaf x =>
    if x.w && x.x then .error cPermission
    else if (if write then x.w else x.r) then
      if x.poison then .error cPoison
      else if (siteOf (x.pa va) x.geom2).isMemory then .ok (x.pa va) else .error cDeny
    else .error cPermission

/-- 8 bytes of a partition's memory. -/
def devRead (s : State) (p : Nat) (part : BitVec 6) (va : Word) : Except Code DWord :=
  match devPa s p part va false with
  | .error c => .error c
  | .ok pa => if (s.poisoned pa 8).isSome then .error cPoison else .ok (readD s pa)

def devWrite (s : State) (p : Nat) (part : BitVec 6) (va : Word) (bytes : List Byte) : Except Code State :=
  match devPa s p part va true with
  | .error c => .error c
  | .ok pa => .ok (clearPoison (writeBytes s pa bytes) pa bytes.length)

/-! ### Fault records (09 R191, R192) -/

structure FaultRec where
  cause : Code
  core : Nat
  part : BitVec 6
  src : Nat
  strand : Nat := 0
  va : Word := 0
  cause2 : Code := 0
  level : DWord := 0
  seq : BitVec 32 := 0
  units : Nat := 0
  sectors : List Nat := []

def FaultRec.bytes (r : FaultRec) : List Byte :=
  leBytes 8 (r.cause.toNat * 2 ^ 58 + r.core % 2 ^ 22 * 2 ^ 36 + r.part.toNat * 2 ^ 30 + r.src * 2 ^ 26 +
    r.strand % 32 * 2 ^ 16 + bits r.va 64 8 * 2 ^ 8 + r.cause2.toNat * 4) ++
  leBytes 8 (bits r.va 0 64) ++ leBytes 8 r.level.toNat ++
  leBytes 8 (r.seq.toNat * 2 ^ 32 + r.units % 2 ^ 26) ++
  leBytes 32 (r.sectors.foldl (fun a i => a + 2 ^ (i % 256)) 0)

/-- Post a fault record in a partition's queue in package `p`: the record, then PROD, then the one-way message to FQMBOX;
a full queue counts OVF. A queue that does not translate loses the record (log 21). -/
def postFault (s : State) (p : Nat) (r : FaultRec) : State :=
  match s.partCfg p r.part with
  | none => s
  | some c =>
    let hdr := space0 c.fqbase
    match devPa s p r.part hdr true with
    | .error _ => s
    | .ok h =>
      let prod := readU s h 4
      let cons := readU s (h + 8) 4
      if (prod + 2 ^ 32 - cons) % 2 ^ 32 = c.fqcap then writeU s (h + 16) 4 (readU s (h + 16) 4 + 1)
      else
        match devWrite s p r.part (hdr + BitVec.ofNat 72 (64 + 64 * (prod % c.fqcap))) r.bytes with
        | .error _ => s
        | .ok s1 =>
          let s2 := writeU s1 h 4 (prod + 1)
          if c.fqmbox = 0 then s2
          else
            match devPa s2 p r.part (space0 c.fqmbox) false, s2.walk p r.part (space0 c.fqmbox) with
            | _, .leaf x =>
              let pa := x.pa (space0 c.fqmbox)
              (match siteOf pa false with
                | .mailbox cl pos _ =>
                  let d : Dest := if pos < 16 then .core (cl * 16 + pos) else .shepherd cl
                  send s2 r.core { part := r.part, cls := 7 } d clsMSG
                    (.mailbox pa [BitVec.ofNat 64 ((prod + 1) % 2 ^ 32), 0, 0, 0] (BitVec.ofNat 72 r.core))
                | _ => s2)
            | _, _ => s2

/-- Count the delivery of a cause at a core (26 Table 26.3). -/
def countDelivery (s : State) (c : Nat) (cause : Code) (part : BitVec 6) : State :=
  s.countCore c (0x100 + cause.toNat) 1 (some part)

/-! ### Level records (02 Table 2.5) -/

def lvKind (w : DWord) : Nat := bits w 61 3
def lvState (w : DWord) : Nat := bits w 59 2
def lvPhase (w : DWord) : BitVec 16 := w.extractLsb' 32 16
def lvOut (w : DWord) : Nat := bits w 0 32
def lvIsLevel (w : DWord) : Bool := decide (1 ≤ lvKind w) && decide (lvKind w ≤ 4)
def lvRunning (w : DWord) : Bool := lvIsLevel w && lvState w == 0

/-- The cluster that keeps what its shepherd knows of a level beside the record. -/
def levelCl (pa : Nat) : Nat :=
  match siteOf pa false with
  | .share c _ => clOf c
  | _ => homePkg pa * 256

/-- Its level's cluster keeps who cancelled a level, in place of who cancelled one at the same address before. -/
def setCanceller (s : State) (pa core : Nat) : State :=
  s.modCluster (levelCl pa) (fun c => { c with cancelled := c.cancelled.filter (fun x => x.1 != pa) ++ [(pa, core)] })
/-- A new level at an address has been cancelled by nobody. -/
def clearCanceller (s : State) (pa : Nat) : State :=
  s.modCluster (levelCl pa) (fun c => { c with cancelled := c.cancelled.filter (fun x => x.1 != pa) })
/-- The core that cancelled a level. -/
def canceller (s : State) (pa : Nat) : Nat :=
  match (s.cluster (levelCl pa)).cancelled.find? (fun x => x.1 == pa) with
  | some x => x.2
  | none => 0

/-- The core whose CANCEL holds for a level, at it or above it (02 R74); `n` bounds the levels walked. -/
def cancelledBy (s : State) (p : Nat) (part : BitVec 6) (level : DWord) : Nat → Option Nat
  | 0 => none
  | n + 1 =>
    if level = 0 then none
    else
      match devPa s p part (space0 level) false with
      | .error _ => none
      | .ok pa =>
        let w := readD s pa
        if lvIsLevel w && lvState w == 1 then some (canceller s pa) else cancelledBy s p part (readD s (pa + 8)) n
/-- More levels than any chain of parents that a program nests. -/
def levelDepth : Nat := 4096
def levelCancelled (s : State) (p : Nat) (part : BitVec 6) (level : DWord) : Bool :=
  (cancelledBy s p part level levelDepth).isSome

/-- The cluster whose shepherd manages the level of a record: that of its launch (02 R76). -/
def managerOf (s : State) (pa : Nat) : Nat :=
  let has := fun (q : Nat × Cluster) => q.2.launches.any (fun l => match l.2 with
    | some x => (match devPa s (q.1 / 256) x.part (space0 x.level) false with
      | .ok lp => lp == pa
      | .error _ => false)
    | none => false)
  match s.clusters.find? has with
  | some q => q.1
  | none => levelCl pa

/-- An event record (03 Table 3.4). -/
def eventRecord (source core : Nat) (word task : DWord) (dec : Nat) : List Byte :=
  leBytes 8 (source % 16 * 2 ^ 60 + core % 2 ^ 22 * 2 ^ 38) ++ leBytes 8 word.toNat ++ leBytes 8 task.toNat ++
  leBytes 8 (dec % 65536)
/-- Where record `i` of a shepherd's event queue lies: 512 records of 32 bytes, used in rotation (07 Table 7.5). -/
def eventPa (cl i : Nat) : Nat := sharePa (cl * 16) (0xF0000 + 32 * (i % 512))
/-- The queue has room, and nothing waits for it. -/
def eventRoom (s : State) (cl : Nat) : Bool := decide ((s.cluster cl).evCount < 512) && (s.cluster cl).ingress.isEmpty
def putEvent (s : State) (cl : Nat) (r : List Byte) : State :=
  (writeBytes s (eventPa cl ((s.cluster cl).evHead + (s.cluster cl).evCount)) r).modCluster cl (fun x =>
    { x with evCount := x.evCount + 1 })
/-- Post an event record to a cluster's shepherd; one that finds the queue full waits at the ingress, in the same order. -/
def postEvent (s : State) (cl : Nat) (r : List Byte) : State :=
  if eventRoom s cl then putEvent s cl r else s.modCluster cl (fun x => { x with ingress := x.ingress ++ [r] })
/-- The oldest record. -/
def headEvent (s : State) (cl : Nat) : Option (List Byte) :=
  if (s.cluster cl).evCount = 0 then none else some (readBytes s (eventPa cl (s.cluster cl).evHead) 32)
/-- The oldest record leaves, and the first that waits takes its room. -/
def popEvent (s : State) (cl : Nat) : State :=
  let s1 := s.modCluster cl (fun x => { x with evHead := (x.evHead + 1) % 512, evCount := x.evCount - 1 })
  match (s1.cluster cl).ingress with
  | [] => s1
  | r :: t => putEvent (s1.modCluster cl (fun x => { x with ingress := t })) cl r

/-- The status words of an answer as a notice carries them (02 Table 2.3). -/
def ansPending : AnswerState := { state := 1, cause := 0, origin := 0, len := 0, body := [] }
def ansValue (body : List Byte) : AnswerState :=
  { state := 2, cause := 0, origin := 0, len := BitVec.ofNat 6 body.length, body := body }
def ansObject (h : DWord) : AnswerState := { state := 3, cause := 0, origin := 0, len := 8, body := leBytes 8 h.toNat }
def ansBroken (cause : Code) (origin : Nat) : AnswerState :=
  { state := 4, cause := cause, origin := BitVec.ofNat 22 origin, len := 0, body := [] }
def AnswerState.pending (a : AnswerState) : Bool := a.state == 1
def AnswerState.broken (a : AnswerState) : Bool := a.state == 4

/-! ### Handles (02 Table 2.2) -/

def hKind (h : DWord) : Nat := bits h 62 2
def hIsAnswer (h : DWord) : Bool := hKind h == 1
def hIsObject (h : DWord) : Bool := hKind h == 0 && h != 0
def hOwner (h : DWord) : Nat := bits h 40 22
def hIndex (h : DWord) : Nat := bits h 12 28
def hClass (h : DWord) : Nat := bits h 0 12
def hCompute (h : DWord) : Nat := bits h 40 22
def hHome (h : DWord) : Nat := bits h 18 22
def hSlot (h : DWord) : Nat := bits h 6 12
def hGen (h : DWord) : BitVec 6 := h.extractLsb' 0 6
def answerHandle (compute home slot : Nat) (gen : BitVec 6) : DWord :=
  BitVec.ofNat 64 (2 ^ 62 + compute % 2 ^ 22 * 2 ^ 40 + home % 2 ^ 22 * 2 ^ 18 + slot % 4096 * 64 + gen.toNat)
def objectHandle (owner index cls : Nat) : DWord :=
  BitVec.ofNat 64 (owner % 2 ^ 22 * 2 ^ 40 + index % 2 ^ 28 * 2 ^ 12 + cls % 4096)

/-- Send a resolution or break of an answer to its HOME and to its COMPUTE core, one notice when they are the same core
(17 R348, R349). `dflt` marks the default notice of END (17 R350). -/
def sendNotice (s : State) (src : Nat) (who : Ident) (ans : DWord) (st : AnswerState) (dflt : Bool) : State :=
  let m : Msg := if st.broken then .broken ans st dflt else .resolution ans st dflt
  let s1 := send s src who (.core (hHome ans)) clsNTC m
  if hCompute ans = hHome ans then s1 else send s1 src who (.core (hCompute ans)) clsNTC m

/-! ### Routine queues (02 R65, R67; 03 R103) -/

/-- The strand start that a message or release makes, with nothing particular. -/
def Start.plain (now : Nat) : Start :=
  { pc := none, prio := none, ctx := none, s8 := 0, s9 := 0, s10 := 0, s11 := 0, s12 := 0, s13 := 0, role := .plain, target := 0, receiver := [],
    taskRec := none, waitedFor := [], part := 0, arrival := now, back := false }

/-- The clusters of a partition, and the entries of 64 bytes that its save area, beyond its save records, gives the spill queue of
each of its cores (DESIGN CHOICE, log 28). -/
def PartCfg.cores (cfg : PartCfg) : Nat := 16 * (cfg.clu.toList.map ones).sum
def PartCfg.spillCap (cfg : PartCfg) : Nat := (cfg.savesize.toNat - 65536 * cfg.cores) / (64 * cfg.cores)
def spillCap (s : State) (c : Nat) : Nat := ((s.cfg c).map PartCfg.spillCap).getD 0
/-- A core that diverts messages has no room in its spill queue: ingress to it waits (03 R103). -/
def spillFull (s : State) (c : Nat) : Bool :=
  (s.core c).halt != .none && (s.core c).halt != .stopped && decide (spillCap s c ≤ (s.core c).diverted.length)
/-- Cores of a partition below core `c`: the rank of its save area. -/
def PartCfg.rank (cfg : PartCfg) (c : Nat) : Nat :=
  let d := dieOf c % 4
  let cl := clOf c % 64
  let before := fun (i : Nat) => if i < d then ones (cfg.clu.getD i 0)
    else if i = d then ones ((cfg.clu.getD i 0).extractLsb' 0 cl) else 0
  ((List.range 4).map before).sum * 16 + c % 16
/-- The address of entry `i` of a core's spill queue, none beyond its end. -/
def spillVa (s : State) (c i : Nat) : Option Word :=
  (s.cfg c).bind (fun cfg =>
    if i < cfg.spillCap then
      some (space0 (cfg.savebase + BitVec.ofNat 64 (65536 * cfg.cores + 64 * (cfg.spillCap * cfg.rank c + i))))
    else none)
/-- A message joins the spill queue; the bytes of its entry, whose layout the manual does not give, are free. -/
def divert (s : State) (c : Nat) (d : Diverted) : State :=
  let s1 := match spillVa s c (s.core c).diverted.length with
    | some va => (devWrite s (pkgOf c) (s.core c).part va ((List.range 64).map (Config.spillByte s.tick))).toOption.getD s
    | none => s
  s1.modCore c (fun co => { co with diverted := co.diverted ++ [d] })
/-- A start joins a slot's queue; on a pre-empted or parked core it joins the spill queue, and a core that a teardown has
stopped discards it. -/
def queueAt (s : State) (c slot : Nat) (st : Start) : State :=
  match (s.core c).halt with
  | .none =>
    s.modCore c (fun co =>
      let r := smGet Routine.reset co.routines slot
      { co with routines := smPut co.routines slot { r with queue := r.queue ++ [st] } })
  | .stopped => s
  | _ => divert s c (.start slot st)
def queueStart (s : State) (c : Nat) (slot : BitVec 5) (st : Start) : State := queueAt s c slot.toNat st
/-- The starts that a spill queue holds. -/
def Diverted.start? : Diverted → Option Start
  | .start _ q => some q
  | .mail .. => none
def Core.divertedStarts (co : Core) : List Start := co.diverted.filterMap Diverted.start?

/-! ### Task records (03 Table 3.3, 17 R360) -/

/-- Record `i` of a cluster's task area. -/
def taskPa (cl i : Nat) : Nat := sharePa (cl * 16) (0xF4000 + 64 * i)
/-- The cluster whose task area holds a record. -/
def taskCluster (pa : Nat) : Option Nat :=
  match siteOf pa false with
  | .share c ofs => if c % 16 = 0 ∧ 0xF4000 ≤ ofs ∧ ofs % 64 = 0 then some (clOf c) else none
  | _ => none
/-- A record is free when STATE is 10, and so is one that nothing has been written to since reset (log 22). -/
def taskFree (s : State) (pa : Nat) : Bool :=
  let w := readD s pa
  bits w 62 2 == 2 || (w == 0 && (readD s (pa + 8) == 0) && readD s (pa + 0x30) == 0)
/-- The lowest free record of a cluster. -/
def freeTask (s : State) (cl : Nat) : Option Nat :=
  ((List.range 768).find? (fun i => taskFree s (taskPa cl i))).map (taskPa cl)
def setTaskState (s : State) (pa st : Nat) : State := writeD s pa (setBits (readD s pa) 62 2 st)
/-- A record that becomes free, its CREATOR and COUNT zero (DESIGN CHOICE, log 22). -/
def freeTaskRecord (s : State) (pa : Nat) : State := writeD s pa (setBits 0 62 2 2)

/-- A continuation is queued on its core (17 R352, R367). -/
def queueContinuation (s : State) (c task : Nat) (pc : Word) (slot : BitVec 5) (s8 s9 s10 : Word) (h : DWord) : State :=
  queueStart s c slot
    { Start.plain s.now with
      pc := some pc, s8 := s8, s9 := s9, s10 := s10, s13 := BitVec.ofNat 72 c, taskRec := some task, waitedFor := [h],
      part := (s.core c).part }

/-! ### Children of levels (02 R73, R76) -/

/-- Continuations registered on a phase complete with DONE (02 R75). -/
def phaseDone (s : State) (pa : Nat) (phase : BitVec 16) : State :=
  let cl := levelCl pa
  let ws := (s.cluster cl).phaseWait
  let s1 := s.modCluster cl (fun x =>
    { x with phaseWait := x.phaseWait.filter (fun w => !(w.1 == pa && w.2.1 == phase)) })
  (ws.filter (fun w => w.1 == pa && w.2.1 == phase)).foldl (fun st w =>
    queueContinuation st w.2.2.core w.2.2.task w.2.2.pc w.2.2.slot (zext72 w.2.2.token) 1 0 0) s1

/-- A level becomes done: its answer, and its parent's decrement as an event record with SOURCE 7 (02 R73, R76). Its WORD of 1
tells it, in the model, from a record that TDEC has posted. -/
def levelDone (s : State) (p : Nat) (part : BitVec 6) (pa : Nat) (w : DWord) : State :=
  let cl := levelCl pa
  let s1 := writeD s pa (setBits w 59 2 2)
  let ans := readD s (pa + 16)
  let st := if lvState w = 0 then ansValue [] else ansBroken cCancelled (canceller s pa)
  let s2 := if hIsAnswer ans then sendNotice s1 (cl * 16) (shepherdIdent part) ans st false else s1
  let parent := readD s (pa + 8)
  if parent = 0 then s2
  else
    match devPa s2 p part (space0 parent) true with
    | .error _ => s2
    | .ok ppa => postEvent s2 (managerOf s2 ppa) (eventRecord 7 (cl * 16) 1 (BitVec.ofNat 64 ppa) 1)

/-- `n` children of a level finish; the excess over OUTSTANDING, which is 0 once the level is done, is counted (02 R73, R76; 17
R362). -/
def finishChildren (s : State) (p : Nat) (part : BitVec 6) (pa n : Nat) : State :=
  let w := readD s pa
  if !lvIsLevel w then s
  else if lvState w == 2 then s.countShepherd (levelCl pa) 0x21 1 (some part)
  else
    let out := lvOut w
    let s0 := if out < n then s.countShepherd (levelCl pa) 0x21 1 (some part) else s
    let w1 := setBits w 0 32 (out - n)
    if n < out then writeD s0 pa w1
    else
      let lastph : BitVec 16 := (readD s (pa + 24)).extractLsb' 0 16
      let s1 := if lvKind w = 3 then phaseDone s0 pa (lvPhase w) else s0
      let w2 := if lvKind w = 3 then setBits w1 32 16 ((lvPhase w).toNat + 1) else w1
      if lvKind w = 3 ∧ lvState w = 0 ∧ lvPhase w ≠ lastph then writeD s1 pa (setBits w2 0 32 1)
      else levelDone s1 p part pa w2

/-- A child of the level at an address of partition space 0x00 finishes. -/
def finishLevelVa (s : State) (p : Nat) (part : BitVec 6) (level : DWord) (n : Nat) : State :=
  if level = 0 then s
  else
    match devPa s p part (space0 level) true with
    | .error _ => s
    | .ok pa => finishChildren s p part pa n

/-! ### Stage queues (03 R88 to R91) -/

def stageSlotBytes (st : Stage) : Nat := st.slotsz

/-- Output slots become claimable in reservation order. -/
def stageAdvance (now : Nat) (st : Stage) : Nat → Stage
  | 0 => st
  | n + 1 =>
    match st.early.find? (fun e => e.1 == st.published) with
    | none => st
    | some (_, ok) =>
      stageAdvance now
        { st with
          published := st.published + 1, early := st.early.filter (fun e => e.1 != st.published)
          stamps := if ok then smPut st.stamps st.published now else st.stamps
          skipped := if ok then st.skipped else st.skipped ++ [st.published] } n
/-- A reserved slot is published (`ok`) or skipped. -/
def stageFinish (now : Nat) (st : Stage) (slot : Nat) (ok : Bool) : Stage :=
  stageAdvance now { st with early := st.early ++ [(slot, ok)] } (st.early.length + 1)
def stageFreeAdvance (st : Stage) : Nat → Stage
  | 0 => st
  | n + 1 =>
    if st.earlyFree.contains st.freed then
      stageFreeAdvance { st with freed := st.freed + 1, earlyFree := st.earlyFree.filter (· != st.freed) } n
    else st
/-- A claimed slot is freed. -/
def stageFree (st : Stage) (slot : Nat) : Stage :=
  stageFreeAdvance { st with earlyFree := st.earlyFree ++ [slot] } (st.earlyFree.length + 1)
/-- Skipped slots at the claim point are passed over and freed. -/
def stageSkip (st : Stage) : Nat → Stage
  | 0 => st
  | n + 1 =>
    if st.skipped.contains st.claimed then
      stageSkip (stageFree { st with claimed := st.claimed + 1, skipped := st.skipped.filter (· != st.claimed) } st.claimed) n
    else st
def stageSettle (st : Stage) : Stage := stageSkip st st.skipped.length

def State.launch (s : State) (cl n : Nat) : Option Launch := smGet none (s.cluster cl).launches n
def State.setLaunch (s : State) (cl n : Nat) (l : Launch) : State :=
  s.modCluster cl (fun x => { x with launches := smPut x.launches n (some l) })
def Launch.modStage (l : Launch) (i : Nat) (f : Stage → Stage) : Launch :=
  { l with stages := l.stages.mapIdx (fun j st => if j = i then f st else st) }

/-- A slot that is unbound keeps what waits in its queue (03 R94). -/
def Routine.unbound (r : Routine) : Routine := { r with handler := 0, prio := 0, conc := false, nextHi := 0, stage := none }
def unbindInstance (s : State) (e : Nat × Nat × Nat × Bool) : State :=
  s.modCore e.1 (fun co => { co with routines := smPut co.routines e.2.1 (smGet Routine.reset co.routines e.2.1).unbound })

/-- A stage strand ends (03 R91, R92): its input slot is freed, its output slot published, or skipped when s9 is zero, the
strand was ended by its trap handler, or the pipeline's level is cancelling. An instance chosen for removal is unbound. -/
def finishStage (s : State) (cl n i inst inSlot : Nat) (outSlot : Option Nat) (publish : Bool) : State :=
  match s.launch cl n with
  | none => s
  | some l =>
    let l1 := l.modStage i (fun st => stageSettle (stageFree st inSlot))
    let cancelling := match devPa s (cl / 256) l.part (space0 l.level) false with
      | .ok pa => lvState (readD s pa) == 1
      | .error _ => false
    let l2 := match outSlot with
      | some o => l1.modStage (i + 1) (fun st => stageSettle (stageFinish s.now st o (publish && !cancelling)))
      | none => l1
    let gone := ((l2.stages[i]?).map (fun st => st.instances.filter (fun e => e.2.2.1 == inst && e.2.2.2))).getD []
    let l3 := l2.modStage i (fun st =>
      { st with instances := st.instances.filter (fun e => !(e.2.2.1 == inst && e.2.2.2)) })
    gone.foldl unbindInstance (s.setLaunch cl n l3)

/-- The level a strand counts in, as fault records carry it (09 Table 9.5). -/
def roleLevel (s : State) : Role → DWord
  | .plain => 0
  | .unit cl n => ((s.launch cl n).map (·.level)).getD 0
  | .stage cl n _ _ _ _ => ((s.launch cl n).map (·.level)).getD 0
  | .task _ level => level

/-- What the end of a strand counts in (02 R73; 03 R87, R91, R101). -/
def finishRole (s : State) (c : Nat) (x : Strand) (byHandler : Bool) : State :=
  match x.role with
  | .plain => s
  | .unit cl n =>
    (match s.launch cl n with
      | some l => finishLevelVa s (cl / 256) l.part l.level 1
      | none => s)
  | .stage cl n i inst inSlot outSlot => finishStage s cl n i inst inSlot outSlot (!byHandler && x.s[9] != 0)
  | .task _ level => finishLevelVa s (pkgOf c) (s.core c).part level 1

end Sys2Proof.Machine
end

