-- ==== Sys2Proof/Machine/Answers.lean ====
section
/-! DEFINITION. Sward slots (02 R42 to R45), the pipelined-invocation buffer (02 R48 to R56, R503), the tests that an
invocation meets where it is to run (02 R52), handle arguments (02 R53, R54, R59), and the effect of a resolution, break or
retire notice (02 R44, R48, R58; 17 R351 to R354). -/

namespace Sys2Proof.Machine

/-! ### Sward slots -/

def slotStatusPa (c j : Nat) : Nat := sharePa c (0x20000 + 8 * j)
def slotBodyPa (c j : Nat) : Nat := sharePa c (32 * j)

/-- A status word (02 Table 2.3). -/
def statusWord (gen : BitVec 6) (st : AnswerState) : DWord :=
  BitVec.ofNat 64 (gen.toNat * 2 ^ 58 + st.state.toNat * 2 ^ 55 + st.cause.toNat * 2 ^ 49 + st.origin.toNat * 2 ^ 27 +
    st.len.toNat * 2 ^ 21)
def slotGen (s : State) (c j : Nat) : BitVec 6 := (readD s (slotStatusPa c j)).extractLsb' 58 6
/-- What a slot holds. -/
def slotState (s : State) (c j : Nat) : AnswerState :=
  let w := readD s (slotStatusPa c j)
  let len : BitVec 6 := w.extractLsb' 21 6
  { state := w.extractLsb' 55 3, cause := w.extractLsb' 49 6, origin := w.extractLsb' 27 22, len := len,
    body := readBytes s (slotBodyPa c j) len.toNat }
def setSlot (s : State) (c j : Nat) (gen : BitVec 6) (st : AnswerState) : State :=
  writeD (writeBytes s (slotBodyPa c j) st.body) (slotStatusPa c j) (statusWord gen st)
def ansFree : AnswerState := { state := 0, cause := 0, origin := 0, len := 0, body := [] }
/-- The lowest free slot (02 R43). -/
def freeSlot (s : State) (c : Nat) : Option Nat := (List.range 4096).find? (fun j => (slotState s c j).state == 0)
/-- Take a slot for an answer that `compute` will compute (17 R345). -/
def takeSlot (s : State) (c compute : Nat) : Option (DWord × State) :=
  match freeSlot s c with
  | none => none
  | some j =>
    let gen := slotGen s c j
    some (answerHandle compute c j gen, setSlot s c j gen ansPending)

/-! ### The buffer -/

/-- The entries that the buffer and its spill area hold; a task that waits takes none (02 R56; 07 R155). -/
def pibCount (co : Core) : Nat :=
  (co.pib.filter (fun e => match e with
    | .cont .. | .args .. => false
    | _ => true)).length
def pibFree (co : Core) : Nat := Config.pibEntries - pibCount co
/-- An entry joins the buffer; beyond 256 it is spilled to the next 64 bytes of the spill area (02 R48; 07 Table 7.5). -/
def addPib (s : State) (c : Nat) (e : PibEntry) : State :=
  let n := pibCount (s.core c)
  let s1 := s.modCore c (fun co => { co with pib := co.pib ++ [e] })
  if n < Config.pibBuffer then s1
  else writeBytes s1 (sharePa c (0x38000 + 64 * (n - Config.pibBuffer))) ((List.range 64).map (Config.spillByte s.tick))

/-- The state of an answer in a core's buffer. -/
def pibState (co : Core) (h : DWord) : Option AnswerState :=
  co.pib.findSome? (fun e => match e with
    | .res a st => if a = h then some st else none
    | .known a st => if a = h then some st else none
    | _ => none)
def pibHasRes (co : Core) (h : DWord) : Bool :=
  co.pib.any (fun e => match e with
    | .res a _ => a == h
    | _ => false)
def pibRetired (co : Core) (h : DWord) : Bool :=
  co.pib.any (fun e => match e with
    | .retired a _ => a == h
    | _ => false)

/-- The state of an answer known at a core (17 R351). -/
def knownState (s : State) (c : Nat) (h : DWord) : AnswerState :=
  if hHome h = c then slotState s c (hSlot h)
  else (pibState (s.core c) h).getD ansPending

/-- Whether a task or continuation of `h` waits at the core or has been started for it and lives (17 R351). -/
def usesAnswer (co : Core) (h : DWord) : Bool :=
  co.pib.any (fun e => match e with
    | .cont a _ _ _ _ => a == h
    | .args _ _ _ _ need known => need.contains h || known.any (fun k => k.1 == h)
    | _ => false) ||
  co.routines.any (fun r => r.2.queue.any (fun q => q.waitedFor.contains h)) ||
  co.divertedStarts.any (fun d => d.waitedFor.contains h) ||
  (liveStrands co).any (fun x => x.2.waitedFor.contains h)
/-- Free the entries that the core kept for tasks and continuations, once nothing uses them. -/
def dropKnown (s : State) (c : Nat) : State :=
  s.modCore c (fun co =>
    { co with pib := co.pib.filter (fun e => match e with
        | .known a _ => usesAnswer co a
        | _ => true) })
/-- A core's first registration for `h` takes an entry (17 R351); none when no entry is free. -/
def ensureKnown (s : State) (c : Nat) (h : DWord) : Option State :=
  let co := s.core c
  if hHome h = c || (pibState co h).isSome then some s
  else if pibFree co = 0 then none
  else some (addPib s c (.known h ansPending))

/-- What a registration at core `c` finds (17 R352; 18 R381): a retired mark, and a slot that has been freed or taken anew,
are stale. -/
def registeredState (s : State) (c : Nat) (h : DWord) : AnswerState :=
  if pibRetired (s.core c) h then ansBroken cHandleStale c
  else if hHome h = c ∧ (slotGen s c (hSlot h) ≠ hGen h ∨ (slotState s c (hSlot h)).state = 0) then ansBroken cHandleStale c
  else knownState s c h

/-! ### Method lookup and receiver (02 R37, R39; 17 R355; 18 R379, R380) -/

/-- An object directory entry's address in core `c`'s directory. -/
def dirVa (cfg : PartCfg) (c index : Nat) : Word :=
  space0 (cfg.dirbase + BitVec.ofNat 64 (32 * cfg.dircap * (c % 4096) + 32 * index))

/-- A read of a core's message unit, which its target's access table must admit (02 R39; 07 R156). -/
def unitRead (s : State) (c : Nat) (va : Word) : Except Code DWord :=
  let p := pkgOf c
  let part := (s.core c).part
  match s.walk p part va with
  | .absent _ => .error cNotPresent
  | .denied _ => .error cDeny
  | .leaf x =>
    if s.unitAdmits c (x.pa va) x.geom2 part .rd then devRead s p part va else .error cDeny

/-- The entry's base, its third word, and that it could be read. -/
def dirEntry (s : State) (c index : Nat) : Except Code (Word × DWord) :=
  match s.cfg c with
  | none => .error cNotPresent
  | some cfg =>
    let va := dirVa cfg c index
    match unitRead s c va, unitRead s c (va + 8), unitRead s c (va + 16) with
    | .ok a, .ok b, .ok w => .ok (a.setWidth 72 ||| ((b.setWidth 72 : Word) <<< 64), w)
    | .error e, _, _ | _, .error e, _ | _, _, .error e => .error e
/-- Valid: allocated with the handle's tag, within DIRCAP (02 R41). -/
def objectValid (s : State) (h : DWord) : Bool :=
  let c := hOwner h
  match s.cfg c with
  | none => false
  | some cfg =>
    decide (1 ≤ hIndex h) && decide (hIndex h < cfg.dircap) &&
    (match dirEntry s c (hIndex h) with
      | .ok (_, w) => bit w 63 && bits w 40 12 == hClass h
      | .error _ => false)

/-- The descriptor of method `m` of class `cls`, or none where it is not invocable. That one with HANDLER 0 is no descriptor and
one with PRIO 3 is not invocable is the model's choice (DESIGN CHOICE, log 41). -/
def methodDesc (s : State) (c cls m : Nat) : Option MethodDesc :=
  match s.cfg c with
  | none => none
  | some cfg =>
    let rd := unitRead s c
    let e := space0 (cfg.ctbase + BitVec.ofNat 64 (16 * cls))
    match rd e, rd (e + 8) with
    | .ok arr, .ok n =>
      if bits n 0 9 ≤ m then none
      else
        let d := space0 (arr + BitVec.ofNat 64 (16 * m))
        (match rd d, rd (d + 8) with
          | .ok h, .ok w =>
            if h = 0 ∨ bits w 7 2 = 3 then none
            else some { handler := h, slot := w.extractLsb' 11 5, prio := w.extractLsb' 7 2, hkind := w.extractLsb' 3 4,
                        ab := bit w 0 }
          | _, _ => none)
    | _, _ => none

/-- The receiver record of an object, and of a value (18 Table 18.1). -/
def objectRecord (s : State) (h : DWord) : List Byte :=
  match dirEntry s (hOwner h) (hIndex h) with
  | .ok (base, w) => leBytes 8 h.toNat ++ leBytes 8 (bits w 0 40) ++ leBytes 16 base.toNat ++ List.replicate 32 0
  | .error _ => leBytes 8 h.toNat ++ List.replicate 56 0
def valueRecord (h : DWord) (st : AnswerState) : List Byte :=
  leBytes 8 h.toNat ++ leBytes 8 (2 ^ 63 + st.len.toNat * 2 ^ 40) ++ leBytes 16 0 ++
    (st.body ++ List.replicate (32 - st.body.length) 0)

/-! ### Running an invocation (02 R52 to R59) -/

/-- An invocation that is not run: its answer breaks, or a fault record goes to the sender's partition. -/
def refuseInvocation (s : State) (c : Nat) (x : Invocation) (cause : Code) (origin : Nat) : State :=
  let s1 := countDelivery s c cause (s.core c).part
  if hIsAnswer x.ans then sendNotice s1 c (noticeIdent s1 c) x.ans (ansBroken cause origin) false
  else postFault s1 (pkgOf x.sender) { cause := cause, core := x.sender, part := x.part, src := 4 }

/-- The broken record of 02 R59. -/
def brokenRecord (st : AnswerState) : DWord :=
  BitVec.ofNat 64 (st.cause.toNat * 2 ^ 58 + st.origin.toNat * 2 ^ 36)
/-- An argument word once its answer is known (02 R54, R59). -/
def argWord (st : AnswerState) (w : DWord) : DWord :=
  if st.state = 3 then BitVec.ofNat 64 (leVal st.body)
  else if st.state = 2 then (if st.len.toNat ≤ 8 then BitVec.ofNat 64 (leVal st.body) else w)
  else if st.state = 4 then brokenRecord st
  else w
/-- The argument words that are answer handles under HKIND, with their numbers. -/
def handleArgs (d : MethodDesc) (x : Invocation) : List (Nat × DWord) :=
  (x.args.zipIdx.map (fun p => (p.2, p.1))).filter (fun p => bit d.hkind p.1 && hIsAnswer p.2)

/-- All arguments known: the invocation breaks, or joins its routine's queue. -/
def startInvocation (s : State) (c : Nat) (x : Invocation) (target : DWord) (receiver : List Byte) (d : MethodDesc)
    (known : List (DWord × AnswerState)) : State :=
  let look := fun (h : DWord) => ((known.find? (fun k => k.1 == h)).map (·.2)).getD ansPending
  let hs := handleArgs d x
  match (if d.ab then none else hs.find? (fun p => (look p.2).broken)) with
  | some p => refuseInvocation s c x cBrokenArgument (look p.2).origin.toNat
  | none =>
    let ws := x.args.zipIdx.map (fun p => if bit d.hkind p.2 && hIsAnswer p.1 then argWord (look p.1) p.1 else p.1)
    queueStart s c d.slot
      { Start.plain s.now with
        pc := some (space0 d.handler), prio := some d.prio, s8 := zext72 (ws.getD 0 0), s9 := zext72 (ws.getD 1 0),
        s10 := zext72 (ws.getD 2 0), s11 := zext72 (ws.getD 3 0), s12 := zext72 x.ans,
        s13 := BitVec.ofNat 72 x.sender, target := target, receiver := receiver, part := x.part, waitedFor := hs.map (·.2) }

/-- Register the core as a waiter for an answer (02 R53; 17 R351, R352): at the home slot when it is the HOME, else in an
entry of its own, and at the COMPUTE core at the first registration; none while no entry is free. -/
def registerWaiter (s : State) (c : Nat) (h : DWord) : Option State :=
  let first := (pibState (s.core c) h).isNone
  (ensureKnown s c h).map (fun s1 =>
    if hHome h = c || hCompute h = c || !first then s1
    else sendUnit s1 c (.core (hCompute h)) clsNTC (.waiterReg h c))

/-- Wait for the pending arguments; none while an entry that a registration needs is not free. -/
def awaitArgs (s : State) (c : Nat) (x : Invocation) (target : DWord) (receiver : List Byte) (d : MethodDesc)
    (need : List DWord) (known : List (DWord × AnswerState)) : Option State :=
  let reg := fun (st : Option State) (h : DWord) => st.bind (fun s1 => registerWaiter s1 c h)
  (need.foldl reg (some s)).map (fun s1 =>
    s1.modCore c (fun co => { co with pib := co.pib ++ [.args x target receiver d need known] }))

/-- An invocation at the core where it is to run, on an object (`val = none`) or on a value. -/
def runInvocation (s : State) (c : Nat) (x : Invocation) (target : DWord) (val : Option AnswerState) : Option State :=
  let co := s.core c
  let mbx : Nat × Nat := (pkgOf c, 4352 + (c % 4096 / 16) * 32 + c % 16)
  if revoked s (pkgOf c) co.part && co.assigned then some (refuseInvocation s c x cFenced c)
  else if !(s.rights mbx { part := x.part, cls := 7 }).getLsbD 3 then some (refuseInvocation s c x cInvokeDenied c)
  else if val.isNone && !objectValid s target then some (refuseInvocation s c x cHandleStale c)
  else
    match methodDesc s c (if val.isNone then hClass target else 0) x.method.toNat with
    | none => some (refuseInvocation s c x cInvokeDenied c)
    | some d =>
      let receiver := match val with
        | none => objectRecord s target
        | some st => valueRecord x.target st
      let states := ((handleArgs d x).map (·.2)).eraseDups.map (fun h => (h, registeredState s c h))
      let known := states.filter (fun k => !k.2.pending)
      let need := (states.filter (fun k => k.2.pending)).map (·.1)
      let obj := if val.isNone then target else 0
      if need.isEmpty then (if spillFull s c then none else some (startInvocation s c x obj receiver d known))
      else awaitArgs s c x obj receiver d need known

/-! ### Invocations on answers (02 R48, R49, R58, R503) -/

/-- An invocation on an answer whose state is known and not pending. -/
def serveOnAnswer (s : State) (c : Nat) (x : Invocation) (st : AnswerState) : Option State :=
  if st.broken then some (refuseInvocation s c x cBrokenReceiver st.origin.toNat)
  else if st.state = 3 then
    let obj : DWord := BitVec.ofNat 64 (leVal st.body)
    some (sendUnit s c (.core (hOwner obj)) clsMSG (.forwarded x obj))
  else runInvocation s c x x.target (some st)

/-- Serve the invocations that wait on `h`, in arrival order; one that cannot be served yet keeps its place, and so do those
behind it. -/
def serveWaiting (s : State) (c : Nat) (h : DWord) (st : AnswerState) : State :=
  let serve := fun (acc : State × Bool) (e : PibEntry) =>
    match acc.2, e with
    | true, .waiting _ x _ _ =>
      (match serveOnAnswer (acc.1.modCore c (fun co => { co with pib := co.pib.erase e })) c x st with
        | some t => (t, true)
        | none => (acc.1, false))
    | _, _ => acc
  (((s.core c).pib.filter (fun e => match e with
    | .waiting a _ _ _ => a == h
    | _ => false)).foldl serve (s, true)).1
/-- Invocations wait on `h` at the core. -/
def pibWaits (co : Core) (h : DWord) : Bool :=
  co.pib.any (fun e => match e with
    | .waiting a _ _ _ => a == h
    | _ => false)

/-- Send the state to every waiter registered at the COMPUTE core. -/
def notifyWaiters (s : State) (c : Nat) (h : DWord) (st : AnswerState) : State :=
  let mine := fun (e : PibEntry) => match e with
    | .waiter a _ => a == h
    | _ => false
  let ws := (s.core c).pib.filter mine
  let s1 := s.modCore c (fun co => { co with pib := co.pib.filter (fun e => !mine e) })
  ws.foldl (fun acc e => match e with
    | .waiter _ w =>
      sendUnit acc c (.core w) clsNTC (if st.broken then .broken h st false else .resolution h st false)
    | _ => acc) s1

/-- What a continuation has in s8, s9 and s10 (17 R352). -/
def contArgs (h : DWord) (st : AnswerState) : List DWord :=
  [if st.broken then brokenRecord st else BitVec.ofNat 64 (leVal (st.body.take 8)), h, statusWord (hGen h) st]
/-- The task record of a continuation takes its argument words, and the resolution is posted to the shepherd that manages it,
which releases it (03 R99, R100). -/
def postResolution (s : State) (c task : Nat) (args : List DWord) : State :=
  postEvent (writeBytes s (task + 0x10) (args.flatMap (fun (w : DWord) => leBytes 8 w.toNat))) ((taskCluster task).getD (clOf c))
    (eventRecord 5 c 0 (BitVec.ofNat 64 task) 1)
/-- Continuations of WHEN on `h` at this core are released, each once. -/
def startConts (s : State) (c : Nat) (h : DWord) (st : AnswerState) : State :=
  let tell := fun (e : PibEntry) => match e with
    | .cont a task pc slot false => if a = h then .cont a task pc slot true else e
    | _ => e
  let s1 := s.modCore c (fun co => { co with pib := co.pib.map tell })
  (s.core c).pib.foldl (fun acc e => match e with
    | .cont a task _ _ false => if a = h then postResolution acc c task (contArgs h st) else acc
    | _ => acc) s1

/-- Invocations that wait for `h` as an argument: one that waits for no more is started, unless the core's spill queue is full. -/
def settleArgs (s : State) (c : Nat) (h : DWord) (st : AnswerState) : State :=
  let mine := fun (e : PibEntry) => match e with
    | .args _ _ _ _ need _ => need.contains h
    | _ => false
  let ws := (s.core c).pib.filter mine
  let s1 := s.modCore c (fun co => { co with pib := co.pib.filter (fun e => !mine e) })
  ws.foldl (fun acc e => match e with
    | .args x target receiver d need known =>
      let need' := need.filter (· != h)
      let known' := known ++ [(h, st)]
      if need'.isEmpty && !spillFull acc c then startInvocation acc c x target receiver d known'
      else acc.modCore c (fun co => { co with pib := co.pib ++ [.args x target receiver d need' known'] })
    | _ => acc) s1

/-- Everything at a core that waited for `h` learns its state. -/
def settle (s : State) (c : Nat) (h : DWord) (st : AnswerState) : State :=
  let s1 := notifyWaiters (serveWaiting s c h st) c h st
  dropKnown (settleArgs (startConts s1 c h st) c h st) c

/-- A resolution or break notice at a core (02 R44, R48; 17 R350): the home slot, the resolution entry, or the entry of a
waiting core. The first to reach a pending answer is final; others are discarded, and counted at the home core unless they
are default notices. -/
def applyNotice (s : State) (c : Nat) (h : DWord) (st : AnswerState) (dflt : Bool) : State :=
  let home := decide (hHome h = c)
  let slot := slotState s c (hSlot h)
  let atHome := home && slotGen s c (hSlot h) == hGen h && slot.pending
  let co := s.core c
  let atEntry := (match pibState co h with
    | some e => e.pending
    | none => false)
  let s0 := if home && !atHome && !dflt then s.countCore c 0x11 1 (some co.part) else s
  if home && !atHome then s0
  else if !home && !atEntry then s0
  else
    let s1 := if atHome then setSlot s0 c (hSlot h) (hGen h) st else s0
    let upd := fun (e : PibEntry) => match e with
      | .res a old => if a = h ∧ old.pending then .res a st else e
      | .known a old => if a = h ∧ old.pending then .known a st else e
      | _ => e
    settle (s1.modCore c (fun k => { k with pib := k.pib.map upd })) c h st

/-- A retire notice at the COMPUTE core (02 R45, R503; 17 R354): everything there that waits for the answer learns
HANDLE_STALE. -/
def applyRetire (s : State) (c : Nat) (h : DWord) : State :=
  let st := ansBroken cHandleStale c
  let mine := fun (e : PibEntry) => match e with
    | .waiting a _ _ _ => a == h
    | _ => false
  let ws := (s.core c).pib.filter mine
  let mark := fun (e : PibEntry) => match e with
    | .res a _ | .known a _ => if a = h then .retired a s.now else e
    | _ => e
  let s1 := s.modCore c (fun co => { co with pib := (co.pib.filter (fun e => !mine e)).map mark })
  let s2 := ws.foldl (fun acc e => match e with
    | .waiting _ x _ _ => refuseInvocation acc c x cHandleStale c
    | _ => acc) s1
  settleArgs (startConts (notifyWaiters s2 c h st) c h st) c h st

/-- An invocation's own answer names this core as COMPUTE: it takes a resolution entry, in place of a retired mark or of
an entry kept for the core's own waiters (02 R56, R503; 17 R351); none while no entry is free. -/
def takeEntry (s : State) (c : Nat) (ans : DWord) : Option State :=
  let co := s.core c
  if !(hIsAnswer ans) || hCompute ans != c || pibHasRes co ans then some s
  else if pibRetired co ans || (pibState co ans).isSome then
    let upd := fun (e : PibEntry) => match e with
      | .retired a _ | .known a _ => if a = ans then .res a ansPending else e
      | _ => e
    some (s.setCore c { co with pib := co.pib.map upd })
  else if pibFree co = 0 then none
  else some (addPib s c (.res ans ansPending))

/-- An invocation arrives (02 R47 to R52, R503): run it on its object, serve it on its answer, or keep it waiting behind those
that wait; none while it waits at the ingress, as every invocation does that finds 1,280 entries (07 R155). -/
def acceptInvocation (s : State) (c : Nat) (x : Invocation) (src : Nat) : Option State :=
  if pibFree (s.core c) = 0 then none
  else
    (takeEntry s c x.ans).bind (fun s1 =>
      if hIsObject x.target then runInvocation s1 c x x.target none
      else
        let h := x.target
        let co := s1.core c
        if pibRetired co h then some (refuseInvocation s1 c x cHandleStale c)
        else if hHome h = c && slotGen s1 c (hSlot h) != hGen h then some (refuseInvocation s1 c x cHandleStale c)
        else
          let st := knownState s1 c h
          if st.pending || pibWaits co h then
            if pibFree co = 0 then none else some (addPib s1 c (.waiting h x s1.now src))
          else if st.state = 0 then some (refuseInvocation s1 c x cHandleStale c)
          else serveOnAnswer s1 c x st)

end Sys2Proof.Machine
end

