-- ==== Sys2Proof/Machine/Units.lean ====
section
/-! DEFINITION. Memory as units other than strands access it (07 R144, R148, R149, R156 to R158; 22 R433; 24 R459; 28 R486,
R488): the causes of an access in order, a read, a test whether a write would be taken, a write. -/

namespace Sys2Proof.Machine

/-- The unit class of an engine (07 Table 7.6). -/
def engineClass (e : Fin 4) : BitVec 4 := BitVec.ofNat 4 (3 + e.val)
def engineIdent (part : BitVec 6) (e : Fin 4) : Ident := { part := part, cls := engineClass e }

/-! ### Accesses of units other than strands -/

/-- Window, page and offset that an access through a leaf of space 0xC0 names (07 R144). -/
def Leaf.window (x : Leaf) (va : Word) : Nat × Nat × Nat :=
  let pa := x.pa va
  (pa / 2 ^ 48 % 4096, pa / 2 ^ 16 % 2 ^ 32, pa % 2 ^ 16)
/-- The cases of 28 R486 in which a host window turns an access away. -/
def hostRefuses (s : State) (p : Nat) (part : BitVec 6) (w page : Nat) (write : Bool) : Bool :=
  match smGet none (s.pkg p).windows w with
  | none => true
  | some e => !e.valid || e.part != part || decide (e.pages.toNat ≤ page) || (write && !e.writes)

/-- Who asks: its package, its master identity, whether it acts for a priority-3 routine. -/
structure Requester where
  pkg : Nat
  id : Ident
  sup : Bool
  deriving DecidableEq, Repr, Inhabited
def Command.who (x : Command) : Requester := { pkg := pkgOf x.core, id := engineIdent x.part x.eng, sup := x.prio3 }

/-- No live path: LINK_DISAGREE when a link of the source's package is down by disagreement. -/
def pathDisagreed (s : State) (p : Nat) : Bool :=
  !((List.range 16).any (portUp s p)) && (List.range 16).any (fun i => (s.link p i).disagreed)
def pathCause (s : State) (p pa : Nat) : Option Code :=
  if livePath s p (homeDie pa) then none else if pathDisagreed s p then some cLinkDisagree else some cLinkDown

/-- The leaf of an access, or its first cause. -/
def engPage (s : State) (u : Requester) (va : Word) (want : Right) : State × Except Code Leaf :=
  let p := u.pkg
  match s.walk p u.id.part va with
  | .absent _ => (s, .error cNotPresent)
  | .denied pa => (s.countDenial pa u.id.part, .error cDeny)
  | .leaf l =>
    let pa := l.pa va
    let ok := if want = .rd then l.r else l.w
    if (l.w && l.x) || !(l.u || u.sup) || !ok then (s, .error cPermission)
    else if !l.fmtOk then (s, .error cFormat)
    else if spaceOf va = 0xC0 then
      let w := l.window va
      if l.poison then (s, .error cPoison)
      else if hostRefuses s p u.id.part w.1 w.2.1 (want != .rd) then (s, .error cHostWindow)
      else (s, .ok l)
    else
      match pathCause s p pa with
      | some c => (s, .error c)
      | none =>
        if !s.admits pa l.geom2 u.id want then (s.countDenial pa u.id.part, .error cDeny)
        else if l.poison then (s, .error cPoison)
        else (s, .ok l)

/-- The pieces of a range by 64-byte lines: first byte and bytes of each. -/
def linePieces (va n : Nat) : List (Nat × Nat) :=
  if n = 0 then []
  else
    (List.range ((va + n - 1) / 64 - va / 64 + 1)).map (fun i =>
      let lo := max va ((va / 64 + i) * 64)
      (lo, min (va + n) ((va / 64 + i + 1) * 64) - lo))

/-- Bytes as an engine reads them, or the first cause. -/
def engRead (s : State) (u : Requester) (va : Word) (n : Nat) : State × Except Code (List Byte) :=
  (linePieces va.toNat n).foldl (fun (acc : State × Except Code (List Byte)) (q : Nat × Nat) =>
    match acc.2 with
    | .error _ => acc
    | .ok b =>
      let at_ : Word := BitVec.ofNat 72 q.1
      let r := engPage acc.1 u at_ .rd
      match r.2 with
      | .error c => (r.1, .error c)
      | .ok l =>
        if spaceOf at_ = 0xC0 then
          match (List.range q.2).mapM (fun i => Config.hostByte s.tick (at_ + BitVec.ofNat 72 i)) with
          | some d => (r.1, .ok (b ++ d))
          | none => (r.1, .error cHostWindow)
        else
          match targetLoad r.1 u.id (l.pa at_) q.2 l.geom2 with
          | .ok t d => (t, .ok (b ++ d))
          | .fail t c _ => (t, .error c)
          | .refuse _ => (r.1, .error cDeny)) (s, .ok [])

/-- Whether bytes could be written now: what the targets count, and the first cause. -/
def engCheck (s : State) (u : Requester) (va : Word) (bytes : List Byte) : State × Option Code :=
  (linePieces va.toNat bytes.length).foldl (fun (acc : State × Option Code) (q : Nat × Nat) =>
    match acc.2 with
    | some _ => acc
    | none =>
      let at_ : Word := BitVec.ofNat 72 q.1
      let r := engPage acc.1 u at_ .wr
      match r.2 with
      | .error c => (r.1, some c)
      | .ok l =>
        if spaceOf at_ = 0xC0 then (r.1, if Config.hostTakes s.tick at_ then none else some cHostWindow)
        else
          match targetStore r.1 u.id (l.pa at_) l.geom2 ((bytes.drop (q.1 - va.toNat)).take q.2) with
          | .ok _ _ => (r.1, none)
          | .fail t c _ => (t, some c)
          | .refuse _ => (r.1, some cDeny)) (s, none)
/-- Where bytes that were found writable go, line by line: physical address, placement, bytes. A host window's are the
host's. -/
def engPlace (s : State) (u : Requester) (va : Word) (bytes : List Byte) : List (Nat × Bool × List Byte) :=
  (linePieces va.toNat bytes.length).filterMap (fun q =>
    let at_ : Word := BitVec.ofNat 72 q.1
    match (engPage s u at_ .wr).2 with
    | .error _ => none
    | .ok l =>
      if spaceOf at_ = 0xC0 then none else some (l.pa at_, l.geom2, (bytes.drop (q.1 - va.toNat)).take q.2))
def writeParts (s : State) (id : Ident) (ps : List (Nat × Bool × List Byte)) : State :=
  ps.foldl (fun st q => match targetStore st id q.1 q.2.1 q.2.2 with
    | .ok t _ => t
    | _ => st) s
def engWrite (s : State) (u : Requester) (va : Word) (bytes : List Byte) : State := writeParts s u.id (engPlace s u va bytes)

end Sys2Proof.Machine
end

