-- ==== Sys2Proof/Machine/Engine.lean ====
section
/-! DEFINITION. Engine commands between their append and their end: range locks (07 R172, R173), staging and publication
(15 R327, R329, R334), completion (09 R193; 15 R330), release (15 R336). -/

namespace Sys2Proof.Machine

/-! ### Range locks -/

def lockLimit : Nat := 64
/-- The first entry, destinations before sources and then the earliest, that covers an address of a partition. -/
def lockAt (cl : Cluster) (part : BitVec 6) (va : Nat) : Option RangeLock :=
  let hit := fun (l : RangeLock) => l.part == part && decide (l.lo ≤ va) && decide (va < l.hi)
  match cl.locks.find? (fun l => l.dst && hit l) with
  | some l => some l
  | none => cl.locks.find? hit
/-- Whether an access of `n` bytes meets a locked range: a load only a destination (07 R172). -/
def lockHit (cl : Cluster) (part : BitVec 6) (va n : Nat) (load : Bool) : Bool :=
  cl.locks.any (fun l => l.part == part && decide (va < l.hi) && decide (l.lo < va + n) && (l.dst || !load))
def Command.owns (x : Command) (l : RangeLock) : Bool := l.core == x.core && l.eng == x.eng && l.seq == x.seq
/-- Free the entries of a command. -/
def freeLocks (s : State) (x : Command) : State :=
  s.modCluster (clOf x.core) (fun cl => { cl with locks := cl.locks.filter (fun l => !x.owns l) })

/-! ### Copy geometry (15 R331 to R333, Table 15.6) -/

inductive CopyKind where
  | same | convert | mismatch
  deriving DecidableEq, Repr, Inhabited

/-- How a copy moves its data: the format and geometry of the first page of its source and of its destination, and the
bytes that one row takes at the destination. -/
structure CopyGeo where
  kind : CopyKind
  sf : Nat
  sg : Nat
  df : Nat
  dg : Nat
  drow : Nat
  deriving DecidableEq, Repr, Inhabited

/-- The first page of a span that is present. -/
def firstPage (s : State) (p : Nat) (part : BitVec 6) (va n : Nat) : Option Leaf :=
  ((List.range (n / 65536 + 2)).map (fun i => (va / 65536 + i) * 65536)).findSome? (fun a =>
    if a < va + n then
      match s.walk p part (BitVec.ofNat 72 (max a va)) with
      | .leaf l => some l
      | _ => none
    else none)

def isBlockFmt (f : Nat) : Bool := f == 0x18 || f == 0x19
def copyGeo (s : State) (p : Nat) (part : BitVec 6) (op : EngineOp) : CopyGeo :=
  match op with
  | .cpy dst src rows rowBytes dstride sstride =>
    let side := fun (va : Word) (stride : Nat) =>
      match firstPage s p part va.toNat ((rows - 1) * stride + rowBytes) with
      | some l => (l.fmt, l.geom)
      | none => (0, 0)
    let a := side src sstride
    let b := side dst dstride
    let granules := src.toNat % 65536 == 0 && dst.toNat % 65536 == 0 && rowBytes % 65536 == 0 &&
      (decide (rows ≤ 1) || (dstride % 65536 == 0 && sstride % 65536 == 0))
    let kind : CopyKind :=
      if a.1 ≠ 0 ∧ b.1 ≠ 0 ∧ ((isBlockFmt a.1 ∧ a.2 = 1) ∨ (isBlockFmt b.1 ∧ b.2 = 1)) ∧ (a ≠ b ∨ granules = false) then .mismatch
      else if a.1 = b.1 ∨ a.1 = 0 ∨ b.1 = 0 then .same
      else .convert
    let drow := if kind = .convert then rowBytes * (fmtBits b.1).getD 8 / max 1 ((fmtBits a.1).getD 8) else rowBytes
    { kind := kind, sf := a.1, sg := a.2, df := b.1, dg := b.2, drow := drow }
  | _ => { kind := .same, sf := 0, sg := 0, df := 0, dg := 0, drow := 0 }

/-- A destination sector is numbered by its row and, within it, by the 256-byte sectors of memory that the row meets. -/
def keyOf (row i : Nat) : Nat := row * 2 ^ 32 + i
/-- The numbers of a copy's sectors in the order of processing: rows ascending, and each row ascending when D < A, else
descending. -/
def copyKeys (g : CopyGeo) (op : EngineOp) : List Nat :=
  match op with
  | .cpy dst src rows _ dstride _ =>
    (List.range rows).flatMap (fun r =>
      let d := dst.toNat + r * dstride
      let n := if g.drow = 0 then 0 else (d + g.drow - 1) / 256 - d / 256 + 1
      let ks := (List.range n).map (keyOf r)
      if dst.toNat < src.toNat then ks else ks.reverse)
  | _ => []
/-- First destination byte of a sector, and its bytes. -/
def sectorDest (g : CopyGeo) (op : EngineOp) (key : Nat) : Nat × Nat :=
  match op with
  | .cpy dst _ _ _ dstride _ =>
    let d := dst.toNat + key / 2 ^ 32 * dstride
    let b := (d / 256 + key % 2 ^ 32) * 256
    (max d b, min (d + g.drow) (b + 256) - max d b)
  | _ => (0, 0)
/-- First source byte of a sector, and its bytes. -/
def sectorSource (g : CopyGeo) (op : EngineOp) (key : Nat) : Nat × Nat :=
  match op with
  | .cpy dst src _ _ dstride sstride =>
    let t := sectorDest g op key
    let ofs := t.1 - (dst.toNat + key / 2 ^ 32 * dstride)
    let scale := fun (n : Nat) =>
      if g.kind = .convert then n * (fmtBits g.sf).getD 8 / max 1 ((fmtBits g.df).getD 8) else n
    (src.toNat + key / 2 ^ 32 * sstride + scale ofs, scale t.2)
  | _ => (0, 0)

/-- Lowest and one past the highest byte of spans. -/
def spanOf (rs : List (Nat × Nat)) : Option (Nat × Nat) :=
  rs.foldl (fun a r => match a with
    | none => some (r.1, r.1 + r.2)
    | some (lo, hi) => some (min lo r.1, max hi (r.1 + r.2))) none

/-! ### Registration (15 R327, R334) -/

def retainedOf (co : Core) (seq : BitVec 32) : Option Command := co.retained.find? (fun r => r.seq == seq)

/-- The ranges that a command registers: its own, or for a REPLAY the span of the source bytes it copies. -/
def rangesOf (s : State) (x : Command) : List (Nat × Nat × Bool) :=
  match x.op with
  | .replay of =>
    (match retainedOf (s.core x.core) of with
      | some r =>
        let g := copyGeo s (pkgOf x.core) x.part r.op
        (match spanOf (r.missing.map (fun m => sectorSource g r.op m.1)) with
          | some (lo, hi) => [(lo, hi, false)]
          | none => [])
      | none => [])
  | _ => x.ranges

/-- The range of a REPLAY is known once its copy is retained. -/
def rangesKnown (s : State) (x : Command) : Bool :=
  match x.op with
  | .replay of => (retainedOf (s.core x.core) of).isSome
  | _ => true
/-- Register the ranges of a command; none while the table lacks room. -/
def registerRanges (s : State) (x : Command) : Option State :=
  let cl := clOf x.core
  let rs := rangesOf s x
  if (s.cluster cl).locks.length + rs.length ≤ lockLimit then
    let mk := fun (r : Nat × Nat × Bool) =>
      ({ part := x.part, lo := r.1, hi := r.2.1, dst := r.2.2, core := x.core, eng := x.eng, seq := x.seq,
         retained := false } : RangeLock)
    some (s.modCluster cl (fun c => { c with locks := c.locks ++ rs.map mk }))
  else none

/-! ### The end of a command (15 R330) -/

def completionWord (seq : BitVec 32) (status : Code) (units : Nat) : DWord :=
  BitVec.ofNat 64 (seq.toNat * 2 ^ 32 + status.toNat * 2 ^ 26 + units % 2 ^ 26)

/-- The fault record of a command that ends with a status other than NONE (09 R178, R194). -/
def commandFault (s : State) (x : Command) (status : Code) (va : Word) (sectors : List Nat) : State :=
  postFault s (pkgOf x.core)
    { cause := status, core := x.core, part := x.part, src := 1, strand := x.strand, va := va, level := x.level,
      seq := x.seq, units := x.units, sectors := sectors }

/-- The cluster whose shepherd receives a command's event record. -/
def Command.eventCluster (x : Command) : Nat := (taskCluster x.task.toNat).getD (clOf x.core)
/-- Completion word, written as the engine writes (R330), and event record. -/
def postCompletion (s : State) (x : Command) (status : Code) : State :=
  let w := completionWord x.seq status x.units
  let s1 :=
    if x.comp = 0 then s
    else
      let b := leBytes 8 w.toNat
      let q := engCheck s x.who x.comp b
      match q.2 with
      | some c => commandFault q.1 x c x.comp []
      | none => engWrite q.1 x.who x.comp b
  let s2 := postEvent s1 x.eventCluster (eventRecord x.eng.val x.core w x.task 1)
  if status = cNone then s2 else countDelivery s2 x.core status x.part

def rootDest (p : Nat) : Dest := .block (pblockPa p 0)
/-- The contribution of a CRED that ends without having sent its data: of no element when it has none, else one that takes no
part, so that the reduction goes on without it. -/
def credWithout (s : State) (x : Command) (status : Code) : State :=
  match x.op with
  | .cred op fmt _ _ count fold round =>
    if x.sent then s
    else
      let m : CredIn :=
        { core := x.core, strand := x.strand, seq := x.seq, op := op, fmt := fmt, count := count
          ok := decide (status = cNone), bytes := [] }
      send s x.core (engineIdent x.part x.eng) (rootDest (pkgOf x.core)) clsCOL (.credIn fold round m)
  | _ => s

/-- A command ends: its locks are freed and its completion is posted. A failed copy's retention is the copy engine's. -/
def endCommand (s : State) (x : Command) (status : Code) : State :=
  postCompletion (freeLocks (credWithout s x status) x) x status
/-- The first byte of a command's output. -/
def Command.output (x : Command) : Word :=
  match x.op with
  | .cpy dst .. => dst
  | .replay _ => 0
  | .nbmv _ _ dst .. => dst
  | .attn _ _ _ _ _ out .. => out
  | .cred _ _ dst .. => dst
/-! The missing sectors of a copy (09 R194). -/

def copyTodo (g : CopyGeo) (x : Command) : List Nat := x.todo.getD (copyKeys g x.op)
def lowestMissing (g : CopyGeo) (op : EngineOp) (ms : List (Nat × Code)) : Option (Nat × Code) :=
  ms.foldl (fun a m =>
    let d := (sectorDest g op m.1).1
    match a with
    | none => some (d, m.2)
    | some b => if d < b.1 then some (d, m.2) else a) none
/-- The pages that hold missing sectors, in ascending order. -/
def missingPages (g : CopyGeo) (op : EngineOp) (ms : List (Nat × Code)) : List Nat :=
  (ms.map (fun m => (sectorDest g op m.1).1 / 65536)).eraseDups.insertionSort (fun a b => a ≤ b)
/-- One fault record for each such page, with the first fault met in it. -/
def pageFault (g : CopyGeo) (x : Command) (s : State) (page : Nat) : State :=
  let ms := x.missing.filter (fun m => (sectorDest g x.op m.1).1 / 65536 == page)
  match ms, lowestMissing g x.op ms with
  | m :: _, some lo =>
    commandFault s x m.2 (BitVec.ofNat 72 lo.1) (ms.map (fun q => (sectorDest g x.op q.1).1 / 256 % 256))
  | _, _ => s
def pageFaults (s : State) (g : CopyGeo) (x : Command) : State := (missingPages g x.op x.missing).foldl (pageFault g x) s
/-- The sectors that a copy has not moved are missing with a cause: the first one met, where they had one. -/
def missRest (g : CopyGeo) (x : Command) (status : Code) : Command :=
  let lacks := (copyTodo g x).drop x.next ++ x.flying
  { x with missing := x.missing ++ (lacks.filter (fun k => !x.missing.any (fun m => m.1 == k))).map (fun k => (k, status)) }

/-- A command other than a copy that fails, and any command that is ended before its own end: its fault records, one for a
command that knows no sectors, and its completion. -/
def abandonCommand (s : State) (x : Command) (status : Code) : State :=
  match x.op with
  | .cpy .. =>
    let g := copyGeo s (pkgOf x.core) x.part x.op
    let y := missRest g x status
    if y.missing.isEmpty then endCommand (commandFault s x status x.output []) x status
    else endCommand (pageFaults s g y) x status
  | _ => endCommand (commandFault s x status x.output []) x status

/-- The end of a command that has written its results: under .chk an upset makes it differ from its mirror (19 R391;
log 10). -/
def endChecked (s : State) (x : Command) (chk : Bool) : State :=
  if chk && s.turn.upset then endCommand (commandFault s x cMirror x.output []) x cMirror else endCommand s x cNone

/-! ### Chains -/

def headOf (s : State) (c : Nat) (e : Fin 4) : Option Command := ((s.core c).chains.get e).head?
def setHead (s : State) (x : Command) : State :=
  s.modCore x.core (fun co => { co with chains := co.chains.set x.eng (x :: (co.chains.get x.eng).tail) })
def popHead (s : State) (x : Command) : State :=
  s.modCore x.core (fun co => { co with chains := co.chains.set x.eng (co.chains.get x.eng).tail })

/-! ### Sectors -/

/-- Units of a sector. -/
def sectorUnits (g : CopyGeo) (op : EngineOp) (key : Nat) : Nat :=
  let d := sectorDest g op key
  (linePieces d.1 d.2).length
def Command.wrote (x : Command) (g : CopyGeo) (key : Nat) : Command := { x with units := x.units + sectorUnits g x.op key }
/-- A sector frame of a copy has been answered: the sector is written once none of its frames is out, or is missing. -/
def Command.answered (x : Command) (key : Nat) (cause : Option Code) (units : Nat) : Command :=
  let y : Command := { x with flying := x.flying.erase key }
  let lacks := x.missing.any (fun m => m.1 == key)
  match cause with
  | some c => if lacks then y else { y with missing := y.missing ++ [(key, c)] }
  | none => if lacks || y.flying.contains key then y else { y with units := y.units + units }
/-- The same, at the command that sent it, if that still runs. -/
def sectorDone (s : State) (core : Nat) (seq : BitVec 32) (key : Nat) (cause : Option Code) : State :=
  match headOf s core 0 with
  | none => s
  | some x =>
    if x.seq = seq ∧ x.flying.contains key then
      setHead s (x.answered key cause (sectorUnits (copyGeo s (pkgOf core) x.part x.op) x.op key))
    else s
/-- A sector frame at its home: written, or turned away by an access table (07 R157). -/
def sectorArrives (s : State) (id : Ident) (core : Nat) (seq : BitVec 32) (key : Nat) (parts : List (Nat × Bool × List Byte)) :
    State :=
  match parts.find? (fun q => !s.admits q.1 q.2.1 id .wr) with
  | some q => sectorDone (s.countDenial q.1 id.part) core seq key (some cDeny)
  | none => sectorDone (writeParts s id parts) core seq key none

/-! ### Publication (15 R327, R329, R331, R334) -/

def isZeroLength (x : Command) : Bool :=
  match x.op with
  | .cpy _ _ rows rowBytes _ _ => rows == 0 || rowBytes == 0
  | .cred _ _ _ _ count _ _ => count == 0
  | .nbmv _ _ _ _ _ rows _ => rows == 0
  | _ => false

/-- Put a registered command on its chain, or end it at once. -/
def publishOne (s : State) (x : Command) : State :=
  let push := fun (st : State) (y : Command) => st.modCore x.core (fun co =>
    { co with chains := co.chains.set y.eng ((co.chains.get y.eng) ++ [{ y with pub := s.tick }]) })
  if isZeroLength x then endCommand s x cNone
  else
    match x.op with
    | .replay of =>
      (match retainedOf (s.core x.core) of with
        | none => abandonCommand s x cAbandoned
        | some r =>
          let takeOver := fun (l : RangeLock) =>
            if r.owns l && l.retained then { l with seq := x.seq, retained := false } else l
          let s1 := s.modCluster (clOf x.core) (fun cl => { cl with locks := cl.locks.map takeOver })
          let s2 := s1.modCore x.core (fun co => { co with retained := co.retained.filter (fun q => q.seq != of) })
          push s2 { x with op := r.op, todo := some (r.missing.map (·.1)), missing := [], next := 0, units := 0 })
    | _ => push s x

/-- Publish staged commands in order; none while a range that is still to be registered finds no room. -/
def publishList (s : State) : List Command → Option State
  | [] => some s
  | x :: t =>
    match (if x.registered then some s else registerRanges s x) with
    | none => none
    | some s1 =>
      let s2 := s1.modCore x.core (fun co =>
        { co with staging := co.staging.filter (fun y => !(y.eng == x.eng && y.seq == x.seq)) })
      publishList (publishOne s2 { x with registered := true }) t

/-- Publish a strand's staged commands, on one engine or on every engine. -/
def publishStrand (s : State) (c k : Nat) (eng : Option (Fin 4)) : Option State :=
  publishList s ((s.core c).staging.filter (fun x => x.strand == k && eng.all (· == x.eng)))

/-- A strand ended without a handler abandons what it staged (09 R199, R200). -/
def abandonStaged (s : State) (c k : Nat) (status : Code) : State :=
  let mine := (s.core c).staging.filter (fun x => x.strand == k)
  let s1 := s.modCore c (fun co => { co with staging := co.staging.filter (fun x => x.strand != k) })
  mine.foldl (fun st x => abandonCommand st { x with units := 0 } status) s1

/-- The next SEQ of an engine: 0 is skipped (15 R327). -/
def nextSeq (n : BitVec 32) : BitVec 32 := if n + 1 = 0 then 1 else n + 1

end Sys2Proof.Machine
end

