-- ==== Sys2Proof/Machine/Root.lean ====
section
/-! DEFINITION. Folds and CRED reductions at a package's root (02 R77, R78, R81; 15 R335; 17 R370, R374; 22 R444; 23 R448
to R451; 24 R463): membership, open rounds, their values and outcomes, and what goes over the Lea. -/

namespace Sys2Proof.Machine

/-! ### The master that sends from the root -/

def sendRoot (s : State) (p core : Nat) (m : Msg) : State :=
  send s (p * 4096) { part := (s.core core).part, cls := 6 } (.core core) clsCOL m

def State.fold (s : State) (p : Nat) (f : Fin 16) : Fold := (s.pkg p).folds.get f
def State.modFold (s : State) (p : Nat) (f : Fin 16) (g : Fold → Fold) : State :=
  s.modPkg p (fun x => { x with folds := x.folds.set f (g (x.folds.get f)) })

/-! ### Values of a round (02 R78; 17 R374) -/

def FoldValue.none : FoldValue := { kinds := 0, all := true, any := false }
def FoldValue.ofPred (kind : Nat) (pred : Bool) : FoldValue := { kinds := BitVec.ofNat 3 (2 ^ kind), all := pred, any := pred }
def FoldValue.join (a b : FoldValue) : FoldValue :=
  { kinds := a.kinds ||| b.kinds, all := a.all && b.all, any := a.any || b.any }
/-- The contributions differ in kind. -/
def FoldValue.failed (v : FoldValue) : Bool := !(v.kinds == 0 || v.kinds == 1 || v.kinds == 2 || v.kinds == 4)
def FoldValue.outcome (v : FoldValue) : Bool := if v.kinds = 1 then v.all else if v.kinds = 2 then v.any else true

def FoldRound.value (r : FoldRound) : FoldValue :=
  r.got.foldl (fun v g => v.join (FoldValue.ofPred g.kind g.pred)) FoldValue.none
/-- Every member has contributed. -/
def FoldRound.full (r : FoldRound) : Bool := r.members.all (fun m => r.got.any (fun g => g.core == m.1 && g.strand == m.2))

/-! ### CRED data (15 R335; 05 R140) -/

def credSize : CredFmt → Nat
  | .i32 => 4 | .i64 => 8 | .fp32 => 4 | .bf16 => 2
def credFp : CredFmt → FpFmt
  | .bf16 => .bf16
  | _ => .fp32
def credInt : CredFmt → Bool
  | .i32 | .i64 => true
  | _ => false

/-- Two elements combined. -/
def credElem (op : CredOp) (fmt : CredFmt) (a b : Nat) : Nat :=
  let w := 8 * credSize fmt
  let less := fun (x y : Nat) => decide (intOf true w x < intOf true w y)
  match op with
  | .add =>
    if credInt fmt then (a + b) % 2 ^ w
    else (fpEncode (credFp fmt) .rn false (numSum .rn [fpDecode (credFp fmt) a, fpDecode (credFp fmt) b]).1 0).bits
  | .min => if credInt fmt then (if less b a then b else a) else fpMinMax (credFp fmt) false a b
  | .max => if credInt fmt then (if less a b then b else a) else fpMinMax (credFp fmt) true a b
  | .and => a &&& b
  | .or => a ||| b
  | .xor => a ^^^ b
def credCombine (op : CredOp) (fmt : CredFmt) (a b : List Byte) : List Byte :=
  let n := credSize fmt
  (List.range (a.length / n)).flatMap (fun i =>
    let el := fun (x : List Byte) => leVal ((x.drop (i * n)).take n)
    leBytes n (credElem op fmt (el a) (el b)))

/-- Contributions grouped by a unit of the tree: each group's data combined in arrival order, the groups in the order in
which they became complete (22 R444). -/
def combineBy (op : CredOp) (fmt : CredFmt) (unit : Nat → Nat) (xs : List (Nat × List Byte)) : List (Nat × List Byte) :=
  let order := ((xs.map (fun x => unit x.1)).reverse.eraseDups).reverse
  order.filterMap (fun u =>
    match xs.filter (fun x => unit x.1 == u) with
    | [] => none
    | x :: t => some (x.1, t.foldl (fun acc y => credCombine op fmt acc y.2) x.2))
/-- Clusters combine first, then the dies, then the package. -/
def combineTree (op : CredOp) (fmt : CredFmt) (xs : List (Nat × List Byte)) : List Byte :=
  match combineBy op fmt pkgOf (combineBy op fmt dieOf (combineBy op fmt clOf xs)) with
  | [] => []
  | x :: _ => x.2

/-- COUNT, OP and FMT agree. -/
def credAgree (xs : List CredIn) : Bool :=
  match xs with
  | [] => true
  | x :: t => x.ok && t.all (fun y => y.ok && y.op == x.op && y.fmt == x.fmt && y.count == x.count)
/-- The reduction of a package's contributions: those whose source could not be read take no part. -/
def CredRound.value (r : CredRound) : CredIn :=
  let xs := r.got.filter (·.ok)
  match xs with
  | [] => { (default : CredIn) with ok := false }
  | x :: _ =>
    if credAgree xs then { x with bytes := combineTree x.op x.fmt (xs.map (fun y => (y.core, y.bytes))) }
    else { x with ok := false, count := 1, bytes := [] }
def CredRound.full (r : CredRound) : Bool := r.members.all (fun m => r.got.any (fun g => g.core == m.1 && g.strand == m.2))

/-! ### The end of a round at one package -/

def finishRound (s : State) (p : Nat) (f : Fin 16) (r : FoldRound) (v : FoldValue) (lseq : Nat) : State :=
  let s1 := s.modFold p f (fun fo =>
    { fo with rounds := fo.rounds.filter (fun q => q.round != r.round), far := fo.far.filter (fun q => q.round != r.round) })
  r.got.foldl (fun st g => sendRoot st p g.core (.foldOut f g.own g.strand v.outcome v.failed lseq)) s1

def finishCred (s : State) (p : Nat) (f : Fin 16) (r : CredRound) (x : CredIn) : State :=
  let s1 := s.modFold p f (fun fo =>
    { fo with
      cred := fo.cred.filter (fun q => q.round != r.round), credFar := fo.credFar.filter (fun q => q.round != r.round)
      credJoined := fo.credJoined.filter (fun m => !(m.limit.any (fun l => decide (l ≤ r.round + 1)))) })
  (r.got.filter (·.ok)).foldl (fun st g => sendRoot st p g.core (.credOut g.seq x.ok x.bytes)) s1

/-! ### What other packages contribute (24 R463) -/

def openFold (now : Nat) (fo : Fold) : Fold :=
  { fo with
    rounds := fo.rounds ++
      [{ round := fo.base, members := fo.joined.map (fun m => (m.core, m.strand)), got := [], since := now, sent := false }]
    base := fo.base + 1 }
def openCred (fo : Fold) : Fold :=
  let part := fo.credJoined.filter (fun m => decide (m.base ≤ fo.credBase) && m.limit.all (fun l => decide (fo.credBase < l)))
  { fo with
    cred := fo.cred ++ [{ round := fo.credBase, members := part.map (fun m => (m.core, m.strand)), got := [], sent := false }]
    credBase := fo.credBase + 1 }

/-- A round ends at this root once every member package has contributed. -/
def farSettle (s : State) (p : Nat) (f : Fin 16) (n : Nat) : State :=
  let fo := s.fold p f
  match fo.rounds.find? (fun r => r.round == n) with
  | none => s
  | some r =>
    let mine := fo.far.filter (fun x => x.round == n && fo.packages.contains x.pkg)
    if r.sent && fo.packages.all (fun q => mine.any (fun x => x.pkg == q)) then
      finishRound s p f r (mine.foldl (fun v x => v.join x.v) FoldValue.none) (mine.foldl (fun m x => max m x.seq) 0)
    else s

/-- The data of one package, once each of its parts has come; the sequence is that of its last part. -/
def farData (fo : Fold) (n q : Nat) : Option (Nat × CredIn) :=
  let mine := fo.credFar.filter (fun x => x.round == n && x.pkg == q)
  match mine.head? with
  | none => none
  | some h =>
    let part := fun (i : Nat) => mine.find? (fun x => x.part == i)
    if (List.range h.parts).all (fun i => (part i).isSome) then
      some (mine.foldl (fun m x => max m x.seq) 0,
        { h.x with bytes := (List.range h.parts).flatMap (fun i => ((part i).map (·.x.bytes)).getD []) })
    else none
/-- Insert by sequence number. -/
def bySeq (x : Nat × CredIn) : List (Nat × CredIn) → List (Nat × CredIn)
  | [] => [x]
  | y :: t => if x.1 < y.1 then x :: y :: t else y :: bySeq x t
/-- A reduction ends once each package's data has come; one that contributes nothing has COUNT 0, which no CRED sends. -/
def farSettleCred (s : State) (p : Nat) (f : Fin 16) (n : Nat) : State :=
  let fo := s.fold p f
  match fo.cred.find? (fun r => r.round == n) with
  | none => s
  | some r =>
    match fo.packages.mapM (farData fo n) with
    | none => s
    | some ds =>
      if !r.sent then s
      else
        let xs := ((ds.foldl (fun acc d => bySeq d acc) []).map (·.2)).filter (fun x => x.ok || x.count != 0)
        let v : CredIn :=
          match xs with
          | [] => { (default : CredIn) with ok := false }
          | x :: t =>
            if credAgree xs then { x with bytes := t.foldl (fun acc y => credCombine x.op x.fmt acc y.bytes) x.bytes }
            else { x with ok := false, bytes := [] }
        finishCred s p f r v

/-- The contribution of a package reaches this package's root under sequence `seq`: it opens its round here when no member
has. -/
def foldApply (s : State) (p seq : Nat) : LeaOp → State
  | .fold f n q v =>
    let s1 := s.modFold p f (fun fo =>
      let fo1 := if n = fo.base then openFold s.now fo else fo
      { fo1 with far := fo1.far ++ [{ round := n, pkg := q, seq := seq, v := v }] })
    farSettle s1 p f n
  | .cred f n q part parts x =>
    let s1 := s.modFold p f (fun fo =>
      let fo1 := if n = fo.credBase then openCred fo else fo
      { fo1 with credFar := fo1.credFar ++ [{ round := n, pkg := q, part := part, parts := parts, seq := seq, x := x }] })
    farSettleCred s1 p f n
  | _ => s

/-- Sequence `n` is applied at package `p`: LSEQ at its cores and BSEQ become `n` (12 Table 12.14; 17 R376; 24 R462). -/
def leaApplied (s : State) (p n : Nat) : State :=
  let s1 := s.modPkg p (fun x => { x with lea := { x.lea with applied := n } })
  let up := fun (co : Core) => { co with lseq := if co.lseq.toNat < n then BitVec.ofNat 48 n else co.lseq }
  { s1 with cores := s1.cores.map (fun q => if pkgOf q.1 = p then (q.1, up q.2) else q) }

/-- A root's operation for the Lea; a package of no group applies it at once under its local counter (17 R375). -/
def leaQueue (s : State) (p : Nat) (op : LeaOp) : State :=
  let l := (s.pkg p).lea
  if l.members.isEmpty then
    let n := l.localNext
    let s1 := s.modPkg p (fun x => { x with lea := { x.lea with localNext := (n + 1) % 2 ^ 48 } })
    leaApplied (foldApply s1 p n op) p n
  else s.modPkg p (fun x => { x with lea := { x.lea with queue := x.lea.queue ++ [(p * 4096, 32, op)] } })

/-! ### Settling what is complete -/

/-- A round whose members have all contributed ends, or its value goes to the Lea. -/
def closeRound (p : Nat) (f : Fin 16) (s : State) (r : FoldRound) : State :=
  if !r.full || r.sent then s
  else if (s.fold p f).packages.isEmpty then finishRound s p f r r.value 0
  else
    let mark := fun (q : FoldRound) => if q.round = r.round then { q with sent := true } else q
    leaQueue (s.modFold p f (fun fo => { fo with rounds := fo.rounds.map mark })) p (.fold f r.round p r.value)
/-- At most 64 KiB a packet (24 R460). -/
def credParts (n : Nat) : Nat := max 1 ((n + 65535) / 65536)
def closeCred (p : Nat) (f : Fin 16) (s : State) (r : CredRound) : State :=
  if !r.full || r.sent then s
  else
    let v := r.value
    if (s.fold p f).packages.isEmpty then finishCred s p f r v
    else
      let mark := fun (q : CredRound) => if q.round = r.round then { q with sent := true } else q
      let s1 := s.modFold p f (fun fo => { fo with cred := fo.cred.map mark })
      let k := credParts v.bytes.length
      (List.range k).foldl (fun st i =>
        leaQueue st p (.cred f r.round p i k { v with bytes := (v.bytes.drop (65536 * i)).take 65536 })) s1
def settleFold (s : State) (p : Nat) (f : Fin 16) : State :=
  let s1 := (s.fold p f).rounds.foldl (closeRound p f) s
  (s1.fold p f).cred.foldl (closeCred p f) s1

/-- A contribution reaches the root: the first of a round opens it. A strand that the root no longer counts contributes
nothing. -/
def takeContribution (s : State) (p : Nat) (f : Fin 16) (g : FoldIn) : State :=
  match (s.fold p f).joined.find? (fun m => m.core == g.core && m.strand == g.strand) with
  | none => s
  | some m =>
    let n := m.base + g.own
    let add := fun (r : FoldRound) => if r.round = n then { r with got := r.got ++ [g] } else r
    settleFold (s.modFold p f (fun fo =>
      let fo1 := if n = fo.base then openFold s.now fo else fo
      { fo1 with rounds := fo1.rounds.map add })) p f
/-- A CRED contribution reaches the root. That of a strand which the root no longer counts ends its command. -/
def takeCred (s : State) (p : Nat) (f : Fin 16) (own : Nat) (x : CredIn) : State :=
  match (s.fold p f).credJoined.find? (fun m => m.core == x.core && m.strand == x.strand) with
  | none => sendRoot s p x.core (.credOut x.seq false [])
  | some m =>
    let n := m.base + own
    let add := fun (r : CredRound) => if r.round = n then { r with got := r.got ++ [x] } else r
    settleFold (s.modFold p f (fun fo =>
      let fo1 := if n = fo.credBase then openCred fo else fo
      { fo1 with cred := fo1.cred.map add })) p f

/-! ### Membership (17 R370) -/

/-- The masks of a fold with or without a core. -/
def setWave (s : State) (c : Nat) (f : Fin 16) (on : Bool) : State :=
  let cl := clOf c
  let d := dieOf c % 4
  let wave := setBit ((s.cluster cl).wave.get f) (c % 16) on
  let s1 := s.modCluster cl (fun x => { x with wave := x.wave.set f wave })
  s1.modFold (pkgOf c) f (fun fo =>
    let cm := setBit (fo.clusters.getD d 0) (cl % 64) (wave != 0)
    { fo with clusters := fo.clusters.setIfInBounds d cm, dies := setBit fo.dies d (cm != 0) })

/-- The root records a join. -/
def foldJoin (s : State) (c k : Nat) (f : Fin 16) : State :=
  let other := fun (m : FoldMember) => !(m.core == c && m.strand == k)
  let s1 := (setWave s c f true).modFold (pkgOf c) f (fun fo =>
    { fo with
      joined := fo.joined.filter other ++ [{ core := c, strand := k, base := fo.base, limit := none }]
      credJoined := fo.credJoined.filter other ++ [{ core := c, strand := k, base := fo.credBase, limit := none }] })
  s1.modStrand c k (fun x => { x with memb := setBit x.memb f.val true, rounds := smErase x.rounds f.val,
                                       credRounds := smErase x.credRounds f.val })

/-- The root no longer counts a strand: its rounds go on without it (23 R450), and so do the reductions that it has no
command for. `made` counts the strand's CRED commands. -/
def foldForget (s : State) (c k : Nat) (f : Fin 16) (made : Nat) : State :=
  let is := fun (m : FoldMember) => m.core == c && m.strand == k
  let pair := fun (m : Nat × Nat) => m != (c, k)
  let cut := fun (m : FoldMember) => if is m then { m with limit := some (m.base + made) } else m
  let last := fun (fo : Fold) => ((fo.credJoined.find? is).map (fun m => m.base + made)).getD 0
  settleFold (s.modFold (pkgOf c) f (fun fo =>
    { fo with
      joined := fo.joined.filter (fun m => !is m)
      rounds := fo.rounds.map (fun r => { r with members := r.members.filter pair })
      credJoined := (fo.credJoined.map cut).filter (fun m => !(is m && decide (made = 0)))
      cred := fo.cred.map (fun r => if last fo ≤ r.round then { r with members := r.members.filter pair } else r) }))
    (pkgOf c) f

/-- FLEAVE's effect: each mask that becomes empty is cleared, and the root no longer counts the member. -/
def foldLeave (s : State) (c k : Nat) (f : Fin 16) : State :=
  let made := ((s.strand c k).map (fun x => smGet 0 x.credRounds f.val)).getD 0
  (foldForget (setWave s c f false) c k f made).modStrand c k (fun x =>
    { x with memb := setBit x.memb f.val false, rounds := smErase x.rounds f.val, credRounds := smErase x.credRounds f.val })
def leaveFolds (s : State) (c k : Nat) (memb : BitVec 16) : State :=
  (List.finRange 16).foldl (fun st f => if bit memb f.val then foldLeave st c k f else st) s

/-- An ejection: the strand learns it at its next collective operation (02 R81). -/
def ejectMember (s : State) (c k : Nat) (f : Fin 16) : State :=
  (foldForget (setWave s c f false) c k f 0).modStrand c k (fun x =>
    { x with memb := setBit x.memb f.val false, eject := setBit x.eject f.val true, rounds := smErase x.rounds f.val,
             credRounds := smErase x.credRounds f.val })

end Sys2Proof.Machine
end

