-- ==== Sys2Proof/Machine/Ops.lean ====
section
/-! DEFINITION. The named operations that every meaning is written over: who acts, how a slot or an entry ends
(12 R254, R255), taking a trap (09 R179) and returning from one (09 R187), the end of a strand (12 R251), fetching and
checking a line (10 R202 to R206, 12 R246). -/

namespace Sys2Proof.Machine

/-! ### A strand's first state -/

/-- A context with every register zero, both loop levels free and the return stack empty (02 R63). -/
def freshStrand : Strand :=
  { s := Vector.replicate 16 0, v := Vector.replicate 32 0, k := Vector.replicate 8 0, pc := 0, l0 := LoopLevel.free,
    l1 := LoopLevel.free, rs := [], prio := 0, tm := false, ss := false, cancel := false, slot := 0, cause := 0, epc := 0,
    eva := 0, hold := 0, seq := [], capture := none, bq := [], frame := { owner := 0, num := 0 }, place := .bank,
    role := .plain, waitedFor := [], record := 0, sprio := 0, pending := none, denial := none, wait := none, ewait := none,
    prog := .none, eprog := .none, gang := none, hsync := [], served := none, memb := 0, eject := 0, rounds := [], credRounds := [], contrib := none, wdStart := 0,
    wdPending := false, wdFired := false, needTgt := false, checks := Checks.reset }

/-! ### Who acts -/

/-- The strand that acts in this turn, with the registers and the program counter its slot or entry sees. -/
structure Actor where
  core : Nat
  k : Nat
  x : Strand
  exec : Bool
  sr : Vector Word 16
  kr : Vector KWord 8
  pc : Word
  deriving DecidableEq, Repr, Inhabited

def seqHead : List SeqItem → Option SeqEntry
  | [] => none
  | .one e :: _ => some e
  | .group es idx _ :: _ => es[idx]?
/-- Captured operands leave the replay queue. -/
def dropTaken (idx : Nat) (es : List SeqEntry) : List SeqEntry :=
  es.mapIdx (fun i e => if i = idx then { e with taken := [] } else e)
/-- The sequencer after its head entry: a group goes on to its next entry or repetition (14 R292). -/
def seqPop : List SeqItem → List SeqItem
  | [] => []
  | .one _ :: t => t
  | .group es idx left :: t =>
    if idx + 1 < es.length then .group (dropTaken idx es) (idx + 1) left :: t
    else if 1 < left then .group (dropTaken idx es) 0 (left - 1) :: t else t
/-- The sequencer with its head entry changed. -/
def seqMapHead (f : SeqEntry → SeqEntry) : List SeqItem → List SeqItem
  | [] => []
  | .one e :: t => .one (f e) :: t
  | .group es idx left :: t => .group (es.mapIdx (fun i e => if i = idx then f e else e)) idx left :: t
/-- Sequencer entries in use (14 R292). -/
def seqCount (q : List SeqItem) : Nat :=
  q.foldl (fun a i => match i with
    | .one _ => a + 1
    | .group es _ _ => a + es.length) 0
def captureCount (x : Strand) : Nat := (x.capture.map (fun c => c.es.length)).getD 0
/-- The entries that a strand has in the core's sequencer, and those of its banked strands, 16 at most (01 Table 1.1). -/
def strandEntries (x : Strand) : Nat := seqCount x.seq + captureCount x
def sequenced (co : Core) : Nat := (((liveStrands co).filter (fun p => p.2.place == .bank)).map (fun p => strandEntries p.2)).sum
/-- Every earlier execute-side entry of the strand has completed. -/
def seqIdle (x : Strand) : Bool := x.seq.isEmpty && decide (captureCount x = 0) && x.gang.isNone

def State.actor (s : State) : Option Actor :=
  match s.turn.agent with
  | .slot c k =>
    (s.strand c k).map (fun x => { core := c, k := k, x := x, exec := false, sr := x.s, kr := x.k, pc := x.pc })
  | .execute c k =>
    (match s.strand c k with
      | none => none
      | some x =>
        (seqHead x.seq).map (fun e => { core := c, k := k, x := x, exec := true, sr := e.s, kr := e.k, pc := e.pc }))
  | _ => none

/-- How far the slot or entry that acts has got. -/
def Actor.prog (a : Actor) : Prog := if a.exec then a.x.eprog else a.x.prog
def setProg (s : State) (a : Actor) (p : Prog) : State :=
  s.modStrand a.core a.k (fun x => if a.exec then { x with eprog := p } else { x with prog := p })

/-- A strand's master identity (07 Table 7.6). -/
def strandIdent (co : Core) (x : Strand) : Ident := { part := co.part, cls := if x.prio = 3 then 1 else 0 }
def Actor.ident (a : Actor) (s : State) : Ident := strandIdent (s.core a.core) a.x

/-! ### How a meaning ends -/

inductive Stop where
  /-- a cause met by the slot or entry: the state with what its targets counted, and the cause -/
  | trap (s : State) (c : Cause)
  /-- the slot or entry has not completed and stands where it stood -/
  | again (s : State)
  /-- it decoded an exponent byte of 0xFF (05 R122) -/
  | park (s : State)
  /-- an error in core state has ended the strand (09 R200) -/
  | dead (s : State)
  | refuse (r : Refusal)
  deriving DecidableEq, Repr

abbrev R (α : Type) := Except Stop α

/-- What a completed slot or entry leads to: the next slot, a taken transfer, a strand that is gone, a class N cause. -/
inductive Res where
  | next (s : State)
  | jump (s : State) (t : Word)
  | gone (s : State)
  | after (s : State) (c : Cause)
  deriving DecidableEq, Repr, Inhabited

def R.next (s : State) : R Res := .ok (.next s)
def trapAt {α : Type} (s : State) (code : Code) (eva : Word) : R α := .error (.trap s { code := code, eva := eva })

/-- The slot or entry waits: since when is kept while the kind of wait stays. -/
def waitOn (now : Nat) (kind : WaitKind) (qs : List (Fin 16 × Nat)) : Option Wait → Option Wait
  | some w => some { kind := kind, since := if w.kind = kind then w.since else now, qs := qs }
  | none => some { kind := kind, since := now, qs := qs }
def markWait (s : State) (a : Actor) (kind : WaitKind) (qs : List (Fin 16 × Nat)) : State :=
  s.modStrand a.core a.k (fun x =>
    if a.exec then { x with ewait := waitOn s.now kind qs x.ewait } else { x with wait := waitOn s.now kind qs x.wait })
def stall {α : Type} (s : State) (a : Actor) (kind : WaitKind) : R α := .error (.again (markWait s a kind []))

/-! ### Scalar operands (12 R235) -/

/-- The program counter of the next slot in sequential order (10 R204). -/
def pcNext (pc : Word) : Word := if bits pc 0 3 < 4 then pc + 1 else pc + 60
/-- The slot before (12 R253). -/
def pcPrev (pc : Word) : Word := if bits pc 0 3 = 0 then pc - 60 else pc - 1
/-- The line of a program counter, and its slot. -/
def pcLine (pc : Word) : Word := setBits pc 0 6 0
def pcSlot (pc : Word) : Nat := bits pc 0 3
/-- Form-3 target (10 R214). -/
def branchTarget (pc : Word) (ofs : BitVec 37) (slot : BitVec 3) : Word :=
  setBits (pcLine pc + BitVec.ofInt 72 (64 * ofs.toInt)) 0 3 slot.toNat

def kVal (kr : Vector KWord 8) (i : Fin 8) : KWord := if i = 0 then 0xFFFF else kr[i]
def Actor.k0 (a : Actor) (i : Fin 8) : KWord := kVal a.kr i
/-- A guard on bit 0 (10 R211). -/
def Actor.guard (a : Actor) (g : Guard) : Bool := bit (a.k0 g.k) 0 != g.neg

def sregVal (sr : Vector Word 16) : SReg → Word
  | .s i => sr[i]
  | .zr => 0
def Actor.loopVal (a : Actor) : LoopReg → Word
  | .lb0 => a.x.l0.lb
  | .le0 => a.x.l0.le
  | .lc0 => if a.x.l0.busy then a.x.l0.lc.setWidth 72 else 0
  | .lb1 => a.x.l1.lb
  | .le1 => a.x.l1.le
  | .lc1 => if a.x.l1.busy then a.x.l1.lc.setWidth 72 else 0
/-- Opnd(x). -/
def Actor.opnd (a : Actor) : SSrc → Word
  | .s i => a.sr[i]
  | .imm v => v.signExtend 72
  | .zr => 0
  | .loop r => a.loopVal r
  | .pcn => pcNext a.pc
def Actor.sdata (a : Actor) : SData → Word
  | .s i => a.sr[i]
  | .zr => 0
  | .imm v => v.signExtend 72

/-! ### Check codes of registers (26 R472, R473, R475) -/

/-- The residue of a value: its 72-bit pattern modulo 15. -/
def residueOf (v : Word) : BitVec 4 := BitVec.ofNat 4 (v.toNat % 15)
/-- A write clears the tag of its register, and its check code and residue are those of the value written. -/
def Checks.wroteS (q : Checks) (i : Fin 16) (r : BitVec 4) : Checks :=
  { q with tagS := setBit q.tagS i.val false, synS := setBit q.synS i.val false, twoS := setBit q.twoS i.val false
           res := q.res.set i r }
def Checks.wroteV (q : Checks) (i : Fin 32) : Checks :=
  { q with tagV := setBit q.tagV i.val false, synV := setBit q.synV i.val false, twoV := setBit q.twoV i.val false }
def Checks.wroteK (q : Checks) (i : Fin 8) : Checks :=
  { q with tagK := setBit q.tagK i.val false, synK := setBit q.synK i.val false, twoK := setBit q.twoK i.val false }
/-- A shadow tags the destination of its primary and writes the check code of its own result, which disagrees with the data
bits (`bad`) or agrees with them. -/
def Checks.shadowS (q : Checks) (i : Fin 16) (bad : Bool) : Checks :=
  { q with tagS := setBit q.tagS i.val true, synS := setBit q.synS i.val bad, twoS := setBit q.twoS i.val false }
def Checks.shadowV (q : Checks) (i : Fin 32) (bad : Bool) : Checks :=
  { q with tagV := setBit q.tagV i.val true, synV := setBit q.synV i.val bad, twoV := setBit q.twoV i.val false }
def Checks.shadowK (q : Checks) (i : Fin 8) (bad : Bool) : Checks :=
  { q with tagK := setBit q.tagK i.val true, synK := setBit q.synK i.val bad, twoK := setBit q.twoK i.val false }
/-- The registers are written as a whole (ERET): an untagged one has a fresh check code; a tagged one keeps its tag and its
check code (R473); every residue is formed from its value. -/
def Checks.restored (q : Checks) (s : Vector Word 16) : Checks :=
  { q with synS := q.synS &&& q.tagS, synV := q.synV &&& q.tagV, synK := q.synK &&& q.tagK
           twoS := q.twoS &&& q.tagS, twoV := q.twoV &&& q.tagV, twoK := q.twoK &&& q.tagK, res := s.map residueOf }
/-- SETC FCTL changes the check mode: no tag stands, and every residue is formed from its value (R475). -/
def Checks.switched (q : Checks) (s : Vector Word 16) : Checks :=
  { q with tagS := 0, tagV := 0, tagK := 0, res := s.map residueOf }
/-- The tags with a syndrome that is not zero: a use of such a register fails (R473). -/
def Checks.badS (q : Checks) : BitVec 16 := q.tagS &&& q.synS
def Checks.badV (q : Checks) : BitVec 32 := q.tagV &&& q.synV
def Checks.badK (q : Checks) : BitVec 8 := q.tagK &&& q.synK

/-- The residue that a source carries: that of its register, or of its value. -/
def Actor.residue (a : Actor) : SSrc → Nat
  | .s i => (a.x.checks.res.get i).toNat
  | x => (a.opnd x).toNat % 15
def Actor.regResidue (a : Actor) : SReg → Nat
  | .s i => (a.x.checks.res.get i).toNat
  | .zr => 0
/-- What an upset adds to a predicted residue: 1 to 14, freely (log 10). -/
def residueUpset (s : State) : Nat := if s.turn.upset then 1 + s.turn.free.toNat % 14 else 0
/-- FCTL.CHK is RESIDUE. -/
def residueMode (s : State) (c : Nat) : Bool := bit (s.core c).fctl 9
/-- The residue with which a result `v` is written by ADD, ADDI, SUB, MUL, ADDA, SUBA, LEA or LI (R475): in RESIDUE mode
`carried`, which the operands' residues give, less the wraps by 2^w of the `exact` result of their patterns, each of which
counts 1 modulo 15. -/
def predicted (s : State) (c : Nat) (v : Word) (carried exact : Int) : BitVec 4 :=
  if residueMode s c then BitVec.ofNat 4 (((v.toNat : Int) + carried - exact + residueUpset s) % 15).toNat else residueOf v

/-- Write scalar register `i`: an execute-side write reaches the entries that issued after it (14 R268). -/
def patchEntry (i : Fin 16) (v : Word) (e : SeqEntry) : SeqEntry :=
  { e with s := e.s.set i v, badS := setBit e.badS i.val false }
def mapSeq (f : SeqEntry → SeqEntry) (q : List SeqItem) : List SeqItem :=
  q.map (fun it => match it with
    | .one e => .one (f e)
    | .group es idx left => .group (es.map f) idx left)
def Strand.mapEntries (x : Strand) (f : SeqEntry → SeqEntry) : Strand :=
  { x with seq := mapSeq f x.seq, capture := x.capture.map (fun c => { c with es := c.es.map f }) }
def Strand.putS (x : Strand) (exec : Bool) (i : Fin 16) (v : Word) : Strand :=
  let x1 := { x with s := x.s.set i v, checks := x.checks.wroteS i (residueOf v) }
  if exec then x1.mapEntries (patchEntry i v) else x1
def Strand.putK (x : Strand) (exec : Bool) (i : Fin 8) (v : KWord) : Strand :=
  if i = 0 then x
  else
    let x1 := { x with k := x.k.set i v, checks := x.checks.wroteK i }
    if exec then x1.mapEntries (fun e => { e with k := e.k.set i v, badK := setBit e.badK i.val false }) else x1
def setS (s : State) (a : Actor) (i : Fin 16) (v : Word) : State :=
  s.modStrand a.core a.k (fun x => x.putS a.exec i v)
/-- Writes to zr are discarded. -/
def setReg (s : State) (a : Actor) (d : SReg) (v : Word) : State :=
  match d with
  | .s i => setS s a i v
  | .zr => s
/-- Write the result of an instruction that predicts its residue. -/
def setPredicted (s : State) (a : Actor) (d : SReg) (v : Word) (carried exact : Int) : State :=
  match d with
  | .s i => s.modStrand a.core a.k (fun x =>
    { x with s := x.s.set i v, checks := x.checks.wroteS i (predicted s a.core v carried exact) })
  | .zr => s
/-- Writes to k0 are discarded. -/
def setK (s : State) (a : Actor) (i : Fin 8) (v : KWord) : State :=
  s.modStrand a.core a.k (fun x => x.putK a.exec i v)

/-- OR flags into the core's FSTAT (05 R131). -/
def orFlags (s : State) (c : Nat) (f : Flags) : State :=
  s.modCore c (fun co => { co with fstat := co.fstat ||| (f.setWidth 64) })

/-! ### The context record (09 R186) -/

def statusOf (x : Strand) : DWord :=
  BitVec.ofNat 64 (x.prio.toNat * 2 ^ 14 + (if x.tm then 2 ^ 13 else 0) + (if x.ss then 2 ^ 12 else 0) +
    (if x.cancel then 2 ^ 11 else 0) + x.slot.toNat * 2 ^ 6)
def tidOf (x : Strand) (k : Nat) : DWord := BitVec.ofNat 64 (x.slot.toNat * 2 ^ 5 + k % 32)

/-- Bytes of the residue: the check word and the core number, then opaque bytes (09 R188; log 9). -/
def residueBytes (check : DWord) (core key : Nat) : List Byte :=
  leBytes 8 check.toNat ++ leBytes 8 core ++ leBytes 8 key ++ (List.range 1000).map (Config.residueByte check)

/-- The record of Table 9.3. -/
def recordBytes (co : Core) (c k : Nat) (x : Strand) (cause : Cause) (epc vpc : Word) (key : Nat) (check : DWord) :
    List Byte :=
  let con := match x.contrib with
    | some q => b2n (!q.arrived) * 2 ^ 62 + b2n q.arrived * 2 ^ 61 + b2n q.outcome * 2 ^ 60 + q.fold.val * 2 ^ 56
    | none => 0
  x.s.toList.flatMap (fun (w : Word) => leBytes 16 w.toNat) ++
  leBytes 8 (bits epc 0 64) ++ leBytes 8 (statusOf x).toNat ++ leBytes 8 (cause.code.toNat * 2 ^ 58) ++
  leBytes 16 cause.eva.toNat ++ leBytes 8 co.fctl.toNat ++ leBytes 8 co.fstat.toNat ++
  (x.k.toList.drop 1).flatMap (fun (w : KWord) => leBytes 2 w.toNat) ++ leBytes 2 0 ++
  leBytes 8 (bits x.l0.lb 0 64) ++ leBytes 8 (bits x.l0.le 0 64) ++ leBytes 8 (if x.l0.busy then x.l0.lc.toNat else 0) ++
  leBytes 8 (bits x.l1.lb 0 64) ++ leBytes 8 (bits x.l1.le 0 64) ++ leBytes 8 (if x.l1.busy then x.l1.lc.toNat else 0) ++
  leBytes 8 (b2n x.l1.busy * 2 + b2n x.l0.busy) ++
  ((x.rs ++ List.replicate 8 0).take 8).flatMap (fun (w : DWord) => leBytes 8 w.toNat) ++
  leBytes 8 (min 8 x.rs.length) ++ leBytes 8 x.hold.toNat ++ leBytes 8 (tidOf x k).toNat ++ leBytes 8 (bits vpc 0 64) ++
  leBytes 8 con ++ List.replicate 24 0 ++
  x.v.toList.flatMap (fun (w : VWord) => leBytes 16 w.toNat) ++ residueBytes check c key

/-- The hardware save record of a strand index (07 Table 7.5). -/
def hardRecord (c k : Nat) : Nat := sharePa c (0x28000 + 2048 * k)
/-- The key of a residue that a save record holds, apart from those of trap records. -/
def saveKey (s : State) (k : Nat) : Nat := 2 ^ 63 + (32 * s.tick + k) % 2 ^ 63
/-- The record of each strand of a core that a step has moved to the vault save area (02 R69; 19 R388), with cause NONE: the strand
goes on from the device's own copy of its context (log 28). -/
def writeMoved (old s : State) (c : Nat) : State :=
  (liveStrands (s.core c)).foldl (fun st p =>
    if p.2.place == .saved && (old.strand c p.1).any (fun y => y.place != .saved) then
      clearPoison
        (writeBytes st (hardRecord c p.1)
          (recordBytes (s.core c) c p.1 p.2 { code := cNone, eva := 0 } p.2.pc 0 (saveKey s p.1) s.turn.free))
        (hardRecord c p.1) 2048
    else st) s

/-- The strand with every field marked Yes in Table 9.3 as the record's bytes hold it; spaces of program counters, which
the record has no room for, as the strand held them (DEDUCED, log 23). -/
def restoreRecord (x : Strand) (b : List Byte) : Strand :=
  let d := fun (ofs : Nat) => BitVec.ofNat 64 (leVal ((b.drop ofs).take 8))
  let keep := fun (old : Word) (ofs : Nat) => setBits old 0 64 (d ofs).toNat
  let lv := d 0x178
  let lc0 : BitVec 32 := (d 0x158).setWidth 32
  let lc1 : BitVec 32 := (d 0x170).setWidth 32
  let depth := min 8 (bits (d 0x1C0) 0 4)
  let s1 : Vector Word 16 := Vector.ofFn (fun i => BitVec.ofNat 72 (leVal ((b.drop (16 * i.val)).take 9)))
  { x with
    s := s1
    checks := x.checks.restored s1
    ss := bit (d 0x108) 12
    k := Vector.ofFn (fun i => if i.val = 0 then 0 else BitVec.ofNat 16 (leVal ((b.drop (0x138 + 2 * (i.val - 1))).take 2)))
    l0 := { lb := keep x.l0.lb 0x148, le := keep x.l0.le 0x150, lc := lc0, busy := bit lv 0 && lc0 != 0 }
    l1 := { lb := keep x.l1.lb 0x160, le := keep x.l1.le 0x168, lc := lc1, busy := bit lv 1 && lc1 != 0 }
    rs := (List.range depth).map (fun i => d (0x180 + 8 * i))
    hold := (d 0x1C8).setWidth 32
    v := Vector.ofFn (fun i => BitVec.ofNat 128 (leVal ((b.drop (0x200 + 16 * i.val)).take 16))) }

/-! ### Memory of a strand's own record, vector table and stack -/

/-- Translate for a strand and check R148 and R149 (07); `sup` reads as a priority-3 routine. -/
def strandLeaf (s : State) (c : Nat) (sup : Bool) (va : Word) (read write exec : Bool) : Except Code Leaf :=
  match s.leafFor c va with
  | .absent _ => .error cNotPresent
  | .denied _ => .error cDeny
  | .leaf x =>
    if x.w && x.x then .error cPermission
    else if (!read || x.r) && (!write || x.w) && (!exec || x.x) && (x.u || sup) then .ok x
    else .error cPermission

/-- The bytes that a host window gives, none where the device or the host turns the read away (07 R144; log 30). -/
def windowRead (s : State) (c : Nat) (x : Leaf) (va : Word) (n : Nat) : Option (List Byte) :=
  let w := x.window va
  if hostRefuses s (pkgOf c) (s.core c).part w.1 w.2.1 false then none
  else (List.range n).mapM (fun i => Config.hostByte s.tick (va + BitVec.ofNat 72 i))
/-- Whether a host window takes a write. -/
def windowTakes (s : State) (c : Nat) (x : Leaf) (va : Word) : Bool :=
  let w := x.window va
  !hostRefuses s (pkgOf c) (s.core c).part w.1 w.2.1 true && Config.hostTakes s.tick va

/-- The first address of the pieces of at most 64 bytes whose target denies a strand's access. -/
def pieceDenied (s : State) (pa n : Nat) (geom2 : Bool) (id : Ident) (r : Right) : Option Nat :=
  ((List.range ((n + 63) / 64)).map (fun i => pa + 64 * i)).find? (fun q => !s.admits q geom2 id r)

/-- The causes that a record's access meets before its target (07 R158), in order, with its leaf. -/
def recordLeaf (s : State) (c : Nat) (id : Ident) (va : Word) (n : Nat) (write : Bool) : Except Code Leaf :=
  match strandLeaf s c (id.cls == 1) va (!write) write false with
  | .error e => .error e
  | .ok x =>
    if !x.fmtOk then .error cFormat
    else if lockHit (s.cluster (clOf c)) (s.core c).part va.toNat n (!write) then .error cRangeLocked
    else .ok x

/-- A write of the strand that is waited for until its target has acknowledged it (09 R179, R195), performed at once at its
home (log 30): the state, or the cause and the state with what the target counted. -/
def strandStoreRaw (s : State) (c : Nat) (id : Ident) (va : Word) (bytes : List Byte) : Except (Code × State) State :=
  match recordLeaf s c id va bytes.length true with
  | .error e => .error (e, s.countWalk (s.leafFor c va) id.part)
  | .ok x =>
    let pa := x.pa va
    if spaceOf va == 0xC0 then
      if x.poison then .error (cPoison, s)
      else if windowTakes s c x va then .ok s else .error (cHostWindow, s)
    else if !livePath s (pkgOf c) (homeDie pa) then .error (if x.poison then cPoison else cRemoteTimeout, s)
    else
      match pieceDenied s pa bytes.length x.geom2 id .wr with
      | some q => .error (cDeny, s.countDenial q id.part)
      | none =>
        if x.poison then .error (cPoison, s)
        else
          match targetStore s id pa x.geom2 bytes with
          | .ok s1 _ => .ok s1
          | .fail s1 e _ => .error (e, s1)
          | .refuse _ => .error (cDeny, s)

/-- A read of `n` bytes in pieces of at most 64 as a strand's load, performed at once at its home (log 30). -/
def strandLoadRaw (s : State) (c : Nat) (id : Ident) (va : Word) (n : Nat) : Except (Code × State) (List Byte) :=
  match recordLeaf s c id va n false with
  | .error e => .error (e, s.countWalk (s.leafFor c va) id.part)
  | .ok x =>
    let pa := x.pa va
    if spaceOf va == 0xC0 then
      if x.poison then .error (cPoison, s)
      else
        match windowRead s c x va n with
        | some b => .ok b
        | none => .error (cHostWindow, s)
    else if !livePath s (pkgOf c) (homeDie pa) then .error (if x.poison then cPoison else cRemoteTimeout, s)
    else
      match pieceDenied s pa n x.geom2 id .rd with
      | some q => .error (cDeny, s.countDenial q id.part)
      | none =>
        if x.poison then .error (cPoison, s)
        else
          match targetLoad s id pa n x.geom2 with
          | .ok _ b => .ok b
          | .fail s1 e _ => .error (e, s1)
          | .refuse _ => .error (cDeny, s)

/-! ### The end of a strand (12 R251) -/

/-- The row of a core, and its barrier. -/
def rowOf (c : Nat) : Nat := c % 16 / 4
def barrierOf (s : State) (c : Nat) : Barrier := (s.cluster (clOf c)).barriers.getD (rowOf c) Barrier.reset
def setBarrier (s : State) (cl r : Nat) (b : Barrier) : State :=
  s.modCluster cl (fun x => { x with barriers := x.barriers.setIfInBounds r b })
/-- The strand's ganged operation has started and is not complete. -/
def gangStarted (s : State) (c k : Nat) : Bool := (barrierOf s c).opened && (barrierOf s c).waiting.contains (c, k)
/-- A core has such an operation. -/
def gangRuns (s : State) (c : Nat) : Bool := (barrierOf s c).opened && (barrierOf s c).waiting.any (fun m => m.1 == c)

/-- The GANG, or the operation that has started, stands in front of its strand's entries again, unexecuted (19 R385). -/
def ungang (x : Strand) : Strand :=
  match x.gang with
  | some e => { x with gang := none, seq := .one e :: x.seq }
  | none => x
/-- A released barrier or a failed opening: the cause, class V, at the GANG; a started operation that fails: at that. -/
def gangFail (s : State) (c k : Nat) (code : Code) : State :=
  s.modStrand c k (fun x =>
    let vpc := (x.gang.map (·.pc)).getD 0
    { ungang x with ewait := none, eprog := .none,
                    pending := some { cls := .v, cause := { code := code, eva := 0 }, epc := x.pc, vpc := vpc } })

/-- The strands at a row barrier that `p` names take GANG_MISMATCH, class V, and the barrier is free (19 R385). -/
def gangMismatch (s : State) (c : Nat) (p : Nat × Nat → Bool) : State :=
  ((barrierOf s c).waiting.filter p).foldl (fun st m => gangFail st m.1 m.2 cGangMismatch)
    (setBarrier s (clOf c) (rowOf c) Barrier.reset)
/-- A strand that stands at a closed row barrier and traps releases it: the strands of the row's other cores take
GANG_MISMATCH, class V, at their GANG (09 Table 9.6; 19 R385). -/
def gangRelease (s : State) (c k : Nat) : State :=
  if (barrierOf s c).waiting.contains (c, k) && !(barrierOf s c).opened then gangMismatch s c (fun m => m != (c, k)) else s
/-- A strand that ends releases the barrier too. Of a started operation it leaves only its own part, unless it stands on the
lead core, whose rows the others wait for (log 47). -/
def gangLeave (s : State) (c k : Nat) : State :=
  if gangStarted s c k then
    if c % 4 = 0 then gangMismatch s c (fun m => m != (c, k))
    else setBarrier s (clOf c) (rowOf c)
      { barrierOf s c with waiting := (barrierOf s c).waiting.filter (fun m => m != (c, k)) }
  else gangRelease s c k

/-- The strand's context, frame and folds become free; what it counted in counts a finish. -/
def dropContext (s : State) (c k : Nat) (x : Strand) (byHandler : Bool) : State :=
  let s1 := gangLeave (leaveFolds s c k x.memb) c k
  let s2 :=
    if x.frame.owner = c then s1.modCore c (fun co => { co with frames := setBit co.frames x.frame.num false })
    else sendUnit s1 c (.core x.frame.owner) clsMSG (.frameRelease x.frame.num)
  let clearSpec := fun (co : Core) => match co.spec with
    | some sp => if sp.strand = k then none else co.spec
    | none => none
  let s3 := (s2.dropStrand c k).modCore c (fun co =>
    { co with spec := clearSpec co, tileStrand := co.tileStrand.filter (fun t => t.2 != some k) })
  dropKnown (finishRole s3 c x byHandler) c

/-- The answer that a strand holds in s12 (17 R350). -/
def pendingAnswer (x : Strand) : Option DWord :=
  let h := low64 x.s[12]
  if hIsAnswer h then some h else none

/-- The end of a strand: the default notice of its answer, then its context. -/
def endStrand (s : State) (c k : Nat) (x : Strand) (st : AnswerState) (byHandler : Bool) : State :=
  let s1 := match pendingAnswer x with
    | some h => sendNotice s c (unitIdent s c) h st true
    | none => s
  dropContext s1 c k x byHandler

/-- The end without a handler (09 R199, R200): the fault record with SRC 5, the abandoned commands, the broken answer. -/
def endBare (s : State) (c k : Nat) (x : Strand) (code cause2 : Code) (va : Word) : State :=
  let part := (s.core c).part
  let s1 := countDelivery s c code part
  let s2 := postFault s1 (pkgOf c)
    { cause := code, core := c, part := part, src := 5, strand := k, va := va, cause2 := cause2, level := roleLevel s x.role }
  endStrand (abandonStaged s2 c k cAbandoned) c k x (ansBroken code c) true

/-- The end as by END in trap mode (09 R179, R181): staged commands are published; none while they find no room. -/
def endInTrap (s : State) (c k : Nat) (x : Strand) (code : Code) : Option State :=
  (publishStrand s c k none).map (fun s1 => endStrand s1 c k x (ansBroken code c) true)

/-! ### Taking a trap (09 R179, R183, R184) -/

/-- Loop levels 0 and 1 become free: lb and le keep their values. -/
def freeLevel (l : LoopLevel) : LoopLevel := { l with lc := 0, busy := false }

/-- Trap entry of strand `k`: the record below the frame, CAUSE, EPC, EVA, the vector, trap mode. A fault of the record's
write or of the vector's read, and a trap in trap mode, is a double fault. -/
def enterTrap (s : State) (c k : Nat) (x0 : Strand) (p : Pending) : State :=
  let s0 := gangRelease s c k
  let x := if gangStarted s c k then x0 else ungang x0
  let co := s0.core c
  let part := co.part
  let s1 := countDelivery s0 c p.cause.code part
  let rec_ : Word := ((x.s[14] - 2048) >>> 11) <<< 11
  let key := s.tick
  let check := s.turn.free
  let img := recordBytes co c k x p.cause p.epc p.vpc key check
  match strandStoreRaw s1 c (strandIdent co x) rec_ img with
  | .error e => endBare e.2 c k x cDoubleFault p.cause.code 0
  | .ok s2 =>
    if x.tm then endBare s2 c k x cDoubleFault p.cause.code 0
    else
      let tv := match s2.cfg c with
        | some cfg => space0 (cfg.tvbase + BitVec.ofNat 64 (8 * p.cause.code.toNat))
        | none => 0
      match strandLoadRaw s2 c { part := part, cls := 1 } tv 8 with
      | .error e => endBare e.2 c k x cDoubleFault p.cause.code 0
      | .ok vb =>
        let vec : DWord := BitVec.ofNat 64 (leVal vb)
        let s3 := match s2.cfg c with
          | some cfg =>
            if cfg.fqall then
              postFault s2 (pkgOf c)
                { cause := p.cause.code, core := c, part := part, src := 0, strand := k, va := p.cause.eva,
                  level := roleLevel s2 x.role }
            else s2
          | none => s2
        if vec = 0 then
          match endInTrap s3 c k { x with tm := true, cause := p.cause.code } p.cause.code with
          | some s4 => s4
          | none => s.setStrand c k { x with pending := some p }
        else
          let res : Residue :=
            { core := c, check := check, v := p.cls == .v, seq := x.seq, capture := x.capture, bq := x.bq }
          let x' := { x with
            cause := p.cause.code, epc := p.epc, eva := p.cause.eva, tm := true, prio := 3, ss := false
            s := x.s.set 14 rec_, checks := x.checks.wroteS 14 (residueOf rec_)
            l0 := freeLevel x.l0, l1 := freeLevel x.l1, rs := []
            pc := space0 vec, needTgt := true, seq := [], capture := none, bq := [], pending := none, wait := none
            ewait := none, prog := .none, eprog := .none, record := rec_, sprio := x.prio }
          (s3.setStrand c k x').modCore c (fun q => { q with residues := smPut q.residues key (some res) })

def Prog.isGather : Prog → Bool
  | .gather .. => true
  | _ => false

/-- A strand met a cause. On a speculative path it is deferred (09 R182); a class V cause waits while the access-side slot
waits for its loads; otherwise trap entry follows at once. -/
def raise (s : State) (c k : Nat) (cls : TrapClass) (cause : Cause) (epc vpc : Word) : State :=
  match s.strand c k with
  | none => s
  | some x =>
    let p : Pending := { cls := cls, cause := cause, epc := epc, vpc := vpc }
    if cls = .n ∧ x.pending.isSome then s
    else
    match (s.core c).spec with
    | some sp =>
      if sp.strand = k then
        if sp.deferred.isSome then s else s.modCore c (fun co => { co with spec := some { sp with deferred := some p } })
      else if cls = .v ∧ x.prog.isGather then s.setStrand c k { x with pending := some p }
      else enterTrap s c k { x with wait := none, prog := .none } p
    | none =>
      if cls = .v ∧ x.prog.isGather then s.setStrand c k { x with pending := some p }
      else enterTrap s c k { x with wait := none, prog := .none } p

/-! ### Completing a slot or an entry (12 R254, R255) -/

/-- Loop-back at a completed slot: the strand, the next program counter, whether a level looped back. -/
def loopStep (l : LoopLevel) : LoopLevel × Bool :=
  if 1 < l.lc.toNat then ({ l with lc := l.lc - 1 }, true) else ({ l with lc := 0, busy := false }, false)
def loopAt (l : LoopLevel) (pc : Word) : Bool := l.busy && l.le == pc
def loopBack (x : Strand) (pc : Word) : Strand × Word × Bool :=
  let seqPc := pcNext pc
  let try0 := fun (y : Strand) => (let r := loopStep y.l0; ({ y with l0 := r.1 }, r.2))
  let try1 := fun (y : Strand) => (let r := loopStep y.l1; ({ y with l1 := r.1 }, r.2))
  match loopAt x.l0 pc, loopAt x.l1 pc with
  | false, false => (x, seqPc, false)
  | true, false => (let r := try0 x; (r.1, if r.2 then x.l0.lb else seqPc, r.2))
  | false, true => (let r := try1 x; (r.1, if r.2 then x.l1.lb else seqPc, r.2))
  | true, true =>
    if x.l0.lb.toNat < x.l1.lb.toNat then
      let r := try1 x
      if r.2 then (r.1, x.l1.lb, true)
      else
        let q := try0 r.1
        (q.1, if q.2 then x.l0.lb else seqPc, q.2)
    else
      let r := try0 x
      if r.2 then (r.1, x.l0.lb, true)
      else
        let q := try1 r.1
        (q.1, if q.2 then x.l1.lb else seqPc, q.2)

/-- A taken BR, JMP or BRQ, a LOOP at count 0, a CBR frees every busy level whose range does not hold its target
(12 R246). -/
def freeOutside (l : LoopLevel) (t : Word) : LoopLevel :=
  if l.busy && !(decide (l.lb.toNat ≤ t.toNat) && decide (t.toNat ≤ l.le.toNat)) then freeLevel l else l
def jumpFrees (x : Strand) (t : Word) : Strand := { x with l0 := freeOutside x.l0 t, l1 := freeOutside x.l1 t }

/-- An access-side slot completes: loop-back unless it made a taken transfer; the count of issued slots; SINGLE_STEP when
SS was set as it issued. -/
def completeSlot (s : State) (a : Actor) (jump : Option Word) (after : Option Cause) : State :=
  match s.strand a.core a.k with
  | none => s
  | some x =>
    let r := match jump with
      | some t => (x, t, x.needTgt)
      | none => loopBack x a.pc
    let x' := { r.1 with pc := r.2.1, needTgt := r.2.2, wait := none, prog := .none }
    let bump := fun (sp : Spec) => if sp.strand = a.k then { sp with count := sp.count + 1 } else sp
    let s1 := (s.setStrand a.core a.k x').modCore a.core (fun co => { co with spec := co.spec.map bump })
    let s2 := s1.countCore a.core 2 1 (some (s.core a.core).part)
    match after with
    | some c => raise s2 a.core a.k .n c r.2.1 0
    | none => if a.x.ss then raise s2 a.core a.k .n { code := cSingleStep, eva := 0 } r.2.1 0 else s2

/-- A decode of 0xFF: the slot or entry stands, and the core is to park (09 R196); on a speculative path, if the path is
confirmed. -/
def markPark (s : State) (a : Actor) : State :=
  match s.strand a.core a.k with
  | none => s
  | some x =>
    let p : Pending := { cls := if a.exec then .v else .t, cause := { code := cReservedFormat, eva := 0 }, epc := x.pc,
                         vpc := if a.exec then a.pc else 0 }
    match (s.core a.core).spec with
    | some sp =>
      if sp.strand ≠ a.k then s.setStrand a.core a.k { x with pending := some p }
      else if sp.deferred.isSome then s
      else s.modCore a.core (fun co => { co with spec := some { sp with deferred := some p } })
    | none => s.setStrand a.core a.k { x with pending := some p }

abbrev Out := Host.Outcome State Fault Refusal

/-- The end of an access-side slot. -/
def finishSlot (a : Actor) (r : R Res) : Out :=
  match r with
  | .ok (.next s) => .next (completeSlot s a none none)
  | .ok (.jump s t) => .next (completeSlot s a (some t) none)
  | .ok (.gone s) => .next s
  | .ok (.after s c) => .next (completeSlot s a none (some c))
  | .error (.trap s c) => .next (raise s a.core a.k .t c a.pc 0)
  | .error (.again s) => .next s
  | .error (.park s) => .next (markPark s a)
  | .error (.dead s) => .next s
  | .error (.refuse q) => .refused q

/-- The end of an execute-side entry: it leaves the sequencer, or raises a class V cause at the strand's next access-side
slot, itself and every later entry kept. -/
def finishEntry (a : Actor) (r : R Res) : Out :=
  match r with
  | .ok (.next s) | .ok (.jump s _) | .ok (.after s _) | .ok (.gone s) =>
    .next (s.modStrand a.core a.k (fun x => { x with seq := seqPop x.seq, ewait := none, eprog := .none }))
  | .error (.trap s c) => .next (raise s a.core a.k .v c a.x.pc a.pc)
  | .error (.again s) => .next s
  | .error (.park s) => .next (markPark s a)
  | .error (.dead s) => .next s
  | .error (.refuse q) => .refused q

/-! ### Execute-side slots at issue (10 R207, 14 R292) -/

/-- A slot of the execute side enters the sequencer with its operands, and with the tags of those that disagree. -/
def enqueue (s : State) (a : Actor) (i : Instr) : R Res :=
  match s.strand a.core a.k with
  | none => .ok (.next s)
  | some x =>
    if 16 ≤ sequenced (s.core a.core) then stall s a .sequencer
    else
      let e : SeqEntry :=
        { pc := a.pc, i := i, s := x.s, k := x.k, shadowed := false, badS := x.checks.badS, badK := x.checks.badK, num := s.tick
          taken := [] }
      match x.capture with
      | none => .ok (.next (s.setStrand a.core a.k { x with seq := x.seq ++ [.one e] }))
      | some cp =>
        let es := if cp.reps = 0 then [] else cp.es ++ [e]
        if cp.left ≤ 1 then
          let q := if es.isEmpty then x.seq else x.seq ++ [.group es 0 cp.reps]
          .ok (.next (s.setStrand a.core a.k { x with seq := q, capture := none }))
        else .ok (.next (s.setStrand a.core a.k { x with capture := some { cp with left := cp.left - 1, es := es } }))

/-! ### The three frames of a meaning -/

/-- An access-side instruction: a false guard completes with no effect (10 R211). -/
def accessOp (s : State) (g : Guard) (body : Actor → R Res) : Out :=
  match s.actor with
  | none => .fault .noStrand
  | some a => if a.exec then .fault .noStrand else finishSlot a (if a.guard g then body a else .ok (.next s))

/-- An execute-side instruction: at its slot it enters the sequencer, at its turn it has its effect. -/
def executeOp (s : State) (i : Instr) (body : Actor → R Res) : Out :=
  match s.actor with
  | none => .fault .noStrand
  | some a => if a.exec then finishEntry a (body a) else finishSlot a (enqueue s a i)

/-- The tags that a shadow leaves on the destination of its primary, whose check code disagrees (`bad`) or not. -/
def modChecks (a : Actor) (f : Checks → Checks) (s : State) : State :=
  s.modStrand a.core a.k (fun x => { x with checks := f x.checks })
def tagV (i : Fin 32) (a : Actor) (bad : Bool) : State → State := modChecks a (fun q => q.shadowV i bad)
def tagK (i : Fin 8) (a : Actor) (bad : Bool) : State → State := if i = 0 then id else modChecks a (fun q => q.shadowK i bad)
def tagS (d : SReg) (a : Actor) (bad : Bool) : State → State :=
  match d with
  | .s i => modChecks a (fun q => q.shadowS i bad)
  | .zr => id
/-- A primary that writes nothing leaves its shadow nothing to tag (10 R211). -/
def tagIf (wrote : Bool) (tag : Bool → State → State) : Bool → State → State := if wrote then tag else fun _ s => s
def headShadowed (x : Strand) : Bool := ((seqHead x.seq).map (·.shadowed)).getD false
/-- The primary's entry, the last that stands at the slot before the shadow, carries its shadow from now on. -/
def markShadow (pc : Word) (q : List SeqItem) : List SeqItem :=
  q.map (fun it => match it with
    | .one e => .one (if e.pc = pc then { e with shadowed := true } else e)
    | .group es i l => .group (es.map (fun e => if e.pc = pc then { e with shadowed := true } else e)) i l)

/-- An instruction of rows 0x08 to 0x0E, which has a shadow form (14 R289): the primary enters the sequencer and has its
effect at its turn, and the shadow slot marks its primary's entry, or the destination when the entry has completed. -/
def executeShadowable (s : State) (i : Instr) (sh : Bool) (tag : Actor → Bool → State → State) (body : Actor → R Res) : Out :=
  match s.actor with
  | none => .fault .noStrand
  | some a =>
    let tagging := !residueMode s a.core
    if a.exec then
      if tagging && headShadowed a.x then
        finishEntry a (match body a with
          | .ok (.next t) => .ok (.next (tag a s.turn.upset t))
          | r => r)
      else finishEntry a (body a)
    else if sh then
      let prim := pcPrev a.pc
      let waiting := a.x.seq.any (fun it => match it with
        | .one e => e.pc == prim
        | .group es _ _ => es.any (fun e => e.pc == prim)) || (a.x.capture.any (fun c => c.es.any (fun e => e.pc == prim)))
      let mark := fun (x : Strand) =>
        { x with seq := markShadow prim x.seq,
                 capture := x.capture.map (fun c =>
                   { c with es := c.es.map (fun e => if e.pc = prim then { e with shadowed := true } else e) }) }
      finishSlot a (.ok (.next (if !tagging then s else if waiting then s.modStrand a.core a.k mark else tag a s.turn.upset s)))
    else finishSlot a (enqueue s a i)

/-- Every shadow slot of rows 0x00 to 0x02 and 0x10 to 0x14 completes and writes check bits only (10 R210, 26 R473): in
SHADOW mode the destinations it names are tagged, and in RESIDUE mode it does nothing (26 R475). -/
def shadowOp (s : State) (g : Guard) (tag : Actor → State → State) : Out :=
  accessOp s g (fun a => .ok (.next (if residueMode s a.core then s else tag a s)))
/-- An instruction of rows 0x00 to 0x02, whose shadow computes the result again: the check code of the two may disagree. -/
def shadowable (s : State) (sh : Bool) (g : Guard) (d : SReg) (body : Actor → R Res) : Out :=
  if sh then shadowOp s g (fun a => tagS d a s.turn.upset) else accessOp s g body
/-- An instruction of rows 0x10 to 0x14: a destination carries the check bits with which its data arrives (15 R325). -/
def shadowableMem (s : State) (sh : Bool) (g : Guard) (d : SReg) (body : Actor → R Res) : Out :=
  if sh then shadowOp s g (fun a => tagS d a false) else accessOp s g body

/-! ### Fetching (10 R202 to R206; 12 R246) -/

def pcShapeOk (pc : Word) : Bool := bits pc 3 3 == 0 && decide (bits pc 0 3 ≤ 4)
def slotBits (line : List Byte) (i : Nat) : SlotBits := BitVec.ofNat 96 (leVal ((line.drop (12 * i)).take 12))
def lineWord (line : List Byte) : BitVec 32 := BitVec.ofNat 32 (leVal ((line.drop 60).take 4))
/-- LP, and SP of slot `i`, agree with the line. -/
def parityOk (line : List Byte) (i : Nat) : Bool :=
  ones (lineWord line) % 2 == 0 && (ones (slotBits line i) + b2n (bit (lineWord line) (26 + i))) % 2 == 0
def tgtBit (line : List Byte) (i : Nat) : Bool := bit (lineWord line) (21 + i)
def sideBit (line : List Byte) (i : Nat) : Bool := bit (lineWord line) (15 + i)

/-- The memory causes of a fetch, in the order of 07 R158, and the leaf and line when there is none. -/
def fetchLine (s : State) (c : Nat) (x : Strand) (pc : Word) : Except Code (Leaf × List Byte) :=
  match strandLeaf s c (x.prio == 3) (pcLine pc) false false true with
  | .error e => .error e
  | .ok l =>
    let pa := l.pa (pcLine pc)
    if spaceOf pc == 0xC0 then
      if l.poison then .error cPoison
      else
        match windowRead s c l (pcLine pc) 64 with
        | some b => .ok (l, b)
        | none => .error cHostWindow
    else if !livePath s (pkgOf c) (homeDie pa) then .error (if l.poison then cPoison else cRemoteTimeout)
    else if !s.admits pa l.geom2 (strandIdent (s.core c) x) .rd then .error cDeny
    else if l.poison || (s.poisoned pa 64).isSome then .error cPoison
    else if (siteOf pa l.geom2).isMemory then .ok (l, readBytes s pa 64)
    else .error cDeny
/-- The target of a denied fetch counts it (07 R157). -/
def countFetch (s : State) (c : Nat) (x : Strand) (pc : Word) (e : Code) : State :=
  match e == cDeny, strandLeaf s c (x.prio == 3) (pcLine pc) false false true with
  | true, .ok l => s.countDenial (l.pa (pcLine pc)) (strandIdent (s.core c) x).part
  | true, .error _ => s.countWalk (s.leafFor c (pcLine pc)) (s.core c).part
  | _, _ => s

/-- A page counts as passed (10 R222). -/
def scanOk (l : Leaf) : Bool := l.scan == 1 && l.passed

/-- Whether the bracken scanner has checked a static target: it lies in the branch's page (10 R205). -/
def samePage (l : Leaf) (a b : Word) : Bool := pageOf l.big a == pageOf l.big b

/-- The checks of a transfer made by a slot (12 R246): `unchecked` says that R205 asks for TGT. -/
def checkTarget (s : State) (a : Actor) (t : Word) (unchecked : Bool) : R Unit :=
  if !pcShapeOk t then trapAt s cBranchTarget t
  else
    match fetchLine s a.core a.x t with
    | .error e => trapAt (countFetch s a.core a.x t e) e t
    | .ok (l, line) =>
      if !scanOk l then trapAt s cIllegalEncoding t
      else if !parityOk line (pcSlot t) then trapAt s cLineParity t
      else if unchecked && !tgtBit line (pcSlot t) then trapAt s cBranchTarget t
      else .ok ()

/-- A static branch's target is checked against TGT only when it lies in another page. -/
def checkStatic (s : State) (a : Actor) (t : Word) : R Unit :=
  let other := match strandLeaf s a.core true t false false false with
    | .ok l => !samePage l a.pc t
    | .error _ => true
  checkTarget s a t other

/-! ### Return from a trap (09 R187, R188) -/

def eretBody (s : State) (a : Actor) : R Res :=
  if !a.x.tm then trapAt s cPrivileged 0
  else
    match strandLoadRaw s a.core { part := (s.core a.core).part, cls := 1 } a.x.record 2048 with
    | .error e => trapAt e.2 e.1 a.x.record
    | .ok b =>
      let epc := setBits a.x.epc 0 64 (leVal ((b.drop 0x100).take 8))
      let known := epc == a.x.epc || epc == pcNext a.x.epc
      let fetched := match fetchLine s a.core a.x epc with
        | .ok r => some r.2
        | .error _ => none
      let unmarked := match fetched with
        | some line => !tgtBit line (pcSlot epc)
        | none => false
      if !pcShapeOk epc then trapAt s cBranchTarget epc
      else if !known && unmarked then trapAt s cBranchTarget epc
      else if !seqIdle a.x then stall s a .sequencer
      else
        let key := leVal ((b.drop 0x410).take 8)
        let good := match smGet none (s.core a.core).residues key with
          | some r => if r.core = a.core && (b.drop 0x400) == residueBytes r.check r.core key then some r else none
          | none => none
        match good with
        | none => .ok (.gone (endBare s a.core a.k a.x cMachineCheck 0 a.x.record))
        | some r =>
          let vskip := bit (BitVec.ofNat 64 (leVal ((b.drop 0x1E0).take 8)) : DWord) 63
          let x1 := restoreRecord a.x b
          let back := if r.v && vskip then seqPop r.seq else r.seq
          if 16 < sequenced (s.core a.core) + seqCount back + ((r.capture.map (fun cp => cp.es.length)).getD 0) then
            stall s a .sequencer
          else
          let x2 := { x1 with
            tm := false, prio := a.x.sprio, seq := back
            capture := r.capture, bq := r.bq, needTgt := !known && fetched.isNone
            wdStart := if a.x.cause = cWatchdog then s.now else x1.wdStart
            wdFired := a.x.cause != cWatchdog && x1.wdFired }
          let s1 := (s.setStrand a.core a.k x2).modCore a.core (fun co =>
            { co with residues := smErase co.residues key })
          .ok (.jump s1 epc)

end Sys2Proof.Machine
end

