-- ==== Sys2Proof/Machine/Flags.lean ====
section
/-! DEFINITION. FCTL and FSTAT: the enables and the order in which a flag traps (05 R133, R134), the commit of an
instruction's flags and draws (14 R270), and integer results (12 R238). -/

namespace Sys2Proof.Machine

/-- FCTL's enables (05 Table 5.8). -/
def enNV (fctl : DWord) : Bool := bit fctl 3
def enDZ (fctl : DWord) : Bool := bit fctl 4
def enOF (fctl : DWord) : Bool := bit fctl 5
def enUF (fctl : DWord) : Bool := bit fctl 6
def enInt (fctl : DWord) : Bool := bit fctl 7
def enCvt (fctl : DWord) : Bool := bit fctl 8

def hasFlag (f x : Flags) : Bool := f &&& x != 0

/-- What an instruction's results raise: its flags, whether one is a conversion's NV, whether signed overflow was
detected. -/
structure Raised where
  flags : Flags
  convert : Bool
  intOvf : Bool
  deriving DecidableEq, Repr, Inhabited

def Raised.none : Raised := { flags := 0, convert := false, intOvf := false }
def Raised.or (a b : Raised) : Raised :=
  { flags := a.flags ||| b.flags, convert := a.convert || b.convert, intOvf := a.intOvf || b.intOvf }
def Raised.ofFlags (f : Flags) : Raised := { flags := f, convert := false, intOvf := false }

/-- The first cause of 05 R134 whose enable is set. -/
def firstCause (fctl : DWord) (r : Raised) : Option Code :=
  if r.convert && enCvt fctl then some cConvertRange
  else if hasFlag r.flags flagNV && enNV fctl then some cArithInvalid
  else if hasFlag r.flags flagDZ && enDZ fctl then some cArithDivZero
  else if hasFlag r.flags flagOF && enOF fctl then some cArithOverflow
  else if hasFlag r.flags flagUF && enUF fctl then some cArithUnderflow
  else if r.intOvf && enInt fctl then some cIntOverflow
  else none

def setSeed (s : State) (c : Nat) (seed : BitVec 32) : State := s.modCore c (fun co => { co with seed := seed })

/-- Commit an instruction's flags and draws, or trap with neither (14 R270). -/
def commitFlags (s : State) (c : Nat) (r : Raised) (seed : BitVec 32) : R State :=
  match firstCause (s.core c).fctl r with
  | some code => trapAt s code 0
  | none => .ok (orFlags (setSeed s c seed) c r.flags)

/-! ### Integer results (12 R236, R238) -/

def wbits : IWidth → Nat
  | .w64 => 64 | .w32 => 32 | .w16 => 16 | .w8 => 8

/-- A `w`-bit pattern as it is written to a scalar register: bits [63:0] extended, bits [71:64] zero. -/
def extend72 (z : Bool) (w y : Nat) : Word :=
  if z then BitVec.ofNat 72 (y % 2 ^ w) else (BitVec.ofInt 64 (intOf true w y)).setWidth 72

/-- The end of R238 from an exact result: the pattern's register value and whether it saturated, or INT_OVERFLOW. -/
def aluResult (fctl : DWord) (w : Nat) (z sat detect : Bool) (r : Int) : Except Code (Word × Bool) :=
  let lo := intLo (!z) w
  let hi := intHi (!z) w
  if r < lo ∨ hi < r then
    if sat then .ok (extend72 z w (wrapInt w (if r < lo then lo else hi)), true)
    else if detect && !z && enInt fctl then .error cIntOverflow
    else .ok (extend72 z w (wrapInt w r), false)
  else .ok (extend72 z w (wrapInt w r), false)

end Sys2Proof.Machine
end

