-- ==== Sys2Proof/Machine/Operands.lean ====
section
/-! DEFINITION. Vector operands: lanes and lane enables (14 R265 to R269), queue operands (10 R213; 14 R294, R297), the
conversion of one element (14 Table 14.9), and the common form of a vector instruction (14 R270). -/

namespace Sys2Proof.Machine

/-! ### Lanes -/

def lane (w : Nat) (v : VWord) (i : Nat) : Nat := bits v (w * i) w
def setLane (w : Nat) (v : VWord) (i x : Nat) : VWord := setBits v (w * i) w x
def vBytes (v : VWord) : List Byte := leBytes 16 v.toNat
def vOf (b : List Byte) : VWord := BitVec.ofNat 128 (leVal b)

/-- The predicate bit that governs lane `i` of width `w` (R269). -/
def govern (w i : Nat) : Nat := if w = 4 then i / 2 else i * w / 8
/-- Lane `i` is enabled. -/
def Actor.enabled (a : Actor) (g : Guard) (w i : Nat) : Bool := bit (a.k0 g.k) (govern w i) != g.neg

/-- A small immediate in a lane (14 Table 14.4). -/
def immLane (t : LaneTy) (v : BitVec 5) : Nat :=
  if t.isInt then wrapInt t.width v.toInt else (fpEncode (laneFp t) .rn false (numOfInt v.toInt) 0).bits

/-- Destination lane type of VDOT. -/
def dotDest (t : LaneTy) : LaneTy := if t.isInt then (if t.isSigned then .i32 else .z32) else .fp32
/-- The source lane that converts into destination lane `i` of VCVT, or none where the lane is unchanged (R284). -/
def cvtSource (st dt : LaneTy) (pos i : Nat) : Option Nat :=
  if dt.lanes < st.lanes then some (pos * dt.lanes + i)
  else if pos * st.lanes ≤ i ∧ i < (pos + 1) * st.lanes then some (i - pos * st.lanes) else none

/-! ### Queue bindings -/

def slotSize (sz : BitVec 2) : Nat := 16 * 2 ^ sz.toNat
def Queue.filled (q : Queue) : Nat := (q.p - q.c).toNat
def Queue.free (q : Queue) : Nat := q.nslot - q.filled
/-- Physical address of slot `j` of the ring at `base`. -/
def Queue.slotPa (q : Queue) (base j : Nat) : Nat := base + j % q.nslot * slotSize q.sz

/-- One use of a queue: its number, its need, whether it produces. -/
structure QUse where
  q : Fin 16
  need : Nat
  produce : Bool
  deriving DecidableEq, Repr, Inhabited

/-- Legal uses: a producer on local and outbound bindings, a consumer on local and inbound ones (R297). -/
def Queue.legal (q : Queue) (produce : Bool) : Bool := q.bound && (if produce then q.dir != 1 else q.dir != 2)
def Queue.met (q : Queue) (u : QUse) : Bool := q.linked && decide (u.need ≤ (if u.produce then q.free else q.filled))

def Actor.waited (a : Actor) : List (Fin 16 × Nat) :=
  match (if a.exec then a.x.ewait else a.x.wait) with
  | some w => if w.kind = .queue then w.qs else []
  | none => []

/-- The slot that the head entry has captured for an operand (07 R174). -/
def Actor.taken (a : Actor) (q : Fin 16) (need : Nat) : Option (List Byte) :=
  if a.exec then
    ((seqHead a.x.seq).bind (fun e => e.taken.find? (fun t => t.1 == q && t.2.1 == need))).map (fun t => t.2.2)
  else none
/-- The uses that still need their queue. -/
def Actor.open (a : Actor) (us : List QUse) : List QUse :=
  us.filter (fun u => u.produce || (a.taken u.q u.need).isNone)

/-! ### The speculation buffer (02 R79) -/

/-- The bytes a load on a speculative path sees: its buffered stores over what the home holds. -/
def overlay (buf : List Access) (pa : Nat) (b : List Byte) : List Byte :=
  buf.foldl (fun acc x =>
    if x.host.isSome then acc
    else
      match x.op with
      | .store w | .push w =>
        acc.mapIdx (fun i old => if x.pa ≤ pa + i ∧ pa + i < x.pa + w.length then w.getD (pa + i - x.pa) old else old)
      | .nibble high v => acc.mapIdx (fun i old => if pa + i = x.pa then setBits old (if high then 4 else 0) 4 v.toNat else old)
      | _ => acc) b
/-- The speculation under which an actor runs. -/
def Actor.spec (a : Actor) (s : State) : Option Spec :=
  match (s.core a.core).spec with
  | some sp => if sp.strand = a.k then some sp else none
  | none => none
def specBuf (s : State) (a : Actor) : List Access := ((a.spec s).map (·.buf)).getD []
/-- A queue as the path sees it: P and C with the advances that the path holds (DEDUCED, log 45). -/
def Spec.queue (sp : Spec) (q : Fin 16) (b : Queue) : Queue :=
  sp.held.foldl (fun x h => match h with
    | .advance r true n => if r = q then { x with p := x.p + BitVec.ofNat 32 n } else x
    | .advance r false n => if r = q then { x with c := x.c + BitVec.ofNat 32 n } else x
    | _ => x) b
/-- A core's queue as its strand `k` sees it. -/
def State.queueOf (s : State) (c k : Nat) (q : Fin 16) : Queue :=
  let b := (s.core c).queues.get q
  match (s.core c).spec with
  | some sp => if sp.strand = k then sp.queue q b else b
  | none => b
def Actor.queue (a : Actor) (s : State) (q : Fin 16) : Queue := s.queueOf a.core a.k q
/-- Entries of the buffer (01 Table 1.1). -/
def specLimit : Nat := 64
def specHold (s : State) (c : Nat) (h : Held) : State :=
  s.modCore c (fun co => { co with spec := co.spec.map (fun sp => { sp with held := sp.held ++ [h] }) })
def specStore (s : State) (c : Nat) (x : Access) : State :=
  s.modCore c (fun co => { co with spec := co.spec.map (fun sp => { sp with buf := sp.buf ++ [x] }) })
/-- Send a message, or hold it on a speculative path. -/
def sendHeld (s : State) (a : Actor) (d : Dest) (cls : Nat) (m : Msg) : State :=
  if (a.spec s).isSome then specHold s a.core (.send d cls m) else sendUnit s a.core d cls m

/-! ### Waiting for queues -/

/-- Every queue that an instruction names is bound for its use, and none that it waited on has been bound anew since
(R295, R297). -/
def queuesLegal (s : State) (a : Actor) (us : List QUse) : R Unit :=
  if (a.open us).any (fun u => !(a.queue s u.q).legal u.produce ||
      a.waited.any (fun w => w.1 == u.q && w.2 != (a.queue s u.q).epoch)) then trapAt s cQueueUnconfigured 0
  else .ok ()
/-- The queues are legal and every need is met; otherwise the instruction traps or waits (R297, R300). -/
def queuesReady (s : State) (a : Actor) (us : List QUse) : R Unit :=
  (queuesLegal s a us).bind (fun _ =>
    let unmet := (a.open us).filter (fun u => !(a.queue s u.q).met u)
    if unmet.isEmpty then .ok ()
    else .error (.again (markWait s a .queue (unmet.map (fun u => (u.q, (a.queue s u.q).epoch))))))

/-! ### Slot contents -/

/-- The slot that an operand names: of need `need`, counted from C, or from P where it produces (10 R213). -/
def Queue.operandPa (b : Queue) (base need : Nat) (produce : Bool) : Nat :=
  b.slotPa base ((if produce then b.p else b.c).toNat + need - 1)

/-- The check bits of the queue slot at `pa`, as strand `k` sees them: none where no shadow slot has written them, else whether
they disagree with the data. -/
def State.slotTag (s : State) (c k pa : Nat) : Option Bool :=
  let now := smGet none (s.core c).slotTags pa
  match (s.core c).spec with
  | some sp =>
    if sp.strand = k then sp.held.foldl (fun t h => match h with
      | .tag at_ v => if at_ = pa then v else t
      | _ => t) now
    else now
  | none => now
def putSlotTag (s : State) (c pa : Nat) (t : Option Bool) : State :=
  s.modCore c (fun co => { co with slotTags := smSet none co.slotTags pa t })
/-- Set them, at the commit on a speculative path. -/
def setSlotTag (s : State) (a : Actor) (pa : Nat) (t : Option Bool) : State :=
  if (a.spec s).isSome then (if s.slotTag a.core a.k pa = t then s else specHold s a.core (.tag pa t))
  else putSlotTag s a.core pa t

/-- `n` bytes at byte `ofs` of the slot that a consumer operand of need `need` names (10 R213). -/
def queueBytes (s : State) (a : Actor) (q : Fin 16) (need ofs n : Nat) : R (List Byte) :=
  match a.taken q need with
  | some b => .ok ((b.drop ofs).take n)
  | none =>
    let b := a.queue s q
    let pa := b.operandPa b.base need false + ofs
    if (s.poisoned pa n).isSome then .error (.dead (endBare s a.core a.k a.x cMachineCheck 0 0))
    else .ok (overlay (specBuf s a) pa (readBytes s pa n))

/-- Write bytes, where `mask` is not zero, at byte `ofs` of the slot that a producer destination of need `need` names: the
own ring, or a message to the peer's ring (R297). -/
def queueStore (s : State) (a : Actor) (q : Fin 16) (need ofs : Nat) (data mask : List Byte) : State :=
  let b := a.queue s q
  if b.dir = 2 then
    let pa := b.operandPa b.peerBase need true + ofs
    sendHeld s a (.core b.peer) clsMSG (.queueWrite b.peerQ pa data mask)
  else
    let slot := b.operandPa b.base need true
    let pa := slot + ofs
    let old := overlay (specBuf s a) pa (readBytes s pa data.length)
    let new := (data.zip (mask.zip old)).map (fun x => if x.2.1 = 0 then x.2.2 else x.1)
    let s1 := setSlotTag s a slot none
    if (a.spec s).isSome then
      specStore s1 a.core (plainAccess pa 0 false 0 (.store new))
    else clearPoison (writeBytes s1 pa new) pa new.length
/-- The check bits that the shadow of a queue write leaves on its slot, in the own ring or the peer's (14 R289). -/
def tagSlot (s : State) (a : Actor) (q : Fin 16) (need : Nat) (bad : Bool) : State :=
  let b := a.queue s q
  if b.dir = 2 then sendHeld s a (.core b.peer) clsMSG (.queueTag b.peerQ (b.operandPa b.peerBase need true) bad)
  else setSlotTag s a (b.operandPa b.base need true) (some bad)
def tagVReg (d : VReg) (a : Actor) (bad : Bool) (s : State) : State :=
  match d with
  | .v i => tagV i a bad s
  | .q i n => tagSlot s a i n.toNat bad
/-- A queue write on a speculative path needs an entry of the buffer. -/
def queueRoom (s : State) (a : Actor) (n : Nat) : R Unit :=
  match a.spec s with
  | some sp => if sp.buf.length + n ≤ specLimit then .ok () else stall s a .other
  | none => .ok ()

/-! ### Vector sources and destinations -/

def srcUse : VSrc → List QUse
  | .q i n => [{ q := i, need := n.toNat, produce := false }]
  | _ => []
def regUseIn : VReg → List QUse
  | .q i n => [{ q := i, need := n.toNat, produce := false }]
  | .v _ => []
def regUseOut : VReg → List QUse
  | .q i n => [{ q := i, need := n.toNat, produce := true }]
  | .v _ => []

/-- A source operand as one 128-bit value: Val(x, i) is its lane i. -/
def vsrc (s : State) (a : Actor) (t : LaneTy) (x : VSrc) : R VWord :=
  let splat := fun (p : Nat) => (List.range t.lanes).foldl (fun v i => setLane t.width v i p) (0 : VWord)
  match x with
  | .v i => .ok a.x.v[i]
  | .q i n => (queueBytes s a i n.toNat 0 16).map vOf
  | .s i => .ok (splat (bits (a.sr.get i) 0 t.width))
  | .imm v => .ok (splat (immLane t v))
  | .zr => .ok 0
def vreg (s : State) (a : Actor) (x : VReg) : R VWord :=
  match x with
  | .v i => .ok a.x.v[i]
  | .q i n => (queueBytes s a i n.toNat 0 16).map vOf

def putV (s : State) (a : Actor) (i : Fin 32) (v : VWord) : State :=
  s.modStrand a.core a.k (fun x => { x with v := x.v.set i v, checks := x.checks.wroteV i })

/-- Write the lanes given of a destination: the others are unchanged (R269, R270). -/
def writeLanes (s : State) (a : Actor) (d : VReg) (w : Nat) (ls : List (Nat × Nat)) : R State :=
  match d with
  | .v i => .ok (if ls.isEmpty then s else putV s a i (ls.foldl (fun v l => setLane w v l.1 l.2) a.x.v[i]))
  | .q i n =>
    if ls.isEmpty then .ok s
    else
      match queueRoom s a 1 with
      | .error e => .error e
      | .ok _ =>
        let v := ls.foldl (fun v l => setLane w v l.1 l.2) (0 : VWord)
        let m := ls.foldl (fun v l => setLane w v l.1 (2 ^ w - 1)) (0 : VWord)
        .ok (queueStore s a i n.toNat 0 (vBytes v) (vBytes m))

/-! ### Lane results -/

/-- A lane's pattern and what it raised, and the LFSR state after it. -/
structure LaneRes where
  bits : Nat
  raised : Raised
  seed : BitVec 32
  deriving DecidableEq, Repr, Inhabited

def LaneRes.exact (b : Nat) (seed : BitVec 32) : LaneRes := { bits := b, raised := Raised.none, seed := seed }
def LaneRes.ofEnc (e : Enc) : LaneRes := { bits := e.bits, raised := Raised.ofFlags e.flags, seed := e.seed }

/-- The integer result of R271: narrowed, with saturation or with signed overflow detected. -/
def intLane (t : LaneTy) (sat detect : Bool) (r : Int) (seed : BitVec 32) : LaneRes :=
  let out := decide (r < intLo t.isSigned t.width) || decide (intHi t.isSigned t.width < r)
  let (b, fl) := intNarrow t.isSigned t.width sat r
  { bits := b, raised := { flags := fl, convert := false, intOvf := out && !sat && detect && t.isSigned }, seed := seed }

/-- The floating-point result of R271: an exact value with the flag of an invalid operation, encoded. -/
def fpLane (t : LaneTy) (mode : Mode) (sat : Bool) (r : Num × Flags) (seed : BitVec 32) : LaneRes :=
  if r.2 != 0 then { bits := (laneFp t).nanBits, raised := Raised.ofFlags r.2, seed := seed }
  else if r.1.isNaN then { bits := (laneFp t).nanBits, raised := Raised.none, seed := seed }
  else LaneRes.ofEnc (fpEncode (laneFp t) mode sat r.1 seed)

/-- Run the lanes in ascending order, the draws of one following those of another (05 R130, R136). -/
def runLanes (f : Nat → BitVec 32 → LaneRes) : List Nat → BitVec 32 → List (Nat × Nat) × Raised × BitVec 32
  | [], seed => ([], Raised.none, seed)
  | i :: t, seed =>
    let r := f i seed
    let q := runLanes f t r.seed
    ((i, r.bits) :: q.1, r.raised.or q.2.1, q.2.2)

/-- The enabled lanes of a type. -/
def Actor.lanes (a : Actor) (g : Guard) (t : LaneTy) : List Nat :=
  (List.range t.lanes).filter (fun i => a.enabled g t.width i)

/-- The shadow of a lane-wise instruction tags its destination when a lane is enabled. -/
def tagLanes (d : VReg) (g : Guard) (t : LaneTy) (a : Actor) : Bool → State → State :=
  tagIf (!(a.lanes g t).isEmpty) (tagVReg d a)

/-- R270: every enabled lane's result, then the flags and the destination together, or a trap with neither. -/
def vectorOp (s : State) (a : Actor) (g : Guard) (t : LaneTy) (d : VReg) (f : Nat → BitVec 32 → LaneRes) : R Res :=
  let q := runLanes f (a.lanes g t) (s.core a.core).seed
  match commitFlags s a.core q.2.1 q.2.2 with
  | .error e => .error e
  | .ok s1 => (writeLanes s1 a d t.width q.1).map Res.next

/-! ### Conversion of one element (14 Table 14.9) -/

/-- An element before its conversion: bits that move unchanged, an integer, a number. -/
inductive Elt where
  | same (b : Nat)
  | int (x : Int)
  | num (x : Num)
  deriving DecidableEq, Repr, Inhabited

/-- The value of a lane that is no block element. -/
def laneElt (t : LaneTy) (b : Nat) : Elt := if t.isInt then .int (intOf t.isSigned t.width b) else .num (fpDecode (laneFp t) b)

/-- Convert into a lane type that is no block type. -/
def eltTo (t : LaneTy) (mode : Mode) (sat : Bool) (x : Elt) (seed : BitVec 32) : LaneRes :=
  match x with
  | .same b => LaneRes.exact b seed
  | .int v =>
    if t.isInt then
      let (b, fl) := intNarrow t.isSigned t.width sat v
      { bits := b, raised := Raised.ofFlags fl, seed := seed }
    else LaneRes.ofEnc (fpEncode (laneFp t) mode sat (numOfInt v) seed)
  | .num v =>
    let e := laneEncode t mode sat v seed
    { bits := e.bits, raised := { flags := e.flags, convert := hasFlag e.flags flagNV, intOvf := false }, seed := e.seed }
def Elt.toNum : Elt → Num
  | .same b => numOfInt b
  | .int v => numOfInt v
  | .num v => v
/-- Convert into a block element against a pair. -/
def eltToBlock (four : Bool) (mode : Mode) (sat : Bool) (e0 e1 : Nat) (x : Elt) (seed : BitVec 32) : LaneRes :=
  let e := blockEncode four mode sat e0 e1 x.toNum seed
  { bits := e.bits, raised := { flags := e.flags, convert := hasFlag e.flags flagNV, intOvf := false }, seed := e.seed }

end Sys2Proof.Machine
end

