-- ==== Sys2Proof/Machine/Names.lean ====
section
/-! DEFINITION. The queues and vector registers that an instruction names, and the queues and registers on which an
access-side slot waits for earlier entries of the sequencer (10 R207; 14 R268, R295, R298). -/

namespace Sys2Proof.Machine

def seqEntries (x : Strand) : List SeqEntry :=
  x.seq.flatMap (fun it => match it with
    | .one e => [e]
    | .group es _ _ => es) ++ ((x.capture.map (·.es)).getD [])

/-! ### Queues -/

/-- The queue uses of a vector entry (10 R213, 14 R297). -/
def queueUses : Instr → List QUse
  | .vadd f | .vsub f | .vmul f => regUseOut f.d ++ srcUse f.a ++ srcUse f.b
  | .vfma f | .vfms f | .vnfma f => regUseOut f.d ++ srcUse f.a ++ srcUse f.b ++ srcUse f.c
  | .vmin f | .vmax f | .vand f | .vor f | .vxor f | .vshl f | .vshr f | .vsar f =>
    regUseOut f.d ++ srcUse f.a ++ srcUse f.b
  | .vabs f | .vneg f | .vrcp f | .vrsq f | .vexp f | .vexp2 f | .vlog2 f | .vtanh f | .vsin f | .vcos f =>
    regUseOut f.d ++ srcUse f.a
  | .vdot f => regUseOut f.d ++ srcUse f.a ++ srcUse f.b ++ (f.c.map srcUse).getD []
  | .vred f => regUseOut f.d ++ srcUse f.a
  | .vcmp f => srcUse f.a ++ (f.b.map srcUse).getD []
  | .vsel f => regUseOut f.d ++ srcUse f.a ++ srcUse f.b
  | .vperm f => regUseOut f.d ++ srcUse f.a ++ regUseIn f.b
  | .vbcast f => regUseOut f.d ++ srcUse f.a
  | .vext f => regUseIn f.a
  | .vcvt f => srcUse f.a
  | .vpack f => srcUse f.a ++ srcUse f.b
  | .vunpk f => srcUse f.a
  | _ => []
/-- The queues that an execute-side entry names, each with whether it produces (10 R213, 14 R297). -/
def queueNames (i : Instr) : List (Fin 16 × Bool) :=
  match i with
  | .mma f | .mmas f => [(f.q, false)]
  | .mrec f => [(f.q, false)]
  | .acvt f => [(f.q, true)]
  | .qadvP f => [(f.q, true)]
  | .qadvC f => [(f.q, false)]
  | _ => (queueUses i).map (fun u => (u.q, u.produce))

/-- M of a matrix operation (20 R412). -/
def maskRows (sr : Vector Word 16) : MaskSrc → Nat
  | .s i => bits (sr.get i) 0 32
  | .mask m => m.toNat
/-- Rows of A: row `m` lies in the slot that need n + m names. -/
def rowUses (q : Fin 16) (need m : Nat) : List QUse :=
  (List.range (min m 32)).map (fun j => { q := q, need := need + j, produce := false })
/-- The consumer operands that an entry captures at its first use (07 R174). -/
def consumerUses (e : SeqEntry) : List QUse :=
  match e.i with
  | .mma f | .mmas f => rowUses f.q f.need.toNat (maskRows e.s f.m)
  | .mrec f => rowUses f.q f.need.toNat (maskRows e.s f.m)
  | i => (queueUses i).filter (fun u => !u.produce)
/-- Capture the operands of a strand's head entry, once the needs of all of them are met. -/
def captureOperands (s : State) (c k : Nat) (x : Strand) (e : SeqEntry) : State :=
  let co := s.core c
  let us := consumerUses e
  let slot := fun (u : QUse) =>
    let b := s.queueOf c k u.q
    (b.operandPa b.base u.need false, slotSize b.sz)
  let ok := fun (u : QUse) =>
    let b := s.queueOf c k u.q
    let p := slot u
    b.legal false && b.met u && (s.poisoned p.1 p.2).isNone
  if e.taken.isEmpty && !us.isEmpty && x.gang.isNone && us.all ok then
    let buf := ((co.spec.filter (fun sp => sp.strand == k)).map (·.buf)).getD []
    let get := fun (u : QUse) =>
      let p := slot u
      (u.q, u.need, overlay buf p.1 (readBytes s p.1 p.2))
    s.setStrand c k { x with seq := seqMapHead (fun y => { y with taken := us.map get }) x.seq }
  else s
def earlierNames (x : Strand) (q : Fin 16) (p : Bool → Bool) : Bool :=
  (seqEntries x).any (fun e => (queueNames e.i).any (fun n => n.1 == q && p n.2))

/-! ### Vector registers -/

def vsrcRegs : VSrc → List (Fin 32 × Bool)
  | .v i => [(i, false)]
  | _ => []
def vregRegs (write : Bool) : VReg → List (Fin 32 × Bool)
  | .v i => [(i, write)]
  | .q _ _ => []
/-- The vector registers that an instruction names, each with whether it writes it. -/
def vectorNames : Instr → List (Fin 32 × Bool)
  | .vadd f | .vsub f | .vmul f => vregRegs true f.d ++ vsrcRegs f.a ++ vsrcRegs f.b
  | .vfma f | .vfms f | .vnfma f => vregRegs true f.d ++ vsrcRegs f.a ++ vsrcRegs f.b ++ vsrcRegs f.c
  | .vmin f | .vmax f | .vand f | .vor f | .vxor f | .vshl f | .vshr f | .vsar f =>
    vregRegs true f.d ++ vsrcRegs f.a ++ vsrcRegs f.b
  | .vabs f | .vneg f | .vrcp f | .vrsq f | .vexp f | .vexp2 f | .vlog2 f | .vtanh f | .vsin f | .vcos f =>
    vregRegs true f.d ++ vsrcRegs f.a
  | .vdot f => vregRegs true f.d ++ vsrcRegs f.a ++ vsrcRegs f.b ++ (f.c.map vsrcRegs).getD []
  | .vred f => vregRegs true f.d ++ vsrcRegs f.a
  | .vcmp f => vsrcRegs f.a ++ (f.b.map vsrcRegs).getD []
  | .vsel f => vregRegs true f.d ++ vsrcRegs f.a ++ vsrcRegs f.b
  | .vperm f => vregRegs true f.d ++ vsrcRegs f.a ++ vregRegs false f.b
  | .vbcast f => vregRegs true f.d ++ vsrcRegs f.a
  | .vext f => vregRegs false f.a
  | .vins f => [(f.d, true)]
  | .vcvt f => (f.d, true) :: vsrcRegs f.a
  | .vpack f => (f.d, true) :: (vsrcRegs f.a ++ vsrcRegs f.b)
  | .vunpk f => (f.d, true) :: (Fin.ofNat 32 (f.d.val + 1), true) :: vsrcRegs f.a
  | .vld f => vregRegs true f.d
  | .vst f => vregRegs false f.d
  | .vlds f => vregRegs true f.d
  | .vsts f => vregRegs false f.d
  | .vgath f => vregRegs true f.d ++ vregRegs false f.idx
  | .vscat f => vregRegs false f.d ++ vregRegs false f.idx
  | .vgathBc f => [(f.b, false)]
  | .bst f => (match f.b with
    | .v i => [(i, false)]
    | _ => [])
  | .ladw f => [(f.v, false)]
  | _ => []
/-- An access-side slot keeps slot order with the entries before it on the vector registers it names: it waits to read
one that an entry writes, and to write one that an entry names (10 R207; DEDUCED, log 25). -/
def vectorWaits (x : Strand) (i : Instr) : Bool :=
  let mine := vectorNames i
  (seqEntries x).any (fun e => (vectorNames e.i).any (fun n => mine.any (fun m => m.1 == n.1 && (m.2 || n.2))))

end Sys2Proof.Machine
end

