-- ==== Sys2Proof/Machine/Access.lean ====
section
/-! DEFINITION. The memory accesses of a strand: effective addresses (15 R307), the checks of each access in the order of
07 R158, block placement and scale addresses (05 R124 to R126), loads performed at once or gathered from other dies,
stores performed, sent or buffered (07 R157, R171; 02 R79; 09 R182), decoding and encoding by the page's format (07 R159;
15 R314). -/

namespace Sys2Proof.Machine

/-! ### Effective addresses -/

def Actor.ea (a : Actor) (m : MemOp) : Word :=
  let b : Word := match m.b with
    | some i => (sext72 (low64 (a.sr.get i))) <<< m.sc.toNat
    | none => 0
  sregVal a.sr m.a + b + m.disp.signExtend 72
def Actor.eaBase (a : Actor) (m : MemBase) : Word := sregVal a.sr m.a + m.disp.signExtend 72

/-! ### The checks of one access -/

inductive Want where
  | rd | wr | amo
  /-- a store's access to exponent pairs (05 R126) -/
  | rw
  deriving DecidableEq, Repr, Inhabited

inductive PlanErr where
  | cause (c : Cause)
  | await (va : Word)
  /-- ACCESS_TABLE_DENY by the target at `pa`, which counts it (07 R157) -/
  | denied (va : Word) (pa : Nat)
  /-- it waits for an earlier ALD or AST of its strand -/
  | order
  deriving DecidableEq, Repr, Inhabited
def planErr {α : Type} (code : Code) (va : Word) : Except PlanErr α := .error (.cause { code := code, eva := va })

def Leaf.permits (x : Leaf) (sup : Bool) (want : Want) : Bool :=
  !(x.w && x.x) && (x.u || sup) &&
  (match want with
    | .rd => x.r
    | .wr => x.w
    | .amo | .rw => x.r && x.w)
def Want.right : Want → Right
  | .rd | .rw => .rd
  | .wr => .wr
  | .amo => .amo

/-- A check that failed, where AWAIT does not stall the access. -/
def planFail {α : Type} (s : State) (a : Actor) : PlanErr → R α
  | .cause c => trapAt s c.code c.eva
  | .await va => trapAt s cNotPresent va
  | .denied va pa => trapAt (s.countDenial pa (a.ident s).part) cDeny va
  | .order => stall s a .sequencer

/-- First byte and row distance of the tile image that an ALD or AST moves (20 R415). -/
def tileImage (sr : Vector Word 16) (f : TileMemF) : Word × Nat :=
  (sr.get f.a + f.disp.signExtend 72, match f.b with
    | some i => bits (sr.get i) 0 32
    | none => 128)
/-- A byte range meets one of the 32 rows. -/
def meetsTile (sr : Vector Word 16) (f : TileMemF) (va n : Nat) : Bool :=
  let t := tileImage sr f
  (List.range 32).any (fun m =>
    let row := (t.1 + BitVec.ofNat 72 (m * t.2)).toNat
    decide (row < va + n) && decide (va < row + 128))
/-- An access-side access waits for an earlier ALD or AST of its strand that it overlaps (20 R415), or whose registers an
entry is still to write. -/
def tileWaits (a : Actor) (va n : Nat) : Bool :=
  let es := seqEntries a.x
  let open_ := es.any (fun e => match e.i with
    | .vext _ => true
    | _ => false)
  !a.exec && es.any (fun e => match e.i with
    | .ald f => open_ || meetsTile e.s f va n
    | .ast f => open_ || meetsTile e.s f va n
    | _ => false)

/-- Check the access of `n` bytes at `va`, whose alignment `align` follows from the instruction (1: none does), and whose
format rule is `rule`. `page` is what AWAIT asks: a gather stalls where a leaf that waits is not present (15 R319). Where its
target will deny the access, the target says so (07 R157), before any poison of the page (R158). -/
def planOne (s : State) (a : Actor) (va : Word) (n align : Nat) (want : Want) (page : Bool) (rule : Leaf → Option Code) :
    Except PlanErr Leaf :=
  let co := s.core a.core
  let sup := a.x.prio == 3
  if tileWaits a va.toNat n then .error .order
  else if va.toNat % align ≠ 0 then planErr cMisaligned va
  else
    match s.leafFor a.core va with
    | .absent w => if page && w then .error (.await va) else planErr cNotPresent va
    | .denied pa => .error (.denied va pa)
    | .leaf x =>
      if !x.permits sup want || (spaceOf va == 0xC0 && want == .amo) then planErr cPermission va
      else if !x.fmtOk then planErr cFormat va
      else
        match rule x with
        | some c => planErr c va
        | none =>
          if lockHit (s.cluster (clOf a.core)) co.part va.toNat n (want == .rd) then planErr cRangeLocked va
          else if spaceOf va == 0xC0 then
            let w := x.window va
            if x.poison then planErr cPoison va
            else if hostRefuses s (pkgOf a.core) co.part w.1 w.2.1 (want != .rd) then planErr cHostWindow va
            else .ok x
          else if want == .rw && !s.admits (x.pa va) x.geom2 (a.ident s) .rd then .error (.denied va (x.pa va))
          else if x.poison && s.admits (x.pa va) x.geom2 (a.ident s) want.right then planErr cPoison va
          else .ok x

/-- A scalar access without .raw needs a raw page (07 R160). -/
def ruleRaw (raw : Bool) (x : Leaf) : Option Code := if raw || x.fmt == 0 then none else some cFormat
def ruleAny (_ : Leaf) : Option Code := none

/-- The owner of a datum (07 R151). -/
def ownerOf (x : Leaf) (va : Word) : Option Nat :=
  match siteOf (x.pa va) x.geom2 with
  | .share c _ => some c
  | .hbm .. => if x.ownv then some x.owner else none
  | _ => none

def mkAccess (x : Leaf) (va : Word) (op : AccessOp) : Access :=
  let w := x.window va
  { pa := x.pa va, va := va, geom2 := x.geom2, fmt := x.fmt, host := if spaceOf va = 0xC0 then some w else none,
    owner := none, half := false, scales := [], rel := false, op := op }

/-! ### Block placement (05 R124 to R126) -/

/-- Where an element of a block page lies: its block's number in the granule, its number in the block, half-byte address
of the block's first element, half bytes from one element of the block to the next. -/
structure BlockPlace where
  k : Nat
  i : Nat
  elems : Nat
  stride : Nat
  deriving DecidableEq, Repr, Inhabited

def Leaf.four (x : Leaf) : Bool := x.fmt == 0x19
/-- The place of the element at half byte `2 × va + half`. -/
def blockPlace (x : Leaf) (va : Word) (half : Nat) : BlockPlace :=
  let eb := if x.four then 1 else 2
  let ofs := bits va 0 16
  let el := (2 * ofs + half) / eb
  let base := 2 * (x.pa va - ofs)
  if x.geom = 1 then
    let w := if x.four then 4096 else 2048
    { k := el % w, i := el / w, elems := base + el % w * eb, stride := w * eb }
  else { k := el / 32, i := el % 32, elems := base + el / 32 * 32 * eb, stride := eb }

/-- The scale base of an address space (05 R125). -/
def scaleBase (s : State) (c : Nat) (va : Word) : DWord :=
  let sp := spaceOf va
  if sp < 0x80 then
    match s.cfg c with
    | some cfg => cfg.scales.getD sp 0
    | none => 0
  else smGet 0 (s.pkg (pkgOf c)).sharedScales sp
/-- Virtual address of the pair of block `k` of the granule that holds `va`. -/
def pairVa (s : State) (c : Nat) (x : Leaf) (va : Word) (k : Nat) : Word :=
  let granule := if x.big then bits va 16 12 else 0
  let ofs := x.scale * 4096 + granule * (if x.four then 8192 else 4096) + 2 * k
  setBits va 0 64 ((scaleBase s c va) + BitVec.ofNat 64 ofs).toNat

/-- Check the scale access for `m` bytes of pairs from block `k` on (05 R126): a store's reads them and may write them. The
page's own format is not tested (log 56). -/
def planPair (s : State) (a : Actor) (x : Leaf) (va : Word) (k m : Nat) (want : Want) : Except PlanErr ScaleRange :=
  let pv := pairVa s a.core x va k
  (planOne s a pv m 1 want false ruleAny).map (fun l => { pa := l.pa pv, va := pv, len := m, geom2 := l.geom2 })

/-! ### Homes -/

/-- Performed within the step: the home lies on the strand's own die, and no other core or host executes it. -/
def Access.isLocal (x : Access) (c : Nat) : Bool :=
  x.host.isNone && x.owner.isNone && homeDie x.pa == dieOf c
/-- Where a flit for an access goes. A host window's access leaves through the port of the issuer's die. -/
def Access.dest (x : Access) (c : Nat) : Dest :=
  match x.host, x.owner with
  | some _, _ => .ue (dieOf c)
  | none, some o => .core o
  | none, none => .home x.pa

def Access.bytes (x : Access) : Nat :=
  match x.op with
  | .load n _ => n
  | .store b | .push b => b.length
  | .atomic t => t.len
  | .nibble .. => 1
  | .block _ => 16

/-- An access that a sub-byte store of this core, not yet acknowledged, holds (07 R171). -/
def heldBySubByte (s : State) (c : Nat) (x : Access) : Bool :=
  s.kept.any (fun q => q.flit.src == c && (match q.flit.msg with
    | .request y _ _ _ => y.half && decide (y.pa < x.pa + x.bytes) && decide (x.pa < y.pa + y.bytes)
    | _ => false))

/-- Unacknowledged requests of a strand. -/
def strandKept (s : State) (c k : Nat) : Bool :=
  s.kept.any (fun q => q.flit.src == c && (match q.flit.msg with
    | .request _ st _ _ => st == k
    | _ => false))
/-- A store within the die that the strand has sent and that is not yet applied: a store performed at once follows it
(07 R163). -/
def nearKept (s : State) (c k : Nat) : Bool :=
  s.kept.any (fun q => q.flit.src == c && q.flit.msg.isWrite && q.flit.dst.die == dieOf c && (match q.flit.msg with
    | .request _ st _ _ => st == k
    | _ => false))
def roomFor (s : State) (a : Actor) (xs : List Access) : Bool :=
  xs.all (fun x => s.room a.core (a.ident s) (x.dest a.core) xs.length)
def sendAccess (s : State) (a : Actor) (x : Access) (tag idx : Nat) : State :=
  send s a.core (a.ident s) (x.dest a.core) clsREQ (.request x a.k tag idx)

/-! ### Loads and atomics -/

/-- EVA of a cause found at the home: a poisoned line's address, the address of a pair, else the access's (05 R126; 26
R477). -/
def homeEva (x : Access) (c : Code) (line : Option Nat) : Word :=
  match line with
  | none => x.va
  | some l =>
    let span := if c = cPoison then 64 else 1
    let meets := fun (pa n : Nat) => decide (l < pa + n) && decide (pa < l + span)
    match (if meets x.pa x.bytes then none else x.scales.find? (fun r => meets r.pa r.len)) with
    | some r => r.va + BitVec.ofInt 72 ((l : Int) - r.pa)
    | none => if c = cPoison then x.va + BitVec.ofInt 72 ((l : Int) - x.pa) else x.va
/-- The address that a response's data name, where it carries a cause. -/
def lineIn (data : List Byte) : Option Nat := if data.isEmpty then none else some (leVal data)

/-- Perform accesses on the strand's own die in order: the state and their data, or the first cause. -/
def performAll (s : State) (a : Actor) : List Access → R (State × List (List Byte))
  | [] => .ok (s, [])
  | x :: t =>
    match performAt s (a.ident s) x with
    | .ok s1 d =>
      let d' := match x.op with
        | .load .. => overlay (specBuf s a) x.pa d
        | _ => d
      (match performAll s1 a t with
        | .ok (s2, ds) => .ok (s2, d' :: ds)
        | .error e => .error e)
    | .fail s1 c line => trapAt s1 c (homeEva x c line)
    | .refuse pa => .error (.refuse (.controlWord pa))

/-- An access of a speculative path that follows a held atomic of the path on the same bytes (02 R79). -/
def heldByAtomic (s : State) (a : Actor) (x : Access) : Bool :=
  (a.spec s).any (fun sp => !sp.confirmed && sp.held.any (fun h => match h with
    | .atomic y _ _ => decide (y.pa < x.pa + x.bytes) && decide (x.pa < y.pa + y.bytes)
    | _ => false))
/-- A load or store that writes. -/
def Access.writes (x : Access) : Bool :=
  match x.op with
  | .load .. => false
  | _ => true

/-- The answers of a gather in order, once every one has come. -/
def gathered (xs : List Access) (got : List (Nat × Option (BitVec 6) × List Byte)) :
    Option (List (Access × Option (BitVec 6) × List Byte)) :=
  (xs.zipIdx).mapM (fun p => (got.find? (fun g => g.1 == p.2)).map (fun g => (p.1, g.2.1, g.2.2)))

/-- The cause of the element after the last, which the target of the walker's entry counts when that denied the walk. -/
def failAt {α : Type} (s : State) (a : Actor) (f : Cause × Option Nat) : R α :=
  trapAt (match f.2 with
    | some pa => s.countDenial pa (a.ident s).part
    | none => s) f.1.code f.1.eva

/-- Perform or gather the loads (or the one atomic) of an instruction: the data of each access, in order. `fail` is the
cause of the element after the last of them. -/
def loadAll (s : State) (a : Actor) (xs : List Access) (fail : Option (Cause × Option Nat)) : R (State × List (List Byte)) :=
  match a.prog with
  | .gather _ ys got f =>
    (match gathered ys got with
      | none => .error (.again s)
      | some rs =>
        match rs.find? (fun r => r.2.1.isSome) with
        | some r => trapAt s (r.2.1.getD cNone) (homeEva r.1 (r.2.1.getD cNone) (lineIn r.2.2))
        | none =>
          match f with
          | some c => failAt s a c
          | none =>
            .ok (s, rs.map (fun r => match r.1.op with
              | .load .. => overlay (specBuf s a) r.1.pa r.2.2
              | _ => r.2.2)))
  | _ =>
    if xs.any (fun x => heldBySubByte s a.core x || heldByAtomic s a x || x.writes && x.isLocal a.core && nearKept s a.core a.k)
    then stall s a .response
    else if xs.all (fun x => x.isLocal a.core) then
      match performAll s a xs with
      | .error e => .error e
      | .ok r =>
        match fail with
        | some c => failAt s a c
        | none => .ok r
    else
      let far := xs.filter (fun x => !x.isLocal a.core)
      if !roomFor s a far then stall s a .other
      else
        let tag := s.tick
        let one := fun (acc : State × List (Nat × Option (BitVec 6) × List Byte)) (p : Access × Nat) =>
          if p.1.isLocal a.core then
            (match performAt acc.1 (a.ident s) p.1 with
              | .ok s1 d => (s1, acc.2 ++ [(p.2, none, d)])
              | .fail s1 c line => (s1, acc.2 ++ [(p.2, some c, leBytes 16 (line.getD p.1.pa))])
              | .refuse _ => (acc.1, acc.2 ++ [(p.2, some cDeny, [])]))
          else (sendAccess acc.1 a p.1 tag p.2, acc.2)
        let r := xs.zipIdx.foldl one (s, [])
        let s2 := setProg r.1 a (.gather tag xs r.2 fail)
        .error (.again (markWait s2 a .response []))

/-! ### Stores -/

/-- A denied store on the strand's own die: dropped, counted by its target, and reported to the core by a response
(07 R157). -/
def denyStore (s : State) (a : Actor) (x : Access) (c : Code) (line : Option Nat) : State :=
  send s a.core (a.ident s) (.core a.core) clsRSP (.response x a.k 0 0 (some c) (leBytes 16 (line.getD x.pa)))
def storeOne (s : State) (a : Actor) (x : Access) : R State :=
  if x.isLocal a.core then
    match performAt s (a.ident s) x with
    | .ok s1 _ => .ok s1
    | .fail s1 c line => .ok (denyStore s1 a x c line)
    | .refuse pa => .error (.refuse (.controlWord pa))
  else .ok (sendAccess s a x 0 0)
def storeList (s : State) (a : Actor) : List Access → R State
  | [] => .ok s
  | x :: t =>
    match storeOne s a x with
    | .ok s1 => storeList s1 a t
    | .error e => .error e

/-- A store that the speculation buffer cannot hold as one entry (09 R182): it crosses a 16-byte boundary, goes to a page of
a block format, or is a sub-byte store by another than the owner. -/
def specOverflow (x : Access) : Bool :=
  x.half || x.fmt == 0x18 || x.fmt == 0x19 || decide (x.va.toNat / 16 ≠ (x.va.toNat + x.bytes - 1) / 16)

/-- The stores of an instruction can be performed, sent or buffered now. -/
def storeReady (s : State) (a : Actor) (xs : List Access) : R Unit :=
  match a.spec s with
  | some sp =>
    (match xs.find? specOverflow with
      | some _ => trapAt s cSpecOverflow 0
      | none =>
        if sp.buf.length + xs.length ≤ specLimit ∧ ¬ xs.any (heldByAtomic s a) then .ok () else stall s a .other)
  | none =>
    if xs.any (fun x => heldBySubByte s a.core x || x.isLocal a.core && nearKept s a.core a.k) then stall s a .other
    else if !roomFor s a (xs.filter (fun x => !x.isLocal a.core)) then stall s a .other
    else .ok ()
/-- Perform, send or buffer the stores of an instruction. -/
def storeNow (s : State) (a : Actor) (xs : List Access) : R State :=
  if (a.spec s).isSome then .ok (xs.foldl (fun st x => specStore st a.core x) s) else storeList s a xs

/-! ### Ordering (07 R165, R166) -/

/-- An entry that accesses memory in program order (20 R413, R415). -/
def SeqEntry.accesses (e : SeqEntry) : Bool :=
  match e.i with
  | .ald _ | .ast _ => true
  | .mma f | .mmas f => f.chk.isSome
  | _ => false
/-- A write in flight that precedes, in its package's causal order, what its die does at time `t`: the die's clock names it
(07 R163, R165). -/
def Kept.precedes (s : State) (d t : Nat) (q : Kept) : Bool :=
  let g := dieOf q.flit.src
  q.flit.msg.isWrite && decide (g / 4 = d / 4) && decide (q.first ≤ t) &&
    clockLe (q.flit.clock.getD (g % 4) 0) ((clockOf s d).getD (g % 4) 0)
/-- What a fence, a .rel access or another release of a strand still waits for: its own requests and its entries that access
memory, and every write of its package that precedes it (07 R165, R166). The writes are those that had been issued when it
began to wait. -/
def unordered (s : State) (a : Actor) : Bool :=
  let since := match (if a.exec then a.x.ewait else a.x.wait) with
    | some w => if w.kind = .fence then w.since else s.now
    | none => s.now
  strandKept s a.core a.k || !a.exec && (seqEntries a.x).any (·.accesses) || s.kept.any (fun q => q.precedes s (dieOf a.core) since)
/-- A denial's response of the strand that has yet to reach its core. -/
def denialComing (s : State) (a : Actor) : Bool :=
  s.net.any (fun f => f.src == a.core && f.dst == .core a.core && (match f.msg with
    | .response x st _ _ (some _) _ => x.op.isStore && st == a.k
    | _ => false))
/-- What a .rel access and a fence wait for; a store denial not yet taken traps here (07 R157). -/
def releaseReady (s : State) (a : Actor) : R Unit :=
  if unordered s a || denialComing s a then stall s a .fence
  else
    match a.x.denial with
    | some c => trapAt (s.modStrand a.core a.k (fun x => { x with denial := none })) c.code c.eva
    | none => .ok ()

/-! ### Page element types (15 R314; 05 Table 5.4) -/

def pageLane (fmt : Nat) (lt : LaneTy) : LaneTy :=
  match fmt with
  | 0x01 => .i8 | 0x02 => .i16 | 0x03 => .i32 | 0x10 => .fp32 | 0x11 => .fp16 | 0x12 => .bf16 | 0x13 => .e4m3
  | 0x14 => .e5m2 | 0x15 => .e2m1 | 0x18 => .db8 | 0x19 => .db4
  | _ => lt
/-- The element type of an access: the page's, or LT on a raw page and under RAW. -/
def elemOf (fmt : Nat) (lt : LaneTy) (raw : Bool) : LaneTy := if raw then lt else pageLane fmt lt

/-- One element read from memory: `b` its bits, `pairs` the exponent bytes, `j` which pair is its own; none when it
decodes an exponent byte of 0xFF. -/
def readElt (e lt : LaneTy) (b : Nat) (pairs : List Byte) (j : Nat) : Option Elt :=
  if e = lt then some (.same b)
  else if e.isBlock then
    (blockDecode (e == .db4) (pairs.getD (2 * j) 0).toNat (pairs.getD (2 * j + 1) 0).toNat b).map Elt.num
  else some (laneElt e b)

/-- The elements of contiguous data of `n` elements, with the pairs that follow it. -/
def readElts (e lt : LaneTy) (n : Nat) (data : List Byte) : List (Option Elt) :=
  let f := (n * e.width + 7) / 8
  let v := leVal (data.take f)
  let pairs := data.drop f
  (List.range n).map (fun i =>
    readElt e lt (v / 2 ^ (i * e.width) % 2 ^ e.width) pairs (if pairs.length = 2 then 0 else i))

/-- Convert loaded elements to the lane type: R270's form with every lane enabled, class T. -/
def loadLanes (s : State) (a : Actor) (lt : LaneTy) (rm : RndField) (sat : Bool) (d : VReg) (es : List (Option Elt)) :
    R State :=
  if es.any (·.isNone) then .error (.park s)
  else
    let co := s.core a.core
    let f := fun (i : Nat) (seed : BitVec 32) => eltTo lt (modeOf rm co.fctl) sat ((es.getD i none).getD (.same 0)) seed
    let q := runLanes f (List.range es.length) co.seed
    match commitFlags s a.core q.2.1 q.2.2 with
    | .error e => .error e
    | .ok s1 => writeLanes s1 a d lt.width q.1

/-! ### Planning loads -/

/-- A plan: the accesses up to the first element that meets a cause, and that cause. -/
def planList (f : Nat → Except PlanErr Access) : List Nat → List Access × Option PlanErr
  | [] => ([], none)
  | i :: t =>
    match f i with
    | .error e => ([], some e)
    | .ok x =>
      let r := planList f t
      (x :: r.1, r.2)

/-- Stall where an awaited page is not present: the page's address, and when it was walked (15 R319). -/
def awaitPage {α : Type} (s : State) (a : Actor) (va : Word) : R α :=
  let s1 := s.modStrand a.core a.k (fun x => { x with prog := .stage s.now (va.setWidth 128) })
  .error (.again (markWait s1 a .gather []))

def causeOf : Option PlanErr → Option (Cause × Option Nat)
  | some (.cause c) => some (c, none)
  | some (.denied va pa) => some ({ code := cDeny, eva := va }, some pa)
  | _ => none
/-- Whether an access meets a cause at its target. -/
def failsNow (s : State) (a : Actor) (x : Access) : Bool :=
  x.host.isNone && (match performAt s (a.ident s) x with
    | .ok .. => false
    | _ => true)
/-- Run the plan of a load. The elements before one whose page is awaited come first, with what their targets answer. -/
def loadPlan (s : State) (a : Actor) (p : List Access × Option PlanErr) : R (State × List (List Byte)) :=
  match a.prog, p.2 with
  | .gather _ xs _ _, e =>
    (loadAll s a [] none).bind (fun r =>
      if xs.length ≤ p.1.length then
        match e with
        | some (.await va) => awaitPage r.1 a va
        | _ => if xs.length < p.1.length then .error (.again (setProg r.1 a .none)) else .ok r
      else .ok r)
  | _, some .order => stall s a .sequencer
  | _, some (.await va) => if p.1.any (failsNow s a) then loadAll s a p.1 none else awaitPage s a va
  | _, e => loadAll s a p.1 (causeOf e)

/-- One element, or `n` contiguous elements of width `e`, as one load, with the pairs a block page needs. -/
def planElems (s : State) (a : Actor) (va : Word) (lt : LaneTy) (raw : Bool) (n align : Nat) (page : Bool)
    (extra : Leaf → Option Code) : Except PlanErr Access :=
  let rule := fun (x : Leaf) =>
    match extra x with
    | some c => some c
    | none =>
      let f := n * (elemOf x.fmt lt raw).width / 8
      if va.toNat % max f 1 ≠ 0 then some cMisaligned else none
  let look := match s.leafFor a.core va with
    | .leaf x => max 1 (n * (elemOf x.fmt lt raw).width / 8)
    | .absent _ | .denied _ => 1
  match planOne s a va look align .rd page rule with
  | .error e => .error e
  | .ok x =>
    let e := elemOf x.fmt lt raw
    if e.isBlock then
      let pl := blockPlace x va 0
      let m := if x.geom = 1 then 2 * n else 2
      match planPair s a x va pl.k m .rd with
      | .error err => .error err
      | .ok q => .ok { mkAccess x va (.load look (some (q.pa, m))) with scales := [q] }
    else .ok (mkAccess x va (.load look none))

/-! ### Planning stores -/

/-- What a store writes: elements of the lane type, from a 128-bit value. -/
def storeElt (e lt : LaneTy) (b : Nat) : Elt := if e = lt then .same b else laneElt lt b

/-- Elements converted to a page type that is no block type, with flags and draws (R270's form). -/
def storeLanes (s : State) (a : Actor) (e lt : LaneTy) (rm : RndField) (sat : Bool) (is : List (Nat × Nat)) (seed : BitVec 32) :
    List (Nat × Nat) × Raised × BitVec 32 :=
  let fctl := (s.core a.core).fctl
  runLanes (fun i sd => eltTo e (modeOf rm fctl) sat (storeElt e lt ((is.find? (·.1 == i)).map (·.2) |>.getD 0)) sd)
    (is.map (·.1)) seed

/-- A non-owner's store of 4-bit elements executes on the owner core, or at the home where there is no owner (R171). -/
def ownerCore (x : Leaf) (va : Word) (c : Nat) (e : LaneTy) : Option Nat :=
  if e.width = 4 then
    match ownerOf x va with
    | some o => if o = c then none else some o
    | none => none
  else none

/-- Group elements by the block they lie in, blocks in the order of their first element. -/
def byBlock (ps : List (BlockPlace × Nat)) : List (BlockPlace × List (Nat × Nat)) :=
  ps.foldl (fun acc p =>
    if acc.any (fun q => q.1.k == p.1.k && q.1.elems == p.1.elems) then
      acc.map (fun q => if q.1.k == p.1.k && q.1.elems == p.1.elems then (q.1, q.2 ++ [(p.1.i, p.2)]) else q)
    else acc ++ [(p.1, [(p.1.i, p.2)])]) []

/-- What an encoding meets: an exponent byte of 0xFF (05 R120), or the cause of the pair's line. -/
abbrev Met := Option Cause

/-- Encoded blocks of one store: the block updates, flags and draws, or what a partial block meets at its stored pair. -/
def planBlocks (s : State) (four : Bool) (mode : Mode) (sat : Bool) (lt : LaneTy)
    (gs : List (BlockPlace × List (Nat × Nat) × ScaleRange)) (seed : BitVec 32) :
    Except Met (List BlockWrite × Raised × BitVec 32) :=
  match gs with
  | [] => .ok ([], Raised.none, seed)
  | (pl, ws, q) :: t =>
    let xs := ws.map (fun w => (w.1, (laneElt lt w.2).toNum))
    let b : BlockWrite :=
      { elems := pl.elems, stride := pl.stride, pair := q.pa, four := four, fresh := ws.length == 32, writes := xs,
        mode := mode, sat := sat, seed := seed }
    let pr := b.pairOf s
    match blockMeets s b with
    | some (_, some l) => .error (some { code := cPoison, eva := q.va + BitVec.ofInt 72 ((l : Int) - q.pa) })
    | some (_, none) => .error none
    | none =>
      let r := blockEncodeAll b pr.1 pr.2 xs seed
      (planBlocks s four mode sat lt t r.2.2).map (fun q =>
        (b :: q.1, ({ flags := r.2.1, convert := hasFlag r.2.1 flagNV, intOvf := false } : Raised).or q.2.1, q.2.2))

/-- A planned store element group: its leaf, its address, its elements (number, bits). -/
structure StorePiece where
  x : Leaf
  va : Word
  els : List (Nat × Nat)
  pairs : List (Nat × ScaleRange)
  deriving DecidableEq, Repr, Inhabited

/-- Check one piece of a vector store. -/
def planStore (s : State) (a : Actor) (va : Word) (lt : LaneTy) (raw : Bool) (els : List (Nat × Nat)) (align : Nat)
    (extra : Leaf → Option Code) : Except PlanErr StorePiece :=
  let n := els.length
  let rule := fun (x : Leaf) =>
    match extra x with
    | some c => some c
    | none =>
      let f := n * (elemOf x.fmt lt raw).width / 8
      if va.toNat % max f 1 ≠ 0 then some cMisaligned else none
  let look := match s.leafFor a.core va with
    | .leaf x => max 1 (n * (elemOf x.fmt lt raw).width / 8)
    | .absent _ | .denied _ => 1
  match planOne s a va look align .wr false rule with
  | .error e => .error e
  | .ok x =>
    if (elemOf x.fmt lt raw).isBlock then
      let pl := blockPlace x va 0
      let ks := if x.geom = 1 then (List.range n).map (fun i => pl.k + i) else [pl.k]
      let one := fun (acc : Except PlanErr (List (Nat × ScaleRange))) (k : Nat) =>
        match acc with
        | .error e => .error e
        | .ok l =>
          match planPair s a x va k 2 .rw with
          | .error e => .error e
          | .ok q => .ok (l ++ [(k, q)])
      match ks.foldl one (.ok []) with
      | .error e => .error e
      | .ok ps => .ok { x := x, va := va, els := els, pairs := ps }
    else .ok { x := x, va := va, els := els, pairs := [] }

/-- The places of a piece's elements on a block page. -/
def StorePiece.places (p : StorePiece) : List (BlockPlace × Nat) :=
  let eb := if p.x.four then 1 else 2
  p.els.zipIdx.map (fun q =>
    let h := q.2 * eb
    (blockPlace p.x (p.va + BitVec.ofNat 72 (h / 2)) (h % 2), q.1.2))

/-- Encode a piece: its access, flags and draws, or what it meets at a stored pair. -/
def encodePiece (s : State) (a : Actor) (lt : LaneTy) (raw : Bool) (rm : RndField) (sat : Bool) (p : StorePiece)
    (seed : BitVec 32) : Except Met (Access × Raised × BitVec 32) :=
  let e := elemOf p.x.fmt lt raw
  let own := ownerCore p.x p.va a.core e
  let half := decide (e.width = 4) && ownerOf p.x p.va != some a.core
  if e.isBlock then
    let gs := (byBlock p.places).map (fun g => (g.1, g.2, ((p.pairs.find? (·.1 == g.1.k)).map (·.2)).getD default))
    (planBlocks s p.x.four (modeOf rm (s.core a.core).fctl) sat lt gs seed).map (fun q =>
      ({ mkAccess p.x p.va (.block q.1) with owner := own, half := half, scales := p.pairs.map (·.2) }, q.2.1, q.2.2))
  else
    let r := storeLanes s a e lt rm sat p.els seed
    let v := r.1.zipIdx.foldl (fun acc q => acc + q.1.2 * 2 ^ (q.2 * e.width)) 0
    let nbits := p.els.length * e.width
    let op : AccessOp := if nbits < 8 then .nibble false (BitVec.ofNat 4 v) else .store (leBytes (nbits / 8) v)
    .ok ({ mkAccess p.x p.va op with owner := own, half := half }, r.2.1, r.2.2)

def encodePieces (s : State) (a : Actor) (lt : LaneTy) (raw : Bool) (rm : RndField) (sat : Bool) :
    List StorePiece → BitVec 32 → Except Met (List Access × Raised × BitVec 32)
  | [], seed => .ok ([], Raised.none, seed)
  | p :: t, seed =>
    match encodePiece s a lt raw rm sat p seed with
    | .error e => .error e
    | .ok (x, r, sd) => (encodePieces s a lt raw rm sat t sd).map (fun q => (x :: q.1, r.or q.2.1, q.2.2))

/-- Check every piece in ascending order. -/
def planPieces (f : Nat → Except PlanErr StorePiece) : List Nat → Except PlanErr (List StorePiece)
  | [] => .ok []
  | i :: t =>
    match f i with
    | .error e => .error e
    | .ok x => (planPieces f t).map (x :: ·)

/-- The 32 elements of one block, each written by a piece of its own, are a whole block (05 R120). -/
def wholeBlock (l : List StorePiece) : Bool :=
  let ps := l.flatMap (·.places)
  l.length == 32 && ps.length == 32 && (ps.map (·.1.i)).eraseDups.length == 32 &&
    ps.all (fun p => some p.1.elems == (ps.head?.map (·.1.elems)))
/-- Encode the pieces of a store: its accesses, flags and draws, or what it meets at a stored pair. -/
def encodeStore (s : State) (a : Actor) (lt : LaneTy) (raw : Bool) (rm : RndField) (sat : Bool) (l : List StorePiece)
    (seed : BitVec 32) : Except Met (List Access × Raised × BitVec 32) :=
  match l with
  | p :: _ =>
    if (elemOf p.x.fmt lt raw).isBlock && wholeBlock l then
      let all := l.flatMap (fun q => q.places)
      let gs := (byBlock all).map (fun g => (g.1, g.2, (p.pairs.head?.map (·.2)).getD default))
      (planBlocks s p.x.four (modeOf rm (s.core a.core).fctl) sat lt gs seed).map (fun q =>
        ([{ mkAccess p.x p.va (.block q.1) with
            owner := ownerCore p.x p.va a.core (elemOf p.x.fmt lt raw)
            half := p.x.four && ownerOf p.x p.va != some a.core, scales := (p.pairs.take 1).map (·.2) }],
          q.2.1, q.2.2))
    else encodePieces s a lt raw rm sat l seed
  | [] => .ok ([], Raised.none, seed)

/-- The end of a vector store: conversion, flags, then the accesses, of which `mark` marks the first as a release. -/
def storePieces (s : State) (a : Actor) (lt : LaneTy) (raw : Bool) (rm : RndField) (sat : Bool)
    (mark : List Access → List Access) (ps : Except PlanErr (List StorePiece)) : R Res :=
  match ps with
  | .error e => planFail s a e
  | .ok l =>
    match encodeStore s a lt raw rm sat l (s.core a.core).seed with
    | .error none => .error (.park s)
    | .error (some c) => trapAt s c.code c.eva
    | .ok (ys, r, seed) =>
      let xs := mark ys
      match storeReady s a xs with
      | .error e => .error e
      | .ok _ =>
        match commitFlags s a.core r seed with
        | .error e => .error e
        | .ok s1 => (storeNow s1 a xs).map Res.next

end Sys2Proof.Machine
end

