-- ==== Sys2Proof/Machine/Control.lean ====
section
/-! DEFINITION. Rows 0x05 to 0x07: transfers of control, hardware loops and system instructions (12 R245 to R262; 09 R187,
R195). -/

namespace Sys2Proof.Machine

/-- An instruction that stalls on a speculative path until the outcome has come (02 R79, 12 R262). -/
def noSpec (s : State) (a : Actor) (k : R Res) : R Res := if (a.spec s).isSome then stall s a .other else k

/-! ### Row 0x05 -/

def execNop (f : NopF) (s : State) : Out :=
  if f.exec then executeOp s (.nop f) (fun _ => .ok (.next s)) else accessOp s f.g (fun _ => .ok (.next s))

/-- A taken transfer that frees the loop levels which do not hold its target (R246). -/
def jumpTo (s : State) (a : Actor) (t : Word) : R Res :=
  .ok (.jump (s.modStrand a.core a.k (fun x => jumpFrees x t)) t)

def execBr (f : BranchF) (s : State) : Out :=
  accessOp s f.g (fun a =>
    let t := branchTarget a.pc f.ofs f.tslot
    (checkStatic s a t).bind (fun _ => jumpTo s a t))
def execJmp (f : RegF) (s : State) : Out :=
  accessOp s f.g (fun a =>
    let t := a.sr.get f.a
    (checkTarget s a t true).bind (fun _ => jumpTo s a t))

/-- A cause of a stack access is reported as the spill's or the fill's, with the access's address (R195). -/
def stackTrap {α : Type} (c : Code) (va : Word) : R α → R α
  | .error (.trap s _) => trapAt s c va
  | r => r

/-- The spill store of R195, 8 bytes .raw at s14 − 8, which its target acknowledges before the call completes. On a
speculative path it is a store of that path (R262). -/
def spillStore (s : State) (a : Actor) (va : Word) (b : List Byte) : R State :=
  stackTrap cStackSpill va
    (match a.prog, planOne s a va 8 8 .wr false ruleAny with
      | .gather .., _ => (loadAll s a [] none).map (·.1)
      | _, .error e => planFail s a e
      | _, .ok x =>
        if (a.spec s).isSome then
          let acc := mkAccess x va (.store b)
          (storeReady s a [acc]).bind (fun _ => storeNow s a [acc])
        else (loadAll s a [mkAccess x va (.push b)] none).map (·.1))

/-- The fill load of R195, 8 bytes .raw at s14. -/
def fillLoad (s : State) (a : Actor) (va : Word) : R (State × DWord) :=
  let got : R (State × List (List Byte)) :=
    match a.prog, planOne s a va 8 8 .rd false ruleAny with
    | .gather .., _ => loadAll s a [] none
    | _, .error e => planFail s a e
    | _, .ok x => loadAll s a [mkAccess x va (.load 8 none)] none
  (stackTrap cStackFill va got).map (fun r => (r.1, BitVec.ofNat 64 (leVal (r.2.headD []))))

/-- Push a return address and write s15 (R247). -/
def pushReturn (s : State) (a : Actor) : R State :=
  let ret := pcNext a.pc
  let push := fun (st : State) (low : Option Word) =>
    st.modStrand a.core a.k (fun x =>
      let x1 := match low with
        | some v => (x.putS false 14 v)
        | none => x
      { x1.putS false 15 ret with rs := (low64 ret :: x.rs).take 8 })
  if a.x.rs.length = 8 then
    let va := a.sr.get 14 - 8
    (spillStore s a va (leBytes 8 (a.x.rs.getD 7 0).toNat)).map (fun s1 => push s1 (some va))
  else .ok (push s none)

def callTo (s : State) (a : Actor) (t : Word) (check : R Unit) : R Res :=
  check.bind (fun _ => (pushReturn s a).map (fun s1 => .jump s1 t))
def execCall (f : BranchF) (s : State) : Out :=
  accessOp s f.g (fun a =>
    let t := branchTarget a.pc f.ofs f.tslot
    callTo s a t (checkStatic s a t))
def execCalli (f : RegF) (s : State) : Out :=
  accessOp s f.g (fun a =>
    let t := a.sr.get f.a
    callTo s a t (checkTarget s a t true))

/-- RET (R248). -/
def execRet (f : Bare) (s : State) : Out :=
  accessOp s f.g (fun a =>
    let tgt := fun (t : DWord) => setBits a.pc 0 64 t.toNat
    match a.x.rs with
    | t :: rest =>
      (checkTarget s a (tgt t) true).bind (fun _ =>
        .ok (.jump (s.modStrand a.core a.k (fun x => { x with rs := rest })) (tgt t)))
    | [] =>
      (fillLoad s a (a.sr.get 14)).bind (fun r =>
        (checkTarget r.1 a (tgt r.2) true).bind (fun _ =>
          .ok (.jump (setS r.1 a 14 (a.sr.get 14 + 8)) (tgt r.2)))))

/-- BRQ (R249). -/
def execBrq (f : BranchF) (s : State) : Out :=
  accessOp s f.g (fun a =>
    match a.x.bq with
    | [] => stall s a .queue
    | b :: rest =>
      let pop := fun (st : State) => st.modStrand a.core a.k (fun x => { x with bq := rest })
      if b then
        let t := branchTarget a.pc f.ofs f.tslot
        (checkStatic s a t).bind (fun _ => jumpTo (pop s) a t)
      else .ok (.next (pop s)))

/-- END (R251; 15 R327): earlier entries complete, a store denial traps, staged commands are published, then the strand
ends: in trap mode as 09 R181 says, outside it resolving a pending answer to length 0. -/
def execEndStrand (f : Bare) (s : State) : Out :=
  accessOp s f.g (fun a =>
    noSpec s a
      (if !seqIdle a.x then stall s a .sequencer
       else
        (releaseReady s a).bind (fun _ =>
          match publishStrand s a.core a.k none with
          | none => stall s a .locks
          | some s1 =>
            .ok (.gone (endStrand s1 a.core a.k a.x
              (if a.x.tm then ansBroken a.x.cause a.core else ansValue []) a.x.tm)))))

/-! ### Row 0x06 (R252, R253) -/

def loopStart (s : State) (a : Actor) (lvl : Bool) (n : Nat) (e : Word) : R Res :=
  if (if lvl then a.x.l1.busy else a.x.l0.busy) then trapAt s cLoopNesting 0
  else if n = 0 then (checkStatic s a e).bind (fun _ => jumpTo s a e)
  else
    let l : LoopLevel := { lb := pcNext a.pc, le := pcPrev e, lc := BitVec.ofNat 32 n, busy := true }
    .ok (.next (s.modStrand a.core a.k (fun x => if lvl then { x with l1 := l } else { x with l0 := l })))
def execLoopR (f : LoopF) (s : State) : Out :=
  accessOp s f.g (fun a =>
    loopStart s a f.lvl (bits (a.sr.get f.a) 0 32) (branchTarget a.pc f.ofs f.tslot))
def execLoopi (f : LoopiF) (s : State) : Out :=
  accessOp s f.g (fun a =>
    loopStart s a f.lvl f.count.toNat (branchTarget a.pc (f.lofs.signExtend 37) f.eslot))

/-! ### Row 0x07 (R256 to R261) -/

/-- TRAP completes and raises SOFTWARE_TRAP (R257). -/
def execTrapI (f : TrapF) (s : State) : Out :=
  accessOp s f.g (fun _ => .ok (.after s { code := cSoftwareTrap, eva := f.imm.setWidth 72 }))
def execEret (f : Bare) (s : State) : Out := accessOp s f.g (fun a => noSpec s a (eretBody s a))
def execBrk (f : Bare) (s : State) : Out := accessOp s f.g (fun _ => trapAt s cBreakpoint 0)

/-- FOLD (12 Table 12.14). -/
def foldWord (x : Strand) : DWord := BitVec.ofNat 64 (x.eject.toNat * 65536 + x.memb.toNat)
def controlReg (s : State) (a : Actor) : CtlReg → Word
  | .status => zext72 (statusOf a.x)
  | .cause => a.x.cause.setWidth 72
  | .epc => a.x.epc
  | .eva => a.x.eva
  | .fctl => zext72 (s.core a.core).fctl
  | .fstat => zext72 (s.core a.core).fstat
  | .tid => zext72 (tidOf a.x a.k)
  | .core => BitVec.ofNat 72 (a.core % 2 ^ 22)
  | .part => (s.core a.core).part.setWidth 72
  | .lseq => (s.core a.core).lseq.setWidth 72
  | .fold => zext72 (foldWord a.x)
  | .ladstep => (s.core a.core).ladder.step.setWidth 72
  | .seed => (s.core a.core).seed.setWidth 72
/-- GETC of FSTAT, and of LADSTEP, waits for the strand's earlier execute-side entries (R259; 21 R429). -/
def execGetc (f : GetcF) (s : State) : Out :=
  accessOp s f.g (fun a =>
    if (f.reg = .fstat ∨ f.reg = .ladstep) ∧ ¬ seqIdle a.x then stall s a .sequencer
    else .ok (.next (setReg s a f.d (controlReg s a f.reg))))

/-- A change of FCTL.CHK clears every SHD tag of the core and forms every residue anew (26 R475). -/
def switchChecks (co : Core) (changed : Bool) : Core :=
  if changed then
    { co with slotTags := [], strands := co.strands.map (fun q => (q.1, q.2.map (fun x => { x with checks := x.checks.switched x.s }))) }
  else co
/-- Reserved bits of FCTL and FSTAT read as zero and are written as zero (00 R6; 05 Tables 5.7, 5.8). -/
def execSetc (f : SetcF) (s : State) : Out :=
  accessOp s f.g (fun a =>
    let v := a.opnd f.a
    let core := fun (g : Core → Core) =>
      if seqIdle a.x then R.next (s.modCore a.core g) else stall s a .sequencer
    noSpec s a (match f.reg with
      | .status =>
        if a.x.prio ≠ 3 then trapAt s cPrivileged 0
        else R.next (s.modStrand a.core a.k (fun x => { x with ss := bit v 12 }))
      | .cause =>
        if a.x.prio ≠ 3 then trapAt s cPrivileged 0
        else R.next (s.modStrand a.core a.k (fun x => { x with cause := v.setWidth 6 }))
      | .fctl => core (fun co => switchChecks { co with fctl := low64 v &&& 0x3FF#64 } (bit co.fctl 9 != bit (low64 v) 9))
      | .fstat => core (fun co => { co with fstat := low64 v &&& 0x3F#64 })
      | .seed => core (fun co => { co with seed := if v.setWidth 32 = (0 : BitVec 32) then 1 else v.setWidth 32 })
      | _ => R.next s))

/-- TLBI (R260): a fence at package scope, then every translation cache of the package drops the selected entries. -/
def tlbi (s : State) (a : Actor) (sel : TcEntry → Bool) : R Res :=
  if a.x.prio ≠ 3 then trapAt s cPrivileged 0
  else
    noSpec s a ((releaseReady s a).bind (fun _ =>
      let part := (s.core a.core).part
      let p := pkgOf a.core
      R.next { s with cores := s.cores.map (fun q =>
        if pkgOf q.1 = p then (q.1, { q.2 with tc := q.2.tc.filter (fun e => !(e.part == part && sel e)) }) else q) }))
def execTlbiPage (f : TlbiF) (s : State) : Out :=
  accessOp s f.g (fun a => tlbi s a (fun e => pageOf e.big e.va == pageOf e.big (sregVal a.sr f.a)))
def execTlbiSpace (f : TlbiF) (s : State) : Out :=
  accessOp s f.g (fun a => tlbi s a (fun e => spaceOf e.va == spaceOf (sregVal a.sr f.a)))
def execTlbiPartition (f : Bare) (s : State) : Out := accessOp s f.g (fun a => tlbi s a (fun _ => true))

/-- SCAN (R261; 10 R218, R221): submit the page, wait for the scanner, write the result word. -/
def execScan (f : DstReg) (s : State) : Out :=
  accessOp s f.g (fun a =>
    if a.x.prio ≠ 3 then trapAt s cPrivileged 0
    else
      noSpec s a (match a.x.prog with
        | .stage 2 w => R.next (setReg s a f.d (w.setWidth 72))
        | .stage _ _ => stall s a .scan
        | _ =>
          let va := a.sr.get f.a
          let part := (s.core a.core).part
          match s.walk (pkgOf a.core) part va with
          | .absent _ => trapAt s cNotPresent va
          | .denied pa => planFail s a (.denied va pa)
          | .leaf x =>
            let r : ScanReq :=
              { core := a.core, strand := a.k, tag := s.tick, part := part, va := va, leaf := x.entry, lo := x.lo, big := x.big }
            let s1 := s.modCluster (clOf a.core) (fun c => { c with scans := c.scans ++ [r] })
            let s2 := s1.modStrand a.core a.k (fun x => { x with prog := .stage 1 (BitVec.ofNat 128 s.tick) })
            stall s2 a .scan))

end Sys2Proof.Machine
end

