-- ==== Sys2Proof/Machine/EngineOps.lean ====
section
/-! DEFINITION. Row 0x14 and the mailbox bindings of row 0x16: appends to the copy and collective-reduction engines, ESEQ,
RLQ, MBIND and MUNBIND (15 R326 to R338). -/

namespace Sys2Proof.Machine

/-! ### Appends (R327, R328) -/

def stagingLimit : Nat := 32

/-- A command that nothing has been filled in of but its place and its issuer. -/
def newCommand (s : State) (a : Actor) (eng : Fin 4) (comp : Word) (task : DWord) (op : EngineOp) (ranges : List (Nat × Nat × Bool)) :
    Command :=
  { eng := eng, seq := 0, core := a.core, strand := a.k, part := (s.core a.core).part, prio3 := a.x.prio == 3,
    level := roleLevel s a.x.role, comp := comp, task := task, op := op, ranges := ranges, registered := false,
    running := false, pub := 0, next := 0, todo := none, units := 0, missing := [], status := none, stop := false, sent := false,
    flying := [], result := [] }

/-- Steps 2 to 4 of an append: the sequence number, the ranges when the table has room, staging. When staging is full the
strand's own commands are published first; none while there is no room. -/
def appendCommand (s : State) (x : Command) : Option State :=
  let full := fun (st : State) => decide (stagingLimit ≤ (st.core x.core).staging.length)
  (if full s then publishStrand s x.core x.strand none else some s).bind (fun s1 =>
    if full s1 then none
    else
      let seq := nextSeq ((s1.core x.core).engSeq.get x.eng)
      let y := { x with seq := seq }
      let s2 := s1.modCore x.core (fun co => { co with engSeq := co.engSeq.set x.eng seq })
      match (if rangesKnown s2 y then registerRanges s2 y else none) with
      | some s3 => some (s3.modCore x.core (fun co => { co with staging := co.staging ++ [{ y with registered := true }] }))
      | none => some (s2.modCore x.core (fun co => { co with staging := co.staging ++ [y] })))

/-- The completion pair: MISALIGNED unless the word's address is 8-byte aligned (R328). -/
def completionPair (s : State) (a : Actor) (c : Option (Fin 16)) : R (Word × DWord) :=
  match c with
  | none => .ok (0, 0)
  | some i =>
    let w := a.sr.get i
    if w.toNat % 8 ≠ 0 then trapAt s cMisaligned w else .ok (w, low64 (a.sr.get (i + 1)))

/-- An append: on a speculative path it is held (R338); publishing full staging acts as ESEQ's release (R329). -/
def append (s : State) (a : Actor) (x : Command) : R Res :=
  if (a.spec s).isSome then R.next (specHold s a.core (.append x))
  else if stagingLimit ≤ (s.core a.core).staging.length ∧ unordered s a then stall s a .fence
  else
    match appendCommand s x with
    | some s1 => R.next s1
    | none => stall s a .staging

/-! ### CPY, CPY2D, REPLAY, CRED (R331 to R335) -/

def maxUnits : Nat := 2 ^ 26 - 1

/-- A copy's checks, its operation and its ranges; the destination range of a copy that changes the element width is that of
Table 15.6. -/
def copyBody (s : State) (a : Actor) (c : Option (Fin 16)) (dst src : Word) (rows rowBytes dstride sstride : Nat) : R Res :=
  if dst.toNat % 64 ≠ 0 then trapAt s cMisaligned dst
  else if src.toNat % 64 ≠ 0 then trapAt s cMisaligned src
  else if rowBytes % 64 ≠ 0 ∨ dstride % 64 ≠ 0 ∨ sstride % 64 ≠ 0 ∨ maxUnits < rows * rowBytes / 64 then
    trapAt s cMisaligned 0
  else
    (completionPair s a c).bind (fun p =>
      let op := EngineOp.cpy dst src rows rowBytes dstride sstride
      let len := (copyGeo s (pkgOf a.core) (s.core a.core).part op).drow
      let ranges :=
        if rows * rowBytes = 0 then []
        else [(src.toNat, src.toNat + (rows - 1) * sstride + rowBytes, false),
          (dst.toNat, dst.toNat + (rows - 1) * dstride + len, true)]
      append s a (newCommand s a 0 p.1 p.2 op ranges))

def execCpy (f : CpyF) (s : State) : Out :=
  shadowableMem s f.sh f.g .zr (fun a =>
    copyBody s a f.c (a.sr.get f.d) (a.sr.get f.a) 1 (a.sr.get f.b).toNat 0 0)
def execCpy2d (f : CpyF) (s : State) : Out :=
  shadowableMem s f.sh f.g .zr (fun a =>
    let p := a.sr.get f.b
    let q := a.sr.get (f.b + 1)
    copyBody s a f.c (a.sr.get f.d) (a.sr.get f.a) (bits p 32 32) (bits p 0 32) (bits q 32 32) (bits q 0 32))

def execReplay (f : ReplayF) (s : State) : Out :=
  shadowableMem s f.sh f.g .zr (fun a =>
    (completionPair s a f.c).bind (fun p =>
      append s a (newCommand s a 0 p.1 p.2 (.replay (BitVec.ofNat 32 (bits (a.sr.get f.a) 0 32))) [])))

/-- CRED (R335): the strand's number of reductions on the fold counts at the append. -/
def execCred (f : CredF) (s : State) : Out :=
  shadowableMem s f.sh f.g .zr (fun a =>
    let w := a.sr.get f.b
    let count := bits w 0 32
    let fold : Fin 16 := Fin.ofNat 16 (bits w 32 4)
    let dst := a.sr.get f.d
    let src := a.sr.get f.a
    let n := count * credSize f.fmt
    if !bit a.x.memb fold.val then trapAt s cFoldEjected 0
    else if dst.toNat % 64 ≠ 0 then trapAt s cMisaligned dst
    else if src.toNat % 64 ≠ 0 then trapAt s cMisaligned src
    else if n % 64 ≠ 0 ∨ maxUnits * 64 < n ∨ bits w 36 36 ≠ 0 then trapAt s cMisaligned 0
    else
      (completionPair s a f.c).bind (fun p =>
        let round := smGet 0 a.x.credRounds fold.val
        let ranges :=
          if count = 0 then [] else [(src.toNat, src.toNat + n, false), (dst.toNat, dst.toNat + n, true)]
        let x := newCommand s a 3 p.1 p.2 (.cred f.op f.fmt dst src count fold round) ranges
        (append s a x).map (fun r => match r with
          | .next t => .next (t.modStrand a.core a.k (fun y => { y with credRounds := smPut y.credRounds fold.val (round + 1) }))
          | q => q)))

/-! ### ESEQ and RLQ (R329, R336) -/

def execEseq (f : EseqF) (s : State) : Out :=
  shadowableMem s f.sh f.g f.d (fun a =>
    if (a.spec s).isSome then stall s a .other
    else if unordered s a then stall s a .fence
    else
      match publishStrand s a.core a.k (some f.eng) with
      | none => stall s a .locks
      | some s1 => R.next (setReg s1 a f.d (((s.core a.core).engSeq.get f.eng).setWidth 72)))

/-- Table 15.7. -/
def lockWord (l : RangeLock) : Word :=
  BitVec.ofNat 72 (l.seq.toNat * 2 ^ 32 + l.eng.val % 4 * 2 ^ 30 + b2n l.dst * 2 ^ 29 + b2n l.retained * 2 ^ 28 + 1)
def execRlqQuery (f : RlqQueryF) (s : State) : Out :=
  shadowableMem s f.sh f.g f.d (fun a =>
    let w := match lockAt (s.cluster (clOf a.core)) (s.core a.core).part (a.sr.get f.a).toNat with
      | some l => lockWord l
      | none => 0
    R.next (setReg s a f.d w))

/-- Release of a command by its engine and SEQ: the state, and whether it was found and could be released. -/
def releaseCommand (s : State) (c : Nat) (e : Fin 4) (seq : BitVec 32) : State × Bool :=
  let co := s.core c
  let is := fun (x : Command) => x.eng == e && x.seq == seq
  match co.staging.find? is, (co.chains.get e).find? is, co.retained.find? is with
  | some x, _, _ =>
    (abandonCommand (s.modCore c (fun k => { k with staging := k.staging.filter (fun y => !is y) })) x cAbandoned, true)
  | none, some x, _ =>
    if x.running then
      match x.op with
      | .cred .. => (s, false)
      | _ =>
        let mark := fun (y : Command) => if is y then { y with stop := true } else y
        (s.modCore c (fun k => { k with chains := k.chains.set e ((k.chains.get e).map mark) }), true)
    else
      (abandonCommand
        (s.modCore c (fun k => { k with chains := k.chains.set e ((k.chains.get e).filter (fun y => !is y)) })) x cAbandoned,
        true)
  | none, none, some x =>
    (abandonCommand (s.modCore c (fun k => { k with retained := k.retained.filter (fun y => !is y) })) x cAbandoned, true)
  | none, none, none => (s, false)
def execRlqRelease (f : RlqReleaseF) (s : State) : Out :=
  shadowableMem s f.sh f.g f.d (fun a =>
    if (a.spec s).isSome then stall s a .other
    else
      let r := releaseCommand s a.core f.eng (BitVec.ofNat 32 (bits (a.sr.get f.a) 0 32))
      R.next (setReg r.1 a f.d (if r.2 then 1 else 0)))

/-! ### Mailbox bindings (R337; 02 R70, R71) -/

def State.mailbox (s : State) (c m : Nat) : Mailbox := smGet Mailbox.reset (s.core c).mailboxes m
def setMailbox (s : State) (c m : Nat) (b : Mailbox) : State :=
  s.modCore c (fun co => { co with mailboxes := smPut co.mailboxes m b })

/-- A mailbox message starts a strand in a routine slot. -/
def dispatchMail (s : State) (c : Nat) (slot : BitVec 5) (m : MailMsg) : State :=
  queueStart s c slot
    { Start.plain s.now with
      s8 := zext72 (m.args.getD 0 0), s9 := zext72 (m.args.getD 1 0), s10 := zext72 (m.args.getD 2 0)
      s11 := zext72 (m.args.getD 3 0), s13 := m.s13, part := m.part }

/-- Translate an address as a load or store, with the causes of its translation alone (07 R147 to R149). -/
def translate (s : State) (a : Actor) (va : Word) (read write : Bool) : R Leaf :=
  match strandLeaf s a.core (a.x.prio == 3) va read write false with
  | .error e => trapAt s e va
  | .ok x => if x.fmtOk then .ok x else trapAt s cFormat va

/-- The mailbox of the issuing core's own position that an address names. -/
def ownMailbox (s : State) (a : Actor) (va : Word) : R Nat :=
  (translate s a va true false).bind (fun x =>
    match siteOf (x.pa va) x.geom2 with
    | .mailbox cl pos ofs =>
      if pos < 16 ∧ cl * 16 + pos = a.core ∧ spaceOf va ≠ 0xC0 then .ok (ofs / 4096) else trapAt s cDeny va
    | _ => trapAt s cDeny va)

def execMbind (f : MbindF) (s : State) : Out :=
  accessOp s f.g (fun a =>
    let va := a.sr.get f.a
    if (a.spec s).isSome then stall s a .other
    else
      (ownMailbox s a va).bind (fun m =>
        let b := s.mailbox a.core m
        match b.bind with
        | .pipeline _ _ => trapAt s cDeny va
        | _ =>
          let s1 := setMailbox s a.core m { bind := .slot f.slot, parked := [] }
          R.next (b.parked.foldl (fun st x => dispatchMail st a.core f.slot x) s1)))
def execMunbind (f : RegF) (s : State) : Out :=
  accessOp s f.g (fun a =>
    if (a.spec s).isSome then stall s a .other
    else
      (ownMailbox s a (a.sr.get f.a)).bind (fun m =>
        let b := s.mailbox a.core m
        R.next (if b.bind = .none then s else setMailbox s a.core m { b with bind := .none })))

end Sys2Proof.Machine
end

