-- ==== Sys2Proof/Machine/Invoke.lean ====
section
/-! DEFINITION. Row 0x15: invocations, sends, answers, objects, migration, hold and release (17 R342 to R359, R377). -/

namespace Sys2Proof.Machine

/-! ### Handle checks (R344) -/

/-- Check(h): `obj` and `ans` say which kinds the instruction accepts. -/
def checkHandle (s : State) (a : Actor) (h : DWord) (obj ans : Bool) : R Unit :=
  if 2 ≤ hKind h then trapAt s cHandleKind 0
  else if h = 0 then trapAt s cHandleStale 0
  else if (hKind h = 0 ∧ !obj) ∨ (hKind h = 1 ∧ !ans) then trapAt s cHandleKind 0
  else if hIsAnswer h ∧ hHome h = a.core ∧ slotGen s a.core (hSlot h) ≠ hGen h then trapAt s cHandleStale 0
  else .ok ()

/-- The argument words sB..B+3, or four zeros. -/
def argWords (a : Actor) : ArgRegs → List DWord
  | .base i => (List.range 4).map (fun j => low64 (a.sr.get (Fin.ofNat 16 (i.val + j))))
  | .zr => [0, 0, 0, 0]

/-- INVOKE, INVOKEN and SEND stay at issue while an HSYNC holds them (R353). -/
def heldBySync (s : State) (a : Actor) : R Unit := if a.x.hsync.isEmpty then .ok () else stall s a .hsync

/-! ### INVOKE, INVOKEN, SEND (R345, R346) -/

def invokeDest (t : DWord) : Nat := if hIsAnswer t then hCompute t else hOwner t
def invocationOf (s : State) (a : Actor) (t : DWord) (m : BitVec 8) (b : ArgRegs) (ans : DWord) : Invocation :=
  { target := t, method := m, args := argWords a b, ans := ans, sender := a.core, part := (s.core a.core).part }

def execInvoke (f : InvokeF) (s : State) : Out :=
  accessOp s f.g (fun a =>
    let t := low64 (a.sr.get f.a)
    (checkHandle s a t true true).bind (fun _ =>
      (heldBySync s a).bind (fun _ =>
        match takeSlot s a.core (invokeDest t) with
        | none => trapAt s cAnswerFull 0
        | some (ans, s1) =>
          let s2 := sendHeld s1 a (.core (invokeDest t)) clsMSG (.invocation (invocationOf s a t f.method f.b ans))
          R.next (setReg s2 a f.d (zext72 ans)))))
def execInvoken (f : InvokenF) (s : State) : Out :=
  accessOp s f.g (fun a =>
    let t := low64 (a.sr.get f.a)
    (checkHandle s a t true true).bind (fun _ =>
      (heldBySync s a).bind (fun _ =>
        R.next (sendHeld s a (.core (invokeDest t)) clsMSG (.invocation (invocationOf s a t f.method f.b 0))))))

/-- SEND to a mailbox: its core or, at position 16, its shepherd. -/
def execSendMailbox (f : SendMboxF) (s : State) : Out :=
  accessOp s f.g (fun a =>
    let va := a.sr.get f.a
    (heldBySync s a).bind (fun _ =>
      (translate s a va false true).bind (fun x =>
        let pa := x.pa va
        match siteOf pa x.geom2 with
        | .mailbox cl pos _ =>
          if spaceOf va = 0xC0 then trapAt s cDeny va
          else
            let d : Dest := if pos < 16 then .core (cl * 16 + pos) else .shepherd cl
            R.next (sendHeld s a d clsMSG (.mailbox pa (argWords a f.b) (BitVec.ofNat 72 a.core)))
        | _ => trapAt s cDeny va)))
def execSendActive (f : SendActF) (s : State) : Out :=
  accessOp s f.g (fun a =>
    (heldBySync s a).bind (fun _ =>
      R.next (sendHeld s a (.core (bits (a.sr.get f.a) 0 22)) clsMSG
        (.active f.slot (low64 (a.sr.get f.c)) (argWords a f.b)))))

/-! ### RESOLVE and BREAK (R348, R349) -/

/-- A notice of the strand to HOME and COMPUTE, held on a speculative path. -/
def strandNotice (s : State) (a : Actor) (h : DWord) (st : AnswerState) : State :=
  if (a.spec s).isSome then
    let m : Msg := if st.broken then .broken h st false else .resolution h st false
    let s1 := sendHeld s a (.core (hHome h)) clsNTC m
    if hCompute h = hHome h then s1 else sendHeld s1 a (.core (hCompute h)) clsNTC m
  else sendNotice s a.core (unitIdent s a.core) h st false

/-- `len` bytes of S[B], S[B+1] and so on. -/
def valueBytes (a : Actor) (b : SReg) (len : Nat) : List Byte :=
  match b with
  | .s i => ((List.range ((len + 7) / 8)).flatMap (fun j =>
      leBytes 8 (low64 (a.sr.get (Fin.ofNat 16 (i.val + j)))).toNat)).take len
  | .zr => []

def execResolveValue (f : ResolveF) (s : State) : Out :=
  accessOp s f.g (fun a =>
    let h := low64 (a.sr.get f.a)
    (checkHandle s a h false true).bind (fun _ =>
      R.next (strandNotice s a h (ansValue (valueBytes a f.b f.len.toNat)))))
def execResolveObject (f : Reg2) (s : State) : Out :=
  accessOp s f.g (fun a =>
    let h := low64 (a.sr.get f.a)
    let v := low64 (a.sr.get f.b)
    (checkHandle s a h false true).bind (fun _ =>
      if hKind v ≠ 0 ∨ v = 0 then trapAt s cHandleKind 0 else R.next (strandNotice s a h (ansObject v))))
def execBreakAnswer (f : BreakF) (s : State) : Out :=
  accessOp s f.g (fun a =>
    let h := low64 (a.sr.get f.a)
    (checkHandle s a h false true).bind (fun _ => R.next (strandNotice s a h (ansBroken f.cause a.core))))

/-! ### WHEN, HSTAT, HGET, HSYNC, HRETIRE (R351 to R354) -/

/-- The task record that a registered continuation takes (R352, R367; its fields are log 26's). -/
def fillContinuation (s : State) (pa c : Nat) (pc : Word) (slot : BitVec 5) : State :=
  let s1 := writeD s pa (BitVec.ofNat 64 (c % 2 ^ 22 * 2 ^ 32 + 1))
  let s2 := writeD s1 (pa + 8) (low64 pc)
  let s3 := writeBytes s2 (pa + 0x10) (List.replicate 32 0)
  let s4 := writeD s3 (pa + 0x30) (BitVec.ofNat 64 (c % 2 ^ 22 * 32 + slot.toNat))
  writeD s4 (pa + 0x38) 0

def execWhen (f : WhenF) (s : State) : Out :=
  accessOp s f.g (fun a =>
    noSpec s a
      (let h := low64 (a.sr.get f.a)
       let pc := branchTarget a.pc f.ofs f.tslot
       (checkHandle s a h false true).bind (fun _ =>
         match freeTask s (clOf a.core) with
         | none => stall s a .task
         | some pa =>
           let s1 := fillContinuation s pa a.core pc a.x.slot
           let st := registeredState s a.core h
           if 2 ≤ st.state.toNat then
             let w := fun (i : Nat) => zext72 ((contArgs h st).getD i 0)
             R.next (queueContinuation s1 a.core pa pc a.x.slot (w 0) (w 1) (w 2) h)
           else
             match registerWaiter s1 a.core h with
             | none => stall s a .task
             | some s2 =>
               R.next (s2.modCore a.core (fun co => { co with pib := co.pib ++ [.cont h pa pc a.x.slot false] })))))

def execHstat (f : DstReg) (s : State) : Out :=
  accessOp s f.g (fun a =>
    let h := low64 (a.sr.get f.a)
    (checkHandle s a h false true).bind (fun _ =>
      R.next (setReg s a f.d (zext72 (statusWord (hGen h) (knownState s a.core h))))))

def execHget (f : HgetF) (s : State) : Out :=
  accessOp s f.g (fun a =>
    let h := low64 (a.sr.get f.a)
    (checkHandle s a h false true).bind (fun _ =>
      let st := knownState s a.core h
      let good := st.state == 2 || st.state == 3
      let v : Word := if good then BitVec.ofNat 72 (leVal ((st.body.drop (8 * f.word.toNat)).take 8)) else 0
      let s1 := setReg s a f.d v
      R.next (match f.c with
        | some k => setK s1 a k (if good then 0xFFFF else 0)
        | none => s1)))

def execHsync (f : RegF) (s : State) : Out :=
  accessOp s f.g (fun a =>
    noSpec s a
      (let h := low64 (a.sr.get f.a)
       (checkHandle s a h false true).bind (fun _ =>
         let y : SyncHold := { ans := h, core := a.core, strand := a.k, since := s.now }
         let s1 := sendUnit s a.core (.core (hCompute h)) clsNTC (.hsync y)
         R.next (s1.modStrand a.core a.k (fun x => { x with hsync := x.hsync ++ [y] })))))

/-- HRETIRE: what waits on the slot at this core learns HANDLE_STALE, the slot is freed under its next GEN, and the COMPUTE
core is told (02 R45). -/
def retireSlot (s : State) (c : Nat) (h : DWord) : State :=
  let st := ansBroken cHandleStale c
  let s1 := settleArgs (startConts s c h st) c h st
  let s2 := setSlot s1 c (hSlot h) (hGen h + 1) ansFree
  sendUnit s2 c (.core (hCompute h)) clsMSG (.retire h)
def execHretire (f : RegF) (s : State) : Out :=
  accessOp s f.g (fun a =>
    noSpec s a
      (let h := low64 (a.sr.get f.a)
       (checkHandle s a h false true).bind (fun _ =>
         if hHome h ≠ a.core then trapAt s cHandleStale 0 else R.next (retireSlot s a.core h))))

/-! ### OBJNEW and OBJFREE (R355 to R357) -/

/-- The pieces of a range page by page: address and length. -/
def pagePieces (va : Word) (n : Nat) : List (Word × Nat) :=
  let first := 2 ^ 16 - va.toNat % 2 ^ 16
  if n ≤ first then [(va, n)]
  else
    (va, first) :: (List.range ((n - first + 2 ^ 16 - 1) / 2 ^ 16)).map (fun i =>
      (va + BitVec.ofNat 72 (first + 2 ^ 16 * i), min (2 ^ 16) (n - first - 2 ^ 16 * i)))
/-- A piece lies in ordinary memory of the core's own share, or on a page that it owns (R356 item 4). -/
def ownPiece (x : Leaf) (c : Nat) (va : Word) (n : Nat) : Bool :=
  (x.ownv && x.owner == c) ||
  (match siteOf (x.pa va) x.geom2 with
    | .share d ofs => d == c && !hardwareRange c ofs && !hardwareRange c (ofs + n - 1)
    | _ => false)

def planObject (s : State) (a : Actor) : List (Word × Nat) → Except PlanErr (List (Word × Nat × Leaf))
  | [] => .ok []
  | (va, n) :: t =>
    match planOne s a va n 1 .wr false (fun x => if x.r then none else some cPermission) with
    | .error e => .error e
    | .ok x => (planObject s a t).map ((va, n, x) :: ·)

/-- A write of a core's message unit. -/
def unitWrite (s : State) (c : Nat) (va : Word) (bytes : List Byte) : Except Code State :=
  let p := pkgOf c
  let part := (s.core c).part
  match s.walk p part va with
  | .absent _ => .error cNotPresent
  | .denied _ => .error cDeny
  | .leaf x =>
    if !x.w || x.x then .error cPermission
    else if s.unitAdmits c (x.pa va) x.geom2 part .wr then devWrite s p part va bytes else .error cDeny

/-- The lowest free index from `i` on, none when the directory is full. -/
def freeIndex (s : State) (c : Nat) (cfg : PartCfg) : Nat → Nat → Except (Code × Word) (Option Nat)
  | _, 0 => .ok none
  | i, n + 1 =>
    match unitRead s c (dirVa cfg c i + 16) with
    | .error e => .error (e, dirVa cfg c i + 16)
    | .ok w => if bit w 63 then freeIndex s c cfg (i + 1) n else .ok (some i)

def execObjnew (f : ObjnewF) (s : State) : Out :=
  accessOp s f.g (fun a =>
    noSpec s a
      (let base := a.sr.get f.a
       let size := (a.sr.get f.b).toNat
       let zero : R Res := R.next (setS s a f.d 0)
       if base.toNat % 64 ≠ 0 then trapAt s cMisaligned base
       else if size = 0 ∨ 2 ^ 40 ≤ size then zero
       else
         match planObject s a (pagePieces base size) with
         | .error e => planFail s a e
         | .ok ps =>
           match ps.find? (fun p => !ownPiece p.2.2 a.core p.1 p.2.1) with
           | some p => trapAt s cDeny p.1
           | none =>
             match s.cfg a.core with
             | none => zero
             | some cfg =>
               match freeIndex s a.core cfg 1 (cfg.dircap - 1) with
               | .error e => trapAt s e.1 e.2
               | .ok none => zero
               | .ok (some i) =>
                 let w := 2 ^ 63 + f.cls.toNat * 2 ^ 40 + size
                 match unitWrite s a.core (dirVa cfg a.core i)
                   (leBytes 16 base.toNat ++ leBytes 8 w ++ List.replicate 8 0) with
                 | .error e => trapAt s e (dirVa cfg a.core i)
                 | .ok s1 => R.next (setS s1 a f.d (zext72 (objectHandle a.core i f.cls.toNat)))))

def execObjfree (f : RegF) (s : State) : Out :=
  accessOp s f.g (fun a =>
    noSpec s a
      (let h := low64 (a.sr.get f.a)
       (checkHandle s a h true false).bind (fun _ =>
         match s.cfg a.core with
         | none => trapAt s cHandleStale 0
         | some cfg =>
           if hOwner h ≠ a.core ∨ hIndex h = 0 ∨ cfg.dircap ≤ hIndex h then trapAt s cHandleStale 0
           else
             let va := dirVa cfg a.core (hIndex h) + 16
             match unitRead s a.core va with
             | .error e => trapAt s e va
             | .ok w =>
               if !bit w 63 || bits w 40 12 != hClass h then trapAt s cHandleStale 0
               else
                 match unitWrite s a.core va (leBytes 8 (setBit w 63 false).toNat) with
                 | .error e => trapAt s e va
                 | .ok s1 => R.next s1)))

/-! ### MIGR, MIGRA, HOLD, RELEASE (R358, R359; 02 R62) -/

/-- Spill the return stack, oldest entry first: the state and s14, or STACK_SPILL_FAULT with the address. -/
def spillAll (s : State) (a : Actor) (sp : Word) : List DWord → R (State × Word)
  | [] => .ok (s, sp)
  | w :: t =>
    let va := sp - 8
    if va.toNat % 8 ≠ 0 then trapAt s cStackSpill va
    else
      match strandStoreRaw s a.core (a.ident s) va (leBytes 8 w.toNat) with
      | .error e => trapAt e.2 cStackSpill va
      | .ok s1 => spillAll s1 a va t

/-- The context of R60 as it leaves, at its MIGR. -/
def contextOf (a : Actor) (sp : Word) : Context :=
  { s := a.x.s.set 14 sp, k := a.x.k, pc := a.pc, l0 := a.x.l0, l1 := a.x.l1, prio := a.x.prio, tm := a.x.tm, ss := a.x.ss
    cancel := a.x.cancel, slot := a.x.slot, frame := a.x.frame, role := a.x.role, wdStart := a.x.wdStart, wdFired := a.x.wdFired
    part := 0, hsync := a.x.hsync }

def migrate (s : State) (a : Actor) (dest : Nat) : R Res :=
  if dest = a.core then R.next s
  else if !seqIdle a.x then trapAt s cMigrate 0
  else
    (releaseReady s a).bind (fun _ =>
      (spillAll s a (a.sr.get 14) a.x.rs.reverse).bind (fun r =>
        match publishStrand r.1 a.core a.k none with
        | none => stall s a .locks
        | some s1 =>
          let s2 := leaveFolds s1 a.core a.k a.x.memb
          let c := { contextOf a r.2 with part := (s.core a.core).part }
          let s3 := sendUnit s2 a.core (.core dest) clsMSG (.context c)
          let s4 := (s3.dropStrand a.core a.k).countCore a.core 2 1 (some (s.core a.core).part)
          .ok (.gone (dropKnown s4 a.core))))
def execMigr (f : RegF) (s : State) : Out :=
  accessOp s f.g (fun a => noSpec s a (migrate s a (bits (a.sr.get f.a) 0 22)))
def execMigra (f : MigraF) (s : State) : Out :=
  accessOp s f.g (fun a =>
    noSpec s a
      (let va := a.sr.get f.a + f.disp.signExtend 72
       (translate s a va true false).bind (fun x =>
         match ownerOf x va with
         | none => trapAt s cMigrate 0
         | some d => migrate s a d)))

def maskOf (a : Actor) : MaskSrc → BitVec 32
  | .s i => BitVec.ofNat 32 (bits (a.sr.get i) 0 32)
  | .mask m => m
def execHold (f : HoldF) (s : State) : Out :=
  accessOp s f.g (fun a =>
    noSpec s a (R.next (s.modStrand a.core a.k (fun x => { x with hold := x.hold ||| maskOf a f.m }))))
def execRelease (f : HoldF) (s : State) : Out :=
  accessOp s f.g (fun a =>
    noSpec s a (R.next (s.modStrand a.core a.k (fun x => { x with hold := x.hold &&& ~~~(maskOf a f.m) }))))

end Sys2Proof.Machine
end

