-- ==== Sys2Proof/Machine/Lea.lean ====
section
/-! DEFINITION. Lea-ordered operations as a strand asks for them, and their data at a member (07 R167; 17 R375, R376;
24 R460 to R462). -/

namespace Sys2Proof.Machine

/-- The identity of the Lea engine (07 Table 7.6). -/
def leaIdent (part : BitVec 6) : Ident := { part := part, cls := 9 }

/-- Write the bytes of a Lea operation of core `c` at member `p`, through the member's own tables. A translation or target
that refuses them posts a fault record with SRC 0 to the issuing partition's queue, that of the issuing package (09 R191;
17 R375). -/
def leaWrite (s : State) (p : Nat) (part : BitVec 6) (c : Nat) (va : Word) (bytes : List Byte) : State :=
  let u : Requester := { pkg := p, id := leaIdent part, sup := true }
  let q := engCheck s u va bytes
  match q.2 with
  | some e => postFault q.1 (pkgOf c) { cause := e, core := c, part := part, src := 0, va := va }
  | none => engWrite q.1 u va bytes

/-- A Lea operation at a member, under sequence `n`. A package without members in a round that another opens contributes nothing to
it, and says so (22 R444; 24 R463). -/
def leaData (s : State) (p n : Nat) (op : LeaOp) : State :=
  match op with
  | .bst part c va bytes => leaWrite s p part c va bytes
  | .page part c _ segs => segs.foldl (fun st g => leaWrite st p part c g.1 g.2) s
  | .fence => s
  | .fold f .. => settleFold (foldApply s p n op) p f
  | .cred f .. => settleFold (foldApply s p n op) p f

/-- A strand's Lea operation: its sequence number. A package of no group applies it at once under its local counter;
otherwise the operation waits for the lark and the strand for its number (17 R375, 24 R461). -/
def leaTake (s : State) (a : Actor) (op : LeaOp) : R (State × Nat) :=
  let p := pkgOf a.core
  let l := (s.pkg p).lea
  if l.members.isEmpty then
    let n := l.localNext
    let s1 := s.modPkg p (fun x => { x with lea := { x.lea with localNext := (n + 1) % 2 ^ 48 } })
    .ok (leaApplied (leaData s1 p n op) p n, n)
  else
    match a.x.prog with
    | .stage 3 _ =>
      (match l.given.find? (fun g => g.1 == a.core && g.2.1 == a.k) with
        | some g =>
          .ok (s.modPkg p (fun x => { x with lea := { x.lea with given := x.lea.given.filter (fun q => q != g) } }), g.2.2)
        | none => stall s a .lea)
    | _ =>
      let s1 := s.modPkg p (fun x => { x with lea := { x.lea with queue := x.lea.queue ++ [(a.core, a.k, op)] } })
      stall (s1.modStrand a.core a.k (fun x => { x with prog := .stage 3 0 })) a .lea

end Sys2Proof.Machine
end

