-- ==== Sys2Proof/Machine/Checks.lean ====
section
/-! DEFINITION. Check codes at use (26 R472, R473, R475): the registers that an instruction reads as operands, the s
registers whose residue it checks, and what a slot or an entry meets when a word that it reads disagrees with its check
code. Which words disagree is free (`Turn.upset` and the turns of an upset; log 10). -/

namespace Sys2Proof.Machine

/-! ### The registers that an instruction reads -/

def ssrcRegs : SSrc → List (Fin 16)
  | .s i => [i]
  | _ => []
def sregRegs : SReg → List (Fin 16)
  | .s i => [i]
  | .zr => []
def sdataRegs : SData → List (Fin 16)
  | .s i => [i]
  | _ => []
def scountRegs : SCount → List (Fin 16)
  | .s i => [i]
  | .imm _ => []
def srcImmRegs : SrcImm → List (Fin 16)
  | .src a => ssrcRegs a
  | .imm _ => []
def maskRegs : MaskSrc → List (Fin 16)
  | .s i => [i]
  | .mask _ => []
def vsrcScalars : VSrc → List (Fin 16)
  | .s i => [i]
  | _ => []
def ksrcScalars : KSrc → List (Fin 16)
  | .s i => [i]
  | _ => []
def ksrcRegs : KSrc → List (Fin 8)
  | .k i => [i]
  | _ => []
/-- `n` registers from `i` on. -/
def runOf (n : Nat) (i : Fin 16) : List (Fin 16) := (List.range n).map (fun j => Fin.ofNat 16 (i.val + j))
def argRun : ArgRegs → List (Fin 16)
  | .base i => runOf 4 i
  | .zr => []
def pairRun : Option (Fin 16) → List (Fin 16)
  | some i => runOf 2 i
  | none => []
/-- A and B of an effective address (15 R307). -/
def memRegs (m : MemOp) : List (Fin 16) := sregRegs m.a ++ m.b.toList
def baseRegs (m : MemBase) : List (Fin 16) := sregRegs m.a

/-- The s registers that an instruction reads as operands. -/
def scalarReads (x : Strand) : Instr → List (Fin 16)
  | .add f | .sub f | .mul f | .mulh f | .mulhz f | .div f | .divz f | .rem f | .remz f | .minI f | .maxI f | .minz f
  | .maxz f | .andI f | .orI f | .xorI f | .andn f | .shl f | .shr f | .sar f | .rol f | .ror f =>
    ssrcRegs f.a ++ ssrcRegs f.b
  | .addi f => ssrcRegs f.a
  | .clz f | .ctz f | .popc f | .sext f | .zext f => ssrcRegs f.a
  | .bfx f => ssrcRegs f.a
  | .bfi f => ssrcRegs f.a ++ sregRegs f.d
  | .lih f => sregRegs f.d
  | .lea f => ssrcRegs f.a ++ (f.b.map sregRegs).getD []
  | .adda f | .suba f => ssrcRegs f.a ++ srcImmRegs f.b
  | .select f => ssrcRegs f.a ++ ssrcRegs f.b
  | .cmp f => ssrcRegs f.a ++ (f.b.map ssrcRegs).getD []
  | .cmpi f => ssrcRegs f.a
  | .kmov f => ksrcScalars f.a
  | .jmp f | .calli f | .munbind f | .hsync f | .hretire f | .objfree f | .cancel f | .tqcfg f => [f.a]
  | .migr _ | .migra _ => List.finRange 16
  | .call _ => if x.rs.length = 8 then [14] else []
  | .ret _ => if x.rs.isEmpty then [14] else []
  | .endStrand _ => [12]
  | .loopR f => [f.a]
  | .setc f => ssrcRegs f.a
  | .tlbiPage f | .tlbiSpace f => sregRegs f.a
  | .scan f | .hstat f | .launch f => [f.a]
  | .vadd f | .vsub f | .vmul f => vsrcScalars f.a ++ vsrcScalars f.b
  | .vfma f | .vfms f | .vnfma f => vsrcScalars f.a ++ vsrcScalars f.b ++ vsrcScalars f.c
  | .vmin f | .vmax f | .vand f | .vor f | .vxor f | .vshl f | .vshr f | .vsar f => vsrcScalars f.a ++ vsrcScalars f.b
  | .vabs f | .vneg f | .vrcp f | .vrsq f | .vexp f | .vexp2 f | .vlog2 f | .vtanh f | .vsin f | .vcos f => vsrcScalars f.a
  | .vdot f => vsrcScalars f.a ++ vsrcScalars f.b ++ (f.c.map vsrcScalars).getD []
  | .vred f => vsrcScalars f.a
  | .vcmp f => vsrcScalars f.a ++ (f.b.map vsrcScalars).getD []
  | .vsel f => vsrcScalars f.a ++ vsrcScalars f.b
  | .vperm f => vsrcScalars f.a
  | .vbcast f => vsrcScalars f.a
  | .vins f => scountRegs f.a
  | .vcvt f => vsrcScalars f.a ++ f.c.toList
  | .vpack f => vsrcScalars f.a ++ vsrcScalars f.b
  | .vunpk f => vsrcScalars f.a
  | .vloop f => (match f.c with
    | .s i => [i]
    | .imm _ => [])
  | .qcfgBind f | .qcfgUnbind f => [f.a, f.b]
  | .qadvP f | .qadvC f => scountRegs f.n
  | .ld f => memRegs f.m
  | .st f => sdataRegs f.d ++ memRegs f.m
  | .ldq f | .stq f => memRegs f.m
  | .vld f | .vst f => memRegs f.m
  | .vlds f | .vsts f => f.stride :: baseRegs f.m
  | .vgath f | .vscat f => baseRegs f.m ++ f.bound.toList
  | .vgathBc f => f.c :: baseRegs f.m
  | .amoAdd f | .amoMin f | .amoMax f | .amoAnd f | .amoOr f | .amoXor f | .amoSwap f => sdataRegs f.b ++ baseRegs f.m
  | .amoCas f => f.c :: (sdataRegs f.b ++ baseRegs f.m)
  | .amofAdd f => sdataRegs f.b ++ baseRegs f.m
  | .cpy f => f.d :: f.a :: (runOf 2 f.b ++ pairRun f.c)
  | .cpy2d f => f.d :: f.a :: (runOf 4 f.b ++ pairRun f.c)
  | .replay f => f.a :: pairRun f.c
  | .cred f => f.d :: f.a :: (runOf 2 f.b ++ pairRun f.c)
  | .rlqQuery f => [f.a]
  | .rlqRelease f => [f.a]
  | .mbind f => [f.a]
  | .invoke f => f.a :: argRun f.b
  | .invoken f => f.a :: argRun f.b
  | .sendMailbox f => f.a :: argRun f.b
  | .sendActive f => f.a :: f.c :: argRun f.b
  | .resolveValue f => f.a :: (match f.b with
    | .s i => runOf 4 i
    | .zr => [])
  | .resolveObject f => [f.a, f.b]
  | .breakAnswer f => [f.a]
  | .when f => [f.a]
  | .hget f => [f.a]
  | .objnew f => [f.a, f.b]
  | .hold f | .release f => maskRegs f.m
  | .task f => f.a :: maskRegs f.n
  | .tdec f => f.a :: scountRegs f.n
  | .phtok f => [f.a]
  | .phwait f => [f.a]
  | .bst f => f.a :: (match f.b with
    | .s i => [i]
    | _ => [])
  | .wld f => [f.a]
  | .mma f | .mmas f => maskRegs f.m ++ f.chk.toList
  | .mpld f => [f.a]
  | .mrec f => maskRegs f.m
  | .ald f | .ast f => f.a :: f.b.toList
  | .ladcfg f => [f.d]
  | .attncfg f => [f.a]
  | .attn f => f.a :: pairRun f.c
  | .nbmv f => f.d :: f.a :: (runOf 2 f.b ++ pairRun f.c)
  | _ => []

/-- The k registers that an instruction reads beside its guard. -/
def predicateReads : Instr → List (Fin 8)
  | .select f => [f.c]
  | .kand f | .kor f | .kxor f => [f.a, f.b]
  | .knot f => [f.a]
  | .kmov f => ksrcRegs f.a
  | .vsel f => [f.c]
  | .kpush f => [f.k]
  | .cbrAll f | .cbrAny f => [f.k]
  | _ => []
def vectorReads (i : Instr) : List (Fin 32) := ((vectorNames i).filter (fun n => !n.2)).map (·.1)

/-- The s registers whose residue an instruction checks (26 R475): the data operand of ST and of an atomic, A and B of an
effective address, the target of JMP and CALLI. -/
def residueReads : Instr → List (Fin 16)
  | .jmp f | .calli f => [f.a]
  | .ld f => memRegs f.m
  | .st f => sdataRegs f.d ++ memRegs f.m
  | .ldq f | .stq f => memRegs f.m
  | .vld f | .vst f => memRegs f.m
  | .vlds f | .vsts f => baseRegs f.m
  | .vgath f | .vscat f => baseRegs f.m
  | .vgathBc f => baseRegs f.m
  | .amoAdd f | .amoMin f | .amoMax f | .amoAnd f | .amoOr f | .amoXor f | .amoSwap f => sdataRegs f.b ++ baseRegs f.m
  | .amoCas f => f.c :: (sdataRegs f.b ++ baseRegs f.m)
  | .amofAdd f => sdataRegs f.b ++ baseRegs f.m
  | .wld f => [f.a]
  | .mpld f => [f.a]
  | .ald f | .ast f => [f.a]
  | _ => []

/-! ### What a slot or an entry meets (09 R190 item 3) -/

/-- A slot that takes PRIVILEGED_OP, which comes before its operands' checks (09 R190 item 2). -/
def privilegedStop (x : Strand) : Instr → Bool
  | .setc f => (f.reg == .status || f.reg == .cause) && x.prio != 3
  | .tlbiPage _ | .tlbiSpace _ | .tlbiPartition _ | .scan _ => x.prio != 3
  | .eret _ => !x.tm
  | _ => false

/-- The registers of a slot or entry that count: its guard, and where the guard holds its operands. -/
structure Reads where
  s : List (Fin 16)
  v : List (Fin 32)
  k : List (Fin 8)
  deriving DecidableEq, Repr, Inhabited
def guardHolds (k : Vector KWord 8) (g : Guard) : Bool :=
  bit (kVal k g.k) 0 != g.neg
/-- The predicate bits that govern an instruction's destination lanes, where its guard masks lanes (14 R269). -/
def laneBits (t : LaneTy) : Option (List Nat) := some ((List.range t.lanes).map (govern t.width))
def guardBits : Instr → Option (List Nat)
  | .vadd f | .vsub f | .vmul f => laneBits f.lt
  | .vfma f | .vfms f | .vnfma f => laneBits f.lt
  | .vmin f | .vmax f | .vand f | .vor f | .vxor f | .vshl f | .vshr f | .vsar f => laneBits f.lt
  | .vabs f | .vneg f | .vrcp f | .vrsq f | .vexp f | .vexp2 f | .vlog2 f | .vtanh f | .vsin f | .vcos f => laneBits f.lt
  | .vdot f => laneBits (dotDest f.lt)
  | .vred f => laneBits f.lt
  | .vcmp f => laneBits f.lt
  | .vsel f => laneBits f.lt
  | .vperm _ => laneBits .i8
  | .vbcast f => laneBits f.lt
  | .vins f => some [govern f.lt.width f.idx.toNat]
  | .vcvt f => some (((List.range f.dt.lanes).filter (fun i => (cvtSource f.st f.dt f.pos.toNat i).isSome)).map (govern f.dt.width))
  | .vpack f => laneBits f.dt
  | .vunpk f => laneBits f.dt
  | _ => none
/-- An instruction uses its operands: its guard holds, or enables a lane. -/
def usesOperands (k : Vector KWord 8) (i : Instr) : Bool :=
  match guardBits i with
  | some bs => bs.any (fun j => bit (kVal k i.guard.k) j != i.guard.neg)
  | none => guardHolds k i.guard
/-- A check that fails raises its cause: always where the guard masks lanes, and under a true guard elsewhere (10 R211). -/
def checksCount (k : Vector KWord 8) (i : Instr) : Bool := (guardBits i).isSome || guardHolds k i.guard
def readsOf (x : Strand) (k : Vector KWord 8) (i : Instr) : Reads :=
  if usesOperands k i then { s := scalarReads x i, v := vectorReads i, k := i.guard.k :: predicateReads i }
  else { s := [], v := [], k := [i.guard.k] }

/-- An untagged register that its check code cannot correct: an error in core state (R472). -/
def Checks.lost (q : Checks) (r : Reads) : Bool :=
  r.s.any (fun i => bit (q.synS &&& ~~~q.tagS &&& q.twoS) i.val) ||
  r.v.any (fun i => bit (q.synV &&& ~~~q.tagV &&& q.twoV) i.val) ||
  r.k.any (fun i => bit (q.synK &&& ~~~q.tagK &&& q.twoK) i.val)
/-- The untagged registers that are corrected at this use, and the check state once they are (R472). -/
def clearBits {w : Nat} (m : BitVec w) (is : List Nat) : BitVec w := is.foldl (fun b i => setBit b i false) m
def Checks.corrects (q : Checks) (r : Reads) : List Nat × List Nat × List Nat :=
  (((r.s.filter (fun i => bit (q.synS &&& ~~~q.tagS) i.val)).map (·.val)).eraseDups,
   ((r.v.filter (fun i => bit (q.synV &&& ~~~q.tagV) i.val)).map (·.val)).eraseDups,
   ((r.k.filter (fun i => bit (q.synK &&& ~~~q.tagK) i.val)).map (·.val)).eraseDups)
def correctAll (s : State) (c k : Nat) (x : Strand) (r : Reads) : State :=
  let l := x.checks.corrects r
  let n := l.1.length + l.2.1.length + l.2.2.length
  if n = 0 then s
  else
    (s.countCore c 3 n (some (s.core c).part)).modStrand c k (fun y =>
      { y with checks := { y.checks with synS := clearBits y.checks.synS l.1, synV := clearBits y.checks.synV l.2.1
                                         synK := clearBits y.checks.synK l.2.2 } })

/-- Whether an access-side slot uses a tagged register whose syndrome is not zero (R473). -/
def Checks.shadowFails (q : Checks) (r : Reads) : Bool :=
  r.s.any (fun i => bit q.badS i.val) || r.v.any (fun i => bit q.badV i.val) || r.k.any (fun i => bit q.badK i.val)
/-- Whether a residue that a slot checks differs from that of its value (R475). -/
def residueFails (x : Strand) (i : Instr) : Bool :=
  (residueReads i).any (fun r => x.checks.res.get r != residueOf (x.s.get r))
/-- The same for an entry, whose scalar operands were taken when it issued. -/
def entryFails (x : Strand) (e : SeqEntry) : Bool :=
  let r := readsOf x e.k e.i
  checksCount e.k e.i &&
    (r.s.any (fun i => bit e.badS i.val) || r.v.any (fun i => bit x.checks.badV i.val) || r.k.any (fun i => bit e.badK i.val))

/-- The consumer operands of an access-side slot. -/
def slotUses : Instr → List QUse
  | .vst f => regUseIn f.d
  | .vsts f => regUseIn f.d
  | .vgath f => regUseIn f.idx
  | .vscat f => regUseIn f.d ++ regUseIn f.idx
  | .stq f => [{ q := f.q, need := f.need.toNat, produce := false }]
  | _ => []
/-- A consumer operand whose need is met lies in a slot whose check bits disagree with its data (R473). -/
def useFails (s : State) (c k : Nat) (u : QUse) : Bool :=
  let b := s.queueOf c k u.q
  b.legal false && b.met u && s.slotTag c k (b.operandPa b.base u.need false) == some true
/-- The same for the operands that an entry has not captured. -/
def entryUseFails (s : State) (c k : Nat) (e : SeqEntry) : Bool :=
  e.taken.isEmpty && usesOperands e.k e.i && (consumerUses e).any (useFails s c k)

/-- The rows 0x10 to 0x14, whose shadow compares with the primary before the access leaves the core (15 R325). -/
def comparesFirst (i : Instr) : Bool :=
  match encodeSlot i with
  | some w => !w.shadow && decide (0x10 ≤ w.opc.toNat / 32) && decide (w.opc.toNat / 32 ≤ 0x14)
  | none => false
/-- The slot after `pos` is the shadow of the slot at `pos`. -/
def shadowNext (line : List Byte) (pos : Nat) : Bool := decide (pos < 4) && (Slot.unpack (slotBits line (pos + 1))).shadow

/-- The first check that an access-side slot fails: its operands, or the comparison with its shadow, which an upset makes
fail. -/
def slotCheck (s : State) (c k : Nat) (x : Strand) (line : List Byte) (pos : Nat) (i : Instr) : Option Code :=
  let r := readsOf x x.k i
  if !guardHolds x.k i.guard || privilegedStop x i then none
  else if !i.side && (x.checks.shadowFails r || (slotUses i).any (useFails s c k)) then some cShadow
  else if residueMode s c && residueFails x i then some cResidue
  else if !residueMode s c && s.turn.upset && comparesFirst i && shadowNext line pos then some cShadow
  else none
/-- The registers whose check codes a slot uses: an execute-side slot takes its scalars and predicates into its entry. -/
def slotReads (x : Strand) (i : Instr) : Reads :=
  let r := readsOf x x.k i
  if i.side then { r with v := [] } else r

/-- An upset flips a bit, or two, of a checked word (R472). -/
def flipBits (s : State) (c k : Nat) (w : CheckedWord) (two : Bool) : State :=
  let mark := fun (g : Checks → Checks) => s.modStrand c k (fun x => { x with checks := g x.checks })
  match w with
  | .s i => mark (fun q => { q with twoS := setBit q.twoS i.val (two || bit q.synS i.val), synS := setBit q.synS i.val true })
  | .v i => mark (fun q => { q with twoV := setBit q.twoV i.val (two || bit q.synV i.val), synV := setBit q.synV i.val true })
  | .k i =>
    if i = 0 then s
    else mark (fun q => { q with twoK := setBit q.twoK i.val (two || bit q.synK i.val), synK := setBit q.synK i.val true })
  | .slot pa =>
    if (smGet none (s.core c).slotTags pa).isSome then putSlotTag s c pa (some true)
    else s.countCore c 3 (if two then 0 else 1) (some (s.core c).part)
  | .other => s.countCore c 3 (if two then 0 else 1) (some (s.core c).part)

/-! ### Registers that a slot names and a pending entry writes -/

def entryWritesS (e : SeqEntry) (i : Fin 16) : Bool :=
  match e.i with
  | .vext f => f.d == .s i
  | _ => false
def entryWritesK (e : SeqEntry) (i : Fin 8) : Bool :=
  match e.i with
  | .vcmp f => f.d == i && i != 0
  | _ => false
/-- The instructions whose C specifier names a register (10 R214, form 2). -/
def hasC : Instr → Bool
  | .select _ | .vlds _ | .vsts _ | .vgath _ | .vscat _ | .vgathBc _ | .amoCas _ | .cpy _ | .cpy2d _ | .replay _ | .cred _
  | .sendActive _ | .hget _ | .attn _ | .nbmv _ => true
  | _ => false

/-- Scalar registers that an access-side instruction reads or writes without naming each in a specifier. -/
def implicitS : Instr → List (Fin 16)
  | .call _ | .calli _ => [14, 15]
  | .ret _ => [14]
  | .endStrand _ => [9, 12]
  | .migr _ | .migra _ => List.finRange 16
  | .invoke f => argRun f.b
  | .invoken f => argRun f.b
  | .sendMailbox f => argRun f.b
  | .sendActive f => argRun f.b
  | .resolveValue f => (match f.b with
    | .s i => runOf 4 i
    | .zr => [])
  | .cpy f => runOf 2 f.b ++ pairRun f.c
  | .cpy2d f => runOf 4 f.b ++ pairRun f.c
  | .replay f => pairRun f.c
  | .cred f => runOf 2 f.b ++ pairRun f.c
  | .attn f => pairRun f.c
  | .nbmv f => runOf 2 f.b ++ pairRun f.c
  | _ => []
def implicitK : Instr → List (Fin 8)
  | .tnext _ => [7]
  | _ => []

def specS? (b : Sys2Proof.Spec) (i : Fin 16) : Bool := specClass b == 0 && getS b == i
def specK? (b : Sys2Proof.Spec) (i : Fin 8) : Bool := specClass b == 3 && getK b == i
/-- The specifiers that a slot holds. -/
def specifiers (w : Slot) (i : Instr) : List Sys2Proof.Spec := [w.d, w.a, w.b] ++ (if hasC i then [tailC w] else [])
/-- Whether a slot names the register of an atomic that its speculative path holds. -/
def heldWaits (sp : Option Spec) (k : Nat) (w : Slot) (i : Instr) : Bool :=
  sp.any (fun p => p.strand == k && p.held.any (fun h => match h with
    | .atomic _ (some r) _ => (specifiers w i).any (fun b => specS? b r) || (implicitS i).contains r || (scalarReads freshStrand i).contains r
    | _ => false))
/-- Whether an access-side slot names a register that an earlier entry, still in the sequencer, writes (10 R207). -/
def slotWaits (x : Strand) (w : Slot) (i : Instr) : Bool :=
  let specs := specifiers w i
  vectorWaits x i || (seqEntries x).any (fun e =>
    (List.finRange 16).any (fun r => entryWritesS e r && (specs.any (fun b => specS? b r) || (implicitS i).contains r)) ||
    (List.finRange 8).any (fun r => entryWritesK e r &&
      (specs.any (fun b => specK? b r) || (implicitK i).contains r || Fin.ofNat 8 w.gk.toNat == r)))

/-- VDRAIN stands in the sequencer: no slot issues (14 R293). -/
def drains (x : Strand) : Bool :=
  (seqEntries x).any (fun e => match e.i with
    | .vdrain _ => true
    | _ => false)
/-- A gather that awaits a page does nothing until its next walk (15 R319). -/
def awaits (x : Strand) : Bool :=
  match x.prog, x.wait with
  | .stage .., some w => w.kind == .gather
  | _, _ => false

end Sys2Proof.Machine
end

