-- ==== Sys2Proof/Machine/Queues.lean ====
section
/-! DEFINITION. Row 0x0F: the sequencer's VLOOP and VDRAIN, queue bindings, links and advances, the branch-outcome queue
(14 R290 to R303). -/

namespace Sys2Proof.Machine

/-! ### VLOOP and VDRAIN (R292, R293) -/

/-- The capture ends: the group holds the entries captured so far. -/
def endCapture (x : Strand) : Strand :=
  match x.capture with
  | none => x
  | some cp => { x with seq := if cp.es.isEmpty then x.seq else x.seq ++ [.group cp.es 0 cp.reps], capture := none }

/-- VLOOP and VDRAIN act as they issue, on the registers as every earlier slot leaves them. Where an earlier entry is still to
write one that `late` names they wait for it; a capture whose entries may be those ends first. A false guard has no effect
(R269). -/
def atIssue (s : State) (g : Guard) (late : SeqEntry → Bool) (act : Actor → R Res) : Out :=
  match s.actor with
  | none => .fault .noStrand
  | some a =>
    if a.exec then finishEntry a (R.next s)
    else
      finishSlot a
        (if (seqEntries a.x).any late then
          let y := if (a.x.capture.map (·.es)).any (fun es => es.any late) then endCapture a.x else a.x
          stall (s.setStrand a.core a.k y) a .sequencer
         else if a.guard g then act a else R.next s)

def execVloop (f : VloopF) (s : State) : Out :=
  atIssue s f.g (fun e => entryWritesK e f.g.k || (match f.c with
    | .s i => entryWritesS e i
    | .imm _ => false))
    (fun a =>
      let reps := match f.c with
        | .s i => bits (a.sr.get i) 0 32
        | .imm c => c.toNat
      R.next (s.setStrand a.core a.k
        { endCapture a.x with capture := some { left := f.n.toNat, es := [], reps := reps } }))

/-- VDRAIN is an entry that no later access-side slot passes (`drains`, 14 R293); it ends a capture. -/
def execVdrain (f : Bare) (s : State) : Out :=
  atIssue s f.g (fun e => entryWritesK e f.g.k)
    (fun a => enqueue (s.setStrand a.core a.k (endCapture a.x)) a (.vdrain f))

/-! ### QCFG (R295) -/

def cfgReserved (w : Word) : Bool :=
  bits w 54 18 != 0 || bits w 22 10 != 0 || bits w 17 3 != 0 || bits w 2 6 != 0

/-- Where the ring of `n` bytes lies, or the cause. -/
def planRing (s : State) (a : Actor) (va : Word) (slot n : Nat) : Except PlanErr Nat :=
  let deny : Except PlanErr Nat := planErr cDeny va
  match planOne s a va n slot .wr false (fun x => if !x.r then some cPermission else ruleRaw false x) with
  | .error e => .error e
  | .ok x =>
    if !x.r then planErr cPermission va
    else
      let pa := x.pa va
      match siteOf pa x.geom2 with
      | .share c ofs => if c = a.core ∧ ofs + n ≤ 2 ^ 20 ∧ pa % 2 ^ 16 + n ≤ 2 ^ 16 ∧ spaceOf va ≠ 0xC0 then .ok pa else deny
      | _ => deny

def setQueue (s : State) (c : Nat) (q : Fin 16) (f : Queue → Queue) : State :=
  s.modCore c (fun co => { co with queues := co.queues.set q (f (co.queues.get q)) })

/-- Replace a binding: a linked peer is told, and no check bits are left of the old ring. -/
def bindQueue (s : State) (c : Nat) (q : Fin 16) (b : Queue) : State :=
  let old := (s.core c).queues.get q
  let mine := fun (pa : Nat) => decide (old.base ≤ pa) && decide (pa < old.base + old.nslot * slotSize old.sz)
  let s1 := (setQueue s c q (fun _ => { b with epoch := old.epoch + 1 })).modCore c (fun co =>
    { co with slotTags := co.slotTags.filter (fun t => !mine t.1) })
  if old.bound && old.linked && old.dir != 0 then sendUnit s1 c (.core old.peer) clsMSG (.queueUnlink old.peerQ) else s1

/-- An entry of another strand has begun to use its slot of the queue: it has taken the slot's data (14 R295, Table 14.14). -/
def slotInUse (co : Core) (k : Nat) (q : Fin 16) : Bool :=
  (liveStrands co).any (fun p => p.1 != k && (seqEntries p.2).any (fun e => e.taken.any (fun t => t.1 == q)))
/-- QCFG: DIR 11 unbinds. -/
def qcfgBody (s : State) (a : Actor) (f : QcfgF) : R Res :=
  let w := a.sr.get f.b
  let va := a.sr.get f.a
  let sz : BitVec 2 := w.extractLsb' 0 2
  let nslot := bits w 8 9
  let dir : BitVec 2 := w.extractLsb' 20 2
  let peer := bits w 32 22
  if (a.spec s).isSome then stall s a .other
  else if cfgReserved w || decide (nslot < 2) || decide (256 < nslot) ||
      ((dir == 1 || dir == 2) && decide (peer = a.core)) then trapAt s cQueueUnconfigured 0
  else
    let ring : Except PlanErr Nat := if dir = 3 then .ok 0 else planRing s a va (slotSize sz) (nslot * slotSize sz)
    match ring with
    | .error e => planFail s a e
    | .ok pa =>
      if earlierNames a.x f.q (fun _ => true) || slotInUse (s.core a.core) a.k f.q then stall s a .sequencer
      else if dir = 3 then R.next (bindQueue s a.core f.q Queue.reset)
      else
        R.next (bindQueue s a.core f.q
          { Queue.reset with
            bound := true, base := pa, sz := sz, nslot := nslot, dir := dir, peer := if dir = 0 then 0 else peer
            linked := dir == 0 })
def execQcfgBind (f : QcfgF) (s : State) : Out := accessOp s f.g (fun a => qcfgBody s a f)
def execQcfgUnbind (f : QcfgF) (s : State) : Out := accessOp s f.g (fun a => qcfgBody s a f)

/-! ### QLINK (R296) -/

/-- A binding meets a link flit: of the opposite direction, made by its peer. -/
def Queue.meets (b : Queue) (o : LinkOffer) : Bool :=
  b.bound && !b.linked && ((b.dir == 1 && o.dir == 2) || (b.dir == 2 && o.dir == 1)) && b.peer == o.src
/-- The first link flit that a waiting binding meets links it, or fails its QLINK when NSLOT or SZ differ. -/
def tryLink (co : Core) (q : Fin 16) : Core :=
  let b := co.queues.get q
  if b.asked then
    match co.linkOffers.find? (fun o => b.meets o) with
    | none => co
    | some o =>
      let good := o.nslot == b.nslot && o.sz == b.sz
      { co with
        queues := co.queues.set q
          { b with asked := false, linked := good, badLink := !good, peerQ := o.q, peerBase := o.base }
        linkOffers := co.linkOffers.erase o }
  else co
def linkAll (co : Core) : Core := (List.finRange 16).foldl tryLink co

def execQlink (f : QueueF) (s : State) : Out :=
  accessOp s f.g (fun a =>
    let b := (s.core a.core).queues.get f.q
    let wait := fun (st : State) =>
      (.error (.again (markWait st a .queue [(f.q, b.epoch)])) : R Res)
    if (a.spec s).isSome then stall s a .other
    else if !b.bound || !(b.dir == 1 || b.dir == 2) ||
        a.waited.any (fun w => w.1 == f.q && w.2 != b.epoch) then trapAt s cQueueUnconfigured 0
    else if b.badLink then trapAt (setQueue s a.core f.q (fun x => { x with badLink := false })) cQueueUnconfigured 0
    else
      match a.x.prog with
      | .stage .. => if b.linked then R.next s else wait s
      | _ =>
        let s1 := sendUnit s a.core (.core b.peer) clsMSG (.queueLink f.q b.nslot b.sz b.dir b.base)
        let s2 := (setQueue s1 a.core f.q (fun x => { x with asked := !x.linked })).modCore a.core linkAll
        let b2 := (s2.core a.core).queues.get f.q
        if b2.linked then R.next s2
        else if b2.badLink then
          trapAt (setQueue s2 a.core f.q (fun x => { x with badLink := false })) cQueueUnconfigured 0
        else wait (s2.modStrand a.core a.k (fun x => { x with prog := .stage 1 0 })))

/-! ### QADV (R298, R299) -/

def advCount (a : Actor) : SCount → Nat
  | .s i => bits (a.sr.get i) 0 9
  | .imm v => v.toNat

/-- Raise P or C by `n`, and tell the peer of a linked binding (R298). -/
def advance (s : State) (c : Nat) (q : Fin 16) (produce : Bool) (n : Nat) : State :=
  let b := (s.core c).queues.get q
  let s1 := setQueue s c q (fun x =>
    if produce then { x with p := x.p + BitVec.ofNat 32 n } else { x with c := x.c + BitVec.ofNat 32 n })
  if produce && b.dir == 2 then sendUnit s1 c (.core b.peer) clsMSG (.queuePublish b.peerQ n)
  else if !produce && b.dir == 1 then sendUnit s1 c (.core b.peer) clsMSG (.queueCredit b.peerQ n)
  else s1
/-- QADV.P on an outbound binding is a release (R299). -/
def advanceWaits (s : State) (a : Actor) (q : Fin 16) (produce : Bool) : Bool :=
  produce && (a.queue s q).dir == 2 && unordered s a

/-- An advance; on a speculative path it is held (02 R79). -/
def qadvBody (s : State) (a : Actor) (f : QadvF) (produce : Bool) : R Res :=
  let n := advCount a f.n
  let b := a.queue s f.q
  if !b.legal produce || a.waited.any (fun w => w.1 == f.q && w.2 != b.epoch) then trapAt s cQueueUnconfigured 0
  else if n = 0 then R.next s
  else if !a.exec && earlierNames a.x f.q (fun p => p == produce) then stall s a .sequencer
  else
      (queuesReady s a [{ q := f.q, need := n, produce := produce }]).bind (fun _ =>
        if (a.spec s).isSome then R.next (specHold s a.core (.advance f.q produce n))
        else if advanceWaits s a f.q produce then stall s a .fence
        else R.next (advance s a.core f.q produce n))
/-- An execute-side slot of row 0x0F tests bit 0 of its guard. -/
def guarded (s : State) (a : Actor) (g : Guard) (k : R Res) : R Res := if a.guard g then k else R.next s
def execQadvP (f : QadvF) (s : State) : Out :=
  if f.exec then executeOp s (.qadvP f) (fun a => guarded s a f.g (qadvBody s a f true))
  else accessOp s f.g (fun a => qadvBody s a f true)
def execQadvC (f : QadvF) (s : State) : Out :=
  if f.exec then executeOp s (.qadvC f) (fun a => guarded s a f.g (qadvBody s a f false))
  else accessOp s f.g (fun a => qadvBody s a f false)

/-! ### QSTAT and KPUSH (R301, R302) -/

def qstatWord (b : Queue) : Word :=
  if b.bound then
    BitVec.ofNat 72 (2 ^ 32 + b2n b.linked * 2 ^ 31 + b.dir.toNat * 2 ^ 29 + b.sz.toNat * 2 ^ 27 + b.nslot * 2 ^ 18 +
      b.free * 2 ^ 9 + b.filled)
  else 0
def execQstat (f : QstatF) (s : State) : Out :=
  accessOp s f.g (fun a => R.next (setReg s a f.d (qstatWord (a.queue s f.q))))

def pushBit (mode : BitVec 2) (k : KWord) : Bool := if mode = 0 then bit k 0 else if mode = 1 then k != 0 else k == 0xFFFF
def execKpush (f : KpushF) (s : State) : Out :=
  executeOp s (.kpush f) (fun a => guarded s a f.g
    (if 8 ≤ a.x.bq.length then stall s a .queue
     else R.next (s.modStrand a.core a.k (fun x => { x with bq := x.bq ++ [pushBit f.mode (a.k0 f.k)] }))))

end Sys2Proof.Machine
end

