-- ==== Sys2Proof/Machine/Folds.lean ====
section
/-! DEFINITION. Row 0x17: folds, collective branches with their speculation, and Lea stores (02 R77 to R82; 17 R370 to
R377; 23 R448, R449). -/

namespace Sys2Proof.Machine

/-! ### FJOIN, FLEAVE, FMEMB (R370, R371) -/

/-- FJOIN and FLEAVE complete when the root has recorded them: a first attempt sends the request. -/
def awaitRoot (s : State) (a : Actor) (n : Nat) (m : Msg) : R Res :=
  match a.x.prog with
  | .stage 4 w => if w.toNat = n then stall s a .fold else stall s a .other
  | _ =>
    let s1 := sendUnit s a.core (rootDest (pkgOf a.core)) clsCOL m
    stall (s1.modStrand a.core a.k (fun x => { x with prog := .stage 4 (BitVec.ofNat 128 n) })) a .fold

def execFjoin (f : FoldF) (s : State) : Out :=
  accessOp s f.g (fun a =>
    noSpec s a
      (if bit a.x.memb f.fold.val then R.next s
       else if bit ((s.cluster (clOf a.core)).wave.get f.fold) (a.core % 16) then trapAt s cFoldEjected 0
       else awaitRoot s a 0 (.foldJoin f.fold a.k)))
def execFleave (f : FoldF) (s : State) : Out :=
  accessOp s f.g (fun a =>
    noSpec s a
      (if bit a.x.eject f.fold.val then
         R.next (s.modStrand a.core a.k (fun x => { x with eject := setBit x.eject f.fold.val false }))
       else if bit a.x.memb f.fold.val then awaitRoot s a 1 (.foldLeave f.fold a.k)
       else R.next s))

/-- Table 17.4. -/
def membWord (s : State) (c : Nat) (f : Fin 16) (sel : Nat) : Word :=
  let fo := s.fold (pkgOf c) f
  if sel < 4 then zext72 (fo.clusters.getD sel 0)
  else if sel = 4 then fo.dies.setWidth 72
  else if sel = 5 then ((s.cluster (clOf c)).wave.get f).setWidth 72
  else if sel = 6 then BitVec.ofNat 72 fo.packages.length
  else if 8 ≤ sel ∧ sel < 40 then BitVec.ofNat 72 (fo.packages.getD (sel - 8) 0 % 1024)
  else 0
def execFmemb (f : FmembF) (s : State) : Out :=
  accessOp s f.g (fun a => R.next (setReg s a f.d (membWord s a.core f.fold f.sel.toNat)))

/-! ### CBR and FSYNC (R372 to R374) -/

/-- A contribution: a release of the member's earlier writes, then the flit to the root (07 R168). -/
def contribute (s : State) (a : Actor) (f : Fin 16) (kind : Nat) (pred : Bool) : R Res :=
  (releaseReady s a).bind (fun _ =>
    let n := smGet 0 a.x.rounds f.val
    let s1 := sendUnit s a.core (rootDest (pkgOf a.core)) clsCOL (.foldIn f n a.k kind pred)
    let q : Contribution :=
      { fold := f, round := n, kind := kind, since := s.now, arrived := false, outcome := false, failed := false }
    stall (s1.modStrand a.core a.k (fun x =>
      { x with contrib := some q, rounds := smPut x.rounds f.val (n + 1), prog := .stage 5 0 })) a .fold)

/-- The test that opens every collective operation. -/
def collectiveTest (s : State) (a : Actor) (f : Fin 16) (k : R Res) : R Res :=
  if !bit a.x.memb f.val || bit a.x.eject f.val then
    trapAt (s.modStrand a.core a.k (fun x => { x with eject := setBit x.eject f.val false })) cFoldEjected 0
  else k
def dropContrib (s : State) (a : Actor) : State := s.modStrand a.core a.k (fun x => { x with contrib := none })

/-- CBR: contribute; then, once earlier execute-side entries have completed, take the checkpoint and go the hinted way; a
member that stands at its CBR when its outcome is there goes the way of the outcome. -/
def cbrBody (f : CbrF) (kind : Nat) (s : State) (a : Actor) : R Res :=
  let t := branchTarget a.pc f.ofs f.tslot
  let go := fun (st : State) (taken : Bool) => if taken then jumpTo st a t else R.next st
  noSpec s a
    (match a.x.contrib with
      | some q =>
        if q.arrived then
          if q.failed then trapAt (dropContrib s a) cFoldTimeout 0 else go (dropContrib s a) q.outcome
        else if (s.core a.core).spec.isSome || !seqIdle a.x then stall s a .fold
        else
          let sp : Spec :=
            { strand := a.k, checkpoint := a.x, hint := f.ht, confirmed := false, atomicOut := false, buf := [], held := []
              deferred := none, count := 0 }
          go (s.modCore a.core (fun co => { co with spec := some sp })) f.ht
      | none =>
        collectiveTest s a f.fold
          (if (s.core a.core).spec.isSome then stall s a .fold
           else (checkStatic s a t).bind (fun _ => contribute s a f.fold kind (bit (a.k0 f.k) 0))))
def execCbrAll (f : CbrF) (s : State) : Out := accessOp s f.g (cbrBody f 0 s)
def execCbrAny (f : CbrF) (s : State) : Out := accessOp s f.g (cbrBody f 1 s)

def execFsync (f : FoldF) (s : State) : Out :=
  accessOp s f.g (fun a =>
    noSpec s a
      (match a.x.contrib with
        | some q =>
          if !q.arrived then stall s a .fold
          else if q.failed then trapAt (dropContrib s a) cFoldTimeout 0
          else R.next (dropContrib s a)
        | none => collectiveTest s a f.fold (contribute s a f.fold 2 false)))

/-! ### The end of a speculation (02 R80, R82; 09 R182; 17 R377) -/

/-- The strand that a core's speculation belongs to, as an actor on its confirmed path. -/
def slotActor (s : State) (c k : Nat) : Option Actor :=
  (s.strand c k).map (fun x => { core := c, k := k, x := x, exec := false, sr := x.s, kr := x.k, pc := x.pc })

/-- Buffered stores drain in order: the state and those that still wait, for the accesses that a release follows or for
room. -/
def drainStores (s : State) (a : Actor) : List Access → Except Refusal (State × List Access)
  | [] => .ok (s, [])
  | x :: t =>
    if (x.rel && unordered s a) || heldBySubByte s a.core x || (x.isLocal a.core && nearKept s a.core a.k) ||
        (!x.isLocal a.core && !roomFor s a [x]) then .ok (s, x :: t)
    else
      match storeOne s a x with
      | .ok s1 => drainStores s1 a t
      | .error (.refuse q) => .error q
      | .error _ => .ok (s, x :: t)

/-- What the issue of the first held operation leads to: it is done, with a cause where its target denied it; it waits. -/
inductive Issued where
  | done (s : State) (c : Option Cause)
  | wait (s : State) (out : Bool)
  | refuse (r : Refusal)
  deriving DecidableEq, Repr

def issueHeld (s : State) (a : Actor) (h : Held) : Issued :=
  match h with
  | .send d cls m => .done (sendUnit s a.core d cls m) none
  | .append x =>
    (match appendCommand s x with
      | some s1 => .done s1 none
      | none => .wait s false)
  | .advance q produce n => if advanceWaits s a q produce then .wait s false else .done (advance s a.core q produce n) none
  | .tag pa t => .done (putSlotTag s a.core pa t) none
  | .atomic x d zero =>
    if !a.x.prog.isGather && x.rel && unordered s a then .wait s false
    else
      match loadAll s a [x] none with
      | .ok r =>
        let v := extend72 zero (8 * x.bytes) (leVal (r.2.headD []))
        .done (match d with
          | some i => setS r.1 a i v
          | none => r.1) none
      | .error (.trap s1 c) => .done s1 (some c)
      | .error (.again s1) => .wait s1 true
      | .error (.refuse q) => .refuse q
      | .error _ => .wait s false

def modSpec (s : State) (c : Nat) (f : Spec → Spec) : State := s.modCore c (fun co => { co with spec := co.spec.map f })

/-- The end of a commit: a deferred trap is taken. -/
def endCommit (s : State) (c k : Nat) (deferred : Option Pending) : State :=
  let s1 := s.modCore c (fun co => { co with spec := none })
  match deferred, s1.strand c k with
  | some p, some x =>
    if p.cause.code = cReservedFormat then s1.setStrand c k { x with pending := some p }
    else enterTrap s1 c k { x with wait := none, prog := .none } p
  | _, _ => s1

/-- Held operations issue in order; an atomic that its target denies traps at the strand's next slot, before a later cause
(DESIGN CHOICE, log 45). -/
def drainHeld (s : State) (c k : Nat) : List Held → Out
  | [] => .next (endCommit s c k ((s.core c).spec.bind (·.deferred)))
  | h :: t =>
    match slotActor s c k with
    | none => .next s
    | some a =>
      match issueHeld s a h with
      | .refuse q => .refused q
      | .wait s1 out =>
        .next (modSpec (if out then s1 else markWait s1 a .fence []) c (fun sp => { sp with held := h :: t, atomicOut := out }))
      | .done s1 cause =>
        let s2 := s1.modStrand c k (fun x => { x with prog := .none, wait := none })
        let late := fun (x : Strand) (e : Cause) => some ({ cls := .t, cause := e, epc := x.pc, vpc := 0 } : Pending)
        let s3 := match cause, s2.strand c k with
          | some e, some x => modSpec s2 c (fun sp => { sp with deferred := late x e })
          | _, _ => s2
        drainHeld (modSpec s3 c (fun sp => { sp with held := t, atomicOut := false })) c k t

/-- A confirmed path's turn (02 R80): buffered stores drain, then held operations issue, each in program order, as far as they
find room and what they follow has been performed. A refusal where a store meets a control word whose content the manual does
not state. -/
def drainSpec (s : State) (c k : Nat) : Out :=
  match (s.core c).spec, slotActor s c k with
  | some sp, some a =>
    match (if sp.atomicOut then .ok (s, sp.buf) else drainStores s a sp.buf) with
    | .error q => .refused q
    | .ok (s1, []) => drainHeld (modSpec s1 c (fun q => { q with buf := [] })) c k sp.held
    | .ok (s1, rest) => .next (markWait (modSpec s1 c (fun q => { q with buf := rest })) a .fence [])
  | _, _ => .next s

/-- The outcome confirms the path. What it has buffered and held drains from now on, at the turns of the strand's slot, once a
load that is under way has completed; nothing of a path that has met a trap goes on. -/
def commitSpec (s : State) (c : Nat) (sp : Spec) : Out :=
  let s1 := modSpec s c (fun q => { q with confirmed := true })
  let s2 := s1.modStrand c sp.strand (fun x =>
    if sp.deferred.isSome then { x with contrib := none, prog := .none, wait := none } else { x with contrib := none })
  match s2.strand c sp.strand with
  | some x => if x.prog == .none then drainSpec s2 c sp.strand else .next s2
  | none => .next s2

/-- The slots that INVOKE took on the path are free again under their GEN. -/
def returnSlots (s : State) (c : Nat) (held : List Held) : State :=
  held.foldl (fun st h => match h with
    | .send _ _ (.invocation x) =>
      if hIsAnswer x.ans && hHome x.ans == c then setSlot st c (hSlot x.ans) (hGen x.ans) ansFree else st
    | _ => st) s

/-- The CRED commands of a squashed path are not counted among the strand's (15 R335). -/
def creditBack (held : List Held) (m : SMap Nat) : SMap Nat :=
  held.foldl (fun acc h => match h with
    | .append x => (match x.op with
      | .cred _ _ _ _ _ f _ => if smGet 0 acc f.val = 0 then acc else smPut acc f.val (smGet 0 acc f.val - 1)
      | _ => acc)
    | _ => acc) m

/-- Squash to the branch point: the checkpoint's context, with what other agents have done to the strand since, stands
again at its CBR; the contribution is kept as `q` says. -/
def squashSpec (s : State) (c : Nat) (sp : Spec) (q : Option Contribution) : State :=
  let s1 := (returnSlots s c sp.held).modCore c (fun co => { co with spec := none })
  s1.modStrand c sp.strand (fun x =>
    { sp.checkpoint with
      contrib := q, cancel := x.cancel, denial := x.denial, wdStart := x.wdStart, wdPending := x.wdPending, wdFired := x.wdFired
      memb := x.memb, eject := x.eject, rounds := x.rounds, credRounds := creditBack sp.held x.credRounds, place := x.place, wait := none, prog := .none })

/-- The outcome of a member's contribution has come (02 R80 to R82): a waiting strand finds it at its instruction, a
speculating one commits or squashes. -/
def takeOutcome (s : State) (c k : Nat) (q : Contribution) : Option Out :=
  match (s.core c).spec with
  | some sp =>
    if sp.strand ≠ k then some (.next (s.modStrand c k (fun x => { x with contrib := some q, prog := .none })))
    else if !q.failed && q.outcome == sp.hint then some (commitSpec s c sp)
    else some (.next (squashSpec s c sp (some q)))
  | none => some (.next (s.modStrand c k (fun x => { x with contrib := some q, prog := .none })))

/-! ### Lea stores (R375, R376) -/

/-- The data of a BST: 8 bytes of an s register, else 16. -/
def bstData (s : State) (a : Actor) : BstSrc → R (List Byte)
  | .s i => .ok (leBytes 8 (low64 (a.sr.get i)).toNat)
  | .v i => .ok (vBytes (a.x.v.get i))
  | .q i n => queueBytes s a i n.toNat 0 16
def bstUse : BstSrc → List QUse
  | .q i n => [{ q := i, need := n.toNat, produce := false }]
  | _ => []
def bstLen : BstSrc → Nat
  | .s _ => 8
  | _ => 16
def ruleLea (va : Word) (x : Leaf) : Option Code :=
  if spaceOf va < 0x80 ∨ 0xBF < spaceOf va ∨ ¬ x.learep then some cPermission
  else if x.fmt ≠ 0 then some cFormat
  else none

def execBst (f : BstF) (s : State) : Out :=
  accessOp s f.g (fun a =>
    noSpec s a
      (let va := a.sr.get f.a
       let n := bstLen f.b
       (queuesLegal s a (bstUse f.b)).bind (fun _ =>
         match planOne s a va n n .wr false (ruleLea va) with
         | .error e => planFail s a e
         | .ok _ =>
           ((queuesReady s a (bstUse f.b)).bind (fun _ => bstData s a f.b)).bind (fun b =>
             (releaseReady s a).bind (fun _ =>
               (leaTake s a (.bst (s.core a.core).part a.core va b)).map (fun r =>
                 .next (setReg r.1 a f.d (BitVec.ofNat 72 r.2))))))))

/-- BSEQ: LSEQ becomes at least the sequence read. -/
def execBseq (f : BseqF) (s : State) : Out :=
  accessOp s f.g (fun a =>
    let n := (s.pkg (pkgOf a.core)).lea.applied
    let s1 := s.modCore a.core (fun co => { co with lseq := if co.lseq.toNat < n then BitVec.ofNat 48 n else co.lseq })
    R.next (setReg s1 a f.d (BitVec.ofNat 72 n)))

end Sys2Proof.Machine
end

