-- ==== Sys2Proof/Machine/Memory.lean ====
section
/-! DEFINITION. Rows 0x10 to 0x13: scalar and vector loads and stores, queue loads and stores, gathers, atomics and fences
(15 R306 to R325, R338). -/

namespace Sys2Proof.Machine

/-! ### Common flows -/

/-- A .rel access waits for the strand's earlier accesses and takes a pending store denial (07 R157, R166). One on a
speculative path waits when it drains from the buffer or is issued at the commit (15 R338). -/
def released (s : State) (a : Actor) (rel : Bool) : R Unit :=
  if rel && (a.spec s).isNone then releaseReady s a else .ok ()

/-- The release of a qualified store precedes its first write (15 R324). -/
def releaseFirst (rel : Bool) (xs : List Access) : List Access :=
  match xs with
  | [] => []
  | x :: t => { x with rel := rel } :: t

/-- The accesses of the attempt that is under way. -/
def attempt (a : Actor) (p : List Access × Option PlanErr) : List Access :=
  match a.prog with
  | .gather _ xs _ _ => xs
  | _ => p.1

/-- A load: queue uses are legal; the checks of its elements precede its waits (09 R190); then the data. -/
def loadFlow (s : State) (a : Actor) (us : List QUse) (p : List Access × Option PlanErr) :
    R (State × List (Access × List Byte)) :=
  (queuesLegal s a us).bind (fun _ =>
    (if a.prog.isGather || p.2.isSome then .ok () else queuesReady s a us).bind (fun _ =>
      (loadPlan s a p).bind (fun r =>
        (queuesReady r.1 a us).map (fun _ => (r.1, (attempt a p).zip r.2)))))

/-- A store whose data may come from a queue: legality, its release, the checks of its elements, its waits, its effect (09
R190). -/
def storeFlow (s : State) (a : Actor) (us : List QUse) (rel : Bool) (plan : VWord → Except PlanErr (List StorePiece)) (data : R VWord)
    (lt : LaneTy) (raw : Bool) (rm : RndField) (sat : Bool) : R Res :=
  (queuesLegal s a us).bind (fun _ =>
    (released s a rel).bind (fun _ =>
      match queuesReady s a us with
      | .ok _ => data.bind (fun v => storePieces s a lt raw rm sat (releaseFirst rel) (plan v))
      | .error e =>
        match plan 0 with
        | .error (.cause c) => trapAt s c.code c.eva
        | .error (.denied va pa) => planFail s a (.denied va pa)
        | _ => .error e))

/-- Roundings under rs draw in issue order (05 R130): such an access follows every earlier entry. -/
def drawsInOrder (s : State) (a : Actor) (rm : RndField) : R Unit :=
  if modeOf rm (s.core a.core).fctl = .rs ∧ ¬ seqIdle a.x then stall s a .sequencer else .ok ()

/-- A shadowed load with a vector destination. -/
def shadowableV (s : State) (sh : Bool) (g : Guard) (d : VReg) (body : Actor → R Res) : Out :=
  if sh then shadowOp s g (fun a => tagVReg d a false) else accessOp s g body

/-- One access of a scalar load or atomic, as a plan. -/
def onePlan (r : Except PlanErr Access) : List Access × Option PlanErr := planList (fun _ => r) [0]

def mwBytes : MWidth → Nat
  | .b => 1 | .h => 2 | .w => 4 | .d => 8 | .a => 16

/-! ### LD and ST (R311, R312) -/

def ldValue (mw : MWidth) (z : Bool) (b : List Byte) : Word :=
  match mw with
  | .a => BitVec.ofNat 72 (leVal b)
  | .d => BitVec.ofNat 72 (leVal b)
  | _ => extend72 z (8 * b.length) (leVal b)
def execLd (f : LdF) (s : State) : Out :=
  shadowableMem s f.sh f.g f.d (fun a =>
    let va := a.ea f.m
    let n := mwBytes f.w
    let p := onePlan ((planOne s a va n n .rd false (ruleRaw f.raw)).map (fun x => mkAccess x va (.load n none)))
    (loadFlow s a [] p).map (fun r => .next (setReg r.1 a f.d (ldValue f.w f.z ((r.2.head?.map (·.2)).getD [])))))

/-- The bytes a store writes, and whether it saturated. -/
def stValue (mw : MWidth) (z sat : Bool) (y : Word) : List Byte × Bool :=
  match mw with
  | .a => (leBytes 16 y.toNat, false)
  | _ =>
    let b := 8 * mwBytes mw
    let q := bits y 0 64
    let v := if z then (q : Int) else intOf true 64 q
    let lo := intLo (!z) b
    let hi := intHi (!z) b
    if sat && (decide (v < lo) || decide (hi < v)) then (leBytes (mwBytes mw) (wrapInt b (if v < lo then lo else hi)), true)
    else (leBytes (mwBytes mw) q, false)
def execSt (f : StF) (s : State) : Out :=
  shadowableMem s f.sh f.g .zr (fun a =>
    (released s a f.rel.isSome).bind (fun _ =>
      let va := a.ea f.m
      let n := mwBytes f.w
      match planOne s a va n n .wr false (ruleRaw f.raw) with
      | .error e => planFail s a e
      | .ok x =>
        let d := stValue f.w f.z f.sat (a.sdata f.d)
        let xs := [{ mkAccess x va (.store d.1) with rel := f.rel.isSome }]
        (storeReady s a xs).bind (fun _ =>
          (storeNow (orFlags s a.core (flagIf d.2 flagSAT)) a xs).map Res.next)))

/-! ### LDQ and STQ (R313) -/

/-- The 16-byte units of a slot at `va`. -/
def slotUnits (x : Leaf) (va : Word) (size : Nat) (op : Nat → AccessOp) : List Access :=
  (List.range (size / 16)).map (fun i => mkAccess x (va + BitVec.ofNat 72 (16 * i)) (op i))
/-- Write a slot in units of 16 bytes. -/
def fillSlot (s : State) (a : Actor) (q : Fin 16) (need : Nat) (data : List Byte) : State :=
  (List.range (data.length / 16)).foldl (fun st i =>
    queueStore st a q need (16 * i) ((data.drop (16 * i)).take 16) (List.replicate 16 0xFF)) s

def execLdq (f : LdqF) (s : State) : Out :=
  shadowableMem s f.sh f.g .zr (fun a =>
    let size := slotSize (a.queue s f.q).sz
    let va := a.ea f.m
    let p : List Access × Option PlanErr := match planOne s a va size size .rd false ruleAny with
      | .error e => ([], some e)
      | .ok x => (slotUnits x va size (fun _ => .load 16 none), none)
    (loadFlow s a [{ q := f.q, need := f.need.toNat, produce := true }] p).bind (fun r =>
      (queueRoom r.1 a (r.2.length)).map (fun _ =>
        .next (fillSlot r.1 a f.q f.need.toNat (r.2.flatMap (·.2))))))

def execStq (f : LdqF) (s : State) : Out :=
  shadowableMem s f.sh f.g .zr (fun a =>
    let us : List QUse := [{ q := f.q, need := f.need.toNat, produce := false }]
    (queuesLegal s a us).bind (fun _ =>
      (released s a f.ord.isSome).bind (fun _ =>
        let size := slotSize (a.queue s f.q).sz
        let va := a.ea f.m
        match planOne s a va size size .wr false ruleAny with
        | .error e => planFail s a e
        | .ok x =>
          (queuesReady s a us).bind (fun _ =>
            (queueBytes s a f.q f.need.toNat 0 size).bind (fun b =>
              let xs := releaseFirst f.ord.isSome (slotUnits x va size (fun i => .store ((b.drop (16 * i)).take 16)))
              (storeReady s a xs).bind (fun _ => (storeNow s a xs).map Res.next))))))

/-! ### Vector loads and stores (R314 to R317) -/

/-- XLATE_FORMAT_MISMATCH where a leaf's format has 4-bit elements (R317). -/
def noHalf (x : Leaf) : Option Code := if fmtBits x.fmt = some 4 then some cFormat else none
/-- The alignment that follows from the instruction alone: of `n` elements of LT under RAW. -/
def rawAlign (raw : Bool) (lt : LaneTy) (n : Nat) : Nat := if raw then max 1 (n * lt.width / 8) else 1

/-- The elements of a load in lane order, from its accesses of `n` elements each. -/
def loadedElts (lt : LaneTy) (raw : Bool) (n : Nat) (rs : List (Access × List Byte)) : List (Option Elt) :=
  rs.flatMap (fun r => readElts (elemOf r.1.fmt lt raw) lt n r.2)

def vectorLoad (s : State) (a : Actor) (lt : LaneTy) (rm : RndField) (sat raw : Bool) (d : VReg) (n : Nat)
    (more : List QUse) (p : List Access × Option PlanErr) : R Res :=
  (drawsInOrder s a rm).bind (fun _ =>
    (loadFlow s a (regUseOut d ++ more) p).bind (fun r =>
      (loadLanes r.1 a lt rm sat d (loadedElts lt raw n r.2)).map Res.next))

def execVld (f : VmemF) (s : State) : Out :=
  shadowableV s f.sh f.g f.d (fun a =>
    let n := f.lt.lanes
    vectorLoad s a f.lt f.rm f.sat f.raw f.d n []
      (onePlan (planElems s a (a.ea f.m) f.lt f.raw n (rawAlign f.raw f.lt n) false (fun _ => none))))

/-- The lanes of a value with their numbers. -/
def lanesOf (lt : LaneTy) (v : VWord) : List (Nat × Nat) := (List.range lt.lanes).map (fun i => (i, lane lt.width v i))

def execVst (f : VmemF) (s : State) : Out :=
  shadowableMem s f.sh f.g .zr (fun a =>
    (drawsInOrder s a f.rm).bind (fun _ =>
      let one := fun (v : VWord) =>
        (planStore s a (a.ea f.m) f.lt f.raw (lanesOf f.lt v) (rawAlign f.raw f.lt f.lt.lanes) (fun _ => none)).map
          (fun p => [p])
      storeFlow s a (regUseIn f.d) f.ord.isSome one (vreg s a f.d) f.lt f.raw f.rm f.sat))

/-- Element addresses of VLDS and VSTS (R316). -/
def strideVa (a : Actor) (f : VstrideF) (i : Nat) : Word :=
  a.eaBase f.m + BitVec.ofInt 72 ((i : Int) * (low64 (a.sr.get f.stride)).toInt)
/-- Plan one element of a load or a store at an address. -/
def planElem (s : State) (a : Actor) (lt : LaneTy) (raw page : Bool) (va : Word) : Except PlanErr Access :=
  planElems s a va lt raw 1 (rawAlign raw lt 1) page noHalf
def planPieceAt (s : State) (a : Actor) (lt : LaneTy) (raw : Bool) (va : Word) (i b : Nat) : Except PlanErr StorePiece :=
  planStore s a va lt raw [(i, b)] (rawAlign raw lt 1) noHalf

def execVlds (f : VstrideF) (s : State) : Out :=
  shadowableV s f.sh f.g f.d (fun a =>
    vectorLoad s a f.lt f.rm f.sat f.raw f.d 1 []
      (planList (fun i => planElem s a f.lt f.raw false (strideVa a f i)) (List.range f.lt.lanes)))
def execVsts (f : VstrideF) (s : State) : Out :=
  shadowableMem s f.sh f.g .zr (fun a =>
    (drawsInOrder s a f.rm).bind (fun _ =>
      storeFlow s a (regUseIn f.d) f.ord.isSome
        (fun v => planPieces (fun i => planPieceAt s a f.lt f.raw (strideVa a f i) i (lane f.lt.width v i))
          (List.range f.lt.lanes))
        (vreg s a f.d) f.lt f.raw f.rm f.sat))

/-- Index lane `i` (R317). -/
def indexOf (lt : LaneTy) (v : VWord) (i : Nat) : Nat := lane (128 / lt.lanes) v i
def indexVa (a : Actor) (f : VindexF) (v : VWord) (i : Nat) : Word :=
  a.eaBase f.m + BitVec.ofNat 72 (indexOf f.lt v i * 2 ^ f.sc.toNat)
/-- Some index reaches the bound. -/
def outOfBound (a : Actor) (f : VindexF) (v : VWord) : Bool :=
  match f.bound with
  | none => false
  | some c => (List.range f.lt.lanes).any (fun i => decide (bits (a.sr.get c) 0 32 ≤ indexOf f.lt v i))

/-- The index operand, once every queue use is legal and its own need is met; then the bound (R317). -/
def withIndex (s : State) (a : Actor) (f : VindexF) (us : List QUse) (k : VWord → R Res) : R Res :=
  (queuesLegal s a (us ++ regUseIn f.idx)).bind (fun _ =>
    (queuesReady s a (regUseIn f.idx)).bind (fun _ =>
      (vreg s a f.idx).bind (fun v => if outOfBound a f v then trapAt s cGatherBounds 0 else k v)))

def execVgath (f : VindexF) (s : State) : Out :=
  shadowableV s f.sh f.g f.d (fun a =>
    withIndex s a f (regUseOut f.d) (fun v =>
      vectorLoad s a f.lt f.rm f.sat f.raw f.d 1 (regUseIn f.idx)
        (planList (fun i => planElem s a f.lt f.raw true (indexVa a f v i)) (List.range f.lt.lanes))))
def execVscat (f : VindexF) (s : State) : Out :=
  shadowableMem s f.sh f.g .zr (fun a =>
    withIndex s a f (regUseIn f.d) (fun x =>
      (drawsInOrder s a f.rm).bind (fun _ =>
        storeFlow s a (regUseIn f.d ++ regUseIn f.idx) f.ord.isSome
          (fun v => planPieces (fun i => planPieceAt s a f.lt f.raw (indexVa a f x i) i (lane f.lt.width v i))
            (List.range f.lt.lanes))
          (vreg s a f.d) f.lt f.raw f.rm f.sat)))

/-- VGATH.bc (R318). -/
def execVgathBc (f : VgathBcF) (s : State) : Out :=
  shadowableMem s f.sh f.g .zr (fun a =>
    let q := a.queue s f.q
    let z := slotSize q.sz
    let c := a.sr.get f.c
    let log2s := bits c 32 6
    let m := min (bits c 0 32) 4
    let entry := fun (j : Nat) => lane 32 a.x.v[f.b] j
    let us : List QUse := [{ q := f.q, need := f.need.toNat + m - 1, produce := true }]
    (queuesLegal s a us).bind (fun _ =>
      if log2s < 6 ∨ 30 < log2s ∨ bits c 38 34 ≠ 0 then trapAt s cGatherBounds 0
      else if m = 0 then R.next s
      else if (List.range m).any (fun j => entry j == 0xFFFFFFFF) then trapAt s cGatherBounds 0
      else
        (queuesReady s a us).bind (fun _ =>
          let va := fun (j : Nat) => a.eaBase f.m + BitVec.ofNat 72 (entry j * 2 ^ log2s)
          let p := planList (fun j =>
            (planOne s a (va j) z z .rd true ruleAny).map (fun x => mkAccess x (va j) (.load z none))) (List.range m)
          (loadPlan s a p).bind (fun r =>
            (queueRoom r.1 a (m * (z / 16))).map (fun _ =>
              .next (r.2.zipIdx.foldl (fun st d => fillSlot st a f.q (f.need.toNat + d.2) d.1) r.1))))))

/-! ### Atomics (R320 to R322) -/

def iwBytes : IWidth → Nat
  | .w64 => 8 | .w32 => 4 | .w16 => 2 | .w8 => 1
/-- ATOMIC_FORMAT (R321). -/
def ruleInt (n : Nat) (x : Leaf) : Option Code :=
  if x.fmt = 0 ∨ (x.fmt = 1 ∧ n = 1) ∨ (x.fmt = 2 ∧ n = 2) ∨ (x.fmt = 3 ∧ n = 4) then none else some cAtomicFormat
def ruleFloat (f : AmofFmt) (x : Leaf) : Option Code :=
  let want := match f with
    | .fp32 => 0x10 | .fp16 => 0x11 | .bf16 => 0x12
  if x.fmt = 0 ∨ x.fmt = want then none else some cAtomicFormat
def ordRel : Order → Bool
  | .rel _ => true
  | _ => false

/-- An .acq access is performed before every later access of its strand (07 R166). -/
def ordAcq : Order → Bool
  | .acq _ => true
  | _ => false

/-- An atomic: the old value goes to D (R321). On a speculative path it is checked and held, and the path waits where it
names D (02 R79; R338); one with .acq, which every later access follows, waits for the outcome itself (log 45). -/
def atomicBody (s : State) (a : Actor) (ord : Order) (d : SReg) (m : MemBase) (z : Bool) (rule : Leaf → Option Code)
    (x : Atomic) : R Res :=
  let va := a.eaBase m
  let plan := (planOne s a va x.len x.len .amo false rule).map (fun l => { mkAccess l va (.atomic x) with rel := ordRel ord })
  if (a.spec s).isSome then
    if ordAcq ord then stall s a .other
    else
      match plan with
      | .error e => planFail s a e
      | .ok y =>
        let reg := match d with
          | .s i => some i
          | .zr => none
        R.next (specHold s a.core (.atomic y reg z))
  else
    (released s a (ordRel ord && !a.x.prog.isGather)).bind (fun _ =>
      let p := onePlan plan
      (loadFlow s a [] p).map (fun r =>
        .next (setReg r.1 a d (extend72 z (8 * x.len) (leVal ((r.2.head?.map (·.2)).getD []))))))
def intAtomic (s : State) (f : AmoF) (op : AtomicOp) : Out :=
  shadowableMem s f.sh f.g f.d (fun a =>
    let n := iwBytes f.w
    atomicBody s a f.ord f.d f.m f.z (ruleInt n)
      { op := op, len := n, signed := !f.z, b := low64 (a.sdata f.b), c := 0 })
def execAmoAdd (f : AmoF) (s : State) : Out := intAtomic s f .add
def execAmoMin (f : AmoF) (s : State) : Out := intAtomic s f .min
def execAmoMax (f : AmoF) (s : State) : Out := intAtomic s f .max
def execAmoAnd (f : AmoF) (s : State) : Out := intAtomic s f .and
def execAmoOr (f : AmoF) (s : State) : Out := intAtomic s f .or
def execAmoXor (f : AmoF) (s : State) : Out := intAtomic s f .xor
def execAmoSwap (f : AmoF) (s : State) : Out := intAtomic s f .swap
def execAmoCas (f : CasF) (s : State) : Out :=
  shadowableMem s f.sh f.g f.d (fun a =>
    let n := iwBytes f.w
    atomicBody s a f.ord f.d f.m f.z (ruleInt n)
      { op := .cas, len := n, signed := !f.z, b := low64 (a.sdata f.b), c := low64 (a.sr.get f.c) })
def execAmofAdd (f : AmofF) (s : State) : Out :=
  shadowableMem s f.sh f.g f.d (fun a =>
    let n := if f.fmt = .fp32 then 4 else 2
    atomicBody s a f.ord f.d f.m true (ruleFloat f.fmt)
      { op := .fadd f.fmt, len := n, signed := false, b := low64 (a.sdata f.b), c := 0 })

/-! ### Fences (R323) -/

def execFence (f : FenceF) (s : State) : Out :=
  shadowableMem s f.sh f.g .zr (fun a =>
    if (a.spec s).isSome then stall s a .other else (releaseReady s a).bind (fun _ => R.next s))
def execFenceSysLea (f : FenceLeaF) (s : State) : Out :=
  shadowableMem s f.sh f.g f.d (fun a =>
    if (a.spec s).isSome then stall s a .other
    else
      (releaseReady s a).bind (fun _ =>
        (leaTake s a .fence).map (fun r => .next (setReg r.1 a f.d (BitVec.ofNat 72 r.2)))))

end Sys2Proof.Machine
end

