-- ==== Sys2Proof/Machine/Select.lean ====
section
/-! DEFINITION. Which routines of a core are ready, and in what order the selector takes them (02 R65, R66, R68, R69; 03
R90), with the time that each has been ready. -/

namespace Sys2Proof.Machine

/-! ### Slots and contexts -/

/-- A slot is held by a hold mask, or, with CONC clear, while a strand lives that was started from it on this core: a strand
keeps the frame of the core on which it started (R64). -/
def slotHeld (co : Core) (c slot : Nat) : Bool :=
  let r := smGet Routine.reset co.routines slot
  (liveStrands co).any (fun p =>
    bit p.2.hold slot || (!r.conc && decide (p.2.slot.toNat = slot) && decide (p.2.frame.owner = c)))

/-- Filled slots that no strand has claimed. -/
def Stage.filled (st : Stage) : Nat := st.published - st.claimed
/-- Slots from the next to be reserved on that no strand has reserved or holds: the slots of a queue are reserved in the order of a
ring, so that one freed out of order is free once those before it are (DESIGN CHOICE, log 29). -/
def Stage.free (st : Stage) : Nat := st.cap - (st.reserved - st.freed)

/-- A stage's instance has work in its input queue: when its oldest unclaimed slot was filled, and whether the output queue has
room for its result. -/
def stageInput (s : State) (e : Nat × Nat × Nat × Nat) : Option (Nat × Bool) :=
  (s.launch e.1 e.2.1).bind (fun l =>
    (l.stages[e.2.2.1]?).bind (fun st =>
      let stays := st.instances.any (fun q => q.2.2.1 == e.2.2.2 && !q.2.2.2)
      if stays && decide (0 < st.filled) then
        some (smGet 0 st.stamps st.claimed, (l.stages[e.2.2.1 + 1]?).all (fun nx => decide (0 < nx.free)))
      else none))
/-- A stage's instance may start. -/
def stageReady (s : State) (e : Nat × Nat × Nat × Nat) : Option Nat :=
  (stageInput s e).bind (fun q => if q.2 then some q.1 else none)

/-- A strand that is to start: its priority before promotion, its arrival, its slot, and whether it claims stage work. -/
structure Cand where
  prio : Nat
  arrival : Nat
  slot : Nat
  stage : Bool
  deriving DecidableEq, Repr, Inhabited

/-- What waits in one slot's queues, held or not. -/
def slotWork (s : State) (slot : Nat) (r : Routine) : List Cand :=
  (match r.queue.head? with
    | some h => [{ prio := (h.prio.getD r.prio).toNat, arrival := h.arrival, slot := slot, stage := false }]
    | none => []) ++
  (match r.stage.bind (stageReady s) with
    | some t => [{ prio := r.prio.toNat, arrival := t, slot := slot, stage := true }]
    | none => [])

/-- A slot's queue, or its stage's input queue, is not empty. -/
def slotFilled (s : State) (r : Routine) : Bool := !r.queue.isEmpty || (r.stage.bind (stageInput s)).isSome

def promoteAfter : Nat := 4096
/-- The level at which a routine is selected: one above its own after 4,096 ready cycles, at most 2. -/
def Routine.level (r : Routine) (prio : Nat) : Nat :=
  if (r.raised || decide (promoteAfter < r.waited)) && decide (prio < 2) then prio + 1 else prio

/-- Routines whose queues hold work and whose slots are not held, with the level at which they are selected. Contexts that
have moved here, at 32, are no routine's. -/
def unheld (s : State) (c : Nat) : List Cand :=
  let co := s.core c
  co.routines.flatMap (fun q =>
    if q.1 < 32 && slotHeld co c q.1 then []
    else (slotWork s q.1 q.2).map (fun d => { d with prio := q.2.level d.prio }))

/-! ### A free context (R69) -/

/-- A core that is to park lets no strand go on (09 R196). -/
def parkDue (co : Core) : Bool :=
  (liveStrands co).any (fun p => p.2.pending.any (fun q => q.cause.code == cReservedFormat))

/-- A strand parked in a tile. -/
def inTile (co : Core) (k : Nat) : Bool := co.tileStrand.any (fun t => t.2 == some k)
/-- Register banks in use: by banked strands, and by strands parked in idle banks. -/
def banked (co : Core) : Nat :=
  ((liveStrands co).filter (fun p => p.2.place == .bank || (p.2.place == .parked && !inTile co p.1))).length
def parkAfter : Nat := 256
/-- A banked strand that may be parked: it has stalled for more than 256 cycles while higher work waits. One on a speculative path
or at a row barrier stays, since what it has under way lies outside its context. -/
def mayPark (s : State) (c k : Nat) (x : Strand) : Bool :=
  x.place == .bank && x.gang.isNone && !(s.core c).spec.any (fun sp => sp.strand == k) && x.wait.any (fun w => decide (w.since + parkAfter < s.now)) &&
    (unheld s c).any (fun d => decide (x.prio.toNat < d.prio))
def parkable (s : State) (c : Nat) : Option Nat :=
  ((liveStrands (s.core c)).find? (fun p => mayPark s c p.1 p.2)).map (·.1)
def freeFrame (co : Core) : Option Nat := (List.range 32).find? (fun i => !bit co.frames i)
def freeIdx (co : Core) : Option Nat := (List.range 32).find? (fun i => (smGet none co.strands i).isNone)
def contextFree (s : State) (c : Nat) : Bool :=
  let co := s.core c
  (decide (banked co < 8) || (parkable s c).isSome) && (freeFrame co).isSome && (freeIdx co).isSome

/-! ### The selector's order (R68) -/

/-- `a` is taken before `b`. -/
def Cand.before (a b : Cand) : Bool :=
  decide (b.prio < a.prio) ||
    (a.prio == b.prio && (decide (a.arrival < b.arrival) || (a.arrival == b.arrival && decide (a.slot < b.slot))))
def bestCand (l : List Cand) : Option Cand :=
  l.foldl (fun acc d => match acc with
    | none => some d
    | some b => if d.before b then some d else some b) none

/-! ### Waiting times (R68) -/

/-- `dt` cycles of one routine: the count runs while it is ready and restarts when its queue becomes empty. -/
def Routine.wait (r : Routine) (work ready : Bool) (dt : Nat) : Routine :=
  if !work then { r with waited := 0, raised := false }
  else if ready then { r with waited := r.waited + dt }
  else r
def waitRoutines (s : State) (dt c : Nat) (co : Core) : Core :=
  if co.halt != .none then co
  else
    let free := contextFree s c
    { co with routines := co.routines.map (fun q =>
        let ready := free && !(slotWork s q.1 q.2).isEmpty && !(q.1 < 32 && slotHeld co c q.1)
        (q.1, q.2.wait (slotFilled s q.2) ready dt)) }

/-- Event 0x0001, cycles, at every counter (26 Table 26.3). -/
def cycles (dt : Nat) (k : Counter) : Counter := k.add 1 none dt

/-! ### Idle clusters (03 R97) -/

/-- No live strand, bound instance, filled routine queue, engine command, or message awaiting delivery. -/
def clusterIdle (s : State) (cl : Nat) : Bool :=
  (List.range 16).all (fun n =>
    let co := s.core (cl * 16 + n)
    (liveStrands co).isEmpty && co.routines.all (fun r => r.2.stage.isNone && r.2.queue.isEmpty) && co.staging.isEmpty &&
      co.chains.all (·.isEmpty)) &&
  s.net.all (fun f => f.cls == clsRSP || (match f.dst with
    | .core c => clOf c != cl
    | .shepherd q => q != cl
    | _ => true))
def clustersOf (s : State) : List Nat := (s.cores.map (fun q => clOf q.1) ++ s.clusters.map (·.1)).eraseDups
/-- A cluster that is not idle starts its idle time anew. -/
def markBusy (s : State) (t : Nat) : State :=
  ((clustersOf s).filter (fun cl => !clusterIdle s cl)).foldl
    (fun st cl => st.modCluster cl (fun x => { x with idleSince := t })) s

/-- Time passes before a turn (01 R502). -/
def State.advance (s : State) (dt : Nat) : State :=
  if dt = 0 then s
  else
    let s1 := markBusy s (s.now + dt)
    { s1 with
      cores := s1.cores.map (fun q => (q.1, { waitRoutines s dt q.1 q.2 with counters := q.2.counters.map (cycles dt) }))
      clusters := s1.clusters.map (fun q => (q.1, { q.2 with counters := q.2.counters.map (cycles dt) }))
      packages := s1.packages.map (fun q =>
        (q.1, { q.2 with counters := q.2.counters.map (fun g => g.map (cycles dt)) }))
      now := s.now + dt }

end Sys2Proof.Machine
end

