-- ==== Sys2Proof/Machine/Turns.lean ====
section
/-! DEFINITION. One turn of the machine: the slot that a strand issues (10 R205 to R207, R217; 09 R190, R198), the entry at
the head of a sequencer, a fill of a translation cache (07 R150), a device event. The meaning of an instruction is the
argument `ex`. -/

namespace Sys2Proof.Machine

/-! ### The slot at a strand's program counter -/

/-- The SIDE bit that an opcode asks for, or 0 where it takes either (10 Table 10.6). -/
def sideOfOpcode (w : SlotBits) : Bool :=
  let s := Slot.unpack w
  (opSide (s.opc.toNat / 32) (s.opc.toNat % 32)).getD false

/-- What the run-time decoder makes of a slot (10 R217): the instruction as encoded, whatever its SIDE bit; a NOP where
the slot is none, or its guard is 1000. -/
def slotInstr (line : List Byte) (pos : Nat) : Instr :=
  let side := sideBit line pos
  match decode pos side (slotBits line pos) with
  | .ok i => i
  | .error .side =>
    (match decode pos (!side) (slotBits line pos) with
      | .ok i => i
      | .error _ => .nop { g := { neg := false, k := 0 }, exec := side })
  | .error _ => .nop { g := { neg := false, k := 0 }, exec := side }

/-- The causes of fetching the slot at `x.pc`, in the order of 09 R190 item 1, or its line. -/
def fetchSlot (s : State) (c : Nat) (x : Strand) : Except Code (List Byte) :=
  match fetchLine s c x x.pc with
  | .error e => .error e
  | .ok (l, line) =>
    let shape := pcShapeOk x.pc
    if !(if shape then parityOk line (pcSlot x.pc) else ones (lineWord line) % 2 == 0) then .error cLineParity
    else if !shape then .error cBranchTarget
    else if x.needTgt && !tgtBit line (pcSlot x.pc) then .error cBranchTarget
    else if !scanOk l then .error cIllegalEncoding
    else .ok line

/-- A strand has a trap to take. One of class V waits for the loads of the slot that is under way, whose turns go on (09
R179). -/
def trapDue (x : Strand) : Bool :=
  match x.pending with
  | some p => !(p.cls == .v && p.cause.code != cReservedFormat && x.prog.isGather)
  | none => false
/-- A strand's speculative path is confirmed and drains what it has buffered and held. -/
def commits (co : Core) (k : Nat) (x : Strand) : Bool :=
  co.spec.any (fun sp => sp.strand == k && sp.confirmed && (sp.atomicOut || x.prog == .none))

/-- A strand that is not in a bank finds one, its own where it is parked in one, and room for its entries in the core's sequencer (01
Table 1.1). -/
def bankFits (co : Core) (k : Nat) (x : Strand) : Bool :=
  ((x.place == .parked && !inTile co k) || decide (banked co < 8)) &&
    (decide (strandEntries x = 0) || decide (sequenced co + strandEntries x ≤ 16))
/-- Whether a strand may not issue: its core is halted or is to park, it has a trap to take, its speculative path has a
deferred trap or 2,048 instructions (02 R79), or it is neither in a bank nor can be brought into one (02 R69). -/
def cannotIssue (co : Core) (k : Nat) (x : Strand) : Bool :=
  co.halt != .none || parkDue co || trapDue x ||
  co.spec.any (fun sp => sp.strand == k && !sp.confirmed && (sp.deferred.isSome || decide (2048 ≤ sp.count))) ||
  (x.place != .bank && !bankFits co k x)

/-- The strand watchdog at a slot boundary: class N, before the slot (09 R198). -/
def watchdogDue (x : Strand) : Bool := x.wdPending && x.prog == .none

/-- A slot runs once the words that it uses have passed their checks (26 R472, R473, R475): an error that cannot be corrected
ends the strand, and one that can is corrected and counted. -/
def checkedSlot (ex : Instr → State → Out) (s : State) (c k : Nat) (x : Strand) (line : List Byte) (i : Instr) : Out :=
  let r := slotReads x i
  if x.checks.lost r then .next (endBare s c k x cMachineCheck 0 0)
  else
    let s1 := correctAll s c k x r
    match slotCheck s c k x line (pcSlot x.pc) i with
    | some e => .next (raise s1 c k .t { code := e, eva := 0 } x.pc 0)
    | none => ex i s1

/-- A strand in a register bank takes no place in a tile. -/
def toBank (s : State) (c k : Nat) (x : Strand) : State :=
  (s.setStrand c k x).modCore c (fun co => { co with tileStrand := co.tileStrand.filter (fun t => t.2 != some k) })
/-- A slot issues. -/
def slotTurn (ex : Instr → State → Out) (s : State) (c k : Nat) : Out :=
  match s.strand c k with
  | none => .next s
  | some x =>
    if cannotIssue (s.core c) k x || awaits x then .next s
    else if commits (s.core c) k x then drainSpec s c k
    else
      let s0 := toBank s c k { x with place := .bank }
      if watchdogDue x then
        .next (raise (toBank s c k { x with place := .bank, wdPending := false }) c k .n { code := cWatchdog, eva := 0 } x.pc 0)
      else if drains x then
        .next (toBank s c k { x with place := .bank, wait := waitOn s.now .sequencer [] x.wait })
      else
        match fetchSlot s c x with
        | .error e => .next (raise (countFetch s0 c x x.pc e) c k .t { code := e, eva := x.pc } x.pc 0)
        | .ok line =>
          let i := slotInstr line (pcSlot x.pc)
          let w := Slot.unpack (slotBits line (pcSlot x.pc))
          let s1 := toBank s c k { x with place := .bank, needTgt := false }
          if !i.side && slotWaits x w i || heldWaits (s.core c).spec k w i then
            .next (s1.modStrand c k (fun y => { y with wait := waitOn s.now .sequencer [] y.wait }))
          else checkedSlot ex s1 c k x line i

/-- The head entry of a sequencer executes. -/
def entryTurn (ex : Instr → State → Out) (s : State) (c k : Nat) : Out :=
  match s.strand c k with
  | none => .next s
  | some x =>
    let co := s.core c
    if co.halt != .none || parkDue co || x.pending.isSome || x.place != .bank || gangStarted s c k ||
        co.spec.any (fun sp => sp.strand == k && sp.deferred.isSome) then .next s
    else
      match seqHead x.seq with
      | none => .next s
      | some e =>
        let r : Reads := { readsOf x e.k e.i with s := [], k := [] }
        if x.checks.lost r then .next (endBare s c k x cMachineCheck 0 0)
        else
          let s1 := correctAll s c k x r
          if entryFails x e || entryUseFails s c k e then .next (raise s1 c k .v { code := cShadow, eva := 0 } x.pc e.pc)
          else ex e.i (captureOperands s1 c k ((s1.strand c k).getD x) e)

/-- A walk fills a core's translation cache (07 R150). -/
def fillTurn (s : State) (c : Nat) (va : Word) : State :=
  let co := s.core c
  match s.walk (pkgOf c) co.part va with
  | .absent _ => s
  | .denied pa => s.countDenial pa co.part
  | .leaf l =>
    let e : TcEntry := { part := co.part, va := va, big := l.big, lo := l.lo, hi := l.hi, passed := l.passed }
    s.setCore c { co with tc := e :: co.tc.filter (fun x => !x.covers co.part va) }

/-- Two flipped bits in this word end the strand at once: it is no register, and no shadow slot has written its check bits. -/
def fatalFlip (w : CheckedWord) (s : State) (c : Nat) : Bool :=
  match w with
  | .other => true
  | .slot pa => (smGet none (s.core c).slotTags pa).isNone
  | _ => false
/-- An upset of a checked word: of a register of a strand, or of other state of it, which two flipped bits end (09 R200). -/
def flipTurn (s : State) (c k : Nat) (w : CheckedWord) (two : Bool) : State :=
  match s.strand c k with
  | none => s
  | some x => if fatalFlip w s c && two then endBare s c k x cMachineCheck 0 0 else flipBits s c k w two

/-- The turn that the state names. -/
def runTurn (ex : Instr → State → Out) (s : State) : Out :=
  match s.turn.agent with
  | .slot c k => slotTurn ex s c k
  | .execute c k => entryTurn ex s c k
  | .fill c va => .next (fillTurn s c va)
  | .flip c k w two => .next (flipTurn s c k w two)
  | .event i => if (encodeSlot i).isNone then ex i s else .next s

end Sys2Proof.Machine
end

