-- ==== Sys2Proof/Machine/Matrix.lean ====
section
/-! DEFINITION. Rows 0x18 and 0x19: weight planes, the gang barrier, microprograms, matrix operations, accumulator tiles
(19 R382 to R390; 20 R405 to R416, R426). -/

namespace Sys2Proof.Machine

/-! ### The core's issue order (R426) -/

/-- Tiles (0 to 15), the weight planes (16), the ladder (17) and the microprogram banks (18) that an entry uses, each with
whether it writes it. -/
def unitNames : Instr → List (Nat × Bool)
  | .mma f | .mmas f => [(f.d.val, true), (16, false)]
  | .mrec f => [(f.d.val, true), (16, false), (18, false)]
  | .wswp _ => [(16, true)]
  | .gang _ => [(18, true)]
  | .azero f | .azeroRelease f => [(f.d.val, true)]
  | .ald f => [(f.d.val, true)]
  | .ast f => [(f.d.val, false)]
  | .acvt f => [(f.a.val, false)]
  | .ladcfg f => [(17, true), (18, false), (f.d.val, false)]
  | .ladpush f => [(17, true), (f.d.val, false)]
  | .ladrd f => [(17, true), (f.d.val, true)]
  | .ladld f => [(17, true), (f.d.val, true)]
  | .ladw _ => [(17, true)]
  | _ => []
def unitClash (i j : Instr) : Bool :=
  (unitNames i).any (fun a => (unitNames j).any (fun b => a.1 == b.1 && (a.2 || b.2)))
def allEntries (x : Strand) : List SeqEntry := x.gang.toList ++ seqEntries x
/-- No other strand of the core has an earlier entry on the same tile, plane, bank or ladder. -/
def inOrder (co : Core) (k num : Nat) (i : Instr) : Bool :=
  (liveStrands co).all (fun p => p.1 == k || (allEntries p.2).all (fun e => !(decide (e.num < num) && unitClash i e.i)))

/-- An execute-side instruction of these rows: its checks at issue under a true guard, then its effect in issue order. -/
def matrixOp (s : State) (i : Instr) (g : Guard) (issue : Actor → R State) (body : Actor → R Res) : Out :=
  match s.actor with
  | none => .fault .noStrand
  | some a =>
    if a.exec then
      let num := ((seqHead a.x.seq).map (·.num)).getD 0
      finishEntry a (if inOrder (s.core a.core) a.k num i then body a else stall s a .other)
    else
      finishSlot a (noSpec s a
        (if (seqEntries a.x).any (fun e => entryWritesK e g.k) then stall s a .sequencer
         else (if a.guard g then issue a else .ok s).bind (fun s1 => enqueue s1 a i)))
def noCheck (s : State) (_ : Actor) : R State := .ok s

/-- A write to a rung tile while the ladder is configured (19 R398; R418). -/
def isRung (co : Core) (t : Nat) : Bool := co.ladIssued.any (fun l => decide (l.1 ≤ t) && decide (t < l.1 + l.2))
def rungCheck (s : State) (t : Fin 16) (a : Actor) : R State :=
  if isRung (s.core a.core) t.val then trapAt s cLadder 0 else .ok s

/-! ### Tiles (19 R388) -/

def tileAt (co : Core) (t m c : Nat) : BitVec 32 := smGet 0 co.tiles (1024 * t + 32 * m + c)
/-- A write to tile `t`: a parked strand in it moves to the save area, and the allocation bit is set. -/
def claimTile (co : Core) (t : Nat) : Core :=
  let co1 := match smGet none co.tileStrand t with
    | none => co
    | some k =>
      let rest : SMap (Option Nat) := co.tileStrand.filter (fun e => e.2 != some k)
      match smGet none co.strands k with
      | some y => { co with tileStrand := rest, strands := smPut co.strands k (some { y with place := Place.saved }) }
      | none => { co with tileStrand := rest }
  { co1 with tileAlloc := setBit co1.tileAlloc t true }
/-- Write elements of a tile, each with its number 32 × row + column. -/
def writeTile (co : Core) (t : Nat) (xs : List (Nat × BitVec 32)) : Core :=
  let co1 := claimTile co t
  { co1 with tiles := xs.foldl (fun m x => smSet 0 m (1024 * t + x.1) x.2) co1.tiles }

/-- The same in the state, with the save record of a strand that it moves. -/
def tileWrite (s : State) (c t : Nat) (xs : List (Nat × BitVec 32)) : State :=
  writeMoved s (s.modCore c (fun co => writeTile co t xs)) c

/-! ### Formats and planes (R406, R408, R409) -/

def mfBits : MatFmt → Nat
  | .i8 | .e4m3 | .e5m2 | .db8 => 8
  | .e2m1 | .db4 => 4
  | .fp16 | .bf16 => 16
def mfBlock : MatFmt → Bool
  | .db8 | .db4 => true
  | _ => false
def mfFp : MatFmt → FpFmt
  | .e4m3 => .e4m3 | .e5m2 => .e5m2 | .e2m1 => .e2m1 | .fp16 => .fp16 | _ => .bf16
/-- K of one operation, RB and PR (Table 20.2). -/
def mfK (mf : MatFmt) (sparse : Bool) : Nat := (if mfBits mf = 4 then 64 else 32) * (if sparse then 2 else 1)
def mfRow (mf : MatFmt) (sparse : Bool) : Nat := mfK mf sparse * mfBits mf / 8
def mfPairs (mf : MatFmt) (sparse : Bool) : Nat := if mfBlock mf then mfK mf sparse / 32 * 2 else 0
def planeBytes (mf : MatFmt) : Nat := if mfBits mf = 16 then 2048 else 1024
def pairBytes : MatFmt → Nat
  | .db8 => 64 | .db4 => 128 | _ => 0

/-- Element `k` of packed elements. -/
def packed (eb : Nat) (data : List Byte) (k : Nat) : Nat :=
  leVal ((data.drop (k * eb / 8)).take (max 1 (eb / 8))) / 2 ^ (k * eb % 8) % 2 ^ eb
/-- An element's exact value; none when it decodes 0xFF. -/
def matNum (mf : MatFmt) (b e0 e1 : Nat) : Option Num :=
  match mf with
  | .i8 => some (numOfInt (intOf true 8 b))
  | .db8 => blockDecode false e0 e1 b
  | .db4 => blockDecode true e0 e1 b
  | _ => some (fpDecode (mfFp mf) b)
def byteAt (data : List Byte) (i : Nat) : Nat := (data.getD i 0).toNat

/-- An A row: RB bytes and its pairs. -/
def rowNums (mf : MatFmt) (sparse : Bool) (data : List Byte) : Option (List Num) :=
  let rb := mfRow mf sparse
  (List.range (mfK mf sparse)).mapM (fun k =>
    let p := rb + 2 * (k / 32)
    matNum mf (packed (mfBits mf) data k) (byteAt data p) (byteAt data (p + 1)))

/-- The 2-bit metadata entry `j` (R408). -/
def metaEntry (pl : Plane) (j : Nat) : Nat := byteAt pl.meta_ (j / 4) / 4 ^ (j % 4) % 4
/-- The K index that stored element `e` of column `n` serves (R409). -/
def kIndex (pl : Plane) (n e : Nat) : Nat :=
  if !pl.sparse then e
  else if mfBits pl.fmt = 8 then 4 * (e / 2) + metaEntry pl (32 * n + e)
  else 8 * (e / 2 / 2) + 2 * metaEntry pl (32 * n + e / 2) + e % 2
/-- Column `n` of a plane: each stored element's K index and value. -/
def columnNums (pl : Plane) (n : Nat) : Option (List (Nat × Num)) :=
  let eb := mfBits pl.fmt
  let cb := planeBytes pl.fmt / 32
  let data := (pl.weights.drop (cb * n)).take cb
  let bc := if pl.fmt = .db4 then 2 else 1
  (List.range (cb * 8 / eb)).mapM (fun e =>
    let p := 2 * (bc * n + e / 32)
    (matNum pl.fmt (packed eb data e) (byteAt pl.pairs p) (byteAt pl.pairs (p + 1))).map (fun v => (kIndex pl n e, v)))

/-! ### MMA and MMAS: chunks of 32 (05 R137) -/

def chunkSum (row : List Num) (terms : List (Nat × Num)) : BitVec 32 × Flags :=
  let ps := terms.map (fun t => numMul (row.getD t.1 numZero) t.2)
  let sum := numSum .rn (ps.map (·.1))
  let t := toF32 sum.1
  (t.1, ps.foldl (fun f p => f ||| p.2) (sum.2 ||| t.2))
def mmaElem (row : List Num) (col : List (Nat × Num)) (k : Nat) (acc : BitVec 32) : BitVec 32 × Flags :=
  (List.range (k / 32)).foldl (fun st j =>
    let t := chunkSum row (col.filter (fun x => x.1 / 32 == j))
    let sum := numSum .rn [f32 st.1, f32 t.1]
    let r := toF32 sum.1
    (r.1, st.2 ||| t.2 ||| sum.2 ||| r.2)) (acc, 0)

/-! ### MREC: microprograms (19 R389; R411) -/

/-- Microword `i` of a bank, and its fields. -/
def microWord (b : Micro) (i : Nat) : BitVec 16 := b.mw.getD i 0
def microValid (b : Micro) : Bool :=
  decide (1 ≤ b.p.toNat) && decide (b.p.toNat ≤ 4) && b.rest == 0 &&
  (List.range b.p.toNat).all (fun i =>
    let w := microWord b i
    decide (bits w 13 3 ≤ 5) && decide (bits w 10 3 ≤ 4) && decide (bits w 7 3 ≤ 4) && decide (bits w 4 3 ≤ 4) &&
      bits w 0 4 == 0)
/-- One operation on S, A, W and T. -/
def microOp (b : Micro) (i : Nat) (sv av wv tv : BitVec 32) : BitVec 32 × Flags :=
  let w := microWord b i
  let src := fun (n : Nat) => if n = 0 then sv else if n = 1 then av else if n = 2 then wv else if n = 3 then tv else b.kc
  let x := src (bits w 10 3)
  let y := src (bits w 7 3)
  let z := src (bits w 4 3)
  let done := fun (r : Num × Flags) => (let e := toF32 r.1; (e.1, r.2 ||| e.2))
  match bits w 13 3 with
  | 0 => done (numSum .rn [f32 x, f32 y])
  | 1 => done (numSum .rn [f32 x, (f32 y).neg])
  | 2 => done (numMul (f32 x) (f32 y))
  | 3 => (BitVec.ofNat 32 (fpMinMax .fp32 true x.toNat y.toNat), 0)
  | 4 => (BitVec.ofNat 32 (fpMinMax .fp32 false x.toNat y.toNat), 0)
  | _ => done (numFma .rn (f32 x) (f32 y) (f32 z))
/-- A microprogram evaluated once: T of its last operation. -/
def microRun (b : Micro) (sv av wv : BitVec 32) : BitVec 32 × Flags :=
  (List.range b.p.toNat).foldl (fun st i => (let r := microOp b i sv av wv st.1; (r.1, st.2 ||| r.2))) (0, 0)
def mrecElem (b : Micro) (row : List Num) (col : List (Nat × Num)) (acc : BitVec 32) : BitVec 32 × Flags :=
  col.foldl (fun st x =>
    let r := microRun b st.1 (toF32 (row.getD x.1 numZero)).1 (toF32 x.2).1
    (r.1, st.2 ||| r.2)) (acc, 0)

/-! ### Matrix operations (R412, R413) -/

/-- A matrix operation as it was issued: its kind is 0 MMA, 1 MMAS, 2 MREC. -/
structure MatOp where
  kind : Nat
  g : Guard
  mf : MatFmt
  chk : Option (Fin 16)
  d : Fin 16
  q : Fin 16
  need : Nat
  m : MaskSrc
  deriving DecidableEq, Repr, Inhabited
def matOp : Instr → Option MatOp
  | .mma f => some { kind := 0, g := f.g, mf := f.mf, chk := f.chk, d := f.d, q := f.q, need := f.need.toNat, m := f.m }
  | .mmas f => some { kind := 1, g := f.g, mf := f.mf, chk := f.chk, d := f.d, q := f.q, need := f.need.toNat, m := f.m }
  | .mrec f => some { kind := 2, g := f.g, mf := f.mf, chk := none, d := f.d, q := f.q, need := f.need.toNat, m := f.m }
  | _ => none
def MatOp.sparse (x : MatOp) : Bool := x.kind == 1
/-- Bytes of an A row in its slot. -/
def MatOp.rowBytes (x : MatOp) : Nat := mfRow x.mf x.sparse + mfPairs x.mf x.sparse

/-- The checks of R412 on core `c`, in the order of 09 R190, with binding `q` of core `lead` as the source and `bank` as the microprogram. -/
def matCheck (s : State) (c lead : Nat) (q : Fin 16) (bank : Micro) (x : MatOp) (m : Nat) : Option Code :=
  let pl := (s.core c).active
  let b := (s.core lead).queues.get q
  if !b.legal false then some cQueueUnconfigured
  else if m < 1 ∨ 32 < m then some cMatrixShape
  else if !pl.valid || pl.fmt != x.mf || pl.sparse != x.sparse then some cMatrixShape
  else if x.kind = 2 && !microValid bank then some cMatrixShape
  else if slotSize b.sz < x.rowBytes then some cMatrixShape
  else none

/-- The operation on one core: its tile, its flags, its count; none when an element decodes 0xFF. -/
def runMatrix (s : State) (c : Nat) (x : MatOp) (bank : Micro) (rows : List (List Byte)) : Option State :=
  let co := s.core c
  let pl := co.active
  match rows.mapM (rowNums x.mf x.sparse), (List.range (min pl.nact 32)).mapM (columnNums pl) with
  | some as, some cols =>
    let elem := fun (m n : Nat) =>
      match cols[n]? with
      | none => ((0 : BitVec 32), (0 : Flags))
      | some col =>
        let row := as.getD m []
        let acc := tileAt co x.d.val m n
        if x.kind = 2 then mrecElem bank row col acc else mmaElem row col (mfK x.mf x.sparse) acc
    let out := (List.range rows.length).flatMap (fun m => (List.range 32).map (fun n => (32 * m + n, elem m n)))
    let co1 := writeTile co x.d.val (out.map (fun o => (o.1, o.2.1)))
    let s1 := writeMoved s (s.setCore c { co1 with matCount := co1.matCount + 1 }) c
    some (orFlags s1 c (out.foldl (fun f o => f ||| o.2.2) 0))
  | _, _ => none

/-- Whether an upset makes a core's operation differ from its mirror (19 R390; log 10). -/
def mirrorFails (s : State) (c : Nat) : Bool := s.turn.upset && bit s.turn.free (c % 16)
/-- A mismatch is a delivery of class K: it is counted and posts a fault record (09 R178; 27 Table 27.2). -/
def mirrorRecord (s : State) (a : Actor) (m : Nat) : State :=
  let part := (s.core a.core).part
  postFault (countDelivery s a.core cMirror part) (pkgOf a.core)
    { cause := cMirror, core := a.core, part := part, src := 1, strand := a.k, level := roleLevel s a.x.role
      seq := (s.core a.core).matCount, units := 2 * m }
/-- The completion word of .chk, after the tile is written (19 R390). -/
def matWord (s : State) (a : Actor) (x : MatOp) (m : Nat) : R Res :=
  match x.chk with
  | none => R.next s
  | some i =>
    let va := a.sr.get i
    match planOne s a va 8 8 .wr false ruleAny with
    | .error e => planFail s a e
    | .ok l =>
      let bad := mirrorFails s a.core
      let w := completionWord (s.core a.core).matCount (if bad then cMirror else cNone) (2 * m)
      (storeNow (if bad then mirrorRecord s a m else s) a [mkAccess l va (.store (leBytes 8 w.toNat))]).map Res.next
/-- The word's release waits for the strand's earlier writes. -/
def wordReady (s : State) (a : Actor) (x : MatOp) : Bool := x.chk.isNone || !unordered s a

/-- An operation whose guard is false has no effect but the wait on its need (R407). -/
def idleNeed (s : State) (a : Actor) (q : Fin 16) (need : Nat) : R Unit :=
  let b := (s.core a.core).queues.get q
  let u : QUse := { q := q, need := need, produce := false }
  if b.legal false && !b.met u then queuesReady s a [u] else .ok ()
/-- A solo operation. -/
def matBody (s : State) (x : MatOp) (a : Actor) : R Res :=
  let co := s.core a.core
  let m := maskRows a.sr x.m
  if a.x.gang.isSome then stall s a .gang
  else if !a.guard x.g then (idleNeed s a x.q x.need).map (fun _ => .next s)
  else
    (queuesLegal s a [{ q := x.q, need := x.need, produce := false }]).bind (fun _ =>
      match matCheck s a.core a.core x.q co.microActive x m with
      | some c => trapAt s c 0
      | none =>
        (queuesReady s a (rowUses x.q x.need m)).bind (fun _ =>
          ((List.range m).mapM (fun j => queueBytes s a x.q (x.need + j) 0 x.rowBytes)).bind (fun rows =>
            if !wordReady s a x then stall s a .fence
            else
              match runMatrix s a.core x co.microActive rows with
              | none => .error (.park s)
              | some s1 => matWord s1 a x m)))
def execMma (f : MmaF) (s : State) : Out :=
  matrixOp s (.mma f) f.g (rungCheck s f.d) (fun a => matBody s ((matOp (.mma f)).getD default) a)
def execMmas (f : MmaF) (s : State) : Out :=
  matrixOp s (.mmas f) f.g (rungCheck s f.d) (fun a => matBody s ((matOp (.mmas f)).getD default) a)
def execMrec (f : MrecF) (s : State) : Out :=
  matrixOp s (.mrec f) f.g (rungCheck s f.d) (fun a => matBody s ((matOp (.mrec f)).getD default) a)

/-! ### WLD, WSWP, GANG, MPLD (R408, R410, R411; 07 R175; 19 R384 to R387) -/

def coreQueues (co : Core) (p : Instr → Bool) : Bool := (liveStrands co).any (fun x => (seqEntries x.2).any (fun e => p e.i))

/-- The 64-byte pieces of an image on raw pages, as a load; an image aligned to 32 bytes and that long is one piece. -/
def imagePlan (s : State) (a : Actor) (ea : Word) (n piece : Nat) : List Access × Option PlanErr :=
  planList (fun i =>
    let va := ea + BitVec.ofNat 72 (piece * i)
    (planOne s a va piece piece .rd false (ruleRaw false)).map (fun x => mkAccess x va (.load piece none)))
    (List.range (n / piece))

def execWld (f : WldF) (s : State) : Out :=
  accessOp s f.g (fun a =>
    noSpec s a
      (let co := s.core a.core
       let wide := mfBits f.mf == 16
       let late := fun (i : Instr) => match i with
         | .wswp _ => true
         | _ => wide && (matOp i).isSome
       if coreQueues co late || wide && (liveStrands co).any (fun x => x.2.gang.isSome) then stall s a .sequencer
       else
         let pb := planeBytes f.mf
         let mb := if f.sp then 256 else 0
         let ea := a.sr.get f.a + f.disp.signExtend 72
         (loadPlan s a (imagePlan s a ea (pb + mb + pairBytes f.mf) 64)).map (fun r =>
           let img := r.2.flatten
           let pl : Plane :=
             { valid := true, sparse := f.sp, fmt := f.mf, nact := f.nact.toNat, weights := img.take pb
               meta_ := (img.drop pb).take mb, pairs := img.drop (pb + mb) }
           .next (r.1.modCore a.core (fun c =>
             if wide then { c with shadow := pl, active := pl } else { c with shadow := pl })))))

/-- A plane pair of 16-bit weights is one plane in both places, which an exchange leaves as it is. -/
def execWswp (f : Bare) (s : State) : Out :=
  matrixOp s (.wswp f) f.g (noCheck s) (fun a =>
    R.next (if a.guard f.g then s.modCore a.core (fun c => { c with active := c.shadow, shadow := c.active }) else s))

def execMpld (f : MpldF) (s : State) : Out :=
  accessOp s f.g (fun a =>
    noSpec s a
      (if (s.core a.core).mpldAt.isSome then trapAt s cWcsBusy 0
       else
         let ea := a.sr.get f.a + f.disp.signExtend 72
         (loadPlan s a (imagePlan s a ea 32 32)).map (fun r =>
           let b := r.2.flatten
           let w := fun (ofs n : Nat) => leVal ((b.drop ofs).take n)
           let bank : Micro :=
             { kc := BitVec.ofNat 32 (w 0 4), p := BitVec.ofNat 32 (w 4 4)
               mw := #v[BitVec.ofNat 16 (w 8 2), BitVec.ofNat 16 (w 10 2), BitVec.ofNat 16 (w 12 2), BitVec.ofNat 16 (w 14 2)]
               rest := BitVec.ofNat 128 (w 16 16) }
           .next (r.1.modCore a.core (fun c => { c with microShadow := bank, mpldAt := some s.tick })))))

/-- GANG places the strand at the row barrier; a core has one strand there. The barrier waits since its first strand came. -/
def execGang (f : Bare) (s : State) : Out :=
  matrixOp s (.gang f) f.g (noCheck s) (fun a =>
    let b := barrierOf s a.core
    if !a.guard f.g then R.next s
    else if b.waiting.any (fun m => m.1 == a.core) then stall s a .gang
    else
      let b' : Barrier := { b with waiting := b.waiting ++ [(a.core, a.k)], since := if b.waiting.isEmpty then s.now else b.since }
      let s1 := setBarrier s (clOf a.core) (rowOf a.core) b'
      R.next (s1.modStrand a.core a.k (fun x => { x with gang := seqHead a.x.seq })))

/-! ### AZERO, ALD, AST, ACVT (R414 to R416) -/

def zeroTile : List (Nat × BitVec 32) := (List.range 1024).map (fun i => (i, 0))
def execAzero (f : TileF) (s : State) : Out :=
  matrixOp s (.azero f) f.g (rungCheck s f.d) (fun a =>
    R.next (if a.guard f.g then tileWrite s a.core f.d.val zeroTile else s))
def execAzeroRelease (f : TileF) (s : State) : Out :=
  matrixOp s (.azeroRelease f) f.g (rungCheck s f.d) (fun a =>
    R.next (if a.guard f.g then
        (tileWrite s a.core f.d.val zeroTile).modCore a.core (fun c =>
          { c with tileAlloc := setBit c.tileAlloc f.d.val false })
      else s))

/-- Pages of a tile image are raw or FP32. -/
def ruleTile (x : Leaf) : Option Code := if x.fmt = 0 ∨ x.fmt = 0x10 then none else some cFormat
/-- The rows' addresses, or MISALIGNED. -/
def tileRows (a : Actor) (f : TileMemF) : Except Word (List Word) :=
  let t := tileImage a.sr f
  if t.1.toNat % 64 ≠ 0 then .error t.1
  else if t.2 % 64 ≠ 0 then .error t.1
  else .ok ((List.range 32).map (fun m => t.1 + BitVec.ofNat 72 (m * t.2)))

def execAld (f : TileMemF) (s : State) : Out :=
  matrixOp s (.ald f) f.g (rungCheck s f.d) (fun a =>
    if !a.guard f.g then R.next s
    else
      match tileRows a f with
      | .error va => trapAt s cMisaligned va
      | .ok vs =>
        let p := planList (fun i =>
          let va := vs.getD i 0
          (planOne s a va 128 64 .rd false ruleTile).map (fun x => mkAccess x va (.load 128 none))) (List.range 32)
        (loadPlan s a p).map (fun r =>
          let els := r.2.zipIdx.flatMap (fun d =>
            (List.range 32).map (fun c => (32 * d.2 + c, BitVec.ofNat 32 (leVal ((d.1.drop (4 * c)).take 4)))))
          .next (tileWrite r.1 a.core f.d.val els)))

def execAst (f : TileMemF) (s : State) : Out :=
  matrixOp s (.ast f) f.g (noCheck s) (fun a =>
    if !a.guard f.g then R.next s
    else
      match tileRows a f with
      | .error va => trapAt s cMisaligned va
      | .ok vs =>
        let row := fun (i : Nat) =>
          (List.range 32).flatMap (fun c => leBytes 4 (tileAt (s.core a.core) f.d.val i c).toNat)
        let p := planList (fun i =>
          let va := vs.getD i 0
          (planOne s a va 128 64 .wr false ruleTile).map (fun x => mkAccess x va (.store (row i)))) (List.range 32)
        match p.2 with
        | some e => planFail s a e
        | none => (storeReady s a p.1).bind (fun _ => (storeNow s a p.1).map Res.next))

/-- The lane type of a format that is no block format. -/
def mfLane : MatFmt → LaneTy
  | .i8 => .i8 | .e4m3 => .e4m3 | .e5m2 => .e5m2 | .e2m1 => .e2m1 | .fp16 => .fp16 | .bf16 => .bf16
  | .db8 => .db8 | .db4 => .db4
/-- One row of ACVT: its slot bytes, flags and draws. -/
def acvtRow (mf : MatFmt) (mode : Mode) (sat : Bool) (xs : List Num) (seed : BitVec 32) : List Byte × Flags × BitVec 32 :=
  let eb := mfBits mf
  let four := mf == .db4
  let pair := if mfBlock mf then blockPair four xs else (0, 0)
  let one := fun (st : Nat × Nat × Flags × BitVec 32) (x : Num) =>
    let e := if mfBlock mf then blockEncode four mode sat pair.1 pair.2 x st.2.2.2
      else laneEncode (mfLane mf) mode sat x st.2.2.2
    (st.1 + 1, st.2.1 + e.bits * 2 ^ (eb * st.1), st.2.2.1 ||| e.flags, e.seed)
  let r := xs.foldl one (0, 0, 0, seed)
  (leBytes (4 * eb) r.2.1 ++ (if mfBlock mf then leBytes 1 pair.1 ++ leBytes 1 pair.2 else []), r.2.2.1, r.2.2.2)
def execAcvt (f : AcvtF) (s : State) : Out :=
  matrixOp s (.acvt f) f.g (noCheck s) (fun a =>
    let co := s.core a.core
    let m := f.m.toNat
    let u : QUse := { q := f.q, need := f.need.toNat + m - 1, produce := true }
    let b := co.queues.get f.q
    if !a.guard f.g then
      (if b.legal true && !b.met { u with need := f.need.toNat } then queuesReady s a [{ u with need := f.need.toNat }]
       else .ok ()).map (fun _ => .next s)
    else
      (queuesLegal s a [u]).bind (fun _ =>
        if slotSize b.sz < 4 * mfBits f.mf + (if mfBlock f.mf then 2 else 0) then trapAt s cMatrixShape 0
        else
          (queuesReady s a [u]).bind (fun _ =>
            let mode := modeOf f.rm co.fctl
            let one := fun (st : State × Flags × BitVec 32) (j : Nat) =>
              let xs := (List.range 32).map (fun c => f32 (tileAt co f.a.val j c))
              let r := acvtRow f.mf mode f.sat xs st.2.2
              (queueStore st.1 a f.q (f.need.toNat + j) 0 r.1 (List.replicate r.1.length 0xFF), st.2.1 ||| r.2.1, r.2.2)
            let r := (List.range m).foldl one (s, 0, co.seed)
            R.next (orFlags (setSeed r.1 a.core r.2.2) a.core r.2.1))))

end Sys2Proof.Machine
end

