-- ==== Sys2Proof/Machine/Ladder.lean ====
section
/-! DEFINITION. The ladder (19 R395 to R398; 20 R417 to R420), and the appends of rows 0x1B: ATTNCFG, ATTN, NBMV (20 R421 to
R424). -/

namespace Sys2Proof.Machine

/-! ### The ladder -/

/-- A ladder instruction before any LADCFG (R398). -/
def ladderSet (s : State) (a : Actor) : R (Nat × Nat) :=
  match (s.core a.core).ladIssued with
  | some l => .ok l
  | none => trapAt s cLadder 0

/-- LADCFG at issue: its limits, and the configuration that later slots are checked against. -/
def ladcfgIssue (s : State) (f : LadcfgF) (a : Actor) : R State :=
  let b := f.d.val
  let r := f.r.toNat
  if r = 0 ∨ 16 < b + r then trapAt s cLadder 0
  else if f.micro && !microValid (s.core a.core).microActive then trapAt s cLadder 0
  else .ok (s.modCore a.core (fun c => { c with ladIssued := some (b, r) }))
def execLadcfg (f : LadcfgF) (s : State) : Out :=
  matrixOp s (.ladcfg f) f.g (ladcfgIssue s f) (fun a =>
    let co := s.core a.core
    if !a.guard f.g then R.next s
    else if !co.ladder.chains.isEmpty then stall s a .other
    else
      let l : Ladder :=
        { configured := true, base := f.d.val, r := f.r.toNat, micro := if f.micro then some co.microActive else none
          occupied := 0, w := Vector.replicate 16 0, step := 0, chains := [] }
      R.next (s.modCore a.core (fun c => { c with ladder := l })))

/-- LADPUSH takes a copy of its tile, and its chain starts at rung 0. -/
def tileCopy (co : Core) (t : Nat) : SMap (BitVec 32) :=
  (List.range 1024).foldl (fun m i => smSet 0 m i (smGet 0 co.tiles (1024 * t + i))) []
def execLadpush (f : TileF) (s : State) : Out :=
  matrixOp s (.ladpush f) f.g
    (fun a => (ladderSet s a).bind (fun l =>
      if l.1 ≤ f.d.val ∧ f.d.val < l.1 + l.2 then trapAt s cLadder 0 else .ok s))
    (fun a =>
      if !a.guard f.g then R.next s
      else
        R.next (s.modCore a.core (fun c =>
          let l := c.ladder
          let step := if l.step = BitVec.allOnes 32 then l.step else l.step + 1
          { c with ladder := { l with step := step, chains := l.chains ++ [{ carry := tileCopy c f.d.val, rung := 0 }] } })))

/-- One element's merge: the older rung, the carry (R396; R419). -/
def mergeElem (l : Ladder) (old new : BitVec 32) : BitVec 32 × Flags :=
  match l.micro with
  | some b => microRun b old new 0
  | none => (let sum := numSum .rn [f32 old, f32 new]; let e := toF32 sum.1; (e.1, sum.2 ||| e.2))
def rungElem (co : Core) (j i : Nat) : BitVec 32 := smGet 0 co.tiles (1024 * (co.ladder.base + j) + i)
/-- The merge of rung `j` with a carry: elements and flags. -/
def mergeRung (co : Core) (j : Nat) (carry : SMap (BitVec 32)) : List (Nat × BitVec 32) × Flags :=
  let r := (List.range 1024).map (fun i => (i, mergeElem co.ladder (rungElem co j i) (smGet 0 carry i)))
  (r.map (fun x => (x.1, x.2.1)), r.foldl (fun f x => f ||| x.2.2) 0)
def setOccupied (co : Core) (j : Nat) (v : Bool) : Core :=
  { co with ladder := { co.ladder with occupied := setBit co.ladder.occupied j v } }

/-- The oldest chain reaches its next rung: it stops in an empty rung, or merges and goes on (R396, R397). -/
def ladderStep (co : Core) : Core × Flags :=
  match co.ladder.chains with
  | [] => (co, 0)
  | ch :: t =>
    let j := ch.rung
    let stop := fun (c : Core) => { c with ladder := { c.ladder with chains := t } }
    let at_ := co.ladder.base + j
    if !bit co.ladder.occupied j then
      (stop (setOccupied (writeTile co at_ ((List.range 1024).map (fun i => (i, smGet 0 ch.carry i)))) j true), 0)
    else
      let m := mergeRung co j ch.carry
      if j + 1 = co.ladder.r then (stop (writeTile co at_ m.1), m.2 ||| flagSAT)
      else
        let c1 := setOccupied co j false
        let next : Chain := { carry := m.1.foldl (fun q x => smSet 0 q x.1 x.2) [], rung := j + 1 }
        ({ c1 with ladder := { c1.ladder with chains := next :: t } }, m.2)

/-- Element `i` of LADRD: the weighted sum of the occupied rungs (R397). -/
def readElem (co : Core) (i : Nat) : BitVec 32 × Flags :=
  (List.range co.ladder.r).foldl (fun st j =>
    if bit co.ladder.occupied j then
      let v := numFma .rn (f32 (co.ladder.w.getD j 0)) (f32 (rungElem co j i)) (f32 st.1)
      let e := toF32 v.1
      (e.1, st.2 ||| v.2 ||| e.2)
    else st) (0, 0)
def execLadrd (f : TileF) (s : State) : Out :=
  matrixOp s (.ladrd f) f.g
    (fun a => (ladderSet s a).bind (fun l =>
      if l.1 ≤ f.d.val ∧ f.d.val < l.1 + l.2 then trapAt s cLadder 0 else .ok s))
    (fun a =>
      let co := s.core a.core
      if !a.guard f.g then R.next s
      else if !co.ladder.chains.isEmpty then stall s a .other
      else
        let r := (List.range 1024).map (fun i => (i, readElem co i))
        let s1 := tileWrite s a.core f.d.val (r.map (fun x => (x.1, x.2.1)))
        R.next (orFlags s1 a.core (r.foldl (fun fl x => fl ||| x.2.2) 0)))

/-- LADLD: its destination is no rung (R398; the listing of 21). -/
def execLadld (f : LadldF) (s : State) : Out :=
  matrixOp s (.ladld f) f.g
    (fun a => (ladderSet s a).bind (fun l =>
      if l.2 ≤ f.j.val ∨ (l.1 ≤ f.d.val ∧ f.d.val < l.1 + l.2) then trapAt s cLadder 0 else .ok s))
    (fun a =>
      let co := s.core a.core
      let j := f.j.val
      if !a.guard f.g then R.next s
      else if co.ladder.chains.any (fun c => decide (c.rung ≤ j)) then stall s a .other
      else
        let el := fun (i : Nat) => if bit co.ladder.occupied j then rungElem co j i else 0
        R.next (tileWrite s a.core f.d.val ((List.range 1024).map (fun i => (i, el i)))))

def execLadw (f : LadwF) (s : State) : Out :=
  matrixOp s (.ladw f) f.g (fun a => (ladderSet s a).map (fun _ => s)) (fun a =>
    if !a.guard f.g then R.next s
    else
      let v := a.x.v.get f.v
      let put := fun (w : Vector (BitVec 32) 16) (i : Nat) =>
        w.setIfInBounds (4 * f.grp.val + i) (v.extractLsb' (32 * i) 32)
      R.next (s.modCore a.core (fun c => { c with ladder := { c.ladder with w := (List.range 4).foldl put c.ladder.w } })))

/-! ### ATTNCFG, ATTN, NBMV -/

def execAttncfg (f : AttncfgF) (s : State) : Out :=
  accessOp s f.g (fun a =>
    noSpec s a (R.next (s.modCore a.core (fun c =>
      { c with attn := { dh := f.dh, inp := f.inp, out := f.out, scale := (a.sr.get f.a).setWidth 32 } }))))

def dhSize : HeadDim → Nat
  | .d32 => 32 | .d64 => 64 | .d96 => 96 | .d128 => 128
def attnInFmt : AttnIn → MatFmt
  | .e4m3 => .e4m3 | .e5m2 => .e5m2 | .db8 => .db8 | .fp16 => .fp16 | .bf16 => .bf16
def attnOutBytes : AttnOut → Nat
  | .fp32 => 4 | _ => 2

def execAttn (f : AttnF) (s : State) : Out :=
  accessOp s f.g (fun a =>
    noSpec s a
      (let va := a.sr.get f.a
       let p := planList (fun _ => (planOne s a va 64 64 .rd false ruleAny).map (fun x => mkAccess x va (.load 64 none))) [0]
       (loadPlan s a p).bind (fun r =>
         let b := r.2.flatten
         let word := fun (i : Nat) => BitVec.ofNat 64 (leVal ((b.drop (8 * i)).take 8))
         let at_ := fun (i : Nat) => setBits va 0 64 (word i : DWord).toNat
         let w6 : DWord := word 6
         let w7 : DWord := word 7
         let log2s := bits w6 32 6
         let len := bits w6 0 32
         let st := r.1
         let cfg := (st.core a.core).attn
         let bad := [0, 1, 2, 4, 5].find? (fun i => (word i : DWord).toNat % 64 ≠ 0)
         match bad with
         | some i => trapAt st cMisaligned (at_ i)
         | none =>
           if (word 3 : DWord).toNat % 16 ≠ 0 then trapAt st cMisaligned (at_ 3)
           else if log2s < 6 ∨ 30 < log2s ∨ bits w6 38 26 ≠ 0 ∨ w7 ≠ 0 then trapAt st cGatherBounds 0
           else
             (completionPair st a f.c).bind (fun pr =>
               let lse : Word := if (word 5 : DWord) = 0 then 0 else at_ 5
               let ob := 32 * dhSize cfg.dh * attnOutBytes cfg.out
               let qb := 32 * dhSize cfg.dh * mfBits (attnInFmt cfg.inp) / 8
               let range := fun (x : Word) (n : Nat) (d : Bool) => if n = 0 then [] else [(x.toNat, x.toNat + n, d)]
               let ranges := range (at_ 4) ob true ++ (if lse = 0 then [] else range lse 128 true) ++
                 range (at_ 0) qb false ++ range (at_ 3) (4 * ((len + 31) / 32)) false
               let op := EngineOp.attn f.chk (at_ 0) (at_ 1) (at_ 2) (at_ 3) (at_ 4) lse log2s len cfg.dh cfg.inp cfg.out cfg.scale
               append st a (newCommand st a 2 pr.1 pr.2 op ranges)))))

def execNbmv (f : NbmvF) (s : State) : Out :=
  accessOp s f.g (fun a =>
    noSpec s a
      (let d := a.sr.get f.d
       let v := a.sr.get f.a
       let b := a.sr.get f.b
       let w := a.sr.get (f.b + 1)
       let rows := bits w 32 32
       let len := bits w 0 32
       if v.toNat % 64 ≠ 0 then trapAt s cMisaligned v
       else if d.toNat % 64 ≠ 0 then trapAt s cMisaligned d
       else if b.toNat % 2 ^ 16 ≠ 0 then trapAt s cMisaligned b
       else if len % 64 ≠ 0 ∨ len < 64 ∨ 65536 < len ∨ 2 ^ 24 < rows then trapAt s cMisaligned 0
       else
         (completionPair s a f.c).bind (fun pr =>
           let ranges := (v.toNat, v.toNat + len, false) :: (if rows = 0 then [] else [(d.toNat, d.toNat + 4 * rows, true)])
           append s a (newCommand s a 1 pr.1 pr.2 (.nbmv f.mf f.chk d v b rows len) ranges))))

end Sys2Proof.Machine
end

