-- ==== Sys2Proof/Machine/Network.lean ====
section
/-! DEFINITION. Events of the fabric and of accesses: requests at their targets, answers, resends, timeouts (22 R439 to R442,
R446; 07 R157, R158, R163, R171), awaited pages (15 R319), queue messages and watchdogs (14 R295 to R300). -/

namespace Sys2Proof.Machine

/-! ### Timeouts of a core's partition (28 Table 28.4) -/

def orDefault (n dflt : Nat) : Nat := if n = 0 then dflt else n
def remoteLimit (s : State) (c : Nat) : Nat := orDefault (((s.cfg c).map (·.remto)).getD 0) Config.remoteTimeout
def pageLimit (s : State) (c : Nat) : Nat := orDefault (((s.cfg c).map (·.pagewait)).getD 0) Config.pageWait
def foldLimit (s : State) (c : Nat) : Nat := orDefault (((s.cfg c).map (·.foldto)).getD 0) Config.foldTimeout
/-- The queue and strand watchdogs: 0 disables them. -/
def queueLimit (s : State) (c : Nat) : Nat := ((s.cfg c).map (·.qwd)).getD Config.queueWatchdog
def strandLimit (s : State) (c : Nat) : Nat := ((s.cfg c).map (·.swd)).getD Config.strandWatchdog

/-! ### Requests at their targets (22 R441; 07 R163, R171) -/

/-- The core with whose number a home answers. -/
def homeCore (pa : Nat) : Nat := homeDie pa * 1024
/-- A core of the die that executes an access. -/
def Access.executor (a : Access) : Nat :=
  match a.owner with
  | some o => dieOf o * 1024
  | none => homeCore a.pa
def answer (s : State) (f : Flit) (a : Access) (strand tag idx : Nat) (cause : Option Code) (data : List Byte) : State :=
  send s a.executor f.who (.core f.src) clsRSP (.response a strand tag idx cause data)

/-- The access that a request asks, performed once. A store is acknowledged at once, and a denied one reports to its core;
a load or atomic is answered. -/
def performRequest (s : State) (f : Flit) (a : Access) (strand tag idx : Nat) : Out :=
  match performAt s f.who a with
  | .ok s1 d =>
    if f.msg.returns then
      let old : DWord := match a.op with
        | .atomic _ => BitVec.ofNat 64 (leVal d)
        | _ => 0
      let s2 := match a.op with
        | .atomic _ | .push _ => markDone s1 f old
        | _ => s1
      .next (answer s2 f a strand tag idx none d)
    else .next (release (markDone s1 f 0) f)
  | .fail s1 c line =>
    if f.msg.returns then .next (answer s1 f a strand tag idx (some c) (leBytes 16 (line.getD a.pa)))
    else .next (answer (release (markDone s1 f 0) f) f a strand 0 0 (some c) (leBytes 16 (line.getD a.pa)))
  | .refuse pa => .refused (.controlWord pa)

/-- The message that a pre-emption is complete reaches the core that asked for it (03 R102). -/
def takeDone (s : State) (f : Flit) : Option State :=
  match f.msg, f.dst with
  | .preemptDone c, .core d => some (s.modCore d (fun co => { co with preempts := co.preempts ++ [c] }))
  | _, _ => none
/-- A request flit reaches its target. `mine` says which requests an event takes, `sectors` whether it takes sector frames and
completions of pre-emption. -/
def requestAt (s : State) (i : Nat) (sectors : Bool) (mine : Flit → Access → Bool) : Out :=
  match takeFlit s i with
  | none => .next s
  | some (f, s1) =>
    match f.msg with
    | .request a strand tag idx =>
      if !mine f a then .next s
      else if revokedFlit s f then
        .next (countDest (release (noteDelivery s1 f) f) f.dst 0x34 f.who.part)
      else
        match filterFlit s1 f with
        | .execute s2 => performRequest (noteDelivery s2 f) f a strand tag idx
        | .again old =>
          if f.msg.returns then
            .next (answer (noteDelivery s1 f) f a strand tag idx none (leBytes a.bytes old.toNat))
          else .next (release (noteDelivery s1 f) f)
        | .discard s2 => .next (noteDelivery s2 f)
        | .retry =>
          .next (send (countDest s1 f.dst 0x35 f.who.part) a.executor f.who (.core f.src) clsRSP
            (.retry f.dst.key f.seq.toNat))
    | .sector core seq key parts =>
      if !sectors then .next s
      else if revokedFlit s f then .next (sectorDone (countDest s1 f.dst 0x34 f.who.part) core seq key (some cFenced))
      else .next (sectorArrives s1 f.who core seq key parts)
    | .preemptDone _ => if sectors then .next (deliver s i takeDone) else .next s
    | _ => .next s

def execRequestFlitArrival (i : Nat) (s : State) : Out :=
  requestAt s i true (fun f a => a.host.isNone && a.owner.isNone && !(f.msg.isWrite && f.crossDie))
def execCrossDieWriteApply (i : Nat) (s : State) : Out :=
  requestAt s i false (fun f a => a.host.isNone && a.owner.isNone && f.msg.isWrite && f.crossDie)
def execSubByteStore (i : Nat) (s : State) : Out := requestAt s i false (fun _ a => a.owner.isSome)

/-! ### Answers (22 R440; 07 R144, R157) -/

def Prog.got (p : Prog) (tag idx : Nat) (cause : Option Code) (data : List Byte) : Prog :=
  match p with
  | .gather t xs got fail =>
    if t = tag ∧ ¬ got.any (fun g => g.1 == idx) then .gather t xs (got ++ [(idx, cause, data)]) fail else p
  | _ => p
/-- An answer reaches the core: the waiting slot or entry has it, and the request is kept no longer. -/
def takeAnswer (s : State) (c strand tag idx : Nat) (cause : Option Code) (data : List Byte) : State :=
  let is := fun (x : Kept) => x.flit.src == c && (match x.flit.msg with
    | .request _ st tg ix => st == strand && tg == tag && ix == idx && x.flit.msg.returns
    | _ => false)
  let s1 := { s with kept := s.kept.filter (fun x => !is x) }
  s1.modStrand c strand (fun x =>
    { x with prog := x.prog.got tag idx cause data, eprog := x.eprog.got tag idx cause data })

/-- A store that its target denied, or whose pair's line is poisoned: a fault record, and a trap that the strand takes at its
next release (07 R157). One whose executor has met 0xFF in its pair parks the core that issued it (05 R120, R122; log 57). -/
def storeDenied (s : State) (c strand : Nat) (who : Ident) (a : Access) (cause : Code) (data : List Byte) : State :=
  let eva := homeEva a cause (lineIn data)
  let lv := match s.strand c strand with
    | some x => roleLevel s x.role
    | none => 0
  if cause = cReservedFormat ∧ (s.strand c strand).isSome then
    s.modStrand c strand (fun x =>
      { x with pending := some { cls := .t, cause := { code := cause, eva := 0 }, epc := x.pc, vpc := 0 } })
  else
    postFault
      (s.modStrand c strand (fun x =>
        { x with denial := if x.denial.isSome then x.denial else some { code := cause, eva := eva } }))
      (pkgOf c) { cause := cause, core := c, part := who.part, src := 3, strand := strand, va := eva, level := lv }
def execStoreDenialResponse (i : Nat) (s : State) : Out :=
  match takeFlit s i with
  | none => .next s
  | some (f, s1) =>
    match f.msg, f.dst with
    | .response a strand _ _ (some cause) data, .core c =>
      if !a.op.isStore then .next s
      else if revokedFlit s f then .next (countDest s1 f.dst 0x34 f.who.part)
      else .next (storeDenied (noteDelivery s1 f) c strand f.who a cause data)
    | _, _ => .next s

/-- The live port through which host traffic of a die passes: its own, or the lowest-numbered one of the package while that is
down (28 R486). -/
def uePort (s : State) (d : Nat) : Option Nat :=
  if bit (s.pkg (d / 4)).uePorts (d % 4) then some (d % 4) else (List.range 4).find? (bit (s.pkg (d / 4)).uePorts)
/-- The host answers an access of a window; a write that it refuses is reported as a denied store is (28 R486). -/
def hostAnswered (s : State) (f : Flit) (a : Access) (strand tag idx : Nat) (h : HostAnswer) : State :=
  match h with
  | .data b => if f.msg.returns then takeAnswer s f.src strand tag idx none (b.take a.bytes) else release s f
  | .done =>
    if !f.msg.returns then release s f
    else takeAnswer s f.src strand tag idx (if a.writes then none else some cHostWindow) []
  | .refusal =>
    if f.msg.returns then takeAnswer s f.src strand tag idx (some cHostWindow) []
    else storeDenied (release s f) f.src strand f.who a cHostWindow []
def execRemoteAccessResponse (i : Nat) (host : HostAnswer) (s : State) : Out :=
  match takeFlit s i with
  | none => .next s
  | some (f, s1) =>
    match f.msg, f.dst with
    | .response a strand tag idx cause data, .core c =>
      if a.op.isStore then .next s
      else if revokedFlit s f then .next (countDest s1 f.dst 0x34 f.who.part)
      else .next (takeAnswer (noteDelivery s1 f) c strand tag idx cause data)
    | .request a strand tag idx, _ =>
      if a.host.isNone || (uePort s f.dst.die).isNone then .next s
      else
        (match host with
          | .data b => if b.length < a.bytes && f.msg.returns then .next s
            else .next (hostAnswered s1 f a strand tag idx host)
          | _ => .next (hostAnswered s1 f a strand tag idx host))
    | _, _ => .next s

/-- Unanswered accesses of a gather take a cause. -/
def Prog.expire (p : Prog) (code : Code) : Prog :=
  match p with
  | .gather t xs got fail =>
    .gather t xs (got ++ ((List.range xs.length).filter (fun i => !got.any (fun g => g.1 == i))).map (fun i =>
      (i, some code, []))) fail
  | _ => p
def Prog.unanswered : Prog → Bool
  | .gather _ xs got _ => decide (got.length < xs.length)
  | _ => false
/-- An unanswered load: its attempt takes REMOTE_TIMEOUT, which the slot's or entry's next turn reports in element order
(07 R158), and its requests are sent no more. -/
def execRemoteTimeout (core idx : Nat) (s : State) : Out :=
  match s.strand core idx with
  | none => .next s
  | some x =>
    let late := fun (w : Option Wait) => w.any (fun q => q.kind == .response && decide (q.since + remoteLimit s core ≤ s.now))
    let a := late x.wait && x.prog.unanswered
    let e := late x.ewait && x.eprog.unanswered
    if !(a || e) then .next s
    else
      let tag := fun (p : Prog) => match p with
        | .gather t _ _ _ => some t
        | _ => none
      let dead := fun (q : Kept) => q.flit.src == core && (match q.flit.msg with
        | .request _ st tg _ => st == idx && ((a && tag x.prog == some tg) || (e && tag x.eprog == some tg)) && q.flit.msg.returns
        | _ => false)
      .next { s.setStrand core idx
          { x with prog := if a then x.prog.expire cRemoteTimeout else x.prog
                   eprog := if e then x.eprog.expire cRemoteTimeout else x.eprog } with
        kept := s.kept.filter (fun q => !dead q) }

/-! ### Resends, retries, windows, age (22 R439 to R442) -/

def resendAfter : Nat := 18000
/-- A resent flit keeps its place in its stream. -/
def insertFlit (f : Flit) : List Flit → List Flit
  | [] => [f]
  | g :: t =>
    if g.srcKey = f.srcKey ∧ g.dst.key = f.dst.key ∧ g.cls = f.cls ∧ (g.seq - f.seq).toNat < 32768 then f :: g :: t
    else g :: insertFlit f t
/-- A source gives a flit up at its remote timeout; its package then expects the next PSEQ. -/
def giveUp (s : State) (x : Kept) : State :=
  let f := x.flit
  let key := f.srcKey * 1024 + f.dst.pkg
  let s1 := { s with kept := s.kept.filter (fun y => y != x) }
  if (f.cls == clsREQ || f.cls == clsMSG) && f.crossPkg && f.pseq == smGet 0 s.pdone key
  then { s1 with pdone := smPut s1.pdone key (f.pseq + 1) } else s1
def execFlitResend (i : Nat) (s : State) : Out :=
  match s.kept[i]? with
  | none => .next s
  | some x =>
    if s.now < x.last + resendAfter then .next s
    else if x.first + remoteLimit s x.flit.src ≤ s.now then .next (giveUp s x)
    else if (List.range 16).any (fun port =>
        let l := s.link (pkgOf x.flit.src) port
        l.waiting.any (·.same x.flit) || l.inFlight.any (fun g => g.2.any (·.same x.flit))) then
      .next { s with kept := s.kept.map (fun y => if y = x then { x with last := s.now } else y) }
    else
      let f := { x.flit with sent := s.now }
      .next { s with
        net := insertFlit f (s.net.filter (fun g => !g.same f))
        kept := s.kept.map (fun y => if y = x then { x with last := s.now } else y) }
def execRetryResponse (i : Nat) (s : State) : Out :=
  match takeFlit s i with
  | none => .next s
  | some (f, s1) =>
    match f.msg, f.dst with
    | .retry target seq, .core c =>
      if revokedFlit s f then .next (countDest s1 f.dst 0x34 f.who.part)
      else
        let again := fun (x : Kept) =>
          if x.flit.src = c ∧ x.flit.dst.key = target ∧ x.flit.seq.toNat = seq then { x with last := s.now } else x
        .next { s1 with kept := s1.kept.map again }
    | _, _ => .next s
def execDuplicateWindowRelease (i : Nat) (s : State) : Out :=
  match s.windows[i]? with
  | some (key, some w) =>
    let p := key % 2 ^ 40 / 4 / 65536
    let lim := orDefault (((s.partCfg p w.part).map (·.remto)).getD 0) Config.remoteTimeout
    if w.last + lim + flightLimit < s.now then .next { s with windows := smErase s.windows key } else .next s
  | _ => .next s
def execFlitAgeDiscard (i : Nat) (s : State) : Out :=
  match s.net[i]? with
  | none => .next s
  | some f =>
    if f.expired s.now then
      let s1 := { s with net := s.net.eraseIdx i }.countPort f.dst.pkg (f.dst.die % 4) 0x32 1 (some f.who.part)
      .next (match f.msg with
        | .sector core seq key _ => sectorDone s1 core seq key (some cLinkDown)
        | _ => s1)
    else .next s

/-! ### Awaited pages (15 R319) -/

def execAwaitRewalk (core idx : Nat) (s : State) : Out :=
  match s.strand core idx with
  | none => .next s
  | some x =>
    match x.prog with
    | .stage n _ =>
      if awaits x && decide (n + 1024 ≤ s.now) then .next (s.setStrand core idx { x with prog := .none }) else .next s
    | _ => .next s
def execPageWaitTimeout (core idx : Nat) (s : State) : Out :=
  match s.strand core idx with
  | none => .next s
  | some x =>
    match x.prog, x.wait with
    | .stage _ va, some w =>
      if awaits x && decide (w.since + pageLimit s core < s.now) && (s.core core).halt == .none then
        .next (raise s core idx .t { code := cNotPresent, eva := va.setWidth 72 } x.pc 0)
      else .next s
    | _, _ => .next s

/-! ### Queue waits and messages (14 R295 to R300) -/

/-- The wait of the slot comes before that of the entry when both are due. -/
def execQueueWaitTimeout (core idx : Nat) (s : State) : Out :=
  match s.strand core idx with
  | none => .next s
  | some x =>
    let lim := queueLimit s core
    let due := fun (w : Option Wait) => w.any (fun q => q.kind == .queue && decide (q.since + lim < s.now))
    if lim = 0 ∨ (s.core core).halt ≠ .none ∨ x.pending.isSome then .next s
    else if due x.wait then .next (raise s core idx .t { code := cQueueTimeout, eva := 0 } x.pc 0)
    else if due x.ewait then
      .next (raise s core idx .v { code := cQueueTimeout, eva := 0 } x.pc (((seqHead x.seq).map (·.pc)).getD 0))
    else .next s

/-- A message of a queue link at its core. -/
def queueEvent (i : Nat) (s : State) (act : State → Nat → Nat → Msg → Option State) : State :=
  deliver s i (fun st f => match f.dst with
    | .core c => act st c f.src f.msg
    | _ => none)
/-- A message of a link that no longer stands is discarded and counted (R295). -/
def onLink (s : State) (c src : Nat) (q : Fin 16) (k : Queue → State) : State :=
  let b := (s.core c).queues.get q
  if b.linked && b.peer == src then k b else s.countCore c 0x14 1 (some (s.core c).part)

def execQueueLinkFlit (i : Nat) (s : State) : Out :=
  .next (queueEvent i s (fun st c src m => match m with
    | .queueLink q nslot sz dir base =>
      some (st.modCore c (fun co =>
        if co.queues.toList.any (fun b => b.bound && b.linked && b.peer == src && b.peerQ == q) then co
        else
          let o : LinkOffer := { src := src, q := q, nslot := nslot, sz := sz, dir := dir, base := base }
          linkAll { co with linkOffers := co.linkOffers ++ [o] }))
    | _ => none))
def execQueueUnlinkFlit (i : Nat) (s : State) : Out :=
  .next (queueEvent i s (fun st c src m => match m with
    | .queueUnlink q =>
      some (setQueue st c q (fun b => if b.peer = src ∧ b.dir ≠ 0 then { b with linked := false } else b))
    | _ => none))
def execQueueSlotWriteMessage (i : Nat) (s : State) : Out :=
  .next (queueEvent i s (fun st c src m => match m with
    | .queueWrite q pa bytes mask =>
      some (onLink st c src q (fun b =>
        let old := readBytes st pa bytes.length
        let new := (bytes.zip (mask.zip old)).map (fun x => if x.2.1 = 0 then x.2.2 else x.1)
        putSlotTag (clearPoison (writeBytes st pa new) pa new.length) c (pa - (pa - b.base) % slotSize b.sz) none))
    | .queueTag q pa bad => some (onLink st c src q (fun _ => putSlotTag st c pa (some bad)))
    | _ => none))
def execQueuePublishMessage (i : Nat) (s : State) : Out :=
  .next (queueEvent i s (fun st c src m => match m with
    | .queuePublish q n =>
      some (onLink st c src q (fun _ => setQueue st c q (fun b => { b with p := b.p + BitVec.ofNat 32 n })))
    | _ => none))
def execQueueCreditMessage (i : Nat) (s : State) : Out :=
  .next (queueEvent i s (fun st c src m => match m with
    | .queueCredit q n =>
      some (onLink st c src q (fun _ => setQueue st c q (fun b => { b with c := b.c + BitVec.ofNat 32 n })))
    | _ => none))

end Sys2Proof.Machine
end

