-- ==== Sys2Proof/Machine/Special.lean ====
section
/-! DEFINITION. Special functions (14 R281 to R283): the exact special values of Table 14.7, and elsewhere one value within
the bound of Table 14.8 that the manual leaves open: the nearest result moved by the free offset of Config and clamped
into the bound (log 6). Exact results that have no finite binary form are computed to more than 100 bits. -/

namespace Sys2Proof.Machine

/-- Fixed point with 256 fraction bits. -/
def fxOne : Nat := 2 ^ 256
def fxPi : Nat := 0x3243f6a8885a308d313198a2e03707344a4093822299f31d0082efa98ec4e6c89
def fxLn2 : Nat := 0xb17217f7d1cf79abc9e3b39803f2f6af40f343267298b62d8a0d175b8baafa2b
def fxMul (a b : Int) : Int := a * b / fxOne
/-- m × 2^e in fixed point. -/
def fxOf (neg : Bool) (m : Nat) (e : Int) : Int :=
  let v : Int := if 0 ≤ e + 256 then (m : Int) * 2 ^ (e + 256).toNat else (m : Int) / 2 ^ (-(e + 256)).toNat
  if neg then -v else v

/-- Σ t_k, t_0 = 1, t_{k+1} = t_k · r / (k + 1). -/
def expSeries (r : Int) : Nat → Nat → Int → Int
  | 0, _, _ => 0
  | n + 1, k, t => t + expSeries r n (k + 1) (fxMul t r / (k + 1))
/-- e^r for a small r. -/
def fxExp (r : Int) : Int := expSeries r 60 0 fxOne
/-- Σ (−1)^k r^(2k+i) / (2k+i)!: cosine (i = 0) and sine (i = 1) of a reduced argument. -/
def trigSeries (r2 : Int) : Nat → Nat → Int → Int
  | 0, _, _ => 0
  | n + 1, k, t => t + trigSeries r2 n (k + 2) (-(fxMul t r2) / ((k + 1) * (k + 2)))
def fxSin (r : Int) : Int := trigSeries (fxMul r r) 40 1 r
def fxCos (r : Int) : Int := trigSeries (fxMul r r) 40 0 fxOne
/-- The fraction bits of log2 of y in [1, 2), by repeated squaring. -/
def logBits : Nat → Int → Nat → Nat
  | 0, _, acc => acc
  | n + 1, y, acc =>
    let z := fxMul y y
    if 2 * (fxOne : Int) ≤ z then logBits n (z / 2) (2 * acc + 1) else logBits n z (2 * acc)
/-- Integer square root, from the highest bit down. -/
def isqrt (n : Nat) : Nat → Nat → Nat
  | 0, r => r
  | b + 1, r => if (r + 2 ^ b) * (r + 2 ^ b) ≤ n then isqrt n b (r + 2 ^ b) else isqrt n b r

/-- The result of a function at a finite input with no special value: its sign, and its magnitude m × 2^e to more than
100 bits. -/
def specialExact (fn : SpecialFn) (neg : Bool) (m : Nat) (e : Int) : Bool × Nat × Int :=
  match fn with
  | .rcp => (neg, 2 ^ 200 / m, -200 - e)
  | .rsq =>
    let odd := e % 2 != 0
    let m' := if odd then 2 * m else m
    let e' := if odd then e - 1 else e
    (false, isqrt (2 ^ 400 / m') 210 0, -200 - e' / 2)
  | .exp | .exp2 =>
    let big := decide (9 ≤ (Nat.log2 m : Int) + e)
    let x := if big then fxOf neg 512 0 else fxOf neg m e
    let k := if fn = .exp then x / fxLn2 else x / fxOne
    let r := if fn = .exp then x - k * fxLn2 else fxMul (x - k * fxOne) fxLn2
    (false, (fxExp r).toNat, k - 256)
  | .log2 =>
    let p := Nat.log2 m
    let y : Int := (m : Int) * fxOne / 2 ^ p
    let v : Int := (e + p) * 2 ^ 100 + logBits 100 y 0
    (decide (v < 0), v.natAbs, -100)
  | .tanh =>
    if (Nat.log2 m : Int) + e < -30 then
      (neg, m * 2 ^ (100 - 2 * e).toNat - m * m * m * 2 ^ 100 / 3, 3 * e - 100)
    else
      let x := if decide (6 ≤ (Nat.log2 m : Int) + e) then fxOf false 64 0 else fxOf false m e
      let d := 2 * x
      let k := d / fxLn2
      let q := (fxExp (d - k * fxLn2)).toNat * 2 ^ k.toNat
      (neg, (q - fxOne) * fxOne / (q + fxOne), -256)
  | .sin | .cos =>
    let x := fxOf neg m e
    let half : Int := (fxPi : Int) / 2
    let k := (2 * x + half) / (2 * half)
    let r := x - (fxPi : Int) * k / 2
    let quad := (k + (if fn = .cos then 1 else 0)) % 4
    let v : Int := match quad.toNat with
      | 0 => fxSin r
      | 1 => fxCos r
      | 2 => -(fxSin r)
      | _ => -(fxCos r)
    (decide (v < 0), v.natAbs, -256)

/-- Encode m × 2^e with an exponent range that has no upper bound: a magnitude in the order of the format's encodings. -/
def encodeWide (f : FpFmt) (mode : Mode) (m : Nat) (e : Int) : Nat :=
  if m = 0 then 0
  else
    let p := f.fbits
    let q0 : Int := max ((Nat.log2 m : Int) + e - p) f.quantum
    let r0 := (roundAt mode false m e q0 0).1
    let carry := decide (2 ^ (p + 1) ≤ r0)
    let r := if carry then r0 / 2 else r0
    let q := if carry then q0 + 1 else q0
    if r < 2 ^ p then r else (q + p + f.bias).toNat * 2 ^ p + (r - 2 ^ p)
/-- The same of a signed value, as a signed order. -/
def orderOf (f : FpFmt) (up : Bool) (v : Int) (e : Int) : Int :=
  if 0 ≤ v then encodeWide f (if up then .ru else .rz) v.natAbs e
  else -(encodeWide f (if up then .rz else .ru) v.natAbs e : Int)

/-- The bound of Table 14.8 around an exact magnitude m × 2^e: a number of units 2^u. -/
def specialBound (fn : SpecialFn) (f : FpFmt) (inUnit : Bool) (m : Nat) (e : Int) : Nat × Int :=
  let abs : Int := match f with
    | .fp16 => -10 | .bf16 => -7 | _ => -22
  let ulp : Int := max ((Nat.log2 m : Int) + e - f.fbits) f.quantum
  match fn with
  | .sin | .cos => (1, abs)
  | .log2 => if inUnit then (1, abs) else (1, ulp)
  | .exp | .tanh => (if f = .fp32 then 2 else 1, ulp)
  | _ => (1, ulp)

/-- One result within the bound, as a signed order of encodings. -/
def specialPick (fn : SpecialFn) (t : LaneTy) (input : BitVec 32) (inUnit neg : Bool) (m : Nat) (e : Int) : Int :=
  let f := laneFp t
  let b := specialBound fn f inUnit m e
  let e0 := min e b.2
  let v : Int := scaled neg m e e0
  let w : Int := (b.1 : Int) * 2 ^ (b.2 - e0).toNat
  let lo := orderOf f true (v - w) e0
  let hi := orderOf f false (v + w) e0
  let near : Int := if neg then -(encodeWide f .rn m e : Int) else encodeWide f .rn m e
  max lo (min hi (near + Config.specialOffset fn t input))

/-- Whether an order is the exact result of VRCP or VRSQ; the other functions' results here are irrational. -/
def specialIsExact (fn : SpecialFn) (f : FpFmt) (y : Int) (m : Nat) (e : Int) : Bool :=
  let d := fpDecode f (y.natAbs % f.signBit)
  match fn, d with
  | .rcp, .fin _ n g => (numEq (.fin false (n * m) (g + e)) (.fin false 1 0))
  | .rsq, .fin _ n g => (numEq (.fin false (n * n * m) (2 * g + e)) (.fin false 1 0))
  | _, _ => false

/-- The result at a finite input with no special value, with the flags of R281. -/
def specialGeneral (fn : SpecialFn) (t : LaneTy) (sat : Bool) (input : BitVec 32) (inUnit neg : Bool) (m : Nat) (e : Int) :
    Nat × Flags :=
  let f := laneFp t
  let r := specialExact fn neg m e
  let y := specialPick fn t input inUnit r.1 r.2.1 r.2.2
  let sg := if y < 0 ∨ (y = 0 ∧ r.1) then f.signBit else 0
  if f.maxBits < y.natAbs then
    let o := fpOverflow f .rn (decide (y < 0)) sat
    (o.1, o.2)
  else
    let exact := specialIsExact fn f y m e
    let tiny := decide ((Nat.log2 r.2.1 : Int) + r.2.2 < f.minExp)
    (sg + y.natAbs, flagIf (!exact) flagNX ||| flagIf (!exact && tiny) flagUF)

/-- 2^20 < |x|. -/
def beyond20 (m : Nat) (e : Int) : Bool := numLt (.fin false 1 20) (.fin false m e)
/-- The exponent of an exact power of two. -/
def powerOf2 (m : Nat) (e : Int) : Option Int := if m = 2 ^ Nat.log2 m then some (e + Nat.log2 m) else none
/-- The value of an integer. -/
def integerOf (neg : Bool) (m : Nat) (e : Int) : Option Int :=
  let v := if 0 ≤ e then some ((m : Int) * 2 ^ e.toNat)
    else if m % 2 ^ (-e).toNat = 0 then some ((m : Int) / 2 ^ (-e).toNat) else none
  v.map (fun x => if neg then -x else x)

/-- A special function of one lane (R281 to R283): encoded result and flags. -/
def specialFn (fn : SpecialFn) (t : LaneTy) (sat : Bool) (b : Nat) : Nat × Flags :=
  let f := laneFp t
  let input : BitVec 32 := BitVec.ofNat 32 b
  let sgn := fun (n : Bool) (x : Nat) => (if n then f.signBit else 0) + x
  let one := (fpEncode f .rn false (.fin false 1 0) 0).bits
  let invalid : Nat × Flags := (f.nanBits, flagNV)
  let gen := fun (neg : Bool) (m : Nat) (e : Int) =>
    let inUnit := !numLt (.fin false m e) (.fin false 1 (-1)) && !numLt (.fin false 1 1) (.fin false m e)
    specialGeneral fn t sat input inUnit neg m e
  match fpDecode f b with
  | .nan => (f.nanBits, 0)
  | .inf n =>
    (match fn with
      | .rcp => (sgn n 0, 0)
      | .rsq => if n then invalid else (0, 0)
      | .exp | .exp2 => (if n then 0 else f.infBits, 0)
      | .log2 => if n then invalid else (f.infBits, 0)
      | .tanh => (sgn n one, 0)
      | .sin | .cos => invalid)
  | .fin n m e =>
    if m = 0 then
      (match fn with
        | .rcp | .rsq => (sgn n f.infBits, flagDZ)
        | .exp | .exp2 | .cos => (one, 0)
        | .log2 => (sgn true f.infBits, flagDZ)
        | .tanh | .sin => (sgn n 0, 0))
    else
      match fn with
      | .rsq => if n then invalid else gen n m e
      | .log2 =>
        if n then invalid
        else
          (match powerOf2 m e with
            | some k => ((fpEncode f .rn false (numOfInt k) 0).bits, 0)
            | none => gen n m e)
      | .exp2 =>
        (match integerOf n m e with
          | some k =>
            let x := fpEncode f .rn false (.fin false 1 k) 0
            if -400 ≤ k ∧ k ≤ 400 ∧ x.flags = 0 then (x.bits, 0) else gen n m e
          | none => gen n m e)
      | .sin | .cos => if beyond20 m e then invalid else gen n m e
      | _ => gen n m e

end Sys2Proof.Machine
end

