-- ==== Sys2Proof/Machine/EngineRun.lean ====
section
/-! DEFINITION. Events of the engines and of the matrix rows: the start and end of a command, sectors of a copy, CRED results,
attention tiles, near-bank rows (15 R330 to R335; 19 R392 to R403; 20 R421 to R425; 24 R463, R466), carry chains (19 R396),
and the opening of a row barrier (19 R384, R385; 20 R412, R428). -/

namespace Sys2Proof.Machine

/-- Segments of output: what an address receives. -/
abbrev Segs := List (Word × List Byte)
def checkSegs (s : State) (x : Command) (gs : Segs) : State × Option Code :=
  gs.foldl (fun (acc : State × Option Code) (g : Word × List Byte) => match acc.2 with
    | some _ => acc
    | none => engCheck acc.1 x.who g.1 g.2) (s, none)
def placeSegs (s : State) (x : Command) (gs : Segs) : List (Nat × Bool × List Byte) := gs.flatMap (fun g => engPlace s x.who g.1 g.2)
def writeSegs (s : State) (x : Command) (gs : Segs) : State := writeParts s x.who.id (placeSegs s x gs)

/-- Read the pair of block `k` of the granule that holds `va`. -/
def engPair (s : State) (x : Command) (l : Leaf) (va : Word) (k : Nat) : State × Except Code (List Byte) :=
  engRead s x.who (pairVa s x.core l va k) 2

/-! ### Sectors of a copy (15 R331, R332; Table 15.6) -/

def halfVa (va : Word) (h : Nat) : Word := va + BitVec.ofNat 72 (h / 2)
/-- The blocks of a granule that `n` bytes of a block page meet. -/
def blocksOf (l : Leaf) (va : Word) (n : Nat) : List Nat :=
  let eb := if l.four then 1 else 2
  ((List.range (2 * n / eb)).map (fun j => (blockPlace l (halfVa va (j * eb)) (j * eb % 2)).k)).eraseDups

/-- The pages of a range have the format and geometry of their side's first page. -/
def sideCause (s : State) (x : Command) (f ge : Nat) (va : Word) (n : Nat) : Option Code :=
  if (linePieces va.toNat n).any (fun q => match s.walk (pkgOf x.core) x.part (BitVec.ofNat 72 q.1) with
    | .leaf l => l.fmt != f || l.geom != ge
    | _ => false) then some cFormat else none

/-- The pairs that go with a sector copied between equal block formats. -/
def samePairs (s : State) (x : Command) (src dst : Word) (n : Nat) : State × Except Code Segs :=
  (linePieces dst.toNat n).foldl (fun (acc : State × Except Code Segs) (q : Nat × Nat) =>
    let d : Word := BitVec.ofNat 72 q.1
    let a : Word := src + BitVec.ofNat 72 (q.1 - dst.toNat)
    match acc.2, s.walk (pkgOf x.core) x.part a, s.walk (pkgOf x.core) x.part d with
    | .ok gs, .leaf la, .leaf ld =>
      ((blocksOf la a q.2).zip (blocksOf ld d q.2)).foldl (fun (ac : State × Except Code Segs) (k : Nat × Nat) =>
        match ac.2 with
        | .error _ => ac
        | .ok g =>
          let r := engPair ac.1 x la a k.1
          match r.2 with
          | .error c => (r.1, .error c)
          | .ok b => (r.1, .ok (g ++ [(pairVa s x.core ld d k.2, b)]))) (acc.1, .ok gs)
    | _, _, _ => acc) (s, .ok [])

/-- Elements of a source range of format `f`, decoded (05 R122). -/
def copyElems (s : State) (x : Command) (f : Nat) (va : Word) (n : Nat) : State × Except Code (List Elt) :=
  let r := engRead s x.who va n
  match r.2 with
  | .error c => (r.1, .error c)
  | .ok b =>
    let w := (fmtBits f).getD 8
    let v := leVal b
    (List.range (8 * n / max 1 w)).foldl (fun (acc : State × Except Code (List Elt)) (j : Nat) =>
      match acc.2 with
      | .error _ => acc
      | .ok es =>
        let e := v / 2 ^ (j * w) % 2 ^ w
        if isBlockFmt f then
          let h := j * w / 4
          let at_ := halfVa va h
          match s.walk (pkgOf x.core) x.part at_ with
          | .absent _ => (acc.1, .error cNotPresent)
          | .denied pa => (acc.1.countDenial pa x.part, .error cDeny)
          | .leaf l =>
            let q := engPair acc.1 x l at_ (blockPlace l at_ (h % 2)).k
            match q.2 with
            | .error c => (q.1, .error c)
            | .ok p =>
              match blockDecode (f == 0x19) (byteAt p 0) (byteAt p 1) e with
              | none => (q.1, .error cReservedFormat)
              | some y => (q.1, .ok (es ++ [.num y]))
        else (acc.1, .ok (es ++ [laneElt (pageLane f .i8) e]))) (r.1, .ok [])

def packBits (w : Nat) (es : List Nat) : List Byte :=
  leBytes (es.length * w / 8) (es.zipIdx.foldl (fun acc e => acc + e.1 * 2 ^ (e.2 * w)) 0)

/-- Encoded elements of a destination range of block format: each whole block takes its pair by R117, a part of one keeps the
stored pair (R120). -/
def copyBlocks (s : State) (x : Command) (l : Leaf) (dst : Word) (es : List Elt) : State × Except Code Segs :=
  let eb := if l.four then 1 else 2
  let ks := es.zipIdx.map (fun e => ((blockPlace l (halfVa dst (e.2 * eb)) (e.2 * eb % 2)).k, e.1.toNum))
  let one := fun (acc : State × Except Code (List Nat × Segs)) (k : Nat) =>
    match acc.2 with
    | .error _ => acc
    | .ok g =>
      let xs := (ks.filter (fun q => q.1 == k)).map (·.2)
      let enc := fun (p : Nat × Nat) => xs.map (fun v => (blockEncode l.four .rn true p.1 p.2 v 0).bits)
      if xs.length = 32 then
        let p := blockPair l.four xs
        (acc.1, .ok (g.1 ++ enc p, g.2 ++ [(pairVa s x.core l dst k, leBytes 1 p.1 ++ leBytes 1 p.2)]))
      else
        let r := engPair acc.1 x l dst k
        match r.2 with
        | .error c => (r.1, .error c)
        | .ok b =>
          if byteAt b 0 = 0xFF ∨ byteAt b 1 = 0xFF then (r.1, .error cReservedFormat)
          else (r.1, .ok (g.1 ++ enc (byteAt b 0, byteAt b 1), g.2))
  let r := ((ks.map (·.1)).eraseDups).foldl one (s, .ok ([], []))
  match r.2 with
  | .error c => (r.1, .error c)
  | .ok g => (r.1, .ok ((dst, packBits (4 * eb) g.1) :: g.2))

/-- What a sector writes, or its cause. -/
def sectorData (s : State) (x : Command) (g : CopyGeo) (key : Nat) : State × Except Code Segs :=
  let a := sectorSource g x.op key
  let d := sectorDest g x.op key
  let src : Word := BitVec.ofNat 72 a.1
  let dst : Word := BitVec.ofNat 72 d.1
  match sideCause s x g.sf g.sg src a.2, sideCause s x g.df g.dg dst d.2 with
  | some c, _ => (s, .error c)
  | none, some c => (s, .error c)
  | none, none =>
    if g.kind = .convert then
      let r := copyElems s x g.sf src a.2
      match r.2, s.walk (pkgOf x.core) x.part dst with
      | .error c, _ => (r.1, .error c)
      | .ok _, .absent _ => (r.1, .error cNotPresent)
      | .ok _, .denied pa => (r.1.countDenial pa x.part, .error cDeny)
      | .ok es, .leaf l =>
        if isBlockFmt g.df then copyBlocks r.1 x l dst es
        else
          let w := (fmtBits g.df).getD 8
          (r.1, .ok [(dst, packBits w (es.map (fun e => (eltTo (pageLane g.df .i8) .rn true e 0).bits)))])
    else
      let r := engRead s x.who src a.2
      match r.2 with
      | .error c => (r.1, .error c)
      | .ok b =>
        if isBlockFmt g.sf && g.sf == g.df then
          let q := samePairs r.1 x src dst d.2
          match q.2 with
          | .error c => (q.1, .error c)
          | .ok gs => (q.1, .ok ((dst, b) :: gs))
        else (r.1, .ok [(dst, b)])

/-! ### Copies -/

/-- A Lea operation of an engine (24 R463); a package of no group applies it at once. -/
def leaIssue (s : State) (p : Nat) (op : LeaOp) : State :=
  let l := (s.pkg p).lea
  if l.members.isEmpty then
    let n := l.localNext
    let s1 := s.modPkg p (fun y => { y with lea := { y.lea with localNext := (n + 1) % 2 ^ 48 } })
    leaApplied (leaData s1 p n op) p n
  else s.modPkg p (fun y => { y with lea := { y.lea with queue := y.lea.queue ++ [(p * 4096, 32, op)] } })
/-- Every Lea operation of a command has been applied by every member. -/
def leaDone (s : State) (x : Command) : Bool :=
  let l := (s.pkg (pkgOf x.core)).lea
  let mine := fun (op : LeaOp) => match op with
    | .page _ c n _ => c == x.core && n == x.seq
    | _ => false
  !(l.queue.any (fun q => mine q.2.2)) && !(l.sent.any (fun q => mine q.2))

/-- Write a sector: what lies in the package at once, what lies in another one as a sector frame of class ENG to each die there,
which its target answers (25 R467; log 30). -/
def sendSector (s : State) (x : Command) (key : Nat) (gs : Segs) : State × Command :=
  let p := pkgOf x.core
  let ps := placeSegs s x gs
  let far := ps.filter (fun q => homePkg q.1 != p)
  let s1 := writeParts s x.who.id (ps.filter (fun q => homePkg q.1 == p))
  let dies := (far.map (fun q => homeDie q.1)).eraseDups
  let cast := fun (st : State) (d : Nat) =>
    let mine := far.filter (fun q => homeDie q.1 == d)
    send st x.core x.who.id (.home ((mine.head?.map (·.1)).getD 0)) clsENG (.sector x.core x.seq key mine)
  (dies.foldl cast s1, { x with flying := x.flying ++ dies.map (fun _ => key) })

/-- Move the next sector of a copy, or, where its page is replicated, the sectors of that page (R466, R463). -/
def moveSectors (s : State) (x : Command) (g : CopyGeo) (keys : List Nat) : State :=
  let p := pkgOf x.core
  let lea := match keys.head? with
    | none => false
    | some k => (match s.walk p x.part (BitVec.ofNat 72 (sectorDest g x.op k).1) with
      | .leaf l => l.learep
      | _ => false)
  let place := fun (k : Nat) => (k / 2 ^ 32, (sectorDest g x.op k).1 / 65536)
  let now := if lea then keys.takeWhile (fun k => some (place k) == keys.head?.map place) else keys.take 1
  let one := fun (acc : State × Command × Segs) (k : Nat) =>
    let r := sectorData acc.1 x g k
    match r.2 with
    | .error c => (r.1, { acc.2.1 with missing := acc.2.1.missing ++ [(k, c)] }, acc.2.2)
    | .ok gs =>
      let q := checkSegs r.1 x gs
      match q.2 with
      | some c => (q.1, { acc.2.1 with missing := acc.2.1.missing ++ [(k, c)] }, acc.2.2)
      | none =>
        if lea then (q.1, acc.2.1.wrote g k, acc.2.2 ++ gs)
        else
          let t := sendSector q.1 acc.2.1 k gs
          (t.1, if t.2.flying.contains k then t.2 else t.2.wrote g k, acc.2.2)
  let r := now.foldl one (s, { x with next := x.next + now.length }, [])
  let s1 := setHead r.1 r.2.1
  if r.2.2.isEmpty then s1 else leaIssue s1 p (.page x.part x.core x.seq r.2.2)

/-- A copy that still has sectors to move. -/
def copyRuns (s : State) (c : Nat) : Option (Command × CopyGeo) :=
  match headOf s c 0 with
  | none => none
  | some x =>
    let g := copyGeo s (pkgOf c) x.part x.op
    if x.running && x.status.isNone && !x.stop && decide (x.next < (copyTodo g x).length) then some (x, g) else none
def execCopySector (cl : Nat) (s : State) : Out :=
  let from_ := (s.cluster cl).copyNext
  match ((List.range 16).map (fun i => (from_ + i) % 16)).findSome? (fun i => (copyRuns s (cl * 16 + i)).map (fun r => (i, r))) with
  | none => .next s
  | some (i, x, g) =>
    let s1 := s.modCluster cl (fun y => { y with copyNext := (i + 1) % 16 })
    .next (moveSectors s1 x g ((copyTodo g x).drop x.next))

/-! ### The end of a copy (07 R173; 09 R194; 15 R332) -/

def retain (s : State) (g : CopyGeo) (x : Command) : State :=
  let pages := missingPages g x.op x.missing
  let lo := pages.headD 0 * 65536
  let hi := (pages.getLastD 0 + 1) * 65536
  let keep := fun (l : RangeLock) =>
    if !x.owns l then some l
    else if l.dst then some { l with lo := lo, hi := hi, retained := true }
    else none
  (s.modCluster (clOf x.core) (fun cl => { cl with locks := cl.locks.filterMap keep })).modCore x.core (fun co =>
    { co with retained := co.retained ++ [{ x with running := false }] })
def endCopy (s : State) (x : Command) : State :=
  let g := copyGeo s (pkgOf x.core) x.part x.op
  let s0 := popHead s x
  match lowestMissing g x.op x.missing with
  | none => endCommand s0 x cNone
  | some m =>
    let s1 := (missingPages g x.op x.missing).foldl (pageFault g x) s0
    postCompletion (retain s1 g x) x m.2

/-! ### NBMV (19 R392 to R394; 20 R425) -/

def mfCode : MatFmt → Nat
  | .i8 => 0x01 | .e4m3 => 0x13 | .e5m2 => 0x14 | .db8 => 0x18 | .e2m1 => 0x15 | .db4 => 0x19 | .fp16 => 0x11 | .bf16 => 0x12
/-- The elements of `n` bytes of a page of format `mf`, with the pairs of block formats: every page is of that format, or raw
where the format is no block format, and of the geometry asked. -/
def engElems (s : State) (x : Command) (mf : MatFmt) (geom : Option Nat) (va : Word) (n : Nat) : State × Except Code (List Num) :=
  let bad := (linePieces va.toNat n).any (fun q => match s.walk (pkgOf x.core) x.part (BitVec.ofNat 72 q.1) with
    | .leaf l => !(l.fmt == mfCode mf || (l.fmt == 0 && !mfBlock mf)) || geom.any (fun g => l.geom != g)
    | _ => false)
  if bad then (s, .error cFormat)
  else if mfBlock mf then
    let r := copyElems s x (mfCode mf) va n
    (r.1, r.2.map (fun es => es.map Elt.toNum))
  else
    let r := engRead s x.who va n
    (r.1, r.2.map (fun b => (List.range (8 * n / mfBits mf)).map (fun k => (matNum mf (packed (mfBits mf) b k) 0 0).getD numZero)))

/-- Sums in chunks of 32, each rounded once, added in ascending order (05 R137; 19 R393). -/
def chunkedSum (ps : List Num) : BitVec 32 :=
  let chunks := (List.range ((ps.length + 31) / 32)).map (fun j => (toF32 (numSum .rn ((ps.drop (32 * j)).take 32)).1).1)
  match chunks with
  | [] => 0
  | c :: t => t.foldl (fun acc y => (toF32 (numSum .rn [f32 acc, f32 y]).1).1) c
/-- One row: its banks' partials, added from +0 in ascending bank order. -/
def nbmvRow (mf : MatFmt) (a b : List Num) : BitVec 32 :=
  let per := 2048 * 8 / mfBits mf
  let ps := (a.zip b).map (fun q => (numMul q.1 q.2).1)
  (List.range ((ps.length + per - 1) / per)).foldl (fun acc j =>
    (toF32 (numSum .rn [f32 acc, f32 (chunkedSum ((ps.drop (per * j)).take per))]).1).1) 0

/-- A destination of FP32 results is raw or FP32. -/
def fp32Page (s : State) (x : Command) (va : Word) : Option Code :=
  match s.walk (pkgOf x.core) x.part va with
  | .leaf l => if l.fmt = 0 ∨ l.fmt = 0x10 then none else some cFormat
  | _ => none
/-- Rows in ascending order until one meets a cause: the state, rows written, the cause. -/
def nbmvRows (x : Command) (mf : MatFmt) (dst b : Word) (len : Nat) (a : List Num) :
    State × Nat × Option Code → Nat → State × Nat × Option Code
  | (s, n, some c), _ => (s, n, some c)
  | (s, n, none), i =>
    let granule := b + BitVec.ofNat 72 (i * 65536)
    let r := engElems s x mf (some 2) granule len
    match r.2 with
    | .error c => (r.1, n, some c)
    | .ok row =>
      let d := dst + BitVec.ofNat 72 (4 * i)
      let out := leBytes 4 (nbmvRow mf a row).toNat
      match fp32Page r.1 x d with
      | some c => (r.1, n, some c)
      | none =>
        let q := engCheck r.1 x.who d out
        match q.2 with
        | some c => (q.1, n, some c)
        | none => (engWrite q.1 x.who d out, n + 1, none)

/-- The command's rows; a released one stops after a 64-byte unit (15 R336). -/
def endNbmv (s : State) (x : Command) (mf : MatFmt) (chk : Bool) (dst a b : Word) (rows len : Nat) : State :=
  let s0 := popHead s x
  let v := if rows = 0 then (s0, .ok []) else engElems s0 x mf (if mfBlock mf then some 0 else none) a len
  let all := if x.stop then 16 * (s.turn.free.toNat % (rows / 16 + 1)) else rows
  let r := match v.2 with
    | .error c => (v.1, 0, some c)
    | .ok nums => (List.range all).foldl (nbmvRows x mf dst b len nums) (v.1, 0, none)
  let y : Command := { x with units := (4 * r.2.1 + 63) / 64 }
  let first := dst + BitVec.ofNat 72 (4 * r.2.1)
  match r.2.2 with
  | some c => endCommand (commandFault r.1 y c first []) y c
  | none =>
    if x.stop then endCommand (commandFault r.1 y cAbandoned first []) y cAbandoned else endChecked r.1 y chk

/-! ### ATTN (19 R399 to R403; 20 R421 to R423) -/

/-- Elements of a tile or block as ATTN reads them: `rows` rows of `dh`. -/
def attnRows (s : State) (x : Command) (inp : AttnIn) (dh rows : Nat) (va : Word) : State × Except Code (List (List Num)) :=
  let mf := attnInFmt inp
  let r := engElems s x mf (if mfBlock mf then some 0 else none) va (rows * dh * mfBits mf / 8)
  (r.1, r.2.map (fun es => (List.range rows).map (fun i => (es.drop (dh * i)).take dh)))

/-- The FP32 VEXP2 of a value of 32 bits. -/
def exp2F32 (b : BitVec 32) : BitVec 32 := BitVec.ofNat 32 (specialFn .exp2 .fp32 false b.toNat).1
def l2e : BitVec 32 := 0x3FB8AA3B
def negInf32 : BitVec 32 := 0xFF800000
/-- E2(Round((a − b) × L2E)). -/
def expDiff (a b : BitVec 32) : BitVec 32 :=
  let d := (numSum .rn [f32 a, (f32 b).neg]).1
  exp2F32 (toF32 (numMul d (f32 l2e)).1).1
def toBf16 (b : BitVec 32) : Num := fpDecode .bf16 (fpEncode .bf16 .rn false (f32 b) 0).bits
def roundF32 (x : Num) : BitVec 32 := (toF32 x).1
/-- a × f + b, rounded once. -/
def fmaF32 (a f b : BitVec 32) : BitVec 32 := roundF32 (numFma .rn (f32 a) (f32 f) (f32 b)).1

/-- One query row after a block of tokens: mx, l and o. A masked token has score −∞ and forms no term of either sum
(19 R400; 21 R431). -/
def attnRow (scale : BitVec 32) (q : List Num) (ks vs : List (List Num)) (live : Nat) (mx l : BitVec 32)
    (o : List (BitVec 32)) : BitVec 32 × BitVec 32 × List (BitVec 32) :=
  let score := fun (t : Nat) =>
    let dot := chunkedSum ((q.zip (ks.getD t [])).map (fun e => (numMul e.1 e.2).1))
    roundF32 (numMul (f32 scale) (f32 dot)).1
  let ss := (List.range (min live 32)).map score
  let mx' := ss.foldl (fun (m : BitVec 32) (v : BitVec 32) => BitVec.ofNat 32 (fpMinMax .fp32 true m.toNat v.toNat)) mx
  let f := if mx = negInf32 then 0 else expDiff mx mx'
  let ps := ss.map (fun v => toBf16 (expDiff v mx'))
  let l' := fmaF32 l f (roundF32 (numSum .rn ps).1)
  let o' := o.zipIdx.map (fun e =>
    let sum := roundF32 (numSum .rn ((ps.zip vs).map (fun t => (numMul t.1 (t.2.getD e.2 numZero)).1))).1
    fmaF32 e.1 f sum)
  (mx', l', o')

/-- A page that waits, among those of a range (15 R319; 19 R402). -/
def awaited (s : State) (x : Command) (va : Word) (n : Nat) : Bool :=
  (linePieces va.toNat n).any (fun q => match s.walk (pkgOf x.core) x.part (BitVec.ofNat 72 q.1) with
    | .absent w => w
    | .denied _ => false
    | .leaf _ => false)

/-- The running command of a cluster's query tile. -/
def tileCommand (s : State) (cl : Nat) : Option (AttnTile × Command) :=
  match (s.cluster cl).attn with
  | none => none
  | some t => (headOf s t.core 2).map (fun x => (t, x))
def setTile (s : State) (cl : Nat) (t : AttnTile) : State := s.modCluster cl (fun x => { x with attn := some t })
def failTile (s : State) (x : Command) (c : Code) : State := setHead s { x with status := some c }
def attnBlocks (len : Nat) : Nat := (len + 31) / 32

/-- One block of 32 tokens (R400, R401), or the stall of an awaited page (R402). -/
def attnStep (s : State) (cl : Nat) (t : AttnTile) (x : Command) : State :=
  match x.op with
  | .attn _ q kbase vbase table _ _ log2s len dh inp _ scale =>
    let d := dhSize dh
    let n := 32 * d * mfBits (attnInFmt inp) / 8
    let r := engRead s x.who (table + BitVec.ofNat 72 (4 * t.block)) 4
    (match r.2 with
      | .error c => failTile r.1 x c
      | .ok b =>
        let entry := leVal b
        let ka := kbase + BitVec.ofNat 72 (entry * 2 ^ log2s)
        let va := vbase + BitVec.ofNat 72 (entry * 2 ^ log2s)
        if entry = 0xFFFFFFFF then failTile r.1 x cGatherBounds
        else if awaited r.1 x ka n || awaited r.1 x va n then
          setTile r.1 cl { t with stall := some (t.stall.getD s.now), lastWalk := s.now }
        else
          let kr := attnRows r.1 x inp d 32 ka
          match kr.2 with
          | .error c => failTile kr.1 x c
          | .ok ks =>
            let vr := attnRows kr.1 x inp d 32 va
            match vr.2 with
            | .error c => failTile vr.1 x c
            | .ok vs =>
              let qr := attnRows vr.1 x inp d 32 q
              match qr.2 with
              | .error c => failTile qr.1 x c
              | .ok qs =>
                let out := (List.range 32).map (fun i =>
                  attnRow scale (qs.getD i []) ks vs (min 32 (len - 32 * t.block)) (t.mx.getD i 0) (t.l.getD i 0) (t.o.getD i []))
                setTile qr.1 cl
                  { t with
                    block := t.block + 1, mx := out.map (·.1), l := out.map (·.2.1), o := out.map (·.2.2), stall := none })
  | _ => s
def attnLen : EngineOp → Nat
  | .attn _ _ _ _ _ _ _ _ len _ _ _ _ => len
  | _ => 0
/-- A tile that may take its next block. -/
def tileRuns (t : AttnTile) (x : Command) : Bool :=
  x.running && x.status.isNone && !x.stop && decide (t.block < attnBlocks (attnLen x.op))
def execAttnBlock (cl : Nat) (s : State) : Out :=
  match tileCommand s cl with
  | some (t, x) => if tileRuns t x && t.stall.isNone then .next (attnStep s cl t x) else .next s
  | none => .next s
/-- A stall longer than the page-wait timeout; the timeout governs over a page that arrives then (19 Table 19.3). -/
def tileLate (s : State) (t : AttnTile) : Bool := t.stall.any (fun n => decide (n + pageLimit s t.core < s.now))
/-- The walk of a stalled tile repeats every 1,024 cycles. -/
def execAttnPageRewalk (cl : Nat) (s : State) : Out :=
  match tileCommand s cl with
  | some (t, x) =>
    if tileRuns t x && t.stall.isSome && !tileLate s t && decide (t.lastWalk + 1024 ≤ s.now) then .next (attnStep s cl t x) else .next s
  | none => .next s
def execAttnPageTimeout (cl : Nat) (s : State) : Out :=
  match tileCommand s cl with
  | some (t, x) =>
    if tileRuns t x && tileLate s t then .next (failTile s x cAttnTimeout)
    else .next s
  | none => .next s

def attnOutFmt : AttnOut → FpFmt
  | .fp32 => .fp32 | .fp16 => .fp16 | .bf16 => .bf16
/-- a / b, rounded once: the quotient to 160 bits with a last bit that says whether it is exact. -/
def quotient (a b : Num) : Num :=
  match a, b with
  | .nan, _ | _, .nan => .nan
  | .inf _, .inf _ => .nan
  | .inf n, .fin m _ _ => .inf (n != m)
  | .fin n _ _, .inf m => .fin (n != m) 0 0
  | .fin n x e, .fin m y f =>
    if y = 0 then (if x = 0 then .nan else .inf (n != m))
    else
      let k := x * 2 ^ 160 / y
      .fin (n != m) (2 * k + (if x * 2 ^ 160 % y = 0 then 0 else 1)) (e - f - 161)
/-- mx + ln l. -/
def logSum (mx l : BitVec 32) : BitVec 32 := roundF32 (numSum .rn [f32 mx, f32 (Config.attnLn l)]).1

/-- The tile's output: rows of o / l, and the log-sums (R400); zeros and −∞ for a length of 0 (R401). -/
def attnOutput (t : AttnTile) (op : EngineOp) : Segs :=
  match op with
  | .attn _ _ _ _ _ out lse _ len dh _ outp _ =>
    let nb := attnOutBytes outp
    let row := fun (i : Nat) =>
      (List.range (dhSize dh)).flatMap (fun j =>
        if len = 0 then leBytes nb 0
        else
          leBytes nb (fpEncode (attnOutFmt outp) .rn false
            (quotient (f32 ((t.o.getD i []).getD j 0)) (f32 (t.l.getD i 0))) 0).bits)
    let sums := (List.range 32).flatMap (fun i =>
      leBytes 4 (if len = 0 then negInf32 else logSum (t.mx.getD i 0) (t.l.getD i 0)).toNat)
    (out, (List.range 32).flatMap row) :: (if lse = 0 then [] else [(lse, sums)])
  | _ => []
def checksMirror : EngineOp → Bool
  | .attn chk .. => chk
  | _ => false
def endAttn (s : State) (x : Command) (t : AttnTile) : State :=
  let s0 := (popHead s x).modCluster (clOf x.core) (fun cl => { cl with attn := none })
  let gs := attnOutput t x.op
  let q := checkSegs s0 x gs
  match q.2 with
  | some c => abandonCommand q.1 x c
  | none =>
    let y : Command := { x with units := (gs.map (fun g => g.2.length / 64)).sum }
    endChecked (writeSegs q.1 x gs) y (checksMirror x.op)

/-! ### Start and end of a command (15 R327, R330) -/

/-- Whether a command of engine 2 may start its query tile: no tile runs, no ganged operation is in progress on rows 0 and 1 (19
R403), and no earlier published one of the cluster waits (20 R423). -/
def tileFree (s : State) (x : Command) : Bool :=
  let cl := clOf x.core
  (s.cluster cl).attn.isNone && [0, 4].all (fun i => !(barrierOf s (cl * 16 + i)).opened) &&
  (List.range 16).all (fun i => match headOf s (cl * 16 + i) 2 with
    | some y => decide (x.pub ≤ y.pub)
    | none => true)

/-- A copy of which no sector can be moved: all are missing with one cause (15 R331, R332). -/
def allMissing (g : CopyGeo) (y : Command) (c : Code) : Command :=
  let ks := copyTodo g y
  { y with missing := ks.map (fun k => (k, c)), next := ks.length }
/-- The engine takes the command: one whose appending strand has no CMD right at the engine ends with ACCESS_TABLE_DENY
(07 R156, R157). -/
def startCommand (s : State) (x : Command) : State :=
  let y : Command := { x with running := true }
  let id : Ident := { part := x.part, cls := if x.prio3 then 1 else 0 }
  if !(s.rights (engineTarget (clOf x.core) x.eng.val) id).getLsbD 3 then
    setHead (s.countShepherd (clOf x.core) 0x10 1 (some x.part))
      (match x.op with
        | .cpy .. => allMissing (copyGeo s (pkgOf x.core) x.part x.op) y cDeny
        | _ => { y with status := some cDeny })
  else
    match x.op with
    | .cpy _ _ rows rowBytes _ _ =>
      let g := copyGeo s (pkgOf x.core) x.part x.op
      let bits_ := rows * rowBytes * (fmtBits g.df).getD 8
      let all := fun (c : Code) => setHead s (allMissing g y c)
      if g.kind = .mismatch then all cFormat
      else if g.kind = .convert ∧ bits_ % (64 * max 1 ((fmtBits g.sf).getD 8)) ≠ 0 then all cMisaligned
      else setHead s y
    | .cred op fmt _ src count fold round =>
      let r := engRead s x.who src (count * credSize fmt)
      (match r.2 with
        | .error c => setHead r.1 { y with status := some c }
        | .ok b =>
          let m : CredIn :=
            { core := x.core, strand := x.strand, seq := x.seq, op := op, fmt := fmt, count := count, ok := true, bytes := b }
          setHead (send r.1 x.core (engineIdent x.part x.eng) (rootDest (pkgOf x.core)) clsCOL (.credIn fold round m))
            { y with sent := true })
    | .attn _ _ _ _ _ _ _ _ _ dh _ _ _ =>
      setTile (setHead s y) (clOf x.core)
        { core := x.core, block := 0, mx := List.replicate 32 negInf32, l := List.replicate 32 0
          o := List.replicate 32 (List.replicate (dhSize dh) 0), stall := none, lastWalk := s.now }
    | _ => setHead s y
def execEngineCommandStart (core : Nat) (eng : Fin 4) (s : State) : Out :=
  match headOf s core eng with
  | none => .next s
  | some x => if x.running || (eng == 2 && !tileFree s x) then .next s else .next (startCommand s x)

/-- A CRED's reduced data comes to its core: it is written, or the command ends without (R335). -/
def execCredResult (i : Nat) (s : State) : Out :=
  .next (deliver s i (fun st f => match f.dst, f.msg with
    | .core c, .credOut seq ok b =>
      (match headOf st c 3 with
        | none => some st
        | some x =>
          (match x.op with
            | .cred _ _ dst _ _ _ _ =>
              if x.seq ≠ seq ∨ x.status.isSome then some st
              else if !ok then some (setHead st { x with status := some cAbandoned })
              else
                let q := engCheck st x.who dst b
                (match q.2 with
                  | some e => some (setHead q.1 { x with status := some e })
                  | none => some (setHead (engWrite q.1 x.who dst b) { x with status := some cNone, units := b.length / 64 }))
            | _ => some st))
    | _, _ => none))

/-- Sectors for which no live path is left are missing (22 R433, 24 R459). -/
def dropSectors (s : State) (x : Command) : State × Command :=
  let lost := s.net.filter (fun f => match f.msg with
    | .sector c n _ _ => c == x.core && n == x.seq && !livePath s (pkgOf c) f.dst.die
    | _ => false)
  let s1 := { s with net := s.net.filter (fun f => !lost.contains f) }
  let y := lost.foldl (fun (c : Command) f => match f.msg with
    | .sector _ _ k _ => c.answered k (some (if pathDisagreed s (pkgOf x.core) then cLinkDisagree else cLinkDown)) 0
    | _ => c) x
  if lost.isEmpty then (s, x) else (setHead s1 y, y)

def clearTile (s : State) (x : Command) : State :=
  if x.eng = 2 then s.modCluster (clOf x.core) (fun cl => { cl with attn := cl.attn.filter (fun t => t.core != x.core) }) else s
def execEngineCommandEnd (core : Nat) (eng : Fin 4) (s : State) : Out :=
  match headOf s core eng with
  | none => .next s
  | some x =>
    if !x.running || !eventRoom s x.eventCluster then .next s
    else
      match x.status with
      | some c =>
        let s0 := clearTile (popHead s x) x
        .next (if c = cNone then endCommand s0 x cNone else abandonCommand s0 x c)
      | none =>
        match x.op with
        | .cpy .. =>
          let g := copyGeo s (pkgOf core) x.part x.op
          let r := dropSectors s x
          if !r.2.flying.isEmpty then .next r.1
          else if x.stop then .next (abandonCommand (popHead r.1 r.2) r.2 cAbandoned)
          else if decide ((copyTodo g r.2).length ≤ r.2.next) && leaDone r.1 r.2 then .next (endCopy r.1 r.2) else .next r.1
        | .nbmv mf chk dst a b rows len => .next (endNbmv s x mf chk dst a b rows len)
        | .attn _ _ _ _ _ _ _ _ len _ _ _ _ =>
          if x.stop then .next (abandonCommand (clearTile (popHead s x) x) x cAbandoned)
          else
            (match (s.cluster (clOf core)).attn with
              | some t => if attnBlocks len ≤ t.block then .next (endAttn s x t) else .next s
              | none => .next s)
        | _ => .next s

/-! ### The ladder (19 R396) -/

def execLadderMerge (core : Nat) (s : State) : Out :=
  let r := ladderStep (s.core core)
  .next (orFlags (writeMoved s (s.setCore core r.1) core) core r.2)

/-! ### The row barrier (19 R384, R385; 20 R412, R428) -/

/-- A strand at the barrier with its ganged operation, as an actor at that operation, and the entry with which it stands there. -/
structure Ganged where
  a : Actor
  num : Nat
  e : SeqEntry
  op : MatOp
  gang : SeqEntry

def gangedOf (m : Nat × Nat) (x : Strand) (g e : SeqEntry) : Option Ganged :=
  (matOp e.i).map (fun op =>
    { a := { core := m.1, k := m.2, x := x, exec := true, sr := e.s, kr := e.k, pc := e.pc }, num := e.num, e := e
      op := op, gang := g })
/-- Before the opening: the operation is the next entry after the GANG. -/
def gangedAt (s : State) (m : Nat × Nat) : Option Ganged :=
  (s.strand m.1 m.2).bind (fun x => x.gang.bind (fun g => (seqHead x.seq).bind (fun e => gangedOf m x g e)))
/-- After it: the operation stands in front of the strand's entries. -/
def startedAt (s : State) (m : Nat × Nat) : Option Ganged :=
  (s.strand m.1 m.2).bind (fun x => x.gang.bind (fun e => gangedOf m (ungang x) e e))
/-- The barrier of a row, and the strand of each of its cores there, lead core first. -/
def rowCore (cl : Nat) (row : Fin 4) (j : Nat) : Nat := cl * 16 + (4 * row.val + j)
def rowBarrier (s : State) (cl : Nat) (row : Fin 4) : Barrier := (s.cluster cl).barriers.getD row.val Barrier.reset
def rowStrand (b : Barrier) (cl : Nat) (row : Fin 4) (j : Nat) : Option (Nat × Nat) :=
  b.waiting.find? (fun m => m.1 == rowCore cl row j)
/-- The four strands of a row that is to open. -/
def gangedRow (s : State) (cl : Nat) (row : Fin 4) : Option (List Ganged) :=
  (List.range 4).mapM (fun j => (rowStrand (rowBarrier s cl row) cl row j).bind (gangedAt s))
/-- The strands whose operation has started. -/
def startedRow (s : State) (cl : Nat) (row : Fin 4) : List Ganged :=
  (List.range 4).filterMap (fun j => (rowStrand (rowBarrier s cl row) cl row j).bind (startedAt s))

/-- An MPLD issued before the GANG has its bank swapped in at the opening (07 R175). -/
def gangSwaps (s : State) (g : Ganged) : Bool := (s.core g.a.core).mpldAt.any (fun t => decide (t < g.gang.num))
def gangBank (s : State) (g : Ganged) : Micro :=
  if gangSwaps s g then (s.core g.a.core).microShadow else (s.core g.a.core).microActive
def gangRows (g : Ganged) : Nat := maskRows g.a.sr g.op.m

/-- Opcode, format, M, modifiers and, for MREC, the microprogram agree, and so do the guards (20 R410). -/
def gangAgree (s : State) (l g : Ganged) : Bool :=
  l.op.kind == g.op.kind && l.op.mf == g.op.mf && l.op.chk.isSome == g.op.chk.isSome && gangRows l == gangRows g &&
  l.a.guard l.op.g == g.a.guard g.op.g && (l.op.kind != 2 || gangBank s l == gangBank s g)
def gangCause (s : State) (l g : Ganged) : Option Code :=
  if g.a.guard g.op.g then
    if entryFails g.a.x g.e then some cShadow
    else matCheck s g.a.core l.a.core l.op.q (gangBank s g) g.op (gangRows g)
  else none

def resetBarrier (s : State) (cl : Nat) (row : Fin 4) : State := setBarrier s cl row.val Barrier.reset

/-- Whether the row's operations may start: in the core's issue order, earlier writes acknowledged, no query tile on rows 0 and 1
(19 R403; 20 R426). -/
def gangReady (s : State) (cl : Nat) (row : Fin 4) (gs : List Ganged) : Bool :=
  !(decide (row.val < 2) && (s.cluster cl).attn.isSome) &&
  gs.all (fun g => inOrder (s.core g.a.core) g.a.k g.num g.e.i && wordReady s g.a g.op)
def gangSound (s : State) (l : Ganged) (gs : List Ganged) : Bool :=
  gs.all (fun g => gangAgree s l g && (gangCause s l g).isNone)
/-- The operations of a row fail: each core's strand takes its own cause, or GANG_MISMATCH. -/
def gangFails (s : State) (cl : Nat) (row : Fin 4) (cause : Ganged → Option Code) (gs : List Ganged) : State :=
  gs.foldl (fun st g => gangFail st g.a.core g.a.k ((cause g).getD cGangMismatch)) (resetBarrier s cl row)

/-- One core of a row that opens: its bank is swapped in, its GANG is done, its operation has started. -/
def gangStart (s : State) (g : Ganged) : State :=
  let swap := gangSwaps s g
  (s.modCore g.a.core (fun co =>
    if swap then { co with microActive := co.microShadow, microShadow := co.microActive, mpldAt := none } else co)).modStrand
      g.a.core g.a.k (fun x => { x with gang := some g.e, seq := seqPop x.seq })
def openRow (s : State) (cl : Nat) (row : Fin 4) (l : Ganged) (all : List Ganged) : State :=
  setBarrier (all.foldl gangStart s) cl row.val
    { rowBarrier s cl row with since := s.now, opened := true, epoch := ((s.core l.a.core).queues.get l.op.q).epoch }

/-- One core's operation on the rows that the lead core's queue delivers. -/
def gangRun (rows : List (List Byte)) (o : Out) (g : Ganged) : Out :=
  match o with
  | .next s =>
    let s1 := s.modStrand g.a.core g.a.k ungang
    if !g.a.guard g.op.g then finishEntry g.a (R.next s1)
    else
      match runMatrix s1 g.a.core g.op (s1.core g.a.core).microActive rows with
      | none => .next (markPark s1 g.a)
      | some s2 => finishEntry g.a (matWord s2 g.a g.op (gangRows g))
  | q => q
/-- The lead core's rows: none while they are not filled. -/
def leadRows (s : State) (l : Ganged) : R (List (List Byte)) :=
  if l.a.guard l.op.g then
    (queuesReady s l.a (rowUses l.op.q l.op.need (gangRows l))).bind (fun _ =>
      (List.range (gangRows l)).mapM (fun j => queueBytes s l.a l.op.q (l.op.need + j) 0 l.op.rowBytes))
  else (idleNeed s l.a l.op.q l.op.need).map (fun _ => [])
/-- What befalls the lead core's queue after the start: it is bound anew (14 R295), or a row fails its check (26 R473). -/
def leadCause (s : State) (b : Barrier) (l : Ganged) : Option Code :=
  if !l.a.guard l.op.g then none
  else if ((s.core l.a.core).queues.get l.op.q).epoch ≠ b.epoch then some cQueueUnconfigured
  else if (rowUses l.op.q l.op.need (gangRows l)).any (useFails s l.a.core l.a.k) then some cShadow
  else none
/-- A started row: its operations take effect together once the lead core's rows are filled; a cause of its queue is the lead
core's own (DESIGN CHOICE, log 47). -/
def gangWork (s : State) (cl : Nat) (row : Fin 4) : Out :=
  match startedRow s cl row with
  | l :: gs =>
    let all := l :: gs
    (match leadCause s (rowBarrier s cl row) l with
      | some c => .next (gangFails s cl row (fun g => if g.a.core = l.a.core then some c else none) all)
      | none =>
        match leadRows s l with
        | .ok rows => all.foldl (gangRun rows) (.next (resetBarrier s cl row))
        | .error (.dead t) => .next t
        | .error _ => .next s)
  | [] => .next s
def execGangOpen (cl : Nat) (row : Fin 4) (s : State) : Out :=
  if (rowBarrier s cl row).opened then gangWork s cl row
  else
    match gangedRow s cl row with
    | some (l :: gs) =>
      if !gangReady s cl row (l :: gs) then .next s
      else if gangSound s l (l :: gs) then .next (openRow s cl row l (l :: gs))
      else .next (gangFails s cl row (gangCause s l) (l :: gs))
    | _ => .next s

/-- The barrier can act: it opens, or its operations have what they wait for. -/
def barrierActs (s : State) (cl : Nat) (row : Fin 4) : Bool :=
  if (rowBarrier s cl row).opened then
    match startedRow s cl row with
    | l :: _ => (leadCause s (rowBarrier s cl row) l).isSome || (match leadRows s l with
        | .error (.again _) => false
        | _ => true)
    | [] => false
  else
    match gangedRow s cl row with
    | some gs => gangReady s cl row gs
    | none => false
/-- The queue watchdog: a barrier that stays closed gives GANG_MISMATCH, and a started operation without its rows
QUEUE_WAIT_TIMEOUT, on every core (19 R385; 20 R428). -/
def execGangBarrierTimeout (cl : Nat) (row : Fin 4) (s : State) : Out :=
  let b := rowBarrier s cl row
  let lim := queueLimit s (cl * 16 + 4 * row.val)
  if b.waiting.isEmpty || lim == 0 || decide (s.now ≤ b.since + lim) || barrierActs s cl row then .next s
  else
    .next (b.waiting.foldl (fun st m => gangFail st m.1 m.2 (if b.opened then cQueueTimeout else cGangMismatch)) (resetBarrier s cl row))

end Sys2Proof.Machine
end

