-- ==== Sys2Proof/Machine/Messages.lean ====
section
/-! DEFINITION. Messages at their targets: invocations, notices, retired marks and registrations (02 R44 to R58, R503; 17
R353, R381), mailbox and active messages (02 R70, R71; 17 R346; 03 R89), task releases (03 R101), contexts and frame
releases (02 R62, R64; 17 R358). -/

namespace Sys2Proof.Machine

/-! ### Shared parts -/

/-- A message at a core. -/
def atCore (i : Nat) (s : State) (act : State → Nat → Flit → Option State) : Out :=
  .next (deliver s i (fun st f => match f.dst with
    | .core c => act st c f
    | _ => none))

/-- The CMD right of a mailbox position for a sender (07 R156; 17 R346). -/
def mayCommand (s : State) (cl pos : Nat) (id : Ident) : Bool :=
  match targetIndex (.mailbox cl pos 0) with
  | some t => (s.rights t id).getLsbD Right.cmd.bit
  | none => false
def mayMessage (s : State) (c : Nat) (id : Ident) : Bool := mayCommand s (clOf c) (c % 16) id

/-- A one-way message that its target refuses: INVOKE_DENIED to the sender's partition (02 R52; 17 R346). -/
def refuseOneWay (s : State) (src : Nat) (part : BitVec 6) (count : State → State) : State :=
  postFault (count s) (pkgOf src) { cause := cInvokeDenied, core := src, part := part, src := 4 }
def deniedAtCore (c : Nat) (s : State) : State := countDelivery s c cInvokeDenied (s.core c).part

/-- A core exists when its package has been formed into the domain, or is the sender's own (17 R346, R358). -/
def coreExists (s : State) (c sender : Nat) : Bool := (s.pkg (pkgOf c)).formed || pkgOf c == pkgOf sender

/-! ### Invocations (02 R48 to R52) -/

def execInvocationArrival (i : Nat) (s : State) : Out :=
  atCore i s (fun st c f => match f.msg with
    | .invocation x => acceptInvocation st c x f.src
    | _ => none)
def execForwardedInvocation (i : Nat) (s : State) : Out :=
  atCore i s (fun st c f => match f.msg with
    | .forwarded x obj => if pibFree (st.core c) = 0 then none else runInvocation st c x obj none
    | _ => none)

/-! ### Notices (02 R44, R58, R503) -/

def execResolutionNotice (i : Nat) (s : State) : Out :=
  atCore i s (fun st c f => match f.msg with
    | .resolution h a dflt => some (applyNotice st c h a dflt)
    | _ => none)
def execBreakNotice (i : Nat) (s : State) : Out :=
  atCore i s (fun st c f => match f.msg with
    | .broken h a dflt => some (applyNotice st c h a dflt)
    | _ => none)
def execRetireNotice (i : Nat) (s : State) : Out :=
  atCore i s (fun st c f => match f.msg with
    | .retire h => some (applyRetire st c h)
    | _ => none)

/-- A retired mark is freed once the remote timeout of the home's partition and 50 µs have passed. -/
def execRetiredMarkExpiry (core n : Nat) (s : State) : Out :=
  match (s.core core).pib[n]? with
  | some (.retired h t) =>
    if t + remoteLimit s (hHome h) + flightLimit < s.now then
      .next (s.modCore core (fun co => { co with pib := co.pib.eraseIdx n }))
    else .next s
  | _ => .next s

/-- An invocation that waits on an answer for which its COMPUTE core holds no entry breaks at the remote timeout. One whose
answer is known, and which waited for an entry of the buffer or of the spill queue, is served, and so is one whose arguments are
all known. -/
def execPendingAnswerTimeout (core n : Nat) (s : State) : Out :=
  match (s.core core).pib[n]? with
  | some (.waiting h x since _) =>
    let st := knownState s core h
    if 2 ≤ st.state.toNat then .next (serveWaiting s core h st)
    else if pibHasRes (s.core core) h || decide (s.now < since + remoteLimit s core) then .next s
    else
      .next (refuseInvocation (s.modCore core (fun co => { co with pib := co.pib.eraseIdx n })) core x cHandleStale core)
  | some (.args x target receiver d [] known) =>
    if spillFull s core then .next s
    else
      .next (startInvocation (s.modCore core (fun co => { co with pib := co.pib.eraseIdx n })) core x target receiver d known)
  | _ => .next s

/-! ### Waiters (02 R53, R56; 18 R381) -/

def retryDelay : Nat := 18000
/-- A retry response, whose registration is sent again after 10 µs. -/
def sendRetry (s : State) (c core : Nat) (h : DWord) : State :=
  let due := s.now + retryDelay
  let s1 := sendUnit s c (.core core) clsRSP (.retryReg h core due)
  { s1 with net := s1.net.map (fun f => if f.msg = .retryReg h core due then { f with sent := due } else f) }

def execWaiterRegistration (i : Nat) (s : State) : Out :=
  atCore i s (fun st c f => match f.msg with
    | .waiterReg h core =>
      let a := registeredState st c h
      if !a.pending then
        some (sendUnit st c (.core core) clsNTC (if a.broken then .broken h a false else .resolution h a false))
      else if pibFree (st.core c) = 0 then some (sendRetry st c core h)
      else some (addPib st c (.waiter h core))
    | _ => none)

/-- The registering core sends its registration again. -/
def execRegistrationRetry (i : Nat) (s : State) : Out :=
  match takeFlit s i with
  | none => .next s
  | some (f, s1) =>
    match f.msg with
    | .retryReg h core due =>
      if s.now < due then .next s
      else if revokedFlit s f then .next (countDest s1 f.dst 0x34 f.who.part)
      else .next (sendUnit s1 core (.core (hCompute h)) clsNTC (.waiterReg h core))
    | _ => .next s

/-! ### HSYNC (17 R353) -/

def execHsyncRequest (i : Nat) (s : State) : Out :=
  atCore i s (fun st c f => match f.msg with
    | .hsync y => some (st.modCore c (fun co => { co with hsyncAcks := co.hsyncAcks ++ [y] }))
    | _ => none)

def Invocation.from (x : Invocation) (h : DWord) (src : Nat) : Bool := x.target == h && x.sender == src
/-- A queued strand that runs a method on the value of `h` for a sender. -/
def Start.serves (q : Start) (h : DWord) (src : Nat) : Bool :=
  q.target == 0 && !q.receiver.isEmpty && decide (leVal (q.receiver.take 8) = h.toNat) && decide (q.s13.toNat = src)
/-- Every invocation of a sender on the answer that preceded the request has been delivered to the owner, has run, or has
broken (02 R51; 17 R353). -/
def syncDone (s : State) (c : Nat) (y : SyncHold) : Bool :=
  let co := s.core c
  let h := y.ans
  let src := y.core
  !co.pib.any (fun e => match e with
    | .waiting _ x _ _ => x.from h src
    | .args x _ _ _ _ _ => x.from h src
    | _ => false) &&
  !s.kept.any (fun q => match q.flit.msg with
    | .invocation x => q.flit.dst == .core c && decide (q.first ≤ y.since) && x.from h src
    | .forwarded x _ => q.flit.src == c && x.from h src
    | _ => false) &&
  !co.routines.any (fun r => r.2.queue.any (fun q => q.serves h src)) &&
  !co.divertedStarts.any (fun d => d.serves h src) &&
  !(liveStrands co).any (fun x => x.2.served == some (h, src))

/-- The acknowledgement for a strand: the COMPUTE core gives it once the condition holds, and it ends that hold. One that no
hold waits for is discarded. -/
def execHsyncAck (core idx : Nat) (s : State) : Out :=
  match s.strand core idx with
  | none => .next s
  | some x =>
    match x.hsync.find? (fun y => (s.core (hCompute y.ans)).hsyncAcks.contains y && syncDone s (hCompute y.ans) y) with
    | none => .next s
    | some y =>
      .next ((s.modCore (hCompute y.ans) (fun co => { co with hsyncAcks := co.hsyncAcks.erase y })).modStrand core idx
        (fun z => { z with hsync := z.hsync.erase y }))

/-- The first held instruction traps, and every hold ends with that trap: it and all later ones issue without waiting. -/
def execHsyncTimeout (core idx : Nat) (s : State) : Out :=
  match s.strand core idx with
  | none => .next s
  | some x =>
    let late := x.hsync.any (fun y => decide (y.since + remoteLimit s core ≤ s.now))
    if late && x.wait.any (fun w => w.kind == .hsync) && (s.core core).halt == .none then
      let give := fun (st : State) (y : SyncHold) =>
        st.modCore (hCompute y.ans) (fun co => { co with hsyncAcks := co.hsyncAcks.filter (· != y) })
      let s1 := (x.hsync.foldl give s).modStrand core idx (fun y => { y with hsync := [] })
      .next (raise s1 core idx .t { code := cRemoteTimeout, eva := 0 } x.pc 0)
    else .next s

/-! ### Mailboxes and active messages (02 R70, R71; 17 R346; 03 R89) -/

def unboundLimit : Nat := 16
/-- A message at a core's mailbox: dispatched to its binding, or parked, or dropped and counted; at a pre-empted or parked core
it is diverted (03 R103). -/
def dispatchAtMailbox (s : State) (c m : Nat) (x : MailMsg) : State :=
  let b := s.mailbox c m
  match b.bind with
  | .slot n => dispatchMail s c n x
  | .pipeline cl n =>
    (match s.launch cl n with
      | some l => s.setLaunch cl n { l with mboxWait := l.mboxWait ++ [x] }
      | none => s)
  | .none =>
    if b.parked.length < unboundLimit then setMailbox s c m { b with parked := b.parked ++ [x] }
    else s.countCore c 0x12 1 (some x.part)
def mailAtCore (s : State) (c m : Nat) (x : MailMsg) : State :=
  match (s.core c).halt with
  | .preempted _ | .parked _ => divert s c (.mail m x)
  | _ => dispatchAtMailbox s c m x

def execMailboxMessage (i : Nat) (s : State) : Out :=
  .next (deliver s i (fun st f => match f.msg with
    | .mailbox pa args s13 =>
      let x : MailMsg := { args := args, s13 := s13, part := f.who.part }
      (match siteOf pa false, f.dst with
        | .mailbox cl pos ofs, .core c =>
          if mayCommand st cl pos f.who then (if spillFull st c then none else some (mailAtCore st c (ofs / 4096) x))
          else some (refuseOneWay st f.src f.who.part (deniedAtCore c))
        | .mailbox cl pos _, .shepherd q =>
          if mayCommand st cl pos f.who then
            some (st.modCluster q (fun y => { y with shepherdMail := y.shepherdMail ++ [x] }))
          else
            some (refuseOneWay st f.src f.who.part (fun t =>
              t.countShepherd q (0x100 + cInvokeDenied.toNat) 1 (some f.who.part)))
        | _, _ => none)
    | _ => none))

def execActiveMessage (i : Nat) (s : State) : Out :=
  atCore i s (fun st c f => match f.msg with
    | .active slot handler args =>
      if mayMessage st c f.who && coreExists st c f.src then
        if spillFull st c then none
        else some (queueStart st c slot
          { Start.plain st.now with
            pc := if handler = 0 then none else some (space0 handler)
            s8 := zext72 (args.getD 0 0), s9 := zext72 (args.getD 1 0), s10 := zext72 (args.getD 2 0)
            s11 := zext72 (args.getD 3 0), s13 := BitVec.ofNat 72 f.src, part := f.who.part })
      else some (refuseOneWay st f.src f.who.part (deniedAtCore c))
    | _ => none)

/-! ### Task releases (03 R101) -/

/-- The continuation of WHEN whose record is released at a core: its answer, and its target, of which the record has no room for
the space. -/
def continuationOf (co : Core) (rec : Nat) : Option (DWord × Word) :=
  co.pib.findSome? (fun e => match e with
    | .cont h task pc _ true => if task = rec then some (h, pc) else none
    | _ => none)
def dropCont (s : State) (c rec : Nat) : State :=
  s.modCore c (fun co => { co with pib := co.pib.filter (fun e => match e with
    | .cont _ task _ _ true => task != rec
    | _ => true) })
def execTaskRelease (i : Nat) (s : State) : Out :=
  atCore i s (fun st c f => match f.msg with
    | .taskRelease rec handler args creator slot level =>
      if spillFull st c then none
      else
        let w := continuationOf (st.core c) rec
        some (queueStart (dropCont st c rec) c slot
          { Start.plain st.now with
            pc := match w with
              | some q => some q.2
              | none => if handler = 0 then none else some (space0 handler)
            s8 := zext72 (args.getD 0 0), s9 := zext72 (args.getD 1 0), s10 := zext72 (args.getD 2 0)
            s11 := zext72 (args.getD 3 0), s13 := BitVec.ofNat 72 creator
            role := if level = 0 then .plain else .task ((taskCluster rec).getD (clOf creator)) level
            taskRec := some rec, waitedFor := (w.map (·.1)).toList, part := f.who.part })
    | _ => none)

/-! ### Contexts and frames (17 R358; 02 R64) -/

/-- The place, among a core's routine queues, of the contexts that wait to resume. -/
def contextQueue : Nat := 32
def queueContext (s : State) (c : Nat) (x : Context) (back : Bool) : State :=
  queueAt s c contextQueue { Start.plain s.now with prio := some x.prio, ctx := some x, part := x.part, back := back }

/-- A context arrives: a ready strand, or back to its source. -/
def execContextMove (i : Nat) (s : State) : Out :=
  atCore i s (fun st c f => match f.msg with
    | .context x =>
      if mayMessage st c f.who && coreExists st c f.src then (if spillFull st c then none else some (queueContext st c x false))
      else some (sendUnit st c (.core f.src) clsMSG (.contextBack x))
    | _ => none)
def execContextReturn (i : Nat) (s : State) : Out :=
  atCore i s (fun st c f => match f.msg with
    | .contextBack x => if spillFull st c then none else some (queueContext st c x true)
    | _ => none)
def execFrameRelease (i : Nat) (s : State) : Out :=
  atCore i s (fun st c f => match f.msg with
    | .frameRelease n => some (st.modCore c (fun co => { co with frames := setBit co.frames n false }))
    | _ => none)

end Sys2Proof.Machine
end

