-- ==== Sys2Proof/Machine/Teardown.lean ====
section
/-! DEFINITION. Stopping a partition: teardown and fencing (22 R446; 26 R479, R480), and what the management agent sends
to the host (28 R490). -/

namespace Sys2Proof.Machine

/-! ### Sends to the host event mailbox (28 R490) -/

def heldLimit : Nat := 256
/-- One send, held while no port is live; beyond 256 held sends the oldest is dropped and counted. -/
def hostSend (s : State) (p tag : Nat) (record : List Byte) : State :=
  let m := leBytes 8 tag ++ record
  s.modPkg p (fun x =>
    if x.uePorts != 0 then { x with hostSends := x.hostSends ++ [m] }
    else
      let held := x.heldSends ++ [m]
      if held.length ≤ heldLimit then { x with heldSends := held }
      else { x with heldSends := held.drop 1, droppedSends := x.droppedSends + 1 })

/-! ### Step 1: stop issue -/

/-- The cores of a partition. -/
def partCores (s : State) (p : Nat) (part : BitVec 6) : List Nat :=
  s.cores.filterMap (fun q => if pkgOf q.1 = p ∧ q.2.assigned ∧ q.2.part = part then some q.1 else none)

/-- Break the answer in s12 of a strand, or of a strand that was to start. -/
def breakFenced (s : State) (c : Nat) (s12 : Word) : State :=
  if hIsAnswer (low64 s12) then sendNotice s c managementIdent (low64 s12) (ansBroken cFenced c) false else s

/-- A strand ends without a handler, or is discarded. -/
def stopStrand (fenced : Bool) (c : Nat) (s : State) (k : Nat) : State :=
  match s.strand c k with
  | none => s
  | some x =>
    if fenced then
      dropContext (breakFenced (countDelivery s c cFenced (s.core c).part) c x.s[12]) c k x true
    else (gangLeave (leaveFolds s c k x.memb) c k).dropStrand c k

/-- A command ends with PARTITION_FENCED, or without a trace. -/
def stopCommand (fenced : Bool) (s : State) (x : Command) : State :=
  if fenced then abandonCommand s x cFenced else freeLocks s x

/-- What waited in a core's buffer for a strand breaks, when the partition is fenced. -/
def stopEntry (c : Nat) (s : State) (e : PibEntry) : State :=
  match e with
  | .waiting _ x _ _ | .args x _ _ _ _ _ =>
    if hIsAnswer x.ans then sendNotice s c managementIdent x.ans (ansBroken cFenced c) false
    else postFault s (pkgOf x.sender) { cause := cFenced, core := x.sender, part := x.part, src := 4 }
  | _ => s

/-- The scanner reads the leaf of the request that it begins to serve. -/
def scanHead (s : State) : List ScanReq → List ScanReq
  | [] => []
  | r :: t => { r with lo := readD s r.leaf } :: t
/-- A core stops selection and discards its strands and commands. -/
def stopCore (fenced : Bool) (s : State) (c : Nat) : State :=
  let co := s.core c
  let s1 := (liveStrands co).foldl (fun st p => stopStrand fenced c st p.1) s
  let s2 := (co.staging ++ co.chains.toList.flatten).foldl (stopCommand fenced) s1
  let starts := co.routines.flatMap (fun r => r.2.queue) ++ co.divertedStarts
  let s3 := if fenced then co.pib.foldl (stopEntry c) (starts.foldl (fun st q => breakFenced st c q.s12) s2) else s2
  let s4 := s3.modCluster (clOf c) (fun x =>
    { x with attn := x.attn.filter (fun t => t.core != c), scans := (let left := x.scans.filter (fun r => r.core != c)
                      if left.head? = x.scans.head? then left else scanHead s3 left),
             barriers := x.barriers.map (fun b => { b with waiting := b.waiting.filter (fun m => m.1 != c) }) })
  s4.modCore c (fun k =>
    { k with
      assigned := fenced, halt := .stopped, spec := none, staging := [], chains := Vector.replicate 4 [], retained := []
      diverted := [], parkAct := 0, residues := [], pib := [], hsyncAcks := []
      routines := k.routines.map (fun r => (r.1, { r.2 with queue := [], waited := 0, raised := false })) })

/-! ### Steps 2 and 3 -/

/-- The partition's rights are cleared in every access table of its package. -/
def revokeRights (s : State) (p : Nat) (part : BitVec 6) : State :=
  s.modPkg p (fun x => { x with access := x.access.filter (fun e => e.1 % 1024 / 16 != part.toNat) })

/-- Teardown up to its release. -/
def stopPartition (s : State) (p : Nat) (part : BitVec 6) (fenced : Bool) : State :=
  let s1 := revokeRights ((partCores s p part).foldl (stopCore fenced) s) p part
  match s1.partCfg p part with
  | none => s1
  | some cfg =>
    s1.modPkg p (fun x =>
      { x with parts := smPut x.parts part.toNat (some { cfg with fenced := fenced, stoppedAt := some s.now }) })

/-- Fencing, once: the fault record with SRC 6 goes to the management agent and from there to the host. -/
def fencePartition (s : State) (p : Nat) (part : BitVec 6) : State :=
  match s.partCfg p part with
  | none => s
  | some cfg =>
    if cfg.stoppedAt.isSome then s
    else
      let r : FaultRec := { cause := cFenced, core := managementCore p, part := part, src := 6 }
      hostSend (stopPartition s p part true) p 3 r.bytes

def releaseDelay : Nat := 90000
/-- Targets release the windows of the partition's sources; its cores release their flits and PSEQ state. -/
def releaseSources (s : State) (p : Nat) (part : BitVec 6) : State :=
  let mine := fun (src : Nat) => pkgOf src == p && (s.core src).part == part
  { s with
    windows := s.windows.filter (fun w => !(w.2.any (fun x => x.part == part) && pkgOf (w.1 / 2 ^ 40 / 4) == p))
    kept := s.kept.filter (fun k => !(k.flit.who.part == part && pkgOf k.flit.src == p))
    psent := s.psent.filter (fun e => !mine (e.1 / 1024 / 4))
    pdone := s.pdone.filter (fun e => !mine (e.1 / 1024 / 4)) }

end Sys2Proof.Machine
end

