-- ==== Sys2Proof/Machine/Board.lean ====
section
/-! DEFINITION. Events of the board: host accesses over Ultra Ethernet (28 R485 to R490), the management agent's requests,
partition configuration, removal and release (28 R491 to R493; 22 R446), boot and quotes (28 R494 to R496), power, heat and
connectors (28 R497 to R500). -/

namespace Sys2Proof.Machine

/-! ### Ultra Ethernet (R485 to R490) -/

def ueReply (s : State) (p : Nat) (m : List Byte) : State := s.modPkg p (fun x => { x with ueReplies := x.ueReplies ++ [m] })
def ueError (s : State) (p : Nat) : State := ueReply s p [0]
def ueData (s : State) (p : Nat) (b : List Byte) : State := ueReply s p (1 :: b)
def ueDone (s : State) (p : Nat) : State := ueReply s p [2]

/-- The partition of a job: job 0 is partition 63 (R491), the others as the job table says (R488). -/
def jobPart (s : State) (p : Nat) (job : BitVec 24) : Option (BitVec 6) :=
  if job = 0 then some 63
  else (s.pkg p).jobs.findSome? (fun e => match e.2 with
    | some (j, part) => if j = job then some part else none
    | none => none)
def hostWho (p : Nat) (part : BitVec 6) : Requester := { pkg := p, id := { part := part, cls := 8 }, sup := false }
def liveUe (s : State) (p : Nat) (port : Fin 4) : Bool := bit (s.pkg p).uePorts port.val
/-- An unknown job is refused and counted. -/
def unknownJob (s : State) (p : Nat) : State := ueError (s.countPort p 0 0x10 1 none) p

def execUetRmaWrite (pkg : Nat) (job : BitVec 24) (va : Word) (bytes : List Byte) (s : State) : Out :=
  if (s.pkg pkg).uePorts = 0 then .next s
  else
    match jobPart s pkg job with
    | none => .next (unknownJob s pkg)
    | some part =>
      if spaceOf va = 0xC0 then .next (ueError s pkg)
      else
        let q := engCheck s (hostWho pkg part) va bytes
        match q.2 with
        | some _ => .next (ueError q.1 pkg)
        | none => .next (ueDone (engWrite q.1 (hostWho pkg part) va bytes) pkg)
def execUetRmaRead (pkg : Nat) (job : BitVec 24) (va : Word) (len : Nat) (s : State) : Out :=
  if (s.pkg pkg).uePorts = 0 then .next s
  else
    match jobPart s pkg job with
    | none => .next (unknownJob s pkg)
    | some part =>
      if spaceOf va = 0xC0 then .next (ueError s pkg)
      else
        let q := engRead s (hostWho pkg part) va len
        match q.2 with
        | .error _ => .next (ueError q.1 pkg)
        | .ok b => .next (ueData q.1 pkg b)

/-- The endpoint whose address and job are the sender's, or 0xFF. -/
def endpointOf (s : State) (p : Nat) (ip : BitVec 128) (job : BitVec 24) : Nat :=
  (((s.pkg p).endpoints.find? (fun e => e.2.any (fun x => x.ip == ip && x.job == job))).map (·.1)).getD 0xFF
/-- Words 0 to 3 of a payload of up to 32 bytes, missing bytes zero. -/
def payloadWords (b : List Byte) : List DWord := (List.range 4).map (fun i => BitVec.ofNat 64 (leVal ((b.drop (8 * i)).take 8)))
/-- A host send at a mailbox (R489): a drop, and every refusal, returns an error. -/
def execUetMailboxSend (pkg : Nat) (port : Fin 4) (job : BitVec 24) (ip : BitVec 128) (va : Word) (bytes : List Byte)
    (s : State) : Out :=
  if !liveUe s pkg port then .next s
  else
    match jobPart s pkg job with
    | none => .next (unknownJob s pkg)
    | some part =>
      match s.walk pkg part va with
      | .absent _ => .next (ueError s pkg)
      | .denied pa => .next (ueError (s.countDenial pa part) pkg)
      | .leaf l =>
        let pa := l.pa va
        if 32 < bytes.length ∨ spaceOf va = 0xC0 ∨ !(l.w && !l.x && l.u && l.fmtOk) then .next (ueError s pkg)
        else
          match siteOf pa l.geom2 with
          | .mailbox cl pos ofs =>
            let id : Ident := { part := part, cls := 8 }
            let m : MailMsg :=
              { args := payloadWords bytes
                s13 := BitVec.ofNat 72 (2 ^ 63 + port.val * 256 + endpointOf s pkg ip job), part := part }
            if cl / 256 ≠ pkg then .next (ueError s pkg)
            else if !mayCommand s cl pos id then .next (ueError (s.countDenial pa part) pkg)
            else if pos < 16 then
              let c := cl * 16 + pos
              let b := s.mailbox c (ofs / 4096)
              if spillFull s c then .next s
              else
                let s1 := mailAtCore s c (ofs / 4096) m
                let dropped := b.bind == .none && decide (unboundLimit ≤ b.parked.length) && (s.core c).diverted.length == (s1.core c).diverted.length
                if dropped then .next (ueError s1 pkg) else .next (ueDone s1 pkg)
            else .next (ueDone (s.modCluster cl (fun y => { y with shepherdMail := y.shepherdMail ++ [m] })) pkg)
          | _ => .next (ueError s pkg)

/-- With no live port, sends are held; the first port that comes up takes them in posting order (R490). -/
def execUltraEthernetPortDown (pkg : Nat) (port : Fin 4) (s : State) : Out :=
  .next (s.modPkg pkg (fun x => { x with uePorts := setBit x.uePorts port.val false }))
def execUltraEthernetPortUp (pkg : Nat) (port : Fin 4) (s : State) : Out :=
  .next (s.modPkg pkg (fun x =>
    { x with uePorts := setBit x.uePorts port.val true, hostSends := x.hostSends ++ x.heldSends, heldSends := [] }))
/-- A peer that asks for anything other than Table 28.1 is refused. -/
def offerOk (o : UetOffer) : Bool :=
  o.aiFull && o.reliable && o.semanticOk && o.congestionOk && o.linkLayerOk && o.security && decide (o.payload ≤ 4096)
def execUetConnectionSetup (pkg : Nat) (port : Fin 4) (offer : UetOffer) (s : State) : Out :=
  if !liveUe s pkg port then .next s
  else if offerOk offer then .next (s.modPkg pkg (fun x => { x with connections := x.connections ++ [(port.val, offer)] }))
  else .next (ueError s pkg)

/-! ### Results of requests (R491) -/

/-- The management core serves requests once it has booted, and while no configuration waits for a teardown. -/
def serves (s : State) (p : Nat) : Bool := (s.pkg p).booted && !(s.pkg p).inReset && (s.pkg p).pendingCfg.isNone
def postResult (s : State) (p status : Nat) (part : BitVec 6) (pm : List Byte) : State :=
  hostSend s p 4 (leBytes 8 (status + part.toNat * 2 ^ 8) ++ (pm ++ List.replicate 8 0).take 8)
def execMgmtUnknownRequest (pkg : Nat) (code : BitVec 64) (s : State) : Out :=
  if serves s pkg && !(decide (1 ≤ code.toNat) && decide (code.toNat ≤ 4)) then .next (postResult s pkg 4 0 []) else .next s

/-! ### Configuration records (R492, R493) -/

/-- The doubleword of a record at a byte offset. -/
def cfgWord (b : List Byte) (ofs : Nat) : DWord := BitVec.ofNat 64 (leVal ((b.drop ofs).take 8))
def cfgPart (b : List Byte) : BitVec 6 := BitVec.ofNat 6 (bits (cfgWord b 0) 16 6)
def cfgClusters (b : List Byte) : List Nat :=
  (List.range 4).flatMap (fun d => ((List.range 64).filter (bit (cfgWord b (0x10 + 8 * d)))).map (fun c => d * 64 + c))
def cfgSigner (b : List Byte) : List Byte := b.drop 0x1C0
def cfgTimeout (w : DWord) (dflt : Nat) : Nat := if w = BitVec.allOnes 64 then dflt else w.toNat

/-- The configuration that a body gives. HBMHI is one past the range (DEDUCED: HBMLO lies below it). -/
def cfgOf (b : List Byte) : PartCfg :=
  { clu := #v[cfgWord b 0x10, cfgWord b 0x18, cfgWord b 0x20, cfgWord b 0x28], hbmlo := (cfgWord b 0x30).toNat
    hbmhi := (cfgWord b 0x38).toNat, shared := cfgWord b 0x40, tvbase := cfgWord b 0x50, fqbase := cfgWord b 0x58
    fqcap := bits (cfgWord b 0x60) 0 32, fqall := bit (cfgWord b 0x60) 32, fqmbox := cfgWord b 0x68, ctbase := cfgWord b 0x70
    dirbase := cfgWord b 0x78, dircap := bits (cfgWord b 0x80) 0 29, scales := [], savebase := cfgWord b 0x90
    savesize := cfgWord b 0x98, fctl := cfgWord b 0xA0, remto := (cfgWord b 0xA8).toNat, pagewait := (cfgWord b 0xB0).toNat
    qwd := cfgTimeout (cfgWord b 0xB8) Config.queueWatchdog, swd := cfgTimeout (cfgWord b 0xC0) Config.strandWatchdog
    foldto := (cfgWord b 0xC8).toNat, stkbase := cfgWord b 0xD0, stklog2 := bits (cfgWord b 0xD8) 0 5
    pm := shake256 b 64, fenced := false, stoppedAt := none, released := false }

def isPow2 (n : Nat) : Bool := (List.range 64).any (fun i => n == 2 ^ i)
/-- A physical address within a package's HBM, its end included when `last`. -/
def inHbm (p pa : Nat) (last : Bool) : Bool :=
  pa / 2 ^ 50 == p && (decide (pa % 2 ^ 50 < 0xA000000000) || (last && pa % 2 ^ 50 == 0xA000000000))
/-- Check 3: reserved bytes zero, VERSION 1, every field within its limits. -/
def cfgWellFormed (p : Nat) (b : List Byte) : Bool :=
  let w := cfgWord b
  let log2 := bits (w 0xD8) 0 5
  b.length == 512 && bits (w 0) 0 16 == 1 && bits (w 0) 22 42 == 0 && decide ((cfgPart b).toNat ≤ 47) && bits (w 8) 32 32 == 0 &&
  (let n := bits (w 0x60) 0 32
   isPow2 n && decide (64 ≤ n) && decide (n ≤ 65536)) &&
  bits (w 0x60) 33 31 == 0 && (w 0x58).toNat % 64 == 0 &&
  decide (bits (w 0x80) 0 29 ≤ 2 ^ 28) && bits (w 0x80) 29 35 == 0 && (w 0x78).toNat % 32 == 0 &&
  (w 0x50).toNat % 8 == 0 && (w 0x88).toNat % 8 == 0 && (w 0x70).toNat % 16 == 0 && (w 0x90).toNat % 2048 == 0 &&
  decide (12 ≤ log2) && decide (log2 ≤ 20) && bits (w 0xD8) 5 59 == 0 && (w 0xD0).toNat % 2 ^ log2 == 0 &&
  decide ((w 0x30).toNat < (w 0x38).toNat) && (w 0x30).toNat % 65536 == 0 && (w 0x38).toNat % 65536 == 0 &&
  inHbm p (w 0x30).toNat false && inHbm p (w 0x38).toNat true && (w 0x48).toNat % 4096 == 0 && bits (w 0xA0) 10 54 == 0 &&
  ((b.drop 0xE0).take 0xE0).all (· == 0)
/-- Check 4: the clusters and the range are held by no other configured partition. -/
def cfgFree (s : State) (p : Nat) (b : List Byte) : Bool :=
  let c := cfgOf b
  (s.pkg p).parts.all (fun e => match e.2 with
    | some y =>
      e.1 == (cfgPart b).toNat ||
      ((c.clu.zipWith (fun x z => x &&& z) y.clu).toList.all (· == 0) && (decide (c.hbmhi ≤ y.hbmlo) || decide (y.hbmhi ≤ c.hbmlo)))
    | none => true)
/-- The STATUS of a record: its first failing check, or 0. -/
def cfgStatus (s : State) (p : Nat) (body sig : List Byte) : Nat :=
  let x := s.pkg p
  if !(x.keyHashes.any (fun h => h == shake256 (cfgSigner body) h.length) && Config.verify256s (cfgSigner body) body sig) then 1
  else if bits (cfgWord body 8) 0 32 < (smGet 0 x.minima (cfgPart body).toNat).toNat then 2
  else if !cfgWellFormed p body then 4
  else if !cfgFree s p body then 3
  else 0

/-- Step 6: a range of memory is written with zeros, which also clears its poison markers. -/
def zeroRange (s : State) (lo hi : Nat) : State :=
  { s with
    mem := s.mem.filter (fun e => !(decide (lo ≤ e.1) && decide (e.1 < hi)))
    poison := s.poison.filter (fun e => !(decide (lo ≤ e.1) && decide (e.1 < hi))) }
/-- Step 7: the rights of a partition (log 13): every class of master at its shares, mailboxes, engines and cluster blocks, and
at the channels of the stacks that its range meets. -/
def cfgTargets (p : Nat) (cls : List Nat) (lo hi : Nat) : List Nat :=
  let stack := 80 * 2 ^ 30
  let s0 := lo % 2 ^ 50 / stack
  let s1 := (hi % 2 ^ 50 - 1) / stack
  (List.range 256).filterMap (fun t => if s0 ≤ t / 32 ∧ t / 32 ≤ s1 then some t else none) ++
  cls.flatMap (fun c =>
    (List.range 16).map (fun i => 256 + c * 16 + i) ++ (List.range 17).map (fun i => 4352 + c * 32 + i) ++
    [12544 + c] ++ (List.range 4).map (fun e => (engineTarget (p * 256 + c) e).2))
def setRights (s : State) (p : Nat) (part : BitVec 6) (targets : List Nat) : State :=
  s.modPkg p (fun x =>
    { x with access := targets.foldl (fun m t =>
        (List.range 11).foldl (fun m1 k => smPut m1 (t * 1024 + part.toNat * 16 + k) 0xF) m) x.access })
/-- Entries 0x00 to 0x7F from ROOTIMG; granted shared spaces and host windows as the management partition has them (log 33). -/
def setRoot (s : State) (p : Nat) (part : BitVec 6) (img : Nat) (shared : DWord) : State :=
  let s1 := writeBytes s (rootPa p part) (readBytes s img 2048)
  let entry := fun (st : State) (i : Nat) =>
    let from_ := rootPa p 63 + 16 * i
    let ok := (decide (0x80 ≤ i) && decide (i < 0xC0) && bit shared (i - 0x80)) || i == 0xC0
    writeBytes st (rootPa p part + 16 * i) (if ok then readBytes st from_ 16 else List.replicate 16 0)
  ((List.range 128).map (· + 128)).foldl entry s1
/-- The 128 scale bases, read through the new root table; one that cannot be read is zero (log 33). -/
def readScales (s : State) (p : Nat) (part : BitVec 6) (tab : DWord) : List DWord :=
  (List.range 128).map (fun i => match devRead s p part (space0 tab + BitVec.ofNat 72 (8 * i)) with
    | .ok w => w
    | .error _ => 0)
/-! The tables of host windows, endpoints and jobs, which only the management agent writes (R486, R488). The manual does not say
when, nor what they then hold: each configuration sets them, to free values (DESIGN CHOICE, log 34). -/

/-- A window table entry (28 Table 28.2). -/
def hostWindowOf (w : BitVec 256) : Option HostWindow :=
  if w.getLsbD 63 then
    some
      { valid := true, writes := w.getLsbD 62, part := w.extractLsb' 56 6, endpt := w.extractLsb' 48 8, pages := w.extractLsb' 0 32
        hbase := w.extractLsb' 64 64, rkey := w.extractLsb' 128 64 }
  else none
def endpointEntry (w : BitVec 256) : Option Endpoint := some { ip := w.extractLsb' 0 128, job := w.extractLsb' 128 24 }
def jobEntry (w : BitVec 256) : Option (BitVec 24 × BitVec 6) :=
  if w.getLsbD 63 then some (w.extractLsb' 0 24, w.extractLsb' 24 6) else none
/-- A table of `n` entries from entry `base` of the free words. -/
def hostTable {β : Type} (tick base n : Nat) (f : BitVec 256 → Option β) : SMap (Option β) :=
  (List.range n).filterMap (fun i => (f (Config.hostTable tick (base + i))).map (fun x => (i, some x)))
def setHostTables (s : State) (p : Nat) : State :=
  s.modPkg p (fun x =>
    { x with
      windows := hostTable s.tick 0 4096 hostWindowOf, endpoints := hostTable s.tick 4096 256 endpointEntry
      jobs := hostTable s.tick 4352 256 jobEntry })

/-- A core as a configuration leaves it: no strand; its event counters and LSEQ go on. -/
def freshCore (part : BitVec 6) (fctl : DWord) (stopped : Bool) (co : Core) : Core :=
  { Core.reset with
    part := part, assigned := true, fctl := fctl, lseq := co.lseq, counters := co.counters
    halt := if stopped then .stopped else .none }
def freshCluster (now : Nat) (x : Cluster) : Cluster :=
  { Cluster.reset with counters := x.counters, nogate := x.nogate, gated := x.gated, idleSince := now, wakeDue := x.wakeDue }

/-- Steps 6 to 9. -/
def applyConfig (s : State) (p : Nat) (b : List Byte) : State :=
  let c := cfgOf b
  let part := cfgPart b
  let cls := cfgClusters b
  let s1 := cls.foldl (fun st k => (List.range 16).foldl (fun su i =>
    let n := (p * 256 + k) * 16 + i
    zeroRange su (sharePa n 0) (sharePa n 0 + 2 ^ 20)) st) s
  let s2 := zeroRange s1 c.hbmlo c.hbmhi
  let s3 := setRoot (setRights s2 p part (cfgTargets p cls c.hbmlo c.hbmhi)) p part (cfgWord b 0x48).toNat c.shared
  let s4 := cls.foldl (fun st k => (List.range 16).foldl (fun su i =>
    let n := (p * 256 + k) * 16 + i
    su.modCore n (freshCore part c.fctl (su.die (dieOf n)).stopped)) (st.modCluster (p * 256 + k) (freshCluster s.now))) s3
  let cfg : PartCfg := { c with scales := readScales s4 p part (cfgWord b 0x88) }
  let s5 := s4.modPkg p (fun x =>
    { x with parts := smPut x.parts part.toNat (some cfg), minima := smPut x.minima part.toNat (BitVec.ofNat 32 (bits (cfgWord b 8) 0 32)) })
  postResult (setHostTables s5 p) p 0 part c.pm

def erasePart (s : State) (p : Nat) (part : BitVec 6) : State :=
  s.modPkg p (fun x => { x with parts := smErase x.parts part.toNat })

/-- MGMT_APPLY_CONFIG: a partition that is configured is torn down first, and the record waits for its release. -/
def execMgmtApplyConfig (pkg : Nat) (body signature : List Byte) (s : State) : Out :=
  if !serves s pkg then .next s
  else
    let part := cfgPart body
    let st := cfgStatus s pkg body signature
    if st ≠ 0 then .next (postResult s pkg st part [])
    else
      match s.partCfg pkg part with
      | none => .next (applyConfig s pkg body)
      | some y =>
        if y.released then .next (applyConfig (erasePart s pkg part) pkg body)
        else
          let s1 := s.modPkg pkg (fun x => { x with pendingCfg := some body })
          .next (if y.stoppedAt.isSome then s1 else stopPartition s1 pkg part false)

/-- MGMT_REMOVE_PARTITION: the result of a teardown follows its release. -/
def execMgmtRemovePartition (pkg : Nat) (part : BitVec 6) (s : State) : Out :=
  if !serves s pkg then .next s
  else
    match s.partCfg pkg part with
    | none => .next (postResult s pkg 0 part [])
    | some y =>
      if y.released then .next (postResult (erasePart s pkg part) pkg 0 part [])
      else if y.stoppedAt.isSome then
        .next (s.modPkg pkg (fun x => { x with parts := smPut x.parts part.toNat (some { y with fenced := false }) }))
      else .next (stopPartition s pkg part false)

/-- The cores of a partition that is released belong to none. -/
def freeCores (s : State) (p : Nat) (part : BitVec 6) : State :=
  (partCores s p part).foldl (fun st c => st.modCore c (fun co => { co with assigned := false })) s

/-- TEARDOWN_RELEASE (22 R446): a fenced partition stays fenced; any other is gone, and what asked for its teardown goes on. -/
def execTeardownRelease (pkg : Nat) (part : BitVec 6) (s : State) : Out :=
  match s.partCfg pkg part with
  | none => .next s
  | some y =>
    match y.stoppedAt with
    | none => .next s
    | some t =>
      if y.released || decide (s.now < t + releaseDelay) then .next s
      else
        let s1 := releaseSources s pkg part
        let pending := match (s.pkg pkg).pendingCfg with
          | some b => if cfgPart b = part then some b else none
          | none => none
        match pending with
        | some b =>
          let s2 := erasePart (freeCores s1 pkg part) pkg part
          .next (applyConfig (s2.modPkg pkg (fun x => { x with pendingCfg := none })) pkg b)
        | none =>
          if y.fenced then
            .next (s1.modPkg pkg (fun x => { x with parts := smPut x.parts part.toNat (some { y with released := true }) }))
          else .next (postResult (erasePart (freeCores s1 pkg part) pkg part) pkg 0 part [])

/-- PARTITION_FENCE (26 R479, R480). -/
def execPartitionFence (pkg : Nat) (part : BitVec 6) (s : State) : Out := .next (fencePartition s pkg part)

/-! ### Boot and quotes (R494 to R496) -/

/-- An image that the boot ROM or a booted stage accepts. -/
def imageOk (x : Package) (im : BootImage) : Bool :=
  shake256 im.key x.bootHash.length == x.bootHash && Config.verify256s im.key im.bytes im.signature &&
    decide (x.fused.toNat ≤ im.secver)
/-- BM := SHAKE256(BM || SHAKE256(s)). -/
def extendBm (bm stage : List Byte) : List Byte := shake256 (bm ++ shake256 stage 64) 64
/-- The fused counter advances, where the image asks for it, to the image's security version (DESIGN CHOICE, log 34). -/
def acceptImage (x : Package) (im : BootImage) : Package :=
  { x with
    bm := extendBm x.bm im.bytes, booted := true
    fused := if im.advances then BitVec.ofNat 32 im.secver else x.fused }

/-- What a reset of a package leaves: its cores, clusters and dies as at reset, its memory as nothing has written it, nothing of
its traffic; what flash, fuses and the domain hold stays (log 34). -/
def resetPackage (s : State) (p : Nat) : State :=
  let x := s.pkg p
  let far := fun (f : Flit) => pkgOf f.src != p && f.dst.pkg != p
  let y : Package :=
    { Package.reset with
      formed := x.formed, minima := x.minima, uePorts := x.uePorts, fused := x.fused, boots := x.boots, inReset := x.inReset
      keyHashes := x.keyHashes, bootHash := x.bootHash, connectors := x.connectors, lasers := x.lasers, hostSends := x.hostSends
      heldSends := x.heldSends, droppedSends := x.droppedSends }
  { s with
    mem := s.mem.filter (fun e => e.1 / 2 ^ 50 != p), poison := s.poison.filter (fun e => e.1 / 2 ^ 50 != p)
    cores := s.cores.filter (fun e => pkgOf e.1 != p), clusters := s.clusters.filter (fun e => e.1 / 256 != p)
    dies := s.dies.filter (fun e => e.1 / 4 != p), packages := smPut s.packages p y, net := s.net.filter far
    kept := s.kept.filter (fun k => far k.flit)
    windows := s.windows.filter (fun w => w.1 / 2 ^ 40 / 4 / 4096 != p && w.1 % 2 ^ 40 / 4 / 65536 != p) }

/-- RESET_BOOT: bank 0, then bank 1; with neither, the compute dies stay in reset. -/
def execResetBoot (pkg : Nat) (bank0 bank1 : BootImage) (s : State) : Out :=
  if (s.pkg pkg).inReset then .next s
  else
    let s1 := (resetPackage s pkg).modPkg pkg (fun x => { x with boots := x.boots + 1 })
    let x := s1.pkg pkg
    if imageOk x bank0 then .next (s1.setPkg pkg (acceptImage x bank0))
    else if imageOk x bank1 then .next (s1.setPkg pkg (acceptImage x bank1))
    else .next s1
/-- SIGNED_IMAGE_VIA_ULTRA_ETHERNET: taken once both banks have failed, through port 0. -/
def execSignedImageViaUltraEthernet (pkg : Nat) (image : BootImage) (s : State) : Out :=
  let x := s.pkg pkg
  if x.booted || x.inReset || x.boots == 0 || !liveUe s pkg 0 || !imageOk x image then .next s
  else .next (s.setPkg pkg (acceptImage x image))

def ascii (t : String) : List Byte := t.toList.map (fun c => BitVec.ofNat 8 c.toNat)
/-- The 96 bytes of the attestation key (R495). -/
def attestationKey (p : Nat) (bm : List Byte) : List Byte := shake256 (Config.identitySeed p ++ bm ++ ascii "ATK") 96
/-- A quote body (R496). -/
def quoteBody (s : State) (p : Nat) (nonce : List Byte) (part : BitVec 6) : List Byte :=
  let x := s.pkg p
  let pm := match s.partCfg p part with
    | some c => c.pm
    | none => List.replicate 64 0
  (nonce ++ leBytes 8 (p % 1024) ++ x.bm ++ pm ++ leBytes 4 x.fused.toNat ++ leBytes 4 (smGet 0 x.minima part.toNat).toNat ++
    leBytes 8 s.now ++ List.replicate 256 0).take 256
def execMgmtAttestationQuote (pkg : Nat) (nonce : List Byte) (part : BitVec 6) (s : State) : Out :=
  if !serves s pkg || nonce.length != 32 then .next s
  else
    let b := quoteBody s pkg nonce part
    .next (hostSend s pkg 5 (b ++ Config.sign256f (attestationKey pkg (s.pkg pkg).bm) b))

/-! ### Power (R497, R498) -/

/-- The words of the conversion stages. -/
def execPowerTelemetryRefresh (pkg : Nat) (words : List (BitVec 32)) (s : State) : Out :=
  if words.length = 42 then
    .next (s.modPkg pkg (fun x => { x with telemetry := Vector.ofFn (fun (i : Fin 42) => words.getD i.val 0) }))
  else .next s

/-- A degradation record (R500, Table 28.6). -/
def degradation (p conn : Nat) (c : Connector) (now : Nat) : List Byte :=
  leBytes 8 (b2n c.degraded * 2 ^ 60 + p % 1024 * 2 ^ 50 + conn % 64 * 2 ^ 44 + c.wmask.toNat * 2 ^ 28) ++ leBytes 8 c.value ++
  leBytes 8 (c.baseline.getD 0) ++ leBytes 8 now
def Connector.fresh : Connector := { degraded := false, baseline := none, value := 0, wmask := 0, postedAt := 0 }
def State.connector (s : State) (p conn : Nat) : Connector := (smGet none (s.pkg p).connectors conn).getD Connector.fresh
def State.setConnector (s : State) (p conn : Nat) (c : Connector) : State :=
  s.modPkg p (fun x => { x with connectors := smPut x.connectors conn (some c) })
def postDegradation (s : State) (p conn : Nat) (c : Connector) : State :=
  hostSend (s.setConnector p conn { c with postedAt := s.now }) p 2 (degradation p conn c s.now)

def busBad (millivolts : Nat) : Bool := decide (millivolts < 720000) || decide (880000 < millivolts)
/-- BUS_VOLTAGE_FAULT: the package is held in reset, and connector 24 is reported. -/
def execBusVoltageFault (pkg millivolts : Nat) (s : State) : Out :=
  if !busBad millivolts || (s.pkg pkg).inReset then .next s
  else
    let s1 := (resetPackage s pkg).modPkg pkg (fun x => { x with inReset := true })
    .next (postDegradation s1 pkg 24 { s1.connector pkg 24 with degraded := true })
def execBusVoltageRecovery (pkg millivolts : Nat) (s : State) : Out :=
  if busBad millivolts then .next s else .next (s.modPkg pkg (fun x => { x with inReset := false }))

def dieNo (p : Nat) (d : Fin 4) : Nat := p * 4 + d.val
/-- The cap of a die before any scaling: min(700 W, the host's, the boiling limit). Withholding issue changes no result. -/
def dieCap (x : Die) : Nat := min 700 (min x.hostCap x.boil)
def execMgmtSetPowerCap (pkg : Nat) (die : Fin 4) (watts : BitVec 16) (s : State) : Out :=
  if !serves s pkg then .next s
  else .next (postResult (s.modDie (dieNo pkg die) (fun x => { x with hostCap := watts.toNat })) pkg 0 0 [])
def oneSecond : Nat := 1800000000
def execBoilingLimitRenewal (pkg : Nat) (die : Fin 4) (watts : Nat) (s : State) : Out :=
  .next (s.modDie (dieNo pkg die) (fun x => { x with boil := watts, boilAt := s.now, boilLapsed := false }))
def execBoilingLimitLapse (pkg : Nat) (die : Fin 4) (s : State) : Out :=
  let x := s.die (dieNo pkg die)
  if !x.boilLapsed && decide (x.boilAt + oneSecond < s.now) then
    .next (s.setDie (dieNo pkg die) { x with boil := 400, boilLapsed := true })
  else .next s

/-! ### Heat (R499) -/

/-- Throttling is timing alone (log 2). -/
def execThermalThrottle (pkg : Nat) (die : Fin 4) (centi : Nat) (s : State) : Out :=
  if 10500 < centi then .next (s.modDie (dieNo pkg die) (fun x => { x with hot := true })) else .next s
def execThermalThrottleEnd (pkg : Nat) (die : Fin 4) (centi : Nat) (s : State) : Out :=
  if centi < 10500 then .next (s.modDie (dieNo pkg die) (fun x => { x with hot := false })) else .next s
/-- The partitions with a cluster on a die. -/
def diePartitions (s : State) (p : Nat) (d : Fin 4) : List (BitVec 6) :=
  (s.pkg p).parts.filterMap (fun e => match e.2 with
    | some c => if c.clu.get d != 0 then some (BitVec.ofNat 6 e.1) else none
    | none => none)
def execThermalStop (pkg : Nat) (die : Fin 4) (centi : Nat) (s : State) : Out :=
  if centi < 11500 ∨ (s.die (dieNo pkg die)).stopped then .next s
  else
    let s1 := s.modDie (dieNo pkg die) (fun x => { x with stopped := true })
    .next ((diePartitions s pkg die).foldl (fun st part => fencePartition st pkg part) s1)

/-! ### Connectors (R500) -/

def opticalConn (conn : Nat) : Bool := decide (conn < 22)
def connExists (conn : Nat) : Bool := decide (conn < 22) || (decide (24 ≤ conn) && decide (conn < 30))
/-- Degraded: a margin below 3 dB, or a resistance above 1.5 × the baseline. -/
def connBad (conn value baseline : Nat) : Bool :=
  if opticalConn conn then decide (value < 300) else decide (3 * baseline < 2 * value)
def execConnectorCheck (pkg conn value baseline : Nat) (wmask : BitVec 16) (s : State) : Out :=
  if !connExists conn then .next s
  else
    let c := s.connector pkg conn
    let base := c.baseline.getD baseline
    let bad := connBad conn value base
    let c1 : Connector :=
      { c with
        degraded := bad, baseline := some base, value := value, wmask := if opticalConn conn then wmask else 0 }
    .next (if bad = c.degraded then s.setConnector pkg conn c1 else postDegradation s pkg conn c1)
def execDegradationReport (pkg conn : Nat) (s : State) : Out :=
  let c := s.connector pkg conn
  if c.degraded && decide (c.postedAt + 60 * oneSecond ≤ s.now) then .next (postDegradation s pkg conn c) else .next s

end Sys2Proof.Machine
end

