-- ==== Sys2Proof/Machine/FoldEvents.lean ====
section
/-! DEFINITION. Events of folds: contributions, joins and leaves at the root, outcomes at the members, ejection and timeout
(02 R80 to R82; 15 R335; 17 R370 to R374; 22 R444; 23 R450). -/

namespace Sys2Proof.Machine

/-- Deliver a flit whose effect may stop the step. -/
def deliverOut (s : State) (i : Nat) (act : State → Flit → Option Out) : Out :=
  match takeFlit s i with
  | none => .next s
  | some (f, s1) =>
    if revokedFlit s f then .next (countDest (release (noteDelivery s1 f) f) f.dst 0x34 f.who.part)
    else
      match filterFlit s1 f with
      | .execute s2 =>
        (match act (noteDelivery s2 f) f with
          | some (.next s3) => .next (release (markDone s3 f 0) f)
          | some q => q
          | none => .next s)
      | .again _ => .next (release (noteDelivery s1 f) f)
      | .discard s2 => .next (noteDelivery s2 f)
      | .retry => .next (send (countDest s1 f.dst 0x35 f.who.part) f.src f.who (.core f.src) clsRSP (.retry f.dst.key f.seq.toNat))

/-! ### At the root -/

/-- The rounds and reductions of a fold whose value is not yet formed: their members, and those that have contributed. -/
def inProgress (fo : Fold) : List (List (Nat × Nat) × List (Nat × Nat)) :=
  (fo.rounds.filter (fun r => !r.sent)).map (fun r => (r.members, r.got.map (fun g => (g.core, g.strand)))) ++
  (fo.cred.filter (fun r => !r.sent)).map (fun r => (r.members, r.got.map (fun g => (g.core, g.strand))))
/-- A combining point whose children are the units of the members below it holds an entry from the first child's combined
contribution to the last's (22 R444). A point with one child forwards what comes. -/
def combining (unit : Nat → Nat) (ms gs : List (Nat × Nat)) : Bool :=
  let done := fun (u : Nat) => ms.all (fun m => unit m.1 != u || gs.contains m)
  let us := (ms.map (fun m => unit m.1)).eraseDups
  decide (1 < us.length) && us.any done && !us.all done
/-- The entries in use at a die's root and at the package's: one for each round, and one for the unit of a reduction that is under
way, since its units pass one after the other (22 R445; log 46). -/
def dieEntries (s : State) (p d : Nat) : Nat :=
  ((List.finRange 16).flatMap (fun f => inProgress (s.fold p f))).countP (fun r =>
    combining clOf (r.1.filter (fun m => dieOf m.1 == p * 4 + d)) r.2)
def pkgEntries (s : State) (p : Nat) : Nat :=
  ((List.finRange 16).flatMap (fun f => inProgress (s.fold p f))).countP (fun r => combining dieOf r.1 r.2)
/-- Each die root and the package root hold 64 entries. -/
def entriesFit (s : State) (p : Nat) : Bool :=
  (List.range 4).all (fun d => decide (dieEntries s p d ≤ 64)) && decide (pkgEntries s p ≤ 64)
/-- A contribution for which an entry is free; any other waits at the switch. -/
def ifEntry (p : Nat) (s : State) : Option State := if entriesFit s p then some s else none

/-- FOLD_CONTRIBUTION: a predicate, or a CRED's data. -/
def execFoldContribution (i : Nat) (s : State) : Out :=
  .next (deliver s i (fun st f => match f.dst, f.msg with
    | .block pa, .foldIn fold round strand kind pred =>
      ifEntry (homePkg pa) (takeContribution st (homePkg pa) fold
        { core := f.src, strand := strand, own := round, kind := kind, pred := pred })
    | .block pa, .credIn fold round x => ifEntry (homePkg pa) (takeCred st (homePkg pa) fold round x)
    | _, _ => none))

/-- The FJOIN or FLEAVE that waits finds at its next turn what the root has recorded. -/
def rootRecorded (s : State) (c k : Nat) : State :=
  s.modStrand c k (fun x => match x.prog with
    | .stage 4 _ => { x with prog := .none }
    | _ => x)
/-- A core has one strand in a fold: the root does not record a second, whose FJOIN then traps; a repeat by the member has no
effect. -/
def execFoldJoinRecorded (i : Nat) (s : State) : Out :=
  .next (deliver s i (fun st f => match f.dst, f.msg with
    | .block _, .foldJoin fold k =>
      let taken := bit ((st.cluster (clOf f.src)).wave.get fold) (f.src % 16)
      let st1 := if taken || (st.strand f.src k).isNone then st else foldJoin st f.src k fold
      some (rootRecorded st1 f.src k)
    | _, _ => none))
def execFoldLeaveRecorded (i : Nat) (s : State) : Out :=
  .next (deliver s i (fun st f => match f.dst, f.msg with
    | .block _, .foldLeave fold k =>
      let member := ((st.strand f.src k).map (fun x => bit x.memb fold.val)).getD false
      some (rootRecorded (if member then foldLeave st f.src k fold else st) f.src k)
    | _, _ => none))

/-- A member that has not contributed within the fold timeout of the round's start is ejected (02 R81). -/
def execFoldEject (pkg : Nat) (fold : Fin 16) (core : Nat) (s : State) : Out :=
  let late := fun (r : FoldRound) => decide (r.since + foldLimit s core ≤ s.now) && !r.sent
  let owing := (s.fold pkg fold).rounds.findSome? (fun r =>
    if late r then r.members.find? (fun m => m.1 == core && !(r.got.any (fun g => g.core == m.1 && g.strand == m.2))) else none)
  match owing with
  | some m => .next (ejectMember s core m.2 fold)
  | none => .next s

/-! ### At the members -/

def raiseLseq (s : State) (c n : Nat) : State :=
  s.modCore c (fun co => { co with lseq := if co.lseq.toNat < n then BitVec.ofNat 48 n else co.lseq })
/-- FOLD_OUTCOME: the outcome of the member's contribution (R80, R82, R372, R374). One that no contribution waits for is
ignored. -/
def execFoldOutcome (i : Nat) (s : State) : Out :=
  deliverOut s i (fun st f => match f.dst, f.msg with
    | .core c, .foldOut fold own k outcome failed lseq =>
      (match (st.strand c k).bind (·.contrib) with
        | none => some (.next st)
        | some q =>
          if q.fold = fold ∧ q.round = own ∧ q.arrived = false then
            takeOutcome (raiseLseq st c lseq) c k { q with arrived := true, outcome := outcome, failed := failed }
          else some (.next st))
    | _, _ => none)

/-- FOLD_OUTCOME_TIMEOUT: the member squashes and traps FOLD_TIMEOUT at its collective instruction (R81). -/
def execFoldOutcomeTimeout (core idx : Nat) (s : State) : Out :=
  match (s.strand core idx).bind (·.contrib) with
  | none => .next s
  | some q =>
    if q.arrived || (s.core core).halt != .none || decide (s.now ≤ q.since + foldLimit s core) then .next s
    else
      let s1 := match (s.core core).spec with
        | some sp => if sp.strand = idx then squashSpec s core sp none else s
        | none => s
      let s2 := s1.modStrand core idx (fun x => { x with contrib := none, prog := .none, wait := none })
      match s2.strand core idx with
      | some x => .next (raise s2 core idx .t { code := cFoldTimeout, eva := 0 } x.pc 0)
      | none => .next s2

end Sys2Proof.Machine
end

