-- ==== Sys2Proof/Machine/Optics.lean ====
section
/-! DEFINITION. Events of optical links and of the Lea (24 R452 to R468; 01 R19, R26 to R28; 17 R375). A link carries a
package's flits to the fabric; the lark goes round a group. -/

namespace Sys2Proof.Machine

def popcount16 (x : BitVec 16) : Nat := ((List.range 16).filter (bit x)).length

/-! ### Link event records (24 Table 24.1) -/

structure LinkEvent where
  kind : Nat
  port : Nat
  oldl : BitVec 16
  newl : BitVec 16
  socket : Nat := 127
  first : BitVec 32 := 0
  nrep : Nat := 0
  /-- when a receiver saw the loss, where the record is posted later than that -/
  seen : Option Nat := none

def LinkEvent.bytes (e : LinkEvent) (p time lseq : Nat) : List Byte :=
  leBytes 8 (e.kind * 2 ^ 60 + p % 1024 * 2 ^ 50 + e.port * 2 ^ 45 + e.oldl.toNat * 2 ^ 29 + e.newl.toNat * 2 ^ 13 +
    e.socket * 2 ^ 6) ++
  leBytes 8 (e.first.toNat * 2 ^ 32 + e.nrep % 2 ^ 32) ++ leBytes 8 time ++
  leBytes 8 (if e.port = 16 ∨ e.port = 17 ∨ e.kind = 4 then lseq else 0)
/-- The record goes to the management agent's queue and from there to the host (R457). -/
def postLink (s : State) (p : Nat) (e : LinkEvent) : State :=
  let r := e.bytes p (e.seen.getD s.now) (s.pkg p).lea.applied
  let s1 := s.modPkg p (fun x => { x with mgmtEvents := x.mgmtEvents ++ [r] })
  hostSend (s1.countPort p (if e.port < 16 then e.port / 4 else 4) 0x36 1 none) p 1 r

/-! ### Frames (24 R453, R454) -/

def linkPkg (link : Nat) : Nat := link / 17
def linkPort (link : Nat) : Nat := link % 17
def portGroup (port : Nat) : Nat := if port < 16 then port / 4 else 4

/-- The live wavelengths in ascending number, and the wavelength and beat time of a stream beat counted from the last restripe
or retraining (24 R452). -/
def Link.lanes (l : Link) : List Nat := (List.range 16).filter (bit l.live)
def Link.wavelength (l : Link) (i : Nat) : Nat := l.lanes.getD (i % l.lanes.length) 0
def Link.beatTime (l : Link) (i : Nat) : Nat := i / l.lanes.length
/-- The 16 beats of a frame sent since then: wavelength and beat time of each (01 R29). -/
def Link.frameBeats (l : Link) (q : BitVec 32) : List (Nat × Nat) :=
  let first := l.beat - 16 * (l.lastSeq + 1 - q).toNat
  (List.range 16).map (fun i => (l.wavelength (first + i), l.beatTime (first + i)))

/-- Waiting flits become frames while the replay buffer has room. -/
def linkPump (l : Link) : List Flit → Link
  | [] => { l with waiting := [] }
  | f :: t => if l.replay.length < 64 then linkPump (linkPush { l with waiting := [] } f) t else { l with waiting := f :: t }

/-- LINK_FRAME_RECEIVE: the next frame in flight. One whose CRC fails is discarded and asks for a replay; one already delivered
is discarded; one ahead of its turn is discarded, since the replay brings it again. -/
def execLinkFrameReceive (link : Nat) (crcOk : Bool) (s : State) : Out :=
  let p := linkPkg link
  let l := s.link p (linkPort link)
  match l.inFlight with
  | [] => .next s
  | (q, fs) :: t =>
    if !l.up || l.marker == some 0 || l.notice.isSome then .next s
    else
      let l1 : Link := { l with inFlight := t, marker := l.marker.map (· - 1) }
      if !crcOk then
        .next ((s.setLink p (linkPort link) { l1 with replayReq := some (l.delivered + 1) }).countPort p (portGroup (linkPort link)) 0x30 1 none)
      else if q = l.delivered + 1 then
        let s1 := s.setLink p (linkPort link) { l1 with delivered := q }
        .next { s1 with net := s1.net ++ fs }
      else if 0 < (q - l.delivered).toNat ∧ (q - l.delivered).toNat < 2 ^ 31 then .next (s.setLink p (linkPort link) l1)
      else .next ((s.setLink p (linkPort link) l1).countPort p (portGroup (linkPort link)) 0x31 1 none)

def execLinkAckSend (link : Nat) (s : State) : Out :=
  let l := s.link (linkPkg link) (linkPort link)
  if l.up then .next (s.setLink (linkPkg link) (linkPort link) { l with ackFlight := some l.delivered }) else .next s
/-- The frames of a replay buffer that an acknowledgement of `n` does not cover. -/
def unacked (l : Link) (n : BitVec 32) : List (BitVec 32 × List Flit) :=
  l.replay.filter (fun q => decide (0 < (q.1 - n).toNat) && decide ((q.1 - n).toNat < 2 ^ 31))
def execLinkAckReceive (link : Nat) (s : State) : Out :=
  let l := s.link (linkPkg link) (linkPort link)
  match l.ackFlight with
  | none => .next s
  | some n =>
    let l1 : Link := { l with replay := unacked l n, ackFlight := none }
    .next (s.setLink (linkPkg link) (linkPort link) (if l.up then linkPump l1 l1.waiting else l1))
def execLinkReplayRequest (link : Nat) (s : State) : Out :=
  let l := s.link (linkPkg link) (linkPort link)
  match l.replayReq with
  | none => .next s
  | some n =>
    if !l.up || l.notice.isSome then .next s
    else
      let again := unacked l (n - 1)
      .next (s.setLink (linkPkg link) (linkPort link)
        { l with replayReq := none, inFlight := l.inFlight ++ again, beat := l.beat + 16 * again.length })

/-! ### Loss of light (24 R455, R456, R468) -/

/-- A link that goes down gives its undelivered flits to the package's other links (R459). -/
def linkDown (s : State) (p port : Nat) (l : Link) : State :=
  let flits := (unacked l l.delivered).flatMap (·.2) ++ l.waiting
  let l1 : Link :=
    { l with
      live := 0, up := false, replay := [], waiting := [], inFlight := [], ackFlight := none, replayReq := none
      notice := none, marker := none, attempts := 0, retryAt := none, disagreed := false }
  flits.foldl enterLink (s.setLink p port l1)

/-- The live set as the receiver has it: a notice that is on its way has left its lost wavelengths out. -/
def Link.seenLive (l : Link) : BitVec 16 := (l.notice.map (·.1)).getD l.live
/-- LOSS_OF_LIGHT: the receiver discards what is on its way, up to a restripe marker, with which reception starts anew, and sends a
restripe notice; a replay request is part of it. -/
def execLossOfLight (link : Nat) (lost : BitVec 16) (s : State) : Out :=
  let l := s.link (linkPkg link) (linkPort link)
  if !l.up || l.seenLive &&& lost == 0 then .next s
  else
    .next (s.setLink (linkPkg link) (linkPort link)
      { l with
        inFlight := (l.marker.map (fun n => l.inFlight.drop n)).getD [], marker := l.marker.map (fun _ => 0), replayReq := none
        notice := some (l.seenLive &&& ~~~lost, l.delivered), lossAt := s.now })

/-- Restripe on `live'`, resending `again`, for a loss seen at `seen`. Of a marker, `ahead` are the frames that are on their way
before it; without one the receiver has discarded them. A notice that crosses the restripe is still to come. -/
def restripe (s : State) (p port : Nat) (l : Link) (live' : BitVec 16) (again : List (BitVec 32 × List Flit))
    (ahead : Option (List (BitVec 32 × List Flit)))
    (kind socket : Nat) (seen : Option Nat) : State :=
  let first := (again.head?.map (·.1)).getD 0
  if popcount16 live' < 4 then
    postLink (linkDown s p port l) p { kind := 2, port := port, oldl := l.live, newl := 0, socket := socket, seen := seen }
  else
    let l1 : Link :=
      { l with
        live := live', inFlight := ahead.getD [] ++ again, replayReq := none, marker := ahead.map List.length
        beat := 16 * again.length }
    postLink (s.setLink p port (linkPump l1 l1.waiting)) p
      { kind := kind, port := port, oldl := l.live, newl := live', socket := socket, first := first, nrep := again.length, seen := seen }

/-- RESTRIPE_NOTICE: one with the live set that the transmitter has taken already, or a larger one, acts only as an
acknowledgement; any other leaves the wavelengths that both have. -/
def execRestripeNotice (link : Nat) (s : State) : Out :=
  let p := linkPkg link
  let port := linkPort link
  let l := s.link p port
  match l.notice with
  | none => .next s
  | some (seen, n) =>
    let l1 : Link := { l with replay := unacked l n, notice := none }
    let live' := seen &&& l.live
    if live' = l.live then .next (s.setLink p port l1)
    else .next (restripe s p port l1 live' l1.replay none 1 127 (some l.lossAt))

/-- LASER_SOCKET_FAILURE: the transmitter of a tree port restripes on its own, with a marker, and resends what was
unacknowledged; that of the Lea restripes without a notice; socket 68 stops the lark. -/
def execLaserSocketFailure (pkg socket : Nat) (s : State) : Out :=
  let x := s.pkg pkg
  if 69 ≤ socket ∨ !bit x.lasers socket then .next s
  else
    let s1 := s.modPkg pkg (fun y => { y with lasers := setBit y.lasers socket false })
    if socket = 68 then .next (s1.modPkg pkg (fun y => { y with lea := { y.lea with txOff := true } }))
    else
      let port := if socket < 64 then socket / 4 else 16
      let lost : BitVec 16 := 0xF#16 <<< (4 * (socket % 4))
      let l := s1.link pkg port
      if !l.up || l.live &&& lost == 0 then .next s1
      else
        let ahead := if 16 ≤ port then none else if l.notice.isSome then some [] else some l.inFlight
        .next (restripe s1 pkg port l (l.live &&& ~~~lost) l.replay ahead (if port < 16 then 1 else 5) socket none)
/-- RESTRIPE_MARKER: the receiver takes the marker's live set, and has what came before it no more; the frames behind it follow. -/
def execRestripeMarker (link : Nat) (s : State) : Out :=
  let l := s.link (linkPkg link) (linkPort link)
  .next (match l.marker with
    | some n => s.setLink (linkPkg link) (linkPort link) { l with marker := none, inFlight := l.inFlight.drop n }
    | none => s)

/-! ### Retraining (24 R458) -/

/-- The lowest `n` wavelengths of a mask. -/
def lowestLanes (m : BitVec 16) (n : Nat) : BitVec 16 :=
  (((List.range 16).filter (bit m)).take n).foldl (fun a i => setBit a i true) 0
def attemptLimit : Nat := 8
def retrainWait : Nat := 1800

/-- LINK_RETRAIN: one attempt. Both ends form one agreement, so their checksums are equal and the width decides. The eighth
failure leaves the link down. -/
def execLinkRetrain (link : Nat) (own far : TrainProposal) (s : State) : Out :=
  let p := linkPkg link
  let port := linkPort link
  let l0 := s.link p port
  if l0.retryAt.isSome then .next s
  else
    let s0 := if l0.up then linkDown s p port l0 else s
    let l := s0.link p port
    let lanes := own.lanes &&& far.lanes
    let width := min (min own.width.toNat far.width.toNat) (popcount16 lanes)
    let tries := if attemptLimit ≤ l.attempts then 1 else l.attempts + 1
    if 4 ≤ width then
      let live := lowestLanes lanes width
      let l1 : Link := { l with live := live, up := true, slow := own.slow || far.slow, beat := 0, attempts := 0, disagreed := false }
      .next (postLink (s0.setLink p port l1) p { kind := 0, port := port, oldl := l0.live, newl := live })
    else if tries = attemptLimit then
      .next (postLink (s0.setLink p port { l with attempts := tries, disagreed := true }) p
        { kind := 3, port := port, oldl := l0.live, newl := 0 })
    else .next (s0.setLink p port { l with attempts := tries, retryAt := some (s.now + retrainWait) })
def execRetrainRetry (link : Nat) (s : State) : Out :=
  let l := s.link (linkPkg link) (linkPort link)
  .next (if l.retryAt.any (fun t => decide (t ≤ s.now)) then s.setLink (linkPkg link) (linkPort link) { l with retryAt := none } else s)

/-! ### The Lea (24 R460 to R464) -/

def State.lea (s : State) (p : Nat) : Lea := (s.pkg p).lea
def State.modLea (s : State) (p : Nat) (f : Lea → Lea) : State := s.modPkg p (fun x => { x with lea := f x.lea })

def LeaOp.size : LeaOp → Nat
  | .bst _ _ _ b => b.length
  | .fence => 0
  | .fold .. => 64
  | .cred _ _ _ _ _ x => x.bytes.length
  | .page _ _ _ gs => (gs.map (fun g => g.2.length)).sum
def packetLimit : Nat := 65536
def storeLimit : Nat := 262144

/-- The operations that a holder starts: `used` bytes have gone in this holding, `kept` are in its store. -/
def takeOps : List (Nat × Nat × LeaOp) → Nat → Nat → List (Nat × Nat × LeaOp) × List (Nat × Nat × LeaOp)
  | [], _, _ => ([], [])
  | q :: t, used, kept =>
    let n := q.2.2.size
    if used + n ≤ packetLimit ∧ kept + n ≤ storeLimit then
      let r := takeOps t (used + n) (kept + n)
      (q :: r.1, r.2)
    else ([], q :: t)

/-- Packets reach every member's receiver; a member misses one whose bit of the turn's free word is set, and lacks it. -/
def leaCast (s : State) (members : List Nat) (ops : List (Nat × LeaOp)) : State :=
  members.zipIdx.foldl (fun st m =>
    st.modLea m.1 (fun l => { l with received := l.received ++ ops.filter (fun _ => !bit st.turn.free m.2) })) s
def larkCast (s : State) (members : List Nat) (k : Lark) : State :=
  members.foldl (fun st m => st.modLea m (fun l => { l with lark := k, hasLark := true })) s

/-- APPLIED: what every member has applied. -/
def groupApplied (s : State) (members : List Nat) : Nat :=
  match members.map (fun m => (s.lea m).applied) with
  | [] => 0
  | n :: t => t.foldl min n
/-- NACK: the lowest sequence below `next` that some member lacks, or 0. -/
def groupNack (s : State) (members : List Nat) (next : Nat) : Nat :=
  let lo := groupApplied s members
  let lacks := fun (n : Nat) => members.any (fun m =>
    let l := s.lea m
    decide (l.applied < n) && !(l.received.any (fun r => r.1 == n)))
  (((List.range (next - lo)).map (fun i => lo + i)).find? (fun n => decide (0 < n) && lacks n)).getD 0
/-- The member that follows in ring order; a regenerated lark skips those whose transmitter is off. -/
def nextHolder (s : State) (members : List Nat) (k : Lark) : Nat :=
  let n := members.length
  let ring := (List.range n).map (fun i => (k.holder + 1 + i) % n)
  let ok := fun (i : Nat) => k.gen == 0 || !(s.lea (members.getD i 0)).txOff
  (ring.find? ok).getD ((k.holder + 1) % n)

/-- The holder resends a NACKed operation of its own, sends new ones, and passes the lark. -/
def holdLark (s : State) (pkg : Nat) (k : Lark) : State :=
  let l := s.lea pkg
  let applied := groupApplied s l.members
  let nack := groupNack s l.members k.next
  let kept := l.sent.filter (fun q => decide (applied < q.1))
  let again := kept.filter (fun q => q.1 == nack)
  let size := fun (qs : List (Nat × LeaOp)) => (qs.map (fun q => q.2.size)).sum
  let r := takeOps l.queue (size again) (size kept)
  let new := r.1.zipIdx.map (fun q => (k.next + q.2, q.1.2.2))
  let given := (r.1.zipIdx.filter (fun q => q.1.2.1 < 32)).map (fun q => (q.1.1, q.1.2.1, k.next + q.2))
  let s1 := s.modLea pkg (fun x => { x with queue := r.2, sent := kept ++ new, given := x.given ++ given })
  let s2 := leaCast s1 l.members (again ++ new)
  let k1 : Lark := { k with next := k.next + new.length, applied := applied, nack := nack }
  larkCast s2 l.members { k1 with holder := nextHolder s2 l.members k1 }

/-- The group's lark is of an older generation than the member has seen. -/
def olderLark (l : Lea) (k : Lark) : Bool := decide (2 ^ 15 ≤ (k.gen - l.seenGen).toNat)
def execLarkReceive (pkg : Nat) (s : State) : Out :=
  let l := s.lea pkg
  let k := l.lark
  if !l.hasLark || l.members.isEmpty then .next s
  else if olderLark l k then .next (s.modLea pkg (fun x => { x with hasLark := false }))
  else
    let s1 := s.modLea pkg (fun x =>
      { x with hasLark := false, seenGen := k.gen, lastSeen := s.now, sent := x.sent.filter (fun q => decide (k.applied < q.1)) })
    if k.holder = l.number ∧ l.txOff = false then .next (holdLark s1 pkg k) else .next s1

/-- LEA_OPERATION_RECEIVE: an operation whose predecessor is applied is applied; one that is applied already is dropped. -/
def execLeaOperationReceive (pkg seq : Nat) (s : State) : Out :=
  let l := s.lea pkg
  match l.received.find? (fun r => r.1 == seq) with
  | none => .next s
  | some r =>
    let s1 := s.modLea pkg (fun x => { x with received := x.received.filter (fun q => q.1 != seq) })
    if seq ≤ l.applied then .next s1
    else if seq = l.applied + 1 then .next (leaApplied (leaData s1 pkg seq r.2) pkg seq)
    else .next s

def larkLimit : Nat := 180000
/-- LARK_TIMEOUT: the lowest-numbered member whose transmitter works issues a lark of the next generation. -/
def execLarkTimeout (pkg : Nat) (s : State) : Out :=
  let l := s.lea pkg
  if l.members.isEmpty || decide (s.now < l.lastSeen + larkLimit) then .next s
  else
    match l.members.find? (fun m => !(s.lea m).txOff) with
    | none => .next s
    | some m =>
      let x := s.lea m
      let seen := l.members.foldl (fun a q =>
        let y := s.lea q
        max (max a y.applied) (max (y.lark.next - 1) ((y.sent ++ y.received).foldl (fun b r => max b r.1) 0))) 0
      let gen := l.members.foldl (fun a q =>
        let g := (s.lea q).lark.gen
        if (g - a).toNat < 2 ^ 15 then g else a) x.seenGen
      let k : Lark :=
        { group := l.group, gen := gen + 1, holder := x.number, next := seen + 1, applied := groupApplied s l.members
          nack := groupNack s l.members (seen + 1) }
      let s1 := l.members.foldl (fun st q => st.modLea q (fun y => { y with lastSeen := s.now })) s
      let tx := (s.link m 16).live
      .next (postLink (larkCast s1 l.members k) m { kind := 4, port := 16, oldl := tx, newl := tx })

/-- LEA_SEQUENCE_TIMEOUT: a BST or FENCE.sys.lea without a number gives up, with nothing applied (17 R375). -/
def execLeaSequenceTimeout (core idx : Nat) (s : State) : Out :=
  match s.strand core idx with
  | none => .next s
  | some x =>
    let p := pkgOf core
    let mine := fun (q : Nat × Nat × LeaOp) => q.1 == core && q.2.1 == idx
    let late := x.wait.any (fun w => w.kind == .lea && decide (w.since + remoteLimit s core ≤ s.now))
    match (s.lea p).queue.find? mine with
    | none => .next s
    | some q =>
      if !late || (s.core core).halt != .none then .next s
      else
        let eva : Word := match q.2.2 with
          | .bst _ _ va _ => va
          | _ => 0
        let s1 := s.modLea p (fun l => { l with queue := l.queue.filter (fun y => !mine y) })
        .next (raise s1 core idx .t { code := cRemoteTimeout, eva := eva } x.pc 0)

/-- LARK_TRANSMITTER_RESTORE: the management agent restores a member whose lark transmission stopped. -/
def execLarkTransmitterRestore (pkg : Nat) (s : State) : Out :=
  .next (s.modPkg pkg (fun x => { x with lasers := setBit x.lasers 68 true, lea := { x.lea with txOff := false } }))

/-! ### Formation (01 R19; 24 R460) -/

/-- The number that a package gives up where another takes its own: the one at the start of the chain of assignments that ends at
it. -/
def freedNumber (ps : List (Nat × Nat)) : Nat → Nat → Nat
  | 0, p => p
  | n + 1, p =>
    match ps.find? (fun x => x.2 == p) with
    | some x => freedNumber ps n x.1
    | none => p
/-- The number of a package after the assignments, each an old and a new number. -/
def newNumber (ps : List (Nat × Nat)) (p : Nat) : Nat :=
  match ps.find? (fun x => x.1 == p) with
  | some x => x.2
  | none => freedNumber ps ps.length p
/-- A key that holds a package number above `k` values. -/
def newKey (ps : List (Nat × Nat)) (k n : Nat) : Nat := newNumber ps (n / k) * k + n % k
/-- A table under new keys. -/
def rekey {β : Type} (f : Nat → Nat) (m : SMap β) : SMap β := m.foldl (fun a e => smPut a (f e.1) e.2) []

/-- Packages that are given other numbers take their memory, dies, links and tables along. Their cores and clusters are as at
reset, and the traffic of the domain, which names the old numbers, is gone (log 32). -/
def renumber (s : State) (ps : List (Nat × Nat)) : State :=
  if ps.all (fun x => x.1 == x.2) then s
  else
    let stays := fun (p : Nat) => newNumber ps p == p
    let pa := newKey ps (2 ^ 50)
    { s with
      mem := s.mem.foldl (fun a e => smSet Memory.unlisted a (pa e.1) e.2) []
      poison := s.poison.foldl (fun a e => smSet false a (pa e.1) e.2) [], poisonDue := s.poisonDue.map pa
      cores := s.cores.filter (fun e => stays (pkgOf e.1)), clusters := s.clusters.filter (fun e => stays (e.1 / 256))
      dies := rekey (newKey ps 4) s.dies, packages := rekey (newKey ps 1) s.packages, net := [], kept := [], seqs := []
      psent := [], pdone := [], windows := [] }

/-- DOMAIN_FORMATION: the management agent gives packages numbers, each by its old one, and they make up the domain. -/
def execDomainFormation (numbers : List (Nat × Nat)) (s : State) : Out :=
  let olds := numbers.map (·.1)
  let news := numbers.map (·.2)
  if news.any (fun n => decide (1024 ≤ n)) || !decide news.Nodup || !decide olds.Nodup then .next s
  else
    let s1 := renumber s numbers
    let all := (news ++ s1.packages.map (·.1)).eraseDups
    .next (all.foldl (fun st p => st.modPkg p (fun x => { x with formed := news.contains p })) s1)

/-- LEA_GROUP_FORMATION: 1 to 32 packages in ring order; the lark starts at member 0 with NEXT 1. The management agent writes
their list to the folds that are to span the group (02 R77; 17 R370). -/
def execLeaGroupFormation (group : BitVec 16) (g : LeaMembers) (s : State) : Out :=
  let members := g.packages
  if members.isEmpty || decide (32 < members.length) || !decide members.Nodup || !members.all (fun m => (s.pkg m).formed) then
    .next s
  else
    let k : Lark := { Lark.reset with group := group }
    let join := fun (st : State) (m : Nat × Nat) => st.modLea m.1 (fun l =>
      { Lea.reset with
        group := group, members := members, number := m.2, hasLark := true, lark := k, lastSeen := s.now, queue := l.queue
        localNext := l.localNext, txOff := l.txOff })
    let span := fun (st : State) (m : Nat) => st.modPkg m (fun x =>
      { x with folds := x.folds.mapFinIdx (fun i f _ => if bit g.folds i then { f with packages := members } else f) })
    .next (members.foldl span (members.zipIdx.foldl join s))

end Sys2Proof.Machine
end

