-- ==== Sys2Proof/Machine/Scalar.lean ====
section
/-! DEFINITION. Rows 0x00 to 0x02 and 0x04: integer arithmetic, logic, bit fields, constants and addresses, compares and
predicates (12 R234 to R244). -/

namespace Sys2Proof.Machine

/-! ### Rows 0x00 and 0x01 (12 Table 12.4) -/

/-- Write D with `put`, set FSTAT.SAT when the result saturated, or trap. -/
def aluPut (s : State) (a : Actor) (put : Word → State) (r : Except Code (Word × Bool)) : R Res :=
  match r with
  | .error c => trapAt s c 0
  | .ok (v, sat) => .ok (.next (orFlags (put v) a.core (flagIf sat flagSAT)))
def aluWrite (s : State) (a : Actor) (d : SReg) (r : Except Code (Word × Bool)) : R Res := aluPut s a (setReg s a d) r

/-- The operands of R238: patterns of `w` bits. -/
def pat (w : Nat) (x : Word) : Nat := x.toNat % 2 ^ w

/-- An instruction whose result is stated as a number of the interpreted operands. -/
def aluNum (s : State) (f : Alu3) (z detect : Bool) (op : Int → Int → Int) : Out :=
  shadowable s f.sh f.g f.d (fun a =>
    let w := wbits f.w
    let x := intOf (!z) w (pat w (a.opnd f.a))
    let y := intOf (!z) w (pat w (a.opnd f.b))
    aluWrite s a f.d (aluResult (s.core a.core).fctl w z f.sat detect (op x y)))

/-- ADD, SUB and MUL: the same, with a predicted residue (26 R475). -/
def aluSum (s : State) (f : Alu3) (op : Int → Int → Int) : Out :=
  shadowable s f.sh f.g f.d (fun a =>
    let w := wbits f.w
    let x := intOf (!f.z) w (pat w (a.opnd f.a))
    let y := intOf (!f.z) w (pat w (a.opnd f.b))
    let carried := op (a.residue f.a) (a.residue f.b)
    let exact := op (a.opnd f.a).toNat (a.opnd f.b).toNat
    aluPut s a (fun v => setPredicted s a f.d v carried exact)
      (aluResult (s.core a.core).fctl w f.z f.sat true (op x y)))

/-- An instruction whose result is stated as a pattern of the operands' patterns (R237); shifts and rotates take `c`. -/
def aluPat (s : State) (f : Alu3) (op : Nat → Nat → Nat → Nat → Nat) : Out :=
  shadowable s f.sh f.g f.d (fun a =>
    let w := wbits f.w
    let b := a.opnd f.b
    aluWrite s a f.d (.ok (extend72 f.z w (op w (pat w (a.opnd f.a)) (pat w b) (pat 64 b % w)), false)))

/-- DIV, DIVZ, REM and REMZ (R238): the division by zero, then the quotient or remainder. -/
def aluDiv (s : State) (f : Alu3) (z rem : Bool) (op : Int → Int → Int) : Out :=
  shadowable s f.sh f.g f.d (fun a =>
    let w := wbits f.w
    let x := intOf (!z) w (pat w (a.opnd f.a))
    let y := intOf (!z) w (pat w (a.opnd f.b))
    if y = 0 then
      if f.sat then
        let r := if rem then x else if x < 0 then intLo (!z) w else intHi (!z) w
        aluWrite s a f.d (.ok (extend72 z w (wrapInt w r), true))
      else trapAt s cIntDivZero 0
    else aluWrite s a f.d (aluResult (s.core a.core).fctl w z f.sat (!z && !rem) (op x y)))

/-- An instruction with one operand whose result is stated as a number of its pattern. -/
def aluOne (s : State) (f : Alu2) (z : Bool) (op : Nat → Nat → Int) : Out :=
  shadowable s f.sh f.g f.d (fun a =>
    let w := wbits f.w
    aluWrite s a f.d (.ok (extend72 z w (wrapInt w (op w (pat w (a.opnd f.a)))), false)))

def execAdd (f : Alu3) (s : State) : Out := aluSum s f (· + ·)
def execAddi (f : AluI) (s : State) : Out :=
  shadowable s f.sh f.g f.d (fun a =>
    let w := wbits f.w
    let x := intOf (!f.z) w (pat w (a.opnd f.a))
    let y := intOf (!f.z) w (f.imm.signExtend 64).toNat
    let imm : Word := f.imm.signExtend 72
    aluPut s a (fun v => setPredicted s a f.d v (a.residue f.a + imm.toNat) ((a.opnd f.a).toNat + imm.toNat))
      (aluResult (s.core a.core).fctl w f.z f.sat true (x + y)))
def execSub (f : Alu3) (s : State) : Out := aluSum s f (· - ·)
def execMul (f : Alu3) (s : State) : Out := aluSum s f (· * ·)
/-- floor(a × b / 2^w). -/
def execMulh (f : Alu3) (s : State) : Out := aluNum s f false false (fun x y => (x * y) / 2 ^ wbits f.w)
def execMulhz (f : Alu3) (s : State) : Out := aluNum s f true false (fun x y => (x * y) / 2 ^ wbits f.w)
def execDiv (f : Alu3) (s : State) : Out := aluDiv s f false false Int.tdiv
def execDivz (f : Alu3) (s : State) : Out := aluDiv s f true false Int.tdiv
def execRem (f : Alu3) (s : State) : Out := aluDiv s f false true Int.tmod
def execRemz (f : Alu3) (s : State) : Out := aluDiv s f true true Int.tmod
def execMinI (f : Alu3) (s : State) : Out := aluNum s f false false min
def execMaxI (f : Alu3) (s : State) : Out := aluNum s f false false max
def execMinz (f : Alu3) (s : State) : Out := aluNum s f true false min
def execMaxz (f : Alu3) (s : State) : Out := aluNum s f true false max

def execAndI (f : Alu3) (s : State) : Out := aluPat s f (fun _ x y _ => x &&& y)
def execOrI (f : Alu3) (s : State) : Out := aluPat s f (fun _ x y _ => x ||| y)
def execXorI (f : Alu3) (s : State) : Out := aluPat s f (fun _ x y _ => x ^^^ y)
def execAndn (f : Alu3) (s : State) : Out := aluPat s f (fun w x y _ => x &&& (2 ^ w - 1 - y))

/-- Shifts and rotates of a `w`-bit pattern. -/
def patShl (w x c : Nat) : Nat := x * 2 ^ c % 2 ^ w
def patShr (x c : Nat) : Nat := x / 2 ^ c
def patSar (w x c : Nat) : Nat := wrapInt w (intOf true w x / 2 ^ c)
def patRol (w x c : Nat) : Nat := (x * 2 ^ c + x / 2 ^ (w - c)) % 2 ^ w
def execShl (f : Alu3) (s : State) : Out := aluPat s f (fun w x _ c => patShl w x c)
def execShr (f : Alu3) (s : State) : Out := aluPat s f (fun _ x _ c => patShr x c)
def execSar (f : Alu3) (s : State) : Out := aluPat s f (fun w x _ c => patSar w x c)
def execRol (f : Alu3) (s : State) : Out := aluPat s f (fun w x _ c => patRol w x c)
def execRor (f : Alu3) (s : State) : Out := aluPat s f (fun w x _ c => patRol w x ((w - c) % w))

/-- Leading zeros, trailing zeros and ones of a `w`-bit pattern. -/
def countLead : Nat → Nat → Nat
  | 0, _ => 0
  | w + 1, x => if x.testBit w then 0 else countLead w x + 1
def countTrail : Nat → Nat → Nat
  | 0, _ => 0
  | w + 1, x => if x % 2 = 1 then 0 else countTrail w (x / 2) + 1
def countOnes : Nat → Nat → Nat
  | 0, _ => 0
  | w + 1, x => x % 2 + countOnes w (x / 2)
def execClz (f : Alu2) (s : State) : Out := aluOne s f false (fun w x => countLead w x)
def execCtz (f : Alu2) (s : State) : Out := aluOne s f false (fun w x => countTrail w x)
def execPopc (f : Alu2) (s : State) : Out := aluOne s f false (fun w x => countOnes w x)
def execSext (f : Alu2) (s : State) : Out := aluOne s f false (fun w x => intOf true w x)
def execZext (f : Alu2) (s : State) : Out := aluOne s f true (fun _ x => x)

/-- BFX (R239). -/
def execBfx (f : BitField) (s : State) : Out :=
  shadowable s f.sh f.g f.d (fun a =>
    let x := bits (a.opnd f.a) f.pos.toNat f.len.toNat
    .ok (.next (setReg s a f.d (extend72 f.z f.len.toNat x))))
/-- BFI (R239). -/
def execBfi (f : BitField) (s : State) : Out :=
  shadowable s f.sh f.g f.d (fun a =>
    let t := low64 (sregVal a.sr f.d)
    .ok (.next (setReg s a f.d (zext72 (setBits t f.pos.toNat f.len.toNat (a.opnd f.a).toNat)))))

/-! ### Row 0x02 (12 Table 12.5) -/

def execLi (f : LiF) (s : State) : Out :=
  shadowable s f.sh f.g f.d (fun a => .ok (.next (setPredicted s a f.d (f.imm.signExtend 72) 0 0)))
def execLih (f : LihF) (s : State) : Out :=
  shadowable s f.sh f.g f.d (fun a =>
    .ok (.next (setReg s a f.d (f.imm ++ (sregVal a.sr f.d).extractLsb' 0 40))))
def execLea (f : LeaF) (s : State) : Out :=
  shadowable s f.sh f.g f.d (fun a =>
    let b : Word := match f.b with
      | some r => (sext72 (low64 (sregVal a.sr r))) <<< f.scale.toNat
      | none => 0
    let n := 2 ^ f.scale.toNat
    let carried := a.residue f.a + n * (f.b.map a.regResidue).getD 0
    let exact := (a.opnd f.a).toNat + n * (f.b.map (fun r => (sregVal a.sr r).toNat)).getD 0
    .ok (.next (setPredicted s a f.d (a.opnd f.a + b + f.disp.signExtend 72) carried exact)))
def srcImm (a : Actor) : SrcImm → Word
  | .src x => a.opnd x
  | .imm v => v.signExtend 72
def immResidue (a : Actor) : SrcImm → Nat
  | .src x => a.residue x
  | .imm v => (v.signExtend 72 : Word).toNat
def execAdda (f : AddaF) (s : State) : Out :=
  shadowable s f.sh f.g f.d (fun a =>
    .ok (.next (setPredicted s a f.d (a.opnd f.a + srcImm a f.b) (a.residue f.a + immResidue a f.b)
      ((a.opnd f.a).toNat + (srcImm a f.b).toNat))))
def execSuba (f : AddaF) (s : State) : Out :=
  shadowable s f.sh f.g f.d (fun a =>
    .ok (.next (setPredicted s a f.d (a.opnd f.a - srcImm a f.b) ((a.residue f.a : Int) - immResidue a f.b)
      (((a.opnd f.a).toNat : Int) - (srcImm a f.b).toNat))))
def execSelect (f : SelectF) (s : State) : Out :=
  shadowable s f.sh f.g f.d (fun a =>
    .ok (.next (setReg s a f.d (if bit (a.k0 f.c) 0 then a.opnd f.a else a.opnd f.b))))

/-! ### Row 0x04 (12 R242 to R244) -/

/-- The condition of Table 12.7 on two `w`-bit patterns. -/
def condHolds (c : Cond) (w x y : Nat) : Bool :=
  let a := intOf true w x
  let b := intOf true w y
  match c with
  | .eq => x == y
  | .ne => x != y
  | .lt => decide (a < b)
  | .le => decide (a ≤ b)
  | .gt => decide (b < a)
  | .ge => decide (b ≤ a)
  | .ltz => decide (a < 0)
  | .lez => decide (a ≤ 0)
  | .gtz => decide (0 < a)
  | .gez => decide (0 ≤ a)
  | .ltu => decide (x < y)
  | .leu => decide (x ≤ y)
  | .gtu => decide (y < x)
  | .geu => decide (y ≤ x)

def kAll (b : Bool) : KWord := if b then 0xFFFF else 0
def execCmp (f : CmpF) (s : State) : Out :=
  accessOp s f.g (fun a =>
    let w := wbits f.w
    let y := match f.b with
      | some x => pat w (a.opnd x)
      | none => 0
    .ok (.next (setK s a f.d (kAll (condHolds f.cond w (pat w (a.opnd f.a)) y)))))
def execCmpi (f : CmpiF) (s : State) : Out :=
  accessOp s f.g (fun a =>
    let w := wbits f.w
    .ok (.next (setK s a f.d
      (kAll (condHolds f.cond w (pat w (a.opnd f.a)) ((f.imm.signExtend 64).toNat % 2 ^ w))))))
def execKand (f : K3) (s : State) : Out := accessOp s f.g (fun a => .ok (.next (setK s a f.d (a.k0 f.a &&& a.k0 f.b))))
def execKor (f : K3) (s : State) : Out := accessOp s f.g (fun a => .ok (.next (setK s a f.d (a.k0 f.a ||| a.k0 f.b))))
def execKxor (f : K3) (s : State) : Out := accessOp s f.g (fun a => .ok (.next (setK s a f.d (a.k0 f.a ^^^ a.k0 f.b))))
def execKnot (f : K2) (s : State) : Out := accessOp s f.g (fun a => .ok (.next (setK s a f.d (~~~(a.k0 f.a)))))
def execKmov (f : KmovF) (s : State) : Out :=
  accessOp s f.g (fun a =>
    let v : Word := match f.a with
      | .k i => (a.k0 i).setWidth 72
      | .s i => a.sr[i]
      | .zr => 0
    .ok (.next (match f.d with
      | .k i => setK s a i (v.setWidth 16)
      | .s i => setS s a i v
      | .zr => s)))

end Sys2Proof.Machine
end

