-- ==== Sys2Proof/Machine/Strands.lean ====
section
/-! DEFINITION. Events of strands and cores: selection and start (02 R63 to R69; 03 R87, R90, R101; 17 R357, R358; 18
R379), pre-emption, parking and resumption (03 R102 to R104; 09 R196, R197), pending traps, the strand watchdog and machine
checks (09 R179, R198, R200), writes of control space (02 R67; 03 R106; 26 R481), the bracken scanner (10 R218 to R223). -/

namespace Sys2Proof.Machine

/-! ### Places (02 R69) -/

/-- Park a banked strand: in a tile that is not allocated, in an idle bank, or in the save area, which takes it also when four are
parked. -/
def parkStrand (co : Core) (k : Nat) (x : Strand) : Core :=
  let parked := ((liveStrands co).filter (fun p => p.2.place == .parked)).length
  let tile := (List.range 16).find? (fun t => !bit co.tileAlloc t && (smGet none co.tileStrand t).isNone)
  if 4 ≤ parked then { co with strands := smPut co.strands k (some { x with place := .saved }) }
  else
    match tile with
    | some t =>
      { co with strands := smPut co.strands k (some { x with place := .parked }), tileStrand := smPut co.tileStrand t (some k) }
    | none => { co with strands := smPut co.strands k (some { x with place := if banked co < 8 then .parked else .saved }) }
def parkAt (s : State) (c k : Nat) (x : Strand) : State := writeMoved s (s.modCore c (fun co => parkStrand co k x)) c

def execStrandParkContext (core idx : Nat) (s : State) : Out :=
  match s.strand core idx with
  | none => .next s
  | some x => if mayPark s core idx x then .next (parkAt s core idx x) else .next s

/-! ### The start of a strand -/

/-- A start that leads to no strand: its task record is free, and its level counts a finish. -/
def dropStart (s : State) (c : Nat) (q : Start) : State :=
  let s1 := match q.taskRec with
    | some pa => freeTaskRecord s pa
    | none => s
  dropKnown (finishRole s1 c { freshStrand with role := q.role } true) c
def startInvocationOf (q : Start) : Invocation :=
  { target := q.target, method := 0, args := [], ans := low64 q.s12, sender := q.s13.toNat, part := q.part }

/-- The top of frame `f` of a core, less 64 (02 R64). -/
def framePointer (s : State) (c f : Nat) : Word :=
  match s.cfg c with
  | some cfg => space0 (cfg.stkbase + BitVec.ofNat 64 ((32 * (c % 4096) + f + 1) * 2 ^ cfg.stklog2)) - 64
  | none => 0 - 64

/-- A strand's level is cancelled as it starts (03 Table 3.5). -/
def startsCancelled (s : State) (c : Nat) (role : Role) : Bool :=
  match role with
  | .plain => false
  | .unit cl _ | .stage cl _ _ _ _ _ =>
    levelCancelled s (cl / 256) (s.core c).part (roleLevel s role)
  | .task _ level => levelCancelled s (pkgOf c) (s.core c).part level

/-- Table 2.4: the first state of a strand in frame `f`. -/
def entryStrand (s : State) (c f : Nat) (slot : BitVec 5) (pc : Word) (prio : BitVec 2) (q : Start) : Strand :=
  let regs : Vector Word 16 := #v[0, 0, 0, 0, 0, 0, 0, 0, q.s8, q.s9, q.s10, q.s11, q.s12, q.s13, framePointer s c f, 0]
  { freshStrand with
    s := regs, checks := Checks.reset.restored regs
    pc := pc, prio := prio, slot := slot, frame := { owner := c, num := f }, role := q.role, waitedFor := q.waitedFor
    cancel := startsCancelled s c q.role, needTgt := true, wdStart := s.now
    served := if q.target = 0 ∧ ¬ q.receiver.isEmpty then
        some (BitVec.ofNat 64 (leVal (q.receiver.take 8)), q.s13.toNat) else none }

/-- Start a strand from a routine slot: the lowest free index and frame. A receiver record whose write faults is a double
fault (18 R379). -/
def startStrand (s : State) (c idx f : Nat) (slot : BitVec 5) (r : Routine) (q : Start) : State :=
  if q.target ≠ 0 ∧ ¬ objectValid s q.target then
    dropStart (refuseInvocation s c (startInvocationOf q) cHandleStale c) c q
  else if q.pc.isNone ∧ r.handler = 0 then
    dropStart (refuseInvocation s c (startInvocationOf q) cUnboundRoutine c) c q
  else
    let x := entryStrand s c f slot (q.pc.getD (space0 r.handler)) (q.prio.getD r.prio) q
    let s1 := match q.taskRec with
      | some pa => freeTaskRecord s pa
      | none => s
    let s2 := (s1.setStrand c idx x).modCore c (fun co => { co with frames := setBit co.frames f true })
    if q.receiver.isEmpty then s2
    else
      match unitWrite s2 c x.s[14] (if q.target = 0 then q.receiver else objectRecord s2 q.target) with
      | .ok s3 => s3
      | .error e => endBare s2 c idx x cDoubleFault e 0

/-- A context that has moved here resumes at the next slot; one sent back traps MIGRATE_FAULT at its MIGR (17 R358). -/
def startContext (s : State) (c idx : Nat) (x : Context) (back : Bool) : State :=
  let x0 : Strand :=
    { freshStrand with
      s := x.s, checks := Checks.reset.restored x.s, k := x.k, pc := x.pc, l0 := x.l0, l1 := x.l1, prio := x.prio, tm := x.tm, ss := x.ss, cancel := x.cancel
      slot := x.slot, frame := x.frame, role := x.role, wdStart := x.wdStart, wdFired := x.wdFired, hsync := x.hsync }
  if back then raise (s.setStrand c idx x0) c idx .t { code := cMigrate, eva := 0 } x.pc 0
  else
    let r := loopBack x0 x.pc
    let s1 := s.setStrand c idx { r.1 with pc := r.2.1, needTgt := r.2.2 }
    if x.ss then raise s1 c idx .n { code := cSingleStep, eva := 0 } r.2.1 0 else s1

/-- A stage's instance claims the oldest unclaimed slot and reserves an output slot (03 R90). -/
def slotWordOf (y : Stage) (n : Nat) : Word := BitVec.ofNat 72 (y.qbase + n % y.cap * y.slotsz)
def stageStart (s : State) (e : Nat × Nat × Nat × Nat) : Option (State × Start) :=
  (s.launch e.1 e.2.1).bind (fun l =>
    (l.stages[e.2.2.1]?).map (fun st =>
      let i := e.2.2.1
      let j := st.claimed
      let next := l.stages[i + 1]?
      let claim : Stage → Stage := fun y =>
        let y1 : Stage := { y with claimed := j + 1, stamps := smErase y.stamps j }
        stageSettle y1
      let reserve : Stage → Stage := fun y => { y with reserved := y.reserved + 1 }
      let l2 := (l.modStage i claim).modStage (i + 1) reserve
      let q : Start :=
        { Start.plain s.now with
          s8 := slotWordOf st j
          s9 := (next.map (fun y => slotWordOf y y.reserved)).getD 0
          s10 := BitVec.ofNat 72 i
          s11 := BitVec.ofNat 72 e.2.2.2
          s13 := BitVec.ofNat 72 l.core
          role := Role.stage e.1 e.2.1 i e.2.2.2 j (next.map (fun y => y.reserved))
          part := l.part }
      (s.setLaunch e.1 e.2.1 l2, q)))

/-- Take the head of a slot's queue, and restart its waiting time. -/
def takeStart (s : State) (c slot : Nat) (stage : Bool) : Option (State × Start) :=
  let r := smGet Routine.reset (s.core c).routines slot
  let r1 : Routine := { r with queue := if stage then r.queue else r.queue.drop 1, waited := 0, raised := false }
  let s1 := s.modCore c (fun co => { co with routines := smPut co.routines slot r1 })
  if stage then r.stage.bind (stageStart s1) else r.queue.head?.map (fun q => (s1, q))

/-- A core that selects and issues nothing. -/
def coreIdle (s : State) (c : Nat) : Bool :=
  let co := s.core c
  co.halt != .none || parkDue co || (s.cluster (clOf c)).gated

/-- The selector starts at most one strand (02 R68). -/
def execStrandSelect (core : Nat) (s : State) : Out :=
  if coreIdle s core then .next s
  else
    match bestCand (unheld s core), freeIdx (s.core core), freeFrame (s.core core) with
    | some d, some idx, some f =>
      if !contextFree s core then .next s
      else
        let s0 := match parkable s core with
          | some k =>
            if banked (s.core core) < 8 then s
            else
              (match s.strand core k with
                | some x => parkAt s core k x
                | none => s)
          | none => s
        (match takeStart s0 core d.slot d.stage with
          | none => .next s
          | some (s1, q) =>
            match q.ctx with
            | some x => .next (startContext s1 core idx x q.back)
            | none =>
              .next (startStrand s1 core idx f (BitVec.ofNat 5 d.slot)
                (smGet Routine.reset (s1.core core).routines d.slot) q))
    | _, _, _ => .next s

/-- A routine that has been ready for more than 4,096 cycles is raised one level (02 R68). -/
def execRoutinePromotion (core slot : Nat) (s : State) : Out :=
  let r := smGet Routine.reset (s.core core).routines slot
  let p := match r.queue.head? with
    | some h => (h.prio.getD r.prio).toNat
    | none => r.prio.toNat
  if promoteAfter < r.waited ∧ ¬ r.raised ∧ p < 2 then
    .next (s.modCore core (fun co => { co with routines := smPut co.routines slot { r with raised := true } }))
  else .next s

/-! ### Saving and restoring the contexts of a core (03 R102 to R104; 09 R196, R197) -/

/-- Masters that may pre-empt a core: the management agent and priority-3 routines of its partition. -/
def mayPreempt (s : State) (c : Nat) (id : Ident) : Bool := isManagement id || isSupervisorOf s c id
/-- The cluster block's access table admits a message or a write. -/
def blockAdmits (s : State) (cl : Nat) (id : Ident) (r : Right) : Bool := s.admits (cblockPa cl 0) false id r

/-- Every strand of a core that waits at a row barrier releases it with GANG_MISMATCH on every core (03 R102). -/
def releaseGangs (s : State) (c : Nat) : State :=
  if (barrierOf s c).waiting.any (fun m => m.1 == c) && !(barrierOf s c).opened then gangMismatch s c (fun _ => true) else s

/-- A strand takes its pending trap, unless it is the decode of 0xFF or waits for its loads (09 R179, R184). A cause of the
execute side is taken at the slot boundary that the strand has reached. -/
def takePending (c : Nat) (s : State) (k : Nat) : State :=
  match s.strand c k with
  | none => s
  | some x =>
    match x.pending with
    | none => s
    | some p =>
      if p.cause.code = cReservedFormat ∨ (p.cls = .v ∧ x.prog.isGather) then s
      else
        enterTrap s c k { x with wait := none, prog := if p.cls = .v then x.prog else .none }
          (if p.cls = .v then { p with epc := x.pc } else p)

/-- A slot that waits for loads, and not for an atomic, stands where it stood: they are made again (log 51). -/
def dropLoads (s : State) (c k : Nat) : State :=
  s.modStrand c k (fun x => match x.prog with
    | .gather _ xs _ _ =>
      if x.pending.any (fun p => p.cls == .v) && !xs.any (·.writes) then { x with prog := .none, wait := none } else x
    | _ => x)
/-- Bring every strand of a core to a precise slot boundary. A path that is confirmed is no longer speculative. -/
def quiesce (s : State) (c : Nat) : State :=
  let s1 := match (s.core c).spec with
    | some sp => if sp.confirmed then s else squashSpec s c sp ((s.strand c sp.strand).bind (·.contrib))
    | none => s
  let s2 := releaseGangs s1 c
  (liveStrands (s2.core c)).foldl (fun st p => takePending c (dropLoads st c p.1) p.1) s2

/-- Time spent saved does not count: waits and watchdogs keep what had passed, and then go on from it. -/
def freezeWait (now : Nat) (w : Option Wait) : Option Wait :=
  w.map (fun q => if q.kind = .queue ∨ q.kind = .gather then { q with since := now - q.since } else q)
def freezeTimes (now : Nat) (x : Strand) : Strand :=
  { x with wdStart := now - x.wdStart, wait := freezeWait now x.wait, ewait := freezeWait now x.ewait }

/-- What a save record holds beside the context: where the strand goes on, why, and its residue. -/
structure Saved where
  cause : Code
  epc : Word
  vpc : Word
  v : Bool
  deriving DecidableEq, Repr, Inhabited
def savedOf (x : Strand) (code : Code) : Saved :=
  match x.pending with
  | some p =>
    if p.cause.code = cReservedFormat then { cause := cReservedFormat, epc := p.epc, vpc := p.vpc, v := p.cls == .v }
    else { cause := code, epc := x.pc, vpc := 0, v := false }
  | none => { cause := code, epc := x.pc, vpc := 0, v := false }

/-- A context goes to its save record: the image, and the strand as it stands saved. -/
def saveImage (s : State) (c k : Nat) (x : Strand) (code : Code) : List Byte :=
  let v := savedOf x code
  recordBytes (s.core c) c k x { code := v.cause, eva := 0 } v.epc v.vpc (saveKey s k) s.turn.free
def saveStrand (s : State) (c k : Nat) (x : Strand) (code : Code) : State :=
  let v := savedOf x code
  let res : Residue :=
    { core := c, check := s.turn.free, v := v.v, seq := x.seq, capture := x.capture, bq := x.bq }
  let decoding := x.pending.any (fun p => p.cause.code == cReservedFormat)
  let x' := { freezeTimes s.now x with place := .saved, pending := if decoding then none else x.pending }
  (s.setStrand c k x').modCore c (fun co =>
    { co with residues := smPut co.residues (saveKey s k) (some res)
              tileStrand := co.tileStrand.filter (fun t => t.2 != some k) })

/-- Save record `k` of a core in the partition's save area: its cores' records one after another in ascending number
(DESIGN CHOICE, log 28); none beyond SAVESIZE. -/
def saveVa (s : State) (c k : Nat) : Option Word :=
  (s.cfg c).bind (fun cfg =>
    let ofs := 2048 * (32 * cfg.rank c + k)
    if ofs + 2048 ≤ cfg.savesize.toNat then some (space0 (cfg.savebase + BitVec.ofNat 64 ofs)) else none)
/-- Messages that wait in routine queues go to the spill queue, in the order of their arrival (03 R103). -/
def insertStart (x : Nat × Start) : List (Nat × Start) → List (Nat × Start)
  | [] => [x]
  | y :: t => if x.2.arrival < y.2.arrival then x :: y :: t else y :: insertStart x t
def divertQueues (s : State) (c : Nat) : State :=
  let all := (s.core c).routines.flatMap (fun r => r.2.queue.map (fun q => (r.1, q)))
  let s1 := s.modCore c (fun co =>
    { co with routines := co.routines.map (fun r => (r.1, { r.2 with queue := [], waited := 0, raised := false })) })
  (all.foldl (fun acc x => insertStart x acc) []).foldl (fun st x => divert st c (.start x.1 x.2)) s1
/-- A core that goes on: its spill queue is redelivered in order, before any later arrival (03 R104). -/
def redeliver (s : State) (c : Nat) : State :=
  (s.core c).diverted.foldl (fun st d => match d with
    | .start slot q => queueAt st c slot q
    | .mail m x => dispatchAtMailbox st c m x) (s.modCore c (fun co => { co with halt := .none, parkAct := 0, diverted := [] }))

/-- Pre-emption (03 R102): a fault of a save record's write fences the partition, and otherwise the requester is told. -/
def preempt (s : State) (c requester : Nat) : State :=
  let s1 := divertQueues ((quiesce s c).modCore c (fun co => { co with halt := .preempted requester })) c
  let ks := (liveStrands (s1.core c)).map (·.1)
  let save := fun (acc : State × Bool) (k : Nat) =>
    match acc.1.strand c k with
    | none => acc
    | some x =>
      match saveVa acc.1 c k with
      | none => (acc.1, true)
      | some va =>
        match unitWrite acc.1 c va (saveImage acc.1 c k x cPreempt) with
        | .error _ => (acc.1, true)
        | .ok st => (saveStrand st c k x cPreempt, acc.2)
  let r := ks.foldl save (s1, false)
  if r.2 then fencePartition r.1 (pkgOf c) (s1.core c).part
  else sendUnit r.1 c (.core requester) clsCTL (.preemptDone c)

/-- A request to a core that is pre-empted, parked or about to park, or that no partition holds, is ignored (DESIGN CHOICE, log
51). One to a core whose ganged operation has started waits until that has completed (03 R102). -/
def execPreemptRequest (core requester : Nat) (m : Master) (s : State) : Out :=
  let id : Ident := { part := m.part, cls := m.cls }
  let co := s.core core
  if co.halt != .none || parkDue co || !co.assigned || !mayPreempt s core id || gangRuns s core then .next s
  else if !blockAdmits s (clOf core) id .cmd then .next (s.countShepherd (clOf core) 0x10 1 (some id.part))
  else .next (preempt s core requester)

/-- Restore a strand from the bytes of its record (09 R186 to R188); an altered residue ends it as an error in core
state. -/
def restoreStrand (s : State) (c k : Nat) (b : List Byte) (va : Word) : State :=
  match s.strand c k with
  | none => s
  | some x0 =>
    let x := freezeTimes s.now x0
    let key := leVal ((b.drop 0x410).take 8)
    let good := match smGet none (s.core c).residues key with
      | some r => if r.core = c && (b.drop 0x400) == residueBytes r.check r.core key then some r else none
      | none => none
    match good with
    | none => endBare s c k x cMachineCheck 0 va
    | some r =>
      let epc := setBits x.pc 0 64 (leVal ((b.drop 0x100).take 8))
      let same := epc == x.pc
      let x1 := restoreRecord x b
      let vskip := bit (BitVec.ofNat 64 (leVal ((b.drop 0x1E0).take 8)) : DWord) 63
      let x2 := { x1 with
        pc := epc, seq := if r.v && vskip then seqPop r.seq else r.seq, capture := r.capture, bq := r.bq, needTgt := x.needTgt || !same
        prog := if same then x.prog else .none, wait := if same then x.wait else none }
      (s.setStrand c k x2).modCore c (fun co => { co with residues := smErase co.residues key })

/-- Resumption (03 R104). `read` gives each record's bytes, or none where it cannot be read. -/
def resumeCore (s : State) (c : Nat) (read : State → Nat → Option (List Byte × Word)) : State :=
  let ks := (liveStrands (s.core c)).map (·.1)
  let one := fun (acc : State × Bool) (k : Nat) =>
    match read acc.1 k with
    | some b => (restoreStrand acc.1 c k b.1 b.2, acc.2)
    | none => (acc.1, true)
  let r := ks.foldl one (s, false)
  if r.2 then fencePartition r.1 (pkgOf c) (s.core c).part
  else redeliver r.1 c

def readSave (c : Nat) (s : State) (k : Nat) : Option (List Byte × Word) :=
  (saveVa s c k).bind (fun va =>
    match devPa s (pkgOf c) (s.core c).part va false with
    | .ok pa => if (s.poisoned pa 2048).isSome then none else some (readBytes s pa 2048, va)
    | .error _ => none)
def readHard (c : Nat) (s : State) (k : Nat) : Option (List Byte × Word) :=
  if (s.poisoned (hardRecord c k) 2048).isSome then none
  else some (readBytes s (hardRecord c k) 2048, BitVec.ofNat 72 (hardRecord c k))

/-- A resume message: its sender needs the rights of one that pre-empts (DESIGN CHOICE, log 51). -/
def execResume (core : Nat) (m : Master) (s : State) : Out :=
  let id : Ident := { part := m.part, cls := m.cls }
  match (s.core core).halt with
  | .preempted _ =>
    if !mayPreempt s core id then .next s
    else if !blockAdmits s (clOf core) id .cmd then .next (s.countShepherd (clOf core) 0x10 1 (some id.part))
    else .next (resumeCore s core (readSave core))
  | _ => .next s

/-! ### Parking on a reserved format code (09 R196, R197) -/

/-- The strand that has decoded 0xFF. -/
def decodingStrand (co : Core) : Option Nat :=
  ((liveStrands co).find? (fun p => p.2.pending.any (fun q => q.cause.code == cReservedFormat))).map (·.1)

/-- The core parks. The message to its shepherd's mailbox carries the cause code in word 0 and zeros in the others (DESIGN CHOICE,
log 28). -/
def parkCore (s : State) (c k : Nat) : State :=
  let s1 := divertQueues ((quiesce s c).modCore c (fun co => { co with halt := .parked k })) c
  let ks := (liveStrands (s1.core c)).map (·.1)
  let save := fun (st : State) (j : Nat) =>
    match st.strand c j with
    | none => st
    | some x =>
      saveStrand (clearPoison (writeBytes st (hardRecord c j) (saveImage st c j x cPreempt)) (hardRecord c j) 2048) c j x
        cPreempt
  let s2 := ks.foldl save s1
  let part := (s.core c).part
  let lv := match s.strand c k with
    | some x => roleLevel s x.role
    | none => 0
  let s3 := s2.modCluster (clOf c) (fun x =>
    { x with shepherdMail := x.shepherdMail ++
        [{ args := [BitVec.ofNat 64 cReservedFormat.toNat, 0, 0, 0], s13 := BitVec.ofNat 72 c, part := part }] })
  let s4 := postEvent s3 (clOf c) (eventRecord 6 c 0 0 1)
  postFault (countDelivery s4 c cReservedFormat part) (pkgOf c)
    { cause := cReservedFormat, core := c, part := part, src := 2, strand := k, level := lv }

def execCorePark (core : Nat) (s : State) : Out :=
  match (s.core core).halt, decodingStrand (s.core core) with
  | .none, some k => .next (if gangRuns s core then s else parkCore s core k)
  | _, _ => .next s

/-- PARKACT is written by the shepherd core or the management agent (03 Table 3.6). -/
def mayParkact (s : State) (c : Nat) (id : Ident) : Bool :=
  (isManagement id || id.cls == 2) && blockAdmits s (clOf c) id .wr

/-- The action that a write of PARKACT has asked for, or that the event's master writes now. -/
def parkActs (s : State) (c : Nat) (m : Master) (act : BitVec 2) : Bool :=
  (s.core c).parkAct == act || mayParkact s c { part := m.part, cls := m.cls }
def execParkactRetry (core : Nat) (m : Master) (s : State) : Out :=
  match (s.core core).halt with
  | .parked _ =>
    if parkActs s core m 1 then .next (resumeCore s core (readHard core)) else .next s
  | _ => .next s
/-- The decoding strand ends as by END in trap mode; none while its staged commands find no room. -/
def execParkactEnd (core : Nat) (m : Master) (s : State) : Out :=
  match (s.core core).halt with
  | .parked k =>
    if !parkActs s core m 2 then .next s
    else
      (match s.strand core k with
        | none => .next (resumeCore s core (readHard core))
        | some x =>
          match endInTrap s core k { x with tm := true, cause := cReservedFormat } cReservedFormat with
          | some s1 => .next (resumeCore s1 core (readHard core))
          | none => .next s)
  | _ => .next s

/-! ### Traps, watchdog, machine check (09 R179, R198, R200) -/

def execTrapEntry (core idx : Nat) (s : State) : Out :=
  if (s.core core).halt != .none || parkDue (s.core core) then .next s else .next (takePending core s idx)

/-- The watchdog expires once for each count, and traps at the strand's next slot boundary. -/
def execStrandWatchdog (core idx : Nat) (s : State) : Out :=
  match s.strand core idx with
  | none => .next s
  | some x =>
    let lim := strandLimit s core
    if lim ≠ 0 ∧ (s.core core).halt = .none ∧ ¬ x.wdFired ∧ x.wdStart + lim < s.now then
      .next (s.setStrand core idx { x with wdPending := true, wdFired := true })
    else .next s

/-- Every strand whose state an uncorrectable error touches ends without a handler. -/
def machineCheck (s : State) (c : Nat) (touched : BitVec 32) : State :=
  (liveStrands (s.core c)).foldl (fun st p =>
    if bit touched p.1 then
      (match st.strand c p.1 with
        | some x => endBare st c p.1 x cMachineCheck 0 0
        | none => st)
    else st) s
def execMachineCheck (core : Nat) (touched : BitVec 32) (s : State) : Out := .next (machineCheck s core touched)

/-! ### Writes of control space (02 R67; 03 R106; 26 R481) -/

def controlStore (s : State) (m : Master) (pa : Nat) (bytes : List Byte) : Out :=
  match performAt s { part := m.part, cls := m.cls } (plainAccess pa 0 false 0 (.store bytes)) with
  | .ok s1 _ => .next s1
  | .fail s1 _ _ => .next s1
  | .refuse q => .refused (.controlWord q)

def execRoutineTableWrite (m : Master) (core slot : Nat) (bytes : List Byte) (s : State) : Out :=
  if slot < 32 ∧ (bytes.length = 8 ∨ bytes.length = 16) then
    controlStore s m (cblockPa (clOf core) (0x1000 + 0x200 * (core % 16) + 16 * slot)) bytes
  else .next s
/-- A SELECT word lies at a multiple of 16 in the counters of a core, a shepherd or a port group. -/
def isSelect (pa : Nat) : Bool :=
  match siteOf pa false with
  | .cblock _ o => decide (0x100000 ≤ o) && decide (o < 0x100480) && o % 16 == 0
  | .pblock _ o => decide (0x100000 ≤ o) && decide (o < 0x100A00) && decide (o % 0x200 < 0x100) && o % 16 == 0
  | _ => false
def execEventCounterSelectWrite (m : Master) (pa : Nat) (value : BitVec 64) (s : State) : Out :=
  if isSelect pa then controlStore s m pa (leBytes 8 value.toNat) else .next s
def execControlBlockWrite (m : Master) (pa : Nat) (value : BitVec 64) (s : State) : Out :=
  match siteOf pa false with
  | .cblock _ o => if o % 8 = 0 then controlStore s m pa (leBytes 8 value.toNat) else .next s
  | _ => .next s

/-! ### The bracken scanner (10 R218 to R223) -/

/-- Checks 3 to 10 of one slot: 0 where it passes. `tgt` reads the TGT bit of a slot of the page. -/
def scanSlot (line : List Byte) (va : Word) (i : Nat) (tgt : Word → Option Bool) : Nat :=
  let w := slotBits line i
  let f := Slot.unpack w
  let sp := (ones w + b2n (bit (lineWord line) (26 + i))) % 2 == 0
  let target := branchTarget va (tailOfs f) (tailTslot f)
  if !sp then 3
  else
    match decode i (sideBit line i) w with
    | .error .opcode => 4
    | .error .side => 5
    | .error .fields => 6
    | .error .guard => 7
    | .ok _ =>
      if f.form3 && decide (5 ≤ (tailTslot f).toNat) then 8
      else if f.form3 && tgt target == some false then 9
      else if f.shadow then
        if i = 0 then 10
        else
          let prev := slotBits line (i - 1)
          if w ^^^ prev != 1 <<< 85 || (Slot.unpack prev).shadow || tgtBit line i then 10 else 0
      else 0

/-- Checks 1 to 10 of a line: the code and the slot that fails, or 0. -/
def scanLine (line : List Byte) (va : Word) (tgt : Word → Option Bool) : Nat × Nat :=
  if bits (lineWord line) 0 15 ≠ 0 then (1, 0)
  else if ones (lineWord line) % 2 ≠ 0 then (2, 0)
  else
    match (List.range 5).find? (fun i => scanSlot line (va + BitVec.ofNat 72 i) i tgt != 0) with
    | some i => (scanSlot line (va + BitVec.ofNat 72 i) i tgt, i)
    | none => (0, 0)

inductive ScanEnd where
  | passed
  | failed (code : Nat) (pc : Word)
  | unread (s : State) (va : Word) (cause : Code)
  deriving DecidableEq, Repr, Inhabited

/-- Lines in ascending order from line `n`, `left` of them. -/
def scanLines (s : State) (l : Leaf) (base : Word) (id : Ident) (tgt : Word → Option Bool) : Nat → Nat → ScanEnd
  | _, 0 => .passed
  | n, left + 1 =>
    let va := base + BitVec.ofNat 72 (64 * n)
    let pa := l.pa va
    if !s.admits pa l.geom2 id .rd then .unread (s.countDenial pa id.part) va cDeny
    else if l.poison || (s.poisoned pa 64).isSome then .unread s va cPoison
    else if !(siteOf pa l.geom2).isMemory then .unread s va cDeny
    else
      match scanLine (readBytes s pa 64) va tgt with
      | (0, _) => scanLines s l base id tgt (n + 1) left
      | (code, i) => .failed code (va + BitVec.ofNat 72 i)

def scanResult (code : Nat) (va : Word) : BitVec 128 := BitVec.ofNat 128 (code * 2 ^ 64 + bits va 0 64)

/-- The scanner writes the leaf and invalidates it in every translation cache of the package. -/
def writeScan (s : State) (r : ScanReq) (code : Nat) : State :=
  let p := pkgOf r.core
  let lo := setBits (readD s r.leaf) 10 2 code
  let hi := readD s (r.leaf + 8)
  let hi' := if code = 1 then setBits hi 0 20 (sealOf (Config.sealKey p (s.pkg p).boots) r.leaf lo) else hi
  let s1 := writeD (writeD s r.leaf lo) (r.leaf + 8) hi'
  { s1 with cores := s1.cores.map (fun q =>
      if pkgOf q.1 = p then
        (q.1, { q.2 with tc := q.2.tc.filter (fun e => !(e.part == r.part && pageOf r.big e.va == pageOf r.big r.va)) })
      else q) }

/-- The end of a scan: the SCAN that has made the request, if it still waits, has its result word. -/
def endScan (s : State) (r : ScanReq) (w : BitVec 128) : State :=
  s.modStrand r.core r.strand (fun x => match x.prog with
    | .stage 1 t =>
      if x.wait.any (fun q => q.kind == .scan) && t == BitVec.ofNat 128 r.tag then { x with prog := .stage 2 w } else x
    | _ => x)

/-- One request. Check 9 reads the TGT bit of a target line as it stands, whether or not a read of that line would be denied or
find poison, of which the manual says nothing (DESIGN CHOICE, log 56). -/
def scanPage (s : State) (r : ScanReq) : State :=
  let lo := readD s r.leaf
  let hi := readD s (r.leaf + 8)
  let l : Leaf := { entry := r.leaf, lo := lo, hi := hi, big := r.big, passed := false }
  let was : Leaf := { l with lo := r.lo }
  let changed := eV lo != eV r.lo || l.x != was.x || l.w != was.w || ePpn lo != ePpn r.lo
  if !was.x then endScan s r (scanResult 13 0)
  else if was.w then endScan (writeScan s r 2) r (scanResult 11 0)
  else if changed then endScan s r (scanResult 12 0)
  else
    let size := if r.big then 28 else 16
    let base := setBits r.va 0 size 0
    let tgt := fun (t : Word) =>
      if pageOf r.big t == pageOf r.big base then some (tgtBit (readBytes s (l.pa (pcLine t)) 64) (pcSlot t)) else none
    match scanLines s l base { part := r.part, cls := 0xA } tgt 0 (2 ^ size / 64) with
    | .passed => endScan (writeScan s r 1) r (scanResult 0 0)
    | .failed code pc => endScan (writeScan s r 2) r (scanResult code pc)
    | .unread s1 va cause =>
      let lv := match s.strand r.core r.strand with
        | some x => roleLevel s x.role
        | none => 0
      endScan (postFault s1 (pkgOf r.core)
        { cause := cause, core := r.core, part := r.part, src := 0, strand := r.strand, va := va, level := lv }) r
        (scanResult 14 va)

/-- Requests are served in arrival order: the scanner reads the leaf of the next one as it begins. -/
def execBrackenScanComplete (cl : Nat) (s : State) : Out :=
  match (s.cluster cl).scans with
  | [] => .next s
  | r :: t =>
    let s1 := scanPage (s.modCluster cl (fun x => { x with scans := t })) r
    .next (s1.modCluster cl (fun x => { x with scans := scanHead s1 x.scans }))

end Sys2Proof.Machine
end

