-- ==== Sys2Proof/Machine/Tasks.lean ====
section
/-! DEFINITION. Row 0x16: tasks, decrements, launches, cancellation, phase tokens and the tile work queue (17 R360 to R369;
02 R72 to R76, R83, R84; 03 R85 to R92, R98 to R101). -/

namespace Sys2Proof.Machine

/-! ### Records that a strand reads and writes whole -/

/-- Whether an access to a record must wait: earlier accesses of the strand are on their way to another die, or one that it
follows is held. -/
def recordBusy (s : State) (a : Actor) (va : Word) (n : Nat) : Bool :=
  tileWaits a va.toNat n ||
  (match s.leafFor a.core va with
    | .leaf x =>
      let acc := mkAccess x va (.load n none)
      (homeDie acc.pa != dieOf a.core && strandKept s a.core a.k) || heldBySubByte s a.core acc || heldByAtomic s a acc
    | _ => false)
/-- A read of `n` bytes of a record aligned to `align`, as a load, which sees what its speculative path has stored. -/
def recordLoad (s : State) (a : Actor) (va : Word) (n align : Nat) : R (List Byte) :=
  if va.toNat % align ≠ 0 then trapAt s cMisaligned va
  else if recordBusy s a va n then stall s a .other
  else
    match strandLoadRaw s a.core (a.ident s) va n with
    | .error e => trapAt e.2 e.1 va
    | .ok b =>
      .ok (match s.leafFor a.core va with
        | .leaf x => overlay (specBuf s a) (x.pa va) b
        | _ => b)
/-- A write of a record, as a store whose target has acknowledged it. -/
def recordStore (s : State) (a : Actor) (va : Word) (bytes : List Byte) (align : Nat) : R State :=
  if va.toNat % align ≠ 0 then trapAt s cMisaligned va
  else if recordBusy s a va bytes.length then stall s a .other
  else
    match strandStoreRaw s a.core (a.ident s) va bytes with
    | .error e => trapAt e.2 e.1 va
    | .ok s1 => .ok s1
/-- Word `i` of an image. -/
def wordAt (b : List Byte) (i : Nat) : DWord := BitVec.ofNat 64 (leVal ((b.drop (8 * i)).take 8))

/-! ### TASK and TDEC (R361, R362) -/

/-- COUNT is 0: the record is released to its core, or dropped where its level is cancelled (03 R101, R107). -/
def releaseTask (s : State) (pa : Nat) : State :=
  let w := readD s pa
  let creator := bits w 32 22
  let part := (s.core creator).part
  let p := pkgOf creator
  let tgt := readD s (pa + 0x30)
  let level := readD s (pa + 0x38)
  if level ≠ 0 ∧ levelCancelled s p part level then finishLevelVa (freeTaskRecord s pa) p part level 1
  else
    let cl := (taskCluster pa).getD (levelCl pa)
    sendShepherd (setTaskState s pa 1) cl part (.core (bits tgt 5 22)) clsMSG
      (.taskRelease pa (readD s (pa + 8)) ((List.range 4).map (fun i => readD s (pa + 0x10 + 8 * i))) creator
        (tgt.extractLsb' 0 5) level)

/-- OUTSTANDING of the level at an address grows by one. -/
def joinLevel (s : State) (pa : Nat) : State :=
  let w := readD s pa
  writeD s pa (setBits w 0 32 (lvOut w + 1))

def execTask (f : TaskF) (s : State) : Out :=
  accessOp s f.g (fun a =>
    noSpec s a
      ((recordLoad s a (a.sr.get f.a) 64 64).bind (fun img =>
        let level := wordAt img 7
        let lw : R (Option (DWord × Nat)) :=
          if level = 0 then .ok none
          else
            (recordLoad s a (space0 level) 8 8).bind (fun b =>
              match devPa s (pkgOf a.core) (s.core a.core).part (space0 level) true with
              | .error e => trapAt s e (space0 level)
              | .ok pa => .ok (some (wordAt b 0, pa)))
        lw.bind (fun l =>
          match l with
          | some (w, _) =>
            if !lvRunning w then R.next (setS s a f.d 0) else
            (match freeTask s (clOf a.core) with
              | none => stall s a .task
              | some pa => R.next (taskFill s a f img l pa))
          | none =>
            match freeTask s (clOf a.core) with
            | none => stall s a .task
            | some pa => R.next (taskFill s a f img l pa)))))
where
  /-- Fill the record, count the child, release at COUNT 0. -/
  taskFill (s : State) (a : Actor) (f : TaskF) (img : List Byte) (l : Option (DWord × Nat)) (pa : Nat) : State :=
    let count := (maskOf a f.n).toNat
    let s1 := writeBytes s (pa + 8) ((img.drop 8).take 56)
    let s2 := writeD s1 pa (BitVec.ofNat 64 (a.core % 2 ^ 22 * 2 ^ 32 + count))
    let s3 := match l with
      | some (_, lp) => joinLevel s2 lp
      | none => s2
    let s4 := setS s3 a f.d (BitVec.ofNat 72 pa)
    if count = 0 then releaseTask s4 pa else s4

/-- Where TDEC's record goes, and its SOURCE. A reference beyond 64 bits lies in no cluster's vault: its record, whose TASK has 64
bits, carries ones. -/
def decTarget (c ref : Nat) : Nat × Nat :=
  match taskCluster ref with
  | some cl => (cl, 4)
  | none =>
    match siteOf ref false with
    | .share d _ => (clOf d, 7)
    | _ => (clOf c, 4)
def execTdec (f : TdecF) (s : State) : Out :=
  accessOp s f.g (fun a =>
    let dec := match f.n with
      | .s i => bits (a.sr.get i) 0 16
      | .imm v => v.toNat
    let ref := min (a.sr.get f.a).toNat (2 ^ 64 - 1)
    let t := decTarget a.core ref
    if dec = 0 then R.next s
    else R.next (sendHeld s a (.shepherd t.1) clsMSG (.event (eventRecord t.2 a.core 0 (BitVec.ofNat 64 ref) dec))))

/-! ### LAUNCH (R363; 03 R85 to R92) -/

structure LaunchDesc where
  entry : DWord
  level : DWord
  clumask : DWord
  units : Nat
  nstage : Nat
  prio : BitVec 2
  lkind : Nat
  arg0 : DWord
  arg1 : DWord
  mbox : DWord
  stages : DWord
def launchDesc (b : List Byte) : LaunchDesc :=
  let w := wordAt b 3
  { entry := wordAt b 0, level := wordAt b 1, clumask := wordAt b 2, units := bits w 32 32, nstage := bits w 28 4,
    prio := w.extractLsb' 26 2, lkind := bits w 23 3, arg0 := wordAt b 4, arg1 := wordAt b 5, mbox := wordAt b 6,
    stages := wordAt b 7 }

/-- Where an address lies, as a physical address. -/
def addressPa (s : State) (c : Nat) (va : Word) : Option Nat :=
  match s.walk (pkgOf c) (s.core c).part va with
  | .leaf x => some (x.pa va)
  | _ => none
def inDieVault (s : State) (c : Nat) (va : Word) : Bool :=
  match addressPa s c va with
  | some pa => (match siteOf pa false with
    | .share d _ => dieOf d == dieOf c
    | _ => false)
  | none => false
/-- A stage from its descriptor, or none where it breaks a limit of Table 3.2. -/
def stageOf (s : State) (c : Nat) (clumask : DWord) (b : List Byte) : Option Stage :=
  let h := wordAt b 0
  let q := wordAt b 1
  let w := wordAt b 2
  let cap := bits w 55 9
  let size := 16 * 2 ^ bits w 53 2
  let maxinst := bits w 37 11
  let mininst := bits w 26 11
  if h ≠ 0 ∧ 2 ≤ cap ∧ cap ≤ 256 ∧ 1 ≤ maxinst ∧ maxinst ≤ 16 * ones clumask ∧ 1 ≤ mininst ∧ mininst ≤ maxinst ∧
      q.toNat % (cap * size) = 0 ∧ inDieVault s c (space0 q) ∧
      inDieVault s c (space0 q + BitVec.ofNat 72 (cap * size - 1)) then
    some { handler := h, qbase := q.toNat, cap := cap, slotsz := size, maxinst := maxinst, mininst := mininst,
           reserved := 0, published := 0, claimed := 0, freed := 0, early := [], stamps := [], earlyFree := [], skipped := [],
           instances := [], nextInst := 0, lastEval := s.now }
  else none

/-- The cases of R86 but for the stage descriptors. -/
def launchRefused (s : State) (c : Nat) (d : LaunchDesc) : Bool :=
  decide (d.prio = 3) || decide (8 < d.nstage) ||
  (match d.lkind with
    | 0 =>
      d.clumask == 0 || d.level == 0 ||
      (if d.nstage = 0 then d.entry == 0 || d.units == 0 || d.mbox != 0 || d.stages != 0
       else d.entry != 0 || d.units != 0 || d.mbox == 0 || d.stages == 0)
    | 2 | 3 | 4 =>
      d.entry != 0 || d.clumask != 0 || d.units != 0 || d.nstage != 0 || d.prio != 0 || d.mbox != 0 || d.stages != 0 ||
      (d.lkind != 3 && d.arg0 != 0) ||
      !((addressPa s c (space0 d.level)).any (fun pa => ordinaryVault (clOf c) pa))
    | _ => true)

/-- The mailbox that an address names, bound to the pipeline's queue 0: its parked messages go there first (03 R89; 02 R71). Where
MBOX does not translate, or names no core's mailbox, the pipeline has no mailbox and nothing is raised (DESIGN CHOICE, log 29). -/
def bindPipeline (s : State) (c : Nat) (mbox : DWord) (cl n : Nat) (l : Launch) : State :=
  match addressPa s c (space0 mbox) with
  | none => s.setLaunch cl n l
  | some pa =>
    match siteOf pa false with
    | .mailbox mcl pos ofs =>
      if pos < 16 then
        let mc := mcl * 16 + pos
        let m := ofs / 4096
        let b := s.mailbox mc m
        let l' := { l with mbox := some (mc, m), mboxWait := b.parked }
        (setMailbox s mc m { bind := .pipeline cl n, parked := [] }).setLaunch cl n l'
      else s.setLaunch cl n l
    | _ => s.setLaunch cl n l

/-- The launch as its shepherd keeps it. -/
def newLaunch (s : State) (c : Nat) (d : LaunchDesc) (stages : List Stage) : Launch :=
  { part := (s.core c).part, level := d.level, core := c, entry := d.entry, clumask := d.clumask, prio := d.prio,
    arg0 := d.arg0, arg1 := d.arg1, units := if d.lkind = 0 then d.units else 0, nextUnit := 0, placed := [],
    stages := stages, mbox := none, mboxWait := [], kind := if d.lkind = 0 then 1 else BitVec.ofNat 3 d.lkind,
    done := false, fresh := d.lkind == 0 }

/-- The record's first word at the launch (02 R76; 03 R87, R92). -/
def levelWord (d : LaunchDesc) : DWord :=
  BitVec.ofNat 64 ((if d.lkind = 0 then 1 else d.lkind) * 2 ^ 61 + (if d.lkind = 0 ∧ d.nstage = 0 then d.units else 1))
def incParent (s : State) (c : Nat) (parent : DWord) : State :=
  match devPa s (pkgOf c) (s.core c).part (space0 parent) true with
  | .ok pa => if lvIsLevel (readD s pa) then joinLevel s pa else s
  | .error _ => s

/-- Stage descriptors of a launch that is not refused otherwise: none where one breaks a limit. A STAGES array that is not aligned
to 8 bytes, of which the manual says nothing, traps MISALIGNED (DESIGN CHOICE, log 41). -/
def loadStages (s : State) (a : Actor) (d : LaunchDesc) : Nat → R (Option (List Stage))
  | 0 => .ok (some [])
  | n + 1 =>
    (recordLoad s a (space0 d.stages + BitVec.ofNat 72 (32 * (d.nstage - (n + 1)))) 32 8).bind (fun b =>
      (loadStages s a d n).map (fun r =>
        match stageOf s a.core d.clumask b, r with
        | some st, some t => some (st :: t)
        | _, _ => none))

/-- Every word that LAUNCH stores can be stored, so that a cause leaves no effect. -/
def launchStores (s : State) (a : Actor) (d : LaunchDesc) (va : Word) (refused : Bool) : R Unit :=
  let lv := space0 d.level
  let words := [lv + 16] ++ (if refused then [] else [lv, lv + 24] ++ (if d.lkind = 0 then [] else [va + 0x28]))
  words.foldl (fun r w => r.bind (fun _ => (recordStore s a w (List.replicate 8 0) 8).map (fun _ => ()))) (.ok ())

def execLaunch (f : DstReg) (s : State) : Out :=
  accessOp s f.g (fun a =>
    noSpec s a
      (let va := a.sr.get f.a
       (recordLoad s a va 64 64).bind (fun b =>
         let d := launchDesc b
         let early := launchRefused s a.core d
         (if early then .ok (some []) else loadStages s a d d.nstage).bind (fun sts =>
           let refused := early || sts.isNone
           let lv := space0 d.level
           (recordLoad s a (lv + 8) 8 8).bind (fun pb =>
             (launchStores s a d va refused).bind (fun _ =>
               match takeSlot s a.core a.core with
               | none => trapAt s cAnswerFull 0
               | some (ans, s0) =>
                 (recordStore s0 a (lv + 16) (leBytes 8 ans.toNat) 8).bind (fun s1 =>
                   if refused then
                     R.next (setReg (strandNotice s1 a ans (ansBroken cInvokeDenied a.core)) a f.d (zext72 ans))
                   else
                     (recordStore s1 a lv (leBytes 8 (levelWord d).toNat) 8).bind (fun s2 =>
                       (recordStore s2 a (lv + 24)
                         (leBytes 8 (if d.lkind = 3 then bits d.arg0 0 16 else 0)) 8).bind (fun s3 =>
                         let lpa := (addressPa s a.core lv).getD 0
                         let ref : R State :=
                           if d.lkind = 0 then .ok s3 else recordStore s3 a (va + 0x28) (leBytes 8 lpa) 8
                         ref.bind (fun s4 =>
                           let parent := wordAt pb 0
                           let s4' := clearCanceller s4 lpa
                           let s5 := if parent = 0 then s4' else incParent s4' a.core parent
                           let cl := clOf a.core
                           let n := (s5.cluster cl).nextLaunch
                           let s6 := s5.modCluster cl (fun x => { x with nextLaunch := n + 1 })
                           let l := newLaunch s6 a.core d (sts.getD [])
                           let s7 :=
                             if d.nstage = 0 then s6.setLaunch cl n l else bindPipeline s6 a.core d.mbox cl n l
                           R.next (setReg s7 a f.d (zext72 ans))))))))))))

/-! ### CANCEL and TESTC (R364, R365) -/

/-- The level's record says cancelling, and its cluster keeps who cancelled it; CANCEL_AT_SHEPHERD does the rest. -/
def execCancel (f : RegF) (s : State) : Out :=
  accessOp s f.g (fun a =>
    noSpec s a
      (let va := a.sr.get f.a
       (recordLoad s a va 8 8).bind (fun b =>
         let w := wordAt b 0
         if !lvRunning w then R.next s
         else
           (recordStore s a va (leBytes 8 (setBits w 59 2 1).toNat) 8).bind (fun s1 =>
             match strandLeaf s a.core true va true false false with
             | .error _ => R.next s1
             | .ok x =>
               let pa := x.pa va
               R.next (setCanceller s1 pa a.core)))))
def execTestc (f : TestcF) (s : State) : Out :=
  accessOp s f.g (fun a => R.next (setK s a f.d (if a.x.cancel then 0xFFFF else 0)))

/-! ### PHTOK and PHWAIT (R366, R367; 02 R75) -/

def execPhtok (f : RegD) (s : State) : Out :=
  accessOp s f.g (fun a =>
    let va := a.sr.get f.a
    if bits va 53 11 ≠ 0 then trapAt s cMisaligned va
    else
      (recordLoad s a va 8 32).bind (fun b =>
        let w := wordAt b 0
        let tok : Word := if lvKind w = 3 then BitVec.ofNat 72 (bits va 5 48 * 2 ^ 16 + (lvPhase w).toNat) else 0
        R.next (setS s a f.d tok)))

/-- The record that a token names, in the program counter's space. -/
def tokenVa (a : Actor) (tok : DWord) : Word :=
  BitVec.ofNat 72 (bits a.pc 64 8 * 2 ^ 64 + bits tok 16 48 * 32)
def execPhwait (f : PhwaitF) (s : State) : Out :=
  accessOp s f.g (fun a =>
    noSpec s a
      (let tok := low64 (a.sr.get f.a)
       let va := tokenVa a tok
       (recordLoad s a va 8 8).bind (fun b =>
         let w := wordAt b 0
         let d := (lvPhase w - tok.extractLsb' 0 16).toNat
         if lvKind w ≠ 3 then R.next (setReg s a f.d 2)
         else if 32768 < d then trapAt s cPhaseFuture 0
         else if d = 0 then
           match freeTask s (clOf a.core), strandLeaf s a.core true va true false false with
           | some pa, .ok x =>
             let pc := branchTarget a.pc f.ofs f.tslot
             let s1 := fillContinuation s pa a.core pc a.x.slot
             let wt : Waiter := { core := a.core, task := pa, pc := pc, slot := a.x.slot, token := tok }
             let s2 := s1.modCluster (levelCl (x.pa va)) (fun c =>
               { c with phaseWait := c.phaseWait ++ [(x.pa va, lvPhase w, wt)] })
             R.next (setReg s2 a f.d 0)
           | _, _ => stall s a .task
         else R.next (setReg s a f.d (if d = 1 then 1 else 2)))))

/-! ### The tile work queue (R368, R369) -/

def execTqcfg (f : RegF) (s : State) : Out :=
  accessOp s f.g (fun a =>
    noSpec s a
      ((recordLoad s a (a.sr.get f.a) 16 16).bind (fun b =>
        let n := fun (i len : Nat) => leVal ((b.drop i).take len)
        if n 0 4 = 0 ∨ n 4 4 = 0 ∨ n 8 2 = 0 ∨ n 10 2 = 0 ∨ 2 < n 12 1 ∨ n 13 3 ≠ 0 then trapAt s cTileQueue 0
        else
          R.next (s.modCluster (clOf a.core) (fun c =>
            { c with tq :=
              { configured := true, rows := BitVec.ofNat 32 (n 0 4), cols := BitVec.ofNat 32 (n 4 4)
                srows := BitVec.ofNat 16 (n 8 2), scols := BitVec.ofNat 16 (n 10 2), rule := BitVec.ofNat 8 (n 12 1)
                claims := 0 } })))))

/-- A claim: ROW0, COL0, ROWS, COLS; none when no sub-tile remains. -/
def tileClaim (q : TileQueue) : Option (Nat × Nat × Nat × Nat) :=
  let rows := q.rows.toNat
  let cols := q.cols.toNat
  let sr := q.srows.toNat
  let sc := q.scols.toNat
  let nr := if q.rule = 2 then max 1 (rows / sr) else (rows + sr - 1) / sr
  let nc := if q.rule = 2 then max 1 (cols / sc) else (cols + sc - 1) / sc
  if nr * nc ≤ q.claims then none
  else
    let r := q.claims / nc
    let k := q.claims % nc
    let row0 := r * sr
    let col0 := k * sc
    let h := if q.rule = 0 then min sr (rows - row0) else if q.rule = 2 ∧ r + 1 = nr then rows - row0 else sr
    let w := if q.rule = 0 then min sc (cols - col0) else if q.rule = 2 ∧ k + 1 = nc then cols - col0 else sc
    some (row0, col0, h, w)
def execTnext (f : RegD) (s : State) : Out :=
  accessOp s f.g (fun a =>
    noSpec s a
      (let cl := clOf a.core
       let q := (s.cluster cl).tq
       if !q.configured then trapAt s cTileQueue 0
       else
         match tileClaim q with
         | none => R.next (setK (setS (setS s a f.d 0) a f.a 0) a 7 0xFFFF)
         | some (r0, c0, h, w) =>
           let s1 := s.modCluster cl (fun c => { c with tq := { q with claims := q.claims + 1 } })
           R.next (setK (setS (setS s1 a f.d (BitVec.ofNat 72 (r0 * 2 ^ 32 + c0))) a f.a (BitVec.ofNat 72 (h * 2 ^ 32 + w)))
             a 7 0)))

end Sys2Proof.Machine
end

