-- ==== Sys2Proof/Machine/Shepherd.lean ====
section
/-! DEFINITION. Events of the shepherd cores: event records (03 R99 to R101; 17 R362), cancellation (02 R74; 04 R107),
distribution of launches and pipelines (03 R85 to R96), power gating (03 R97). -/

namespace Sys2Proof.Machine

/-! ### The event queue (03 R99, R100) -/

/-- Take the first record that may be delivered to the shepherd into its queue. -/
def collectEvents (s : State) (cl : Nat) : State :=
  let mine := fun (i : Nat) => match s.net[i]? with
    | some f => f.dst == .shepherd cl && deliverable s i f && (match f.msg with
      | .event _ => true
      | _ => false)
    | none => false
  match (List.range s.net.length).find? mine with
  | none => s
  | some i =>
    deliver s i (fun st f => match f.msg with
      | .event b => if eventRoom st cl then some (postEvent st cl b) else none
      | _ => none)

structure EventRec where
  source : Nat
  core : Nat
  word : DWord
  task : DWord
  dec : Nat
  deriving DecidableEq, Repr, Inhabited
def eventOf (b : List Byte) : EventRec :=
  { source := bits (wordAt b 0) 60 4, core := bits (wordAt b 0) 38 22, word := wordAt b 1, task := wordAt b 2
    dec := bits (wordAt b 3) 0 16 }

/-- Process the head of the queue when its SOURCE is one of a row's. A poisoned record fences the cluster's partition (26 R479). -/
def shepherdEvent (s : State) (cl : Nat) (mine : EventRec → Bool) (act : State → EventRec → State) : Out :=
  let s1 := collectEvents s cl
  match headEvent s1 cl with
  | none => .next s1
  | some b =>
    if (s1.poisoned (eventPa cl (s1.cluster cl).evHead) 32).isSome then .next (fencePartition s1 (cl / 256) (s1.core (cl * 16)).part)
    else if mine (eventOf b) then .next (act (popEvent s1 cl) (eventOf b))
    else .next s1

/-- A decrement of the task record at an address (R100, R101). -/
def decTask (s : State) (cl : Nat) (e : EventRec) : State :=
  let pa := e.task.toNat
  let part := (s.core e.core).part
  if e.task = 0 ∧ e.source < 4 then s
  else if taskCluster pa ≠ some cl ∨ bits (readD s pa) 62 2 ≠ 0 ∨ taskFree s pa then s.countShepherd cl 0x22 1 (some part)
  else if e.source < 4 ∧ bits e.word 26 6 ≠ 0 then s
  else
    let w := readD s pa
    let count := bits w 0 32
    let s1 := if count < e.dec then s.countShepherd cl 0x21 1 (some part) else s
    let s2 := writeD s1 pa (setBits w 0 32 (count - e.dec))
    if count ≤ e.dec then releaseTask s2 pa else s2
def execEventRecordTaskDecrement (cl : Nat) (s : State) : Out :=
  shepherdEvent s cl (fun e => e.source < 6) (fun st e => decTask st cl e)

/-- The launch of the level at an address that a shepherd manages. -/
def managedLevel (s : State) (cl pa : Nat) : Option Launch :=
  (s.cluster cl).launches.findSome? (fun l => l.2.bind (fun x =>
    match devPa s (cl / 256) x.part (space0 x.level) false with
    | .ok lp => if lp = pa then some x else none
    | .error _ => none))
/-- A decrement of a level's OUTSTANDING: by TDEC, of a graph, phase or job level that this shepherd manages in ordinary
vault memory of its cluster (17 R362); by a shepherd, of the parent of a level that is done (02 R76). A poisoned record fences
its partition (26 R477, R479). -/
def decLevel (s : State) (cl : Nat) (e : EventRec) : State :=
  let pa := e.task.toNat
  let l := managedLevel s cl pa
  let part := (l.map (·.part)).getD (s.core e.core).part
  let kind := lvKind (readD s pa)
  let named := l.isSome && ordinaryVault cl pa && decide (2 ≤ kind) && decide (kind ≤ 4)
  if e.word = 1 ∨ named then
    if (s.poisoned pa 32).isSome then fencePartition s (cl / 256) part else finishChildren s (cl / 256) part pa e.dec
  else s.countShepherd cl 0x22 1 (some part)
def execEventRecordLevelDecrement (cl : Nat) (s : State) : Out :=
  shepherdEvent s cl (fun e => e.source == 7) (fun st e => decLevel st cl e)
/-- A parked core's notice names no task. -/
def execEventRecordFaultNotice (cl : Nat) (s : State) : Out :=
  shepherdEvent s cl (fun e => e.source == 6) (fun st _ => st)

/-! ### Cancellation (02 R74; 04 R107) -/

def levelCanceller (s : State) (cl : Nat) (part : BitVec 6) (level : DWord) : Option Nat :=
  cancelledBy s (cl / 256) part level levelDepth

/-- STATE cancelling in the record of a level below a cancelled one. -/
def markCancelling (s : State) (cl who : Nat) (l : Launch) : State :=
  match devPa s (cl / 256) l.part (space0 l.level) false with
  | .error _ => s
  | .ok pa =>
    let w := readD s pa
    if lvRunning w then
      setCanceller (writeD s pa (setBits w 59 2 1)) pa who
    else s

/-- STATUS.CANCEL in a strand below, with the break of the answer it holds. -/
def cancelStrand (who c k : Nat) (s : State) : State :=
  match s.strand c k with
  | none => s
  | some x =>
    if x.cancel then s
    else
      let s1 := match pendingAnswer x with
        | some h => sendNotice s c (noticeIdent s c) h (ansBroken cCancelled who) true
        | none => s
      s1.setStrand c k { x with cancel := true }
def cancelStrands (s : State) (who : Nat) (below : Role → Bool) : State :=
  s.cores.foldl (fun st q => (liveStrands q.2).foldl (fun st2 p =>
    if below p.2.role then cancelStrand who q.1 p.1 st2 else st2) st) s

/-- Units of a launch that wait in routine queues. -/
def queuedUnits (co : Core) (mine : Role → Bool) : Nat :=
  (co.routines.map (fun r => (r.2.queue.filter (fun q => mine q.role)).length)).sum +
    (co.divertedStarts.filter (fun q => mine q.role)).length
def dropUnits (mine : Role → Bool) (co : Core) : Core :=
  { co with
    routines := co.routines.map (fun r => (r.1, { r.2 with queue := r.2.queue.filter (fun q => !mine q.role) }))
    diverted := co.diverted.filter (fun d => !(d.start?.any (fun q => mine q.role))) }
/-- Every filled, unclaimed slot is discarded (03 R92). -/
def discardSlots (st : Stage) : Stage :=
  let js := (List.range (st.published - st.claimed)).map (fun i => st.claimed + i)
  js.foldl stageFree { st with claimed := st.published, skipped := [], stamps := [] }

def isUnit (cl n : Nat) : Role → Bool
  | .unit a b => a == cl && b == n
  | _ => false
def isOfLaunch (cl n : Nat) : Role → Bool
  | .unit a b => a == cl && b == n
  | .stage a b _ _ _ _ => a == cl && b == n
  | _ => false

/-- What a cancellation by the core `x.2` does to launch `x.1`, which the shepherd manages. -/
def cancelLaunch (cl : Nat) (s : State) (x : Nat × Nat) : State :=
  match s.launch cl x.1 with
  | none => s
  | some l =>
    let mine := isUnit cl x.1
    let s1 := markCancelling s cl x.2 l
    let waiting : Nat := (s1.cores.map (fun q => queuedUnits q.2 mine)).sum
    let undealt := if l.fresh then l.units else 0
    let s2 : State := { s1 with cores := s1.cores.map (fun q => (q.1, dropUnits mine q.2)) }
    let s3 := s2.setLaunch cl x.1 { l with fresh := l.fresh && !l.stages.isEmpty, stages := l.stages.map discardSlots }
    let s4 := cancelStrands s3 x.2 (isOfLaunch cl x.1)
    if waiting + undealt = 0 then s4 else finishLevelVa s4 (cl / 256) l.part l.level (waiting + undealt)
/-- The launches at or below a cancelled level that are not done, each with the core that cancelled. -/
def launchesToCancel (s : State) (cl : Nat) : List (Nat × Nat) :=
  (s.cluster cl).launches.filterMap (fun q => q.2.bind (fun l =>
    if l.done then none else (levelCanceller s cl l.part l.level).map (fun who => (q.1, who))))

/-- A task record's creator's partition, and its LEVEL. -/
def taskPart (s : State) (pa : Nat) : BitVec 6 := (s.core (bits (readD s pa) 32 22)).part
def taskLevel (s : State) (pa : Nat) : DWord := readD s (pa + 0x38)
/-- A waiting task is dropped, as a finish in its level (04 R107). -/
def dropTask (cl : Nat) (s : State) (pa : Nat) : State :=
  finishLevelVa (freeTaskRecord s pa) (cl / 256) (taskPart s pa) (taskLevel s pa) 1
/-- The waiting tasks of the cluster's area below a cancelled level. -/
def tasksToDrop (s : State) (cl : Nat) : List Nat :=
  ((List.range 768).map (taskPa cl)).filter (fun pa =>
    bits (readD s pa) 62 2 == 0 && !taskFree s pa && taskLevel s pa != 0 &&
      levelCancelled s (cl / 256) (taskPart s pa) (taskLevel s pa))
/-- The strands of tasks of the cluster's area below a cancelled level: core, strand, and the core that cancelled. -/
def taskStrandsToCancel (s : State) (cl : Nat) : List (Nat × Nat × Nat) :=
  s.cores.flatMap (fun q => (liveStrands q.2).filterMap (fun p =>
    match p.2.role with
    | .task a level => if a = cl then (levelCanceller s cl q.2.part level).map (fun who => (q.1, p.1, who)) else none
    | _ => none))

/-- What CANCEL has marked reaches the launches, tasks and strands that the shepherd manages: which they are is read before any
is dropped, since a drop can make a level done. -/
def execCancelAtShepherd (cl : Nat) (s : State) : Out :=
  let s1 := (launchesToCancel s cl).foldl (cancelLaunch cl) s
  let s2 := (tasksToDrop s cl).foldl (dropTask cl) s1
  .next ((taskStrandsToCancel s cl).foldl (fun st x => cancelStrand x.2.2 x.1 x.2.1 st) s2)

/-! ### Placement (03 R87, R95, R96) -/

/-- Cores of a launch's partition in the CLUMASK clusters of the home die, in ascending number, that are not halted. -/
def eligible (s : State) (cl : Nat) (l : Launch) : List Nat :=
  let d := cl / 64
  ((List.range 64).filter (fun i => bit l.clumask i)).flatMap (fun i =>
    ((List.range 16).map (fun n => (d * 64 + i) * 16 + n)).filter (fun c =>
      let co := s.core c
      co.assigned && co.part == l.part && co.halt == .none))
/-- The lowest unbound routine slot (log 29). -/
def unboundSlot (co : Core) : Option Nat :=
  (List.range 32).find? (fun i =>
    let r := smGet Routine.reset co.routines i
    r.handler == 0 && r.stage.isNone && r.queue.isEmpty)

def holdsLaunch (s : State) (cl n q : Nat) : Bool :=
  (List.range 16).any (fun i =>
    let co := s.core (q * 16 + i)
    co.routines.any (fun r => r.2.stage.any (fun e => e.1 == cl && e.2.1 == n) || r.2.queue.any (fun x => isUnit cl n x.role)) ||
      (liveStrands co).any (fun p => isOfLaunch cl n p.2.role))
/-- R96, for a launch that is being placed on the cores `placed`. -/
def placeCost (s : State) (cl n : Nat) (placed : List Nat) (c : Nat) : Nat :=
  (if (s.cluster (clOf c)).gated then 7200 else 0) +
    (if holdsLaunch s cl n (clOf c) || placed.any (fun p => clOf p == clOf c) then 0 else 1024) +
    64 * (liveStrands (s.core c)).length
def cheapest (s : State) (cl n : Nat) (placed l : List Nat) : Option Nat :=
  l.foldl (fun acc c => match acc with
    | none => some c
    | some b => if placeCost s cl n placed c < placeCost s cl n placed b then some c else some b) none
/-- Up to `k` placements of units, each on the cheapest core that is left. -/
def placeUnits (s : State) (cl n : Nat) : Nat → List Nat → List Nat → List Nat
  | 0, placed, _ => placed
  | k + 1, placed, free =>
    match cheapest s cl n placed free with
    | none => placed
    | some c => placeUnits s cl n k (placed ++ [c]) (free.erase c)

/-- Add one instance of a stage; where none can be placed, the addition is counted (R95). -/
def addInstance (s : State) (cl n i : Nat) : State :=
  match s.launch cl n with
  | none => s
  | some l =>
    match l.stages[i]? with
    | none => s
    | some st =>
      let ok := fun (c : Nat) => (unboundSlot (s.core c)).isSome && !st.instances.any (fun e => e.1 == c)
      match cheapest s cl n [] ((eligible s cl l).filter ok) with
      | none => s.countShepherd cl 0x20 1 (some l.part)
      | some c =>
        let slot := (unboundSlot (s.core c)).getD 0
        let inst := st.nextInst
        let r : Routine :=
          { Routine.reset with
            handler := st.handler, prio := l.prio, nextHi := routineTail l.prio false, stage := some (cl, n, i, inst) }
        let s1 := s.modCore c (fun co => { co with routines := smPut co.routines slot r })
        s1.setLaunch cl n (l.modStage i (fun y =>
          { y with instances := y.instances ++ [(c, slot, inst, false)], nextInst := inst + 1 }))

/-! ### Launches (03 R87, R93) -/

/-- One unit in its core's queue. -/
def queueUnit (cl n : Nat) (l : Launch) (placed : List (Nat × Nat)) (s : State) (u : Nat) : State :=
  let e := placed.getD (u % placed.length) (0, 0)
  queueStart s e.1 (BitVec.ofNat 5 e.2)
    { Start.plain s.now with
      prio := some l.prio, s8 := BitVec.ofNat 72 u, s9 := zext72 l.arg0, s10 := zext72 l.arg1
      s13 := BitVec.ofNat 72 l.core, role := .unit cl n, part := l.part }
/-- Bind ENTRY to a slot with CONC set. -/
def bindUnit (l : Launch) (s : State) (e : Nat × Nat) : State :=
  let r : Routine :=
    { Routine.reset with handler := l.entry, prio := l.prio, conc := true, nextHi := routineTail l.prio true }
  s.modCore e.1 (fun co => { co with routines := smPut co.routines e.2 r })

/-- The units of a launch are dealt over as many cores as there are units, or over every eligible core with an unbound slot where
there are fewer (DESIGN CHOICE of how many cores, log 29), chosen one by one by R96, in ascending core number. A pipeline's stages
receive MININST instances each. -/
def distribute (s : State) (cl n : Nat) (l : Launch) : State :=
  if l.stages.isEmpty then
    let open_ := (eligible s cl l).filter (fun c => (unboundSlot (s.core c)).isSome)
    let chosen := placeUnits s cl n (min l.units open_.length) [] open_
    let placed := (open_.filter chosen.contains).map (fun c => (c, (unboundSlot (s.core c)).getD 0))
    if placed.isEmpty then s
    else
      let s1 := (placed.foldl (bindUnit l) s).setLaunch cl n { l with fresh := false, placed := placed, nextUnit := l.units }
      (List.range l.units).foldl (queueUnit cl n l placed) s1
  else
    let s1 := s.setLaunch cl n { l with fresh := false }
    (List.range l.stages.length).foldl (fun st i =>
      (List.range ((l.stages[i]?).map (·.mininst) |>.getD 0)).foldl (fun st2 _ => addInstance st2 cl n i) st) s1

/-- The oldest launch that has not been distributed. -/
def execLaunchDistribute (cl : Nat) (s : State) : Out :=
  let fresh := (s.cluster cl).launches.find? (fun q => q.2.any (·.fresh))
  match fresh with
  | some (n, some l) => .next (distribute s cl n l)
  | _ => .next s

/-! ### Pipelines (03 R89 to R95) -/

/-- The oldest waiting message fills the next slot of queue 0, cut to the slot's size. -/
def execPipelineMessageEnqueue (cl n : Nat) (s : State) : Out :=
  match s.launch cl n with
  | none => .next s
  | some l =>
    match l.mboxWait, l.stages.head? with
    | m :: t, some st =>
      if st.free = 0 then .next s
      else
        let bytes := (m.args.flatMap (fun (w : DWord) => leBytes 8 w.toNat)).take st.slotsz
        let s1 := match devWrite s (cl / 256) l.part (slotWordOf st st.reserved) bytes with
          | .ok x => x
          | .error _ => s
        let s2 := match l.mbox with
          | some (c, _) => if st.slotsz < 32 then s1.countCore c 0x13 1 (some l.part) else s1
          | none => s1
        let fill : Stage → Stage := fun y => stageFinish s.now { y with reserved := y.reserved + 1 } y.reserved true
        .next (s2.setLaunch cl n ({ l with mboxWait := t }.modStage 0 fill))
    | _, _ => .next s

def Stage.isEmpty (st : Stage) : Bool := st.reserved == st.freed
/-- The pipeline drains. -/
def execPipelineDrain (cl n : Nat) (s : State) : Out :=
  match s.launch cl n with
  | none => .next s
  | some l =>
    let bound := match l.mbox with
      | some (c, m) => (s.mailbox c m).bind == .pipeline cl n
      | none => false
    if l.stages.isEmpty || l.fresh || l.done || bound || !l.mboxWait.isEmpty || !l.stages.all (·.isEmpty) then .next s
    else
      let s1 := (l.stages.flatMap (·.instances)).foldl unbindInstance s
      let s2 := s1.setLaunch cl n
        { l with done := true, stages := l.stages.map (fun st => { st with instances := [] }) }
      .next (finishLevelVa s2 (cl / 256) l.part l.level 1)

/-- Slots of a queue that are filled: not freed, not skipped. -/
def Stage.occupied (st : Stage) : Nat := st.published - st.freed - st.earlyFree.length - st.skipped.length
/-- Free, unreserved slots of a queue, wherever they lie in it: freed ones, and skipped ones, whose reservation is released (03 R91,
R93). -/
def Stage.freeSpace (st : Stage) : Nat :=
  st.cap - (st.reserved - st.freed - st.earlyFree.length - st.skipped.length - (st.early.filter (fun e => !e.2)).length)
def evalEvery : Nat := 1024
/-- Choose the newest instance for removal: an idle one is unbound at once (R94; log 29). -/
def removeInstance (s : State) (cl n i : Nat) (l : Launch) (st : Stage) : State :=
  match (st.instances.filter (fun e => !e.2.2.2)).getLast? with
  | none => s
  | some e =>
    let busy := s.cores.any (fun q => (liveStrands q.2).any (fun p => match p.2.role with
      | .stage a b j inst _ _ => a == cl && b == n && j == i && inst == e.2.2.1
      | _ => false))
    if busy then
      s.setLaunch cl n (l.modStage i (fun y =>
        { y with instances := y.instances.map (fun q => if q = e then (q.1, q.2.1, q.2.2.1, true) else q) }))
    else
      (unbindInstance s e).setLaunch cl n (l.modStage i (fun y => { y with instances := y.instances.filter (· != e) }))

def execDistributorEvaluation (cl n stage : Nat) (s : State) : Out :=
  match s.launch cl n with
  | none => .next s
  | some l =>
    match l.stages[stage]? with
    | none => .next s
    | some st =>
      if l.fresh || l.done || decide (s.now < st.lastEval + evalEvery) then .next s
      else
        let l1 := l.modStage stage (fun y => { y with lastEval := s.now })
        let s1 := s.setLaunch cl n l1
        let room : Bool := match l.stages[stage + 1]? with
          | some nx => decide (nx.cap < 4 * nx.freeSpace)
          | none => true
        let stay := (st.instances.filter (fun e => !e.2.2.2)).length
        if decide (3 * st.cap < 4 * st.occupied) && room && decide (st.instances.length < st.maxinst) then .next (addInstance s1 cl n stage)
        else if decide (8 * st.occupied < st.cap) && decide (st.mininst < stay) then .next (removeInstance s1 cl n stage l1 st)
        else .next s1

/-! ### Power gating (03 R97) -/

def gateAfter : Nat := 90000
def wakeTime : Nat := 7200
def execClusterPowerGate (cl : Nat) (s : State) : Out :=
  let x := s.cluster cl
  if !x.gated && !x.nogate && clusterIdle s cl && decide (x.idleSince + gateAfter ≤ s.now) then
    .next (s.setCluster cl { x with gated := true, wakeDue := none })
  else .next s
/-- A gated cluster for which something waits begins to wake, and is awake 7,200 cycles later. -/
def execClusterWake (cl : Nat) (s : State) : Out :=
  let x := s.cluster cl
  match x.wakeDue with
  | some t =>
    if x.gated && decide (t ≤ s.now) then
      .next (s.setCluster cl { x with gated := false, wakeDue := none, idleSince := s.now })
    else .next s
  | none =>
    if x.gated && (x.nogate || !clusterIdle s cl) then .next (s.setCluster cl { x with wakeDue := some (s.now + wakeTime) })
    else .next s

end Sys2Proof.Machine
end

