-- ==== Sys2Proof/Machine/Strikes.lean ====
section
/-! DEFINITION. Events of strikes, check codes and poison (26 R469 to R479). A report discards and recomputes results younger
than the horizon, none of which has left its unit, so a step sees only its count and its rate (log 10). -/

namespace Sys2Proof.Machine

/-- The reports of a unit in the last 1,024 cycles, this one included. -/
def recentReports (now : Nat) (ts : List Nat) : List Nat := ts.filter (fun t => decide (now < t + Config.strikeWindow)) ++ [now]
/-- The partition that a cluster belongs to. -/
def clusterPart (s : State) (cl : Nat) : Option (BitVec 6) :=
  let co := s.core (cl * 16)
  if co.assigned then some co.part else none
/-- A report at a unit of a cluster, `key` 16 for its shepherd and 0 to 3 for its engines (R470, R479). -/
def clusterReport (s : State) (cl key : Nat) : State :=
  let s1 := s.countShepherd cl (0x100 + cStrikeReplay.toNat) 1 (clusterPart s cl)
  let x := s1.cluster cl
  let mine := recentReports s.now ((x.strikes.filter (fun r => r.1 == key)).map (·.2))
  let others := x.strikes.filter (fun r => r.1 != key)
  if mine.length < Config.strikeLimit then s1.setCluster cl { x with strikes := others ++ mine.map (fun t => (key, t)) }
  else
    let s2 := s1.setCluster cl { x with strikes := others }
    match clusterPart s cl with
    | some part => fencePartition s2 (cl / 256) part
    | none => s2

def execStrikeReport (unit : StrikeUnit) (s : State) : Out :=
  match unit with
  | .core c =>
    let s1 := s.countCore c (0x100 + cStrikeReplay.toNat) 1 (some (s.core c).part)
    let mine := recentReports s.now (s1.core c).strikes
    if mine.length < Config.strikeLimit then .next (s1.modCore c (fun co => { co with strikes := mine }))
    else .next (machineCheck (s1.modCore c (fun co => { co with strikes := [] })) c (BitVec.allOnes 32))
  | .shepherd cl => .next (clusterReport s cl 16)
  | .engine cl e => .next (clusterReport s cl e.val)
  | .switch _ => .next s

/-- A line's event is counted at the shepherd of its vault or the port group of its stack's die. -/
def countLine (s : State) (pa code : Nat) : State :=
  match siteOf pa false with
  | .share c _ => s.countShepherd (clOf c) code 1 none
  | .hbm p st _ => s.countPort p (st / 2) code 1 none
  | _ => s
/-! ### Errors in state that a partition owns (R479) -/

/-- Whether a line lies in a translation table below `table`, the root being that of level 0 with n = 4. -/
def tablesHold (s : State) (p line : Nat) : Nat → Nat → Bool
  | n, table =>
    decide (table ≤ line) && decide (line < table + 65536) ||
    (match n with
      | 0 => false
      | m + 1 => (List.range (if n = 4 then 256 else 4096)).any (fun i =>
        let lo := readD s (table + 16 * i)
        eV lo && !eLeaf lo && tableOk p (ePpn lo * 2 ^ 16) && tablesHold s p line m (ePpn lo * 2 ^ 16)))
/-- Whether a line lies in the header of a partition's fault queue or in its save area. -/
def areasHold (s : State) (p line : Nat) (part : BitVec 6) (cfg : PartCfg) : Bool :=
  let header := match devPa s p part (space0 cfg.fqbase) false with
    | .ok h => lineOf h == line
    | .error _ => false
  let lo := cfg.savebase.toNat
  let hi := lo + cfg.savesize.toNat
  let first := lo / 65536
  header || (List.range ((hi + 65535) / 65536 - first)).any (fun i =>
    let va := 65536 * (first + i) + line % 65536
    decide (va < hi) && decide (lo < va + 64) &&
      (match devPa s p part (space0 (BitVec.ofNat 64 va)) false with
        | .ok pa => lineOf pa == line
        | .error _ => false))
/-- The partitions that own the state of the hardware which a line holds: the sward table, save records, spill area, event
queue and task area of the share of a core (07 Table 7.5), a translation table, a fault queue's header, a save area. -/
def lineOwners (s : State) (line : Nat) : List (Nat × BitVec 6) :=
  let ofCore := match siteOf line false with
    | .share c ofs => if hardwareRange c ofs && (s.core c).assigned then [(pkgOf c, (s.core c).part)] else []
    | _ => []
  let ofParts := s.packages.flatMap (fun e => e.2.parts.filterMap (fun y => y.2.bind (fun cfg =>
    let part := BitVec.ofNat 6 y.1
    if tablesHold s e.1 line 4 (rootPa e.1 part) || areasHold s e.1 line part cfg then some (e.1, part) else none)))
  (ofCore ++ ofParts).eraseDups
/-- PATROL_SCRUB, and an uncorrectable error that a read finds (R476): the partitions that own the state are fenced (R479). -/
def execPatrolScrub (pa : Nat) (r : ScrubResult) (s : State) : Out :=
  if !(siteOf pa false).isMemory then .next s
  else
    match r with
    | .clean => .next s
    | .corrected => .next (countLine s pa 0x04)
    | .uncorrectable =>
      let line := lineOf pa
      let s1 := countLine { s with poison := smSet false s.poison line true, poisonDue := s.poisonDue ++ [line] } pa 0x05
      .next ((lineOwners s line).foldl (fun st q => fencePartition st q.1 q.2) s1)

/-- The lowest address below a table that maps a line; `va` holds the address bits that the tables above have fixed. -/
def mapsLine (s : State) (p line : Nat) : Nat → Nat → Nat → Option Nat
  | n, table, va =>
    let level := 4 - n
    (List.range (if level = 0 then 256 else 4096)).findSome? (fun i =>
      let lo := readD s (table + 16 * i)
      let base := va + i * 2 ^ (64 - 12 * level)
      if !eV lo then none
      else if eLeaf lo then
        if level = 3 ∧ ePpn lo / 2 ^ 12 = line / 2 ^ 28 then some (base + line % 2 ^ 28)
        else if level = 4 ∧ ePpn lo = line / 2 ^ 16 then some (base + line % 2 ^ 16)
        else none
      else
        match n with
        | 0 => none
        | m + 1 => if tableOk p (ePpn lo * 2 ^ 16) then mapsLine s p line m (ePpn lo * 2 ^ 16) base else none)
/-- POISON_REPORT: a record with SRC 5 to each partition that maps the line (R478). -/
def execPoisonReport (pa : Nat) (s : State) : Out :=
  let line := lineOf pa
  if !s.poisonDue.contains line then .next s
  else
    let one := fun (st : State) (q : Nat × Nat) =>
      match mapsLine s q.1 line 4 (rootPa q.1 (BitVec.ofNat 6 q.2)) 0 with
      | none => st
      | some va =>
        postFault st q.1
          { cause := cMachineCheck, core := managementCore q.1, part := BitVec.ofNat 6 q.2, src := 5, va := BitVec.ofNat 72 va
            sectors := [va % 65536 / 256] }
    let parts := s.packages.flatMap (fun e => e.2.parts.filterMap (fun y => if y.2.isSome then some (e.1, y.1) else none))
    .next (parts.foldl one { s with poisonDue := s.poisonDue.filter (· != line) })

end Sys2Proof.Machine
end

