-- ==== Sys2Proof/Machine/Vector.lean ====
section
/-! DEFINITION. Rows 0x08 to 0x0E: vector arithmetic, logic, dot product, reduction, compares, selects, lane moves, special
functions, conversions (14 R272 to R288). -/

namespace Sys2Proof.Machine

/-! ### Common forms -/


/-- A lane-wise instruction: queue needs, sources, results, flags, destination (R270). -/
def laneOp (s : State) (i : Instr) (sh : Bool) (g : Guard) (t : LaneTy) (d : VReg) (srcs : List VSrc)
    (f : State → Actor → List VWord → Nat → BitVec 32 → LaneRes) : Out :=
  executeShadowable s i sh (tagLanes d g t) (fun a =>
    (queuesReady s a (regUseOut d ++ srcs.flatMap srcUse)).bind (fun _ =>
      (srcs.mapM (vsrc s a t)).bind (fun vs => vectorOp s a g t d (f s a vs))))

def argBits (t : LaneTy) (vs : List VWord) (k i : Nat) : Nat := lane t.width (vs.getD k 0) i
def argInt (t : LaneTy) (vs : List VWord) (k i : Nat) : Int := intOf t.isSigned t.width (argBits t vs k i)
def argNum (t : LaneTy) (vs : List VWord) (k i : Nat) : Num := fpDecode (laneFp t) (argBits t vs k i)

/-- An arithmetic lane result of Table 14.5: the integer form and the floating-point form. -/
def arithLane (t : LaneTy) (rm : RndField) (sat : Bool) (int : Int → Int → Int → Int)
    (fp : Mode → Num → Num → Num → Num × Flags) (s : State) (a : Actor) (vs : List VWord) (i : Nat) (seed : BitVec 32) :
    LaneRes :=
  if t.isInt then intLane t sat true (int (argInt t vs 0 i) (argInt t vs 1 i) (argInt t vs 2 i)) seed
  else
    let mode := modeOf rm (s.core a.core).fctl
    fpLane t mode sat (fp mode (argNum t vs 0 i) (argNum t vs 1 i) (argNum t vs 2 i)) seed

/-- A sum of two values, NaN without NV from a NaN. -/
def numAdd (mode : Mode) (x y : Num) : Num × Flags := if x.isNaN || y.isNaN then (.nan, 0) else numSum mode [x, y]

/-! ### Row 0x08 (Table 14.5) -/

def execVadd (f : V3) (s : State) : Out :=
  laneOp s (.vadd f) f.sh f.g f.lt f.d [f.a, f.b]
    (arithLane f.lt f.rm f.sat (fun x y _ => x + y) (fun m x y _ => numAdd m x y))
def execVsub (f : V3) (s : State) : Out :=
  laneOp s (.vsub f) f.sh f.g f.lt f.d [f.a, f.b]
    (arithLane f.lt f.rm f.sat (fun x y _ => x - y) (fun m x y _ => numAdd m x y.neg))
def execVmul (f : V3) (s : State) : Out :=
  laneOp s (.vmul f) f.sh f.g f.lt f.d [f.a, f.b]
    (arithLane f.lt f.rm f.sat (fun x y _ => x * y) (fun _ x y _ => numMul x y))
def execVfma (f : V4) (s : State) : Out :=
  laneOp s (.vfma f) f.sh f.g f.lt f.d [f.a, f.b, f.c]
    (arithLane f.lt f.rm f.sat (fun x y z => x * y + z) (fun m x y z => numFma m x y z))
def execVfms (f : V4) (s : State) : Out :=
  laneOp s (.vfms f) f.sh f.g f.lt f.d [f.a, f.b, f.c]
    (arithLane f.lt f.rm f.sat (fun x y z => x * y - z) (fun m x y z => numFma m x y z.neg))
def execVnfma (f : V4) (s : State) : Out :=
  laneOp s (.vnfma f) f.sh f.g f.lt f.d [f.a, f.b, f.c]
    (arithLane f.lt f.rm f.sat (fun x y z => z - x * y) (fun m x y z => numFma m x.neg y z))

/-- VMIN and VMAX (R273). -/
def minMaxLane (t : LaneTy) (max : Bool) (_ : State) (_ : Actor) (vs : List VWord) (i : Nat) (seed : BitVec 32) : LaneRes :=
  let x := argBits t vs 0 i
  let y := argBits t vs 1 i
  if t.isInt then
    let lt := decide (argInt t vs 0 i < argInt t vs 1 i)
    LaneRes.exact (if lt != max then x else y) seed
  else LaneRes.exact (fpMinMax (laneFp t) max x y) seed
def execVmin (f : V3n) (s : State) : Out :=
  laneOp s (.vmin f) f.sh f.g f.lt f.d [f.a, f.b] (minMaxLane f.lt false)
def execVmax (f : V3n) (s : State) : Out :=
  laneOp s (.vmax f) f.sh f.g f.lt f.d [f.a, f.b] (minMaxLane f.lt true)

/-- VABS and VNEG: the integer form, or the sign bit alone (R273). -/
def signLane (t : LaneTy) (sat : Bool) (int : Int → Int) (sign : Bool → Bool) (_ : State) (_ : Actor) (vs : List VWord)
    (i : Nat) (seed : BitVec 32) : LaneRes :=
  if t.isInt then intLane t sat true (int (argInt t vs 0 i)) seed
  else
    let b := argBits t vs 0 i
    let sb := (laneFp t).signBit
    if (argNum t vs 0 i).isNaN then LaneRes.exact (laneFp t).nanBits seed
    else LaneRes.exact ((if sign (decide (sb ≤ b)) then sb else 0) + b % sb) seed
def execVabs (f : V2) (s : State) : Out :=
  laneOp s (.vabs f) f.sh f.g f.lt f.d [f.a] (signLane f.lt f.sat (fun x => x.natAbs) (fun _ => false))
def execVneg (f : V2) (s : State) : Out :=
  laneOp s (.vneg f) f.sh f.g f.lt f.d [f.a] (signLane f.lt f.sat (fun x => -x) (fun n => !n))

/-! ### Row 0x09 (Table 14.6) -/

def patLane (t : LaneTy) (op : Nat → Nat → Nat → Nat) (_ : State) (_ : Actor) (vs : List VWord) (i : Nat)
    (seed : BitVec 32) : LaneRes := LaneRes.exact (op t.width (argBits t vs 0 i) (argBits t vs 1 i)) seed
def execVand (f : V3n) (s : State) : Out :=
  laneOp s (.vand f) f.sh f.g f.lt f.d [f.a, f.b] (patLane f.lt (fun _ x y => x &&& y))
def execVor (f : V3n) (s : State) : Out :=
  laneOp s (.vor f) f.sh f.g f.lt f.d [f.a, f.b] (patLane f.lt (fun _ x y => x ||| y))
def execVxor (f : V3n) (s : State) : Out :=
  laneOp s (.vxor f) f.sh f.g f.lt f.d [f.a, f.b] (patLane f.lt (fun _ x y => x ^^^ y))
def execVshl (f : V3n) (s : State) : Out :=
  laneOp s (.vshl f) f.sh f.g f.lt f.d [f.a, f.b] (patLane f.lt (fun w x y => x * 2 ^ (y % w) % 2 ^ w))
def execVshr (f : V3n) (s : State) : Out :=
  laneOp s (.vshr f) f.sh f.g f.lt f.d [f.a, f.b] (patLane f.lt (fun w x y => x / 2 ^ (y % w)))
def execVsar (f : V3n) (s : State) : Out :=
  laneOp s (.vsar f) f.sh f.g f.lt f.d [f.a, f.b]
    (patLane f.lt (fun w x y => wrapInt w (intOf true w x / 2 ^ (y % w))))

/-! ### Row 0x0A (R275, R276) -/

/-- An exact zero of a dot product is −0 when every term is −0 or the mode is rd, and +0 otherwise (05 R138). -/
def dotZero (mode : Mode) (ts : List Num) (r : Num) : Num :=
  match r with
  | .fin _ 0 _ => .fin (mode == .rd || ts.all Num.isNeg) 0 0
  | x => x
/-- One destination lane: the exact sum of its products and its accumulator term, rounded or narrowed once (05 R138). -/
def dotLane (t : LaneTy) (mode : Mode) (sat : Bool) (x y : VWord) (c : Option VWord) (j : Nat) (seed : BitVec 32) :
    LaneRes :=
  let d := dotDest t
  let g := 32 / t.width
  let ks := (List.range g).map (fun n => g * j + n)
  if t.isInt then
    let prod := fun (k : Nat) => intOf t.isSigned t.width (lane t.width x k) * intOf t.isSigned t.width (lane t.width y k)
    let acc : Int := match c with
      | some v => intOf d.isSigned 32 (lane 32 v j)
      | none => 0
    intLane d sat true ((ks.map prod).foldl (· + ·) acc) seed
  else
    let ps := ks.map (fun k => numMul (fpDecode (laneFp t) (lane t.width x k)) (fpDecode (laneFp t) (lane t.width y k)))
    let fl := ps.foldl (fun a p => a ||| p.2) (0 : Flags)
    let ts := ps.map (·.1) ++ (match c with
      | some v => [fpDecode .fp32 (lane 32 v j)]
      | none => [])
    let r := numSum mode ts
    fpLane d mode sat (dotZero mode ts r.1, fl ||| r.2) seed
def execVdot (f : VdotF) (s : State) : Out :=
  executeShadowable s (.vdot f) f.sh (tagLanes f.d f.g (dotDest f.lt)) (fun a =>
    let cs := f.c.toList
    (queuesReady s a (regUseOut f.d ++ srcUse f.a ++ srcUse f.b ++ cs.flatMap srcUse)).bind (fun _ =>
      (vsrc s a f.lt f.a).bind (fun x => (vsrc s a f.lt f.b).bind (fun y =>
        (cs.mapM (vsrc s a (dotDest f.lt))).bind (fun c =>
          vectorOp s a f.g (dotDest f.lt) f.d
            (dotLane f.lt (modeOf f.rm (s.core a.core).fctl) f.sat x y c.head?))))))

/-- One pairwise step of VRED. -/
def redPair (t : LaneTy) (op : RedOp) (mode : Mode) (sat : Bool) (x y : Nat) (seed : BitVec 32) : LaneRes :=
  match op with
  | .add =>
    if t.isInt then intLane t sat false (intOf t.isSigned t.width x + intOf t.isSigned t.width y) seed
    else fpLane t mode sat (numAdd mode (fpDecode (laneFp t) x) (fpDecode (laneFp t) y)) seed
  | .min | .max =>
    let big := op == .max
    if t.isInt then
      LaneRes.exact (if decide (intOf t.isSigned t.width x < intOf t.isSigned t.width y) != big then x else y) seed
    else LaneRes.exact (fpMinMax (laneFp t) big x y) seed
/-- One level of the tree: an absent member passes the other on (R276). -/
def redLevel (t : LaneTy) (op : RedOp) (mode : Mode) (sat : Bool) :
    List (Option Nat) → BitVec 32 → List (Option Nat) × Raised × BitVec 32
  | x :: y :: r, seed =>
    let p : Option Nat × Raised × BitVec 32 := match x, y with
      | some u, some v =>
        let q := redPair t op mode sat u v seed
        (some q.bits, q.raised, q.seed)
      | some u, none => (some u, Raised.none, seed)
      | none, v => (v, Raised.none, seed)
    let q := redLevel t op mode sat r p.2.2
    (p.1 :: q.1, p.2.1.or q.2.1, q.2.2)
  | l, seed => (l, Raised.none, seed)
def redTree (t : LaneTy) (op : RedOp) (mode : Mode) (sat : Bool) :
    Nat → List (Option Nat) → BitVec 32 → Option Nat × Raised × BitVec 32
  | 0, l, seed => (l.headD none, Raised.none, seed)
  | n + 1, l, seed =>
    let q := redLevel t op mode sat l seed
    let r := redTree t op mode sat n q.1 q.2.2
    (r.1, q.2.1.or r.2.1, r.2.2)
def execVred (f : VredF) (s : State) : Out :=
  executeShadowable s (.vred f) f.sh (tagLanes f.d f.g f.lt) (fun a =>
    (queuesReady s a (regUseOut f.d ++ srcUse f.a)).bind (fun _ =>
      (vsrc s a f.lt f.a).bind (fun x =>
        let ls := (List.range f.lt.lanes).map (fun i =>
          if a.enabled f.g f.lt.width i then some (lane f.lt.width x i) else none)
        let co := s.core a.core
        let q := redTree f.lt f.op (modeOf f.rm co.fctl) f.sat (Nat.log2 f.lt.lanes) ls co.seed
        match q.1 with
        | none => R.next s
        | some b =>
          (commitFlags s a.core q.2.1 q.2.2).bind (fun s1 =>
            (writeLanes s1 a f.d f.lt.width
              ((0, b) :: (List.range f.lt.lanes).tail.map (fun i => (i, 0)))).map Res.next))))

/-! ### Row 0x0C (R277 to R280) -/

/-- The condition of VCMP on two lanes (R277). -/
def vcond (t : LaneTy) (c : Cond) (x y : Nat) : Bool :=
  if t.isInt then
    let p := intOf t.isSigned t.width x
    let q := intOf t.isSigned t.width y
    match c with
    | .eq => decide (p = q)
    | .ne => decide (p ≠ q)
    | .lt | .ltu => decide (p < q)
    | .le | .leu => decide (p ≤ q)
    | .gt | .gtu => decide (q < p)
    | .ge | .geu => decide (q ≤ p)
    | .ltz => decide (p < 0)
    | .lez => decide (p ≤ 0)
    | .gtz => decide (0 < p)
    | .gez => decide (0 ≤ p)
  else
    let p := fpDecode (laneFp t) x
    let z := match c with
      | .ltz | .lez | .gtz | .gez => true
      | _ => false
    let q := if z then numZero else fpDecode (laneFp t) y
    if p.isNaN || q.isNaN then c == .ne
    else
      match c with
      | .eq => numEq p q
      | .ne => !numEq p q
      | .lt | .ltz | .ltu => numLt p q
      | .le | .lez | .leu => !numLt q p
      | .gt | .gtz | .gtu => numLt q p
      | .ge | .gez | .geu => !numLt p q
def execVcmp (f : VcmpF) (s : State) : Out :=
  executeShadowable s (.vcmp f) f.sh (fun a => tagIf (!(a.lanes f.g f.lt).isEmpty) (tagK f.d a)) (fun a =>
    let bs := f.b.toList
    (queuesReady s a (srcUse f.a ++ bs.flatMap srcUse)).bind (fun _ =>
      (vsrc s a f.lt f.a).bind (fun x => (bs.mapM (vsrc s a f.lt)).bind (fun ys =>
        let w := f.lt.width
        let y := ys.headD 0
        let ls := a.lanes f.g f.lt
        let k := ls.foldl (fun k i =>
          setBits k (govern w i) (w / 8) (if vcond f.lt f.cond (lane w x i) (lane w y i) then 2 ^ (w / 8) - 1 else 0))
          (a.kr.get f.d)
        R.next (if ls.isEmpty then s else setK s a f.d k)))))

def execVsel (f : VselF) (s : State) : Out :=
  laneOp s (.vsel f) f.sh f.g f.lt f.d [f.a, f.b] (fun _ a vs i seed =>
    LaneRes.exact (argBits f.lt vs (if bit (a.k0 f.c) (govern f.lt.width i) then 0 else 1) i) seed)

def vregSrc : VReg → VSrc
  | .v i => .v i
  | .q i n => .q i n
def execVperm (f : VpermF) (s : State) : Out :=
  laneOp s (.vperm f) f.sh f.g .i8 f.d [f.a, vregSrc f.b] (fun _ _ vs i seed =>
    let b := argBits .i8 vs 1 i
    LaneRes.exact (if 128 ≤ b then 0 else argBits .i8 vs 0 (b % 16)) seed)

def execVbcast (f : VbcastF) (s : State) : Out :=
  laneOp s (.vbcast f) f.sh f.g f.lt f.d [f.a] (fun _ _ vs _ seed => LaneRes.exact (argBits f.lt vs 0 f.idx.toNat) seed)

/-- VEXT: the guard tests bit 0 (R269, R280). -/
def execVext (f : VextF) (s : State) : Out :=
  executeShadowable s (.vext f) f.sh (fun a => tagIf (a.guard f.g) (tagS f.d a)) (fun a =>
    (queuesReady s a (regUseIn f.a)).bind (fun _ =>
      if a.guard f.g then
        (vreg s a f.a).bind (fun x =>
          let b := lane f.lt.width x f.idx.toNat
          let v : DWord := if f.lt.isSigned then BitVec.ofInt 64 (intOf true f.lt.width b) else BitVec.ofNat 64 b
          R.next (setReg s a f.d (zext72 v)))
      else R.next s))

def execVins (f : VinsF) (s : State) : Out :=
  executeShadowable s (.vins f) f.sh (fun a => tagIf (a.enabled f.g f.lt.width f.idx.toNat) (tagV f.d a)) (fun a =>
    let src : VSrc := match f.a with
      | .s i => .s i
      | .imm v => .imm v
    if a.enabled f.g f.lt.width f.idx.toNat then
      (vsrc s a f.lt src).bind (fun x =>
        (writeLanes s a (.v f.d) f.lt.width [(f.idx.toNat, lane f.lt.width x 0)]).map Res.next)
    else R.next s)

/-! ### Row 0x0D (R281 to R283) -/

def specialOp (fn : SpecialFn) (i : Instr) (f : V2) (s : State) : Out :=
  laneOp s i f.sh f.g f.lt f.d [f.a] (fun _ _ vs n seed =>
    let r := specialFn fn f.lt f.sat (argBits f.lt vs 0 n)
    { bits := r.1, raised := Raised.ofFlags r.2, seed := seed })
def execVrcp (f : V2) (s : State) : Out := specialOp .rcp (.vrcp f) f s
def execVrsq (f : V2) (s : State) : Out := specialOp .rsq (.vrsq f) f s
def execVexp (f : V2) (s : State) : Out := specialOp .exp (.vexp f) f s
def execVexp2 (f : V2) (s : State) : Out := specialOp .exp2 (.vexp2 f) f s
def execVlog2 (f : V2) (s : State) : Out := specialOp .log2 (.vlog2 f) f s
def execVtanh (f : V2) (s : State) : Out := specialOp .tanh (.vtanh f) f s
def execVsin (f : V2) (s : State) : Out := specialOp .sin (.vsin f) f s
def execVcos (f : V2) (s : State) : Out := specialOp .cos (.vcos f) f s

/-! ### Row 0x0E (R284 to R288) -/

def cvtLanes (f : VcvtF) (a : Actor) : List Nat :=
  (a.lanes f.g f.dt).filter (fun i => (cvtSource f.st f.dt f.pos.toNat i).isSome)
def execVcvt (f : VcvtF) (s : State) : Out :=
  executeShadowable s (.vcvt f) f.sh (fun a => tagIf (!(cvtLanes f a).isEmpty) (tagV f.d a)) (fun a =>
    (queuesReady s a (srcUse f.a)).bind (fun _ =>
      (vsrc s a f.st f.a).bind (fun x =>
        let co := s.core a.core
        let mode := modeOf f.rm co.fctl
        let pair : Word := match f.c with
          | some i => a.sr.get i
          | none => 0
        let e0 := bits pair 0 8
        let e1 := bits pair 8 8
        let ls := cvtLanes f a
        let src := fun (i : Nat) => lane f.st.width x ((cvtSource f.st f.dt f.pos.toNat i).getD 0)
        if f.dt.isBlock && (e0 == 0xFF || e1 == 0xFF) then trapAt s cBlockScale 0
        else if f.st.isBlock && ls.any (fun i => (blockDecode (f.st == .db4) e0 e1 (src i)).isNone) then .error (.park s)
        else
          let elt := fun (i : Nat) =>
            if f.st.isBlock then Elt.num ((blockDecode (f.st == .db4) e0 e1 (src i)).getD numZero)
            else laneElt f.st (src i)
          let one := fun (i : Nat) (seed : BitVec 32) =>
            if f.dt.isBlock then eltToBlock (f.dt == .db4) mode f.sat e0 e1 (elt i) seed else eltTo f.dt mode f.sat (elt i) seed
          let q := runLanes one ls co.seed
          (commitFlags s a.core q.2.1 q.2.2).bind (fun s1 => (writeLanes s1 a (.v f.d) f.dt.width q.1).map Res.next))))

def execVpack (f : VpackF) (s : State) : Out :=
  executeShadowable s (.vpack f) f.sh (tagLanes (.v f.d) f.g f.dt) (fun a =>
    (queuesReady s a (srcUse f.a ++ srcUse f.b)).bind (fun _ =>
      (vsrc s a f.st f.a).bind (fun x => (vsrc s a f.st f.b).bind (fun y =>
        let n := f.st.lanes
        let mode := modeOf f.rm (s.core a.core).fctl
        vectorOp s a f.g f.dt (.v f.d) (fun i seed =>
          eltTo f.dt mode f.sat (laneElt f.st (if i < n then lane f.st.width x i else lane f.st.width y (i - n))) seed)))))

def execVunpk (f : VunpkF) (s : State) : Out :=
  executeShadowable s (.vunpk f) f.sh (fun a => tagIf (!(a.lanes f.g f.dt).isEmpty) (fun bad t =>
      tagV (Fin.ofNat 32 (f.d.val + 1)) a bad (tagV f.d a bad t))) (fun a =>
    (queuesReady s a (srcUse f.a)).bind (fun _ =>
      (vsrc s a f.st f.a).bind (fun x =>
        let n := f.dt.lanes
        let co := s.core a.core
        let mode := modeOf f.rm co.fctl
        let ls := a.lanes f.g f.dt
        let one := fun (i : Nat) (seed : BitVec 32) => eltTo f.dt mode f.sat (laneElt f.st (lane f.st.width x i)) seed
        let q := runLanes one (ls ++ ls.map (· + n)) co.seed
        (commitFlags s a.core q.2.1 q.2.2).bind (fun s1 =>
          let lo := q.1.filter (fun r => decide (r.1 < n))
          let hi := (q.1.filter (fun r => decide (n ≤ r.1))).map (fun r => (r.1 - n, r.2))
          (writeLanes s1 a (.v f.d) f.dt.width lo).bind (fun s2 =>
            (writeLanes s2 a (.v (Fin.ofNat 32 (f.d.val + 1))) f.dt.width hi).map Res.next)))))

end Sys2Proof.Machine
end

