-- ==== Sys2Proof/Machine/Dispatch.lean ====
section
/-! DEFINITION. The meaning of every instruction and device event: one arm per constructor of `Instr`, each one call. -/

namespace Sys2Proof.Machine

def exec (i : Instr) (s : State) : Host.Outcome State Fault Refusal :=
  match i with
  | .add f => Sys2Proof.Machine.execAdd f s
  | .addi f => Sys2Proof.Machine.execAddi f s
  | .sub f => Sys2Proof.Machine.execSub f s
  | .mul f => Sys2Proof.Machine.execMul f s
  | .mulh f => Sys2Proof.Machine.execMulh f s
  | .mulhz f => Sys2Proof.Machine.execMulhz f s
  | .div f => Sys2Proof.Machine.execDiv f s
  | .divz f => Sys2Proof.Machine.execDivz f s
  | .rem f => Sys2Proof.Machine.execRem f s
  | .remz f => Sys2Proof.Machine.execRemz f s
  | .minI f => Sys2Proof.Machine.execMinI f s
  | .maxI f => Sys2Proof.Machine.execMaxI f s
  | .minz f => Sys2Proof.Machine.execMinz f s
  | .maxz f => Sys2Proof.Machine.execMaxz f s
  | .andI f => Sys2Proof.Machine.execAndI f s
  | .orI f => Sys2Proof.Machine.execOrI f s
  | .xorI f => Sys2Proof.Machine.execXorI f s
  | .andn f => Sys2Proof.Machine.execAndn f s
  | .shl f => Sys2Proof.Machine.execShl f s
  | .shr f => Sys2Proof.Machine.execShr f s
  | .sar f => Sys2Proof.Machine.execSar f s
  | .rol f => Sys2Proof.Machine.execRol f s
  | .ror f => Sys2Proof.Machine.execRor f s
  | .clz f => Sys2Proof.Machine.execClz f s
  | .ctz f => Sys2Proof.Machine.execCtz f s
  | .popc f => Sys2Proof.Machine.execPopc f s
  | .sext f => Sys2Proof.Machine.execSext f s
  | .zext f => Sys2Proof.Machine.execZext f s
  | .bfx f => Sys2Proof.Machine.execBfx f s
  | .bfi f => Sys2Proof.Machine.execBfi f s
  | .li f => Sys2Proof.Machine.execLi f s
  | .lih f => Sys2Proof.Machine.execLih f s
  | .lea f => Sys2Proof.Machine.execLea f s
  | .adda f => Sys2Proof.Machine.execAdda f s
  | .suba f => Sys2Proof.Machine.execSuba f s
  | .select f => Sys2Proof.Machine.execSelect f s
  | .cmp f => Sys2Proof.Machine.execCmp f s
  | .cmpi f => Sys2Proof.Machine.execCmpi f s
  | .kand f => Sys2Proof.Machine.execKand f s
  | .kor f => Sys2Proof.Machine.execKor f s
  | .kxor f => Sys2Proof.Machine.execKxor f s
  | .knot f => Sys2Proof.Machine.execKnot f s
  | .kmov f => Sys2Proof.Machine.execKmov f s
  | .nop f => Sys2Proof.Machine.execNop f s
  | .br f => Sys2Proof.Machine.execBr f s
  | .jmp f => Sys2Proof.Machine.execJmp f s
  | .call f => Sys2Proof.Machine.execCall f s
  | .calli f => Sys2Proof.Machine.execCalli f s
  | .ret f => Sys2Proof.Machine.execRet f s
  | .brq f => Sys2Proof.Machine.execBrq f s
  | .endStrand f => Sys2Proof.Machine.execEndStrand f s
  | .loopR f => Sys2Proof.Machine.execLoopR f s
  | .loopi f => Sys2Proof.Machine.execLoopi f s
  | .trapI f => Sys2Proof.Machine.execTrapI f s
  | .eret f => Sys2Proof.Machine.execEret f s
  | .brk f => Sys2Proof.Machine.execBrk f s
  | .getc f => Sys2Proof.Machine.execGetc f s
  | .setc f => Sys2Proof.Machine.execSetc f s
  | .tlbiPage f => Sys2Proof.Machine.execTlbiPage f s
  | .tlbiSpace f => Sys2Proof.Machine.execTlbiSpace f s
  | .tlbiPartition f => Sys2Proof.Machine.execTlbiPartition f s
  | .scan f => Sys2Proof.Machine.execScan f s
  | .vadd f => Sys2Proof.Machine.execVadd f s
  | .vsub f => Sys2Proof.Machine.execVsub f s
  | .vmul f => Sys2Proof.Machine.execVmul f s
  | .vfma f => Sys2Proof.Machine.execVfma f s
  | .vfms f => Sys2Proof.Machine.execVfms f s
  | .vnfma f => Sys2Proof.Machine.execVnfma f s
  | .vmin f => Sys2Proof.Machine.execVmin f s
  | .vmax f => Sys2Proof.Machine.execVmax f s
  | .vabs f => Sys2Proof.Machine.execVabs f s
  | .vneg f => Sys2Proof.Machine.execVneg f s
  | .vand f => Sys2Proof.Machine.execVand f s
  | .vor f => Sys2Proof.Machine.execVor f s
  | .vxor f => Sys2Proof.Machine.execVxor f s
  | .vshl f => Sys2Proof.Machine.execVshl f s
  | .vshr f => Sys2Proof.Machine.execVshr f s
  | .vsar f => Sys2Proof.Machine.execVsar f s
  | .vdot f => Sys2Proof.Machine.execVdot f s
  | .vred f => Sys2Proof.Machine.execVred f s
  | .vcmp f => Sys2Proof.Machine.execVcmp f s
  | .vsel f => Sys2Proof.Machine.execVsel f s
  | .vperm f => Sys2Proof.Machine.execVperm f s
  | .vbcast f => Sys2Proof.Machine.execVbcast f s
  | .vext f => Sys2Proof.Machine.execVext f s
  | .vins f => Sys2Proof.Machine.execVins f s
  | .vrcp f => Sys2Proof.Machine.execVrcp f s
  | .vrsq f => Sys2Proof.Machine.execVrsq f s
  | .vexp f => Sys2Proof.Machine.execVexp f s
  | .vexp2 f => Sys2Proof.Machine.execVexp2 f s
  | .vlog2 f => Sys2Proof.Machine.execVlog2 f s
  | .vtanh f => Sys2Proof.Machine.execVtanh f s
  | .vsin f => Sys2Proof.Machine.execVsin f s
  | .vcos f => Sys2Proof.Machine.execVcos f s
  | .vcvt f => Sys2Proof.Machine.execVcvt f s
  | .vpack f => Sys2Proof.Machine.execVpack f s
  | .vunpk f => Sys2Proof.Machine.execVunpk f s
  | .vloop f => Sys2Proof.Machine.execVloop f s
  | .vdrain f => Sys2Proof.Machine.execVdrain f s
  | .qcfgBind f => Sys2Proof.Machine.execQcfgBind f s
  | .qcfgUnbind f => Sys2Proof.Machine.execQcfgUnbind f s
  | .qlink f => Sys2Proof.Machine.execQlink f s
  | .qadvP f => Sys2Proof.Machine.execQadvP f s
  | .qadvC f => Sys2Proof.Machine.execQadvC f s
  | .qstat f => Sys2Proof.Machine.execQstat f s
  | .kpush f => Sys2Proof.Machine.execKpush f s
  | .ld f => Sys2Proof.Machine.execLd f s
  | .st f => Sys2Proof.Machine.execSt f s
  | .ldq f => Sys2Proof.Machine.execLdq f s
  | .stq f => Sys2Proof.Machine.execStq f s
  | .vld f => Sys2Proof.Machine.execVld f s
  | .vst f => Sys2Proof.Machine.execVst f s
  | .vlds f => Sys2Proof.Machine.execVlds f s
  | .vsts f => Sys2Proof.Machine.execVsts f s
  | .vgath f => Sys2Proof.Machine.execVgath f s
  | .vscat f => Sys2Proof.Machine.execVscat f s
  | .vgathBc f => Sys2Proof.Machine.execVgathBc f s
  | .amoAdd f => Sys2Proof.Machine.execAmoAdd f s
  | .amoMin f => Sys2Proof.Machine.execAmoMin f s
  | .amoMax f => Sys2Proof.Machine.execAmoMax f s
  | .amoAnd f => Sys2Proof.Machine.execAmoAnd f s
  | .amoOr f => Sys2Proof.Machine.execAmoOr f s
  | .amoXor f => Sys2Proof.Machine.execAmoXor f s
  | .amoSwap f => Sys2Proof.Machine.execAmoSwap f s
  | .amoCas f => Sys2Proof.Machine.execAmoCas f s
  | .amofAdd f => Sys2Proof.Machine.execAmofAdd f s
  | .fence f => Sys2Proof.Machine.execFence f s
  | .fenceSysLea f => Sys2Proof.Machine.execFenceSysLea f s
  | .cpy f => Sys2Proof.Machine.execCpy f s
  | .cpy2d f => Sys2Proof.Machine.execCpy2d f s
  | .replay f => Sys2Proof.Machine.execReplay f s
  | .cred f => Sys2Proof.Machine.execCred f s
  | .eseq f => Sys2Proof.Machine.execEseq f s
  | .rlqQuery f => Sys2Proof.Machine.execRlqQuery f s
  | .rlqRelease f => Sys2Proof.Machine.execRlqRelease f s
  | .mbind f => Sys2Proof.Machine.execMbind f s
  | .munbind f => Sys2Proof.Machine.execMunbind f s
  | .invoke f => Sys2Proof.Machine.execInvoke f s
  | .invoken f => Sys2Proof.Machine.execInvoken f s
  | .sendMailbox f => Sys2Proof.Machine.execSendMailbox f s
  | .sendActive f => Sys2Proof.Machine.execSendActive f s
  | .resolveValue f => Sys2Proof.Machine.execResolveValue f s
  | .resolveObject f => Sys2Proof.Machine.execResolveObject f s
  | .breakAnswer f => Sys2Proof.Machine.execBreakAnswer f s
  | .when f => Sys2Proof.Machine.execWhen f s
  | .hstat f => Sys2Proof.Machine.execHstat f s
  | .hget f => Sys2Proof.Machine.execHget f s
  | .hsync f => Sys2Proof.Machine.execHsync f s
  | .hretire f => Sys2Proof.Machine.execHretire f s
  | .objnew f => Sys2Proof.Machine.execObjnew f s
  | .objfree f => Sys2Proof.Machine.execObjfree f s
  | .migr f => Sys2Proof.Machine.execMigr f s
  | .migra f => Sys2Proof.Machine.execMigra f s
  | .hold f => Sys2Proof.Machine.execHold f s
  | .release f => Sys2Proof.Machine.execRelease f s
  | .task f => Sys2Proof.Machine.execTask f s
  | .tdec f => Sys2Proof.Machine.execTdec f s
  | .launch f => Sys2Proof.Machine.execLaunch f s
  | .cancel f => Sys2Proof.Machine.execCancel f s
  | .testc f => Sys2Proof.Machine.execTestc f s
  | .phtok f => Sys2Proof.Machine.execPhtok f s
  | .phwait f => Sys2Proof.Machine.execPhwait f s
  | .tqcfg f => Sys2Proof.Machine.execTqcfg f s
  | .tnext f => Sys2Proof.Machine.execTnext f s
  | .fjoin f => Sys2Proof.Machine.execFjoin f s
  | .fleave f => Sys2Proof.Machine.execFleave f s
  | .fmemb f => Sys2Proof.Machine.execFmemb f s
  | .cbrAll f => Sys2Proof.Machine.execCbrAll f s
  | .cbrAny f => Sys2Proof.Machine.execCbrAny f s
  | .fsync f => Sys2Proof.Machine.execFsync f s
  | .bst f => Sys2Proof.Machine.execBst f s
  | .bseq f => Sys2Proof.Machine.execBseq f s
  | .wld f => Sys2Proof.Machine.execWld f s
  | .wswp f => Sys2Proof.Machine.execWswp f s
  | .gang f => Sys2Proof.Machine.execGang f s
  | .mma f => Sys2Proof.Machine.execMma f s
  | .mmas f => Sys2Proof.Machine.execMmas f s
  | .mpld f => Sys2Proof.Machine.execMpld f s
  | .mrec f => Sys2Proof.Machine.execMrec f s
  | .azero f => Sys2Proof.Machine.execAzero f s
  | .azeroRelease f => Sys2Proof.Machine.execAzeroRelease f s
  | .ald f => Sys2Proof.Machine.execAld f s
  | .ast f => Sys2Proof.Machine.execAst f s
  | .acvt f => Sys2Proof.Machine.execAcvt f s
  | .ladcfg f => Sys2Proof.Machine.execLadcfg f s
  | .ladpush f => Sys2Proof.Machine.execLadpush f s
  | .ladrd f => Sys2Proof.Machine.execLadrd f s
  | .ladld f => Sys2Proof.Machine.execLadld f s
  | .ladw f => Sys2Proof.Machine.execLadw f s
  | .attncfg f => Sys2Proof.Machine.execAttncfg f s
  | .attn f => Sys2Proof.Machine.execAttn f s
  | .nbmv f => Sys2Proof.Machine.execNbmv f s
  | .strandSelect core => Sys2Proof.Machine.execStrandSelect core s
  | .routinePromotion core slot => Sys2Proof.Machine.execRoutinePromotion core slot s
  | .strandParkContext core idx => Sys2Proof.Machine.execStrandParkContext core idx s
  | .invocationArrival ix => Sys2Proof.Machine.execInvocationArrival ix s
  | .forwardedInvocation ix => Sys2Proof.Machine.execForwardedInvocation ix s
  | .resolutionNotice ix => Sys2Proof.Machine.execResolutionNotice ix s
  | .breakNotice ix => Sys2Proof.Machine.execBreakNotice ix s
  | .retireNotice ix => Sys2Proof.Machine.execRetireNotice ix s
  | .retiredMarkExpiry core n => Sys2Proof.Machine.execRetiredMarkExpiry core n s
  | .pendingAnswerTimeout core n => Sys2Proof.Machine.execPendingAnswerTimeout core n s
  | .waiterRegistration ix => Sys2Proof.Machine.execWaiterRegistration ix s
  | .registrationRetry ix => Sys2Proof.Machine.execRegistrationRetry ix s
  | .hsyncRequest ix => Sys2Proof.Machine.execHsyncRequest ix s
  | .hsyncAck core idx => Sys2Proof.Machine.execHsyncAck core idx s
  | .hsyncTimeout core idx => Sys2Proof.Machine.execHsyncTimeout core idx s
  | .mailboxMessage ix => Sys2Proof.Machine.execMailboxMessage ix s
  | .activeMessage ix => Sys2Proof.Machine.execActiveMessage ix s
  | .taskRelease ix => Sys2Proof.Machine.execTaskRelease ix s
  | .contextMove ix => Sys2Proof.Machine.execContextMove ix s
  | .contextReturn ix => Sys2Proof.Machine.execContextReturn ix s
  | .frameRelease ix => Sys2Proof.Machine.execFrameRelease ix s
  | .eventRecordTaskDecrement cl => Sys2Proof.Machine.execEventRecordTaskDecrement cl s
  | .eventRecordLevelDecrement cl => Sys2Proof.Machine.execEventRecordLevelDecrement cl s
  | .eventRecordFaultNotice cl => Sys2Proof.Machine.execEventRecordFaultNotice cl s
  | .cancelAtShepherd cl => Sys2Proof.Machine.execCancelAtShepherd cl s
  | .launchDistribute cl => Sys2Proof.Machine.execLaunchDistribute cl s
  | .pipelineMessageEnqueue cl n => Sys2Proof.Machine.execPipelineMessageEnqueue cl n s
  | .pipelineDrain cl n => Sys2Proof.Machine.execPipelineDrain cl n s
  | .distributorEvaluation cl n stage => Sys2Proof.Machine.execDistributorEvaluation cl n stage s
  | .clusterPowerGate cl => Sys2Proof.Machine.execClusterPowerGate cl s
  | .clusterWake cl => Sys2Proof.Machine.execClusterWake cl s
  | .preemptRequest core requester m => Sys2Proof.Machine.execPreemptRequest core requester m s
  | .resume core m => Sys2Proof.Machine.execResume core m s
  | .trapEntry core idx => Sys2Proof.Machine.execTrapEntry core idx s
  | .storeDenialResponse ix => Sys2Proof.Machine.execStoreDenialResponse ix s
  | .corePark core => Sys2Proof.Machine.execCorePark core s
  | .parkactRetry core m => Sys2Proof.Machine.execParkactRetry core m s
  | .parkactEnd core m => Sys2Proof.Machine.execParkactEnd core m s
  | .strandWatchdog core idx => Sys2Proof.Machine.execStrandWatchdog core idx s
  | .machineCheck core touched => Sys2Proof.Machine.execMachineCheck core touched s
  | .routineTableWrite m core slot bytes => Sys2Proof.Machine.execRoutineTableWrite m core slot bytes s
  | .eventCounterSelectWrite m pa value => Sys2Proof.Machine.execEventCounterSelectWrite m pa value s
  | .controlBlockWrite m pa value => Sys2Proof.Machine.execControlBlockWrite m pa value s
  | .brackenScanComplete cl => Sys2Proof.Machine.execBrackenScanComplete cl s
  | .remoteAccessResponse ix host => Sys2Proof.Machine.execRemoteAccessResponse ix host s
  | .remoteTimeout core idx => Sys2Proof.Machine.execRemoteTimeout core idx s
  | .flitResend ix => Sys2Proof.Machine.execFlitResend ix s
  | .requestFlitArrival ix => Sys2Proof.Machine.execRequestFlitArrival ix s
  | .retryResponse ix => Sys2Proof.Machine.execRetryResponse ix s
  | .duplicateWindowRelease ix => Sys2Proof.Machine.execDuplicateWindowRelease ix s
  | .flitAgeDiscard ix => Sys2Proof.Machine.execFlitAgeDiscard ix s
  | .subByteStore ix => Sys2Proof.Machine.execSubByteStore ix s
  | .crossDieWriteApply ix => Sys2Proof.Machine.execCrossDieWriteApply ix s
  | .awaitRewalk core idx => Sys2Proof.Machine.execAwaitRewalk core idx s
  | .pageWaitTimeout core idx => Sys2Proof.Machine.execPageWaitTimeout core idx s
  | .queueWaitTimeout core idx => Sys2Proof.Machine.execQueueWaitTimeout core idx s
  | .queueLinkFlit ix => Sys2Proof.Machine.execQueueLinkFlit ix s
  | .queueUnlinkFlit ix => Sys2Proof.Machine.execQueueUnlinkFlit ix s
  | .queueSlotWriteMessage ix => Sys2Proof.Machine.execQueueSlotWriteMessage ix s
  | .queuePublishMessage ix => Sys2Proof.Machine.execQueuePublishMessage ix s
  | .queueCreditMessage ix => Sys2Proof.Machine.execQueueCreditMessage ix s
  | .engineCommandStart core eng => Sys2Proof.Machine.execEngineCommandStart core eng s
  | .copySector cl => Sys2Proof.Machine.execCopySector cl s
  | .engineCommandEnd core eng => Sys2Proof.Machine.execEngineCommandEnd core eng s
  | .credResult ix => Sys2Proof.Machine.execCredResult ix s
  | .attnBlock cl => Sys2Proof.Machine.execAttnBlock cl s
  | .attnPageRewalk cl => Sys2Proof.Machine.execAttnPageRewalk cl s
  | .attnPageTimeout cl => Sys2Proof.Machine.execAttnPageTimeout cl s
  | .ladderMerge core => Sys2Proof.Machine.execLadderMerge core s
  | .gangOpen cl row => Sys2Proof.Machine.execGangOpen cl row s
  | .gangBarrierTimeout cl row => Sys2Proof.Machine.execGangBarrierTimeout cl row s
  | .foldContribution ix => Sys2Proof.Machine.execFoldContribution ix s
  | .foldOutcome ix => Sys2Proof.Machine.execFoldOutcome ix s
  | .foldLeaveRecorded ix => Sys2Proof.Machine.execFoldLeaveRecorded ix s
  | .foldEject pkg fold core => Sys2Proof.Machine.execFoldEject pkg fold core s
  | .foldOutcomeTimeout core idx => Sys2Proof.Machine.execFoldOutcomeTimeout core idx s
  | .strikeReport unit => Sys2Proof.Machine.execStrikeReport unit s
  | .patrolScrub pa r => Sys2Proof.Machine.execPatrolScrub pa r s
  | .poisonReport pa => Sys2Proof.Machine.execPoisonReport pa s
  | .partitionFence pkg part => Sys2Proof.Machine.execPartitionFence pkg part s
  | .teardownRelease pkg part => Sys2Proof.Machine.execTeardownRelease pkg part s
  | .linkFrameReceive link crcOk => Sys2Proof.Machine.execLinkFrameReceive link crcOk s
  | .linkAckSend link => Sys2Proof.Machine.execLinkAckSend link s
  | .linkAckReceive link => Sys2Proof.Machine.execLinkAckReceive link s
  | .linkReplayRequest link => Sys2Proof.Machine.execLinkReplayRequest link s
  | .lossOfLight link lost => Sys2Proof.Machine.execLossOfLight link lost s
  | .restripeNotice link => Sys2Proof.Machine.execRestripeNotice link s
  | .laserSocketFailure pkg socket => Sys2Proof.Machine.execLaserSocketFailure pkg socket s
  | .restripeMarker link => Sys2Proof.Machine.execRestripeMarker link s
  | .linkRetrain link own far => Sys2Proof.Machine.execLinkRetrain link own far s
  | .retrainRetry link => Sys2Proof.Machine.execRetrainRetry link s
  | .larkReceive pkg => Sys2Proof.Machine.execLarkReceive pkg s
  | .leaOperationReceive pkg seq => Sys2Proof.Machine.execLeaOperationReceive pkg seq s
  | .larkTimeout pkg => Sys2Proof.Machine.execLarkTimeout pkg s
  | .uetRmaWrite pkg job va bytes => Sys2Proof.Machine.execUetRmaWrite pkg job va bytes s
  | .uetRmaRead pkg job va len => Sys2Proof.Machine.execUetRmaRead pkg job va len s
  | .uetMailboxSend pkg port job ip va bytes => Sys2Proof.Machine.execUetMailboxSend pkg port job ip va bytes s
  | .mgmtApplyConfig pkg body signature => Sys2Proof.Machine.execMgmtApplyConfig pkg body signature s
  | .mgmtRemovePartition pkg part => Sys2Proof.Machine.execMgmtRemovePartition pkg part s
  | .mgmtAttestationQuote pkg nonce part => Sys2Proof.Machine.execMgmtAttestationQuote pkg nonce part s
  | .mgmtSetPowerCap pkg die watts => Sys2Proof.Machine.execMgmtSetPowerCap pkg die watts s
  | .resetBoot pkg bank0 bank1 => Sys2Proof.Machine.execResetBoot pkg bank0 bank1 s
  | .powerTelemetryRefresh pkg words => Sys2Proof.Machine.execPowerTelemetryRefresh pkg words s
  | .busVoltageFault pkg millivolts => Sys2Proof.Machine.execBusVoltageFault pkg millivolts s
  | .boilingLimitRenewal pkg die watts => Sys2Proof.Machine.execBoilingLimitRenewal pkg die watts s
  | .boilingLimitLapse pkg die => Sys2Proof.Machine.execBoilingLimitLapse pkg die s
  | .thermalThrottle pkg die centi => Sys2Proof.Machine.execThermalThrottle pkg die centi s
  | .thermalStop pkg die centi => Sys2Proof.Machine.execThermalStop pkg die centi s
  | .connectorCheck pkg conn value baseline wmask => Sys2Proof.Machine.execConnectorCheck pkg conn value baseline wmask s
  | .degradationReport pkg conn => Sys2Proof.Machine.execDegradationReport pkg conn s
  | .ultraEthernetPortDown pkg port => Sys2Proof.Machine.execUltraEthernetPortDown pkg port s
  | .ultraEthernetPortUp pkg port => Sys2Proof.Machine.execUltraEthernetPortUp pkg port s
  | .uetConnectionSetup pkg port offer => Sys2Proof.Machine.execUetConnectionSetup pkg port offer s
  | .mgmtUnknownRequest pkg code => Sys2Proof.Machine.execMgmtUnknownRequest pkg code s
  | .signedImageViaUltraEthernet pkg image => Sys2Proof.Machine.execSignedImageViaUltraEthernet pkg image s
  | .busVoltageRecovery pkg millivolts => Sys2Proof.Machine.execBusVoltageRecovery pkg millivolts s
  | .thermalThrottleEnd pkg die centi => Sys2Proof.Machine.execThermalThrottleEnd pkg die centi s
  | .foldJoinRecorded ix => Sys2Proof.Machine.execFoldJoinRecorded ix s
  | .leaSequenceTimeout core idx => Sys2Proof.Machine.execLeaSequenceTimeout core idx s
  | .larkTransmitterRestore pkg => Sys2Proof.Machine.execLarkTransmitterRestore pkg s
  | .domainFormation numbers => Sys2Proof.Machine.execDomainFormation numbers s
  | .leaGroupFormation group members => Sys2Proof.Machine.execLeaGroupFormation group members s

end Sys2Proof.Machine
end

