-- ==== Sys2Proof/Machine/Step.lean ====
section
/-! DEFINITION. One step: time passes, the turn that the state names runs, and the next turn is a free value (DESIGN
CHOICE, logs 1 and 2). `withFetchWord` places one instruction where the next step fetches it (log 5). -/

namespace Sys2Proof.Machine

/-- The state names its next turn. -/
def State.nextTurn (s : State) : State := { s with turn := Config.turn s.tick, tick := s.tick + 1 }

/-- One step. -/
def step (s : State) : Host.Outcome State Fault Refusal :=
  match runTurn exec (s.advance s.turn.dt) with
  | .next t => .next t.nextTurn
  | .fault f => .fault f
  | .refused r => .refused r

/-- A line with one instruction in slot 0 and zeros elsewhere, its side, SP and LP as 10 R203 asks. -/
def lineWith (w : SlotBits) : List Byte :=
  let side := sideOfOpcode w
  let sp := ones w % 2
  let word := (if side then 2 ^ 15 else 0) + sp * 2 ^ 26
  let lp := ((if side then 1 else 0) + sp) % 2
  leBytes 12 w.toNat ++ List.replicate 48 0 ++ leBytes 4 (word + lp * 2 ^ 31)

/-- A strand that no cause is to park its core for (09 R196): while one is, no strand of the core issues. -/
def unparked (q : Nat × Option Strand) : Nat × Option Strand :=
  (q.1, q.2.map (fun x => if x.pending.any (fun p => p.cause.code == cReservedFormat) then { x with pending := none } else x))

/-- A state that fetches `w` next: on core 0 of partition 1, strand 0 stands at program counter 0, whose page a cached
leaf maps to physical address 0 as executable and scanned, and the strand may read the channel that holds it. -/
def State.withFetchWord (s : State) (nbits w : Nat) : State :=
  let co := s.core 0
  let tc : TcEntry := { part := 1, va := 0, big := false, lo := 0xC00000000000B400#64, hi := 0, passed := true }
  let s1 := s.setCore 0 { co with
    part := 1, assigned := true, tc := tc :: co.tc, halt := .none, spec := none,
    strands := smPut (co.strands.map unparked) 0 (some freshStrand) }
  let p := s1.pkg 0
  let s2 := s1.setPkg 0 { p with access := smPut (smPut p.access 16 0xF) 17 0xF }
  let s3 := clearPoison (writeBytes s2 0 (lineWith (BitVec.ofNat 96 (w % 2 ^ nbits)))) 0 64
  { s3 with turn := { agent := .slot 0 0, dt := 0, useCache := true, upset := false, free := 0 } }

end Sys2Proof.Machine
end

