-- ==== Sys2Proof/Safety.lean ====
section
/-! DEFINITION. What counts as a safe step and a safe run, and the terms that the claims use: who acts, what a completed
slot and a completed entry leave, what stays. The device's own faults are next states; a step that ends in a fault or a
refusal of the model says nothing about the device. -/

namespace Sys2Proof

/-- The step answers a next state. -/
def Safe (s : Machine.State) : Prop := ∃ t, Machine.step s = .next t

/-- `n` steps each answer a next state. -/
def SafeRun : Nat → Machine.State → Prop
  | 0, _ => True
  | n + 1, s => ∃ t, Machine.step s = .next t ∧ SafeRun n t

namespace Machine

/-! ### Who acts -/

/-- The turn is that of a slot of the live strand that `a` names. -/
def AtSlot (s : State) (a : Actor) : Prop := s.actor = some a ∧ a.exec = false
/-- The turn is that of the head entry of the sequencer of the live strand that `a` names. -/
def AtEntry (s : State) (a : Actor) : Prop := s.actor = some a ∧ a.exec = true
/-- A slot that is executed: its guard is true, and no SINGLE_STEP follows it. -/
def Runs (s : State) (a : Actor) (g : Guard) : Prop := AtSlot s a ∧ a.guard g = true ∧ a.x.ss = false

/-! ### What stays -/

/-- Every part of the machine but core `c` is as it was; every byte of memory too. -/
def OnlyCore (s t : State) (c : Nat) : Prop :=
  (∀ pa, t.byte pa = s.byte pa) ∧ (∀ j, j ≠ c → t.core j = s.core j) ∧ t = { s with cores := t.cores }

/-- Every strand of core `c` but strand `k`, and every strand of every other core, is as it was. -/
def OnlyStrand (s t : State) (c k : Nat) : Prop := ∀ j i, (j ≠ c ∨ i ≠ k) → t.strand j i = s.strand j i

/-- `t` is `s` with core `a.core` turned into `co` and strand `a.k` of it into `y`; nothing else has changed: no byte of
memory, no other strand, no other register of that core, no other core, no other part of the machine. -/
def Leaves (s t : State) (a : Actor) (co : Core) (y : Strand) : Prop :=
  OnlyCore s t a.core ∧ OnlyStrand s t a.core a.k ∧ t.strand a.core a.k = some y ∧
  t.core a.core = { co with strands := (t.core a.core).strands }

/-! ### What a completed slot leaves -/

/-- A strand after a slot that made no transfer: the next program counter, or a loop level's start (12 R253 to R255). -/
def nextSlot (x : Strand) (pc : Word) : Strand :=
  let r := loopBack x pc
  { r.1 with pc := r.2.1, needTgt := r.2.2, wait := none, prog := .none }
/-- A strand after a taken transfer to `t`. -/
def jumped (x : Strand) (t : Word) : Strand := { x with pc := t, wait := none, prog := .none }

/-- A strand with scalar register `d` written, with residue `r`; a write to zr is discarded. The write clears the register's
tag, and its check code is that of the value (26 R472, R473). -/
def withSum (x : Strand) (d : SReg) (v : Word) (r : BitVec 4) : Strand :=
  match d with
  | .s i => { x with s := x.s.set i v, checks := x.checks.wroteS i r }
  | .zr => x
/-- The same, with the residue formed from the value (26 R475). -/
def withReg (x : Strand) (d : SReg) (v : Word) : Strand := withSum x d v (residueOf v)
/-- A strand with predicate register `d` written; a write to k0 is discarded. -/
def withPred (x : Strand) (d : Fin 8) (v : KWord) : Strand :=
  if d = 0 then x else { x with k := x.k.set d v, checks := x.checks.wroteK d }

/-- A core whose strand `k` has completed one more slot: event code 0x02 is counted (26 Table 26.2), and the slots of the
strand's speculative path (02 R79). -/
def countSlot (co : Core) (k : Nat) : Core :=
  { co with
    counters := co.counters.map (fun n => n.add 2 (some co.part) 1)
    spec := co.spec.map (fun x => if x.strand = k then { x with count := x.count + 1 } else x) }

/-- Executing `i` at a slot completes: the strand's context becomes `y` and its core's registers those of `co`, and
nothing else changes. -/
def Completes (i : Instr) (s : State) (a : Actor) (co : Core) (y : Strand) : Prop :=
  ∃ t, exec i s = .next t ∧ Leaves s t a (countSlot co a.k) y

/-- Executing `i` at a slot traps: class T at the slot itself, with the state as it was before (09 R179). -/
def Traps (i : Instr) (s : State) (a : Actor) (code : Code) (eva : Word) : Prop :=
  exec i s = .next (raise s a.core a.k .t { code := code, eva := eva } a.pc 0)

/-- Executing `i` at a slot takes a transfer to `p`: the strand's context becomes `y` there, and nothing else changes. -/
def JumpsTo (i : Instr) (s : State) (a : Actor) (y : Strand) (p : Word) : Prop :=
  ∃ t, exec i s = .next t ∧ Leaves s t a (countSlot (s.core a.core) a.k) (jumped y p)

/-- Executing `i` at a slot completes with no effect of its own, and then raises a cause of class N: EPC names the slot that
would issue next. -/
def TrapsAfter (i : Instr) (s : State) (a : Actor) (code : Code) (eva : Word) : Prop :=
  ∃ t, Leaves s t a (countSlot (s.core a.core) a.k) (nextSlot a.x a.pc) ∧
    exec i s = .next (raise t a.core a.k .n { code := code, eva := eva } (nextSlot a.x a.pc).pc 0)

/-! ### What trap entry leaves (09 R179) -/

/-- The record of a trap, below the frame. -/
def trapRecord (x : Strand) : Word := ((x.s.get 14 - 2048) >>> 11) <<< 11
/-- Strand `k` of core `c`, whose context is `x`, is on no speculative path, not in trap mode and at no row barrier; its record
lies in page `l` where the strand may write, and its vector, the bytes `vb`, is not zero. -/
def TrapFits (s : State) (c k : Nat) (x : Strand) (cause : Cause) (epc : Word) (cfg : PartCfg) (l : Leaf) (vb : List Byte) : Prop :=
  let part := (s.core c).part
  let va := trapRecord x
  let img := recordBytes (s.core c) c k x cause epc 0 s.tick s.turn.free
  let s1 := countDelivery s c cause.code part
  let s2 := clearPoison (writeBytes s1 (l.pa va) img) (l.pa va) img.length
  s.strand c k = some x ∧ (s.core c).spec = none ∧ x.tm = false ∧ x.gang = none ∧
  (barrierOf s c).waiting.contains (c, k) = false ∧ s.cfg c = some cfg ∧ cfg.fqall = false ∧
  strandLeaf s1 c (x.prio == 3) va false true false = .ok l ∧ strandStoreRaw s1 c (strandIdent (s.core c) x) va img = .ok s2 ∧
  strandLoadRaw s2 c { part := part, cls := 1 } (space0 (cfg.tvbase + BitVec.ofNat 64 (8 * cause.code.toNat))) 8 = .ok vb ∧
  leVal vb % 2 ^ 64 ≠ 0
/-- `t` is `s` with the trap of class T or N taken: CAUSE, EPC and EVA receive what the cause gives, STATUS has TM set, PRIO 3
and SS clear, s14 names the record, the loop levels are free, the return stack is empty, the execute side is in the residue, and
the strand goes on at the vector; every other scalar, vector and predicate register is kept. The record holds s0 to s15, EPC,
STATUS and CAUSE as they were; no other byte of memory has changed. -/
def TrapTaken (s t : State) (c k : Nat) (x : Strand) (cause : Cause) (epc : Word) (l : Leaf) (vb : List Byte) : Prop :=
  let pa := l.pa (trapRecord x)
  (∃ y, t.strand c k = some y ∧ y.cause = cause.code ∧ y.epc = epc ∧ y.eva = cause.eva ∧ y.tm = true ∧ y.prio = 3 ∧
    y.ss = false ∧ y.sprio = x.prio ∧ y.record = trapRecord x ∧ y.s = x.s.set 14 (trapRecord x) ∧ y.v = x.v ∧ y.k = x.k ∧
    y.l0.busy = false ∧ y.l1.busy = false ∧ y.rs = [] ∧ y.seq = [] ∧ y.bq = [] ∧ y.pc = space0 (BitVec.ofNat 64 (leVal vb))) ∧
  (∃ r, smGet none (t.core c).residues s.tick = some r ∧ r.seq = x.seq ∧ r.bq = x.bq ∧ r.capture = x.capture) ∧
  (∀ q, q < pa ∨ pa + 2048 ≤ q → t.byte q = s.byte q) ∧
  (∀ i : Fin 16, readBytes t (pa + 16 * i.val) 16 = leBytes 16 (x.s.get i).toNat) ∧
  readD t (pa + 0x100) = epc.setWidth 64 ∧ readD t (pa + 0x108) = statusOf x ∧
  readD t (pa + 0x110) = BitVec.ofNat 64 (cause.code.toNat * 2 ^ 58)

/-- A strand whose head entry has left the sequencer. -/
def popped (x : Strand) : Strand := { x with seq := seqPop x.seq, ewait := none, eprog := .none }

/-- Executing `i` as the head entry of a sequencer completes: the entry leaves, the strand's context becomes `y` and its
core's registers those of `co`, and nothing else changes. -/
def EntryCompletes (i : Instr) (s : State) (a : Actor) (co : Core) (y : Strand) : Prop :=
  ∃ t, exec i s = .next t ∧ Leaves s t a co (popped y)

/-! ### What an executed entry leaves -/

/-- The head entry carries its shadow, and the core is in SHADOW mode (26 R473, R475). -/
def shadowMarks (s : State) (a : Actor) : Bool := !bit (s.core a.core).fctl 9 && headShadowed a.x
/-- A value with lanes written: each lane's number and pattern. -/
def putLanes (w : Nat) (v : VWord) (ls : List (Nat × Nat)) : VWord := ls.foldl (fun u l => setLane w u l.1 l.2) v
/-- A strand with lanes `ls` of vector register `d` written by the head entry, none of them, or some, where its shadow tags
the register, and its check code disagrees when an upset meets the turn (26 R473). -/
def withLanes (s : State) (a : Actor) (x : Strand) (d : Fin 32) (w : Nat) (ls : List (Nat × Nat)) : Strand :=
  if ls = [] then x
  else
    { x with
      v := x.v.set d (putLanes w (x.v.get d) ls)
      checks := if shadowMarks s a then (x.checks.wroteV d).shadowV d s.turn.upset else x.checks.wroteV d }
/-- A core after an instruction's flags and draws (14 R270). -/
def flagged (co : Core) (r : Raised) (seed : BitVec 32) : Core :=
  { co with seed := seed, fstat := co.fstat ||| r.flags.setWidth 64 }

/-- A lane-wise instruction: its guard, its lane type, its destination, its sources, and what it makes of a lane. -/
structure LaneWise where
  i : Instr
  g : Guard
  t : LaneTy
  d : VReg
  srcs : List VSrc
  f : List VWord → Nat → BitVec 32 → LaneRes

/-- The lane-wise instructions of rows 0x08, 0x09, 0x0C and 0x0D, from the integer and floating-point results of Tables
14.5 to 14.8. -/
def laneWise (s : State) (a : Actor) (f3 : V3) (f4 : V4) (fn : V3n) (f2 : V2) (fs : VselF) (fp : VpermF) (fb : VbcastF) :
    List LaneWise :=
  let mode := fun (rm : RndField) => modeOf rm (s.core a.core).fctl
  let three := fun (i : Instr) (op : Int → Int → Int) (fl : Mode → Num → Num → Num × Flags) =>
    ({ i := i, g := f3.g, t := f3.lt, d := f3.d, srcs := [f3.a, f3.b], f := fun vs n seed =>
        if f3.lt.isInt then intLane f3.lt f3.sat true (op (argInt f3.lt vs 0 n) (argInt f3.lt vs 1 n)) seed
        else fpLane f3.lt (mode f3.rm) f3.sat (fl (mode f3.rm) (argNum f3.lt vs 0 n) (argNum f3.lt vs 1 n)) seed } : LaneWise)
  let four := fun (i : Instr) (op : Int → Int → Int → Int) (fl : Num → Num → Num → Num × Num × Num) =>
    ({ i := i, g := f4.g, t := f4.lt, d := f4.d, srcs := [f4.a, f4.b, f4.c], f := fun vs n seed =>
        if f4.lt.isInt then
          intLane f4.lt f4.sat true (op (argInt f4.lt vs 0 n) (argInt f4.lt vs 1 n) (argInt f4.lt vs 2 n)) seed
        else
          let p := fl (argNum f4.lt vs 0 n) (argNum f4.lt vs 1 n) (argNum f4.lt vs 2 n)
          fpLane f4.lt (mode f4.rm) f4.sat (numFma (mode f4.rm) p.1 p.2.1 p.2.2) seed } : LaneWise)
  let pat := fun (i : Instr) (op : Nat → Nat → Nat) =>
    ({ i := i, g := fn.g, t := fn.lt, d := fn.d, srcs := [fn.a, fn.b], f := fun vs n seed =>
        LaneRes.exact (op (argBits fn.lt vs 0 n) (argBits fn.lt vs 1 n)) seed } : LaneWise)
  let least := fun (i : Instr) (max : Bool) =>
    pat i (fun x y =>
      if fn.lt.isInt then
        (if decide (intOf fn.lt.isSigned fn.lt.width x < intOf fn.lt.isSigned fn.lt.width y) != max then x else y)
      else fpMinMax (laneFp fn.lt) max x y)
  let w := fn.lt.width
  let sign := fun (i : Instr) (op : Int → Int) (neg : Bool → Bool) =>
    ({ i := i, g := f2.g, t := f2.lt, d := f2.d, srcs := [f2.a], f := fun vs n seed =>
        let b := argBits f2.lt vs 0 n
        let sb := (laneFp f2.lt).signBit
        if f2.lt.isInt then intLane f2.lt f2.sat true (op (argInt f2.lt vs 0 n)) seed
        else if (argNum f2.lt vs 0 n).isNaN then LaneRes.exact (laneFp f2.lt).nanBits seed
        else LaneRes.exact ((if neg (decide (sb ≤ b)) then sb else 0) + b % sb) seed } : LaneWise)
  let special := fun (i : Instr) (fn : SpecialFn) =>
    ({ i := i, g := f2.g, t := f2.lt, d := f2.d, srcs := [f2.a], f := fun vs n seed =>
        let r := specialFn fn f2.lt f2.sat (argBits f2.lt vs 0 n)
        { bits := r.1, raised := Raised.ofFlags r.2, seed := seed } } : LaneWise)
  [three (.vadd f3) (fun x y => x + y) (fun m x y => numAdd m x y),
   three (.vsub f3) (fun x y => x - y) (fun m x y => numAdd m x y.neg),
   three (.vmul f3) (fun x y => x * y) (fun _ x y => numMul x y),
   four (.vfma f4) (fun x y z => x * y + z) (fun x y z => (x, y, z)),
   four (.vfms f4) (fun x y z => x * y - z) (fun x y z => (x, y, z.neg)),
   four (.vnfma f4) (fun x y z => z - x * y) (fun x y z => (x.neg, y, z)),
   least (.vmin fn) false, least (.vmax fn) true,
   sign (.vabs f2) (fun x => x.natAbs) (fun _ => false), sign (.vneg f2) (fun x => -x) (fun n => !n),
   pat (.vand fn) (fun x y => x &&& y), pat (.vor fn) (fun x y => x ||| y), pat (.vxor fn) (fun x y => x ^^^ y),
   pat (.vshl fn) (fun x y => x * 2 ^ (y % w) % 2 ^ w), pat (.vshr fn) (fun x y => x / 2 ^ (y % w)),
   pat (.vsar fn) (fun x y => wrapInt w (intOf true w x / 2 ^ (y % w))),
   { i := .vsel fs, g := fs.g, t := fs.lt, d := fs.d, srcs := [fs.a, fs.b], f := fun vs n seed =>
      LaneRes.exact (argBits fs.lt vs (if bit (a.k0 fs.c) (govern fs.lt.width n) then 0 else 1) n) seed },
   { i := .vperm fp, g := fp.g, t := .i8, d := fp.d, srcs := [fp.a, vregSrc fp.b], f := fun vs n seed =>
      let b := argBits .i8 vs 1 n
      LaneRes.exact (if 128 ≤ b then 0 else argBits .i8 vs 0 (b % 16)) seed },
   { i := .vbcast fb, g := fb.g, t := fb.lt, d := fb.d, srcs := [fb.a], f := fun vs _ seed =>
      LaneRes.exact (argBits fb.lt vs 0 fb.idx.toNat) seed },
   special (.vrcp f2) .rcp, special (.vrsq f2) .rsq, special (.vexp f2) .exp, special (.vexp2 f2) .exp2,
   special (.vlog2 f2) .log2, special (.vtanh f2) .tanh, special (.vsin f2) .sin, special (.vcos f2) .cos]

/-! ### What a memory instruction leaves -/

/-- Nothing of the strand's slot is under way, and it is on no speculative path. -/
def Settled (s : State) (a : Actor) : Prop := a.spec s = none ∧ a.x.prog = .none

/-- An access is performed within the step that executes it: its home is memory of the strand's own die, its target admits
it, no sub-byte store holds it, and where it writes no earlier store of the strand is on its way within the die. -/
def AtHome (s : State) (a : Actor) (x : Access) : Prop :=
  x.isLocal a.core = true ∧ s.deniedAt (a.ident s) x = none ∧ (siteOf x.pa x.geom2).isMemory = true ∧
  heldBySubByte s a.core x = false ∧ (x.writes = true → nearKept s a.core a.k = false)
/-- The same, and neither its line nor that of its pair is poisoned. -/
def Readable (s : State) (a : Actor) (x : Access) : Prop :=
  AtHome s a x ∧ s.poisoned x.pa x.bytes = none ∧
  ∀ n q m, x.op = .load n (some (q, m)) → (siteOf q (x.pairGeom q)).isMemory = true ∧ s.poisoned q m = none
/-- The bytes that a load takes: its datum's, then those of its pair. -/
def dataAt (s : State) (x : Access) : List Byte :=
  match x.op with
  | .load n none => readBytes s x.pa n
  | .load n (some (q, m)) => readBytes s x.pa n ++ readBytes s q m
  | _ => []

/-- Memory after one store. -/
def storeEffect (s : State) (x : Access) : State :=
  match x.op with
  | .store b => writeBytes s x.pa b
  | .nibble high v => writeNibble s (2 * x.pa + (if high then 1 else 0)) v.toNat
  | .block bs => bs.foldl blockApply s
  | _ => s
/-- Every block update among stores that are performed in order meets a sound stored pair (05 R120; 26 R477). -/
def SoundPairs (s : State) (xs : List Access) : Prop :=
  ∀ pre x post bs, xs = pre ++ x :: post → x.op = .block bs → bs.findSome? (blockMeets (pre.foldl storeEffect s)) = none
/-- The addresses of the bytes that a store may change. -/
def Access.touches (x : Access) (q : Nat) : Prop :=
  match x.op with
  | .store b => x.pa ≤ q ∧ q < x.pa + b.length
  | .nibble _ _ => q = x.pa
  | .block bs => ∃ b ∈ bs, (∃ w ∈ b.writes, q = b.place w.1 / 2) ∨ q = b.pair ∨ q = b.pair + 1
  | _ => False

/-- `t` is `s` with core `a.core` turned into `co`, strand `a.k` of it into `y`, and changes of memory, of which the claim
says more: every other strand, core and part of the machine is as it was. -/
def LeavesMem (s t : State) (a : Actor) (co : Core) (y : Strand) : Prop :=
  OnlyStrand s t a.core a.k ∧ t.strand a.core a.k = some y ∧
  t.core a.core = { co with strands := (t.core a.core).strands } ∧ (∀ j, j ≠ a.core → t.core j = s.core j) ∧
  t = { s with cores := t.cores, mem := t.mem, poison := t.poison }
/-- Executing `i` at a slot completes with the stores `xs`, in order: the bytes they write hold what they write, every other
byte of memory is as it was, and of everything else only the strand and its core's registers have changed. -/
def CompletesStores (i : Instr) (s : State) (a : Actor) (xs : List Access) (co : Core) (y : Strand) : Prop :=
  ∃ t, exec i s = .next t ∧ LeavesMem s t a (countSlot co a.k) y ∧
    (∀ q, t.byte q = (xs.foldl storeEffect s).byte q) ∧ ∀ q, (∀ x ∈ xs, ¬ x.touches q) → t.byte q = s.byte q

/-- A strand with lanes `ls` of vector register `d` written by an access-side slot. -/
def slotLanes (x : Strand) (d : Fin 32) (w : Nat) (ls : List (Nat × Nat)) : Strand :=
  if ls = [] then x else { x with v := x.v.set d (putLanes w (x.v.get d) ls), checks := x.checks.wroteV d }

/-- A core after a write of the queue slot at `pa`: no shadow's check bits stand there (26 R473). -/
def untagged (co : Core) (pa : Nat) : Core := { co with slotTags := smSet none co.slotTags pa none }

/-- A vector load: what its slot names, the elements of each of its accesses, the queues it uses beside its destination,
its checks. -/
structure VectorLoad where
  i : Instr
  g : Guard
  lt : LaneTy
  rm : RndField
  sat : Bool
  raw : Bool
  d : VReg
  n : Nat
  more : List QUse
  plan : List Access × Option PlanErr
/-- VLD, VLDS and VGATH, the last with the index value `idx`. -/
def vectorLoads (s : State) (a : Actor) (f : VmemF) (fs : VstrideF) (fi : VindexF) (idx : VWord) : List VectorLoad :=
  [{ i := .vld f, g := f.g, lt := f.lt, rm := f.rm, sat := f.sat, raw := f.raw, d := f.d, n := f.lt.lanes, more := [],
     plan := onePlan (planElems s a (a.ea f.m) f.lt f.raw f.lt.lanes (rawAlign f.raw f.lt f.lt.lanes) false
       (fun _ => none)) },
   { i := .vlds fs, g := fs.g, lt := fs.lt, rm := fs.rm, sat := fs.sat, raw := fs.raw, d := fs.d, n := 1, more := [],
     plan := planList (fun i => planElem s a fs.lt fs.raw false (strideVa a fs i)) (List.range fs.lt.lanes) },
   { i := .vgath fi, g := fi.g, lt := fi.lt, rm := fi.rm, sat := fi.sat, raw := fi.raw, d := fi.d, n := 1,
     more := regUseIn fi.idx,
     plan := planList (fun i => planElem s a fi.lt fi.raw true (indexVa a fi idx i)) (List.range fi.lt.lanes) }]

/-- A vector store: what its slot names, the queues it uses, its source, its checked pieces for a source value. -/
structure VectorStore where
  i : Instr
  g : Guard
  lt : LaneTy
  rm : RndField
  sat : Bool
  raw : Bool
  rel : Bool
  d : VReg
  us : List QUse
  plan : VWord → Except PlanErr (List StorePiece)
/-- VST, VSTS and VSCAT, the last with the index value `idx`. -/
def vectorStores (s : State) (a : Actor) (f : VmemF) (fs : VstrideF) (fi : VindexF) (idx : VWord) : List VectorStore :=
  [{ i := .vst f, g := f.g, lt := f.lt, rm := f.rm, sat := f.sat, raw := f.raw, rel := f.ord.isSome, d := f.d,
     us := regUseIn f.d,
     plan := fun v => (planStore s a (a.ea f.m) f.lt f.raw (lanesOf f.lt v) (rawAlign f.raw f.lt f.lt.lanes)
       (fun _ => none)).map (fun p => [p]) },
   { i := .vsts fs, g := fs.g, lt := fs.lt, rm := fs.rm, sat := fs.sat, raw := fs.raw, rel := fs.ord.isSome, d := fs.d,
     us := regUseIn fs.d,
     plan := fun v => planPieces (fun i => planPieceAt s a fs.lt fs.raw (strideVa a fs i) i (lane fs.lt.width v i))
       (List.range fs.lt.lanes) },
   { i := .vscat fi, g := fi.g, lt := fi.lt, rm := fi.rm, sat := fi.sat, raw := fi.raw, rel := fi.ord.isSome, d := fi.d,
     us := regUseIn fi.d ++ regUseIn fi.idx,
     plan := fun v => planPieces (fun i => planPieceAt s a fi.lt fi.raw (indexVa a fi idx i) i (lane fi.lt.width v i))
       (List.range fi.lt.lanes) }]

/-- An atomic: what its slot names, the pages it may use, the read-modify-write it asks of the home, and the value the home
then holds, if it writes one (15 Table 15.4). -/
structure AtomicForm where
  i : Instr
  g : Guard
  ord : Order
  d : SReg
  m : MemBase
  z : Bool
  rule : Leaf → Option Code
  x : Atomic
  new : Nat → Option Nat
/-- The atomics of row 0x13. -/
def atomicForms (a : Actor) (f : AmoF) (fc : CasF) (ff : AmofF) : List AtomicForm :=
  let n := iwBytes f.w
  let w := 8 * n
  let b := bits (a.sdata f.b) 0 w
  let form := fun (i : Instr) (op : AtomicOp) (new : Nat → Nat) =>
    ({ i := i, g := f.g, ord := f.ord, d := f.d, m := f.m, z := f.z, rule := ruleInt n,
       x := { op := op, len := n, signed := !f.z, b := low64 (a.sdata f.b), c := 0 },
       new := fun old => some (new old) } : AtomicForm)
  let less := fun (x y : Nat) => decide (intOf (!f.z) w x < intOf (!f.z) w y)
  let wc := 8 * iwBytes fc.w
  let nf := if ff.fmt = .fp32 then 4 else 2
  let fp := amofFp ff.fmt
  [form (.amoAdd f) .add (fun old => (old + b) % 2 ^ w), form (.amoMin f) .min (fun old => if less old b then old else b),
   form (.amoMax f) .max (fun old => if less old b then b else old), form (.amoAnd f) .and (fun old => old &&& b),
   form (.amoOr f) .or (fun old => old ||| b), form (.amoXor f) .xor (fun old => old ^^^ b),
   form (.amoSwap f) .swap (fun _ => b),
   { i := .amoCas fc, g := fc.g, ord := fc.ord, d := fc.d, m := fc.m, z := fc.z, rule := ruleInt (iwBytes fc.w),
     x := { op := .cas, len := iwBytes fc.w, signed := !fc.z, b := low64 (a.sdata fc.b), c := low64 (a.sr.get fc.c) },
     new := fun old => if old = bits (a.sr.get fc.c) 0 wc then some (bits (a.sdata fc.b) 0 wc) else none },
   { i := .amofAdd ff, g := ff.g, ord := ff.ord, d := ff.d, m := ff.m, z := true, rule := ruleFloat ff.fmt,
     x := { op := .fadd ff.fmt, len := nf, signed := false, b := low64 (a.sdata ff.b), c := 0 },
     new := fun old => some (fpEncode fp .rn false
       (numSum .rn [fpDecode fp old, fpDecode fp (bits (a.sdata ff.b) 0 (8 * nf))]).1 0).bits }]

/-! ### What an append leaves -/

/-- Executing `i` at a slot appends command `x`: it takes its engine's next sequence number and stands last in the staging
buffer; its ranges, which its slots of the lock table then hold, are registered where they are known and the table has room (15
R327). The
strand's context becomes `y`; memory and every other strand are as they were. -/
def Stages (i : Instr) (s : State) (a : Actor) (x : Command) (y : Strand) : Prop :=
  let co := s.core a.core
  let cl := clOf a.core
  let z := { x with seq := nextSeq (co.engSeq.get x.eng) }
  let rs := rangesOf s z
  let room := rangesKnown s z && decide ((s.cluster cl).locks.length + rs.length ≤ 64)
  let lock := fun (r : Nat × Nat × Bool) =>
    ({ part := x.part, lo := r.1, hi := r.2.1, dst := r.2.2, core := x.core, eng := x.eng, seq := z.seq, retained := false } :
      RangeLock)
  ∃ t, exec i s = .next t ∧ OnlyStrand s t a.core a.k ∧ t.strand a.core a.k = some (nextSlot y a.pc) ∧
    (∀ pa, t.byte pa = s.byte pa) ∧ (t.core a.core).staging = co.staging ++ [{ z with registered := room }] ∧
    (t.core a.core).engSeq = co.engSeq.set x.eng z.seq ∧
    (t.cluster cl).locks = (s.cluster cl).locks ++ (if room then rs.map lock else [])

/-! ### What a message leaves -/

/-- A handle that passes the checks of an instruction that takes objects (`obj`) or answers (`ans`) (17 R344). -/
def HandleOk (s : State) (a : Actor) (h : DWord) (obj ans : Bool) : Prop :=
  hKind h < 2 ∧ h ≠ 0 ∧ (hKind h = 0 → obj = true) ∧ (hKind h = 1 → ans = true) ∧
  (hKind h = 1 → hHome h = a.core → slotGen s a.core (hSlot h) = hGen h)

/-- A flit that its source keeps until it is acknowledged: source, destination, class, message. -/
def Kept.what (q : Kept) : Nat × Dest × Nat × Msg := (q.flit.src, q.flit.dst, q.flit.cls, q.flit.msg)
/-- `t` has sent the messages `ms` of core `c` after `s`, in that order, and no other. -/
def Sent (s t : State) (c : Nat) (ms : List (Dest × Nat × Msg)) : Prop :=
  t.kept.map Kept.what = s.kept.map Kept.what ++ ms.map (fun m => (c, m.1, m.2.1, m.2.2))
/-- Executing `i` at a slot completes with the messages `ms` sent; the strand's context becomes `y`, and memory and every
other strand are as they were. -/
def Sends (i : Instr) (s : State) (a : Actor) (ms : List (Dest × Nat × Msg)) (y : Strand) : Prop :=
  ∃ t, exec i s = .next t ∧ OnlyStrand s t a.core a.k ∧ t.strand a.core a.k = some (nextSlot y a.pc) ∧
    (∀ pa, t.byte pa = s.byte pa) ∧ Sent s t a.core ms
/-- The strand stays at its slot, with `y` in place of its context, and the messages `ms` sent. -/
def Waits (i : Instr) (s : State) (a : Actor) (ms : List (Dest × Nat × Msg)) (y : Strand → Prop) : Prop :=
  ∃ t z, exec i s = .next t ∧ OnlyStrand s t a.core a.k ∧ t.strand a.core a.k = some z ∧ y z ∧ z.pc = a.x.pc ∧
    z.s = a.x.s ∧ (∀ pa, t.byte pa = s.byte pa) ∧ Sent s t a.core ms
/-- The two notices of an answer's state, or one where HOME and COMPUTE are the same core (17 R348). -/
def notices (h : DWord) (m : Msg) : List (Dest × Nat × Msg) :=
  (Dest.core (hHome h), clsNTC, m) :: (if hCompute h = hHome h then [] else [(Dest.core (hCompute h), clsNTC, m)])

/-! ### Rows 0x18 to 0x1A -/

/-- Executing `i` at a slot puts it into the sequencer, with the registers as every earlier slot left them, and completes the
slot. -/
def Enters (i : Instr) (s : State) (a : Actor) (co : Core) : Prop :=
  Completes i s a co (nextSlot
    { a.x with seq := a.x.seq ++ [.one { pc := a.pc, i := i, s := a.x.s, k := a.x.k, shadowed := false,
                                         badS := a.x.checks.badS, badK := a.x.checks.badK, num := s.tick, taken := [] }] } a.pc)
/-- The head entry traps: class V, with no effect, and stands in front of the strand's later entries. -/
def EntryTraps (i : Instr) (s : State) (a : Actor) (code : Code) (eva : Word) : Prop :=
  exec i s = .next (raise s a.core a.k .v { code := code, eva := eva } a.x.pc a.pc)
/-- No other strand of the core has an earlier entry on a tile, plane, bank or ladder that the head entry uses, and nothing
of the entry is under way (20 R426). -/
def InTurn (s : State) (a : Actor) (i : Instr) : Prop :=
  AtEntry s a ∧ inOrder (s.core a.core) a.k (((seqHead a.x.seq).map (·.num)).getD 0) i = true ∧ a.x.eprog = .none ∧
  a.spec s = none
/-- Executing `i` as the head entry of a sequencer writes tile `d`, in which no strand is parked: its elements are those of
`f`, by row and column, its allocation bit is `al`, the flags `fl` are raised, and of the core, the strand and the machine
nothing else has changed but the count of matrix operations, which grows by `n`. -/
def WritesTile (i : Instr) (s : State) (a : Actor) (d : Nat) (f : Nat → Nat → BitVec 32) (al : Bool) (fl : Flags) (n : Nat) :
    Prop :=
  ∃ t, exec i s = .next t ∧ OnlyCore s t a.core ∧ OnlyStrand s t a.core a.k ∧ t.strand a.core a.k = some (popped a.x) ∧
    (∀ r < 32, ∀ c < 32, tileAt (t.core a.core) d r c = f r c) ∧
    (∀ j, j ≠ d → ∀ r < 32, ∀ c < 32, tileAt (t.core a.core) j r c = tileAt (s.core a.core) j r c) ∧
    (t.core a.core).tileAlloc = setBit (s.core a.core).tileAlloc d al ∧
    t.core a.core = { s.core a.core with
      strands := (t.core a.core).strands, tiles := (t.core a.core).tiles, tileAlloc := (t.core a.core).tileAlloc
      fstat := (s.core a.core).fstat ||| fl.setWidth 64, matCount := (s.core a.core).matCount + BitVec.ofNat _ n }

/-! ### What a delivered message leaves -/

/-- Flit `f`, number `n` of those in flight, comes to its target, whose duplicate filter lets it through; `u` is the state
in which the target acts (22 R435, R441; 07 R163). -/
def Arrives (s : State) (n : Nat) (f : Flit) (u : State) : Prop :=
  s.net[n]? = some f ∧ deliverable s n f = true ∧ revokedFlit s f = false ∧
  ∃ v, filterFlit { s with net := s.net.eraseIdx n } f = .execute v ∧ u = noteDelivery v f
/-- Executing `i` delivers `f`: its target has turned the machine into `t`, the filter remembers the flit as done, and its
source keeps it no longer (22 R440, R441). -/
def Takes (i : Instr) (s : State) (f : Flit) (t : State) : Prop := exec i s = .next (release (markDone t f 0) f)
/-- An event that delivers a message through the duplicate filter of its target. -/
def MessageEvent (n : Nat) (i : Instr) : Prop :=
  i ∈ ([.invocationArrival n, .forwardedInvocation n, .resolutionNotice n, .breakNotice n, .retireNotice n, .waiterRegistration n,
   .hsyncRequest n, .mailboxMessage n, .activeMessage n, .taskRelease n, .contextMove n, .contextReturn n, .frameRelease n,
   .queueLinkFlit n, .queueUnlinkFlit n, .queueSlotWriteMessage n, .queuePublishMessage n, .queueCreditMessage n,
   .credResult n, .foldContribution n, .foldOutcome n, .foldJoinRecorded n, .foldLeaveRecorded n] : List Instr)

end Machine

end Sys2Proof
end

