-- ==== Sys2Proof/Certificates/Slice0/Obligations.lean ====
section
/-! DEFINITION. The statements about the model, each a `def Obligations.<Name> : Prop`. -/

open Sys2Proof Sys2Proof.Machine

/-! ### Encoding and the step -/

/-- 10 R203, R217 and the encoding tables of each row: the decoder reads back every well-formed instruction from the word that
the encoder gives it, on the side that the instruction stands on, with every operand at every value that its encoding admits;
and what it reads from a word is well formed and has that word and that side. QCFG_UNBIND is QCFG_BIND with DIR 2 at run
time (14 Table 14.13), so its word reads as QCFG_BIND (log 35). -/
def Obligations.DecodeEncode : Prop :=
  ∀ (pos : Nat) (i : Instr),
    (i.wf pos = true → (∀ f, i ≠ .qcfgUnbind f) → ∃ w, encode i = some w ∧ decode pos i.side w = .ok i) ∧
    (∀ f, i = .qcfgUnbind f → i.wf pos = true → ∃ w, encode i = some w ∧ decode pos i.side w = .ok (.qcfgBind f)) ∧
    ∀ side w, decode pos side w = .ok i → encode i = some w ∧ i.wf pos = true ∧ side = i.side

/-- Words written out from the encodings of 10, 13 and 16 decode to the instructions that the manual writes beside them. -/
def Obligations.DecodedWords : Prop :=
  let g := fun (k : Fin 8) => ({ neg := false, k := k } : Guard)
  let m : MemOp := { a := .s 6, b := none, sc := 0, disp := 0 }
  let st : StF := { sh := false, g := g 0, w := .d, z := false, sat := false, raw := false, rel := some .sys, d := .s 7, m := m }
  decode 0 false 0x28000E0E0E00000000000000 = .ok (.nop { g := g 0, exec := false }) ∧
  decode 2 false 0x28402E0E0E00000000000000 = .ok (.br { g := g 2, ofs := 0, tslot := 0 }) ∧
  decode 2 false 0x2040061A2E00000000000002 = .ok (.cmpi { g := g 0, cond := .eq, w := .w64, d := 1, a := .loop .lc0, imm := 2 }) ∧
  decode 4 false 0x30410E0E0E0000000050001A = .ok (.loopi { g := g 0, lvl := true, count := 5, lofs := 3, eslot := 2 }) ∧
  decode 0 false 0x38003E0E0E00000000000012 = .ok (.trapI { g := g 3, imm := 0x12 }) ∧
  decode 0 false 0x10C000808D80000000000000 = .ok (.adda { sh := false, g := g 0, d := .s 8, a := .s 8, b := .src (.imm 0x18) }) ∧
  decode 1 false 0xA00000203050000600000000 = .ok (.cpy { sh := false, g := g 0, d := 2, a := 3, b := 5, c := some 6 }) ∧
  decode 4 false 0xA0800E004E00000600000000 = .ok (.replay { sh := false, g := g 0, a := 4, c := some 6 }) ∧
  decode 2 false 0x804C00706E0000E0A0000000 = .ok (.st st) ∧
  decode 0 false 0xB8080E0E0E00000000000000 = .ok (.fjoin { g := g 0, fold := 2 }) ∧
  decode 1 false 0xB888000E0E00000000000000 = .ok (.fmemb { g := g 0, d := .s 0, fold := 2, sel := 0 }) ∧
  decode 3 false 0xB8C80E061E00000000000008 = .ok (.cbrAll { g := g 0, ht := false, k := 1, fold := 2, ofs := 1, tslot := 0 })

/-- 10 R205 to R207, R217: a slot turn of a live strand that may issue, whose line its fetch delivers with its parity, its
target bit where the fetch needs one and its page scanned, runs the instruction that the 96 bits of the slot at the program
counter decode to, in the state where the strand stands in a bank; an access-side slot that names a register which an entry of
the sequencer has yet to write waits instead (10 R207), and so does one that names the result of an atomic which its
speculative path holds (02 R79; the model's choice, log 45). A slot whose SIDE bit is not that of its opcode runs as encoded, and
one that decodes to nothing runs as NOP (10 R217). Where no word that the slot uses disagrees with its check code the
instruction runs as it stands; else it is first checked (26 R472, R473, R475; log 10). -/
def Obligations.StepRunsSlot : Prop :=
  ∀ (s : State) (c k : Nat) (x : Strand) (l : Leaf) (line : List Byte) (i : Instr),
    let u := s.advance s.turn.dt
    let n := pcSlot x.pc
    let w := slotBits line n
    let v := toBank u c k { x with place := .bank, needTgt := false }
    let after : Out → Out := fun o => match o with
      | .next t => .next t.nextTurn
      | .fault f => .fault f
      | .refused r => .refused r
    s.turn.agent = .slot c k → u.strand c k = some x → cannotIssue (u.core c) k x = false → awaits x = false →
    commits (u.core c) k x = false → watchdogDue x = false → drains x = false → fetchLine u c x x.pc = .ok (l, line) → pcShapeOk x.pc = true →
    parityOk line n = true → (x.needTgt = true → tgtBit line n = true) → scanOk l = true →
    (decode n (sideBit line n) w = .ok i ∨
     (decode n (sideBit line n) w = .error .side ∧ decode n (!sideBit line n) w = .ok i) ∨
     ((∃ e, e ≠ .side ∧ decode n (sideBit line n) w = .error e) ∧
      i = .nop { g := { neg := false, k := 0 }, exec := sideBit line n })) →
    let held := heldWaits (u.core c).spec k (Slot.unpack w) i
    (spaceOf x.pc ≠ 0xC0 → line = readBytes u (l.pa (pcLine x.pc)) 64) ∧
    ((i.side = true ∨ slotWaits x (Slot.unpack w) i = false) → held = false →
      step s = after (checkedSlot exec v c k x line i) ∧
      (x.checks.lost (slotReads x i) = false → x.checks.corrects (slotReads x i) = ([], [], []) → slotCheck v c k x line n i = none →
        step s = after (exec i v))) ∧
    ((i.side = false ∧ slotWaits x (Slot.unpack w) i = true) ∨ held = true →
      ∃ t, step s = .next t ∧ (∀ q, t.byte q = s.byte q) ∧
        t.strand c k = some { x with place := .bank, needTgt := false, wait := waitOn u.now .sequencer [] x.wait })

/-- 09 R179, R190: a slot turn whose fetch meets a cause takes it as class T at the slot, with the program counter as EVA; the
strand watchdog's trap, which stands before the slot, is class N (09 R198). A turn of an entry runs the instruction at the
head of the strand's sequencer with its operands captured (10 R207), or takes SHADOW_CHECK_FAIL, class V, where a tagged operand,
a register or a queue slot, has a syndrome (26 R473); a turn of an event runs the event, and one that names an instruction of the slots as an event does
nothing. A turn of a strand that may not issue changes nothing but the time. An upset makes a word disagree with its check code
(26 R472). That each step is one such turn, chosen freely, is the model's choice (logs 1 and 10). -/
def Obligations.StepRunsOthers : Prop :=
  ∀ (s : State),
    let u := s.advance s.turn.dt
    let after : Out → Out := fun o => match o with
      | .next t => .next t.nextTurn
      | .fault f => .fault f
      | .refused r => .refused r
    (∀ c k x, s.turn.agent = .slot c k → u.strand c k = some x →
      (cannotIssue (u.core c) k x = true ∨ awaits x = true → step s = .next u.nextTurn) ∧
      (cannotIssue (u.core c) k x = false → awaits x = false → commits (u.core c) k x = false →
        (watchdogDue x = true → step s = .next (State.nextTurn
          (raise (toBank u c k { x with place := .bank, wdPending := false }) c k .n { code := cWatchdog, eva := 0 } x.pc 0))) ∧
        (watchdogDue x = false → drains x = false → ∀ e, fetchSlot u c x = .error e → step s = .next (State.nextTurn
          (raise (countFetch (toBank u c k { x with place := .bank }) c x x.pc e) c k .t { code := e, eva := x.pc } x.pc 0))))) ∧
    (∀ c k x e, s.turn.agent = .execute c k → u.strand c k = some x → (u.core c).halt = .none → parkDue (u.core c) = false →
      x.pending = none → x.place = .bank → gangStarted u c k = false → (u.core c).spec = none → seqHead x.seq = some e →
      let r : Reads := { readsOf x e.k e.i with s := [], k := [] }
      x.checks.lost r = false → x.checks.corrects r = ([], [], []) →
      step s = if entryFails x e || entryUseFails u c k e then .next (State.nextTurn (raise u c k .v { code := cShadow, eva := 0 } x.pc e.pc))
        else after (exec e.i (captureOperands u c k x e))) ∧
    (∀ c k x w two, s.turn.agent = .flip c k w two → u.strand c k = some x →
      ∃ t, step s = .next t ∧ ((two = true → fatalFlip w u c = false) → t.strand c k = some (match w with
        | .s i => { x with checks := { x.checks with twoS := setBit x.checks.twoS i.val (two || bit x.checks.synS i.val)
                                                     synS := setBit x.checks.synS i.val true } }
        | .v i => { x with checks := { x.checks with twoV := setBit x.checks.twoV i.val (two || bit x.checks.synV i.val)
                                                     synV := setBit x.checks.synV i.val true } }
        | .k i => if i = 0 then x else
            { x with checks := { x.checks with twoK := setBit x.checks.twoK i.val (two || bit x.checks.synK i.val)
                                               synK := setBit x.checks.synK i.val true } }
        | _ => x) ∧ (∀ q, t.byte q = s.byte q) ∧
        (∀ pa, w = .slot pa → fatalFlip w u c = false → smGet none (t.core c).slotTags pa = some true))) ∧
    (∀ i, s.turn.agent = .event i → step s = after (if encode i = none then exec i u else .next u))

/-- The values that the manual gives a core, a cluster, a package and a die for reset: SEED 1 (05 R130), FCTL and FSTAT zero
(12 R258), no routine, mailbox or queue bound (02 R67; 15 R337; 14 R294), engine sequence counters zero (15 R327), the
microprogram FMA(A, W, S) (20 R411), no ladder (20 R417), the attention defaults (20 R421), an unconfigured tile queue
(02 R84), access tables clear but for partition 63 (07 R156), the Lea's local counter 1 (17 R375), the boot measurement zero
(28 R494), 700 W of host cap and 400 W of boiling limit (28 R498). Memory stands in its canonical form, with nothing listed;
what such a byte reads as is the model's choice (log 4). -/
def Obligations.ResetState : Prop :=
  let s := State.reset
  Memory.wf s.mem ∧ s.mem = [] ∧
  (∀ c, (s.core c).seed = 1 ∧ (s.core c).fctl = 0 ∧ (s.core c).fstat = 0 ∧ (∀ k, s.strand c k = none) ∧
    (∀ j, smGet Routine.reset (s.core c).routines j = Routine.reset) ∧ Routine.reset.handler = 0 ∧
    (∀ j, (smGet Mailbox.reset (s.core c).mailboxes j).bind = .none) ∧ (∀ q : Fin 16, ((s.core c).queues.get q).bound = false) ∧
    (∀ e : Fin 4, (s.core c).engSeq.get e = 0) ∧ (s.core c).microActive.kc = 0 ∧ (s.core c).microActive.p = 1 ∧
    (s.core c).microActive.mw.get 0 = 0xA500 ∧ (s.core c).ladder.configured = false ∧
    (s.core c).attn = { dh := .d128, inp := .fp16, out := .fp32, scale := 0x3F800000 }) ∧
  (∀ cl, (s.cluster cl).tq.configured = false) ∧
  (∀ t id, s.rights t id = if id.part = 63 then 0xF else 0) ∧
  (∀ p, (s.pkg p).lea.localNext = 1 ∧ (s.pkg p).bm = List.replicate 64 0) ∧
  ∀ d, (s.die d).hostCap = 700 ∧ (s.die d).boil = 400

/-- Every step keeps memory in its canonical form: addresses strictly rising, no entry equal to what an unlisted address reads
as. So equal memories are equal data. -/
def Obligations.MemoryInvariant : Prop :=
  ∀ s t : State, Memory.wf s.mem → step s = .next t → Memory.wf t.mem

/-! ### Rows 0x00 to 0x02 and 0x04 -/

/-- 12 R238 for the instructions of Table 12.4 whose result is a number: with the operands read as Z says, the exact result
is taken modulo 2^w, or moved into the range under .sat, which sets FSTAT.SAT, and it is extended into D. Nothing else
changes. A detected signed overflow without .sat completes so only while FCTL.EIO is clear. ADD, ADDI, SUB and MUL predict the
residue of their result (26 R475; what an upset adds to it is the model's choice, log 10).
12 R238 for ADDI: the same with the immediate as the second operand; and for ADD, ADDI, SUB and MUL the trap: a signed
result out of range without .sat raises INT_OVERFLOW while FCTL.EIO is set. -/
def Obligations.IntegerArithmetic : Prop :=
  (
    ∀ (s : State) (a : Actor) (f : Alu3), Runs s a f.g → f.sh = false →
      ∀ p ∈ ([(Instr.add f, f.z, true, fun x y => x + y), (.sub f, f.z, true, fun x y => x - y),
          (.mul f, f.z, true, fun x y => x * y), (.mulh f, false, false, fun x y => x * y / 2 ^ wbits f.w),
          (.mulhz f, true, false, fun x y => x * y / 2 ^ wbits f.w), (.minI f, false, false, min), (.maxI f, false, false, max),
          (.minz f, true, false, min), (.maxz f, true, false, max)] : List (Instr × Bool × Bool × (Int → Int → Int))),
        let z := p.2.1
        let w := wbits f.w
        let r := p.2.2.2 (intOf (!z) w (pat w (a.opnd f.a))) (intOf (!z) w (pat w (a.opnd f.b)))
        let out := decide (r < intLo (!z) w) || decide (intHi (!z) w < r)
        (out = true → f.sat = true ∨ p.2.2.1 = false ∨ z = true ∨ bit (s.core a.core).fctl 7 = false) →
        let co := s.core a.core
        let v := extend72 z w (wrapInt w (if f.sat then max (intLo (!z) w) (min (intHi (!z) w) r) else r))
        let res := if p.2.2.1 then predicted s a.core v (p.2.2.2 (a.residue f.a) (a.residue f.b))
          (p.2.2.2 (a.opnd f.a).toNat (a.opnd f.b).toNat) else residueOf v
        Completes p.1 s a { co with fstat := co.fstat ||| (flagIf (out && f.sat) flagSAT).setWidth 64 }
          (nextSlot (withSum a.x f.d v res) a.pc)
  ) ∧
  (
    (∀ (s : State) (a : Actor) (f : AluI), Runs s a f.g → f.sh = false →
      let w := wbits f.w
      let r := intOf (!f.z) w (pat w (a.opnd f.a)) + intOf (!f.z) w (f.imm.signExtend 64).toNat
      let out := decide (r < intLo (!f.z) w) || decide (intHi (!f.z) w < r)
      let co := s.core a.core
      if out = true ∧ f.sat = false ∧ f.z = false ∧ bit co.fctl 7 = true then Traps (.addi f) s a cIntOverflow 0
      else
        let v := extend72 f.z w (wrapInt w (if f.sat then max (intLo (!f.z) w) (min (intHi (!f.z) w) r) else r))
        let imm := (f.imm.signExtend 72).toNat
        Completes (.addi f) s a { co with fstat := co.fstat ||| (flagIf (out && f.sat) flagSAT).setWidth 64 }
          (nextSlot (withSum a.x f.d v (predicted s a.core v (a.residue f.a + imm) ((a.opnd f.a).toNat + imm))) a.pc)) ∧
    (∀ (s : State) (a : Actor) (f : Alu3), Runs s a f.g → f.sh = false → f.sat = false → f.z = false →
      bit (s.core a.core).fctl 7 = true →
      ∀ p ∈ ([(Instr.add f, fun x y => x + y), (.sub f, fun x y => x - y), (.mul f, fun x y => x * y)] :
          List (Instr × (Int → Int → Int))),
        let w := wbits f.w
        let r := p.2 (intOf true w (pat w (a.opnd f.a))) (intOf true w (pat w (a.opnd f.b)))
        r < -(2 ^ (w - 1)) ∨ 2 ^ (w - 1) ≤ r → Traps p.1 s a cIntOverflow 0)
  )

/-- 12 R238 for DIV, DIVZ, REM and REMZ: a quotient truncated toward zero with its remainder; a zero divisor raises
INT_DIVZERO, or under .sat gives the dividend to REM and the bound on the dividend's side to DIV and sets FSTAT.SAT. -/
def Obligations.IntegerDivision : Prop :=
  ∀ (s : State) (a : Actor) (f : Alu3), Runs s a f.g → f.sh = false →
    ∀ p ∈ ([(Instr.div f, false, false), (.divz f, true, false), (.rem f, false, true), (.remz f, true, true)] :
        List (Instr × Bool × Bool)),
      let z := p.2.1
      let w := wbits f.w
      let x := intOf (!z) w (pat w (a.opnd f.a))
      let y := intOf (!z) w (pat w (a.opnd f.b))
      let co := s.core a.core
      let done := fun (r : Int) (sat : Bool) =>
        Completes p.1 s a { co with fstat := co.fstat ||| (flagIf sat flagSAT).setWidth 64 }
          (nextSlot (withReg a.x f.d (extend72 z w (wrapInt w r))) a.pc)
      if y = 0 then
        if f.sat = true then done (if p.2.2 = true then x else if x < 0 then intLo (!z) w else intHi (!z) w) true
        else Traps p.1 s a cIntDivZero 0
      else if p.2.2 = true then done (x.tmod y) false
      else if z = false ∧ x = -(2 ^ (w - 1)) ∧ y = -1 then
        if f.sat = true then done (2 ^ (w - 1) - 1) true
        else if bit co.fctl 7 = true then Traps p.1 s a cIntOverflow 0 else done x false
      else done (x.tdiv y) false

/-- 12 R237 for the instructions of Table 12.4 whose result is a pattern: the bitwise functions of the `w`-bit patterns, and
the shifts and rotates by the low 64 bits of B modulo w; the pattern is extended into D as Z says.
12 R237 for CLZ, CTZ, POPC, SEXT and ZEXT, and R239 for BFX and BFI. CLZ and CTZ name the highest and the lowest one of
the pattern, or w. -/
def Obligations.BitOperations : Prop :=
  (
    ∀ (s : State) (a : Actor) (f : Alu3), Runs s a f.g → f.sh = false →
      let w := wbits f.w
      let x : BitVec w := (a.opnd f.a).setWidth w
      let y : BitVec w := (a.opnd f.b).setWidth w
      let c := ((a.opnd f.b).setWidth 64 : DWord).toNat % w
      ∀ p ∈ ([(Instr.andI f, x &&& y), (.orI f, x ||| y), (.xorI f, x ^^^ y), (.andn f, x &&& ~~~y), (.shl f, x <<< c),
          (.shr f, x >>> c), (.sar f, x.sshiftRight c), (.rol f, x.rotateLeft c), (.ror f, x.rotateRight c)] :
          List (Instr × BitVec w)),
        Completes p.1 s a (s.core a.core)
          (nextSlot (withReg a.x f.d (if f.z then p.2.setWidth 72 else ((p.2.signExtend 64).setWidth 72))) a.pc)
  ) ∧
  (
    (∀ (s : State) (a : Actor) (f : Alu2), Runs s a f.g → f.sh = false →
      let w := wbits f.w
      let x : BitVec w := (a.opnd f.a).setWidth w
      let done := fun (i : Instr) (v : Word) => Completes i s a (s.core a.core) (nextSlot (withReg a.x f.d v) a.pc)
      (∃ n ≤ w, (∀ j < n, x.getLsbD (w - 1 - j) = false) ∧ (n < w → x.getLsbD (w - 1 - n) = true) ∧
        done (.clz f) (BitVec.ofNat 72 n)) ∧
      (∃ n ≤ w, (∀ j < n, x.getLsbD j = false) ∧ (n < w → x.getLsbD n = true) ∧ done (.ctz f) (BitVec.ofNat 72 n)) ∧
      done (.popc f) (BitVec.ofNat 72 ((List.range w).countP (fun j => x.getLsbD j))) ∧
      done (.sext f) ((x.signExtend 64).setWidth 72) ∧ done (.zext f) (x.setWidth 72)) ∧
    (∀ (s : State) (a : Actor) (f : BitField), Runs s a f.g → f.sh = false → 1 ≤ f.len.toNat →
      f.pos.toNat + f.len.toNat ≤ 64 →
      let v : BitVec f.len.toNat := (a.opnd f.a).extractLsb' f.pos.toNat f.len.toNat
      Completes (.bfx f) s a (s.core a.core)
        (nextSlot (withReg a.x f.d (if f.z then v.setWidth 72 else (v.signExtend 64).setWidth 72)) a.pc) ∧
      ∃ r : Word, Completes (.bfi f) s a (s.core a.core) (nextSlot (withReg a.x f.d r) a.pc) ∧
        ∀ j, r.getLsbD j =
          (decide (j < 64) && (if f.pos.toNat ≤ j ∧ j < f.pos.toNat + f.len.toNat then (a.opnd f.a).getLsbD (j - f.pos.toNat)
            else (sregVal a.sr f.d).getLsbD j)))
  )

/-- 12 R241: each instruction of row 0x02 writes all 72 bits of D modulo 2^72 and sets no flag. LI, LEA, ADDA and SUBA predict
the residue of what they write (26 R475; what an upset adds to it is the model's choice, log 10).
12 R243 and R244: CMP and CMPI set all 16 bits of a predicate register to the truth of the condition of Table 12.7;
KAND, KOR, KXOR, KNOT and KMOV act on all 16 bits. -/
def Obligations.ScalarMoves : Prop :=
  (
    ∀ (s : State) (a : Actor),
      let done := fun (i : Instr) (d : SReg) (v : Word) =>
        Completes i s a (s.core a.core) (nextSlot (withReg a.x d v) a.pc)
      let sum := fun (i : Instr) (d : SReg) (v : Word) (carried exact : Int) =>
        Completes i s a (s.core a.core) (nextSlot (withSum a.x d v (predicted s a.core v carried exact)) a.pc)
      (∀ f : LiF, Runs s a f.g → f.sh = false → sum (.li f) f.d (f.imm.signExtend 72) 0 0) ∧
      (∀ f : LihF, Runs s a f.g → f.sh = false → done (.lih f) f.d (f.imm ++ (sregVal a.sr f.d).setWidth 40)) ∧
      (∀ f : LeaF, Runs s a f.g → f.sh = false →
        let b : Word := match f.b with
          | some r => ((sregVal a.sr r).setWidth 64).signExtend 72
          | none => 0
        let n := 2 ^ f.scale.toNat
        sum (.lea f) f.d (a.opnd f.a + (b <<< f.scale.toNat) + f.disp.signExtend 72)
          (a.residue f.a + n * (f.b.map a.regResidue).getD 0)
          ((a.opnd f.a).toNat + n * (f.b.map (fun r => (sregVal a.sr r).toNat)).getD 0)) ∧
      (∀ f : AddaF, Runs s a f.g → f.sh = false →
        let b : Word := match f.b with
          | .src x => a.opnd x
          | .imm v => v.signExtend 72
        let rb : Nat := match f.b with
          | .src x => a.residue x
          | .imm v => (v.signExtend 72).toNat
        sum (.adda f) f.d (a.opnd f.a + b) (a.residue f.a + rb) ((a.opnd f.a).toNat + b.toNat) ∧
        sum (.suba f) f.d (a.opnd f.a - b) ((a.residue f.a : Int) - rb) (((a.opnd f.a).toNat : Int) - b.toNat)) ∧
      (∀ f : SelectF, Runs s a f.g → f.sh = false →
        done (.select f) f.d (if (a.k0 f.c).getLsbD 0 then a.opnd f.a else a.opnd f.b))
  ) ∧
  (
    ∀ (s : State) (a : Actor),
      let done := fun (i : Instr) (d : Fin 8) (v : KWord) =>
        Completes i s a (s.core a.core) (nextSlot (withPred a.x d v) a.pc)
      let holds := fun (c : Cond) (w : Nat) (x y : BitVec w) => match c with
        | .eq => decide (x = y)
        | .ne => decide (x ≠ y)
        | .lt => x.slt y
        | .le => x.sle y
        | .gt => y.slt x
        | .ge => y.sle x
        | .ltz => x.slt 0
        | .lez => x.sle 0
        | .gtz => (0 : BitVec w).slt x
        | .gez => (0 : BitVec w).sle x
        | .ltu => x.ult y
        | .leu => x.ule y
        | .gtu => y.ult x
        | .geu => y.ule x
      (∀ f : CmpF, Runs s a f.g →
        let y : Word := match f.b with
          | some b => a.opnd b
          | none => 0
        done (.cmp f) f.d
          (if holds f.cond (wbits f.w) ((a.opnd f.a).setWidth _) (y.setWidth _) then 0xFFFF else 0)) ∧
      (∀ f : CmpiF, Runs s a f.g →
        done (.cmpi f) f.d
          (if holds f.cond (wbits f.w) ((a.opnd f.a).setWidth _) ((f.imm.signExtend 64).setWidth _) then 0xFFFF else 0)) ∧
      (∀ f : K3, Runs s a f.g → done (.kand f) f.d (a.k0 f.a &&& a.k0 f.b) ∧ done (.kor f) f.d (a.k0 f.a ||| a.k0 f.b) ∧
        done (.kxor f) f.d (a.k0 f.a ^^^ a.k0 f.b)) ∧
      (∀ f : K2, Runs s a f.g → done (.knot f) f.d (~~~a.k0 f.a)) ∧
      (∀ f : KmovF, Runs s a f.g →
        Completes (.kmov f) s a (s.core a.core) (nextSlot (match f.d, f.a with
          | .k i, .k j => withPred a.x i (a.k0 j)
          | .k i, .s j => withPred a.x i ((a.sr.get j).setWidth 16)
          | .k i, .zr => withPred a.x i 0
          | .s i, .k j => withReg a.x (.s i) ((a.k0 j).setWidth 72)
          | .s i, .s j => withReg a.x (.s i) (a.sr.get j)
          | .s i, .zr => withReg a.x (.s i) 0
          | .zr, _ => a.x) a.pc))
  )

/-! ### Traps (09 R179, R187) -/

/-- 09 R179: a trap of class T or N met by a strand that is on no speculative path, not in trap mode and at no row barrier,
whose record lies where the strand may write and whose vector is not zero (`TrapFits`), is taken: CAUSE, EPC and EVA receive
what the cause gives, STATUS has TM set, PRIO 3 and SS clear, s14 names the record, the loop levels are free, the return stack
is empty, the execute side is in the residue, and the strand goes on at the vector, every other scalar, vector and predicate
register kept; the record of 2,048 bytes holds s0 to s15, EPC, STATUS and CAUSE as they were, and no other byte of memory has
changed (`TrapTaken`). What a handler finds in a wait or a residue is formed as logs 9 and 37 say. -/
def Obligations.TrapEntry : Prop :=
  ∀ (s : State) (c k : Nat) (x : Strand) (cls : TrapClass) (cause : Cause) (epc : Word) (cfg : PartCfg) (l : Leaf)
    (vb : List Byte), cls ≠ .v → TrapFits s c k x cause epc cfg l vb →
    TrapTaken s (raise s c k cls cause epc 0) c k x cause epc l vb ∧
    (recordBytes (s.core c) c k x cause epc 0 s.tick s.turn.free).length = 2048

/-- 12 R257: TRAP completes and raises SOFTWARE_TRAP, class N, with its immediate in EVA; BRK raises BREAKPOINT at itself.
With SS set a slot that completes raises SINGLE_STEP after it (09 Table 9.4), here for NOP and a shadow slot.
The traps are taken as `TrapTaken` says (09 R179).
09 R184, R187 and R188: ERET in trap mode with an unaltered residue of this core, whose record's EPC is the trapped slot, the
next, or one that carries TGT, restores s0 to s15, v0 to v31, k1 to k7, the loop levels, the return stack and SS from the
record's bytes, clears TM, restores PRIO, takes the execute side from the residue, where the sequencer has room for it, without
the faulting entry where VSKIP is set, and goes on at EPC; outside trap mode it raises PRIVILEGED_OP. The residues that ERET
restores are formed as log 9 says. -/
def Obligations.SoftwareTraps : Prop :=
  (
    (∀ (s : State) (a : Actor) (f : TrapF), AtSlot s a → a.guard f.g = true →
      let y := nextSlot a.x a.pc
      let cause : Cause := { code := cSoftwareTrap, eva := f.imm.setWidth 72 }
      ∃ u, Leaves s u a (countSlot (s.core a.core) a.k) y ∧
        exec (.trapI f) s = .next (raise u a.core a.k .n cause y.pc 0) ∧
        ∀ cfg l vb, TrapFits u a.core a.k y cause y.pc cfg l vb →
          ∃ t, exec (.trapI f) s = .next t ∧ TrapTaken u t a.core a.k y cause y.pc l vb) ∧
    (∀ (s : State) (a : Actor) (f : Bare), AtSlot s a → a.guard f.g = true →
      let cause : Cause := { code := cBreakpoint, eva := 0 }
      Traps (.brk f) s a cBreakpoint 0 ∧
      ∀ cfg l vb, TrapFits s a.core a.k a.x cause a.pc cfg l vb →
        ∃ t, exec (.brk f) s = .next t ∧ TrapTaken s t a.core a.k a.x cause a.pc l vb) ∧
    (∀ (s : State) (a : Actor) (g : Guard), AtSlot s a → a.x.ss = true →
      TrapsAfter (.nop { g := g, exec := false }) s a cSingleStep 0)
  ) ∧
  (
    (∀ (s : State) (a : Actor) (f : Bare), Runs s a f.g → a.spec s = none → a.x.tm = false →
      Traps (.eret f) s a cPrivileged 0) ∧
    (∀ (s : State) (a : Actor) (f : Bare) (b : List Byte) (r : Residue), Runs s a f.g → a.spec s = none → a.x.tm = true →
      strandLoadRaw s a.core { part := (s.core a.core).part, cls := 1 } a.x.record 2048 = .ok b →
      let d := fun (ofs : Nat) => leVal ((b.drop ofs).take 8)
      let epc := setBits a.x.epc 0 64 (d 0x100)
      let known := epc = a.x.epc ∨ epc = pcNext a.x.epc
      let vskip := bit (BitVec.ofNat 64 (d 0x1E0) : DWord) 63
      let back := if r.v && vskip then seqPop r.seq else r.seq
      (known ∨ ∀ l line, fetchLine s a.core a.x epc = .ok (l, line) → tgtBit line (pcSlot epc) = true) → pcShapeOk epc = true →
      seqIdle a.x = true → smGet none (s.core a.core).residues (d 0x410) = some r → r.core = a.core →
      b.drop 0x400 = residueBytes r.check a.core (d 0x410) →
      sequenced (s.core a.core) + seqCount back + (r.capture.map (fun cp => cp.es.length)).getD 0 ≤ 16 →
      ∃ t y, exec (.eret f) s = .next t ∧ t.strand a.core a.k = some y ∧ (∀ pa, t.byte pa = s.byte pa) ∧
        OnlyStrand s t a.core a.k ∧ y.pc = epc ∧ y.tm = false ∧ y.prio = a.x.sprio ∧
        (∀ i : Fin 16, y.s.get i = BitVec.ofNat 72 (leVal ((b.drop (16 * i.val)).take 9))) ∧
        (∀ i : Fin 32, y.v.get i = BitVec.ofNat 128 (leVal ((b.drop (0x200 + 16 * i.val)).take 16))) ∧
        (∀ i : Fin 8, i ≠ 0 → y.k.get i = BitVec.ofNat 16 (leVal ((b.drop (0x138 + 2 * (i.val - 1))).take 2))) ∧
        y.ss = bit (BitVec.ofNat 64 (d 0x108) : DWord) 12 ∧
        y.l0.lb.setWidth 64 = BitVec.ofNat 64 (d 0x148) ∧ y.l0.le.setWidth 64 = BitVec.ofNat 64 (d 0x150) ∧
        y.l0.lc = BitVec.ofNat 32 (d 0x158) ∧ y.l1.lb.setWidth 64 = BitVec.ofNat 64 (d 0x160) ∧
        y.l1.le.setWidth 64 = BitVec.ofNat 64 (d 0x168) ∧ y.l1.lc = BitVec.ofNat 32 (d 0x170) ∧
        y.rs = (List.range (min 8 (d 0x1C0 % 16))).map (fun i => BitVec.ofNat 64 (d (0x180 + 8 * i))) ∧
        y.seq = back ∧ y.bq = r.bq ∧ y.capture = r.capture)
  )

/-! ### Slots in general (10 R210, R211; 12 R254, R255) -/

/-- 10 R211: an instruction of the access side whose guard is false completes and has no effect, shadow forms too.
10 R210 and 26 R473, R475: a shadow slot of an access-side row writes check bits only: in SHADOW mode the tag of the
destination it names, with a syndrome where an upset comes between the two, and nothing at all in RESIDUE mode (FCTL bit 9).
26 R472, R473, R475; 09 R200: a slot whose operand holds an error that cannot be corrected ends its strand at MACHINE_CHECK;
one that reads a tagged register with a syndrome raises SHADOW_CHECK_FAIL, and one whose residue differs RESIDUE_CHECK_FAIL,
class T; a single error of an untagged operand is corrected and counted before the slot runs. Which upsets come is free
(log 10). -/
def Obligations.GuardsAndShadows : Prop :=
  (
    ∀ (s : State) (a : Actor) (pos : Nat) (i : Instr), i.wf pos = true → i.side = false → AtSlot s a →
      a.guard i.guard = false → a.x.ss = false → Completes i s a (s.core a.core) (nextSlot a.x a.pc)
  ) ∧
  (
    ∀ (s : State) (a : Actor) (f : Alu3), Runs s a f.g → f.sh = true →
      ∀ i ∈ [Instr.add f, .sub f, .mul f, .div f, .andI f, .shl f],
        Completes i s a (s.core a.core) (nextSlot (if bit (s.core a.core).fctl 9 then a.x else
          match f.d with
          | .s r => { a.x with checks := a.x.checks.shadowS r s.turn.upset }
          | .zr => a.x) a.pc)
  ) ∧
  (
    ∀ (s : State) (c k : Nat) (x : Strand) (line : List Byte) (i : Instr), s.strand c k = some x →
      let holds := bit (kVal x.k i.guard.k) 0 != i.guard.neg
      let traps := fun (e : Code) => checkedSlot exec s c k x line i = .next (raise s c k .t { code := e, eva := 0 } x.pc 0)
      (∀ r ∈ scalarReads x i, (i.side = false → holds = true) → (i.side = true → usesOperands x.k i = true) →
        bit x.checks.synS r.val = true → bit x.checks.twoS r.val = true → bit x.checks.tagS r.val = false →
        checkedSlot exec s c k x line i = .next (endBare s c k x cMachineCheck 0 0)) ∧
      (x.checks.lost (slotReads x i) = false → x.checks.corrects (slotReads x i) = ([], [], []) →
        (privilegedStop x i = false ∨ holds = false) → i.side = false →
        (∀ r ∈ scalarReads x i, holds = true → bit x.checks.tagS r.val = true → bit x.checks.synS r.val = true → traps cShadow) ∧
        (x.checks.shadowFails (readsOf x x.k i) = false → (slotUses i).any (useFails s c k) = false → holds = true →
          bit (s.core c).fctl 9 = true →
          ∀ r ∈ residueReads i, (x.checks.res.get r).toNat ≠ (x.s.get r).toNat % 15 → traps cResidue)) ∧
      (∀ d : Fin 16, bit x.checks.synS d.val = true → bit x.checks.tagS d.val = false → bit x.checks.twoS d.val = false →
        scalarReads x i = [d] → predicateReads i = [] → vectorReads i = [] → x.checks.synK = 0 → i.side = false →
        slotCheck s c k x line (pcSlot x.pc) i = none → holds = true →
        checkedSlot exec s c k x line i = exec i ((s.countCore c 3 1 (some (s.core c).part)).modStrand c k (fun y =>
          { y with checks := { y.checks with synS := setBit y.checks.synS d.val false } })))
  )

/-- 12 R254 and R255: at a completed slot the level whose le it is counts down and goes to its lb, or frees at its last
count; of two levels that end there the one with the greater lb comes first, and the other is looked at only when the first
frees.
12 R252 and R253: LOOP and LOOPI on a busy level raise LOOP_NESTING; with count 0 they go to the end; otherwise they set
lb to the next slot, le to the slot before the end and lc to the count, and the level is busy. -/
def Obligations.HardwareLoops : Prop :=
  (
    ∀ (x : Strand) (pc : Word),
      let at0 := x.l0.busy = true ∧ x.l0.le = pc
      let at1 := x.l1.busy = true ∧ x.l1.le = pc
      let y := nextSlot x pc
      (¬ at0 → ¬ at1 → y.pc = pcNext pc ∧ y.l0 = x.l0 ∧ y.l1 = x.l1) ∧
      (at0 → ¬ at1 → 1 < x.l0.lc.toNat → y.pc = x.l0.lb ∧ y.l0 = { x.l0 with lc := x.l0.lc - 1 } ∧ y.l1 = x.l1) ∧
      (at0 → ¬ at1 → x.l0.lc.toNat ≤ 1 → y.pc = pcNext pc ∧ y.l0 = { x.l0 with lc := 0, busy := false } ∧ y.l1 = x.l1) ∧
      (¬ at0 → at1 → 1 < x.l1.lc.toNat → y.pc = x.l1.lb ∧ y.l1 = { x.l1 with lc := x.l1.lc - 1 } ∧ y.l0 = x.l0) ∧
      (¬ at0 → at1 → x.l1.lc.toNat ≤ 1 → y.pc = pcNext pc ∧ y.l1 = { x.l1 with lc := 0, busy := false } ∧ y.l0 = x.l0) ∧
      (at0 → at1 → x.l0.lb.toNat < x.l1.lb.toNat →
        (1 < x.l1.lc.toNat → y.pc = x.l1.lb ∧ y.l0 = x.l0) ∧
        (x.l1.lc.toNat ≤ 1 → y.l1.busy = false ∧ (1 < x.l0.lc.toNat → y.pc = x.l0.lb) ∧
          (x.l0.lc.toNat ≤ 1 → y.pc = pcNext pc ∧ y.l0.busy = false))) ∧
      (at0 → at1 → x.l1.lb.toNat ≤ x.l0.lb.toNat →
        (1 < x.l0.lc.toNat → y.pc = x.l0.lb ∧ y.l1 = x.l1) ∧
        (x.l0.lc.toNat ≤ 1 → y.l0.busy = false ∧ (1 < x.l1.lc.toNat → y.pc = x.l1.lb) ∧
          (x.l1.lc.toNat ≤ 1 → y.pc = pcNext pc ∧ y.l1.busy = false)))
  ) ∧
  (
    ∀ (s : State) (a : Actor),
      let acts := fun (i : Instr) (lvl : Bool) (n : BitVec 32) (e : Word) =>
        let l : LoopLevel := { lb := pcNext a.pc, le := pcPrev e, lc := n, busy := true }
        if (if lvl then a.x.l1.busy else a.x.l0.busy) = true then Traps i s a cLoopNesting 0
        else if n = 0 then checkStatic s a e = .ok () → JumpsTo i s a (jumpFrees a.x e) e
        else Completes i s a (s.core a.core) (nextSlot (if lvl then { a.x with l1 := l } else { a.x with l0 := l }) a.pc)
      (∀ f : LoopF, Runs s a f.g →
        acts (.loopR f) f.lvl ((a.sr.get f.a).setWidth 32) (branchTarget a.pc f.ofs f.tslot)) ∧
      (∀ f : LoopiF, Runs s a f.g →
        acts (.loopi f) f.lvl (f.count.setWidth 32) (branchTarget a.pc (f.lofs.signExtend 37) f.eslot))
  )

/-! ### Rows 0x05 to 0x07 -/

/-- 12 R246 to R250: a transfer whose target passes its checks goes there; BR, JMP and a taken BRQ free the loop levels that
do not hold the target, CALL, CALLI and RET free none; a call pushes the return address and writes s15, a return pops it.
12 R247 and R248 with 09 R195: with eight entries on the return stack a call that the store admits writes the oldest
entry as 8 bytes at s14 - 8 and moves s14; with none a return takes 8 bytes at s14 and moves s14 back. A misaligned s14 is
STACK_SPILL_FAULT and STACK_FILL_FAULT. -/
def Obligations.Transfers : Prop :=
  (
    ∀ (s : State) (a : Actor),
      (∀ g, Runs s a g → Completes (.nop { g := g, exec := false }) s a (s.core a.core) (nextSlot a.x a.pc)) ∧
      (∀ f : BranchF, Runs s a f.g →
        let p := branchTarget a.pc f.ofs f.tslot
        checkStatic s a p = .ok () →
        JumpsTo (.br f) s a (jumpFrees a.x p) p ∧
        (∀ rest, a.x.bq = true :: rest → checkStatic s a p = .ok () →
          JumpsTo (.brq f) s a (jumpFrees { a.x with bq := rest } p) p) ∧
        (a.x.rs.length < 8 →
          JumpsTo (.call f) s a { withReg a.x (.s 15) (pcNext a.pc) with rs := (pcNext a.pc).setWidth 64 :: a.x.rs } p)) ∧
      (∀ f : BranchF, Runs s a f.g → ∀ rest, a.x.bq = false :: rest →
        Completes (.brq f) s a (s.core a.core) (nextSlot { a.x with bq := rest } a.pc)) ∧
      (∀ f : RegF, Runs s a f.g →
        let p := a.sr.get f.a
        checkTarget s a p true = .ok () →
        JumpsTo (.jmp f) s a (jumpFrees a.x p) p ∧
        (a.x.rs.length < 8 →
          JumpsTo (.calli f) s a { withReg a.x (.s 15) (pcNext a.pc) with rs := (pcNext a.pc).setWidth 64 :: a.x.rs } p)) ∧
      (∀ f : Bare, Runs s a f.g → ∀ r rest, a.x.rs = r :: rest →
        let p := setBits a.pc 0 64 r.toNat
        checkTarget s a p true = .ok () → JumpsTo (.ret f) s a { a.x with rs := rest } p)
  ) ∧
  (
    ∀ (s : State) (a : Actor), Settled s a →
      let va := a.sr.get 14 - 8
      let b := leBytes 8 (a.x.rs.getD 7 0).toNat
      let spills := fun (i : Instr) (p : Word) => ∀ x, planOne s a va 8 8 .wr false ruleAny = .ok x →
        AtHome s a (mkAccess x va (.push b)) →
        ∃ t y, exec i s = .next t ∧ t.strand a.core a.k = some y ∧ y.pc = p ∧ y.s.get 14 = va ∧ y.s.get 15 = pcNext a.pc ∧
          y.rs = (pcNext a.pc).setWidth 64 :: a.x.rs.take 7 ∧ readBytes t (x.pa va) 8 = b ∧
          (∀ q, q < x.pa va ∨ x.pa va + 8 ≤ q → t.byte q = s.byte q)
      (∀ f : BranchF, Runs s a f.g → a.x.rs.length = 8 →
        let p := branchTarget a.pc f.ofs f.tslot
        checkStatic s a p = .ok () →
        (va.toNat % 8 ≠ 0 → tileWaits a va.toNat 8 = false → Traps (.call f) s a cStackSpill va) ∧ spills (.call f) p) ∧
      (∀ f : RegF, Runs s a f.g → a.x.rs.length = 8 → checkTarget s a (a.sr.get f.a) true = .ok () →
        spills (.calli f) (a.sr.get f.a)) ∧
      (∀ f : Bare, Runs s a f.g → a.x.rs = [] →
        let at_ := a.sr.get 14
        (at_.toNat % 8 ≠ 0 → tileWaits a at_.toNat 8 = false → Traps (.ret f) s a cStackFill at_) ∧
        (∀ x, planOne s a at_ 8 8 .rd false ruleAny = .ok x → Readable s a (mkAccess x at_ (.load 8 none)) →
          let p := setBits a.pc 0 64 (leVal (readBytes s (x.pa at_) 8))
          checkTarget s a p true = .ok () → JumpsTo (.ret f) s a (withReg a.x (.s 14) (at_ + 8)) p))
  )

/-- 12 R258: GETC writes a control register, zero-extended; SETC writes FCTL, FSTAT, SEED, and from priority 3 the SS bit of
STATUS and CAUSE; below priority 3 those two raise PRIVILEGED_OP. FCTL, FSTAT and SEED, and a read of LADSTEP (21 R429), wait
for earlier execute-side entries.
SEED written with 0 holds 1 (05 R130).
12 R260 and R261 with 10 R218: TLBI from priority 3, once the strand's requests are acknowledged, drops the entries of
its own partition that it selects from every translation cache of its package, and no other; SCAN from priority 3 hands the
page to the bracken scanner and completes with the result word. Below priority 3 both raise PRIVILEGED_OP. -/
def Obligations.ControlRegisters : Prop :=
  (
    ∀ (s : State) (a : Actor),
      (∀ f : GetcF, Runs s a f.g → (f.reg = .fstat ∨ f.reg = .ladstep → seqIdle a.x = true) →
        let co := s.core a.core
        let v : Word := match f.reg with
          | .status => (statusOf a.x).setWidth 72
          | .cause => a.x.cause.setWidth 72
          | .epc => a.x.epc
          | .eva => a.x.eva
          | .fctl => co.fctl.setWidth 72
          | .fstat => co.fstat.setWidth 72
          | .tid => (tidOf a.x a.k).setWidth 72
          | .core => BitVec.ofNat 72 (a.core % 2 ^ 22)
          | .part => co.part.setWidth 72
          | .lseq => co.lseq.setWidth 72
          | .fold => (a.x.eject ++ a.x.memb).setWidth 72
          | .ladstep => co.ladder.step.setWidth 72
          | .seed => co.seed.setWidth 72
        Completes (.getc f) s a co (nextSlot (withReg a.x f.d v) a.pc)) ∧
      (∀ f : SetcF, Runs s a f.g → a.spec s = none →
        let co := s.core a.core
        let v := a.opnd f.a
        let w : BitVec 32 := v.setWidth 32
        (f.reg = .status → if a.x.prio = 3 then
          Completes (.setc f) s a co (nextSlot { a.x with ss := v.getLsbD 12 } a.pc) else Traps (.setc f) s a cPrivileged 0) ∧
        (f.reg = .cause → if a.x.prio = 3 then
          Completes (.setc f) s a co (nextSlot { a.x with cause := v.setWidth 6 } a.pc) else Traps (.setc f) s a cPrivileged 0) ∧
        (f.reg = .fctl → seqIdle a.x = true → co.fctl.getLsbD 9 = v.getLsbD 9 →
          Completes (.setc f) s a { co with fctl := v.setWidth 64 &&& 0x3FF } (nextSlot a.x a.pc)) ∧
        (f.reg = .fctl → seqIdle a.x = true → co.fctl.getLsbD 9 ≠ v.getLsbD 9 → ∃ t, exec (.setc f) s = .next t ∧
          OnlyCore s t a.core ∧ (t.core a.core).fctl = v.setWidth 64 &&& 0x3FF ∧
          t.strand a.core a.k = some (nextSlot { a.x with checks := a.x.checks.switched a.x.s } a.pc) ∧
          ∀ k x, k ≠ a.k → s.strand a.core k = some x →
            t.strand a.core k = some { x with checks := x.checks.switched x.s }) ∧
        (f.reg = .fstat → seqIdle a.x = true →
          Completes (.setc f) s a { co with fstat := v.setWidth 64 &&& 0x3F } (nextSlot a.x a.pc)) ∧
        (f.reg = .seed → seqIdle a.x = true →
          Completes (.setc f) s a { co with seed := if w = 0 then 1 else w } (nextSlot a.x a.pc)))
  ) ∧
  (
    ∀ (s : State) (a : Actor), a.spec s = none →
      (∀ g, Runs s a g → a.x.prio ≠ 3 →
        (∀ r, Traps (.tlbiPage { g := g, a := r }) s a cPrivileged 0 ∧ Traps (.tlbiSpace { g := g, a := r }) s a cPrivileged 0) ∧
        Traps (.tlbiPartition { g := g }) s a cPrivileged 0 ∧
        ∀ d r, Traps (.scan { g := g, d := d, a := r }) s a cPrivileged 0) ∧
      (∀ g, Runs s a g → a.x.prio = 3 → releaseReady s a = .ok () →
        let part := (s.core a.core).part
        ∀ (r : SReg), ∀ p ∈ ([(Instr.tlbiPage { g := g, a := r }, fun e => pageOf e.big e.va == pageOf e.big (sregVal a.sr r)),
            (.tlbiSpace { g := g, a := r }, fun e => spaceOf e.va == spaceOf (sregVal a.sr r)),
            (.tlbiPartition { g := g }, fun _ => true)] : List (Instr × (TcEntry → Bool))),
          ∃ t, exec p.1 s = .next t ∧ (∀ pa, t.byte pa = s.byte pa) ∧ t.strand a.core a.k = some (nextSlot a.x a.pc) ∧
            (∀ c, pkgOf c = pkgOf a.core → (t.core c).tc = (s.core c).tc.filter (fun e => !(e.part == part && p.2 e))) ∧
            (∀ c, pkgOf c ≠ pkgOf a.core → t.core c = s.core c)) ∧
      (∀ f : DstReg, Runs s a f.g → a.x.prio = 3 →
        (∀ w, a.x.prog = .stage 2 w →
          Completes (.scan f) s a (s.core a.core) (nextSlot (withReg a.x f.d (w.setWidth 72)) a.pc)) ∧
        (∀ l, a.x.prog = .none → s.walk (pkgOf a.core) (s.core a.core).part (a.sr.get f.a) = .leaf l →
          ∃ t, exec (.scan f) s = .next t ∧ ∃ r, (t.cluster (clOf a.core)).scans = (s.cluster (clOf a.core)).scans ++ [r] ∧
            r.core = a.core ∧ r.strand = a.k ∧ r.va = a.sr.get f.a ∧ r.leaf = l.entry ∧ r.lo = l.lo ∧ r.big = l.big))
  )

/-! ### Rows 0x10 to 0x13 -/

/-- 07 R156, R157 and 15 R321: an access at its home. One that its target's table denies is not performed and is counted; a
load answers the bytes as they stand and changes nothing; a store writes its bytes and no other; an atomic answers the old
value and writes the new one. A load of a poisoned line answers POISON_CONSUMED (26 R477).
07 R158 with R148, R149 and R160: the checks of one scalar load or store, in their order: the address's alignment, a
valid leaf, its permissions, its format. Each raises its cause, class T, at the access's address. -/
def Obligations.AccessChecks : Prop :=
  (
    ∀ (s : State) (id : Ident) (x : Access), (siteOf x.pa x.geom2).isMemory = true →
      (∀ pa, s.deniedAt id x = some pa → performAt s id x = .fail (s.countDenial pa id.part) cDeny (some pa)) ∧
      (s.deniedAt id x = none →
        (∀ n, x.op = .load n none →
          (s.poisoned x.pa n = none → ∃ d, performAt s id x = .ok s d ∧ d.length = n ∧ ∀ j < n, d.getD j 0 = s.byte (x.pa + j)) ∧
          ∀ l, s.poisoned x.pa n = some l → performAt s id x = .fail s cPoison (some l)) ∧
        (∀ bytes, x.op = .store bytes → ∃ t, performAt s id x = .ok t [] ∧
          (∀ j < bytes.length, t.byte (x.pa + j) = bytes.getD j 0) ∧
          (∀ q, q < x.pa ∨ x.pa + bytes.length ≤ q → t.byte q = s.byte q) ∧ t = { s with mem := t.mem, poison := t.poison }) ∧
        (∀ m, x.op = .atomic m → s.poisoned x.pa m.len = none → ∃ t d, performAt s id x = .ok t d ∧
          (∀ j < m.len, d.getD j 0 = s.byte (x.pa + j)) ∧
          (∀ v, atomicNew m (readU s x.pa m.len) = some v → readU t x.pa m.len = v % 2 ^ (8 * m.len)) ∧
          (atomicNew m (readU s x.pa m.len) = none → t = s) ∧
          (∀ q, q < x.pa ∨ x.pa + m.len ≤ q → t.byte q = s.byte q)))
  ) ∧
  (
    ∀ (s : State) (a : Actor) (f : LdF) (fs : StF), f.sh = false → fs.sh = false → Settled s a →
      ∀ p ∈ [(Instr.ld f, f.g, f.m, f.w, f.raw, Want.rd), (.st fs, fs.g, fs.m, fs.w, fs.raw, .wr)],
        let va := a.ea p.2.2.1
        let n := mwBytes p.2.2.2.1
        Runs s a p.2.1 → tileWaits a va.toNat n = false → (p.2.2.2.2.2 = .wr → fs.rel = none) →
          (va.toNat % n ≠ 0 → Traps p.1 s a cMisaligned va) ∧
          (∀ w, va.toNat % n = 0 → s.leafFor a.core va = .absent w → Traps p.1 s a cNotPresent va) ∧
          (∀ x, va.toNat % n = 0 → s.leafFor a.core va = .leaf x →
            let right := match p.2.2.2.2.2 with
              | .rd => x.r
              | _ => x.w
            (right = false ∨ (x.u = false ∧ a.x.prio ≠ 3) ∨ (x.w = true ∧ x.x = true) → Traps p.1 s a cPermission va) ∧
            (right = true → (x.u = true ∨ a.x.prio = 3) → ¬ (x.w = true ∧ x.x = true) →
              (fmtBits x.fmt = none ∨ 2 < x.geom ∨ (x.fmt ≠ 0 ∧ p.2.2.2.2.1 = false) → Traps p.1 s a cFormat va)))
  )

/-- 15 R311: LD of a datum whose home is memory of the strand's own die, once its checks have passed: D takes the bytes at
the address, little-endian, extended as Z says; a width of 16 bytes gives the low 72 bits. Nothing else changes. A cause
found by the checks or a denial traps with no effect. A home on another die is asked, the slot waits, and the answer
completes it.
15 R312: ST to memory of the strand's own die, once its checks have passed, writes its bytes, little-endian, at the
address, and no other byte: the low bits of its operand, or under .sat the nearest value of the width, which sets FSTAT.SAT.
A store that its target denies is dropped: the slot completes, and the denial is reported to the core (07 R157). -/
def Obligations.ScalarMemory : Prop :=
  (
    ∀ (s : State) (a : Actor) (f : LdF), Runs s a f.g → f.sh = false → a.spec s = none →
      let va := a.ea f.m
      let n := mwBytes f.w
      let plan := planOne s a va n n .rd false (ruleRaw f.raw)
      let value := fun (v : Nat) => if f.z = true ∨ f.w = .d ∨ f.w = .a then BitVec.ofNat 72 v
        else (((BitVec.ofNat (8 * n) v).signExtend 64).setWidth 72 : Word)
      let done := fun (v : Nat) => Completes (.ld f) s a (s.core a.core) (nextSlot (withReg a.x f.d (value v)) a.pc)
      (∀ c, a.x.prog = .none → plan = .error (.cause c) → Traps (.ld f) s a c.code c.eva) ∧
      (∀ l, a.x.prog = .none → plan = .ok l →
        let x := mkAccess l va (.load n none)
        (Readable s a x → done (readU s (l.pa va) n)) ∧
        (∀ pa, x.isLocal a.core = true → heldBySubByte s a.core x = false → s.deniedAt (a.ident s) x = some pa →
          exec (.ld f) s = .next (raise (s.countDenial pa (a.ident s).part) a.core a.k .t { code := cDeny, eva := va } a.pc 0)) ∧
        (x.isLocal a.core = false → heldBySubByte s a.core x = false →
          s.room a.core (a.ident s) (x.dest a.core) 1 = true →
          ∃ t y, exec (.ld f) s = .next t ∧ t.strand a.core a.k = some y ∧ y.s = a.x.s ∧ y.pc = a.x.pc ∧
            y.prog = .gather s.tick [x] [] none ∧ ∀ pa, t.byte pa = s.byte pa)) ∧
      (∀ tag x m d, a.x.prog = .gather tag [x] [(0, none, d)] none → x.op = .load m none → d.length = n → done (leVal d))
  ) ∧
  (
    ∀ (s : State) (a : Actor) (f : StF), Runs s a f.g → f.sh = false → Settled s a → released s a f.rel.isSome = .ok () →
      let va := a.ea f.m
      let n := mwBytes f.w
      let b := 8 * n
      let v := intOf (!f.z) 64 (bits (a.sdata f.d) 0 64)
      let out := f.sat && f.w != .a && (decide (v < intLo (!f.z) b) || decide (intHi (!f.z) b < v))
      let bytes := if f.w = .a then leBytes 16 (a.sdata f.d).toNat
        else leBytes n (wrapInt b (if out then max (intLo (!f.z) b) (min (intHi (!f.z) b) v) else v))
      let co := s.core a.core
      (∀ c, planOne s a va n n .wr false (ruleRaw f.raw) = .error (.cause c) → Traps (.st f) s a c.code c.eva) ∧
      (∀ l, planOne s a va n n .wr false (ruleRaw f.raw) = .ok l →
        let x := mkAccess l va (.store bytes)
        (AtHome s a x → CompletesStores (.st f) s a [x] { co with fstat := co.fstat ||| (flagIf out flagSAT).setWidth 64 }
          (nextSlot a.x a.pc)) ∧
        (∀ pa, x.isLocal a.core = true → heldBySubByte s a.core x = false → nearKept s a.core a.k = false →
          s.deniedAt (a.ident s) x = some pa →
          ∃ t y, exec (.st f) s = .next t ∧ t.strand a.core a.k = some y ∧ y.s = a.x.s ∧ y.pc = (nextSlot a.x a.pc).pc ∧
            (∀ q, t.byte q = s.byte q) ∧ ∃ m ∈ t.net, m.dst = .core a.core ∧
              m.msg = .response { x with rel := f.rel.isSome } a.k 0 0 (some cDeny) (leBytes 16 pa)))
  )

/-- 15 R313 and R318: LDQ fills the slot that DNEED names with as many bytes from memory; STQ writes the slot that its need
names to memory; VGATH.bc fills one slot for each of its first entries, in order, from the blocks they name, and neither
moves P nor C. Every other byte of memory is unchanged, and a write leaves no shadow's check bits on its slot (26 R473). -/
def Obligations.QueueMemory : Prop :=
  ∀ (s : State) (a : Actor), Settled s a →
    let co := s.core a.core
    (∀ (f : LdqF) (l : Leaf), Runs s a f.g → f.sh = false → 0 < f.need.toNat → (co.queues.get f.q).dir ≠ 2 →
      let b := co.queues.get f.q
      let size := slotSize b.sz
      let va := a.ea f.m
      let xs := slotUnits l va size (fun _ => .load 16 none)
      let slot := b.slotPa b.base (b.p.toNat + f.need.toNat - 1)
      queuesReady s a [{ q := f.q, need := f.need.toNat, produce := true }] = .ok () →
      planOne s a va size size .rd false ruleAny = .ok l → (∀ x ∈ xs, Readable s a x) →
      ∃ t, exec (.ldq f) s = .next t ∧ LeavesMem s t a (countSlot (untagged co slot) a.k) (nextSlot a.x a.pc) ∧
        (∀ j < size, t.byte (slot + j) = (xs.flatMap (dataAt s)).getD j 0) ∧
        ∀ q, q < slot ∨ slot + size ≤ q → t.byte q = s.byte q) ∧
    (∀ (f : LdqF) (l : Leaf), Runs s a f.g → f.sh = false → (co.queues.get f.q).dir = 2 →
      let size := slotSize (co.queues.get f.q).sz
      queuesReady s a [{ q := f.q, need := f.need.toNat, produce := true }] = .ok () →
      planOne s a (a.ea f.m) size size .rd false ruleAny = .ok l →
      (∀ x ∈ slotUnits l (a.ea f.m) size (fun _ => .load 16 none), Readable s a x) →
      ∃ t, exec (.ldq f) s = .next t ∧ OnlyStrand s t a.core a.k ∧ t.strand a.core a.k = some (nextSlot a.x a.pc) ∧
        ∀ pa, t.byte pa = s.byte pa) ∧
    (∀ (f : LdqF) (l : Leaf), Runs s a f.g → f.sh = false → 0 < f.need.toNat →
      let b := co.queues.get f.q
      let size := slotSize b.sz
      let va := a.ea f.m
      let slot := b.slotPa b.base (b.c.toNat + f.need.toNat - 1)
      let xs := slotUnits l va size (fun i => .store (readBytes s (slot + 16 * i) 16))
      queuesReady s a [{ q := f.q, need := f.need.toNat, produce := false }] = .ok () →
      released s a f.ord.isSome = .ok () → planOne s a va size size .wr false ruleAny = .ok l → s.poisoned slot size = none →
      (∀ x ∈ xs, AtHome s a x) → CompletesStores (.stq f) s a xs co (nextSlot a.x a.pc)) ∧
    (∀ (f : VgathBcF) (xs : List Access), Runs s a f.g → f.sh = false → 0 < f.need.toNat → (co.queues.get f.q).dir ≠ 2 →
      let b := co.queues.get f.q
      let z := slotSize b.sz
      let w := a.sr.get f.c
      let m := min (bits w 0 32) 4
      let entry := fun (j : Nat) => lane 32 (a.x.v.get f.b) j
      let va := fun (j : Nat) => a.eaBase f.m + BitVec.ofNat 72 (entry j * 2 ^ bits w 32 6)
      let slot := fun (j : Nat) => b.slotPa b.base (b.p.toNat + f.need.toNat - 1 + j)
      queuesLegal s a [{ q := f.q, need := f.need.toNat + m - 1, produce := true }] = .ok () →
      (bits w 32 6 < 6 ∨ 30 < bits w 32 6 ∨ bits w 38 34 ≠ 0 ∨ (∃ j < m, entry j = 0xFFFFFFFF) →
        Traps (.vgathBc f) s a cGatherBounds 0) ∧
      (6 ≤ bits w 32 6 → bits w 32 6 ≤ 30 → bits w 38 34 = 0 → (∀ j < m, entry j ≠ 0xFFFFFFFF) →
        (m = 0 → Completes (.vgathBc f) s a co (nextSlot a.x a.pc)) ∧
        (0 < m → queuesReady s a [{ q := f.q, need := f.need.toNat + m - 1, produce := true }] = .ok () →
          planList (fun j => (planOne s a (va j) z z .rd true ruleAny).map (fun x => mkAccess x (va j) (.load z none)))
            (List.range m) = (xs, none) → (∀ x ∈ xs, Readable s a x) →
          ∃ t, exec (.vgathBc f) s = .next t ∧
            LeavesMem s t a (countSlot (((List.range m).map slot).foldl untagged co) a.k) (nextSlot a.x a.pc) ∧
            (∀ j < m, ∀ i < z, t.byte (slot j + i) = ((xs[j]?.map (dataAt s)).getD []).getD i 0) ∧
            ∀ q, (∀ j < m, q < slot j ∨ slot j + z ≤ q) → t.byte q = s.byte q)))

/-- 15 R314 to R317 with R270: VLD, VLDS and VGATH whose queue needs are met, of elements whose homes are memory of the
strand's own die: each lane takes its element, converted from its page's type, and the flags and draws are committed with
the destination. The first element that meets a cause traps with no effect, and an index that reaches the bound raises
GATHER_BOUNDS.
15 R314 to R317 and 05 R120: VST, VSTS and VSCAT whose checks have passed and whose pieces lie in memory of the strand's
own die: the elements are converted to their pages' types, the flags and draws are committed, and the stores of the pieces
are performed in ascending order; no other byte changes. A cause of the checks or a trapping flag leaves memory as it was. -/
def Obligations.VectorMemory : Prop :=
  (
    ∀ (s : State) (a : Actor) (f : VmemF) (fs : VstrideF) (fi : VindexF) (idx : VWord), Settled s a →
      f.sh = false → fs.sh = false → fi.sh = false →
      (queuesReady s a (regUseIn fi.idx) = .ok () → vreg s a fi.idx = .ok idx) →
      (outOfBound a fi idx = true → Runs s a fi.g → queuesReady s a (regUseOut fi.d ++ regUseIn fi.idx) = .ok () →
        Traps (.vgath fi) s a cGatherBounds 0) ∧
      ∀ p ∈ vectorLoads s a f fs fi idx, (p.i = .vgath fi → outOfBound a fi idx = false) → Runs s a p.g →
        (modeOf p.rm (s.core a.core).fctl = .rs → seqIdle a.x = true) →
        queuesReady s a (regUseOut p.d ++ p.more) = .ok () → (∀ x ∈ p.plan.1, Readable s a x) →
        (∀ c, p.plan.2 = some (.cause c) → Traps p.i s a c.code c.eva) ∧
        (p.plan.2 = none →
          let co := s.core a.core
          let es := loadedElts p.lt p.raw p.n (p.plan.1.map (fun x => (x, dataAt s x)))
          let r := runLanes (fun i seed => eltTo p.lt (modeOf p.rm co.fctl) p.sat ((es.getD i none).getD (.same 0)) seed)
            (List.range es.length) co.seed
          es.all (·.isSome) = true →
          match firstCause co.fctl r.2.1 with
          | some code => Traps p.i s a code 0
          | none =>
            (∀ d, p.d = .v d → Completes p.i s a (flagged co r.2.1 r.2.2)
              (nextSlot (slotLanes a.x d p.lt.width r.1) a.pc)) ∧
            (∀ q n, p.d = .q q n → (co.queues.get q).dir ≠ 2 → r.1 ≠ [] →
              let b := co.queues.get q
              let slot := b.slotPa b.base (b.p.toNat + n.toNat - 1)
              let mask := vBytes (r.1.foldl (fun v l => setLane p.lt.width v l.1 (2 ^ p.lt.width - 1)) (0 : VWord))
              ∃ t, exec p.i s = .next t ∧
                LeavesMem s t a (countSlot (untagged (flagged co r.2.1 r.2.2) slot) a.k) (nextSlot a.x a.pc) ∧
                (∀ j < 16, t.byte (slot + j) =
                  if mask.getD j 0 = 0 then s.byte (slot + j) else (vBytes (putLanes p.lt.width 0 r.1)).getD j 0) ∧
                ∀ pa, pa < slot ∨ slot + 16 ≤ pa → t.byte pa = s.byte pa))
  ) ∧
  (
    ∀ (s : State) (a : Actor) (f : VmemF) (fs : VstrideF) (fi : VindexF) (idx v : VWord), Settled s a →
      f.sh = false → fs.sh = false → fi.sh = false →
      (queuesReady s a (regUseIn fi.idx) = .ok () → vreg s a fi.idx = .ok idx) →
      (outOfBound a fi idx = true → Runs s a fi.g → queuesReady s a (regUseIn fi.d ++ regUseIn fi.idx) = .ok () →
        Traps (.vscat fi) s a cGatherBounds 0) ∧
      ∀ p ∈ vectorStores s a f fs fi idx, (p.i = .vscat fi → outOfBound a fi idx = false) → Runs s a p.g →
        (modeOf p.rm (s.core a.core).fctl = .rs → seqIdle a.x = true) → released s a p.rel = .ok () →
        queuesReady s a p.us = .ok () → vreg s a p.d = .ok v →
        (∀ c, p.plan v = .error (.cause c) → Traps p.i s a c.code c.eva) ∧
        (∀ l xs r seed, p.plan v = .ok l →
          encodeStore s a p.lt p.raw p.rm p.sat l (s.core a.core).seed = .ok (xs, r, seed) → (∀ x ∈ xs, AtHome s a x) →
          SoundPairs s xs →
          match firstCause (s.core a.core).fctl r with
          | some code => Traps p.i s a code 0
          | none => CompletesStores p.i s a xs (flagged (s.core a.core) r seed) (nextSlot a.x a.pc))
  )

/-- 15 R320 to R322: an atomic on memory of the strand's own die, once its checks have passed: D takes the old value, and
the bytes of its width take the new value of Table 15.4; no other byte changes. The answer of a home on another die
completes it with the value that the home gave. -/
def Obligations.Atomics : Prop :=
  ∀ (s : State) (a : Actor) (f : AmoF) (fc : CasF) (ff : AmofF), a.spec s = none → f.sh = false → fc.sh = false →
    ff.sh = false → ∀ p ∈ atomicForms a f fc ff, Runs s a p.g →
      let va := a.eaBase p.m
      let n := p.x.len
      let plan := planOne s a va n n .amo false p.rule
      let after := fun (old : Nat) => nextSlot (withReg a.x p.d (extend72 p.z (8 * n) old)) a.pc
      (a.x.prog = .none → released s a (ordRel p.ord) = .ok () →
        (∀ c, plan = .error (.cause c) → Traps p.i s a c.code c.eva) ∧
        (∀ l, plan = .ok l → Readable s a (mkAccess l va (.atomic p.x)) →
          let old := readU s (l.pa va) n
          ∃ t, exec p.i s = .next t ∧ LeavesMem s t a (countSlot (s.core a.core) a.k) (after old) ∧
            (∀ q, q < l.pa va ∨ l.pa va + n ≤ q → t.byte q = s.byte q) ∧
            readU t (l.pa va) n = (p.new old).getD old % 2 ^ (8 * n))) ∧
      (∀ tag x y d, a.x.prog = .gather tag [x] [(0, none, d)] none → x.op = .atomic y → d.length = n →
        Completes p.i s a (s.core a.core) (after (leVal d)))

/-- 15 R323 with 07 R165 and R166: FENCE of a strand whose earlier requests are all acknowledged, whose earlier entries access
no memory, and that no write preceding it in its package's causal order still keeps, completes; a store denial not yet taken
traps there, and is taken (07 R157). FENCE.sys.lea in a package of no group takes the package's next sequence number,
which D, LSEQ and BSEQ then hold; in a group its operation waits for the lark, and the number that comes completes it.
17 R375 and R376; 24 R462: in a package of no group, BST to a page of a shared space that LEAREP marks writes its bytes
there under the package's next sequence number, which D then holds; an address of another space or page raises
XLATE_PERMISSION. BSEQ reads the last sequence applied, and LSEQ is at least that. -/
def Obligations.FencesAndLeaStores : Prop :=
  (
    ∀ (s : State) (a : Actor) (f : FenceF) (fl : FenceLeaF), f.sh = false → fl.sh = false → a.spec s = none →
      (Runs s a f.g → unordered s a = false → denialComing s a = false →
        (a.x.denial = none → Completes (.fence f) s a (s.core a.core) (nextSlot a.x a.pc)) ∧
        (∀ c, a.x.denial = some c → exec (.fence f) s =
          .next (raise (s.setStrand a.core a.k { a.x with denial := none }) a.core a.k .t c a.pc 0))) ∧
      (Runs s a fl.g → releaseReady s a = .ok () →
        let p := pkgOf a.core
        let l := (s.pkg p).lea
        (l.members = [] → ∃ t, exec (.fenceSysLea fl) s = .next t ∧ OnlyStrand s t a.core a.k ∧
          t.strand a.core a.k = some (nextSlot (withReg a.x fl.d (BitVec.ofNat 72 l.localNext)) a.pc) ∧
          (t.pkg p).lea.localNext = (l.localNext + 1) % 2 ^ 48 ∧ (t.pkg p).lea.applied = l.localNext ∧
          ∀ pa, t.byte pa = s.byte pa) ∧
        (l.members ≠ [] → a.x.prog = .none → ∃ t y, exec (.fenceSysLea fl) s = .next t ∧ t.strand a.core a.k = some y ∧
          y.pc = a.x.pc ∧ y.s = a.x.s ∧ y.prog = .stage 3 0 ∧
          (t.pkg p).lea.queue = l.queue ++ [(a.core, a.k, .fence)]) ∧
        (∀ w n, l.members ≠ [] → a.x.prog = .stage 3 w → l.given.find? (fun g => g.1 == a.core && g.2.1 == a.k) =
            some (a.core, a.k, n) →
          ∃ t, exec (.fenceSysLea fl) s = .next t ∧ OnlyStrand s t a.core a.k ∧
            t.strand a.core a.k = some (nextSlot (withReg a.x fl.d (BitVec.ofNat 72 n)) a.pc) ∧
            ∀ pa, t.byte pa = s.byte pa))
  ) ∧
  (
    ∀ (s : State) (a : Actor), a.spec s = none →
      let p := pkgOf a.core
      let l := (s.pkg p).lea
      let co := s.core a.core
      (∀ (f : BstF) (b : List Byte), Runs s a f.g →
        let va := a.sr.get f.a
        let n := bstLen f.b
        queuesReady s a (bstUse f.b) = .ok () →
        (∀ x, va.toNat % n = 0 → tileWaits a va.toNat n = false → s.leafFor a.core va = .leaf x →
          x.permits (a.x.prio == 3) .wr = true → x.fmtOk = true →
          (spaceOf va < 0x80 ∨ 0xBF < spaceOf va ∨ x.learep = false) → spaceOf va ≠ 0xC0 →
          Traps (.bst f) s a cPermission va) ∧
        (∀ x y, planOne s a va n n .wr false (ruleLea va) = .ok x → bstData s a f.b = .ok b → b.length = n →
          releaseReady s a = .ok () → l.members = [] → s.walk p co.part va = .leaf y → y.w = true → y.x = false →
          y.fmtOk = true → y.poison = false → pathCause s p (y.pa va) = none → s.admits (y.pa va) y.geom2 (leaIdent co.part) .wr = true →
          (siteOf (y.pa va) y.geom2).isMemory = true →
          ∃ t, exec (.bst f) s = .next t ∧ OnlyStrand s t a.core a.k ∧
            t.strand a.core a.k = some (nextSlot (withReg a.x f.d (BitVec.ofNat 72 l.localNext)) a.pc) ∧
            (∀ j < n, t.byte (y.pa va + j) = b.getD j 0) ∧
            (∀ q, q < y.pa va ∨ y.pa va + n ≤ q → t.byte q = s.byte q) ∧
            (t.pkg p).lea.localNext = (l.localNext + 1) % 2 ^ 48 ∧ (t.pkg p).lea.applied = l.localNext)) ∧
      (∀ f : BseqF, Runs s a f.g →
        Completes (.bseq f) s a
          { co with lseq := if co.lseq.toNat < l.applied then BitVec.ofNat 48 l.applied else co.lseq }
          (nextSlot (withReg a.x f.d (BitVec.ofNat 72 l.applied)) a.pc))
  )

/-! ### Rows 0x08 to 0x0F -/

/-- 14 R270 with R269: a lane-wise instruction whose queue needs are met, whose operands are read as `vs`, and none of whose
flags traps, writes the enabled lanes of its v register, in ascending order with the draws of one following those of another,
ORs its flags into FSTAT and leaves the sequencer; the other lanes and everything else are unchanged. Where a flag's enable is
set, the entry raises that cause, class V, with no effect (05 R134, 09 R184). -/
def Obligations.VectorLanes : Prop :=
  ∀ (s : State) (a : Actor) (f3 : V3) (f4 : V4) (fn : V3n) (f2 : V2) (fs : VselF) (fp : VpermF) (fb : VbcastF),
    AtEntry s a → ∀ p ∈ laneWise s a f3 f4 fn f2 fs fp fb, ∀ vs,
      queuesReady s a (regUseOut p.d ++ p.srcs.flatMap srcUse) = .ok () → p.srcs.mapM (vsrc s a p.t) = .ok vs →
      let co := s.core a.core
      let r := runLanes (p.f vs) ((List.range p.t.lanes).filter (fun n => a.enabled p.g p.t.width n)) co.seed
      match firstCause co.fctl r.2.1 with
      | some code => exec p.i s = .next (raise s a.core a.k .v { code := code, eva := 0 } a.x.pc a.pc)
      | none => ∀ d, p.d = .v d →
        EntryCompletes p.i s a (flagged co r.2.1 r.2.2) (withLanes s a a.x d p.t.width r.1)

/-- 14 R271: over an integer lane type the results of VADD, VSUB, VMUL, VFMA, VFMS and VNFMA are the sums and products modulo
2^w, and with .sat the nearest value of the lane type; those of VAND, VOR, VXOR, VSHL, VSHR and VSAR are the functions of the
lanes' patterns. Lane `n` of the result is what the lane function gives for it. -/
def Obligations.IntegerLanes : Prop :=
  (∀ (t : LaneTy) (r : Int) (seed : BitVec 32), t.isInt = true →
    ((intLane t false true r seed).bits : Int) = r % 2 ^ t.width ∧
    (intLane t true true r seed).bits =
      wrapInt t.width (max (intLo t.isSigned t.width) (min (intHi t.isSigned t.width) r)) ∧
    ((intLane t true true r seed).raised.flags = flagSAT ↔ (r < intLo t.isSigned t.width ∨ intHi t.isSigned t.width < r)) ∧
    (intLane t false true r seed).raised.flags = 0 ∧
    ((intLane t false true r seed).raised.intOvf = true ↔
      t.isSigned = true ∧ (r < intLo true t.width ∨ intHi true t.width < r))) ∧
  (∀ (w : Nat) (v : VWord) (ls : List (Nat × Nat)) (n : Nat), w ∈ [4, 8, 16, 32, 64] → n < 128 / w →
    (∀ l ∈ ls, l.1 < 128 / w) → (ls.map (·.1)).Nodup →
    lane w (putLanes w v ls) n = match ls.find? (fun l => l.1 == n) with
      | some l => l.2 % 2 ^ w
      | none => lane w v n) ∧
  (∀ (w : Nat) (x y : BitVec w), 0 < w →
    x.toNat * 2 ^ (y.toNat % w) % 2 ^ w = (x <<< (y.toNat % w)).toNat ∧
    x.toNat / 2 ^ (y.toNat % w) = (x >>> (y.toNat % w)).toNat ∧
    wrapInt w (intOf true w x.toNat / 2 ^ (y.toNat % w)) = (x.sshiftRight (y.toNat % w)).toNat)

/-- 14 R284: VCVT into a block type refuses a pair with an exponent of 0xFF (BLOCK_SCALE, class V), and a decode of 0xFF
parks the core (05 R122; 09 R196): the strand stands where it stood with that cause pending. -/
def Obligations.BlockConversions : Prop :=
  ∀ (s : State) (a : Actor) (f : VcvtF) (i : Fin 16) (x : VWord), AtEntry s a → f.c = some i →
    queuesReady s a (srcUse f.a) = .ok () → vsrc s a f.st f.a = .ok x →
    let e0 := bits (a.sr.get i) 0 8
    let e1 := bits (a.sr.get i) 8 8
    let co := s.core a.core
    (f.dt.isBlock = true → (e0 = 0xFF ∨ e1 = 0xFF) →
      exec (.vcvt f) s = .next (raise s a.core a.k .v { code := cBlockScale, eva := 0 } a.x.pc a.pc)) ∧
    (f.dt.isBlock = true → f.st.isBlock = false → e0 ≠ 0xFF → e1 ≠ 0xFF →
      let ls := (a.lanes f.g f.dt).filter (fun n => (cvtSource f.st f.dt f.pos.toNat n).isSome)
      let one := fun (n : Nat) (seed : BitVec 32) => eltToBlock (f.dt == .db4) (modeOf f.rm co.fctl) f.sat e0 e1
        (laneElt f.st (lane f.st.width x ((cvtSource f.st f.dt f.pos.toNat n).getD 0))) seed
      let r := runLanes one ls co.seed
      firstCause co.fctl r.2.1 = none →
      EntryCompletes (.vcvt f) s a (flagged co r.2.1 r.2.2)
        (withLanes s a a.x f.d f.dt.width r.1)) ∧
    (f.st.isBlock = true → f.dt.isBlock = false →
      let ls := (a.lanes f.g f.dt).filter (fun n => (cvtSource f.st f.dt f.pos.toNat n).isSome)
      let elt := fun (n : Nat) => blockDecode (f.st == .db4) e0 e1
        (lane f.st.width x ((cvtSource f.st f.dt f.pos.toNat n).getD 0))
      (∀ n ∈ ls, (elt n).isSome) →
      let r := runLanes (fun n seed => eltTo f.dt (modeOf f.rm co.fctl) f.sat (.num ((elt n).getD numZero)) seed) ls co.seed
      firstCause co.fctl r.2.1 = none →
      EntryCompletes (.vcvt f) s a (flagged co r.2.1 r.2.2)
        (withLanes s a a.x f.d f.dt.width r.1)) ∧
    (f.st.isBlock = true → f.dt.isBlock = false → (s.core a.core).spec = none →
      ((a.lanes f.g f.dt).filter (fun n => (cvtSource f.st f.dt f.pos.toNat n).isSome)).any (fun n =>
        (blockDecode (f.st == .db4) e0 e1
          (lane f.st.width x ((cvtSource f.st f.dt f.pos.toNat n).getD 0))).isNone) = true →
      ∃ t y, exec (.vcvt f) s = .next t ∧ t.strand a.core a.k = some y ∧ y.v = a.x.v ∧ y.seq = a.x.seq ∧
        y.pending.map (·.cause.code) = some cReservedFormat)

/-- 14 R277, R279 and R280: VCMP writes, for each enabled lane, the predicate bits that govern it, and keeps the others; VEXT
writes one lane, extended, to a scalar register; VINS writes one lane of a vector register. Entries that issued later see a
predicate or scalar register so written (14 R268).
14 R275, R276, R284 to R288: VDOT, VRED, VCVT, VPACK and VUNPK with their queue needs met, their operands read and none of
their flags trapping. VDOT's lane is the sum of its products and its accumulator term, narrowed once; VRED writes lane 0 and
zeros, and does nothing when no lane is enabled; VUNPK writes two registers. -/
def Obligations.VectorElements : Prop :=
  (
    ∀ (s : State) (a : Actor), AtEntry s a →
      let co := s.core a.core
      let marked := fun (tag : Bool → Checks → Checks) (y : Strand) =>
        if shadowMarks s a then { y with checks := tag s.turn.upset y.checks } else y
      (∀ (f : VcmpF) (x : VWord) (ys : List VWord),
        queuesReady s a (srcUse f.a ++ f.b.toList.flatMap srcUse) = .ok () → vsrc s a f.lt f.a = .ok x →
        f.b.toList.mapM (vsrc s a f.lt) = .ok ys →
        let w := f.lt.width
        let k := (a.lanes f.g f.lt).foldl (fun k i => setBits k (govern w i) (w / 8)
          (if vcond f.lt f.cond (lane w x i) (lane w (ys.headD 0) i) then 2 ^ (w / 8) - 1 else 0)) (a.kr.get f.d)
        EntryCompletes (.vcmp f) s a co (if f.d = 0 ∨ a.lanes f.g f.lt = [] then a.x else
          marked (fun bad q => q.shadowK f.d bad) ((withPred a.x f.d k).mapEntries
            (fun e => { e with k := e.k.set f.d k, badK := setBit e.badK f.d.val false })))) ∧
      (∀ f : VextF, a.guard f.g = false → queuesReady s a (regUseIn f.a) = .ok () →
        EntryCompletes (.vext f) s a co a.x) ∧
      (∀ (f : VextF) (x : VWord), a.guard f.g = true → queuesReady s a (regUseIn f.a) = .ok () → vreg s a f.a = .ok x →
        let b : BitVec f.lt.width := BitVec.ofNat _ (lane f.lt.width x f.idx.toNat)
        let v : Word := if f.lt.isSigned then (b.signExtend 64).setWidth 72 else b.setWidth 72
        EntryCompletes (.vext f) s a co (match f.d with
          | .s i => marked (fun bad q => q.shadowS i bad) ((withReg a.x (.s i) v).mapEntries (fun e =>
            { e with s := e.s.set i v, badS := setBit e.badS i.val false }))
          | .zr => a.x)) ∧
      (∀ f : VinsF, a.enabled f.g f.lt.width f.idx.toNat = false →
        EntryCompletes (.vins f) s a co a.x) ∧
      (∀ (f : VinsF) (x : VWord), a.enabled f.g f.lt.width f.idx.toNat = true →
        vsrc s a f.lt (match f.a with
          | .s i => .s i
          | .imm v => .imm v) = .ok x →
        EntryCompletes (.vins f) s a co
          (withLanes s a a.x f.d f.lt.width [(f.idx.toNat, lane f.lt.width x 0)]))
  ) ∧
  (
    ∀ (s : State) (a : Actor), AtEntry s a →
      let co := s.core a.core
      (∀ (f : VdotF) (d : Fin 32) (x y : VWord) (c : List VWord), f.d = .v d →
        queuesReady s a (regUseOut f.d ++ srcUse f.a ++ srcUse f.b ++ f.c.toList.flatMap srcUse) = .ok () →
        vsrc s a f.lt f.a = .ok x → vsrc s a f.lt f.b = .ok y → f.c.toList.mapM (vsrc s a (dotDest f.lt)) = .ok c →
        let r := runLanes (dotLane f.lt (modeOf f.rm co.fctl) f.sat x y c.head?) (a.lanes f.g (dotDest f.lt)) co.seed
        firstCause co.fctl r.2.1 = none →
        EntryCompletes (.vdot f) s a (flagged co r.2.1 r.2.2)
          (withLanes s a a.x d (dotDest f.lt).width r.1)) ∧
      (∀ (f : VredF) (d : Fin 32) (x : VWord), f.d = .v d → queuesReady s a (regUseOut f.d ++ srcUse f.a) = .ok () →
        vsrc s a f.lt f.a = .ok x →
        let ls := (List.range f.lt.lanes).map (fun i =>
          if a.enabled f.g f.lt.width i then some (lane f.lt.width x i) else none)
        let r := redTree f.lt f.op (modeOf f.rm co.fctl) f.sat (Nat.log2 f.lt.lanes) ls co.seed
        match r.1 with
        | none => ∃ t, exec (.vred f) s = .next t ∧ ∃ y, t.strand a.core a.k = some y ∧ y.v = a.x.v ∧ y.seq = seqPop a.x.seq
        | some b => firstCause co.fctl r.2.1 = none →
          EntryCompletes (.vred f) s a (flagged co r.2.1 r.2.2) (withLanes s a a.x d
            f.lt.width ((0, b) :: (List.range f.lt.lanes).tail.map (fun i => (i, 0))))) ∧
      (∀ (f : VpackF) (x y : VWord), queuesReady s a (srcUse f.a ++ srcUse f.b) = .ok () → vsrc s a f.st f.a = .ok x →
        vsrc s a f.st f.b = .ok y →
        let one := fun (i : Nat) (seed : BitVec 32) => eltTo f.dt (modeOf f.rm co.fctl) f.sat
          (laneElt f.st (if i < f.st.lanes then lane f.st.width x i else lane f.st.width y (i - f.st.lanes))) seed
        let r := runLanes one (a.lanes f.g f.dt) co.seed
        firstCause co.fctl r.2.1 = none →
        EntryCompletes (.vpack f) s a (flagged co r.2.1 r.2.2)
          (withLanes s a a.x f.d f.dt.width r.1)) ∧
      (∀ (f : VcvtF) (x : VWord), f.dt.isBlock = false → f.st.isBlock = false → queuesReady s a (srcUse f.a) = .ok () →
        vsrc s a f.st f.a = .ok x →
        let ls := (a.lanes f.g f.dt).filter (fun i => (cvtSource f.st f.dt f.pos.toNat i).isSome)
        let one := fun (i : Nat) (seed : BitVec 32) => eltTo f.dt (modeOf f.rm co.fctl) f.sat
          (laneElt f.st (lane f.st.width x ((cvtSource f.st f.dt f.pos.toNat i).getD 0))) seed
        let r := runLanes one ls co.seed
        firstCause co.fctl r.2.1 = none →
        EntryCompletes (.vcvt f) s a (flagged co r.2.1 r.2.2)
          (withLanes s a a.x f.d f.dt.width r.1)) ∧
      (∀ (f : VunpkF) (x : VWord), f.d.val ≤ 30 → queuesReady s a (srcUse f.a) = .ok () → vsrc s a f.st f.a = .ok x →
        let n := f.dt.lanes
        let ls := a.lanes f.g f.dt
        let one := fun (i : Nat) (seed : BitVec 32) =>
          eltTo f.dt (modeOf f.rm co.fctl) f.sat (laneElt f.st (lane f.st.width x i)) seed
        let r := runLanes one (ls ++ ls.map (· + n)) co.seed
        firstCause co.fctl r.2.1 = none →
        ∃ t y, exec (.vunpk f) s = .next t ∧ t.strand a.core a.k = some y ∧ y.seq = seqPop a.x.seq ∧
          (∀ j : Fin 32, y.v.get j =
            if j = f.d then putLanes f.dt.width (a.x.v.get j) (r.1.filter (fun l => decide (l.1 < n)))
            else if j.val = f.d.val + 1 then putLanes f.dt.width (a.x.v.get j)
              ((r.1.filter (fun l => decide (n ≤ l.1))).map (fun l => (l.1 - n, l.2)))
            else a.x.v.get j) ∧ y.s = a.x.s ∧ y.k = a.x.k ∧ (∀ pa, t.byte pa = s.byte pa) ∧ OnlyStrand s t a.core a.k)
  )

/-- 14 R292, R293 and R302: VLOOP with a true guard, no earlier entry being still to write its guard or count, starts to
capture its slots for as many repetitions as it says, an earlier capture ending first; where an entry of an open capture is to
write one, the capture ends and VLOOP waits. VDRAIN with a true guard enters the sequencer while its core has fewer than 16
entries, and so does every other entry of the execute side. KPUSH with room appends one bit to the branch-outcome queue; a NOP
of the execute side completes in order. -/
def Obligations.Sequencing : Prop :=
  ∀ (s : State) (a : Actor),
    (∀ f : VloopF, AtSlot s a → a.x.ss = false →
      let reps := match f.c with
        | .s i => bits (a.sr.get i) 0 32
        | .imm c => c.toNat
      let late := fun (e : SeqEntry) => entryWritesK e f.g.k || (match f.c with
        | .s i => entryWritesS e i
        | .imm _ => false)
      ((seqEntries a.x).any late = false → Completes (.vloop f) s a (s.core a.core) (nextSlot
        (if a.guard f.g then { endCapture a.x with capture := some { left := f.n.toNat, es := [], reps := reps } }
         else a.x) a.pc)) ∧
      (∀ cp, a.x.capture = some cp → cp.es.any late = true → ∃ t y, exec (.vloop f) s = .next t ∧
        t.strand a.core a.k = some y ∧ y.capture = none ∧ y.seq = a.x.seq ++ [.group cp.es 0 cp.reps] ∧ y.pc = a.x.pc)) ∧
    (∀ f : Bare, Runs s a f.g → (seqEntries a.x).any (fun e => entryWritesK e f.g.k) = false → a.x.capture = none →
      sequenced (s.core a.core) < 16 → Enters (.vdrain f) s a (s.core a.core)) ∧
    (∀ f : Bare, AtEntry s a → EntryCompletes (.vdrain f) s a (s.core a.core) a.x) ∧
    (∀ g, AtEntry s a → EntryCompletes (.nop { g := g, exec := true }) s a (s.core a.core) a.x) ∧
    (∀ f : KpushF, AtEntry s a → a.guard f.g = true → a.x.bq.length < 8 →
      let k := a.k0 f.k
      let b := if f.mode = 0 then k.getLsbD 0 else if f.mode = 1 then decide (k ≠ 0) else decide (k = 0xFFFF)
      EntryCompletes (.kpush f) s a (s.core a.core) { a.x with bq := a.x.bq ++ [b] })

/-- 14 R295 to R301: QCFG binds a ring of the core's own share, or unbinds; QLINK of a binding whose peer's matching link flit
has come completes linked; QADV moves P or C of a local queue by its count, and of an outbound or inbound one tells the peer,
QADV.P on an outbound queue as a release; QSTAT reads a binding. A reserved word, and a
queue not bound for the use, raise QUEUE_UNCONFIGURED.
14 R270 and R297: the same with a queue as the destination, on no speculative path and with no shadow: of a local ring the
bytes of the enabled lanes are written at the slot that DNEED names and no other byte of memory; of an outbound queue a
message carries them, and no byte of memory changes. -/
def Obligations.Queues : Prop :=
  (
    ∀ (s : State) (a : Actor),
      (∀ (f : QcfgF), Runs s a f.g → a.spec s = none → earlierNames a.x f.q (fun _ => true) = false →
        slotInUse (s.core a.core) a.k f.q = false →
        let w := a.sr.get f.b
        let nslot := bits w 8 9
        let sz : BitVec 2 := w.extractLsb' 0 2
        let dir : BitVec 2 := w.extractLsb' 20 2
        let old := (s.core a.core).queues.get f.q
        (cfgReserved w = true → ∀ i ∈ [Instr.qcfgBind f, .qcfgUnbind f], Traps i s a cQueueUnconfigured 0) ∧
        (cfgReserved w = false → 2 ≤ nslot → nslot ≤ 256 → (dir = 1 ∨ dir = 2 → bits w 32 22 ≠ a.core) →
          (dir = 3 → ∃ t, exec (.qcfgUnbind f) s = .next t ∧ ((t.core a.core).queues.get f.q).bound = false ∧
            ∀ pa, t.byte pa = s.byte pa) ∧
          (dir ≠ 3 → ∀ pa, planRing s a (a.sr.get f.a) (slotSize sz) (nslot * slotSize sz) = .ok pa →
            ∃ t b, exec (.qcfgBind f) s = .next t ∧ (t.core a.core).queues.get f.q = b ∧ b.bound = true ∧ b.base = pa ∧
              b.nslot = nslot ∧ b.sz = sz ∧ b.dir = dir ∧ b.p = 0 ∧ b.c = 0 ∧ b.linked = (dir == 0) ∧
              b.epoch = old.epoch + 1 ∧ (∀ q, q ≠ f.q → (t.core a.core).queues.get q = (s.core a.core).queues.get q) ∧
              ∀ pa, t.byte pa = s.byte pa))) ∧
      (∀ (f : QueueF), Runs s a f.g → a.spec s = none → a.waited = [] →
        let b := (s.core a.core).queues.get f.q
        (b.bound = false ∨ b.dir = 0 ∨ b.dir = 3 → Traps (.qlink f) s a cQueueUnconfigured 0) ∧
        (b.bound = true → b.dir = 1 ∨ b.dir = 2 → b.badLink = false → b.linked = true → a.x.prog = .stage 1 0 →
          Completes (.qlink f) s a (s.core a.core) (nextSlot a.x a.pc))) ∧
      (∀ (f : QadvF), Runs s a f.g → f.exec = false → a.spec s = none → earlierNames a.x f.q (fun _ => true) = false →
        a.waited = [] →
        let n := advCount a f.n
        let co := s.core a.core
        let b := co.queues.get f.q
        (b.bound = false → Traps (.qadvP f) s a cQueueUnconfigured 0 ∧ Traps (.qadvC f) s a cQueueUnconfigured 0) ∧
        (b.bound = true → b.linked = true → b.dir = 0 →
          (n = 0 → Completes (.qadvP f) s a co (nextSlot a.x a.pc) ∧ Completes (.qadvC f) s a co (nextSlot a.x a.pc)) ∧
          (0 < n → n ≤ b.free → Completes (.qadvP f) s a
            { co with queues := co.queues.set f.q { b with p := b.p + BitVec.ofNat 32 n } } (nextSlot a.x a.pc)) ∧
          (0 < n → n ≤ b.filled → Completes (.qadvC f) s a
            { co with queues := co.queues.set f.q { b with c := b.c + BitVec.ofNat 32 n } } (nextSlot a.x a.pc))) ∧
        (b.bound = true → b.linked = true → 0 < n →
          (b.dir = 2 → n ≤ b.free → unordered s a = false →
            Sends (.qadvP f) s a [(.core b.peer, clsMSG, .queuePublish b.peerQ n)] a.x) ∧
          (b.dir = 1 → n ≤ b.filled → Sends (.qadvC f) s a [(.core b.peer, clsMSG, .queueCredit b.peerQ n)] a.x))) ∧
      (∀ (f : QadvF), AtEntry s a → f.exec = true → a.guard f.g = true → a.spec s = none → a.waited = [] →
        let n := advCount a f.n
        let co := s.core a.core
        let b := co.queues.get f.q
        b.bound = true → b.linked = true → b.dir = 0 → 0 < n →
        (n ≤ b.free → EntryCompletes (.qadvP f) s a
          { co with queues := co.queues.set f.q { b with p := b.p + BitVec.ofNat 32 n } } a.x) ∧
        (n ≤ b.filled → EntryCompletes (.qadvC f) s a
          { co with queues := co.queues.set f.q { b with c := b.c + BitVec.ofNat 32 n } } a.x)) ∧
      (∀ (f : QstatF), Runs s a f.g →
        let b := a.queue s f.q
        let v : Word := if b.bound then BitVec.ofNat 72 (2 ^ 32 + b2n b.linked * 2 ^ 31 + b.dir.toNat * 2 ^ 29 +
          b.sz.toNat * 2 ^ 27 + b.nslot * 2 ^ 18 + b.free * 2 ^ 9 + b.filled) else 0
        Completes (.qstat f) s a (s.core a.core) (nextSlot (withReg a.x f.d v) a.pc))
  ) ∧
  (
    ∀ (s : State) (a : Actor) (f3 : V3) (f4 : V4) (fn : V3n) (f2 : V2) (fs : VselF) (fp : VpermF) (fb : VbcastF),
      AtEntry s a → a.spec s = none → shadowMarks s a = false →
      ∀ p ∈ laneWise s a f3 f4 fn f2 fs fp fb, ∀ vs q n,
        p.d = .q q n → queuesReady s a (regUseOut p.d ++ p.srcs.flatMap srcUse) = .ok () →
        p.srcs.mapM (vsrc s a p.t) = .ok vs →
        let co := s.core a.core
        let b := co.queues.get q
        let r := runLanes (p.f vs) ((List.range p.t.lanes).filter (fun n => a.enabled p.g p.t.width n)) co.seed
        let slot := b.slotPa b.base (b.p.toNat + n.toNat - 1)
        let data := vBytes (putLanes p.t.width 0 r.1)
        let mask := vBytes (r.1.foldl (fun v l => setLane p.t.width v l.1 (2 ^ p.t.width - 1)) (0 : VWord))
        firstCause co.fctl r.2.1 = none → r.1 ≠ [] →
        ∃ t, exec p.i s = .next t ∧ (∃ y, t.strand a.core a.k = some y ∧ y.seq = seqPop a.x.seq ∧ y.v = a.x.v) ∧
          (b.dir ≠ 2 → (∀ pa, pa < slot ∨ slot + 16 ≤ pa → t.byte pa = s.byte pa) ∧
            ∀ j < 16, t.byte (slot + j) = if mask.getD j 0 = 0 then s.byte (slot + j) else data.getD j 0) ∧
          (b.dir = 2 → ∀ pa, t.byte pa = s.byte pa)
  )

/-! ### Rows 0x14, 0x16 and 0x1B: engines -/

/-- 15 R327, R328, R331 to R335; 20 R422 to R424: appends to the four engines while staging has room. A misaligned
address, distance or count raises MISALIGNED, ATTN's block size GATHER_BOUNDS, CRED by a strand that is no member
FOLD_EJECTED, each with nothing staged; otherwise the command is staged with its parameters and its ranges.
15 R329, R336, R337; 02 R70; 20 R421: ESEQ publishes what the strand staged on its engine and takes the engine's last
sequence number; RLQ reads the lock of an address as Table 15.7 lays it out, and releases a command; ATTNCFG writes the
attention configuration; MBIND binds a mailbox of the core's own position to a routine slot and hands over its parked
messages, MUNBIND unbinds it. -/
def Obligations.EngineInstructions : Prop :=
  (
    ∀ (s : State) (a : Actor), Settled s a → (s.core a.core).staging.length < 32 →
      (∀ f : CpyF, Runs s a f.g → f.sh = false →
        let dst := a.sr.get f.d
        let src := a.sr.get f.a
        let p := a.sr.get f.b
        let q := a.sr.get (f.b + 1)
        ∀ v ∈ [(Instr.cpy f, 1, p.toNat, 0, 0), (.cpy2d f, bits p 32 32, bits p 0 32, bits q 32 32, bits q 0 32)],
          let rows := v.2.1
          let len := v.2.2.1
          let ds := v.2.2.2.1
          let ss := v.2.2.2.2
          let op := EngineOp.cpy dst src rows len ds ss
          let out := (copyGeo s (pkgOf a.core) (s.core a.core).part op).drow
          let shape := len % 64 = 0 ∧ ds % 64 = 0 ∧ ss % 64 = 0 ∧ rows * len / 64 < 2 ^ 26
          (dst.toNat % 64 ≠ 0 → Traps v.1 s a cMisaligned dst) ∧
          (dst.toNat % 64 = 0 → src.toNat % 64 ≠ 0 → Traps v.1 s a cMisaligned src) ∧
          (dst.toNat % 64 = 0 → src.toNat % 64 = 0 → ¬ shape → Traps v.1 s a cMisaligned 0) ∧
          (dst.toNat % 64 = 0 → src.toNat % 64 = 0 → shape → ∀ c, completionPair s a f.c = .ok c →
            Stages v.1 s a (newCommand s a 0 c.1 c.2 op (if rows * len = 0 then [] else
              [(src.toNat, src.toNat + (rows - 1) * ss + len, false), (dst.toNat, dst.toNat + (rows - 1) * ds + out, true)]))
              a.x)) ∧
      (∀ f : ReplayF, Runs s a f.g → f.sh = false → ∀ c, completionPair s a f.c = .ok c →
        Stages (.replay f) s a (newCommand s a 0 c.1 c.2 (.replay (BitVec.ofNat 32 (bits (a.sr.get f.a) 0 32))) []) a.x) ∧
      (∀ f : CredF, Runs s a f.g → f.sh = false →
        let w := a.sr.get f.b
        let count := bits w 0 32
        let fold : Fin 16 := Fin.ofNat 16 (bits w 32 4)
        let dst := a.sr.get f.d
        let src := a.sr.get f.a
        let n := count * credSize f.fmt
        let round := smGet 0 a.x.credRounds fold.val
        (bit a.x.memb fold.val = false → Traps (.cred f) s a cFoldEjected 0) ∧
        (bit a.x.memb fold.val = true → dst.toNat % 64 ≠ 0 → Traps (.cred f) s a cMisaligned dst) ∧
        (bit a.x.memb fold.val = true → dst.toNat % 64 = 0 → src.toNat % 64 = 0 → n % 64 = 0 → n ≤ (2 ^ 26 - 1) * 64 →
          bits w 36 36 = 0 → ∀ c, completionPair s a f.c = .ok c →
          Stages (.cred f) s a (newCommand s a 3 c.1 c.2 (.cred f.op f.fmt dst src count fold round)
              (if count = 0 then [] else [(src.toNat, src.toNat + n, false), (dst.toNat, dst.toNat + n, true)]))
            { a.x with credRounds := smPut a.x.credRounds fold.val (round + 1) })) ∧
      (∀ f : NbmvF, Runs s a f.g →
        let d := a.sr.get f.d
        let v := a.sr.get f.a
        let b := a.sr.get f.b
        let rows := bits (a.sr.get (f.b + 1)) 32 32
        let len := bits (a.sr.get (f.b + 1)) 0 32
        (v.toNat % 64 ≠ 0 → Traps (.nbmv f) s a cMisaligned v) ∧
        (v.toNat % 64 = 0 → d.toNat % 64 ≠ 0 → Traps (.nbmv f) s a cMisaligned d) ∧
        (v.toNat % 64 = 0 → d.toNat % 64 = 0 → b.toNat % 2 ^ 16 ≠ 0 → Traps (.nbmv f) s a cMisaligned b) ∧
        (v.toNat % 64 = 0 → d.toNat % 64 = 0 → b.toNat % 2 ^ 16 = 0 → len % 64 = 0 → 64 ≤ len → len ≤ 65536 → rows ≤ 2 ^ 24 →
          ∀ c, completionPair s a f.c = .ok c →
          Stages (.nbmv f) s a (newCommand s a 1 c.1 c.2 (.nbmv f.mf f.chk d v b rows len)
            ((v.toNat, v.toNat + len, false) :: (if rows = 0 then [] else [(d.toNat, d.toNat + 4 * rows, true)]))) a.x)) ∧
      (∀ (f : AttnF) (l : Leaf), Runs s a f.g →
        let va := a.sr.get f.a
        let word := fun (i : Nat) => BitVec.ofNat 64 (readU s (l.pa va + 8 * i) 8)
        let at_ := fun (i : Nat) => setBits va 0 64 (word i).toNat
        let cfg := (s.core a.core).attn
        let lse : Word := if word 5 = 0 then 0 else at_ 5
        let out := 32 * dhSize cfg.dh * attnOutBytes cfg.out
        let len := bits (word 6) 0 32
        planOne s a va 64 64 .rd false ruleAny = .ok l → Readable s a (mkAccess l va (.load 64 none)) →
        (∀ i ∈ [0, 1, 2, 4, 5], (word i).toNat % 64 = 0) → (word 3).toNat % 16 = 0 →
        ((bits (word 6) 32 6 < 6 ∨ 30 < bits (word 6) 32 6 ∨ bits (word 6) 38 26 ≠ 0 ∨ word 7 ≠ 0) →
          Traps (.attn f) s a cGatherBounds 0) ∧
        (6 ≤ bits (word 6) 32 6 → bits (word 6) 32 6 ≤ 30 → bits (word 6) 38 26 = 0 → word 7 = 0 →
          ∀ c, completionPair s a f.c = .ok c →
          Stages (.attn f) s a (newCommand s a 2 c.1 c.2
            (.attn f.chk (at_ 0) (at_ 1) (at_ 2) (at_ 3) (at_ 4) lse (bits (word 6) 32 6) len cfg.dh cfg.inp cfg.out cfg.scale)
            ((if out = 0 then [] else [((at_ 4).toNat, (at_ 4).toNat + out, true)]) ++
              (if lse = 0 then [] else [(lse.toNat, lse.toNat + 128, true)]) ++
              (let n := 32 * dhSize cfg.dh * mfBits (attnInFmt cfg.inp) / 8
               if n = 0 then [] else [((at_ 0).toNat, (at_ 0).toNat + n, false)]) ++
              (let n := 4 * ((len + 31) / 32)
               if n = 0 then [] else [((at_ 3).toNat, (at_ 3).toNat + n, false)]))) a.x))
  ) ∧
  (
    ∀ (s : State) (a : Actor), a.spec s = none →
      let co := s.core a.core
      (∀ f : EseqF, Runs s a f.g → f.sh = false → unordered s a = false →
        let mine := co.staging.filter (fun x => x.strand == a.k && x.eng == f.eng)
        let y := nextSlot (withReg a.x f.d ((co.engSeq.get f.eng).setWidth 72)) a.pc
        (mine = [] → Completes (.eseq f) s a co y) ∧
        (∀ x, mine = [x] → x.core = a.core → x.registered = true → isZeroLength x = false → (∀ n, x.op ≠ .replay n) →
          ∃ t, exec (.eseq f) s = .next t ∧ OnlyStrand s t a.core a.k ∧ t.strand a.core a.k = some y ∧
            (t.core a.core).chains = co.chains.set f.eng (co.chains.get f.eng ++ [{ x with pub := s.tick }]) ∧
            (t.core a.core).staging = co.staging.filter (fun q => !(q.eng == x.eng && q.seq == x.seq)) ∧
            ∀ pa, t.byte pa = s.byte pa)) ∧
      (∀ f : RlqQueryF, Runs s a f.g → f.sh = false →
        let w := match lockAt (s.cluster (clOf a.core)) co.part (a.sr.get f.a).toNat with
          | some l => BitVec.ofNat 72
              (l.seq.toNat * 2 ^ 32 + l.eng.val * 2 ^ 30 + b2n l.dst * 2 ^ 29 + b2n l.retained * 2 ^ 28 + 1)
          | none => 0
        Completes (.rlqQuery f) s a co (nextSlot (withReg a.x f.d w) a.pc)) ∧
      (∀ f : RlqReleaseF, Runs s a f.g → f.sh = false →
        let is := fun (x : Command) => x.eng == f.eng && x.seq == BitVec.ofNat 32 (bits (a.sr.get f.a) 0 32)
        let y := fun (v : Word) => nextSlot (withReg a.x f.d v) a.pc
        (co.staging.find? is = none → (co.chains.get f.eng).find? is = none → co.retained.find? is = none →
          Completes (.rlqRelease f) s a co (y 0)) ∧
        (∀ x, co.staging.find? is = none → (co.chains.get f.eng).find? is = some x → x.running = true →
          let mark := (co.chains.get f.eng).map (fun q => if is q then { q with stop := true } else q)
          match x.op with
          | .cred .. => Completes (.rlqRelease f) s a co (y 0)
          | _ => Completes (.rlqRelease f) s a { co with chains := co.chains.set f.eng mark } (y 1)) ∧
        (∀ x, co.staging.find? is = some x → ∃ t, exec (.rlqRelease f) s = .next t ∧ OnlyStrand s t a.core a.k ∧
          t.strand a.core a.k = some (y 1) ∧ (t.core a.core).staging = co.staging.filter (fun q => !is q))) ∧
      (∀ f : AttncfgF, Runs s a f.g →
        Completes (.attncfg f) s a
          { co with attn := { dh := f.dh, inp := f.inp, out := f.out, scale := (a.sr.get f.a).setWidth 32 } }
          (nextSlot a.x a.pc)) ∧
      (∀ (f : MbindF) (fu : RegF) (l : Leaf) (cl pos ofs : Nat), co.halt = .none → f.a = fu.a →
        let va := a.sr.get f.a
        let m := ofs / 4096
        let b := smGet Mailbox.reset co.mailboxes m
        strandLeaf s a.core (a.x.prio == 3) va true false false = .ok l → l.fmtOk = true →
        siteOf (l.pa va) l.geom2 = .mailbox cl pos ofs → pos < 16 → cl * 16 + pos = a.core → spaceOf va ≠ 0xC0 →
        (Runs s a f.g → (∀ x y, b.bind ≠ .pipeline x y) →
          ∃ t, exec (.mbind f) s = .next t ∧ OnlyStrand s t a.core a.k ∧
            t.strand a.core a.k = some (nextSlot a.x a.pc) ∧ (∀ pa, t.byte pa = s.byte pa) ∧
            smGet Mailbox.reset (t.core a.core).mailboxes m = { bind := .slot f.slot, parked := [] } ∧
            (∀ n, n ≠ m → smGet Mailbox.reset (t.core a.core).mailboxes n = smGet Mailbox.reset co.mailboxes n) ∧
            (smGet Routine.reset (t.core a.core).routines f.slot.toNat).queue.length =
              (smGet Routine.reset co.routines f.slot.toNat).queue.length + b.parked.length) ∧
        (Runs s a f.g → (∃ x y, b.bind = .pipeline x y) → Traps (.mbind f) s a cDeny va) ∧
        (Runs s a fu.g → b.bind ≠ .none →
          ∃ t, exec (.munbind fu) s = .next t ∧ OnlyStrand s t a.core a.k ∧
            t.strand a.core a.k = some (nextSlot a.x a.pc) ∧ (∀ pa, t.byte pa = s.byte pa) ∧
            smGet Mailbox.reset (t.core a.core).mailboxes m = { b with bind := .none }) ∧
        (Runs s a fu.g → b.bind = .none → Completes (.munbind fu) s a co (nextSlot a.x a.pc)))
  )

/-! ### Row 0x15 -/

/-- 17 R344: a handle of a kind the instruction does not take raises HANDLE_KIND, and a null handle or an answer of this
core under an older GEN raises HANDLE_STALE; nothing is sent.
17 R348, R349, R351 to R354; 02 R45: RESOLVE and BREAK notify HOME and COMPUTE; HSTAT and HGET read what this core knows;
HSYNC asks COMPUTE and holds the strand's later messages; HRETIRE at the HOME core frees the slot under its next GEN and
tells COMPUTE; WHEN registers a continuation in a task record, with an entry of the buffer where the core keeps none for the
answer, or queues it at once when the answer is known or stale. -/
def Obligations.Answers : Prop :=
  (
    ∀ (s : State) (a : Actor) (fi : InvokeF) (fn : InvokenF) (fr : ResolveF) (fo : Reg2) (fb : BreakF) (fh : DstReg)
      (fg : HgetF), a.spec s = none →
      ∀ p ∈ [(Instr.invoke fi, fi.g, fi.a, true), (.invoken fn, fn.g, fn.a, true), (.resolveValue fr, fr.g, fr.a, false),
          (.resolveObject fo, fo.g, fo.a, false), (.breakAnswer fb, fb.g, fb.a, false), (.hstat fh, fh.g, fh.a, false),
          (.hget fg, fg.g, fg.a, false)],
        Runs s a p.2.1 →
        let h := low64 (a.sr.get p.2.2.1)
        (2 ≤ hKind h → Traps p.1 s a cHandleKind 0) ∧
        (h = 0 → Traps p.1 s a cHandleStale 0) ∧
        (hKind h = 0 → h ≠ 0 → p.2.2.2 = false → Traps p.1 s a cHandleKind 0) ∧
        (hKind h = 1 → hHome h = a.core → slotGen s a.core (hSlot h) ≠ hGen h → Traps p.1 s a cHandleStale 0)
  ) ∧
  (
    ∀ (s : State) (a : Actor), a.spec s = none →
      let co := s.core a.core
      (∀ f : ResolveF, Runs s a f.g →
        let h := low64 (a.sr.get f.a)
        HandleOk s a h false true →
        Sends (.resolveValue f) s a
          (notices h (.resolution h (ansValue (valueBytes a f.b f.len.toNat)) false)) a.x) ∧
      (∀ f : Reg2, Runs s a f.g →
        let h := low64 (a.sr.get f.a)
        let v := low64 (a.sr.get f.b)
        HandleOk s a h false true →
        (hKind v ≠ 0 ∨ v = 0 → Traps (.resolveObject f) s a cHandleKind 0) ∧
        (hKind v = 0 → v ≠ 0 → Sends (.resolveObject f) s a (notices h (.resolution h (ansObject v) false)) a.x)) ∧
      (∀ f : BreakF, Runs s a f.g →
        let h := low64 (a.sr.get f.a)
        HandleOk s a h false true →
        Sends (.breakAnswer f) s a (notices h (.broken h (ansBroken f.cause a.core) false)) a.x) ∧
      (∀ f : DstReg, Runs s a f.g →
        let h := low64 (a.sr.get f.a)
        HandleOk s a h false true →
        Completes (.hstat f) s a co
          (nextSlot (withReg a.x f.d ((statusWord (hGen h) (knownState s a.core h)).setWidth 72)) a.pc)) ∧
      (∀ f : HgetF, Runs s a f.g →
        let h := low64 (a.sr.get f.a)
        let st := knownState s a.core h
        let good := decide (st.state = 2 ∨ st.state = 3)
        let v : Word := if good then BitVec.ofNat 72 (leVal ((st.body.drop (8 * f.word.toNat)).take 8)) else 0
        let y := withReg a.x f.d v
        HandleOk s a h false true →
        Completes (.hget f) s a co (nextSlot (match f.c with
          | some k => withPred y k (if good then 0xFFFF else 0)
          | none => y) a.pc)) ∧
      (∀ f : RegF, Runs s a f.g →
        let h := low64 (a.sr.get f.a)
        HandleOk s a h false true →
        let y : SyncHold := { ans := h, core := a.core, strand := a.k, since := s.now }
        Sends (.hsync f) s a [(.core (hCompute h), clsNTC, .hsync y)] { a.x with hsync := a.x.hsync ++ [y] } ∧
        (hHome h ≠ a.core → Traps (.hretire f) s a cHandleStale 0) ∧
        (hHome h = a.core → ∃ t q, exec (.hretire f) s = .next t ∧ OnlyStrand s t a.core a.k ∧
          t.strand a.core a.k = some (nextSlot a.x a.pc) ∧
          readD t (slotStatusPa a.core (hSlot h)) = BitVec.ofNat 64 ((hGen h + 1).toNat * 2 ^ 58) ∧
          t.kept.getLast? = some q ∧ q.what = (a.core, .core (hCompute h), clsMSG, .retire h))) ∧
      (∀ (f : WhenF) (r : Nat), Runs s a f.g → freeTask s (clOf a.core) = some r → co.halt = .none →
        let h := low64 (a.sr.get f.a)
        let pc := branchTarget a.pc f.ofs f.tslot
        let st := registeredState s a.core h
        HandleOk s a h false true → pibCount co < 256 →
        (∃ t, exec (.when f) s = .next t ∧ OnlyStrand s t a.core a.k ∧
          t.strand a.core a.k = some (nextSlot a.x a.pc) ∧ (∀ q, q < r ∨ r + 64 ≤ q → t.byte q = s.byte q) ∧
          (2 ≤ st.state.toNat → ∃ b, (smGet Routine.reset (t.core a.core).routines a.x.slot.toNat).queue =
            (smGet Routine.reset co.routines a.x.slot.toNat).queue ++ [b] ∧ b.pc = some pc ∧ b.s9 = h.setWidth 72 ∧
            b.taskRec = some r ∧ Sent s t a.core []) ∧
          (st.state.toNat < 2 → hHome h = a.core → (t.core a.core).pib = co.pib ++ [.cont h r pc a.x.slot false] ∧
            Sent s t a.core []) ∧
          (st.state.toNat < 2 → hHome h ≠ a.core → pibState co h = none →
            (t.core a.core).pib = co.pib ++ [.known h ansPending, .cont h r pc a.x.slot false] ∧
            Sent s t a.core (if hCompute h = a.core then [] else [(.core (hCompute h), clsNTC, .waiterReg h a.core)]))))
  )

/-- 17 R345 to R347: INVOKE takes the lowest free slot of its core for a new answer, which stands pending there and in D,
and sends the invocation to the target's core; with no free slot it raises ANSWER_FULL. INVOKEN and the SENDs return nothing.
A SEND to an address that is no mailbox raises ACCESS_TABLE_DENY. -/
def Obligations.Invocations : Prop :=
  ∀ (s : State) (a : Actor), a.spec s = none → a.x.hsync = [] →
    let call := fun (t : DWord) (m : BitVec 8) (b : ArgRegs) (ans : DWord) => Msg.invocation
      { target := t, method := m, args := argWords a b, ans := ans, sender := a.core, part := (s.core a.core).part }
    let dest := fun (t : DWord) => Dest.core (bits t 40 22)
    (∀ f : InvokeF, Runs s a f.g → HandleOk s a (low64 (a.sr.get f.a)) true true →
      let t := low64 (a.sr.get f.a)
      (freeSlot s a.core = none → Traps (.invoke f) s a cAnswerFull 0) ∧
      (∀ j, freeSlot s a.core = some j →
        let gen := slotGen s a.core j
        let ans := answerHandle (bits t 40 22) a.core j gen
        let pa := slotStatusPa a.core j
        ∃ u, exec (.invoke f) s = .next u ∧ OnlyStrand s u a.core a.k ∧
          u.strand a.core a.k = some (nextSlot (withReg a.x f.d (ans.setWidth 72)) a.pc) ∧
          readD u pa = BitVec.ofNat 64 (gen.toNat * 2 ^ 58 + 2 ^ 55) ∧
          (∀ q, q < pa ∨ pa + 8 ≤ q → u.byte q = s.byte q) ∧ Sent s u a.core [(dest t, clsMSG, call t f.method f.b ans)])) ∧
    (∀ f : InvokenF, Runs s a f.g → HandleOk s a (low64 (a.sr.get f.a)) true true →
      let t := low64 (a.sr.get f.a)
      Sends (.invoken f) s a [(dest t, clsMSG, call t f.method f.b 0)] a.x) ∧
    (∀ (f : SendMboxF) (l : Leaf), Runs s a f.g →
      let va := a.sr.get f.a
      strandLeaf s a.core (a.x.prio == 3) va false true false = .ok l → l.fmtOk = true → spaceOf va ≠ 0xC0 →
      match siteOf (l.pa va) l.geom2 with
      | .mailbox cl pos _ => Sends (.sendMailbox f) s a
          [(if pos < 16 then .core (cl * 16 + pos) else .shepherd cl, clsMSG,
            .mailbox (l.pa va) (argWords a f.b) (BitVec.ofNat 72 a.core))] a.x
      | _ => Traps (.sendMailbox f) s a cDeny va) ∧
    (∀ f : SendActF, Runs s a f.g → Sends (.sendActive f) s a [(.core (bits (a.sr.get f.a) 0 22), clsMSG,
        .active f.slot (low64 (a.sr.get f.c)) (argWords a f.b))] a.x)

/-- 17 R355 to R359; 02 R62: OBJNEW on ordinary memory of its own core writes the lowest free directory entry and gives its
handle, and 0 for a size out of range or a full directory; OBJFREE frees an object of its own core; MIGR and MIGRA to the
strand's own core do nothing, and to another core send the context and free it; HOLD and RELEASE set and clear hold bits. -/
def Obligations.Objects : Prop :=
  ∀ (s : State) (a : Actor), a.spec s = none →
    let co := s.core a.core
    (∀ (f : ObjnewF), Runs s a f.g →
      let base := a.sr.get f.a
      let size := (a.sr.get f.b).toNat
      let zero := Completes (.objnew f) s a co (nextSlot (withReg a.x (.s f.d) 0) a.pc)
      (base.toNat % 64 ≠ 0 → Traps (.objnew f) s a cMisaligned base) ∧
      (base.toNat % 64 = 0 → size = 0 ∨ 2 ^ 40 ≤ size → zero) ∧
      (∀ ps cfg, base.toNat % 64 = 0 → 0 < size → size < 2 ^ 40 → planObject s a (pagePieces base size) = .ok ps →
        (∀ p ∈ ps, ownPiece p.2.2 a.core p.1 p.2.1 = true) → s.cfg a.core = some cfg →
        (freeIndex s a.core cfg 1 (cfg.dircap - 1) = .ok none → zero) ∧
        (∀ i s1, freeIndex s a.core cfg 1 (cfg.dircap - 1) = .ok (some i) →
          unitWrite s a.core (dirVa cfg a.core i) (leBytes 16 base.toNat ++
            leBytes 8 (2 ^ 63 + f.cls.toNat * 2 ^ 40 + size) ++ List.replicate 8 0) = .ok s1 →
          ∃ t, exec (.objnew f) s = .next t ∧ OnlyStrand s t a.core a.k ∧
            t.strand a.core a.k =
              some (nextSlot (withReg a.x (.s f.d) ((objectHandle a.core i f.cls.toNat).setWidth 72)) a.pc) ∧
            ∀ q, t.byte q = s1.byte q))) ∧
    (∀ (f : RegF) (cfg : PartCfg), Runs s a f.g → s.cfg a.core = some cfg →
      let h := low64 (a.sr.get f.a)
      HandleOk s a h true false →
      (hOwner h ≠ a.core ∨ hIndex h = 0 ∨ cfg.dircap ≤ hIndex h → Traps (.objfree f) s a cHandleStale 0) ∧
      (∀ w s1, hOwner h = a.core → 0 < hIndex h → hIndex h < cfg.dircap →
        unitRead s a.core (dirVa cfg a.core (hIndex h) + 16) = .ok w →
        ((bit w 63 = false ∨ bits w 40 12 ≠ hClass h) → Traps (.objfree f) s a cHandleStale 0) ∧
        (bit w 63 = true → bits w 40 12 = hClass h →
          unitWrite s a.core (dirVa cfg a.core (hIndex h) + 16) (leBytes 8 (setBit w 63 false).toNat) = .ok s1 →
          ∃ t, exec (.objfree f) s = .next t ∧ OnlyStrand s t a.core a.k ∧
            t.strand a.core a.k = some (nextSlot a.x a.pc) ∧ ∀ q, t.byte q = s1.byte q))) ∧
    (∀ (f : RegF) (fa : MigraF) (l : Leaf) (d : Nat),
      let va := a.sr.get fa.a + fa.disp.signExtend 72
      strandLeaf s a.core (a.x.prio == 3) va true false false = .ok l → l.fmtOk = true →
      (Runs s a fa.g → ownerOf l va = none → Traps (.migra fa) s a cMigrate 0) ∧
      (∀ i, (i = .migr f ∧ Runs s a f.g ∧ bits (a.sr.get f.a) 0 22 = d) ∨
          (i = .migra fa ∧ Runs s a fa.g ∧ ownerOf l va = some d) →
        (d = a.core → Completes i s a co (nextSlot a.x a.pc)) ∧
        (d ≠ a.core → seqIdle a.x = false → Traps i s a cMigrate 0) ∧
        (d ≠ a.core → seqIdle a.x = true → releaseReady s a = .ok () → a.x.rs = [] → a.x.memb = 0 →
          publishStrand s a.core a.k none = some s →
          ∃ t c, exec i s = .next t ∧ OnlyStrand s t a.core a.k ∧ t.strand a.core a.k = none ∧
            (∀ pa, t.byte pa = s.byte pa) ∧ Sent s t a.core [(.core d, clsMSG, .context c)] ∧ c.k = a.x.k ∧ c.pc = a.pc ∧
            c.s = a.x.s ∧ c.prio = a.x.prio ∧ c.l0 = a.x.l0 ∧ c.l1 = a.x.l1 ∧ c.part = co.part))) ∧
    (∀ f : HoldF, Runs s a f.g →
      let m := maskOf a f.m
      Completes (.hold f) s a co (nextSlot { a.x with hold := a.x.hold ||| m } a.pc) ∧
      Completes (.release f) s a co (nextSlot { a.x with hold := a.x.hold &&& ~~~m } a.pc))

/-! ### Rows 0x16 and 0x17 -/

/-- 17 R363; 03 R85 to R87: LAUNCH of a descriptor within the limits, whose level record the strand may write, writes the
answer, the level's first word and LASTPH into the record, hands the launch to the core's shepherd and gives the answer; a
refused one resolves its answer as broken, with INVOKE_DENIED, and launches nothing. -/
def Obligations.Launches : Prop :=
  ∀ (s s0 s1 : State) (a : Actor) (f : DstReg) (b pb : List Byte) (ans : DWord), Runs s a f.g → a.spec s = none →
    let va := a.sr.get f.a
    let d := launchDesc b
    let lv := space0 d.level
    let cl := clOf a.core
    let y := nextSlot (withReg a.x f.d (ans.setWidth 72)) a.pc
    recordLoad s a va 64 64 = .ok b → recordLoad s a (lv + 8) 8 8 = .ok pb →
    launchStores s a d va (launchRefused s a.core d) = .ok () → takeSlot s a.core a.core = some (ans, s0) →
    recordStore s0 a (lv + 16) (leBytes 8 ans.toNat) 8 = .ok s1 →
    (launchRefused s a.core d = true → ∃ t, exec (.launch f) s = .next t ∧ OnlyStrand s t a.core a.k ∧
      t.strand a.core a.k = some y ∧ (t.cluster cl).launches = (s.cluster cl).launches ∧
      Sent s t a.core (notices ans (.broken ans (ansBroken cInvokeDenied a.core) false))) ∧
    (∀ s2 s3, launchRefused s a.core d = false → d.lkind = 0 → d.nstage = 0 → wordAt pb 0 = 0 →
      recordStore s1 a lv (leBytes 8 (2 ^ 61 + d.units)) 8 = .ok s2 →
      recordStore s2 a (lv + 24) (leBytes 8 0) 8 = .ok s3 →
      ∃ t l, exec (.launch f) s = .next t ∧ OnlyStrand s t a.core a.k ∧ t.strand a.core a.k = some y ∧
        (t.cluster cl).nextLaunch = (s.cluster cl).nextLaunch + 1 ∧
        smGet none (t.cluster cl).launches (s.cluster cl).nextLaunch = some l ∧ l.core = a.core ∧
        l.part = (s.core a.core).part ∧ l.level = d.level ∧ l.entry = d.entry ∧ l.clumask = d.clumask ∧ l.units = d.units ∧
        l.prio = d.prio ∧ l.arg0 = d.arg0 ∧ l.arg1 = d.arg1 ∧ l.nextUnit = 0 ∧ l.done = false ∧
        ∀ q, t.byte q = s3.byte q)

/-- 17 R368, R369; 02 R83, R84: TQCFG configures its cluster's tile queue from 16 bytes in memory, or raises TILE_QUEUE;
TNEXT of a configured queue gives the next sub-tile and clears k7, and sets it once none remains. Under EXACT and ONCE a
sub-tile's rows and columns start at whole multiples; under CLIP the last ones end with the tile.
17 R361, R362, R364 to R367; 02 R72 to R76: TASK takes the lowest free record of its cluster, which holds the creator,
COUNT and the rest of the image, counts it in its level, and sends it to its core at COUNT 0; TDEC posts a decrement; CANCEL
marks a running level; TESTC reads CANCEL; PHTOK and PHWAIT make and test phase tokens. -/
def Obligations.Tasks : Prop :=
  (
    ∀ (s : State) (a : Actor), a.spec s = none →
      let cl := clOf a.core
      let q := (s.cluster cl).tq
      (∀ (f : RegF) (b : List Byte), Runs s a f.g → recordLoad s a (a.sr.get f.a) 16 16 = .ok b →
        let n := fun (i len : Nat) => leVal ((b.drop i).take len)
        let bad := n 0 4 = 0 ∨ n 4 4 = 0 ∨ n 8 2 = 0 ∨ n 10 2 = 0 ∨ 2 < n 12 1 ∨ n 13 3 ≠ 0
        (bad → Traps (.tqcfg f) s a cTileQueue 0) ∧
        (¬ bad → ∃ t, exec (.tqcfg f) s = .next t ∧ OnlyStrand s t a.core a.k ∧
          t.strand a.core a.k = some (nextSlot a.x a.pc) ∧ (∀ pa, t.byte pa = s.byte pa) ∧
          (t.cluster cl).tq = { configured := true, rows := BitVec.ofNat 32 (n 0 4), cols := BitVec.ofNat 32 (n 4 4)
                                srows := BitVec.ofNat 16 (n 8 2), scols := BitVec.ofNat 16 (n 10 2)
                                rule := BitVec.ofNat 8 (n 12 1), claims := 0 })) ∧
      (∀ f : RegD, Runs s a f.g →
        (q.configured = false → Traps (.tnext f) s a cTileQueue 0) ∧
        (q.configured = true → tileClaim q = none → Completes (.tnext f) s a (s.core a.core)
          (nextSlot (withPred (withReg (withReg a.x (.s f.d) 0) (.s f.a) 0) 7 0xFFFF) a.pc)) ∧
        (∀ r c h w, q.configured = true → tileClaim q = some (r, c, h, w) →
          ∃ t, exec (.tnext f) s = .next t ∧ OnlyStrand s t a.core a.k ∧ t.strand a.core a.k =
              some (nextSlot (withPred (withReg (withReg a.x (.s f.d) (BitVec.ofNat 72 (r * 2 ^ 32 + c))) (.s f.a)
                (BitVec.ofNat 72 (h * 2 ^ 32 + w))) 7 0) a.pc) ∧
            (t.cluster cl).tq = { q with claims := q.claims + 1 } ∧ ∀ pa, t.byte pa = s.byte pa)) ∧
      (∀ (t : TileQueue) (r c h w : Nat), t.rule = 0 → 0 < t.srows.toNat → 0 < t.scols.toNat →
        tileClaim t = some (r, c, h, w) →
        r % t.srows.toNat = 0 ∧ c % t.scols.toNat = 0 ∧ r < t.rows.toNat ∧ c < t.cols.toNat ∧ 0 < h ∧ 0 < w ∧
        h ≤ t.srows.toNat ∧ w ≤ t.scols.toNat ∧ r + h ≤ t.rows.toNat ∧ c + w ≤ t.cols.toNat)
  ) ∧
  (
    ∀ (s : State) (a : Actor), a.spec s = none →
      let co := s.core a.core
      (∀ (f : TaskF) (img : List Byte) (r : Nat), Runs s a f.g → recordLoad s a (a.sr.get f.a) 64 64 = .ok img →
        img.length = 64 → freeTask s (clOf a.core) = some r →
        let n := (maskOf a f.n).toNat
        let y := nextSlot (withReg a.x (.s f.d) (BitVec.ofNat 72 r)) a.pc
        let word := BitVec.ofNat 64 (a.core % 2 ^ 22 * 2 ^ 32 + n)
        (wordAt img 7 = 0 → n ≠ 0 → ∃ t, exec (.task f) s = .next t ∧ OnlyStrand s t a.core a.k ∧
          t.strand a.core a.k = some y ∧ readD t r = word ∧ readBytes t (r + 8) 56 = img.drop 8 ∧
          (∀ q, q < r ∨ r + 64 ≤ q → t.byte q = s.byte q) ∧ Sent s t a.core []) ∧
        (wordAt img 7 = 0 → n = 0 → ∃ t q, exec (.task f) s = .next t ∧ OnlyStrand s t a.core a.k ∧
          t.strand a.core a.k = some y ∧ readD t r = setBits word 62 2 1 ∧
          t.kept.getLast? = some q ∧ q.flit.dst = .core (bits (wordAt img 6) 5 22) ∧ q.flit.msg =
            .taskRelease r (wordAt img 1) ((List.range 4).map (fun i => wordAt img (2 + i))) (a.core % 2 ^ 22)
              ((wordAt img 6).extractLsb' 0 5) 0) ∧
        (∀ b lp, wordAt img 7 ≠ 0 → recordLoad s a (space0 (wordAt img 7)) 8 8 = .ok b →
          devPa s (pkgOf a.core) co.part (space0 (wordAt img 7)) true = .ok lp →
          (lvRunning (wordAt b 0) = false → Completes (.task f) s a co (nextSlot (withReg a.x (.s f.d) 0) a.pc)) ∧
          (lvRunning (wordAt b 0) = true → n ≠ 0 → lp + 8 ≤ r ∨ r + 64 ≤ lp →
            ∃ t, exec (.task f) s = .next t ∧ OnlyStrand s t a.core a.k ∧ t.strand a.core a.k = some y ∧ readD t r = word ∧
              readD t lp = setBits (readD s lp) 0 32 (lvOut (readD s lp) + 1)))) ∧
      (∀ f : TdecF, Runs s a f.g →
        let dec := match f.n with
          | .s i => bits (a.sr.get i) 0 16
          | .imm v => v.toNat
        let ref := min (a.sr.get f.a).toNat (2 ^ 64 - 1)
        let t := decTarget a.core ref
        (dec = 0 → Completes (.tdec f) s a co (nextSlot a.x a.pc)) ∧
        (dec ≠ 0 → Sends (.tdec f) s a [(.shepherd t.1, clsMSG,
          .event (eventRecord t.2 a.core 0 (BitVec.ofNat 64 ref) dec))] a.x)) ∧
      (∀ (f : RegF) (b : List Byte), Runs s a f.g → recordLoad s a (a.sr.get f.a) 8 8 = .ok b →
        let va := a.sr.get f.a
        let w := wordAt b 0
        (lvRunning w = false → Completes (.cancel f) s a co (nextSlot a.x a.pc)) ∧
        (∀ l s1, lvRunning w = true → recordStore s a va (leBytes 8 (setBits w 59 2 1).toNat) 8 = .ok s1 →
          strandLeaf s a.core true va true false false = .ok l →
          ∃ t, exec (.cancel f) s = .next t ∧ OnlyStrand s t a.core a.k ∧ t.strand a.core a.k = some (nextSlot a.x a.pc) ∧
            (t.cluster (levelCl (l.pa va))).cancelled =
              (s.cluster (levelCl (l.pa va))).cancelled.filter (fun e => e.1 != l.pa va) ++ [(l.pa va, a.core)] ∧
            ∀ q, t.byte q = s1.byte q)) ∧
      (∀ f : TestcF, Runs s a f.g →
        Completes (.testc f) s a co (nextSlot (withPred a.x f.d (if a.x.cancel then 0xFFFF else 0)) a.pc)) ∧
      (∀ (f : RegD) (b : List Byte), Runs s a f.g →
        let va := a.sr.get f.a
        (bits va 53 11 ≠ 0 → Traps (.phtok f) s a cMisaligned va) ∧
        (bits va 53 11 = 0 → recordLoad s a va 8 32 = .ok b →
          let w := wordAt b 0
          Completes (.phtok f) s a co (nextSlot (withReg a.x (.s f.d)
            (if lvKind w = 3 then BitVec.ofNat 72 (bits va 5 48 * 2 ^ 16 + bits w 32 16) else 0)) a.pc))) ∧
      (∀ (f : PhwaitF) (b : List Byte), Runs s a f.g →
        let tok := low64 (a.sr.get f.a)
        let va := tokenVa a tok
        recordLoad s a va 8 8 = .ok b →
        let w := wordAt b 0
        let d := (bits w 32 16 + 65536 - bits tok 0 16) % 65536
        let done := fun (v : Word) => Completes (.phwait f) s a co (nextSlot (withReg a.x f.d v) a.pc)
        (lvKind w ≠ 3 → done 2) ∧ (lvKind w = 3 → 32768 < d → Traps (.phwait f) s a cPhaseFuture 0) ∧
        (lvKind w = 3 → d = 1 → done 1) ∧ (lvKind w = 3 → 1 < d → d ≤ 32768 → done 2) ∧
        (∀ r l, lvKind w = 3 → d = 0 → freeTask s (clOf a.core) = some r →
          strandLeaf s a.core true va true false false = .ok l →
          let wt : Waiter :=
            { core := a.core, task := r, pc := branchTarget a.pc f.ofs f.tslot, slot := a.x.slot, token := tok }
          ∃ t, exec (.phwait f) s = .next t ∧ OnlyStrand s t a.core a.k ∧
            t.strand a.core a.k = some (nextSlot (withReg a.x f.d 0) a.pc) ∧
            (t.cluster (levelCl (l.pa va))).phaseWait = (s.cluster (levelCl (l.pa va))).phaseWait ++
              [(l.pa va, BitVec.ofNat 16 (bits w 32 16), wt)] ∧
            ∀ q, q < r ∨ r + 64 ≤ q → t.byte q = s.byte q))
  )

/-- 17 R370, R371: FJOIN of a fold that the strand is in, and FLEAVE of one it is not in, complete with no effect; FLEAVE
takes a pending ejection; a first attempt sends the request to the package's root and waits. A second strand of a core
raises FOLD_EJECTED. FMEMB reads Table 17.4's words.
17 R372 to R374; 02 R78 to R82: a collective operation of a strand that is no member, or has been ejected, raises
FOLD_EJECTED and clears EJECT; a member contributes and waits. With the outcome there, CBR goes the way of the outcome and
FSYNC completes, or they raise FOLD_TIMEOUT; before that CBR goes the hinted way under a checkpoint once the execute side is
idle. -/
def Obligations.Folds : Prop :=
  (
    ∀ (s : State) (a : Actor), a.spec s = none →
      let co := s.core a.core
      let root : Dest := .block (pblockPa (pkgOf a.core) 0)
      (∀ f : FoldF, Runs s a f.g →
        let n := f.fold.val
        let wave := (s.cluster (clOf a.core)).wave.get f.fold
        (bit a.x.memb n = true → Completes (.fjoin f) s a co (nextSlot a.x a.pc)) ∧
        (bit a.x.memb n = false → bit wave (a.core % 16) = true → Traps (.fjoin f) s a cFoldEjected 0) ∧
        (bit a.x.memb n = false → bit wave (a.core % 16) = false → a.x.prog = .none →
          Waits (.fjoin f) s a [(root, clsCOL, .foldJoin f.fold a.k)] (fun y => y.prog = .stage 4 0)) ∧
        (bit a.x.eject n = true →
          Completes (.fleave f) s a co (nextSlot { a.x with eject := setBit a.x.eject n false } a.pc)) ∧
        (bit a.x.eject n = false → bit a.x.memb n = false → Completes (.fleave f) s a co (nextSlot a.x a.pc)) ∧
        (bit a.x.eject n = false → bit a.x.memb n = true → a.x.prog = .none →
          Waits (.fleave f) s a [(root, clsCOL, .foldLeave f.fold a.k)] (fun y => y.prog = .stage 4 1))) ∧
      (∀ f : FmembF, Runs s a f.g →
        let fo := (s.pkg (pkgOf a.core)).folds.get f.fold
        let n := f.sel.toNat
        let v : Word := if n < 4 then (fo.clusters.getD n 0).setWidth 72 else if n = 4 then fo.dies.setWidth 72
          else if n = 5 then ((s.cluster (clOf a.core)).wave.get f.fold).setWidth 72
          else if n = 6 then BitVec.ofNat 72 fo.packages.length
          else if 8 ≤ n ∧ n < 40 then BitVec.ofNat 72 (fo.packages.getD (n - 8) 0 % 1024) else 0
        Completes (.fmemb f) s a co (nextSlot (withReg a.x f.d v) a.pc))
  ) ∧
  (
    ∀ (s : State) (a : Actor), a.spec s = none →
      let co := s.core a.core
      let root : Dest := .block (pblockPa (pkgOf a.core) 0)
      let part := fun (f : Fin 16) (kind : Nat) (y : Strand) =>
        y.rounds = smPut a.x.rounds f.val (smGet 0 a.x.rounds f.val + 1) ∧ y.contrib = some
          { fold := f, round := smGet 0 a.x.rounds f.val, kind := kind, since := s.now, arrived := false, outcome := false,
            failed := false }
      let ejected := fun (i : Instr) (f : Fin 16) => exec i s =
        .next (raise (s.setStrand a.core a.k { a.x with eject := setBit a.x.eject f.val false }) a.core a.k .t
          { code := cFoldEjected, eva := 0 } a.pc 0)
      let failed := fun (i : Instr) => exec i s =
        .next (raise (s.setStrand a.core a.k { a.x with contrib := none }) a.core a.k .t
          { code := cFoldTimeout, eva := 0 } a.pc 0)
      (∀ f : CbrF, Runs s a f.g → ∀ p ∈ [(Instr.cbrAll f, 0), (.cbrAny f, 1)],
        let n := f.fold.val
        let t := branchTarget a.pc f.ofs f.tslot
        let y := { a.x with contrib := none }
        (a.x.contrib = none → bit a.x.memb n = false ∨ bit a.x.eject n = true → ejected p.1 f.fold) ∧
        (a.x.contrib = none → bit a.x.memb n = true → bit a.x.eject n = false → co.spec = none →
          checkStatic s a t = .ok () → releaseReady s a = .ok () →
          Waits p.1 s a [(root, clsCOL, .foldIn f.fold (smGet 0 a.x.rounds n) a.k p.2 (bit (a.k0 f.k) 0))] (part f.fold p.2)) ∧
        (∀ q, a.x.contrib = some q → q.arrived = true →
          (q.failed = true → failed p.1) ∧
          (q.failed = false → q.outcome = true → JumpsTo p.1 s a (jumpFrees y t) t) ∧
          (q.failed = false → q.outcome = false → Completes p.1 s a co (nextSlot y a.pc))) ∧
        (∀ q, a.x.contrib = some q → q.arrived = false → co.spec = none → seqIdle a.x = true →
          ∃ u z, exec p.1 s = .next u ∧ OnlyStrand s u a.core a.k ∧ u.strand a.core a.k = some z ∧ z.s = a.x.s ∧
            z.pc = (if f.ht then t else (nextSlot a.x a.pc).pc) ∧ (∀ pa, u.byte pa = s.byte pa) ∧
            ∃ sp, (u.core a.core).spec = some sp ∧ sp.strand = a.k ∧ sp.hint = f.ht ∧ sp.checkpoint = a.x ∧ sp.buf = [] ∧
              sp.held = [])) ∧
      (∀ f : FoldF, Runs s a f.g →
        let n := f.fold.val
        (a.x.contrib = none → bit a.x.memb n = false ∨ bit a.x.eject n = true → ejected (.fsync f) f.fold) ∧
        (a.x.contrib = none → bit a.x.memb n = true → bit a.x.eject n = false → releaseReady s a = .ok () →
          Waits (.fsync f) s a [(root, clsCOL, .foldIn f.fold (smGet 0 a.x.rounds n) a.k 2 false)] (part f.fold 2)) ∧
        (∀ q, a.x.contrib = some q → q.arrived = true →
          (q.failed = true → failed (.fsync f)) ∧
          (q.failed = false → Completes (.fsync f) s a co (nextSlot { a.x with contrib := none } a.pc))))
  )

/-! ### Rows 0x18 to 0x1A -/

/-- 10 R207 and 20 R426; 19 R398: a slot of these rows enters the sequencer; under a true guard the checks at issue come
first: a write to a rung tile (of LADRD and LADLD too, as 21's listing says), a ladder instruction before any LADCFG, a push of a
rung tile, a rung number past the last, and a LADCFG past tile 15 or with no valid microprogram raise LADDER.
10 R207 and 14 R268: an execute-side slot of rows 0x05 to 0x0F enters the sequencer with the registers as every earlier
slot left them and completes, whatever its guard. VLOOP and VDRAIN act otherwise; with 16 entries of the core's
sequencer in use the slot waits. -/
def Obligations.ExecuteSideIssue : Prop :=
  (
    ∀ (s : State) (a : Actor) (fm : MmaF) (fr : MrecF) (ft : TileF) (fl fs : TileMemF) (fb : Bare) (fa : AcvtF) (fc : LadcfgF)
      (fd : LadldF) (fw : LadwF), AtSlot s a → a.x.ss = false → a.spec s = none → a.x.capture = none →
      sequenced (s.core a.core) < 16 →
      let co := s.core a.core
      let free := fun (g : Guard) => (seqEntries a.x).any (fun e => entryWritesK e g.k) = false
      (∀ p ∈ [(Instr.mma fm, fm.g, fm.d), (.mmas fm, fm.g, fm.d), (.mrec fr, fr.g, fr.d), (.azero ft, ft.g, ft.d),
          (.azeroRelease ft, ft.g, ft.d), (.ald fl, fl.g, fl.d)], free p.2.1 →
        (a.guard p.2.1 = true → isRung co p.2.2.val = true → Traps p.1 s a cLadder 0) ∧
        (a.guard p.2.1 = false ∨ isRung co p.2.2.val = false → Enters p.1 s a co)) ∧
      (∀ p ∈ [(Instr.wswp fb, fb.g), (.gang fb, fb.g), (.ast fs, fs.g), (.acvt fa, fa.g)], free p.2 → Enters p.1 s a co) ∧
      (free fc.g →
        let b := fc.d.val
        let r := fc.r.toNat
        let good := r ≠ 0 ∧ b + r ≤ 16 ∧ (fc.micro = true → microValid co.microActive = true)
        (a.guard fc.g = false → Enters (.ladcfg fc) s a co) ∧
        (a.guard fc.g = true → ¬ good → Traps (.ladcfg fc) s a cLadder 0) ∧
        (a.guard fc.g = true → good → Enters (.ladcfg fc) s a { co with ladIssued := some (b, r) })) ∧
      (∀ p ∈ [(Instr.ladpush ft, ft.g, fun (b r : Nat) => decide (b ≤ ft.d.val ∧ ft.d.val < b + r)),
          (.ladrd ft, ft.g, fun b r => decide (b ≤ ft.d.val ∧ ft.d.val < b + r)),
          (.ladld fd, fd.g, fun b r => decide (r ≤ fd.j.val ∨ (b ≤ fd.d.val ∧ fd.d.val < b + r))), (.ladw fw, fw.g, fun _ _ => false)], free p.2.1 →
        (a.guard p.2.1 = false → Enters p.1 s a co) ∧
        (a.guard p.2.1 = true → co.ladIssued = none → Traps p.1 s a cLadder 0) ∧
        (∀ b r, a.guard p.2.1 = true → co.ladIssued = some (b, r) →
          (p.2.2 b r = true → Traps p.1 s a cLadder 0) ∧ (p.2.2 b r = false → Enters p.1 s a co)))
  ) ∧
  (
    ∀ (s : State) (a : Actor) (pos : Nat) (i : Instr) (w : Slot), i.wf pos = true → encodeSlot i = some w →
      w.opc.toNat / 32 ≤ 15 → w.shadow = false → i.side = true → (∀ f, i ≠ .vloop f) → (∀ f, i ≠ .vdrain f) →
      AtSlot s a → a.x.ss = false → a.x.capture = none →
      (sequenced (s.core a.core) < 16 →
        Completes i s a (s.core a.core) (nextSlot
          { a.x with seq := a.x.seq ++ [.one { pc := a.pc, i := i, s := a.x.s, k := a.x.k, shadowed := false,
                                               badS := a.x.checks.badS, badK := a.x.checks.badK, num := s.tick
                                               taken := [] }] } a.pc)) ∧
      (16 ≤ sequenced (s.core a.core) → exec i s = .next (markWait s a .sequencer []))
  )

/-- 20 R408, R410, R411; 19 R384 to R386; 07 R175: WLD loads the shadow plane from its image (with 16-bit weights the plane in
both places), WSWP exchanges the planes, MPLD loads the shadow microprogram bank, or raises WCS_BUSY while one waits, and
GANG stands at its row's barrier. -/
def Obligations.WeightPlanes : Prop :=
  ∀ (s : State) (a : Actor),
    let co := s.core a.core
    (∀ (f : WldF) (xs : List Access), Runs s a f.g → Settled s a →
      (∀ x ∈ liveStrands co, x.2.gang = none ∧ ∀ e ∈ seqEntries x.2, ∀ u ∈ unitNames e.i, u.1 ≠ 16) →
      let pb := planeBytes f.mf
      let mb := if f.sp then 256 else 0
      imagePlan s a (a.sr.get f.a + f.disp.signExtend 72) (pb + mb + pairBytes f.mf) 64 = (xs, none) →
      (∀ x ∈ xs, Readable s a x) →
      let img := xs.flatMap (dataAt s)
      let pl : Plane :=
        { valid := true, sparse := f.sp, fmt := f.mf, nact := f.nact.toNat, weights := img.take pb
          meta_ := (img.drop pb).take mb, pairs := img.drop (pb + mb) }
      Completes (.wld f) s a (if mfBits f.mf = 16 then { co with shadow := pl, active := pl } else { co with shadow := pl })
        (nextSlot a.x a.pc)) ∧
    (∀ f : Bare, InTurn s a (.wswp f) → EntryCompletes (.wswp f) s a
      (if a.guard f.g then { co with active := co.shadow, shadow := co.active } else co) a.x) ∧
    (∀ (f : MpldF) (xs : List Access), Runs s a f.g → Settled s a →
      (co.mpldAt.isSome = true → Traps (.mpld f) s a cWcsBusy 0) ∧
      (co.mpldAt = none → imagePlan s a (a.sr.get f.a + f.disp.signExtend 72) 32 32 = (xs, none) →
        (∀ x ∈ xs, Readable s a x) →
        let w := fun (ofs n : Nat) => leVal (((xs.flatMap (dataAt s)).drop ofs).take n)
        Completes (.mpld f) s a { co with
            mpldAt := some s.tick
            microShadow := { kc := BitVec.ofNat 32 (w 0 4), p := BitVec.ofNat 32 (w 4 4), rest := BitVec.ofNat 128 (w 16 16)
                             mw := #v[BitVec.ofNat 16 (w 8 2), BitVec.ofNat 16 (w 10 2), BitVec.ofNat 16 (w 12 2),
                                      BitVec.ofNat 16 (w 14 2)] } } (nextSlot a.x a.pc))) ∧
    (∀ f : Bare, InTurn s a (.gang f) →
      let b := barrierOf s a.core
      (a.guard f.g = false → EntryCompletes (.gang f) s a co a.x) ∧
      (a.guard f.g = true → b.waiting.all (fun m => m.1 != a.core) = true →
        ∃ t, exec (.gang f) s = .next t ∧ OnlyStrand s t a.core a.k ∧
          t.strand a.core a.k = some { popped a.x with gang := seqHead a.x.seq } ∧ (∀ pa, t.byte pa = s.byte pa) ∧
          (barrierOf t a.core).waiting = b.waiting ++ [(a.core, a.k)]))

/-- 20 R412, R413; 05 R137; 19 R389: MMA, MMAS and MREC of a strand at no barrier. The checks raise QUEUE_UNCONFIGURED
and MATRIX_SHAPE, class V; then each element of the tile's first M rows takes the sum of its accumulator and its products,
in chunks of 32, or the microprogram's result, with columns past NACT zero; the flags are ORed into FSTAT and the operation is
counted; .chk then writes the count, the status and 2 × M as a word, MIRROR_MISMATCH where an upset makes the operation differ
from its mirror (19 R390; which upsets come is free, log 10). A false guard does nothing. -/
def Obligations.MatrixOperations : Prop :=
  ∀ (s : State) (a : Actor) (f : MmaF) (fr : MrecF), ∀ i ∈ [Instr.mma f, .mmas f, .mrec fr], ∀ x, matOp i = some x →
    InTurn s a i → a.x.gang = none →
    let co := s.core a.core
    let b := co.queues.get x.q
    let m := maskRows a.sr x.m
    let pl := co.active
    let sparse := decide (x.kind = 1)
    (a.guard x.g = false → (b.legal false = false ∨ b.met { q := x.q, need := x.need, produce := false } = true) →
      EntryCompletes i s a co a.x) ∧
    (a.guard x.g = true →
      (b.legal false = false → EntryTraps i s a cQueueUnconfigured 0) ∧
      (b.legal false = true → queuesLegal s a [{ q := x.q, need := x.need, produce := false }] = .ok () →
        (m < 1 ∨ 32 < m ∨ pl.valid = false ∨ pl.fmt ≠ x.mf ∨ pl.sparse ≠ sparse ∨
          (x.kind = 2 ∧ microValid co.microActive = false) ∨ slotSize b.sz < mfRow x.mf sparse + mfPairs x.mf sparse) →
        EntryTraps i s a cMatrixShape 0) ∧
      (1 ≤ m → m ≤ 32 → pl.valid = true → pl.fmt = x.mf → pl.sparse = sparse →
        (x.kind = 2 → microValid co.microActive = true) →
        (∀ rows as cols, b.legal false = true → mfRow x.mf sparse + mfPairs x.mf sparse ≤ slotSize b.sz →
          queuesReady s a (rowUses x.q x.need m) = .ok () →
          (List.range m).mapM (fun j => queueBytes s a x.q (x.need + j) 0 (mfRow x.mf sparse + mfPairs x.mf sparse)) =
            .ok rows →
          rows.mapM (rowNums x.mf sparse) = some as → (List.range (min pl.nact 32)).mapM (columnNums pl) = some cols →
          smGet none co.tileStrand x.d.val = none →
          let elem := fun (r c : Nat) => match cols[c]? with
            | none => ((0 : BitVec 32), (0 : Flags))
            | some col =>
              if x.kind = 2 then mrecElem co.microActive (as.getD r []) col (tileAt co x.d.val r c)
              else mmaElem (as.getD r []) col (mfK x.mf sparse) (tileAt co x.d.val r c)
          let fl := (List.range m).foldl (fun g r => (List.range 32).foldl (fun h c => h ||| (elem r c).2) g) 0
          let tile := fun (r c : Nat) => if r < m then (elem r c).1 else tileAt co x.d.val r c
          (x.chk = none → WritesTile i s a x.d.val tile true fl 1) ∧
          (∀ j l, x.chk = some j → unordered s a = false →
            let va := a.sr.get j
            let w := fun (status : Code) => BitVec.ofNat 64 ((co.matCount + 1).toNat * 2 ^ 32 + status.toNat * 2 ^ 26 + 2 * m)
            planOne s a va 8 8 .wr false ruleAny = .ok l → AtHome s a (mkAccess l va (.store (leBytes 8 (w cNone).toNat))) →
            ∃ t, exec i s = .next t ∧ t.strand a.core a.k = some (popped a.x) ∧
              (∀ r < 32, ∀ c < 32, tileAt (t.core a.core) x.d.val r c = tile r c) ∧
              (t.core a.core).fstat = co.fstat ||| fl.setWidth 64 ∧ (t.core a.core).matCount = co.matCount + 1 ∧
              (s.turn.upset = true → bit s.turn.free (a.core % 16) = true → readD t (l.pa va) = w cMirror) ∧
              (s.turn.upset = false → OnlyStrand s t a.core a.k ∧ readD t (l.pa va) = w cNone ∧
                ∀ q, q < l.pa va ∨ l.pa va + 8 ≤ q → t.byte q = s.byte q)))))

/-- 20 R414 to R416: AZERO and AZERO.release zero a tile, and the latter frees it; ALD and AST move a tile from and to memory
of the strand's own die, row by row; ACVT writes the first M rows of a tile, converted, to the slots of its queue. A false
guard does nothing. -/
def Obligations.AccumulatorTiles : Prop :=
  ∀ (s : State) (a : Actor),
    let co := s.core a.core
    (∀ f : TileF, smGet none co.tileStrand f.d.val = none → a.guard f.g = true →
      (InTurn s a (.azero f) → WritesTile (.azero f) s a f.d.val (fun _ _ => 0) true 0 0) ∧
      (InTurn s a (.azeroRelease f) → WritesTile (.azeroRelease f) s a f.d.val (fun _ _ => 0) false 0 0)) ∧
    (∀ (ft : TileF) (fm : TileMemF), ∀ p ∈ [(Instr.azero ft, ft.g), (.azeroRelease ft, ft.g), (.ald fm, fm.g), (.ast fm, fm.g)],
      InTurn s a p.1 → a.guard p.2 = false → EntryCompletes p.1 s a co a.x) ∧
    (∀ (f : TileMemF) (vs : List Word) (xs : List Access), tileRows a f = .ok vs → a.guard f.g = true →
      (InTurn s a (.ald f) → smGet none co.tileStrand f.d.val = none →
        planList (fun i => (planOne s a (vs.getD i 0) 128 64 .rd false ruleTile).map (fun x =>
          mkAccess x (vs.getD i 0) (.load 128 none))) (List.range 32) = (xs, none) → (∀ x ∈ xs, Readable s a x) →
        WritesTile (.ald f) s a f.d.val
          (fun r c => BitVec.ofNat 32 (readU s (((xs[r]?).map (·.pa)).getD 0 + 4 * c) 4)) true 0 0) ∧
      (InTurn s a (.ast f) →
        planList (fun i => (planOne s a (vs.getD i 0) 128 64 .wr false ruleTile).map (fun x =>
          mkAccess x (vs.getD i 0) (.store ((List.range 32).flatMap (fun c => leBytes 4 (tileAt co f.d.val i c).toNat)))))
          (List.range 32) = (xs, none) → (∀ x ∈ xs, AtHome s a x) →
        ∃ t, exec (.ast f) s = .next t ∧ LeavesMem s t a co (popped a.x) ∧
          (∀ q, t.byte q = (xs.foldl storeEffect s).byte q) ∧ ∀ q, (∀ x ∈ xs, ¬ x.touches q) → t.byte q = s.byte q)) ∧
    (∀ (f : TileMemF) (va : Word), tileRows a f = .error va → a.guard f.g = true →
      (InTurn s a (.ald f) → EntryTraps (.ald f) s a cMisaligned va) ∧
      (InTurn s a (.ast f) → EntryTraps (.ast f) s a cMisaligned va)) ∧
    (∀ f : AcvtF, InTurn s a (.acvt f) → a.guard f.g = true → 0 < f.need.toNat → 0 < f.m.toNat →
      (co.queues.get f.q).dir ≠ 2 →
      let b := co.queues.get f.q
      let m := f.m.toNat
      queuesReady s a [{ q := f.q, need := f.need.toNat + m - 1, produce := true }] = .ok () →
      let row := fun (st : List (List Byte) × Flags × BitVec 32) (j : Nat) =>
        let r := acvtRow f.mf (modeOf f.rm co.fctl) f.sat ((List.range 32).map (fun c => f32 (tileAt co f.a.val j c))) st.2.2
        (st.1 ++ [r.1], st.2.1 ||| r.2.1, r.2.2)
      let r := (List.range m).foldl row ([], 0, co.seed)
      let slot := fun (j : Nat) => b.slotPa b.base (b.p.toNat + f.need.toNat - 1 + j)
      let size := 4 * mfBits f.mf + (if mfBlock f.mf then 2 else 0)
      (slotSize b.sz < size → EntryTraps (.acvt f) s a cMatrixShape 0) ∧
      (size ≤ slotSize b.sz → ∃ t, exec (.acvt f) s = .next t ∧
        LeavesMem s t a ((List.range m).foldl (fun k j => untagged k (slot j))
          { co with seed := r.2.2, fstat := co.fstat ||| r.2.1.setWidth 64 }) (popped a.x) ∧
        (∀ j < m, ∀ i < size, t.byte (slot j + i) = (r.1.getD j []).getD i 0) ∧
        ∀ q, (∀ j < m, q < slot j ∨ slot j + size ≤ q) → t.byte q = s.byte q))

/-- 19 R395 to R398; 20 R417 to R420: LADCFG sets the ladder up with its rungs empty and its weights zero; LADPUSH copies a
tile into a new carry chain and counts it, saturating; LADRD writes the weighted sum of the occupied rungs, LADLD one rung,
and LADW four weights. The first chain in flight stops at an empty rung, or merges, empties it and goes on; the last rung
keeps its merge and sets SAT. -/
def Obligations.Ladders : Prop :=
  ∀ (s : State) (a : Actor),
    let co := s.core a.core
    let l := co.ladder
    (∀ f : LadcfgF, InTurn s a (.ladcfg f) → a.guard f.g = true → l.chains = [] →
      EntryCompletes (.ladcfg f) s a { co with ladder :=
        { configured := true, base := f.d.val, r := f.r.toNat, micro := if f.micro then some co.microActive else none
          occupied := 0, w := Vector.replicate 16 0, step := 0, chains := [] } } a.x) ∧
    (∀ f : TileF, InTurn s a (.ladpush f) → a.guard f.g = true →
      ∃ c, EntryCompletes (.ladpush f) s a { co with ladder := { l with
          step := if l.step = BitVec.allOnes 32 then l.step else l.step + 1, chains := l.chains ++ [c] } } a.x ∧
        c.rung = 0 ∧ ∀ i < 1024, smGet 0 c.carry i = smGet 0 co.tiles (1024 * f.d.val + i)) ∧
    (∀ f : TileF, InTurn s a (.ladrd f) → a.guard f.g = true → l.chains = [] → smGet none co.tileStrand f.d.val = none →
      let sum := fun (r c : Nat) => (List.range l.r).foldl (fun (st : BitVec 32 × Flags) j =>
        if bit l.occupied j then
          let v := numFma .rn (f32 (l.w.getD j 0)) (f32 (tileAt co (l.base + j) r c)) (f32 st.1)
          ((toF32 v.1).1, st.2 ||| v.2 ||| (toF32 v.1).2)
        else st) (0, 0)
      WritesTile (.ladrd f) s a f.d.val (fun r c => (sum r c).1) true
        ((List.range 1024).foldl (fun g i => g ||| (sum (i / 32) (i % 32)).2) 0) 0) ∧
    (∀ f : LadldF, InTurn s a (.ladld f) → a.guard f.g = true → l.chains.all (fun c => decide (f.j.val < c.rung)) = true →
      smGet none co.tileStrand f.d.val = none →
      WritesTile (.ladld f) s a f.d.val
        (fun r c => if bit l.occupied f.j.val then tileAt co (l.base + f.j.val) r c else 0) true 0 0) ∧
    (∀ f : LadwF, InTurn s a (.ladw f) → a.guard f.g = true →
      ∃ w, EntryCompletes (.ladw f) s a { co with ladder := { l with w := w } } a.x ∧
        ∀ j < 16, w.getD j 0 = if j / 4 = f.grp.val then (a.x.v.get f.v).extractLsb' (32 * (j % 4)) 32 else l.w.getD j 0) ∧
    (∀ (ft : TileF) (fc : LadcfgF) (fd : LadldF) (fw : LadwF),
      ∀ p ∈ [(Instr.ladpush ft, ft.g), (.ladrd ft, ft.g), (.ladcfg fc, fc.g), (.ladld fd, fd.g), (.ladw fw, fw.g)],
        InTurn s a p.1 → a.guard p.2 = false → EntryCompletes p.1 s a co a.x) ∧
    (∀ ch rest, l.chains = ch :: rest →
      let r := ladderStep co
      (bit l.occupied ch.rung = false → r.1.ladder.chains = rest ∧ r.2 = 0 ∧
        r.1.ladder.occupied = setBit l.occupied ch.rung true) ∧
      (bit l.occupied ch.rung = true → ch.rung + 1 = l.r → r.1.ladder.chains = rest ∧
        r.1.ladder.occupied = l.occupied ∧ hasFlag r.2 flagSAT = true) ∧
      (bit l.occupied ch.rung = true → ch.rung + 1 ≠ l.r → r.1.ladder.occupied = setBit l.occupied ch.rung false ∧
        (r.1.ladder.chains.map (·.rung)) = (ch.rung + 1) :: rest.map (·.rung) ∧ r.1.tiles = co.tiles))

/-! ### Messages at their targets -/

/-- 22 R441, R442 and R446: a flit that may not be delivered waits; one of a stopped partition is acknowledged and counted as
0x34; one that its target's filter has marked done is acknowledged and nothing else; one older than the window is counted as
0x33; one for which no window is free is answered by a retry and counted as 0x35; and a flit that has come has changed no
core, no cluster, no package and no byte of memory before its target acts on it. That an acknowledgement is a step of its
own is the choice of log 20. -/
def Obligations.Deliveries : Prop :=
  ∀ (s : State) (n : Nat) (f : Flit), s.net[n]? = some f →
    let s1 := { s with net := s.net.eraseIdx n }
    (∀ i, MessageEvent n i →
      (deliverable s n f = false → exec i s = .next s) ∧
      (deliverable s n f = true → revokedFlit s f = true →
        exec i s = .next (countDest (release (noteDelivery s1 f) f) f.dst 0x34 f.who.part)) ∧
      (deliverable s n f = true → revokedFlit s f = false →
        (∀ w, smGet none s.windows (streamKey f.srcKey f.dst) = some w → (w.high - f.seq).toNat < 256 →
          (smGet none w.entries f.seq.toNat).isSome = true → exec i s = .next (release (noteDelivery s1 f) f)) ∧
        (∀ w, smGet none s.windows (streamKey f.srcKey f.dst) = some w → 256 ≤ (w.high - f.seq).toNat →
          32768 ≤ (f.seq - w.high).toNat → exec i s = .next (noteDelivery (countDest s1 f.dst 0x33 f.who.part) f)) ∧
        (smGet none s.windows (streamKey f.srcKey f.dst) = none → 1024 ≤ windowsOf s f.dst →
          exec i s = .next (send (countDest s1 f.dst 0x35 f.who.part) f.src f.who (.core f.src) clsRSP
            (.retry f.dst.key f.seq.toNat))))) ∧
    (∀ u, Arrives s n f u → u.mem = s.mem ∧ u.cores = s.cores ∧ u.clusters = s.clusters ∧ u.packages = s.packages ∧
      u.kept = s.kept ∧ u.now = s.now ∧ u.net = s.net.eraseIdx n)

/-- 02 R48 to R53, R56, R58 and R503; 17 R351, R354: an invocation on an object of its core, whose sender may command it and whose
method the class has, joins the queue of its routine, with the arguments and the answer in s8 to s12 and the receiver record;
one without such a method, or with a stale handle, is refused; one on a pending answer waits in the buffer. A notice at
its HOME core writes the slot of a pending answer and is discarded, and counted unless it is a default notice, when the slot
holds another generation or is not pending. A retire notice leaves a retired mark, which is freed after its time. A waiter
is registered, or told a known state; an invocation that waits for an answer unknown here breaks at the remote timeout, and one
that waited for room is served, or started once its arguments are known. -/
def Obligations.AnswerMessages : Prop :=
  (∀ (s u : State) (n c : Nat) (f : Flit), Arrives s n f u → f.dst = .core c →
    let part := (s.core c).part
    let pib := fun (l : List PibEntry) => u.setCore c { s.core c with pib := l }
    (∀ x, f.msg = .invocation x → 0 < pibFree (s.core c) → (hIsAnswer x.ans = false ∨ hCompute x.ans ≠ c) →
      let free := revoked u (pkgOf c) part = false ∧
        (u.rights (pkgOf c, 4352 + (c % 4096 / 16) * 32 + c % 16) { part := x.part, cls := 7 }).getLsbD 3 = true
      (hIsObject x.target = true → free → objectValid u x.target = true →
        (∀ d, methodDesc u c (hClass x.target) x.method.toNat = some d → handleArgs d x = [] → spillFull u c = false →
          Takes (.invocationArrival n) s f (queueStart u c d.slot { Start.plain s.now with
            pc := some (space0 d.handler), prio := some d.prio, s8 := zext72 (x.args.getD 0 0), s9 := zext72 (x.args.getD 1 0),
            s10 := zext72 (x.args.getD 2 0), s11 := zext72 (x.args.getD 3 0), s12 := zext72 x.ans,
            s13 := BitVec.ofNat 72 x.sender, target := x.target, receiver := objectRecord u x.target, part := x.part })) ∧
        (methodDesc u c (hClass x.target) x.method.toNat = none →
          Takes (.invocationArrival n) s f (refuseInvocation u c x cInvokeDenied c))) ∧
      (hIsObject x.target = true → free → objectValid u x.target = false →
        Takes (.invocationArrival n) s f (refuseInvocation u c x cHandleStale c)) ∧
      (hIsObject x.target = false → pibRetired (s.core c) x.target = false → hHome x.target ≠ c →
        (knownState u c x.target).pending = true → pibCount (s.core c) < 256 →
        Takes (.invocationArrival n) s f (pib ((s.core c).pib ++ [.waiting x.target x s.now f.src])))) ∧
    (∀ x obj t, f.msg = .forwarded x obj → 0 < pibFree (s.core c) → runInvocation u c x obj none = some t → Takes (.forwardedInvocation n) s f t) ∧
    (∀ h st dflt, ∀ p ∈ [(Instr.resolutionNotice n, Msg.resolution h st dflt), (.breakNotice n, .broken h st dflt)],
      f.msg = p.2 → hHome h = c →
      let open_ := slotGen u c (hSlot h) = hGen h ∧ (slotState u c (hSlot h)).pending = true
      (¬ open_ → Takes p.1 s f (if dflt then u else u.countCore c 0x11 1 (some part))) ∧
      (open_ → (s.core c).pib = [] → st.body.length ≤ 32 → ∃ t, Takes p.1 s f t ∧
        readD t (slotStatusPa c (hSlot h)) = statusWord (hGen h) st ∧
        readBytes t (slotBodyPa c (hSlot h)) st.body.length = st.body)) ∧
    (∀ h, f.msg = .retire h → ∀ st, (s.core c).pib = [.res h st] →
      ∃ t, Takes (.retireNotice n) s f t ∧ (t.core c).pib = [.retired h s.now]) ∧
    (∀ h core, f.msg = .waiterReg h core →
      let st := registeredState u c h
      (st.pending = false → Takes (.waiterRegistration n) s f
        (sendUnit u c (.core core) clsNTC (if st.broken then .broken h st false else .resolution h st false))) ∧
      (st.pending = true → pibCount (s.core c) < 256 →
        Takes (.waiterRegistration n) s f (pib ((s.core c).pib ++ [.waiter h core]))))) ∧
  (∀ (s : State) (n : Nat) (f : Flit) (h : DWord) (core due : Nat), s.net[n]? = some f → deliverable s n f = true →
    f.msg = .retryReg h core due → due ≤ s.now →
      let u := { s with net := s.net.eraseIdx n }
      exec (.registrationRetry n) s = .next (if revokedFlit s f then countDest u f.dst 0x34 f.who.part
        else sendUnit u core (.core (hCompute h)) clsNTC (.waiterReg h core))) ∧
  (∀ (s : State) (c n : Nat) (h : DWord),
    let without := s.modCore c (fun co => { co with pib := co.pib.eraseIdx n })
    (∀ at_, (s.core c).pib[n]? = some (.retired h at_) → exec (.retiredMarkExpiry c n) s =
      .next (if at_ + remoteLimit s (hHome h) + 90000 < s.now then without else s)) ∧
    (∀ x since src, (s.core c).pib[n]? = some (.waiting h x since src) →
      let st := knownState s c h
      (2 ≤ st.state.toNat → exec (.pendingAnswerTimeout c n) s = .next (serveWaiting s c h st)) ∧
      (st.state.toNat < 2 → pibHasRes (s.core c) h = false → since + remoteLimit s c ≤ s.now →
        exec (.pendingAnswerTimeout c n) s = .next (refuseInvocation without c x cHandleStale c))) ∧
    (∀ x target receiver d known, (s.core c).pib[n]? = some (.args x target receiver d [] known) → spillFull s c = false →
      exec (.pendingAnswerTimeout c n) s = .next (startInvocation without c x target receiver d known)))

/-- 17 R346, R353, R358; 02 R62, R64, R70, R71; 03 R89, R101: what a core does with a mailbox message, an active message, a task
release, a context and a released frame, and with the request, the acknowledgement and the timeout of an HSYNC. A core that is
pre-empted or parked diverts what reaches its mailboxes (03 R103). -/
def Obligations.CoreMessages : Prop :=
  (∀ (s u : State) (n c : Nat) (f : Flit), Arrives s n f u → f.dst = .core c →
    let part := f.who.part
    let word := fun (l : List DWord) (i : Nat) => zext72 (l.getD i 0)
    (∀ pa args s13 cl pos ofs, f.msg = .mailbox pa args s13 → siteOf pa false = .mailbox cl pos ofs →
      let m := ofs / 4096
      let b := s.mailbox c m
      let x : MailMsg := { args := args, s13 := s13, part := part }
      (mayCommand u cl pos f.who = false → Takes (.mailboxMessage n) s f
        (postFault (countDelivery u c cInvokeDenied (s.core c).part) (pkgOf f.src)
          { cause := cInvokeDenied, core := f.src, part := part, src := 4 })) ∧
      (mayCommand u cl pos f.who = true →
        (∀ r, (s.core c).halt = .preempted r ∨ (s.core c).halt = .parked r → spillFull u c = false →
          Takes (.mailboxMessage n) s f (divert u c (.mail m x))) ∧
        ((s.core c).halt = .none →
        (∀ q y l, b.bind = .pipeline q y → u.launch q y = some l →
          Takes (.mailboxMessage n) s f (u.setLaunch q y { l with mboxWait := l.mboxWait ++ [x] })) ∧
        (∀ k, b.bind = .slot k → Takes (.mailboxMessage n) s f (queueStart u c k { Start.plain s.now with
          s8 := word args 0, s9 := word args 1, s10 := word args 2, s11 := word args 3, s13 := s13, part := part })) ∧
        (b.bind = .none → b.parked.length < 16 →
          Takes (.mailboxMessage n) s f (setMailbox u c m { b with parked := b.parked ++ [x] })) ∧
        (b.bind = .none → 16 ≤ b.parked.length → Takes (.mailboxMessage n) s f (u.countCore c 0x12 1 (some part)))))) ∧
    (∀ slot handler args, f.msg = .active slot handler args → mayMessage u c f.who = true → coreExists u c f.src = true →
      spillFull u c = false →
      Takes (.activeMessage n) s f (queueStart u c slot { Start.plain s.now with
        pc := if handler = 0 then none else some (space0 handler), s8 := word args 0, s9 := word args 1, s10 := word args 2
        s11 := word args 3, s13 := BitVec.ofNat 72 f.src, part := part })) ∧
    (∀ rec handler args creator slot level, f.msg = .taskRelease rec handler args creator slot level → spillFull u c = false →
      let w := continuationOf (s.core c) rec
      Takes (.taskRelease n) s f (queueStart (dropCont u c rec) c slot { Start.plain s.now with
        pc := match w with
          | some q => some q.2
          | none => if handler = 0 then none else some (space0 handler)
        waitedFor := (w.map (·.1)).toList, s8 := word args 0, s9 := word args 1, s10 := word args 2
        s11 := word args 3, s13 := BitVec.ofNat 72 creator
        role := if level = 0 then .plain else .task ((taskCluster rec).getD (clOf creator)) level, taskRec := some rec
        part := part })) ∧
    (∀ x, f.msg = .context x →
      (mayMessage u c f.who = true → coreExists u c f.src = true → (s.core c).halt = .none →
        ∃ t q, Takes (.contextMove n) s f t ∧ (smGet Routine.reset (t.core c).routines 32).queue =
          (smGet Routine.reset (s.core c).routines 32).queue ++ [q] ∧ q.ctx = some x ∧ q.prio = some x.prio ∧ q.back = false) ∧
      (mayMessage u c f.who = false → Takes (.contextMove n) s f (sendUnit u c (.core f.src) clsMSG (.contextBack x)))) ∧
    (∀ x, f.msg = .contextBack x → (s.core c).halt = .none →
      ∃ t q, Takes (.contextReturn n) s f t ∧ (smGet Routine.reset (t.core c).routines 32).queue =
        (smGet Routine.reset (s.core c).routines 32).queue ++ [q] ∧ q.ctx = some x ∧ q.back = true) ∧
    (∀ k, f.msg = .frameRelease k →
      Takes (.frameRelease n) s f (u.modCore c (fun co => { co with frames := setBit co.frames k false }))) ∧
    (∀ y, f.msg = .hsync y →
      Takes (.hsyncRequest n) s f (u.modCore c (fun co => { co with hsyncAcks := co.hsyncAcks ++ [y] })))) ∧
  (∀ (s : State) (c k : Nat) (x : Strand), s.strand c k = some x →
    (∀ y, x.hsync.find? (fun z => (s.core (hCompute z.ans)).hsyncAcks.contains z && syncDone s (hCompute z.ans) z) = some y →
      exec (.hsyncAck c k) s = .next ((s.modCore (hCompute y.ans) (fun co =>
        { co with hsyncAcks := co.hsyncAcks.erase y })).modStrand c k (fun z => { z with hsync := z.hsync.erase y }))) ∧
    (∀ w, ∀ y ∈ x.hsync, y.since + remoteLimit s c ≤ s.now → x.wait = some w → w.kind = .hsync → (s.core c).halt = .none →
      let cleared := x.hsync.foldl (fun st (z : SyncHold) => st.modCore (hCompute z.ans) (fun co =>
        { co with hsyncAcks := co.hsyncAcks.filter (fun q => q != z) })) s
      exec (.hsyncTimeout c k) s = .next (raise (cleared.modStrand c k (fun z => { z with hsync := [] })) c k .t
        { code := cRemoteTimeout, eva := 0 } x.pc 0)))

/-! ### Strands and cores -/

/-- 02 R63, R64, R68, R69 and Table 2.4: the selector takes, among the unheld routines with work, the one of highest level, then
of earliest arrival, then of lowest slot, and starts its strand in the lowest free index and frame: s8 to s13 from the queue,
s14 the frame's top less 64, every other register zero, at the handler, with the routine's priority. A routine that has been
ready for more than 4,096 cycles is raised. A strand stalled for more than 256 cycles while higher work waits is parked in
the lowest free tile, in an idle bank, or in the save area, where its record then holds its context, when four are parked or
neither is free.
12 R251: END with nothing to wait for ends the strand: its context and its frame are free; outside trap mode a pending answer
is resolved to length 0, in trap mode it is broken, by default notices; where nothing else hangs on the strand, nothing else
changes. -/
def Obligations.StrandSelection : Prop :=
  (
    (∀ (l : List Cand) (d : Cand), bestCand l = some d → d ∈ l ∧ ∀ e ∈ l, e.before d = false) ∧
    (∀ (s : State) (c idx n : Nat) (d : Cand) (q : Start), coreIdle s c = false → bestCand (unheld s c) = some d →
      freeIdx (s.core c) = some idx → freeFrame (s.core c) = some n → banked (s.core c) < 8 → d.stage = false →
      let r := smGet Routine.reset (s.core c).routines d.slot
      r.queue.head? = some q → q.ctx = none → q.target = 0 → q.taskRec = none → q.receiver = [] →
      (q.pc.isSome = true ∨ r.handler ≠ 0) →
      ∃ t x, exec (.strandSelect c) s = .next t ∧ OnlyCore s t c ∧ OnlyStrand s t c idx ∧ t.strand c idx = some x ∧
        x.s = #v[0, 0, 0, 0, 0, 0, 0, 0, q.s8, q.s9, q.s10, q.s11, q.s12, q.s13, framePointer s c n, 0] ∧
        x.v = Vector.replicate 32 0 ∧ x.k = Vector.replicate 8 0 ∧ x.pc = q.pc.getD (space0 r.handler) ∧
        x.prio = q.prio.getD r.prio ∧ x.slot = BitVec.ofNat 5 d.slot ∧ x.tm = false ∧ x.ss = false ∧ x.rs = [] ∧
        x.l0.busy = false ∧ x.l1.busy = false ∧ x.seq = [] ∧ x.frame = { owner := c, num := n } ∧ x.role = q.role ∧
        (t.core c).frames = setBit (s.core c).frames n true ∧
        (smGet Routine.reset (t.core c).routines d.slot).queue = r.queue.drop 1) ∧
    (∀ (s : State) (c slot : Nat),
      let r := smGet Routine.reset (s.core c).routines slot
      let p := ((r.queue.head?).map (fun h => (h.prio.getD r.prio).toNat)).getD r.prio.toNat
      4096 < r.waited → r.raised = false → p < 2 → exec (.routinePromotion c slot) s =
        .next (s.modCore c (fun co => { co with routines := smPut co.routines slot { r with raised := true } }))) ∧
    (∀ (s : State) (c k : Nat) (x : Strand), s.strand c k = some x → mayPark s c k x = true →
      smWf none (s.core c).strands = true →
      let parked := ((liveStrands (s.core c)).filter (fun p => p.2.place == .parked)).length
      let tile := (List.range 16).find? (fun i => !bit (s.core c).tileAlloc i && (smGet none (s.core c).tileStrand i).isNone)
      let pa := hardRecord c k
      (∀ n, parked < 4 → tile = some n → ∃ t, exec (.strandParkContext c k) s = .next t ∧ OnlyCore s t c ∧ OnlyStrand s t c k ∧
        t.strand c k = some { x with place := .parked } ∧ smGet none (t.core c).tileStrand n = some k) ∧
      (parked < 4 → tile = none → banked (s.core c) < 8 → ∃ t, exec (.strandParkContext c k) s = .next t ∧ OnlyCore s t c ∧
        OnlyStrand s t c k ∧ t.strand c k = some { x with place := .parked } ∧ (t.core c).tileStrand = (s.core c).tileStrand) ∧
      (4 ≤ parked ∨ tile = none ∧ 8 ≤ banked (s.core c) → ∃ t, exec (.strandParkContext c k) s = .next t ∧ OnlyStrand s t c k ∧
        t.strand c k = some { x with place := .saved } ∧ (∀ q, q < pa ∨ pa + 2048 ≤ q → t.byte q = s.byte q) ∧
        (∀ i : Fin 16, readBytes t (pa + 16 * i.val) 16 = leBytes 16 (x.s.get i).toNat) ∧ readD t (pa + 0x108) = statusOf x))
  ) ∧
  (
    ∀ (s : State) (a : Actor) (f : Bare) (s1 : State), Runs s a f.g → a.spec s = none → seqIdle a.x = true →
      releaseReady s a = .ok () → publishStrand s a.core a.k none = some s1 →
      let own := a.x.frame.owner = a.core
      (∃ t, exec (.endStrand f) s = .next t ∧ t.strand a.core a.k = none ∧
        (own → bit (t.core a.core).frames a.x.frame.num = false)) ∧
      (s1 = s → own → a.x.role = .plain → a.x.memb = 0 → (barrierOf s a.core).waiting.contains (a.core, a.k) = false →
        ∃ t, exec (.endStrand f) s = .next t ∧ t.strand a.core a.k = none ∧ OnlyStrand s t a.core a.k ∧
          (∀ pa, t.byte pa = s.byte pa) ∧
          Sent s t a.core (match pendingAnswer a.x with
            | none => []
            | some h => notices h (if a.x.tm then .broken h (ansBroken a.x.cause a.core) true
                else .resolution h (ansValue []) true)))
  )

/-- 09 R179, R184, R198 and R200: a pending trap is taken at the strand's next boundary, while no strand of the core has decoded
0xFF and no load of it is awaited; the watchdog marks a strand once its count has passed the limit; a machine check ends
the strands that the error touches without a handler, with a fault record of SRC 5, and no other.
03 R102 to R104 and 09 R196, R197: the management agent and the partition's supervisor pre-empt a core, each strand of it at a
slot boundary, its queued starts in the spill queue and each strand's context in its save record, and the requester is told; a
record that cannot be written fences the partition; a request to the core of a ganged operation that has started waits. RESUME
restores the strands and redelivers what was spilled. A core of which a strand has decoded 0xFF parks, with a message to its
shepherd; PARKACT retries it, or first ends that strand. The layout of the save area is the choice of log 28, and who may send
RESUME that of log 51. -/
def Obligations.StrandEvents : Prop :=
  (
    ∀ (s : State) (c k : Nat) (x : Strand), s.strand c k = some x →
      (∀ p, x.pending = some p → (s.core c).halt = .none → parkDue (s.core c) = false →
        (p.cls = .v → x.prog.isGather = false) → exec (.trapEntry c k) s =
          .next (enterTrap s c k { x with wait := none, prog := if p.cls = .v then x.prog else .none }
            (if p.cls = .v then { p with epc := x.pc } else p))) ∧
      (strandLimit s c ≠ 0 → (s.core c).halt = .none → x.wdFired = false → x.wdStart + strandLimit s c < s.now →
        exec (.strandWatchdog c k) s = .next (s.setStrand c k { x with wdPending := true, wdFired := true })) ∧
      (∀ touched : BitVec 32, (∀ j, bit touched j = true → s.strand c j = none ∨ j = k) → bit touched k = true →
        smWf none (s.core c).strands = true →
        exec (.machineCheck c touched) s = .next (endStrand (abandonStaged
          (postFault (countDelivery s c cMachineCheck (s.core c).part) (pkgOf c)
            { cause := cMachineCheck, core := c, part := (s.core c).part, src := 5, strand := k, va := 0, cause2 := 0,
              level := roleLevel s x.role }) c k cAbandoned) c k x (ansBroken cMachineCheck c) true))
  ) ∧
  (
    (∀ (s : State) (c who : Nat) (m : Master) (id : Ident), id = { part := m.part, cls := m.cls } →
      mayPreempt s c id = true →
      let u := divertQueues ((quiesce s c).modCore c (fun co => { co with halt := .preempted who })) c
      (((s.core c).halt = .none ∧ parkDue (s.core c) = false ∧ (s.core c).assigned = true ∧ gangRuns s c = false) →
        (blockAdmits s (clOf c) id .cmd = false → exec (.preemptRequest c who m) s =
          .next (s.countShepherd (clOf c) 0x10 1 (some m.part))) ∧
        (blockAdmits s (clOf c) id .cmd = true → liveStrands (u.core c) = [] →
          exec (.preemptRequest c who m) s = .next (sendUnit u c (.core who) clsCTL (.preemptDone c))) ∧
        (∀ k x va st, blockAdmits s (clOf c) id .cmd = true → liveStrands (u.core c) = [(k, x)] → u.strand c k = some x →
          x.pending = none → saveVa u c k = some va → unitWrite u c va (saveImage u c k x cPreempt) = .ok st →
          ∃ t y, exec (.preemptRequest c who m) s = .next t ∧ (t.core c).halt = (u.core c).halt ∧ t.strand c k = some y ∧
            y.place = .saved ∧ y.s = x.s ∧ y.v = x.v ∧ y.k = x.k ∧ y.pc = x.pc ∧ t.mem = st.mem ∧
            (t.kept.getLast?).map Kept.what = some (c, .core who, clsCTL, .preemptDone c) ∧
            ∃ key r, smGet none (t.core c).residues key = some r ∧ r.seq = x.seq ∧ r.bq = x.bq) ∧
        (∀ k x, blockAdmits s (clOf c) id .cmd = true → liveStrands (u.core c) = [(k, x)] → u.strand c k = some x →
          (saveVa u c k = none ∨ ∃ va e, saveVa u c k = some va ∧ unitWrite u c va (saveImage u c k x cPreempt) = .error e) →
          exec (.preemptRequest c who m) s = .next (fencePartition u (pkgOf c) (u.core c).part))) ∧
      (gangRuns s c = true → exec (.preemptRequest c who m) s = .next s) ∧
      (∀ h, (s.core c).halt = .preempted h →
        (blockAdmits s (clOf c) id .cmd = true → exec (.resume c m) s = .next (resumeCore s c (readSave c))) ∧
        (blockAdmits s (clOf c) id .cmd = false → exec (.resume c m) s =
          .next (s.countShepherd (clOf c) 0x10 1 (some m.part))))) ∧
    (∀ (s : State) (c : Nat) (read : State → Nat → Option (List Byte × Word)), liveStrands (s.core c) = [] →
      resumeCore s c read = redeliver s c ∧ ((redeliver s c).core c).halt = .none ∧ ((redeliver s c).core c).diverted = []) ∧
    (∀ (s : State) (c k : Nat), (s.core c).halt = .none → decodingStrand (s.core c) = some k →
      let mail : MailMsg := { args := [BitVec.ofNat 64 0x0F, 0, 0, 0], s13 := BitVec.ofNat 72 c, part := (s.core c).part }
      (gangRuns s c = true → exec (.corePark c) s = .next s) ∧
      (gangRuns s c = false → ∃ t l, exec (.corePark c) s = .next t ∧ (t.core c).halt = .parked k ∧
        (t.cluster (clOf c)).shepherdMail = l ++ [mail])) ∧
    (∀ (s : State) (c k : Nat) (m : Master), (s.core c).halt = .parked k →
      (parkActs s c m 1 = true → exec (.parkactRetry c m) s = .next (resumeCore s c (readHard c))) ∧
      (∀ x t, parkActs s c m 2 = true → s.strand c k = some x →
        endInTrap s c k { x with tm := true, cause := cReservedFormat } cReservedFormat = some t →
        exec (.parkactEnd c m) s = .next (resumeCore t c (readHard c))))
  )

/-! ### Shepherds -/

/-- 03 R99 to R101 and 17 R362: a shepherd takes the head of its event queue, 512 records of 32 bytes in vault memory. A decrement
of a task record that waits in this cluster's area lowers COUNT, and releases the record when COUNT comes to 0 (a larger DEC
is counted as 0x21); one that no waiting record answers to is counted as 0x22; one whose command ended with a cause, or that
names no task, decrements nothing. A decrement of a level that the shepherd manages counts finished children; a poisoned
record fences its partition, and so does a poisoned head of the queue (26 R477, R479; log 50). A fault notice decrements
nothing. A record that finds the queue full waits at the ingress. -/
def Obligations.ShepherdRecords : Prop :=
  (∀ (s u v : State) (cl : Nat) (b : List Byte), u = collectEvents s cl → headEvent u cl = some b → v = popEvent u cl →
    let e := eventOf b
    let pa := e.task.toNat
    let w := readD v pa
    let part := (v.core e.core).part
    let head := u.poisoned (eventPa cl (u.cluster cl).evHead) 32
    (head ≠ none → ∀ i, i ∈ [Instr.eventRecordTaskDecrement cl, .eventRecordLevelDecrement cl, .eventRecordFaultNotice cl] →
      exec i s = .next (fencePartition u (cl / 256) (u.core (cl * 16)).part)) ∧
    (head = none →
      (e.source < 4 → e.task = 0 → exec (.eventRecordTaskDecrement cl) s = .next v) ∧
      (e.source < 6 → (e.source < 4 → e.task ≠ 0) →
        let waiting := taskCluster pa = some cl ∧ bits w 62 2 = 0 ∧ taskFree v pa = false
        let caused := e.source < 4 ∧ bits e.word 26 6 ≠ 0
        (¬ waiting → exec (.eventRecordTaskDecrement cl) s = .next (v.countShepherd cl 0x22 1 (some part))) ∧
        (waiting → caused → exec (.eventRecordTaskDecrement cl) s = .next v) ∧
        (waiting → ¬ caused → e.dec < bits w 0 32 → ∃ t, exec (.eventRecordTaskDecrement cl) s = .next t ∧
          readD t pa = setBits w 0 32 (bits w 0 32 - e.dec) ∧ (∀ q, q < pa ∨ pa + 8 ≤ q → t.byte q = v.byte q)) ∧
        (waiting → ¬ caused → bits w 0 32 = e.dec → exec (.eventRecordTaskDecrement cl) s =
          .next (releaseTask (writeD v pa (setBits w 0 32 0)) pa)) ∧
        (waiting → ¬ caused → bits w 0 32 < e.dec → exec (.eventRecordTaskDecrement cl) s =
          .next (releaseTask (writeD (v.countShepherd cl 0x21 1 (some part)) pa (setBits w 0 32 0)) pa))) ∧
      (e.source = 6 → exec (.eventRecordFaultNotice cl) s = .next v) ∧
      (∀ l, e.source = 7 → e.word ≠ 1 → managedLevel v cl pa = some l → ordinaryVault cl pa = true → 2 ≤ lvKind w →
        lvKind w ≤ 4 →
        (v.poisoned pa 32 ≠ none → exec (.eventRecordLevelDecrement cl) s = .next (fencePartition v (cl / 256) l.part)) ∧
        (v.poisoned pa 32 = none →
          exec (.eventRecordLevelDecrement cl) s = .next (finishChildren v (cl / 256) l.part pa e.dec)) ∧
        (lvState w ≠ 2 → e.dec < lvOut w →
          finishChildren v (cl / 256) l.part pa e.dec = writeD v pa (setBits w 0 32 (lvOut w - e.dec))) ∧
        (lvState w = 2 →
          finishChildren v (cl / 256) l.part pa e.dec = v.countShepherd (levelCl pa) 0x21 1 (some l.part))))) ∧
  (∀ (s : State) (cl : Nat) (r : List Byte), r.length = 32 →
    ((s.cluster cl).evCount < 512 → (s.cluster cl).ingress = [] →
      readBytes (postEvent s cl r) (eventPa cl ((s.cluster cl).evHead + (s.cluster cl).evCount)) 32 = r ∧
        ((postEvent s cl r).cluster cl).evCount = (s.cluster cl).evCount + 1) ∧
    (512 ≤ (s.cluster cl).evCount → (postEvent s cl r).mem = s.mem ∧
      ((postEvent s cl r).cluster cl).ingress = (s.cluster cl).ingress ++ [r]))

/-- 03 R87 to R96 and 02 R74: a shepherd chooses the cheapest eligible cores for a launch, as many as it has units (log 29), binds
its entry on each and queues its units round them, with the unit's number in s8 and ARG0 and ARG1 in s9 and s10; the oldest message at a pipeline's mailbox fills the next slot
of queue 0; a stage that is three quarters full gains an instance where its output has room, and one that is an eighth full
loses one; a pipeline with nothing left drains, and its level counts a finish. Below a cancelled level, STATUS.CANCEL is set
in the strands of the launch. The order in which a shepherd takes its work is free, with the choices of log 29. -/
def Obligations.ShepherdWork : Prop :=
  (∀ (s : State) (cl n : Nat) (l : Launch), (s.cluster cl).launches.find? (fun q => q.2.any (·.fresh)) = some (n, some l) →
    let free := (eligible s cl l).filter (fun c => (unboundSlot (s.core c)).isSome)
    let chosen := placeUnits s cl n (min l.units free.length) [] free
    let placed := (free.filter chosen.contains).map (fun c => (c, (unboundSlot (s.core c)).getD 0))
    l.stages = [] → placed ≠ [] → ∃ t, exec (.launchDistribute cl) s = .next t ∧
      t.launch cl n = some { l with fresh := false, placed := placed, nextUnit := l.units } ∧
      (∀ e ∈ placed, (smGet Routine.reset (t.core e.1).routines e.2).handler = l.entry ∧
        (smGet Routine.reset (t.core e.1).routines e.2).conc = true) ∧
      (∀ i < l.units, ∀ e, placed[i % placed.length]? = some e →
        ∃ q ∈ (smGet Routine.reset (t.core e.1).routines e.2).queue, q.s8 = BitVec.ofNat 72 i ∧ q.s9 = zext72 l.arg0 ∧
          q.s10 = zext72 l.arg1 ∧ q.s13 = BitVec.ofNat 72 l.core ∧ q.role = .unit cl n)) ∧
  (∀ (s s1 : State) (cl n : Nat) (l : Launch) (m : MailMsg) (rest : List MailMsg) (st : Stage) (more : List Stage),
    s.launch cl n = some l → l.mboxWait = m :: rest → l.stages = st :: more → st.free ≠ 0 → (l.mbox = none ∨ 32 ≤ st.slotsz) →
    devWrite s (cl / 256) l.part (slotWordOf st st.reserved)
      ((m.args.flatMap (fun (w : DWord) => leBytes 8 w.toNat)).take st.slotsz) = .ok s1 →
    let y := stageFinish s.now { st with reserved := st.reserved + 1 } st.reserved true
    exec (.pipelineMessageEnqueue cl n) s = .next (s1.setLaunch cl n { l with mboxWait := rest, stages := y :: more }) ∧
    (st.early = [] → st.published = st.reserved → y.reserved = st.reserved + 1 ∧ y.published = st.published + 1 ∧
      y.early = [] ∧ y.skipped = st.skipped ∧ y.claimed = st.claimed)) ∧
  (∀ (s : State) (cl n : Nat) (l : Launch), s.launch cl n = some l → l.stages ≠ [] → l.fresh = false → l.done = false →
    (∀ c m, l.mbox = some (c, m) → (s.mailbox c m).bind ≠ .pipeline cl n) → l.mboxWait = [] →
    (∀ st ∈ l.stages, st.reserved = st.freed) →
    let s1 := (l.stages.flatMap (·.instances)).foldl unbindInstance s
    let l1 := { l with done := true, stages := l.stages.map (fun st => { st with instances := [] }) }
    exec (.pipelineDrain cl n) s = .next (finishLevelVa (s1.setLaunch cl n l1) (cl / 256) l.part l.level 1)) ∧
  (∀ (s : State) (cl n i : Nat) (l : Launch) (st : Stage), s.launch cl n = some l → l.stages[i]? = some st → l.fresh = false →
    l.done = false → st.lastEval + 1024 ≤ s.now →
    let l1 := l.modStage i (fun y => { y with lastEval := s.now })
    let s1 := s.setLaunch cl n l1
    let grows := 3 * st.cap < 4 * st.occupied ∧ st.instances.length < st.maxinst ∧
      (∀ nx, l.stages[i + 1]? = some nx → nx.cap < 4 * nx.freeSpace)
    let shrinks := 8 * st.occupied < st.cap ∧ st.mininst < (st.instances.filter (fun e => !e.2.2.2)).length
    (grows → exec (.distributorEvaluation cl n i) s = .next (addInstance s1 cl n i) ∧
      ∀ c, cheapest s1 cl n [] ((eligible s1 cl l1).filter (fun c => (unboundSlot (s1.core c)).isSome &&
          !st.instances.any (fun e => e.1 == c))) = some c →
        let r := smGet Routine.reset ((addInstance s1 cl n i).core c).routines ((unboundSlot (s1.core c)).getD 0)
        r.handler = st.handler ∧ r.prio = l.prio ∧ r.stage = some (cl, n, i, st.nextInst)) ∧
    (¬ grows → shrinks → exec (.distributorEvaluation cl n i) s = .next (removeInstance s1 cl n i l1 st)) ∧
    (¬ grows → ¬ shrinks → exec (.distributorEvaluation cl n i) s = .next s1)) ∧
  (∀ (s : State) (cl n who c k : Nat) (l : Launch) (x : Strand), (s.cluster cl).launches = [(n, some l)] → l.done = false →
    levelCanceller s cl l.part l.level = some who → s.strand c k = some x → isOfLaunch cl n x.role = true →
    ∃ t y, exec (.cancelAtShepherd cl) s = .next t ∧ t.strand c k = some y ∧ y.cancel = true ∧ y.s = x.s ∧ y.pc = x.pc)

/-- 03 R97, R106; 02 R67; 26 R481; 10 R218 to R223: a cluster that has been idle for 50 µs is gated unless NOGATE is set, and
wakes 4 µs after something waits for it. A write of a routine entry's 16 bytes by a master that its access table admits
takes effect whole; PRIO 3 from a master that is no supervisor is counted and changes no binding. A write of SELECT clears
the reserved bits and leaves the count; the management agent writes NOGATE. The bracken scanner checks a page, writes SCAN
into its leaf and hands the result to the strand that waits. -/
def Obligations.ClusterControl : Prop :=
  (∀ (s : State) (cl : Nat),
    let x := s.cluster cl
    (x.gated = false → x.nogate = false → clusterIdle s cl = true → x.idleSince + 90000 ≤ s.now →
      exec (.clusterPowerGate cl) s = .next (s.setCluster cl { x with gated := true, wakeDue := none })) ∧
    (x.gated = true → x.wakeDue = none → (x.nogate = true ∨ clusterIdle s cl = false) →
      exec (.clusterWake cl) s = .next (s.setCluster cl { x with wakeDue := some (s.now + 7200) })) ∧
    (∀ due, x.gated = true → x.wakeDue = some due → due ≤ s.now → exec (.clusterWake cl) s =
      .next (s.setCluster cl { x with gated := false, wakeDue := none, idleSince := s.now }))) ∧
  (∀ (s : State) (m : Master) (id : Ident) (c slot : Nat) (bytes : List Byte), c < 2 ^ 22 → slot < 32 → bytes.length = 16 →
    id = { part := m.part, cls := m.cls } →
    s.admits (cblockPa (clOf c) (0x1000 + 0x200 * (c % 16) + 16 * slot)) false id .wr = true →
    let lo : DWord := BitVec.ofNat 64 (leVal (bytes.take 8))
    let hi : DWord := BitVec.ofNat 64 (leVal (bytes.drop 8)) &&& 0x700
    let r := smGet Routine.reset (s.core c).routines slot
    let supervisor := id.cls = 0xB ∨ id.cls = 2 ∨ isSupervisorOf s c id = true
    (bits hi 8 2 ≠ 3 ∨ supervisor → ∃ t, exec (.routineTableWrite m c slot bytes) s = .next t ∧ OnlyCore s t c ∧
      smGet Routine.reset (t.core c).routines slot =
        { r with handler := lo, prio := hi.extractLsb' 8 2, conc := bit hi 10, nextHi := hi } ∧
      ∀ j, j ≠ slot → smGet Routine.reset (t.core c).routines j = smGet Routine.reset (s.core c).routines j) ∧
    (bits hi 8 2 = 3 → ¬ supervisor → exec (.routineTableWrite m c slot bytes) s =
      .next (s.countShepherd (clOf c) 0x10 1 (some id.part)))) ∧
  (∀ (s : State) (m : Master) (c i : Nat) (v : DWord), c < 2 ^ 22 → i < 4 →
    let pa := cblockPa (clOf c) (0x100000 + 0x40 * (c % 16) + 16 * i)
    s.admits pa false { part := m.part, cls := m.cls } .wr = true →
    (m.cls = 0xB ∨ isSupervisorOf s c { part := m.part, cls := m.cls } = true) →
    ∃ t, exec (.eventCounterSelectWrite m pa v) s = .next t ∧ OnlyCore s t c ∧
      (t.core c).counters.getD i Counter.reset =
        { select := v &&& 0xA03F00000000FFFF#64, count := ((s.core c).counters.getD i Counter.reset).count } ∧
      ∀ j, j ≠ i → (t.core c).counters.getD j Counter.reset = (s.core c).counters.getD j Counter.reset) ∧
  (∀ (s : State) (m : Master) (cl : Nat) (v : DWord), cl < 2 ^ 18 → m.cls = 0xB →
    s.admits (cblockPa cl 0) false { part := m.part, cls := m.cls } .wr = true →
    exec (.controlBlockWrite m (cblockPa cl 0) v) s = .next (s.modCluster cl (fun x => { x with nogate := bit v 0 }))) ∧
  (∀ (s : State) (m : Master) (c : Nat) (v : DWord) (k : Nat), c < 2 ^ 22 → (m.cls = 0xB ∨ m.cls = 2) →
    s.admits (cblockPa (clOf c) (0x3000 + 8 * (c % 16))) false { part := m.part, cls := m.cls } .wr = true →
    (s.core c).halt = .parked k → (bits v 0 2 = 1 ∨ bits v 0 2 = 2) →
    exec (.controlBlockWrite m (cblockPa (clOf c) (0x3000 + 8 * (c % 16))) v) s =
      .next (s.modCore c (fun co => { co with parkAct := v.extractLsb' 0 2 }))) ∧
  (∀ (s : State) (cl : Nat) (r : ScanReq) (rest : List ScanReq), (s.cluster cl).scans = r :: rest →
    let u := s.modCluster cl (fun x => { x with scans := rest })
    let lo := readD s r.leaf
    let l : Leaf := { entry := r.leaf, lo := lo, hi := readD s (r.leaf + 8), big := r.big, passed := false }
    let size := if r.big then 28 else 16
    let base := setBits r.va 0 size 0
    let tgt := fun (t : Word) =>
      if pageOf r.big t == pageOf r.big base then some (tgtBit (readBytes u (l.pa (pcLine t)) 64) (pcSlot t)) else none
    let after := fun (t : State) => t.modCluster cl (fun x => { x with scans := scanHead t x.scans })
    let ends := fun (code : Option Nat) (w : BitVec 128) =>
      exec (.brackenScanComplete cl) s = .next (after (endScan (match code with
        | some n => writeScan u r n
        | none => u) r w)) ∧ ∀ n, code = some n → bits (readD (writeScan u r n) r.leaf) 10 2 = n
    (bit r.lo 13 = false → ends none (scanResult 13 0)) ∧
    (bit r.lo 13 = true → bit r.lo 14 = true → ends (some 2) (scanResult 11 0)) ∧
    (bit r.lo 13 = true → bit r.lo 14 = false → lo = r.lo →
      (∀ code pc, scanLines u l base { part := r.part, cls := 0xA } tgt 0 (2 ^ size / 64) = .failed code pc →
        ends (some 2) (scanResult code pc)) ∧
      (scanLines u l base { part := r.part, cls := 0xA } tgt 0 (2 ^ size / 64) = .passed →
        ends (some 1) (scanResult 0 0)))) ∧
  (∀ (s : State) (r : ScanReq) (w : BitVec 128) (x : Strand), s.strand r.core r.strand = some x →
    x.wait.any (fun q => q.kind == .scan) = true → x.prog = .stage 1 (BitVec.ofNat 128 r.tag) →
    endScan s r w = s.setStrand r.core r.strand { x with prog := .stage 2 w })

/-! ### The fabric and accesses at their homes -/

/-- 22 R439 to R442 and R446; 07 R157, R163, R171; 25 R467: a request is performed once at its target, and answered; a store is
acknowledged and its source keeps it no longer; one that the target denies is answered by its cause, with the address that it
found. A cross-die write and a sub-byte store are events of their own. A sector of a copy is written at its home, or turned
away with ACCESS_TABLE_DENY, and the copy told. An unacknowledged flit is sent again after 10 µs and given up at the remote timeout; a retry
restarts that time; a flit that is 50 µs old is discarded and counted as 0x32; a window is freed after its time. The corners
of a flit that the manual leaves open are the choices of log 48. -/
def Obligations.Requests : Prop :=
  (∀ (s u : State) (n : Nat) (f : Flit) (a : Access) (k tag idx : Nat), Arrives s n f u → f.msg = .request a k tag idx →
    let home := match a.owner with
      | some o => dieOf o * 1024
      | none => homeDie a.pa * 1024
    let reply := fun (t : State) (cause : Option Code) (data : List Byte) =>
      send t home f.who (.core f.src) clsRSP (.response a k tag idx cause data)
    let performed := fun (i : Instr) =>
      (∀ t d, performAt u f.who a = .ok t d →
        (a.op.isStore = true → Takes i s f t) ∧
        (∀ m p, a.op = .load m p → exec i s = .next (reply t none d)) ∧
        (∀ b, a.op = .push b → exec i s = .next (reply (markDone t f 0) none d)) ∧
        (∀ x, a.op = .atomic x → exec i s = .next (reply (markDone t f (BitVec.ofNat 64 (leVal d))) none d))) ∧
      (∀ t c line, performAt u f.who a = .fail t c line →
        (a.op.isStore = true → exec i s = .next (send (release (markDone t f 0) f) home f.who (.core f.src) clsRSP
          (.response a k 0 0 (some c) (leBytes 16 (line.getD a.pa))))) ∧
        (a.op.isStore = false → exec i s = .next (reply t (some c) (leBytes 16 (line.getD a.pa)))))
    (a.owner.isSome = true → performed (.subByteStore n)) ∧
    (a.owner = none → a.host = none → (f.msg.isWrite && f.crossDie) = false → performed (.requestFlitArrival n)) ∧
    (a.owner = none → a.host = none → f.msg.isWrite = true → f.crossDie = true → performed (.crossDieWriteApply n))) ∧
  (∀ (s : State) (n : Nat) (f : Flit) (c key : Nat) (seq : BitVec 32) (parts : List (Nat × Bool × List Byte)),
    s.net[n]? = some f → deliverable s n f = true → revokedFlit s f = false → f.msg = .sector c seq key parts →
    let u := { s with net := s.net.eraseIdx n }
    ((∀ q ∈ parts, u.admits q.1 q.2.1 f.who .wr = true) →
      exec (.requestFlitArrival n) s = .next (sectorDone (writeParts u f.who parts) c seq key none)) ∧
    (∀ q, parts.find? (fun q => !u.admits q.1 q.2.1 f.who .wr) = some q →
      exec (.requestFlitArrival n) s = .next (sectorDone (u.countDenial q.1 f.who.part) c seq key (some cDeny)))) ∧
  (∀ (s : State) (n : Nat) (x : Kept), s.kept[n]? = some x → x.last + 18000 ≤ s.now →
    let f := { x.flit with sent := s.now }
    let kept := s.kept.map (fun y => if y = x then { x with last := s.now } else y)
    let onLink := fun (p : Nat) =>
      (s.link (pkgOf f.src) p).waiting.any (·.same x.flit) ||
        (s.link (pkgOf f.src) p).inFlight.any (fun g => g.2.any (·.same x.flit))
    (x.first + remoteLimit s f.src ≤ s.now → ∃ t, exec (.flitResend n) s = .next t ∧ t.kept = s.kept.filter (fun y => y != x) ∧
      t.net = s.net) ∧
    (s.now < x.first + remoteLimit s f.src → (∀ p < 16, onLink p = false) → exec (.flitResend n) s =
      .next { s with net := insertFlit f (s.net.filter (fun g => !g.same f)), kept := kept }) ∧
    (s.now < x.first + remoteLimit s f.src → (∃ p < 16, onLink p = true) →
      exec (.flitResend n) s = .next { s with kept := kept })) ∧
  (∀ (s : State) (n c target seq : Nat) (f : Flit), s.net[n]? = some f → deliverable s n f = true → f.dst = .core c →
    f.msg = .retry target seq →
      let u := { s with net := s.net.eraseIdx n }
      exec (.retryResponse n) s = .next (if revokedFlit s f then countDest u f.dst 0x34 f.who.part else { u with
        kept := s.kept.map (fun x => if x.flit.src = c ∧ x.flit.dst.key = target ∧ x.flit.seq.toNat = seq then
          { x with last := s.now } else x) })) ∧
  (∀ (s : State) (n : Nat) (f : Flit), s.net[n]? = some f →
    let u := { s with net := s.net.eraseIdx n }.countPort f.dst.pkg (f.dst.die % 4) 0x32 1 (some f.who.part)
    (s.now < f.sent + 90000 → exec (.flitAgeDiscard n) s = .next s) ∧
    (f.sent + 90000 ≤ s.now →
      (∀ c seq key parts, f.msg = .sector c seq key parts →
        exec (.flitAgeDiscard n) s = .next (sectorDone u c seq key (some cLinkDown))) ∧
      ((∀ c seq key parts, f.msg ≠ .sector c seq key parts) → exec (.flitAgeDiscard n) s = .next u))) ∧
  (∀ (s : State) (n key : Nat) (w : Window), s.windows[n]? = some (key, some w) →
    let lim := orDefault (((s.partCfg (key % 2 ^ 40 / 4 / 65536) w.part).map (·.remto)).getD 0) Config.remoteTimeout
    exec (.duplicateWindowRelease n) s =
      .next (if w.last + lim + 90000 < s.now then { s with windows := smErase s.windows key } else s))

/-- 07 R144, R157, R158; 15 R319; 14 R295; 28 R486: an answer comes to the slot or entry that waits for it, and its request is kept
no longer; the host answers an access of a window through a live port. A denied store leaves the strand its denial and posts a
record of SRC 3; one whose executor has met 0xFF parks the core (log 57). An unanswered load takes REMOTE_TIMEOUT; a gather's
awaited page is walked again every 1,024 cycles and traps NOT_PRESENT after the page wait; a queue wait past the watchdog
traps QUEUE_TIMEOUT, that of the slot before that of the entry. -/
def Obligations.AnswersAndTimeouts : Prop :=
  (∀ (s : State) (n c k tag idx : Nat) (f : Flit) (a : Access) (cause : Option Code) (data : List Byte) (h : HostAnswer),
    s.net[n]? = some f → deliverable s n f = true → revokedFlit s f = false → f.dst = .core c →
    f.msg = .response a k tag idx cause data →
    let s1 := noteDelivery { s with net := s.net.eraseIdx n } f
    let answered := takeAnswer s1 c k tag idx cause data
    (a.op.isStore = false → exec (.remoteAccessResponse n h) s = .next answered ∧
      (∀ q ∈ answered.kept, ∀ b, q.flit.src = c → q.flit.msg = .request b k tag idx → q.flit.msg.returns = false) ∧
      ∀ x, s.strand c k = some x → ∃ y, answered.strand c k = some y ∧ y.s = x.s ∧ y.v = x.v ∧
        (∀ accs got fail, x.prog = .gather tag accs got fail → got.any (fun g => g.1 == idx) = false →
          y.prog = .gather tag accs (got ++ [(idx, cause, data)]) fail) ∧
        (∀ accs got fail, x.eprog = .gather tag accs got fail → got.any (fun g => g.1 == idx) = false →
          y.eprog = .gather tag accs (got ++ [(idx, cause, data)]) fail)) ∧
    (∀ code, a.op.isStore = true → cause = some code →
      let eva := homeEva a code (lineIn data)
      (code ≠ cReservedFormat → ∃ t, exec (.storeDenialResponse n) s = .next t ∧
        ∀ x, s.strand c k = some x →
          t.strand c k = some { x with denial := if x.denial.isSome then x.denial else some { code := code, eva := eva } }) ∧
      (∀ x, code = cReservedFormat → s.strand c k = some x → exec (.storeDenialResponse n) s =
        .next (s1.setStrand c k
          { x with pending := some { cls := .t, cause := { code := code, eva := 0 }, epc := x.pc, vpc := 0 } })))) ∧
  (∀ (s : State) (n k tag idx : Nat) (f : Flit) (a : Access) (h : HostAnswer), s.net[n]? = some f → deliverable s n f = true →
    f.msg = .request a k tag idx → a.host.isSome = true → (uePort s f.dst.die).isSome = true →
    let s1 := { s with net := s.net.eraseIdx n }
    let returns := f.msg.returns
    (∀ b, h = .data b → returns = true → a.bytes ≤ b.length →
      exec (.remoteAccessResponse n h) s = .next (takeAnswer s1 f.src k tag idx none (b.take a.bytes))) ∧
    (h = .done → returns = false → exec (.remoteAccessResponse n h) s = .next (release s1 f)) ∧
    (h = .done → returns = true → exec (.remoteAccessResponse n h) s =
      .next (takeAnswer s1 f.src k tag idx (if a.writes then none else some cHostWindow) [])) ∧
    (h = .refusal → returns = true →
      exec (.remoteAccessResponse n h) s = .next (takeAnswer s1 f.src k tag idx (some cHostWindow) [])) ∧
    (h = .refusal → returns = false →
      exec (.remoteAccessResponse n h) s = .next (storeDenied (release s1 f) f.src k f.who a cHostWindow []))) ∧
  (∀ (s : State) (c k : Nat) (x : Strand), s.strand c k = some x →
    (let late := fun (w : Option Wait) (p : Prog) => ∃ v, w = some v ∧ v.kind = .response ∧ v.since + remoteLimit s c ≤ s.now ∧
        p.unanswered = true;
      (late x.wait x.prog → ¬ late x.ewait x.eprog → ∃ t, exec (.remoteTimeout c k) s = .next t ∧
        t.strand c k = some { x with prog := x.prog.expire cRemoteTimeout } ∧ t.mem = s.mem ∧ OnlyStrand s t c k) ∧
      (late x.ewait x.eprog → ¬ late x.wait x.prog → ∃ t, exec (.remoteTimeout c k) s = .next t ∧
        t.strand c k = some { x with eprog := x.eprog.expire cRemoteTimeout } ∧ t.mem = s.mem ∧ OnlyStrand s t c k) ∧
      (late x.wait x.prog → late x.ewait x.eprog → ∃ t, exec (.remoteTimeout c k) s = .next t ∧ t.mem = s.mem ∧
        OnlyStrand s t c k ∧
        t.strand c k = some { x with prog := x.prog.expire cRemoteTimeout, eprog := x.eprog.expire cRemoteTimeout })) ∧
    (∀ tag accs got fail i, x.prog = .gather tag accs got fail → i < accs.length → got.any (fun g => g.1 == i) = false →
      ∃ more, x.prog.expire cRemoteTimeout = .gather tag accs (got ++ more) fail ∧ (i, some cRemoteTimeout, []) ∈ more) ∧
    (∀ since va w, x.prog = .stage since va → x.wait = some w → w.kind = .gather →
      (since + 1024 ≤ s.now → exec (.awaitRewalk c k) s = .next (s.setStrand c k { x with prog := .none })) ∧
      (w.since + pageLimit s c < s.now → (s.core c).halt = .none → exec (.pageWaitTimeout c k) s =
        .next (raise s c k .t { code := cNotPresent, eva := va.setWidth 72 } x.pc 0))) ∧
    (queueLimit s c ≠ 0 → (s.core c).halt = .none → x.pending = none →
      (∀ w, x.wait = some w → w.kind = .queue → w.since + queueLimit s c < s.now → exec (.queueWaitTimeout c k) s =
        .next (raise s c k .t { code := cQueueTimeout, eva := 0 } x.pc 0)) ∧
      (∀ w e, x.wait = none → x.ewait = some w → w.kind = .queue → w.since + queueLimit s c < s.now →
        seqHead x.seq = some e → exec (.queueWaitTimeout c k) s =
          .next (raise s c k .v { code := cQueueTimeout, eva := 0 } x.pc e.pc))))

/-- 14 R295 to R300: at the core of a queue link, a link flit is kept until the binding of this side meets it; an unlink ends the
link; a slot write changes exactly the bytes of its mask and leaves the slot no check bits, and a shadow's check bits come to
their slot (14 R289); a publish raises P and a credit raises C; each of them is counted as 0x14, with no other effect, when
the link no longer stands. -/
def Obligations.QueueMessages : Prop :=
  ∀ (s u : State) (n c : Nat) (f : Flit), Arrives s n f u → f.dst = .core c →
    let co := s.core c
    let gone := u.countCore c 0x14 1 (some co.part)
    let linked := fun (q : Fin 16) => (co.queues.get q).linked = true ∧ (co.queues.get q).peer = f.src
    let bound := fun (q : Fin 16) (g : Queue → Queue) => u.setCore c { co with queues := co.queues.set q (g (co.queues.get q)) }
    (∀ q nslot sz dir base, f.msg = .queueLink q nslot sz dir base →
      (co.queues.toList.any (fun b => b.bound && b.linked && b.peer == f.src && b.peerQ == q)) = false →
      Takes (.queueLinkFlit n) s f (u.setCore c (linkAll { co with
        linkOffers := co.linkOffers ++ [{ src := f.src, q := q, nslot := nslot, sz := sz, dir := dir, base := base }] }))) ∧
    (∀ q, f.msg = .queueUnlink q → (co.queues.get q).peer = f.src → (co.queues.get q).dir ≠ 0 →
      Takes (.queueUnlinkFlit n) s f (bound q (fun b => { b with linked := false }))) ∧
    (∀ q pa bytes mask, f.msg = .queueWrite q pa bytes mask → mask.length = bytes.length →
      (linked q → ∃ t tags, Takes (.queueSlotWriteMessage n) s f t ∧ t.cores = smPut s.cores c { co with slotTags := tags } ∧
        smGet none tags (pa - (pa - (co.queues.get q).base) % slotSize (co.queues.get q).sz) = none ∧
        (∀ i < bytes.length, t.byte (pa + i) = if mask.getD i 0 = 0 then s.byte (pa + i) else bytes.getD i 0) ∧
        ∀ a, a < pa ∨ pa + bytes.length ≤ a → t.byte a = s.byte a) ∧
      (¬ linked q → Takes (.queueSlotWriteMessage n) s f gone)) ∧
    (∀ q pa bad, f.msg = .queueTag q pa bad →
      (linked q → Takes (.queueSlotWriteMessage n) s f (u.setCore c { co with slotTags := smSet none co.slotTags pa (some bad) })) ∧
      (¬ linked q → Takes (.queueSlotWriteMessage n) s f gone)) ∧
    (∀ q m, f.msg = .queuePublish q m →
      (linked q → Takes (.queuePublishMessage n) s f (bound q (fun b => { b with p := b.p + BitVec.ofNat 32 m }))) ∧
      (¬ linked q → Takes (.queuePublishMessage n) s f gone)) ∧
    (∀ q m, f.msg = .queueCredit q m →
      (linked q → Takes (.queueCreditMessage n) s f (bound q (fun b => { b with c := b.c + BitVec.ofNat 32 m }))) ∧
      (¬ linked q → Takes (.queueCreditMessage n) s f gone))

/-! ### Engines and matrix rows -/

/-- 15 R327, R330 to R332, R335; 07 R156, R173; 09 R194; 25 R467: an engine starts the first command of its chain; one whose strand has
no CMD right at the engine ends with ACCESS_TABLE_DENY, a copy with all its sectors missing. The copy engine moves one sector
at a time, round the cores of its cluster, to another package as a sector frame of class ENG; a sector that meets a cause is
missing, and a copy that lacks sectors ends with a fault record for each page and is retained. A command that ends frees its
locks, writes its completion word and posts its event record, once the queue of its shepherd has room; one that failed also
posts a fault record. A CRED's reduced data is written at its destination. That an engine does its whole work in one event is
the choice of log 30. -/
def Obligations.EngineCommands : Prop :=
  (∀ (s : State) (c : Nat) (e : Fin 4) (x : Command), headOf s c e = some x → x.core = c → x.eng = e → x.running = false →
    (e = 2 → tileFree s x = true) →
    let y := { x with running := true }
    let cl := clOf c
    let admitted := (s.rights (engineTarget cl e.val) { part := x.part, cls := if x.prio3 then 1 else 0 }).getLsbD 3
    let run := fun (t : State) => exec (.engineCommandStart c e) s = .next t
    let g := copyGeo s (pkgOf c) x.part x.op
    let all := fun (code : Code) => { y with
      missing := (copyTodo g y).map (fun k => (k, code)), next := (copyTodo g y).length }
    let copies := ∃ dst src rows rb ds ss, x.op = .cpy dst src rows rb ds ss
    (admitted = false →
      (copies → run (setHead (s.countShepherd cl 0x10 1 (some x.part)) (all cDeny))) ∧
      (¬ copies → run (setHead (s.countShepherd cl 0x10 1 (some x.part)) { y with status := some cDeny }))) ∧
    (admitted = true →
      (∀ mf chk dst a b rows len, x.op = .nbmv mf chk dst a b rows len → run (setHead s y)) ∧
      (∀ dst src rows rb ds ss, x.op = .cpy dst src rows rb ds ss →
        let whole := rows * rb * (fmtBits g.df).getD 8 % (64 * max 1 ((fmtBits g.sf).getD 8)) = 0
        (g.kind ≠ .mismatch → (g.kind = .convert → whole) → run (setHead s y)) ∧
        (g.kind = .mismatch → run (setHead s (all cFormat))) ∧
        (g.kind = .convert → ¬ whole → run (setHead s (all cMisaligned)))) ∧
      (∀ chk q kb vb tb out lse l2 len dh inp outp sc, x.op = .attn chk q kb vb tb out lse l2 len dh inp outp sc →
        let o := List.replicate 32 (List.replicate (dhSize dh) 0)
        let tile : AttnTile := { core := c, block := 0, mx := List.replicate 32 negInf32, l := List.replicate 32 0, o := o,
                                 stall := none, lastWalk := s.now }
        run (setTile (setHead s y) cl tile)) ∧
      (∀ op fmt dst src n fold round b, x.op = .cred op fmt dst src n fold round →
        engRead s x.who src (n * credSize fmt) = (s, .ok b) →
        let m : CredIn :=
          { core := c, strand := x.strand, seq := x.seq, op := op, fmt := fmt, count := n, ok := true, bytes := b }
        run (setHead (send s c (engineIdent x.part e) (.block (pblockPa (pkgOf c) 0)) clsCOL (.credIn fold round m))
          { y with sent := true })))) ∧
  (∀ (s : State) (cl i k : Nat) (x : Command) (g : CopyGeo) (rest : List Nat),
    ((List.range 16).map (fun j => ((s.cluster cl).copyNext + j) % 16)).findSome?
      (fun j => (copyRuns s (cl * 16 + j)).map (fun r => (j, r))) = some (i, x, g) →
    (copyTodo g x).drop x.next = k :: rest → x.core = cl * 16 + i → x.eng = 0 →
    let u := s.modCluster cl (fun y => { y with copyNext := (i + 1) % 16 })
    let here := BitVec.ofNat 72 (sectorDest g x.op k).1
    (∀ l, u.walk (pkgOf x.core) x.part here = .leaf l → l.learep = false →
      (∀ gs, sectorData u x g k = (u, .ok gs) → checkSegs u x gs = (u, none) →
        let y := { x with next := x.next + 1 }
        let parts := placeSegs u y gs
        let near := parts.all (fun q => homePkg q.1 == pkgOf x.core)
        (near = true → x.flying.contains k = false → exec (.copySector cl) s = .next (setHead (writeSegs u x gs) (y.wrote g k))) ∧
        (near = false → ∃ t z, exec (.copySector cl) s = .next t ∧ headOf t x.core 0 = some z ∧ z.flying.contains k = true ∧
          z.units = x.units ∧ z.missing = x.missing ∧
          ∀ q ∈ parts, homePkg q.1 ≠ pkgOf x.core → ∃ f, (f ∈ t.net ∨ ∃ p < 16, f ∈ (t.link (pkgOf x.core) p).waiting ∨
              ∃ e ∈ (t.link (pkgOf x.core) p).inFlight, f ∈ e.2) ∧
            f.cls = clsENG ∧ f.msg = .sector x.core x.seq k (parts.filter (fun r => homePkg r.1 != pkgOf x.core &&
              homeDie r.1 == homeDie q.1)))) ∧
      (∀ v code, sectorData u x g k = (v, .error code) → exec (.copySector cl) s =
        .next (setHead v { x with next := x.next + 1, missing := x.missing ++ [(k, code)] })))) ∧
  (∀ (s : State) (c : Nat) (e : Fin 4) (x : Command), headOf s c e = some x → x.running = true →
    eventRoom s x.eventCluster = true →
    let u := clearTile (popHead s x) x
    let run := fun (t : State) => exec (.engineCommandEnd c e) s = .next t
    let copies := ∃ dst src rows rb ds ss, x.op = .cpy dst src rows rb ds ss
    (x.status = some cNone → run (endCommand u x cNone)) ∧
    (∀ code, x.status = some code → code ≠ cNone →
      (¬ copies → run (endCommand (commandFault u x code x.output []) x code)) ∧ (copies → run (abandonCommand u x code))) ∧
    (x.status = none →
      (copies → x.flying = [] → (∀ f ∈ s.net, ∀ d n k ps, f.msg = .sector d n k ps → ¬ (d = x.core ∧ n = x.seq)) →
        let g := copyGeo s (pkgOf c) x.part x.op
        (x.stop = true → run (abandonCommand (popHead s x) x cAbandoned)) ∧
        (x.stop = false → leaDone s x = true → (copyTodo g x).length ≤ x.next →
          (x.missing = [] → run (endCommand (popHead s x) x cNone)) ∧
          (∀ m, lowestMissing g x.op x.missing = some m →
            run (postCompletion (retain (pageFaults (popHead s x) (copyGeo s (pkgOf x.core) x.part x.op) x)
              (copyGeo s (pkgOf x.core) x.part x.op) x) x m.2)))) ∧
      (∀ mf chk dst a b rows len, x.op = .nbmv mf chk dst a b rows len → run (endNbmv s x mf chk dst a b rows len)) ∧
      (∀ t, (s.cluster (clOf c)).attn = some t → attnBlocks (attnLen x.op) ≤ t.block → x.stop = false →
        (∃ chk q kb vb tb out lse l2 len dh inp outp sc, x.op = .attn chk q kb vb tb out lse l2 len dh inp outp sc) →
        run (endAttn s x t)))) ∧
  (∀ (s : State) (x : Command) (l : Leaf), credWithout s x cNone = s → x.comp ≠ 0 → x.comp.toNat % 8 = 0 →
    engPage (freeLocks s x) x.who x.comp .wr = (freeLocks s x, .ok l) → spaceOf x.comp ≠ 0xC0 →
    (siteOf (l.pa x.comp) l.geom2).isMemory = true → eventRoom s x.eventCluster = true →
    let t := endCommand s x cNone
    let cl := (taskCluster x.task.toNat).getD (clOf x.core)
    let word := l.pa x.comp
    let record := eventPa cl ((s.cluster cl).evHead + (s.cluster cl).evCount)
    (word + 8 ≤ record ∨ record + 32 ≤ word →
      readD t word = BitVec.ofNat 64 (x.seq.toNat * 2 ^ 32 + x.units % 2 ^ 26)) ∧
    readBytes t record 32 = eventRecord x.eng.val x.core (completionWord x.seq cNone x.units) x.task 1 ∧
    (∀ q, (q < word ∨ word + 8 ≤ q) → (q < record ∨ record + 32 ≤ q) → t.byte q = s.byte q) ∧
    (t.cluster (clOf x.core)).locks = (s.cluster (clOf x.core)).locks.filter (fun r => !x.owns r) ∧
    (t.cluster cl).evCount = (s.cluster cl).evCount + 1) ∧
  (∀ (s u : State) (n c : Nat) (f : Flit) (x : Command) (ok : Bool) (b : List Byte), Arrives s n f u → f.dst = .core c →
    f.msg = .credOut x.seq ok b → headOf s c 3 = some x → x.status = none →
    ∀ op fmt dst src m fold round, x.op = .cred op fmt dst src m fold round →
      (ok = false → Takes (.credResult n) s f (setHead u { x with status := some cAbandoned })) ∧
      (ok = true → engCheck u x.who dst b = (u, none) → Takes (.credResult n) s f
        (setHead (engWrite u x.who dst b) { x with status := some cNone, units := b.length / 64 })))

/-- 19 R384, R385, R396, R399 to R403; 20 R412, R421 to R423, R428: a query tile takes a block of 32 tokens, whose rows are those of
R400 and R401; a missing block ends it with GATHER_BOUNDS, an awaited page stalls it, is walked again every 1,024 cycles, and
ends it with ATTN_PAGE_TIMEOUT after the page wait. A ladder takes one step. A row barrier opens when its four strands stand at
it: their operations start, or each takes GANG_MISMATCH, or its own cause. Once the lead core's rows are filled, each core of a
started row runs its operation on them; the lead core's queue bound anew, or a row that fails its check, ends them (log 47).
The queue watchdog ends a barrier that does not open with GANG_MISMATCH, and a started operation whose rows do not come with
QUEUE_WAIT_TIMEOUT. -/
def Obligations.MatrixEvents : Prop :=
  (∀ (s : State) (cl : Nat) (t : AttnTile) (x : Command), tileCommand s cl = some (t, x) → tileRuns t x = true →
    ∀ chk q kb vb tb out lse l2 len dh inp outp sc, x.op = .attn chk q kb vb tb out lse l2 len dh inp outp sc →
    ∀ b, engRead s x.who (tb + BitVec.ofNat 72 (4 * t.block)) 4 = (s, .ok b) →
      let n := 32 * dhSize dh * mfBits (attnInFmt inp) / 8
      let ka := kb + BitVec.ofNat 72 (leVal b * 2 ^ l2)
      let va := vb + BitVec.ofNat 72 (leVal b * 2 ^ l2)
      let due := t.lastWalk + 1024 ≤ s.now ∧ ∀ since, t.stall = some since → s.now ≤ since + pageLimit s t.core
      let steps := fun (v : State) =>
        (t.stall = none → exec (.attnBlock cl) s = .next v) ∧
        (t.stall.isSome = true → due → exec (.attnPageRewalk cl) s = .next v)
      (leVal b = 0xFFFFFFFF → steps (setHead s { x with status := some cGatherBounds })) ∧
      (leVal b ≠ 0xFFFFFFFF →
        (awaited s x ka n = true ∨ awaited s x va n = true →
          steps (setTile s cl { t with stall := some (t.stall.getD s.now), lastWalk := s.now })) ∧
        (awaited s x ka n = false → awaited s x va n = false → ∀ ks vs qs,
          attnRows s x inp (dhSize dh) 32 ka = (s, .ok ks) → attnRows s x inp (dhSize dh) 32 va = (s, .ok vs) →
          attnRows s x inp (dhSize dh) 32 q = (s, .ok qs) →
          let row := fun (i : Nat) => attnRow sc (qs.getD i []) ks vs (min 32 (len - 32 * t.block)) (t.mx.getD i 0)
            (t.l.getD i 0) (t.o.getD i [])
          steps (setTile s cl { t with
            block := t.block + 1, stall := none, mx := (List.range 32).map (fun i => (row i).1)
            l := (List.range 32).map (fun i => (row i).2.1), o := (List.range 32).map (fun i => (row i).2.2) })))) ∧
  (∀ (s : State) (cl since : Nat) (t : AttnTile) (x : Command), tileCommand s cl = some (t, x) → tileRuns t x = true →
    t.stall = some since → since + pageLimit s t.core < s.now →
    exec (.attnPageTimeout cl) s = .next (setHead s { x with status := some cAttnTimeout })) ∧
  (∀ (s : State) (c : Nat), exec (.ladderMerge c) s =
    .next (orFlags (writeMoved s (s.setCore c (ladderStep (s.core c)).1) c) c (ladderStep (s.core c)).2)) ∧
  (∀ (s : State) (cl : Nat) (row : Fin 4) (l : Ganged) (gs : List Ganged), (rowBarrier s cl row).opened = false →
    gangedRow s cl row = some (l :: gs) → gangReady s cl row (l :: gs) = true →
    (gangSound s l (l :: gs) = true → ∃ t, exec (.gangOpen cl row) s = .next t ∧ (rowBarrier t cl row).opened = true ∧
      (rowBarrier t cl row).waiting = (rowBarrier s cl row).waiting ∧
      ∀ g ∈ l :: gs, t.strand g.a.core g.a.k = some { g.a.x with gang := some g.e, seq := seqPop g.a.x.seq } ∧
        (t.core g.a.core).microActive = gangBank s g ∧ (t.core g.a.core).tiles = (s.core g.a.core).tiles) ∧
    (gangSound s l (l :: gs) = false → ∃ t, exec (.gangOpen cl row) s = .next t ∧ (rowBarrier t cl row).waiting = [] ∧
      ∀ g ∈ l :: gs, ∃ y p, t.strand g.a.core g.a.k = some y ∧ y.pending = some p ∧ p.cls = .v ∧ p.vpc = g.gang.pc ∧
        p.cause.code = (gangCause s l g).getD cGangMismatch)) ∧
  (∀ (s : State) (cl : Nat) (row : Fin 4) (l : Ganged) (gs : List Ganged), (rowBarrier s cl row).opened = true →
    startedRow s cl row = l :: gs →
    (∀ rows, leadCause s (rowBarrier s cl row) l = none → leadRows s l = .ok rows →
      (∀ g ∈ l :: gs, g.a.guard g.op.g = true ∧ g.op.chk = none ∧ smGet none (s.core g.a.core).tileStrand g.op.d.val = none ∧
        (runMatrix s g.a.core g.op (s.core g.a.core).microActive rows).isSome = true) →
      ∃ t, exec (.gangOpen cl row) s = .next t ∧ (rowBarrier t cl row).waiting = [] ∧
        ∀ g ∈ l :: gs, t.strand g.a.core g.a.k = some (popped g.a.x) ∧
          ∀ u, runMatrix s g.a.core g.op (s.core g.a.core).microActive rows = some u →
            (t.core g.a.core).tiles = (u.core g.a.core).tiles ∧ (t.core g.a.core).matCount = (u.core g.a.core).matCount ∧
            (t.core g.a.core).fstat = (u.core g.a.core).fstat) ∧
    (∀ c, leadCause s (rowBarrier s cl row) l = some c → ∃ t, exec (.gangOpen cl row) s = .next t ∧
      (rowBarrier t cl row).waiting = [] ∧
      ∀ g ∈ l :: gs, ∃ y p, t.strand g.a.core g.a.k = some y ∧ y.gang = none ∧ y.pending = some p ∧ p.cls = .v ∧
        p.vpc = g.gang.pc ∧ p.cause.code = if g.a.core = l.a.core then c else cGangMismatch)) ∧
  (∀ (s : State) (cl : Nat) (row : Fin 4),
    let b := rowBarrier s cl row
    let lim := queueLimit s (cl * 16 + 4 * row.val)
    b.waiting ≠ [] → lim ≠ 0 → b.since + lim < s.now →
    (b.opened = false → gangedRow s cl row = none) →
    (b.opened = true → ∃ l gs t, startedRow s cl row = l :: gs ∧ leadCause s b l = none ∧ leadRows s l = .error (.again t)) →
    ∃ t, exec (.gangBarrierTimeout cl row) s = .next t ∧ (rowBarrier t cl row).waiting = [] ∧
      ∀ m ∈ b.waiting, ∀ x, s.strand m.1 m.2 = some x → ∃ y p, t.strand m.1 m.2 = some y ∧ y.gang = none ∧
        y.pending = some p ∧ p.cls = .v ∧ p.cause.code = if b.opened then cQueueTimeout else cGangMismatch)

/-! ### Folds, upsets, links, the Lea -/

/-- 02 R80 to R82; 17 R370 to R374; 22 R444: a round of contributions of one kind has the conjunction or the disjunction of its
predicates as its outcome, and true for FSYNC; contributions of differing kinds fail it. The contribution that completes a
round of a fold of one package ends it, and every member is sent the outcome; one for which a die root or the package root has
none of its 64 entries free waits at the switch (22 R445; log 46). A join sets the member's bit in the masks and in
the strand, a leave clears it. A member that has not contributed within the fold timeout is ejected. At the member an outcome
that waits is kept, one that a speculation went against squashes it, one that it guessed commits it, at once where nothing is under way or kept back; without an outcome the
member traps FOLD_TIMEOUT at its collective instruction. -/
def Obligations.FoldEvents : Prop :=
  (∀ (r : FoldRound) (kind : Nat), r.got ≠ [] → kind < 3 → (∀ g ∈ r.got, g.kind = kind) → r.value.failed = false ∧
    r.value.outcome = if kind = 0 then r.got.all (·.pred) else if kind = 1 then r.got.any (·.pred) else true) ∧
  (∀ (r : FoldRound), (∀ g ∈ r.got, g.kind < 3) → (∃ g ∈ r.got, ∃ h ∈ r.got, g.kind ≠ h.kind) → r.value.failed = true) ∧
  (∀ (s u : State) (n pa : Nat) (f : Flit), Arrives s n f u → f.dst = .block pa →
    let p := homePkg pa
    (∀ fold own k kind pred m r, f.msg = .foldIn fold own k kind pred →
      (s.fold p fold).joined.find? (fun y => y.core == f.src && y.strand == k) = some m → (s.fold p fold).packages = [] →
      (s.fold p fold).cred = [] → (s.fold p fold).rounds = [r] → r.round = m.base + own → r.round ≠ (s.fold p fold).base →
      let g : FoldIn := { core := f.src, strand := k, own := own, kind := kind, pred := pred }
      let q : FoldRound := { r with got := r.got ++ [g] }
      (entriesFit (takeContribution u p fold g) p = false → exec (.foldContribution n) s = .next s) ∧
      (r.sent = false → q.full = true → entriesFit (takeContribution u p fold g) p = true →
      ∃ t, Takes (.foldContribution n) s f t ∧ (t.fold p fold).rounds = [] ∧
        t.kept.map Kept.what = s.kept.map Kept.what ++ q.got.map (fun g =>
          (p * 4096, Dest.core g.core, clsCOL, Msg.foldOut fold g.own g.strand q.value.outcome q.value.failed 0)))) ∧
    (∀ fold k x, f.msg = .foldJoin fold k → s.strand f.src k = some x →
      bit ((s.cluster (clOf f.src)).wave.get fold) (f.src % 16) = false → ∃ t y, Takes (.foldJoinRecorded n) s f t ∧
        t.strand f.src k = some y ∧ bit y.memb fold.val = true ∧ y.s = x.s ∧ y.pc = x.pc ∧
        bit ((t.cluster (clOf f.src)).wave.get fold) (f.src % 16) = true) ∧
    (∀ fold k x, f.msg = .foldLeave fold k → s.strand f.src k = some x → bit x.memb fold.val = true →
      ∃ t y, Takes (.foldLeaveRecorded n) s f t ∧ t.strand f.src k = some y ∧ bit y.memb fold.val = false ∧ y.s = x.s ∧
        y.pc = x.pc ∧ bit ((t.cluster (clOf f.src)).wave.get fold) (f.src % 16) = false)) ∧
  (∀ (s : State) (pkg c k : Nat) (fold : Fin 16) (r : FoldRound) (x : Strand), (s.fold pkg fold).rounds = [r] → r.sent = false →
    r.since + foldLimit s c ≤ s.now →
    r.members.find? (fun m => m.1 == c && !(r.got.any (fun g => g.core == m.1 && g.strand == m.2))) = some (c, k) →
    s.strand c k = some x → ∃ t y, exec (.foldEject pkg fold c) s = .next t ∧ t.strand c k = some y ∧
      bit y.eject fold.val = true ∧ bit y.memb fold.val = false ∧ y.s = x.s ∧ y.pc = x.pc) ∧
  (∀ (s u : State) (n c k lseq own : Nat) (f : Flit) (fold : Fin 16) (o failed : Bool) (x : Strand) (q : Contribution),
    Arrives s n f u → f.dst = .core c → f.msg = .foldOut fold own k o failed lseq → s.strand c k = some x →
    x.contrib = some q → q.fold = fold → q.round = own → q.arrived = false →
    let q1 := { q with arrived := true, outcome := o, failed := failed }
    let v := u.modCore c (fun co => { co with lseq := if co.lseq.toNat < lseq then BitVec.ofNat 48 lseq else co.lseq })
    ((s.core c).spec = none → Takes (.foldOutcome n) s f
      (v.modStrand c k (fun y => { y with contrib := some q1, prog := .none }))) ∧
    (∀ sp, (s.core c).spec = some sp → sp.strand = k → (failed = true ∨ o ≠ sp.hint) → ∃ t y, Takes (.foldOutcome n) s f t ∧
      (t.core c).spec = none ∧ t.strand c k = some y ∧ y.pc = sp.checkpoint.pc ∧ y.s = sp.checkpoint.s ∧
      y.k = sp.checkpoint.k ∧ y.v = sp.checkpoint.v ∧ y.contrib = some q1) ∧
    (∀ sp, (s.core c).spec = some sp → sp.strand = k → failed = false → o = sp.hint → sp.deferred = none →
      (x.prog ≠ .none → ∃ t, Takes (.foldOutcome n) s f t ∧ (t.core c).spec = some { sp with confirmed := true } ∧
        t.strand c k = some { x with contrib := none }) ∧
      (x.prog = .none → sp.buf = [] → sp.held = [] → ∃ t, Takes (.foldOutcome n) s f t ∧ (t.core c).spec = none ∧
        t.strand c k = some { x with contrib := none }))) ∧
  (∀ (s : State) (c k : Nat) (x : Strand) (q : Contribution), s.strand c k = some x → x.contrib = some q → q.arrived = false →
    (s.core c).halt = .none → (s.core c).spec = none → q.since + foldLimit s c < s.now →
    exec (.foldOutcomeTimeout c k) s = .next (raise (s.modStrand c k (fun y =>
      { y with contrib := none, prog := .none, wait := none })) c k .t { code := cFoldTimeout, eva := 0 } x.pc 0))

/-- 26 R469, R470, R476 to R480; 22 R446: a strike report is counted, and the sixteenth in 1,024 cycles ends the core's strands or
fences the cluster's partition; a scrub counts a corrected error and marks the line of an uncorrectable one, which fences the
partitions whose hardware state the line holds and is then reported to a partition that maps it; a fence stops the partition once, takes its rights away and tells the host; the
release of a stopped partition comes 50 µs later. Which upsets come and which bits they flip is free (logs 10 and 50). -/
def Obligations.UpsetsAndFences : Prop :=
  (∀ s : State, (∀ n, exec (.strikeReport (.switch n)) s = .next s) ∧
    (∀ c, let u := s.countCore c 0x13A 1 (some (s.core c).part)
      let ts := (s.core c).strikes.filter (fun t => decide (s.now < t + Config.strikeWindow)) ++ [s.now]
      (ts.length < Config.strikeLimit → exec (.strikeReport (.core c)) s = .next (u.modCore c (fun co => { co with strikes := ts }))) ∧
      (Config.strikeLimit ≤ ts.length → exec (.strikeReport (.core c)) s =
        .next (machineCheck (u.modCore c (fun co => { co with strikes := [] })) c (BitVec.allOnes 32)))) ∧
    (∀ cl, ∀ q ∈ [(StrikeUnit.shepherd cl, 16), (.engine cl 0, 0), (.engine cl 1, 1), (.engine cl 2, 2), (.engine cl 3, 3)],
      let u := s.countShepherd cl 0x13A 1 (clusterPart s cl)
      let x := u.cluster cl
      let ts := recentReports s.now ((x.strikes.filter (fun r => r.1 == q.2)).map (·.2))
      let others := x.strikes.filter (fun r => r.1 != q.2)
      (ts.length < Config.strikeLimit → exec (.strikeReport q.1) s =
        .next (u.setCluster cl { x with strikes := others ++ ts.map (fun t => (q.2, t)) })) ∧
      (∀ part, Config.strikeLimit ≤ ts.length → clusterPart s cl = some part → exec (.strikeReport q.1) s =
        .next (fencePartition (u.setCluster cl { x with strikes := others }) (cl / 256) part)))) ∧
  (∀ (s : State) (pa : Nat), (siteOf pa false).isMemory = true →
    let line := pa / 64 * 64
    let u := countLine { s with poison := smSet false s.poison line true, poisonDue := s.poisonDue ++ [line] } pa 0x05
    exec (.patrolScrub pa .clean) s = .next s ∧ exec (.patrolScrub pa .corrected) s = .next (countLine s pa 0x04) ∧
    (lineOwners s line = [] → exec (.patrolScrub pa .uncorrectable) s = .next u) ∧
    (∀ q, lineOwners s line = [q] → exec (.patrolScrub pa .uncorrectable) s = .next (fencePartition u q.1 q.2)) ∧
    (smGet false u.poison line = true ∧ u.poisonDue = s.poisonDue ++ [line] ∧ u.mem = s.mem) ∧
    (∀ c ofs, siteOf line false = .share c ofs → hardwareRange c ofs = true → (s.core c).assigned = true →
      (pkgOf c, (s.core c).part) ∈ lineOwners s line) ∧
    (∀ p (part : BitVec 6) cfg, s.partCfg p part = some cfg → devPa s p part (space0 cfg.fqbase) false = .ok line →
      (p, part) ∈ lineOwners s line)) ∧
  (∀ (s : State) (pa p n va : Nat), let line := pa / 64 * 64
    s.poisonDue.contains line = true →
    s.packages.flatMap (fun e => e.2.parts.filterMap (fun y => if y.2.isSome then some (e.1, y.1) else none)) = [(p, n)] →
    let u := { s with poisonDue := s.poisonDue.filter (· != line) }
    mapsLine u p line 4 (rootPa p (BitVec.ofNat 6 n)) 0 = some va →
    let r : FaultRec := { cause := cMachineCheck, core := p * 4096, part := BitVec.ofNat 6 n, src := 5,
                          va := BitVec.ofNat 72 va, sectors := [va % 65536 / 256] }
    exec (.poisonReport pa) s = .next (postFault u p r)) ∧
  (∀ (s : State) (p : Nat) (part : BitVec 6) (cfg : PartCfg), s.partCfg p part = some cfg →
    (cfg.stoppedAt.isSome = true → exec (.partitionFence p part) s = .next s) ∧
    (cfg.stoppedAt = none → ∃ t, exec (.partitionFence p part) s = .next t ∧
      (part ≠ 63 → ∀ i id, id.part = part → t.rights (p, i) id = 0) ∧
      (∀ c, partCores s p part = [c] → (t.core c).halt = .stopped ∧ (t.core c).staging = [] ∧ (t.core c).pib = [] ∧
        (t.core c).residues = [] ∧ (t.core c).spec = none)) ∧
    (∀ at_, cfg.stoppedAt = some at_ → cfg.released = false → at_ + 90000 ≤ s.now → (s.pkg p).pendingCfg = none →
      let u := releaseSources s p part
      (cfg.fenced = true → exec (.teardownRelease p part) s = .next (u.modPkg p (fun x =>
        { x with parts := smPut x.parts part.toNat (some { cfg with released := true }) }))) ∧
      (cfg.fenced = false → ∃ t, exec (.teardownRelease p part) s = .next t ∧ t.partCfg p part = none ∧
        ∀ c ∈ partCores s p part, (t.core c).assigned = false)))

/-- 01 R29; 24 R453 to R458 and R468: the next frame in flight of a link that is up delivers its flits, up to four, and raises the delivered sequence; one
whose CRC fails asks for a replay and is counted as 0x30; one delivered before is discarded and counted as 0x31. An
acknowledgement frees the frames it covers; a replay request resends the others; a loss of light discards what is on its way
and sends a notice, on which, or on a failure of its laser socket, the transmitter restripes, with an event record, or goes down
with fewer than four wavelengths. The beats of a frame go round the live wavelengths in ascending number (24 R452). Retraining takes the lowest wavelengths both ends have, or counts an attempt, of which the
eighth fails with a record. A frame of a link is one event, as log 31 says. -/
def Obligations.OpticalLinks : Prop :=
  ∀ (s : State) (link : Nat),
    let p := link / 17
    let n := link % 17
    let l := s.link p n
    let g := if n < 16 then n / 4 else 4
    let gives := fun (i : Instr) (m : Link) => exec i s = .next (s.setLink p n m)
    (∀ q fs rest, l.inFlight = (q, fs) :: rest → l.up = true → l.marker ≠ some 0 → l.notice = none →
      let m := { l with inFlight := rest, marker := l.marker.map (· - 1) }
      exec (.linkFrameReceive link false) s = .next ((s.setLink p n { m with
        replayReq := some (l.delivered + 1) }).countPort p g 0x30 1 none) ∧
      (q = l.delivered + 1 → ∃ t, exec (.linkFrameReceive link true) s = .next t ∧ t.net = s.net ++ fs ∧
        t.link p n = { m with delivered := q } ∧ t.cores = s.cores ∧ t.mem = s.mem) ∧
      (2 ^ 31 ≤ (q - l.delivered).toNat ∨ q = l.delivered → exec (.linkFrameReceive link true) s =
        .next ((s.setLink p n m).countPort p g 0x31 1 none))) ∧
    (l.live ≠ 0 → ∀ i, bit l.live (l.wavelength i) = true ∧ l.wavelength (i + popcount16 l.live) = l.wavelength i) ∧
    (l.up = true → gives (.linkAckSend link) { l with ackFlight := some l.delivered }) ∧
    (∀ k, l.ackFlight = some k → l.up = true → l.waiting = [] →
      gives (.linkAckReceive link) { l with replay := unacked l k, ackFlight := none }) ∧
    (∀ k, l.replayReq = some k → l.up = true → l.notice = none → gives (.linkReplayRequest link) { l with
      replayReq := none, inFlight := l.inFlight ++ unacked l (k - 1), beat := l.beat + 16 * (unacked l (k - 1)).length }) ∧
    (∀ lost, l.up = true →
      let had := ((l.notice.map (·.1)).getD l.live)
      had &&& lost ≠ 0 → gives (.lossOfLight link lost) { l with
        inFlight := (l.marker.map (fun k => l.inFlight.drop k)).getD [], marker := l.marker.map (fun _ => 0), replayReq := none
        notice := some (had &&& ~~~lost, l.delivered), lossAt := s.now }) ∧
    (∀ seen k, l.notice = some (seen, k) →
      let r := unacked l k
      let live := seen &&& l.live
      (live = l.live → gives (.restripeNotice link) { l with replay := r, notice := none }) ∧
      (live ≠ l.live → 4 ≤ popcount16 live → l.waiting = [] →
        exec (.restripeNotice link) s = .next (postLink (s.setLink p n { l with
            live := live, replay := r, inFlight := r, notice := none, replayReq := none, marker := none, beat := 16 * r.length })
          p { kind := 1, port := n, oldl := l.live, newl := live, first := (r.head?.map (·.1)).getD 0, nrep := r.length
              seen := some l.lossAt })) ∧
      (live ≠ l.live → popcount16 live < 4 → exec (.restripeNotice link) s =
        .next (postLink (linkDown s p n { l with replay := r, notice := none }) p
          { kind := 2, port := n, oldl := l.live, newl := 0, seen := some l.lossAt }))) ∧
    (∀ k, l.marker = some k → gives (.restripeMarker link) { l with marker := none, inFlight := l.inFlight.drop k }) ∧
    (∀ own far : TrainProposal, l.retryAt = none → l.up = false →
      let lanes := own.lanes &&& far.lanes
      let width := min (min own.width.toNat far.width.toNat) (popcount16 lanes)
      let live := lowestLanes lanes width
      (4 ≤ width → exec (.linkRetrain link own far) s = .next (postLink (s.setLink p n { l with
          live := live, up := true, slow := own.slow || far.slow, beat := 0, attempts := 0, disagreed := false }) p
        { kind := 0, port := n, oldl := l.live, newl := live })) ∧
      (width < 4 → l.attempts < 7 →
        gives (.linkRetrain link own far) { l with attempts := l.attempts + 1, retryAt := some (s.now + 1800) }) ∧
      (width < 4 → l.attempts = 7 → exec (.linkRetrain link own far) s =
        .next (postLink (s.setLink p n { l with attempts := 8, disagreed := true }) p
          { kind := 3, port := n, oldl := l.live, newl := 0 }))) ∧
    (∀ t, l.retryAt = some t → t ≤ s.now → gives (.retrainRetry link) { l with retryAt := none }) ∧
    (∀ socket, bit (s.pkg p).lasers socket = true →
      let u := s.modPkg p (fun y => { y with lasers := setBit y.lasers socket false })
      (socket = 68 → exec (.laserSocketFailure p socket) s = .next (u.modPkg p (fun y =>
        { y with lea := { y.lea with txOff := true } }))) ∧
      (socket < 64 → socket / 4 = n → l.up = true → l.waiting = [] →
        let live := l.live &&& ~~~(0xF#16 <<< (4 * (socket % 4)))
        let ahead := if l.notice.isSome then [] else l.inFlight
        l.live ≠ live → 4 ≤ popcount16 live → exec (.laserSocketFailure p socket) s = .next (postLink (u.setLink p n { l with
            live := live, inFlight := ahead ++ l.replay, replayReq := none, marker := some ahead.length, beat := 16 * l.replay.length })
          p { kind := 1, port := n, oldl := l.live, newl := live, socket := socket, first := (l.replay.head?.map (·.1)).getD 0,
              nrep := l.replay.length })))

/-- 24 R460 to R464; 17 R375; 01 R19, R26 to R28: the member that the lark names sends at most 64 KiB of what waits and passes the
lark on; an older generation is ignored; an operation is applied when its predecessor has been, once; a group that has seen
no lark for 100 µs has one of the next generation from its lowest working member; a store that gets no number traps
REMOTE_TIMEOUT with nothing applied; a domain is the packages that are given numbers, each of which takes its memory along; a
group's lark starts at member 0 with NEXT 1, and the folds that are to span the group list its packages. What a package keeps
under a new number is the choice of log 32. How a LEA hands over a frame is the choice of log 31. -/
def Obligations.LeaEvents : Prop :=
  (∀ (qs : List (Nat × Nat × LeaOp)) (used kept : Nat),
    let r := takeOps qs used kept
    r.1 ++ r.2 = qs ∧ (r.1 = [] ∨ used + (r.1.map (fun q => q.2.2.size)).sum ≤ 65536)) ∧
  (∀ (s : State) (p : Nat),
    let l := s.lea p
    (l.hasLark = true → l.members ≠ [] → (olderLark l l.lark = true →
        exec (.larkReceive p) s = .next (s.modLea p (fun x => { x with hasLark := false }))) ∧
      (olderLark l l.lark = false →
        let u := s.modLea p (fun x => { x with
          hasLark := false, seenGen := l.lark.gen, lastSeen := s.now, sent := x.sent.filter (fun q => decide (l.lark.applied < q.1)) })
        (l.lark.holder = l.number → l.txOff = false → exec (.larkReceive p) s = .next (holdLark u p l.lark)) ∧
        (l.lark.holder ≠ l.number ∨ l.txOff = true → exec (.larkReceive p) s = .next u))) ∧
    (∀ seq op, l.received.find? (fun r => r.1 == seq) = some (seq, op) →
      let u := s.modLea p (fun x => { x with received := x.received.filter (fun q => q.1 != seq) })
      (seq ≤ l.applied → exec (.leaOperationReceive p seq) s = .next u) ∧
      (seq = l.applied + 1 → exec (.leaOperationReceive p seq) s = .next (leaApplied (leaData u p seq op) p seq) ∧
        ∀ v, ((leaApplied v p seq).lea p).applied = seq)) ∧
    (∀ m, l.members.find? (fun m => !(s.lea m).txOff) = some m → l.lastSeen + 180000 ≤ s.now →
      ∃ t k, exec (.larkTimeout p) s = .next t ∧ ∀ q ∈ l.members, (t.lea q).lark = k ∧ (t.lea q).hasLark = true ∧
        k.holder = (s.lea m).number ∧ k.group = l.group ∧ (s.lea q).applied < k.next) ∧
    (∃ t, exec (.larkTransmitterRestore p) s = .next t ∧ (t.lea p) = { l with txOff := false } ∧
      (t.pkg p).lasers = setBit (s.pkg p).lasers 68 true ∧ ∀ q, q ≠ p → t.pkg q = s.pkg q)) ∧
  (∀ (s : State) (c k : Nat) (x : Strand) (w : Wait) (op : LeaOp), s.strand c k = some x → x.wait = some w → w.kind = .lea →
    w.since + remoteLimit s c ≤ s.now → (s.core c).halt = .none →
    (s.lea (pkgOf c)).queue.find? (fun q => q.1 == c && q.2.1 == k) = some (c, k, op) →
    let eva : Word := match op with
      | .bst _ _ va _ => va
      | _ => 0
    exec (.leaSequenceTimeout c k) s = .next (raise (s.modLea (pkgOf c) (fun l =>
      { l with queue := l.queue.filter (fun y => !(y.1 == c && y.2.1 == k)) })) c k .t { code := cRemoteTimeout, eva := eva } x.pc 0)) ∧
  (∀ (s : State) (numbers : List (Nat × Nat)), (numbers.map (·.1)).Nodup → (numbers.map (·.2)).Nodup →
    (∀ x ∈ numbers, x.2 < 1024) → ∃ t, exec (.domainFormation numbers) s = .next t ∧
      (∀ p, (t.pkg p).formed = (numbers.map (·.2)).contains p) ∧
      ((∀ x ∈ numbers, x.1 = x.2) → t.mem = s.mem ∧ t.cores = s.cores ∧ t.net = s.net) ∧
      (∀ p q d, numbers = [(p, q)] → p ≠ q → Memory.wf s.mem → (d < 2 ^ 50 → t.byte (q * 2 ^ 50 + d) = s.byte (p * 2 ^ 50 + d)) ∧ t.net = [] ∧
        ∀ c, pkgOf c = q → t.core c = Core.reset)) ∧
  (∀ (s : State) (group folds : BitVec 16) (members : List Nat), members ≠ [] → members.length ≤ 32 → members.Nodup →
    (∀ m ∈ members, (s.pkg m).formed = true) → ∃ t, exec (.leaGroupFormation group { packages := members, folds := folds }) s = .next t ∧
      (∀ f : Fin 16, ∀ m ∈ members, (t.fold m f).packages = if bit folds f.val then members else (s.fold m f).packages) ∧
      ∀ i m, members[i]? = some m → (t.lea m).members = members ∧ (t.lea m).number = i ∧ (t.lea m).group = group ∧
        (t.lea m).hasLark = true ∧ (t.lea m).lark.holder = 0 ∧ (t.lea m).lark.next = 1 ∧ (t.lea m).applied = 0)

/-! ### The board -/

/-- 28 R485 to R490: a host access of a known job acts for the job's partition and is answered by its data, by a completion, or by
an error; one of an unknown job is refused and counted as 0x10; a send at a mailbox that the host may command is delivered
with the port and the endpoint in s13, and one that is dropped there returns an error. With no live port sends to the host
are held, and the first port that comes up takes them in order. A peer that offers what Table 28.1 asks is connected. The
form of the replies and events to a host is the choice of log 53. -/
def Obligations.HostAccesses : Prop :=
  ∀ (s : State) (p : Nat) (job : BitVec 24) (va : Word) (bytes : List Byte) (n : Nat) (port : Fin 4) (ip : BitVec 128),
    let x := s.pkg p
    let refused := fun (t : State) => t.modPkg p (fun y => { y with ueReplies := y.ueReplies ++ [[0]] })
    let replied := fun (t : State) (m : List Byte) => t.modPkg p (fun y => { y with ueReplies := y.ueReplies ++ [m] })
    let write := fun (t : State) => exec (.uetRmaWrite p job va bytes) s = .next t
    let read := fun (t : State) => exec (.uetRmaRead p job va n) s = .next t
    let send := fun (t : State) => exec (.uetMailboxSend p port job ip va bytes) s = .next t
    (x.uePorts ≠ 0 → jobPart s p job = none →
      write (refused (s.countPort p 0 0x10 1 none)) ∧ read (refused (s.countPort p 0 0x10 1 none))) ∧
    (∀ part, x.uePorts ≠ 0 → jobPart s p job = some part →
      let u : Requester := { pkg := p, id := { part := part, cls := 8 }, sup := false }
      (spaceOf va = 0xC0 → write (refused s) ∧ read (refused s)) ∧
      (spaceOf va ≠ 0xC0 →
        (engCheck s u va bytes = (s, none) → write (replied (engWrite s u va bytes) [2])) ∧
        (∀ t c, engCheck s u va bytes = (t, some c) → write (refused t)) ∧
        (∀ b, engRead s u va n = (s, .ok b) → read (replied s (1 :: b))) ∧
        (∀ t c, engRead s u va n = (t, .error c) → read (refused t)))) ∧
    (∀ part l cl pos ofs, bit x.uePorts port.val = true → jobPart s p job = some part → s.walk p part va = .leaf l →
      bytes.length ≤ 32 → spaceOf va ≠ 0xC0 → l.w = true → l.x = false → l.u = true → l.fmtOk = true →
      siteOf (l.pa va) l.geom2 = .mailbox cl pos ofs → cl / 256 = p → pos < 16 →
      (mayCommand s cl pos { part := part, cls := 8 } = false → send (refused (s.countDenial (l.pa va) part))) ∧
      (mayCommand s cl pos { part := part, cls := 8 } = true → (s.core (cl * 16 + pos)).halt = .none →
        let c := cl * 16 + pos
        let b := s.mailbox c (ofs / 4096)
        let m : MailMsg :=
          { args := payloadWords bytes, s13 := BitVec.ofNat 72 (2 ^ 63 + port.val * 256 + endpointOf s p ip job), part := part }
        (b.bind = .none → b.parked.length < 16 →
          send (replied (setMailbox s c (ofs / 4096) { b with parked := b.parked ++ [m] }) [2])) ∧
        (b.bind = .none → 16 ≤ b.parked.length → send (refused (s.countCore c 0x12 1 (some part)))) ∧
        (∀ k, b.bind = .slot k → send (replied (dispatchMail s c k m) [2])))) ∧
    (∀ o : UetOffer, bit x.uePorts port.val = true →
      let ok := o.aiFull = true ∧ o.reliable = true ∧ o.semanticOk = true ∧ o.congestionOk = true ∧ o.linkLayerOk = true ∧
        o.security = true ∧ o.payload ≤ 4096
      (ok → exec (.uetConnectionSetup p port o) s =
        .next (s.modPkg p (fun y => { y with connections := y.connections ++ [(port.val, o)] }))) ∧
      (¬ ok → exec (.uetConnectionSetup p port o) s = .next (refused s))) ∧
    exec (.ultraEthernetPortDown p port) s = .next (s.modPkg p (fun y => { y with uePorts := setBit y.uePorts port.val false })) ∧
    exec (.ultraEthernetPortUp p port) s = .next (s.modPkg p (fun y => { y with
      uePorts := setBit y.uePorts port.val true, hostSends := y.hostSends ++ y.heldSends, heldSends := [] }))

/-- 28 R491 to R496: a booted management core answers an unknown request with status 4, a configuration record with the first of its
checks that fails, and a sound one of a free partition by giving the partition its clusters, whose cores start with no strand
and the record's FCTL, its configuration and the record's minimum; it removes a partition through a teardown; it signs a
quote; it sets a die's power cap. At reset the boot ROM measures the first bank whose image verifies, or the second; the
package's cores, dies and memory are as at reset; with neither a signed image over Ultra Ethernet is taken. What a command
answers where the manual gives no form is the choice of logs 13, 33 and 34. -/
def Obligations.ManagementRequests : Prop :=
  (∀ (s : State) (p : Nat), (s.pkg p).booted = true → (s.pkg p).inReset = false → (s.pkg p).pendingCfg = none →
    (∀ code : BitVec 64, (code = 0 ∨ 4 < code.toNat) → exec (.mgmtUnknownRequest p code) s = .next (postResult s p 4 0 [])) ∧
    (∀ body sig, cfgStatus s p body sig ≠ 0 → exec (.mgmtApplyConfig p body sig) s =
      .next (postResult s p (cfgStatus s p body sig) (cfgPart body) [])) ∧
    (∀ body sig, cfgStatus s p body sig = 0 → s.partCfg p (cfgPart body) = none →
      ∃ t scales, exec (.mgmtApplyConfig p body sig) s = .next t ∧
        t.partCfg p (cfgPart body) = some { cfgOf body with scales := scales } ∧
        smGet 0 (t.pkg p).minima (cfgPart body).toNat = BitVec.ofNat 32 (bits (cfgWord body 8) 0 32) ∧
        ∀ k ∈ cfgClusters body, ∀ i < 16,
          let co := t.core ((p * 256 + k) * 16 + i)
          co.part = cfgPart body ∧ co.assigned = true ∧ co.fctl = cfgWord body 0xA0 ∧ co.strands = [] ∧ co.routines = [] ∧
            co.seed = 1 ∧ co.fstat = 0) ∧
    (∀ part, s.partCfg p part = none → exec (.mgmtRemovePartition p part) s = .next (postResult s p 0 part [])) ∧
    (∀ part cfg, s.partCfg p part = some cfg → cfg.stoppedAt = none → cfg.released = false →
      ∃ t, exec (.mgmtRemovePartition p part) s = .next t ∧
        (part ≠ 63 → ∀ i id, id.part = part → t.rights (p, i) id = 0) ∧
        ∀ c, partCores s p part = [c] → (t.core c).halt = .stopped ∧ (t.core c).assigned = false ∧ (t.core c).staging = []) ∧
    (∀ nonce part, nonce.length = 32 → exec (.mgmtAttestationQuote p nonce part) s =
      .next (hostSend s p 5 (quoteBody s p nonce part ++
        Config.sign256f (shake256 (Config.identitySeed p ++ (s.pkg p).bm ++ ascii "ATK") 96) (quoteBody s p nonce part)))) ∧
    (∀ (d : Fin 4) (w : BitVec 16), ∃ t, exec (.mgmtSetPowerCap p d w) s = .next t ∧
      t.die (p * 4 + d.val) = { s.die (p * 4 + d.val) with hostCap := w.toNat } ∧ t.mem = s.mem ∧ t.cores = s.cores)) ∧
  (∀ (s : State) (p : Nat) (a b : BootImage), (s.pkg p).inReset = false →
    let ok := fun (im : BootImage) => shake256 im.key (s.pkg p).bootHash.length = (s.pkg p).bootHash ∧
      Config.verify256s im.key im.bytes im.signature = true ∧ (s.pkg p).fused.toNat ≤ im.secver
    ∃ t, exec (.resetBoot p a b) s = .next t ∧ (t.pkg p).boots = (s.pkg p).boots + 1 ∧
      (∀ c, pkgOf c = p → t.core c = Core.reset) ∧ (∀ c, pkgOf c ≠ p → t.core c = s.core c) ∧
      (∀ d, d / 4 = p → t.die d = Die.reset) ∧
      (∀ q, t.byte q = if q / 2 ^ 50 = p then 0 else s.byte q) ∧
      (ok a → (t.pkg p).booted = true ∧ (t.pkg p).bm = shake256 (List.replicate 64 0 ++ shake256 a.bytes 64) 64) ∧
      (¬ ok a → ok b → (t.pkg p).booted = true ∧ (t.pkg p).bm = shake256 (List.replicate 64 0 ++ shake256 b.bytes 64) 64) ∧
      (¬ ok a → ¬ ok b → (t.pkg p).booted = false)) ∧
  (∀ (s : State) (p : Nat) (im : BootImage), (s.pkg p).booted = false → (s.pkg p).inReset = false → (s.pkg p).boots ≠ 0 →
    bit (s.pkg p).uePorts 0 = true → imageOk (s.pkg p) im = true →
    exec (.signedImageViaUltraEthernet p im) s = .next (s.setPkg p { s.pkg p with
      bm := shake256 ((s.pkg p).bm ++ shake256 im.bytes 64) 64, booted := true
      fused := if im.advances then BitVec.ofNat 32 im.secver else (s.pkg p).fused }))

/-- 28 R497 to R500: telemetry takes the words of the conversion stages; a bus outside 720 to 880 V holds the package in reset and
reports connector 24, and the reset ends when it is back; the boiling limit is renewed, and 400 W one second after its last
renewal; a die throttles above 105.00 °C until it is below it, and at 115.00 °C stops, with the partitions on it fenced; a
connector that becomes degraded, or no longer is, posts a record, and a degraded one posts again every 60 s. -/
def Obligations.PowerAndHeat : Prop :=
  ∀ (s : State) (p : Nat),
    (∀ ws : List (BitVec 32), ws.length = 42 → ∃ t, exec (.powerTelemetryRefresh p ws) s = .next t ∧
      (∀ i : Fin 42, (t.pkg p).telemetry.get i = ws.getD i.val 0) ∧ t.cores = s.cores ∧ t.mem = s.mem) ∧
    (∀ mv, (mv < 720000 ∨ 880000 < mv) → (s.pkg p).inReset = false → ∃ t, exec (.busVoltageFault p mv) s = .next t ∧
      (t.pkg p).inReset = true ∧ (∀ c, pkgOf c = p → t.core c = Core.reset) ∧ (t.connector p 24).degraded = true) ∧
    (∀ mv, 720000 ≤ mv → mv ≤ 880000 →
      exec (.busVoltageRecovery p mv) s = .next (s.modPkg p (fun x => { x with inReset := false }))) ∧
    (∀ d : Fin 4,
      let n := p * 4 + d.val
      let x := s.die n
      (∀ w, exec (.boilingLimitRenewal p d w) s =
        .next (s.modDie n (fun y => { y with boil := w, boilAt := s.now, boilLapsed := false }))) ∧
      (x.boilLapsed = false → x.boilAt + 1800000000 < s.now →
        exec (.boilingLimitLapse p d) s = .next (s.setDie n { x with boil := 400, boilLapsed := true })) ∧
      (∀ c, 10500 < c → exec (.thermalThrottle p d c) s = .next (s.modDie n (fun y => { y with hot := true }))) ∧
      (∀ c, c < 10500 → exec (.thermalThrottleEnd p d c) s = .next (s.modDie n (fun y => { y with hot := false }))) ∧
      (∀ c, 11500 ≤ c → x.stopped = false → ∃ t, exec (.thermalStop p d c) s = .next t ∧
        (diePartitions s p d = [] → t = s.modDie n (fun y => { y with stopped := true })) ∧
        (∀ part, diePartitions s p d = [part] →
          t = fencePartition (s.modDie n (fun y => { y with stopped := true })) p part))) ∧
    (∀ conn value base (wm : BitVec 16), (conn < 22 ∨ (24 ≤ conn ∧ conn < 30)) →
      let c := s.connector p conn
      let b := c.baseline.getD base
      let bad := decide (if conn < 22 then value < 300 else 3 * b < 2 * value)
      let c1 : Connector := { c with degraded := bad, baseline := some b, value := value, wmask := if conn < 22 then wm else 0 }
      exec (.connectorCheck p conn value base wm) s =
        .next (if bad = c.degraded then s.setConnector p conn c1 else postDegradation s p conn c1)) ∧
    (∀ conn, (s.connector p conn).degraded = true → (s.connector p conn).postedAt + 108000000000 ≤ s.now →
      exec (.degradationReport p conn) s = .next (postDegradation s p conn (s.connector p conn)))
end

