-- ==== Sys2Proof/Laws/SMap.lean ====
section
/-! SUPPORT. Laws of sparse tables: a read after a write, a write over a write, the canonical form kept. -/

namespace Sys2Proof.Machine

variable {β : Type}

@[simp] theorem smGet_nil (d : β) (k : Nat) : smGet d [] k = d := rfl

@[simp] theorem smGet_smPut_self (d : β) (m : SMap β) (k : Nat) (v : β) : smGet d (smPut m k v) k = v := by
  induction m with
  | nil => simp [smPut, smGet]
  | cons p t ih =>
    obtain ⟨j, u⟩ := p
    by_cases h : j = k
    · simp [smPut, smGet, h]
    · by_cases h2 : k < j <;> simp [smPut, smGet, h, h2, ih]

theorem smGet_smPut_ne (d : β) (m : SMap β) {k j : Nat} (v : β) (h : j ≠ k) :
    smGet d (smPut m k v) j = smGet d m j := by
  induction m with
  | nil => simp [smPut, smGet, h.symm]
  | cons p t ih =>
    obtain ⟨i, u⟩ := p
    by_cases h1 : i = k
    · subst h1; simp [smPut, smGet, h.symm]
    · by_cases h2 : k < i
      · simp [smPut, smGet, h1, h2, h.symm]
      · by_cases h3 : i = j
        · subst h3; simp [smPut, smGet, h1, h2]
        · simp [smPut, smGet, h1, h2, h3, ih]

theorem smGet_smPut (d : β) (m : SMap β) (k j : Nat) (v : β) :
    smGet d (smPut m k v) j = if j = k then v else smGet d m j := by
  split
  · next h => rw [h, smGet_smPut_self]
  · next h => exact smGet_smPut_ne d m v h

@[simp] theorem smPut_smPut (m : SMap β) (k : Nat) (u v : β) : smPut (smPut m k u) k v = smPut m k v := by
  induction m with
  | nil => simp [smPut]
  | cons p t ih =>
    obtain ⟨j, w⟩ := p
    by_cases h : j = k
    · simp [smPut, h]
    · by_cases h2 : k < j <;> simp [smPut, h, h2, ih]

@[simp] theorem smGet_smErase_self (d : β) (m : SMap β) (k : Nat) : smGet d (smErase m k) k = d := by
  induction m with
  | nil => rfl
  | cons p t ih =>
    obtain ⟨j, u⟩ := p
    by_cases h : j = k <;> simp [smErase, smGet, h, ih]

theorem smGet_smErase_ne (d : β) (m : SMap β) {k j : Nat} (h : j ≠ k) : smGet d (smErase m k) j = smGet d m j := by
  induction m with
  | nil => rfl
  | cons p t ih =>
    obtain ⟨i, u⟩ := p
    by_cases h1 : i = k
    · subst h1; simp [smErase, smGet, h.symm, ih]
    · by_cases h2 : i = j
      · subst h2; simp [smErase, smGet, h1]
      · simp [smErase, smGet, h1, h2, ih]

theorem smGet_smErase (d : β) (m : SMap β) (k j : Nat) :
    smGet d (smErase m k) j = if j = k then d else smGet d m j := by
  split
  · next h => rw [h, smGet_smErase_self]
  · next h => exact smGet_smErase_ne d m h

variable [DecidableEq β]

theorem smGet_smSet (d : β) (m : SMap β) (k j : Nat) (v : β) :
    smGet d (smSet d m k v) j = if j = k then v else smGet d m j := by
  unfold smSet
  split
  · next h => rw [smGet_smErase]; split <;> simp_all
  · rw [smGet_smPut]

@[simp] theorem smGet_smSet_self (d : β) (m : SMap β) (k : Nat) (v : β) : smGet d (smSet d m k v) k = v := by
  simp [smGet_smSet]

theorem smGet_smSet_ne (d : β) (m : SMap β) {k j : Nat} (v : β) (h : j ≠ k) :
    smGet d (smSet d m k v) j = smGet d m j := by
  simp [smGet_smSet, h]

theorem smWfFrom_mono {d : β} {m : SMap β} {lo lo' : Nat} (h : lo' ≤ lo) (w : smWfFrom d lo m = true) :
    smWfFrom d lo' m = true := by
  cases m with
  | nil => rfl
  | cons p t =>
    obtain ⟨k, v⟩ := p
    simp only [smWfFrom, Bool.and_eq_true, decide_eq_true_eq] at w ⊢
    exact ⟨⟨h.trans w.1.1, w.1.2⟩, w.2⟩

theorem smWfFrom_smErase {d : β} {m : SMap β} {lo : Nat} (k : Nat) (w : smWfFrom d lo m = true) :
    smWfFrom d lo (smErase m k) = true := by
  induction m generalizing lo with
  | nil => rfl
  | cons p t ih =>
    obtain ⟨j, v⟩ := p
    simp only [smWfFrom, Bool.and_eq_true, decide_eq_true_eq] at w
    by_cases h : j = k
    · simp only [smErase, h, if_true]
      exact smWfFrom_mono (by omega) (ih w.2)
    · simp only [smErase, h, if_false, smWfFrom, Bool.and_eq_true, decide_eq_true_eq]
      exact ⟨w.1, ih w.2⟩

theorem smWfFrom_smPut {d : β} {m : SMap β} {lo k : Nat} {v : β} (hk : lo ≤ k) (hv : v ≠ d)
    (w : smWfFrom d lo m = true) : smWfFrom d lo (smPut m k v) = true := by
  induction m generalizing lo with
  | nil => simp [smPut, smWfFrom, hk, hv]
  | cons p t ih =>
    obtain ⟨j, u⟩ := p
    simp only [smWfFrom, Bool.and_eq_true, decide_eq_true_eq] at w
    by_cases h : j = k
    · simp only [smPut, h, if_true, smWfFrom, Bool.and_eq_true, decide_eq_true_eq]
      exact ⟨⟨hk, hv⟩, h ▸ w.2⟩
    · by_cases h2 : k < j
      · simp only [smPut, h, h2, if_true, if_false, smWfFrom, Bool.and_eq_true, decide_eq_true_eq]
        exact ⟨⟨hk, hv⟩, ⟨by omega, w.1.2⟩, w.2⟩
      · simp only [smPut, h, h2, if_false, smWfFrom, Bool.and_eq_true, decide_eq_true_eq]
        exact ⟨w.1, ih (by omega) w.2⟩

/-- A write keeps the canonical form. -/
theorem smWf_smSet {d : β} {m : SMap β} (k : Nat) (v : β) (w : smWf d m = true) : smWf d (smSet d m k v) = true := by
  unfold smSet
  split
  · exact smWfFrom_smErase k w
  · next h => exact smWfFrom_smPut (Nat.zero_le k) h w

/-- Removing entries keeps the canonical form. -/
theorem smWfFrom_filter {d : β} {m : SMap β} {lo : Nat} (p : Nat × β → Bool) (w : smWfFrom d lo m = true) :
    smWfFrom d lo (m.filter p) = true := by
  induction m generalizing lo with
  | nil => rfl
  | cons q t ih =>
    obtain ⟨j, u⟩ := q
    simp only [smWfFrom, Bool.and_eq_true, decide_eq_true_eq] at w
    rw [List.filter_cons]
    split
    · simp only [smWfFrom, Bool.and_eq_true, decide_eq_true_eq]
      exact ⟨w.1, ih w.2⟩
    · exact smWfFrom_mono (by omega) (ih w.2)

theorem smWf_filter {d : β} {m : SMap β} (p : Nat × β → Bool) (w : smWf d m = true) : smWf d (m.filter p) = true :=
  smWfFrom_filter p w

end Sys2Proof.Machine
end

