-- ==== Sys2Proof/Laws/State.lean ====
section
/-! SUPPORT. Laws of the state: each field under each update, each accessor under each update. -/

namespace Sys2Proof.Machine

/-! ### Fields -/

@[simp] theorem State.setCore_mem (s : State) (c : Nat) (x : Core) : (s.setCore c x).mem = s.mem := rfl
@[simp] theorem State.setCore_poison (s : State) (c : Nat) (x : Core) : (s.setCore c x).poison = s.poison := rfl
@[simp] theorem State.setCore_poisonDue (s : State) (c : Nat) (x : Core) : (s.setCore c x).poisonDue = s.poisonDue := rfl
@[simp] theorem State.setCore_clusters (s : State) (c : Nat) (x : Core) : (s.setCore c x).clusters = s.clusters := rfl
@[simp] theorem State.setCore_dies (s : State) (c : Nat) (x : Core) : (s.setCore c x).dies = s.dies := rfl
@[simp] theorem State.setCore_packages (s : State) (c : Nat) (x : Core) : (s.setCore c x).packages = s.packages := rfl
@[simp] theorem State.setCore_net (s : State) (c : Nat) (x : Core) : (s.setCore c x).net = s.net := rfl
@[simp] theorem State.setCore_kept (s : State) (c : Nat) (x : Core) : (s.setCore c x).kept = s.kept := rfl
@[simp] theorem State.setCore_seqs (s : State) (c : Nat) (x : Core) : (s.setCore c x).seqs = s.seqs := rfl
@[simp] theorem State.setCore_psent (s : State) (c : Nat) (x : Core) : (s.setCore c x).psent = s.psent := rfl
@[simp] theorem State.setCore_pdone (s : State) (c : Nat) (x : Core) : (s.setCore c x).pdone = s.pdone := rfl
@[simp] theorem State.setCore_windows (s : State) (c : Nat) (x : Core) : (s.setCore c x).windows = s.windows := rfl
@[simp] theorem State.setCore_now (s : State) (c : Nat) (x : Core) : (s.setCore c x).now = s.now := rfl
@[simp] theorem State.setCore_turn (s : State) (c : Nat) (x : Core) : (s.setCore c x).turn = s.turn := rfl
@[simp] theorem State.setCore_tick (s : State) (c : Nat) (x : Core) : (s.setCore c x).tick = s.tick := rfl
@[simp] theorem State.setCluster_mem (s : State) (c : Nat) (x : Cluster) : (s.setCluster c x).mem = s.mem := rfl
@[simp] theorem State.setCluster_poison (s : State) (c : Nat) (x : Cluster) : (s.setCluster c x).poison = s.poison := rfl
@[simp] theorem State.setCluster_poisonDue (s : State) (c : Nat) (x : Cluster) : (s.setCluster c x).poisonDue = s.poisonDue := rfl
@[simp] theorem State.setCluster_cores (s : State) (c : Nat) (x : Cluster) : (s.setCluster c x).cores = s.cores := rfl
@[simp] theorem State.setCluster_dies (s : State) (c : Nat) (x : Cluster) : (s.setCluster c x).dies = s.dies := rfl
@[simp] theorem State.setCluster_packages (s : State) (c : Nat) (x : Cluster) : (s.setCluster c x).packages = s.packages := rfl
@[simp] theorem State.setCluster_net (s : State) (c : Nat) (x : Cluster) : (s.setCluster c x).net = s.net := rfl
@[simp] theorem State.setCluster_kept (s : State) (c : Nat) (x : Cluster) : (s.setCluster c x).kept = s.kept := rfl
@[simp] theorem State.setCluster_seqs (s : State) (c : Nat) (x : Cluster) : (s.setCluster c x).seqs = s.seqs := rfl
@[simp] theorem State.setCluster_psent (s : State) (c : Nat) (x : Cluster) : (s.setCluster c x).psent = s.psent := rfl
@[simp] theorem State.setCluster_pdone (s : State) (c : Nat) (x : Cluster) : (s.setCluster c x).pdone = s.pdone := rfl
@[simp] theorem State.setCluster_windows (s : State) (c : Nat) (x : Cluster) : (s.setCluster c x).windows = s.windows := rfl
@[simp] theorem State.setCluster_now (s : State) (c : Nat) (x : Cluster) : (s.setCluster c x).now = s.now := rfl
@[simp] theorem State.setCluster_turn (s : State) (c : Nat) (x : Cluster) : (s.setCluster c x).turn = s.turn := rfl
@[simp] theorem State.setCluster_tick (s : State) (c : Nat) (x : Cluster) : (s.setCluster c x).tick = s.tick := rfl
@[simp] theorem State.setDie_mem (s : State) (d : Nat) (x : Die) : (s.setDie d x).mem = s.mem := rfl
@[simp] theorem State.setDie_poison (s : State) (d : Nat) (x : Die) : (s.setDie d x).poison = s.poison := rfl
@[simp] theorem State.setDie_poisonDue (s : State) (d : Nat) (x : Die) : (s.setDie d x).poisonDue = s.poisonDue := rfl
@[simp] theorem State.setDie_cores (s : State) (d : Nat) (x : Die) : (s.setDie d x).cores = s.cores := rfl
@[simp] theorem State.setDie_clusters (s : State) (d : Nat) (x : Die) : (s.setDie d x).clusters = s.clusters := rfl
@[simp] theorem State.setDie_packages (s : State) (d : Nat) (x : Die) : (s.setDie d x).packages = s.packages := rfl
@[simp] theorem State.setDie_net (s : State) (d : Nat) (x : Die) : (s.setDie d x).net = s.net := rfl
@[simp] theorem State.setDie_kept (s : State) (d : Nat) (x : Die) : (s.setDie d x).kept = s.kept := rfl
@[simp] theorem State.setDie_seqs (s : State) (d : Nat) (x : Die) : (s.setDie d x).seqs = s.seqs := rfl
@[simp] theorem State.setDie_psent (s : State) (d : Nat) (x : Die) : (s.setDie d x).psent = s.psent := rfl
@[simp] theorem State.setDie_pdone (s : State) (d : Nat) (x : Die) : (s.setDie d x).pdone = s.pdone := rfl
@[simp] theorem State.setDie_windows (s : State) (d : Nat) (x : Die) : (s.setDie d x).windows = s.windows := rfl
@[simp] theorem State.setDie_now (s : State) (d : Nat) (x : Die) : (s.setDie d x).now = s.now := rfl
@[simp] theorem State.setDie_turn (s : State) (d : Nat) (x : Die) : (s.setDie d x).turn = s.turn := rfl
@[simp] theorem State.setDie_tick (s : State) (d : Nat) (x : Die) : (s.setDie d x).tick = s.tick := rfl
@[simp] theorem State.setPkg_mem (s : State) (p : Nat) (x : Package) : (s.setPkg p x).mem = s.mem := rfl
@[simp] theorem State.setPkg_poison (s : State) (p : Nat) (x : Package) : (s.setPkg p x).poison = s.poison := rfl
@[simp] theorem State.setPkg_poisonDue (s : State) (p : Nat) (x : Package) : (s.setPkg p x).poisonDue = s.poisonDue := rfl
@[simp] theorem State.setPkg_cores (s : State) (p : Nat) (x : Package) : (s.setPkg p x).cores = s.cores := rfl
@[simp] theorem State.setPkg_clusters (s : State) (p : Nat) (x : Package) : (s.setPkg p x).clusters = s.clusters := rfl
@[simp] theorem State.setPkg_dies (s : State) (p : Nat) (x : Package) : (s.setPkg p x).dies = s.dies := rfl
@[simp] theorem State.setPkg_net (s : State) (p : Nat) (x : Package) : (s.setPkg p x).net = s.net := rfl
@[simp] theorem State.setPkg_kept (s : State) (p : Nat) (x : Package) : (s.setPkg p x).kept = s.kept := rfl
@[simp] theorem State.setPkg_seqs (s : State) (p : Nat) (x : Package) : (s.setPkg p x).seqs = s.seqs := rfl
@[simp] theorem State.setPkg_psent (s : State) (p : Nat) (x : Package) : (s.setPkg p x).psent = s.psent := rfl
@[simp] theorem State.setPkg_pdone (s : State) (p : Nat) (x : Package) : (s.setPkg p x).pdone = s.pdone := rfl
@[simp] theorem State.setPkg_windows (s : State) (p : Nat) (x : Package) : (s.setPkg p x).windows = s.windows := rfl
@[simp] theorem State.setPkg_now (s : State) (p : Nat) (x : Package) : (s.setPkg p x).now = s.now := rfl
@[simp] theorem State.setPkg_turn (s : State) (p : Nat) (x : Package) : (s.setPkg p x).turn = s.turn := rfl
@[simp] theorem State.setPkg_tick (s : State) (p : Nat) (x : Package) : (s.setPkg p x).tick = s.tick := rfl
@[simp] theorem State.modCore_mem (s : State) (c : Nat) (f : Core → Core) : (s.modCore c f).mem = s.mem := rfl
@[simp] theorem State.modCore_poison (s : State) (c : Nat) (f : Core → Core) : (s.modCore c f).poison = s.poison := rfl
@[simp] theorem State.modCore_poisonDue (s : State) (c : Nat) (f : Core → Core) : (s.modCore c f).poisonDue = s.poisonDue := rfl
@[simp] theorem State.modCore_clusters (s : State) (c : Nat) (f : Core → Core) : (s.modCore c f).clusters = s.clusters := rfl
@[simp] theorem State.modCore_dies (s : State) (c : Nat) (f : Core → Core) : (s.modCore c f).dies = s.dies := rfl
@[simp] theorem State.modCore_packages (s : State) (c : Nat) (f : Core → Core) : (s.modCore c f).packages = s.packages := rfl
@[simp] theorem State.modCore_net (s : State) (c : Nat) (f : Core → Core) : (s.modCore c f).net = s.net := rfl
@[simp] theorem State.modCore_kept (s : State) (c : Nat) (f : Core → Core) : (s.modCore c f).kept = s.kept := rfl
@[simp] theorem State.modCore_seqs (s : State) (c : Nat) (f : Core → Core) : (s.modCore c f).seqs = s.seqs := rfl
@[simp] theorem State.modCore_psent (s : State) (c : Nat) (f : Core → Core) : (s.modCore c f).psent = s.psent := rfl
@[simp] theorem State.modCore_pdone (s : State) (c : Nat) (f : Core → Core) : (s.modCore c f).pdone = s.pdone := rfl
@[simp] theorem State.modCore_windows (s : State) (c : Nat) (f : Core → Core) : (s.modCore c f).windows = s.windows := rfl
@[simp] theorem State.modCore_now (s : State) (c : Nat) (f : Core → Core) : (s.modCore c f).now = s.now := rfl
@[simp] theorem State.modCore_turn (s : State) (c : Nat) (f : Core → Core) : (s.modCore c f).turn = s.turn := rfl
@[simp] theorem State.modCore_tick (s : State) (c : Nat) (f : Core → Core) : (s.modCore c f).tick = s.tick := rfl
@[simp] theorem State.modCluster_mem (s : State) (c : Nat) (f : Cluster → Cluster) : (s.modCluster c f).mem = s.mem := rfl
@[simp] theorem State.modCluster_poison (s : State) (c : Nat) (f : Cluster → Cluster) : (s.modCluster c f).poison = s.poison := rfl
@[simp] theorem State.modCluster_poisonDue (s : State) (c : Nat) (f : Cluster → Cluster) : (s.modCluster c f).poisonDue = s.poisonDue := rfl
@[simp] theorem State.modCluster_cores (s : State) (c : Nat) (f : Cluster → Cluster) : (s.modCluster c f).cores = s.cores := rfl
@[simp] theorem State.modCluster_dies (s : State) (c : Nat) (f : Cluster → Cluster) : (s.modCluster c f).dies = s.dies := rfl
@[simp] theorem State.modCluster_packages (s : State) (c : Nat) (f : Cluster → Cluster) : (s.modCluster c f).packages = s.packages := rfl
@[simp] theorem State.modCluster_net (s : State) (c : Nat) (f : Cluster → Cluster) : (s.modCluster c f).net = s.net := rfl
@[simp] theorem State.modCluster_kept (s : State) (c : Nat) (f : Cluster → Cluster) : (s.modCluster c f).kept = s.kept := rfl
@[simp] theorem State.modCluster_seqs (s : State) (c : Nat) (f : Cluster → Cluster) : (s.modCluster c f).seqs = s.seqs := rfl
@[simp] theorem State.modCluster_psent (s : State) (c : Nat) (f : Cluster → Cluster) : (s.modCluster c f).psent = s.psent := rfl
@[simp] theorem State.modCluster_pdone (s : State) (c : Nat) (f : Cluster → Cluster) : (s.modCluster c f).pdone = s.pdone := rfl
@[simp] theorem State.modCluster_windows (s : State) (c : Nat) (f : Cluster → Cluster) : (s.modCluster c f).windows = s.windows := rfl
@[simp] theorem State.modCluster_now (s : State) (c : Nat) (f : Cluster → Cluster) : (s.modCluster c f).now = s.now := rfl
@[simp] theorem State.modCluster_turn (s : State) (c : Nat) (f : Cluster → Cluster) : (s.modCluster c f).turn = s.turn := rfl
@[simp] theorem State.modCluster_tick (s : State) (c : Nat) (f : Cluster → Cluster) : (s.modCluster c f).tick = s.tick := rfl
@[simp] theorem State.modDie_mem (s : State) (d : Nat) (f : Die → Die) : (s.modDie d f).mem = s.mem := rfl
@[simp] theorem State.modDie_poison (s : State) (d : Nat) (f : Die → Die) : (s.modDie d f).poison = s.poison := rfl
@[simp] theorem State.modDie_poisonDue (s : State) (d : Nat) (f : Die → Die) : (s.modDie d f).poisonDue = s.poisonDue := rfl
@[simp] theorem State.modDie_cores (s : State) (d : Nat) (f : Die → Die) : (s.modDie d f).cores = s.cores := rfl
@[simp] theorem State.modDie_clusters (s : State) (d : Nat) (f : Die → Die) : (s.modDie d f).clusters = s.clusters := rfl
@[simp] theorem State.modDie_packages (s : State) (d : Nat) (f : Die → Die) : (s.modDie d f).packages = s.packages := rfl
@[simp] theorem State.modDie_net (s : State) (d : Nat) (f : Die → Die) : (s.modDie d f).net = s.net := rfl
@[simp] theorem State.modDie_kept (s : State) (d : Nat) (f : Die → Die) : (s.modDie d f).kept = s.kept := rfl
@[simp] theorem State.modDie_seqs (s : State) (d : Nat) (f : Die → Die) : (s.modDie d f).seqs = s.seqs := rfl
@[simp] theorem State.modDie_psent (s : State) (d : Nat) (f : Die → Die) : (s.modDie d f).psent = s.psent := rfl
@[simp] theorem State.modDie_pdone (s : State) (d : Nat) (f : Die → Die) : (s.modDie d f).pdone = s.pdone := rfl
@[simp] theorem State.modDie_windows (s : State) (d : Nat) (f : Die → Die) : (s.modDie d f).windows = s.windows := rfl
@[simp] theorem State.modDie_now (s : State) (d : Nat) (f : Die → Die) : (s.modDie d f).now = s.now := rfl
@[simp] theorem State.modDie_turn (s : State) (d : Nat) (f : Die → Die) : (s.modDie d f).turn = s.turn := rfl
@[simp] theorem State.modDie_tick (s : State) (d : Nat) (f : Die → Die) : (s.modDie d f).tick = s.tick := rfl
@[simp] theorem State.modPkg_mem (s : State) (p : Nat) (f : Package → Package) : (s.modPkg p f).mem = s.mem := rfl
@[simp] theorem State.modPkg_poison (s : State) (p : Nat) (f : Package → Package) : (s.modPkg p f).poison = s.poison := rfl
@[simp] theorem State.modPkg_poisonDue (s : State) (p : Nat) (f : Package → Package) : (s.modPkg p f).poisonDue = s.poisonDue := rfl
@[simp] theorem State.modPkg_cores (s : State) (p : Nat) (f : Package → Package) : (s.modPkg p f).cores = s.cores := rfl
@[simp] theorem State.modPkg_clusters (s : State) (p : Nat) (f : Package → Package) : (s.modPkg p f).clusters = s.clusters := rfl
@[simp] theorem State.modPkg_dies (s : State) (p : Nat) (f : Package → Package) : (s.modPkg p f).dies = s.dies := rfl
@[simp] theorem State.modPkg_net (s : State) (p : Nat) (f : Package → Package) : (s.modPkg p f).net = s.net := rfl
@[simp] theorem State.modPkg_kept (s : State) (p : Nat) (f : Package → Package) : (s.modPkg p f).kept = s.kept := rfl
@[simp] theorem State.modPkg_seqs (s : State) (p : Nat) (f : Package → Package) : (s.modPkg p f).seqs = s.seqs := rfl
@[simp] theorem State.modPkg_psent (s : State) (p : Nat) (f : Package → Package) : (s.modPkg p f).psent = s.psent := rfl
@[simp] theorem State.modPkg_pdone (s : State) (p : Nat) (f : Package → Package) : (s.modPkg p f).pdone = s.pdone := rfl
@[simp] theorem State.modPkg_windows (s : State) (p : Nat) (f : Package → Package) : (s.modPkg p f).windows = s.windows := rfl
@[simp] theorem State.modPkg_now (s : State) (p : Nat) (f : Package → Package) : (s.modPkg p f).now = s.now := rfl
@[simp] theorem State.modPkg_turn (s : State) (p : Nat) (f : Package → Package) : (s.modPkg p f).turn = s.turn := rfl
@[simp] theorem State.modPkg_tick (s : State) (p : Nat) (f : Package → Package) : (s.modPkg p f).tick = s.tick := rfl
@[simp] theorem State.putByte_poison (s : State) (pa : Nat) (b : Byte) : (s.putByte pa b).poison = s.poison := rfl
@[simp] theorem State.putByte_poisonDue (s : State) (pa : Nat) (b : Byte) : (s.putByte pa b).poisonDue = s.poisonDue := rfl
@[simp] theorem State.putByte_cores (s : State) (pa : Nat) (b : Byte) : (s.putByte pa b).cores = s.cores := rfl
@[simp] theorem State.putByte_clusters (s : State) (pa : Nat) (b : Byte) : (s.putByte pa b).clusters = s.clusters := rfl
@[simp] theorem State.putByte_dies (s : State) (pa : Nat) (b : Byte) : (s.putByte pa b).dies = s.dies := rfl
@[simp] theorem State.putByte_packages (s : State) (pa : Nat) (b : Byte) : (s.putByte pa b).packages = s.packages := rfl
@[simp] theorem State.putByte_net (s : State) (pa : Nat) (b : Byte) : (s.putByte pa b).net = s.net := rfl
@[simp] theorem State.putByte_kept (s : State) (pa : Nat) (b : Byte) : (s.putByte pa b).kept = s.kept := rfl
@[simp] theorem State.putByte_seqs (s : State) (pa : Nat) (b : Byte) : (s.putByte pa b).seqs = s.seqs := rfl
@[simp] theorem State.putByte_psent (s : State) (pa : Nat) (b : Byte) : (s.putByte pa b).psent = s.psent := rfl
@[simp] theorem State.putByte_pdone (s : State) (pa : Nat) (b : Byte) : (s.putByte pa b).pdone = s.pdone := rfl
@[simp] theorem State.putByte_windows (s : State) (pa : Nat) (b : Byte) : (s.putByte pa b).windows = s.windows := rfl
@[simp] theorem State.putByte_now (s : State) (pa : Nat) (b : Byte) : (s.putByte pa b).now = s.now := rfl
@[simp] theorem State.putByte_turn (s : State) (pa : Nat) (b : Byte) : (s.putByte pa b).turn = s.turn := rfl
@[simp] theorem State.putByte_tick (s : State) (pa : Nat) (b : Byte) : (s.putByte pa b).tick = s.tick := rfl
@[simp] theorem State.setStrand_mem (s : State) (c k : Nat) (x : Strand) : (s.setStrand c k x).mem = s.mem := rfl
@[simp] theorem State.setStrand_poison (s : State) (c k : Nat) (x : Strand) : (s.setStrand c k x).poison = s.poison := rfl
@[simp] theorem State.setStrand_poisonDue (s : State) (c k : Nat) (x : Strand) : (s.setStrand c k x).poisonDue = s.poisonDue := rfl
@[simp] theorem State.setStrand_clusters (s : State) (c k : Nat) (x : Strand) : (s.setStrand c k x).clusters = s.clusters := rfl
@[simp] theorem State.setStrand_dies (s : State) (c k : Nat) (x : Strand) : (s.setStrand c k x).dies = s.dies := rfl
@[simp] theorem State.setStrand_packages (s : State) (c k : Nat) (x : Strand) : (s.setStrand c k x).packages = s.packages := rfl
@[simp] theorem State.setStrand_net (s : State) (c k : Nat) (x : Strand) : (s.setStrand c k x).net = s.net := rfl
@[simp] theorem State.setStrand_kept (s : State) (c k : Nat) (x : Strand) : (s.setStrand c k x).kept = s.kept := rfl
@[simp] theorem State.setStrand_seqs (s : State) (c k : Nat) (x : Strand) : (s.setStrand c k x).seqs = s.seqs := rfl
@[simp] theorem State.setStrand_psent (s : State) (c k : Nat) (x : Strand) : (s.setStrand c k x).psent = s.psent := rfl
@[simp] theorem State.setStrand_pdone (s : State) (c k : Nat) (x : Strand) : (s.setStrand c k x).pdone = s.pdone := rfl
@[simp] theorem State.setStrand_windows (s : State) (c k : Nat) (x : Strand) : (s.setStrand c k x).windows = s.windows := rfl
@[simp] theorem State.setStrand_now (s : State) (c k : Nat) (x : Strand) : (s.setStrand c k x).now = s.now := rfl
@[simp] theorem State.setStrand_turn (s : State) (c k : Nat) (x : Strand) : (s.setStrand c k x).turn = s.turn := rfl
@[simp] theorem State.setStrand_tick (s : State) (c k : Nat) (x : Strand) : (s.setStrand c k x).tick = s.tick := rfl
@[simp] theorem State.dropStrand_mem (s : State) (c k : Nat) : (s.dropStrand c k).mem = s.mem := rfl
@[simp] theorem State.dropStrand_poison (s : State) (c k : Nat) : (s.dropStrand c k).poison = s.poison := rfl
@[simp] theorem State.dropStrand_poisonDue (s : State) (c k : Nat) : (s.dropStrand c k).poisonDue = s.poisonDue := rfl
@[simp] theorem State.dropStrand_clusters (s : State) (c k : Nat) : (s.dropStrand c k).clusters = s.clusters := rfl
@[simp] theorem State.dropStrand_dies (s : State) (c k : Nat) : (s.dropStrand c k).dies = s.dies := rfl
@[simp] theorem State.dropStrand_packages (s : State) (c k : Nat) : (s.dropStrand c k).packages = s.packages := rfl
@[simp] theorem State.dropStrand_net (s : State) (c k : Nat) : (s.dropStrand c k).net = s.net := rfl
@[simp] theorem State.dropStrand_kept (s : State) (c k : Nat) : (s.dropStrand c k).kept = s.kept := rfl
@[simp] theorem State.dropStrand_seqs (s : State) (c k : Nat) : (s.dropStrand c k).seqs = s.seqs := rfl
@[simp] theorem State.dropStrand_psent (s : State) (c k : Nat) : (s.dropStrand c k).psent = s.psent := rfl
@[simp] theorem State.dropStrand_pdone (s : State) (c k : Nat) : (s.dropStrand c k).pdone = s.pdone := rfl
@[simp] theorem State.dropStrand_windows (s : State) (c k : Nat) : (s.dropStrand c k).windows = s.windows := rfl
@[simp] theorem State.dropStrand_now (s : State) (c k : Nat) : (s.dropStrand c k).now = s.now := rfl
@[simp] theorem State.dropStrand_turn (s : State) (c k : Nat) : (s.dropStrand c k).turn = s.turn := rfl
@[simp] theorem State.dropStrand_tick (s : State) (c k : Nat) : (s.dropStrand c k).tick = s.tick := rfl

/-! ### Accessors -/

@[simp] theorem State.setCore_cluster (s : State) (c : Nat) (x : Core) (j : Nat) : (s.setCore c x).cluster j = s.cluster j := rfl
@[simp] theorem State.setCore_die (s : State) (c : Nat) (x : Core) (j : Nat) : (s.setCore c x).die j = s.die j := rfl
@[simp] theorem State.setCore_pkg (s : State) (c : Nat) (x : Core) (j : Nat) : (s.setCore c x).pkg j = s.pkg j := rfl
@[simp] theorem State.setCore_byte (s : State) (c : Nat) (x : Core) (pa : Nat) : (s.setCore c x).byte pa = s.byte pa := rfl
@[simp] theorem State.setCluster_core (s : State) (c : Nat) (x : Cluster) (j : Nat) : (s.setCluster c x).core j = s.core j := rfl
@[simp] theorem State.setCluster_die (s : State) (c : Nat) (x : Cluster) (j : Nat) : (s.setCluster c x).die j = s.die j := rfl
@[simp] theorem State.setCluster_pkg (s : State) (c : Nat) (x : Cluster) (j : Nat) : (s.setCluster c x).pkg j = s.pkg j := rfl
@[simp] theorem State.setCluster_strand (s : State) (c : Nat) (x : Cluster) (j k : Nat) : (s.setCluster c x).strand j k = s.strand j k := rfl
@[simp] theorem State.setCluster_byte (s : State) (c : Nat) (x : Cluster) (pa : Nat) : (s.setCluster c x).byte pa = s.byte pa := rfl
@[simp] theorem State.setDie_core (s : State) (d : Nat) (x : Die) (j : Nat) : (s.setDie d x).core j = s.core j := rfl
@[simp] theorem State.setDie_cluster (s : State) (d : Nat) (x : Die) (j : Nat) : (s.setDie d x).cluster j = s.cluster j := rfl
@[simp] theorem State.setDie_pkg (s : State) (d : Nat) (x : Die) (j : Nat) : (s.setDie d x).pkg j = s.pkg j := rfl
@[simp] theorem State.setDie_strand (s : State) (d : Nat) (x : Die) (j k : Nat) : (s.setDie d x).strand j k = s.strand j k := rfl
@[simp] theorem State.setDie_byte (s : State) (d : Nat) (x : Die) (pa : Nat) : (s.setDie d x).byte pa = s.byte pa := rfl
@[simp] theorem State.setPkg_core (s : State) (p : Nat) (x : Package) (j : Nat) : (s.setPkg p x).core j = s.core j := rfl
@[simp] theorem State.setPkg_cluster (s : State) (p : Nat) (x : Package) (j : Nat) : (s.setPkg p x).cluster j = s.cluster j := rfl
@[simp] theorem State.setPkg_die (s : State) (p : Nat) (x : Package) (j : Nat) : (s.setPkg p x).die j = s.die j := rfl
@[simp] theorem State.setPkg_strand (s : State) (p : Nat) (x : Package) (j k : Nat) : (s.setPkg p x).strand j k = s.strand j k := rfl
@[simp] theorem State.setPkg_byte (s : State) (p : Nat) (x : Package) (pa : Nat) : (s.setPkg p x).byte pa = s.byte pa := rfl
@[simp] theorem State.modCore_cluster (s : State) (c : Nat) (f : Core → Core) (j : Nat) : (s.modCore c f).cluster j = s.cluster j := rfl
@[simp] theorem State.modCore_die (s : State) (c : Nat) (f : Core → Core) (j : Nat) : (s.modCore c f).die j = s.die j := rfl
@[simp] theorem State.modCore_pkg (s : State) (c : Nat) (f : Core → Core) (j : Nat) : (s.modCore c f).pkg j = s.pkg j := rfl
@[simp] theorem State.modCore_byte (s : State) (c : Nat) (f : Core → Core) (pa : Nat) : (s.modCore c f).byte pa = s.byte pa := rfl
@[simp] theorem State.modCluster_core (s : State) (c : Nat) (f : Cluster → Cluster) (j : Nat) : (s.modCluster c f).core j = s.core j := rfl
@[simp] theorem State.modCluster_die (s : State) (c : Nat) (f : Cluster → Cluster) (j : Nat) : (s.modCluster c f).die j = s.die j := rfl
@[simp] theorem State.modCluster_pkg (s : State) (c : Nat) (f : Cluster → Cluster) (j : Nat) : (s.modCluster c f).pkg j = s.pkg j := rfl
@[simp] theorem State.modCluster_strand (s : State) (c : Nat) (f : Cluster → Cluster) (j k : Nat) : (s.modCluster c f).strand j k = s.strand j k := rfl
@[simp] theorem State.modCluster_byte (s : State) (c : Nat) (f : Cluster → Cluster) (pa : Nat) : (s.modCluster c f).byte pa = s.byte pa := rfl
@[simp] theorem State.modDie_core (s : State) (d : Nat) (f : Die → Die) (j : Nat) : (s.modDie d f).core j = s.core j := rfl
@[simp] theorem State.modDie_cluster (s : State) (d : Nat) (f : Die → Die) (j : Nat) : (s.modDie d f).cluster j = s.cluster j := rfl
@[simp] theorem State.modDie_pkg (s : State) (d : Nat) (f : Die → Die) (j : Nat) : (s.modDie d f).pkg j = s.pkg j := rfl
@[simp] theorem State.modDie_strand (s : State) (d : Nat) (f : Die → Die) (j k : Nat) : (s.modDie d f).strand j k = s.strand j k := rfl
@[simp] theorem State.modDie_byte (s : State) (d : Nat) (f : Die → Die) (pa : Nat) : (s.modDie d f).byte pa = s.byte pa := rfl
@[simp] theorem State.modPkg_core (s : State) (p : Nat) (f : Package → Package) (j : Nat) : (s.modPkg p f).core j = s.core j := rfl
@[simp] theorem State.modPkg_cluster (s : State) (p : Nat) (f : Package → Package) (j : Nat) : (s.modPkg p f).cluster j = s.cluster j := rfl
@[simp] theorem State.modPkg_die (s : State) (p : Nat) (f : Package → Package) (j : Nat) : (s.modPkg p f).die j = s.die j := rfl
@[simp] theorem State.modPkg_strand (s : State) (p : Nat) (f : Package → Package) (j k : Nat) : (s.modPkg p f).strand j k = s.strand j k := rfl
@[simp] theorem State.modPkg_byte (s : State) (p : Nat) (f : Package → Package) (pa : Nat) : (s.modPkg p f).byte pa = s.byte pa := rfl
@[simp] theorem State.putByte_core (s : State) (pa : Nat) (b : Byte) (j : Nat) : (s.putByte pa b).core j = s.core j := rfl
@[simp] theorem State.putByte_cluster (s : State) (pa : Nat) (b : Byte) (j : Nat) : (s.putByte pa b).cluster j = s.cluster j := rfl
@[simp] theorem State.putByte_die (s : State) (pa : Nat) (b : Byte) (j : Nat) : (s.putByte pa b).die j = s.die j := rfl
@[simp] theorem State.putByte_pkg (s : State) (pa : Nat) (b : Byte) (j : Nat) : (s.putByte pa b).pkg j = s.pkg j := rfl
@[simp] theorem State.putByte_strand (s : State) (pa : Nat) (b : Byte) (j k : Nat) : (s.putByte pa b).strand j k = s.strand j k := rfl
@[simp] theorem State.setStrand_cluster (s : State) (c k : Nat) (x : Strand) (j : Nat) : (s.setStrand c k x).cluster j = s.cluster j := rfl
@[simp] theorem State.setStrand_die (s : State) (c k : Nat) (x : Strand) (j : Nat) : (s.setStrand c k x).die j = s.die j := rfl
@[simp] theorem State.setStrand_pkg (s : State) (c k : Nat) (x : Strand) (j : Nat) : (s.setStrand c k x).pkg j = s.pkg j := rfl
@[simp] theorem State.setStrand_byte (s : State) (c k : Nat) (x : Strand) (pa : Nat) : (s.setStrand c k x).byte pa = s.byte pa := rfl
@[simp] theorem State.dropStrand_cluster (s : State) (c k : Nat) (j : Nat) : (s.dropStrand c k).cluster j = s.cluster j := rfl
@[simp] theorem State.dropStrand_die (s : State) (c k : Nat) (j : Nat) : (s.dropStrand c k).die j = s.die j := rfl
@[simp] theorem State.dropStrand_pkg (s : State) (c k : Nat) (j : Nat) : (s.dropStrand c k).pkg j = s.pkg j := rfl
@[simp] theorem State.dropStrand_byte (s : State) (c k : Nat) (pa : Nat) : (s.dropStrand c k).byte pa = s.byte pa := rfl

theorem State.setCore_core (s : State) (c j : Nat) (x : Core) : (s.setCore c x).core j = if j = c then x else s.core j :=
  smGet_smPut _ _ _ _ _
@[simp] theorem State.setCore_core_self (s : State) (c : Nat) (x : Core) : (s.setCore c x).core c = x := by simp [State.setCore_core]
theorem State.setCore_core_ne (s : State) (x : Core) (c j : Nat) (h : j ≠ c) : (s.setCore c x).core j = s.core j := by
  simp [State.setCore_core, h]
@[simp] theorem State.setCore_setCore (s : State) (c : Nat) (x y : Core) : (s.setCore c x).setCore c y = s.setCore c y := by
  simp [State.setCore]
theorem State.modCore_core (s : State) (c j : Nat) (f : Core → Core) :
    (s.modCore c f).core j = if j = c then f (s.core c) else s.core j := s.setCore_core c j _
@[simp] theorem State.modCore_core_self (s : State) (c : Nat) (f : Core → Core) : (s.modCore c f).core c = f (s.core c) :=
  s.setCore_core_self c _

theorem State.setCluster_cluster (s : State) (c j : Nat) (x : Cluster) : (s.setCluster c x).cluster j = if j = c then x else s.cluster j :=
  smGet_smPut _ _ _ _ _
@[simp] theorem State.setCluster_cluster_self (s : State) (c : Nat) (x : Cluster) : (s.setCluster c x).cluster c = x := by simp [State.setCluster_cluster]
theorem State.setCluster_cluster_ne (s : State) (x : Cluster) (c j : Nat) (h : j ≠ c) : (s.setCluster c x).cluster j = s.cluster j := by
  simp [State.setCluster_cluster, h]
@[simp] theorem State.setCluster_setCluster (s : State) (c : Nat) (x y : Cluster) : (s.setCluster c x).setCluster c y = s.setCluster c y := by
  simp [State.setCluster]
theorem State.modCluster_cluster (s : State) (c j : Nat) (f : Cluster → Cluster) :
    (s.modCluster c f).cluster j = if j = c then f (s.cluster c) else s.cluster j := s.setCluster_cluster c j _
@[simp] theorem State.modCluster_cluster_self (s : State) (c : Nat) (f : Cluster → Cluster) : (s.modCluster c f).cluster c = f (s.cluster c) :=
  s.setCluster_cluster_self c _

theorem State.setDie_die (s : State) (c j : Nat) (x : Die) : (s.setDie c x).die j = if j = c then x else s.die j :=
  smGet_smPut _ _ _ _ _
@[simp] theorem State.setDie_die_self (s : State) (c : Nat) (x : Die) : (s.setDie c x).die c = x := by simp [State.setDie_die]
theorem State.setDie_die_ne (s : State) (x : Die) (c j : Nat) (h : j ≠ c) : (s.setDie c x).die j = s.die j := by
  simp [State.setDie_die, h]
@[simp] theorem State.setDie_setDie (s : State) (c : Nat) (x y : Die) : (s.setDie c x).setDie c y = s.setDie c y := by
  simp [State.setDie]
theorem State.modDie_die (s : State) (c j : Nat) (f : Die → Die) :
    (s.modDie c f).die j = if j = c then f (s.die c) else s.die j := s.setDie_die c j _
@[simp] theorem State.modDie_die_self (s : State) (c : Nat) (f : Die → Die) : (s.modDie c f).die c = f (s.die c) :=
  s.setDie_die_self c _

theorem State.setPkg_pkg (s : State) (c j : Nat) (x : Package) : (s.setPkg c x).pkg j = if j = c then x else s.pkg j :=
  smGet_smPut _ _ _ _ _
@[simp] theorem State.setPkg_pkg_self (s : State) (c : Nat) (x : Package) : (s.setPkg c x).pkg c = x := by simp [State.setPkg_pkg]
theorem State.setPkg_pkg_ne (s : State) (x : Package) (c j : Nat) (h : j ≠ c) : (s.setPkg c x).pkg j = s.pkg j := by
  simp [State.setPkg_pkg, h]
@[simp] theorem State.setPkg_setPkg (s : State) (c : Nat) (x y : Package) : (s.setPkg c x).setPkg c y = s.setPkg c y := by
  simp [State.setPkg]
theorem State.modPkg_pkg (s : State) (c j : Nat) (f : Package → Package) :
    (s.modPkg c f).pkg j = if j = c then f (s.pkg c) else s.pkg j := s.setPkg_pkg c j _
@[simp] theorem State.modPkg_pkg_self (s : State) (c : Nat) (f : Package → Package) : (s.modPkg c f).pkg c = f (s.pkg c) :=
  s.setPkg_pkg_self c _

/-! ### Strands -/

@[simp] theorem State.setStrand_core_self (s : State) (c k : Nat) (x : Strand) :
    (s.setStrand c k x).core c = { s.core c with strands := smPut (s.core c).strands k (some x) } := s.modCore_core_self c _
theorem State.setStrand_core_ne (s : State) (k : Nat) (x : Strand) (c j : Nat) (h : j ≠ c) :
    (s.setStrand c k x).core j = s.core j := s.setCore_core_ne _ c j h
@[simp] theorem State.setStrand_strand_self (s : State) (c k : Nat) (x : Strand) :
    (s.setStrand c k x).strand c k = some x := by simp [State.strand]
theorem State.setStrand_strand_ne (s : State) (c k : Nat) (x : Strand) (j i : Nat) (h : j ≠ c ∨ i ≠ k) :
    (s.setStrand c k x).strand j i = s.strand j i := by
  by_cases hj : j = c
  · subst hj
    simp only [State.strand, State.setStrand_core_self]
    exact smGet_smPut_ne _ _ _ (by tauto)
  · simp [State.strand, State.setStrand_core_ne _ _ _ _ _ hj]

/-- A change of a live strand. -/
theorem State.modStrand_some (s : State) (c k : Nat) (f : Strand → Strand) (x : Strand) (h : s.strand c k = some x) :
    s.modStrand c k f = s.setStrand c k (f x) := by simp [State.modStrand, h]
@[simp] theorem State.setStrand_setStrand (s : State) (c k : Nat) (x y : Strand) :
    (s.setStrand c k x).setStrand c k y = s.setStrand c k y := by
  simp [State.setStrand, State.modCore]
@[simp] theorem State.setStrand_modStrand (s : State) (c k : Nat) (x : Strand) (f : Strand → Strand) :
    (s.setStrand c k x).modStrand c k f = s.setStrand c k (f x) := by
  rw [State.modStrand_some _ _ _ _ x (by simp)]; simp
theorem State.modStrand_eq (s : State) (c k : Nat) (f : Strand → Strand) :
    s.modStrand c k f = s ∨ ∃ x, s.strand c k = some x ∧ s.modStrand c k f = s.setStrand c k (f x) := by
  unfold State.modStrand
  split
  · next x h => exact .inr ⟨x, h, rfl⟩
  · exact .inl rfl
@[simp] theorem State.modStrand_byte (s : State) (c k : Nat) (f : Strand → Strand) (pa : Nat) :
    (s.modStrand c k f).byte pa = s.byte pa := by
  rcases s.modStrand_eq c k f with h | ⟨x, -, h⟩ <;> simp [h]
@[simp] theorem State.modStrand_mem (s : State) (c k : Nat) (f : Strand → Strand) :
    (s.modStrand c k f).mem = s.mem := by
  rcases s.modStrand_eq c k f with h | ⟨x, -, h⟩ <;> simp [h]
@[simp] theorem State.modStrand_poison (s : State) (c k : Nat) (f : Strand → Strand) :
    (s.modStrand c k f).poison = s.poison := by
  rcases s.modStrand_eq c k f with h | ⟨x, -, h⟩ <;> simp [h]
@[simp] theorem State.modStrand_poisonDue (s : State) (c k : Nat) (f : Strand → Strand) :
    (s.modStrand c k f).poisonDue = s.poisonDue := by
  rcases s.modStrand_eq c k f with h | ⟨x, -, h⟩ <;> simp [h]
@[simp] theorem State.modStrand_clusters (s : State) (c k : Nat) (f : Strand → Strand) :
    (s.modStrand c k f).clusters = s.clusters := by
  rcases s.modStrand_eq c k f with h | ⟨x, -, h⟩ <;> simp [h]
@[simp] theorem State.modStrand_dies (s : State) (c k : Nat) (f : Strand → Strand) :
    (s.modStrand c k f).dies = s.dies := by
  rcases s.modStrand_eq c k f with h | ⟨x, -, h⟩ <;> simp [h]
@[simp] theorem State.modStrand_packages (s : State) (c k : Nat) (f : Strand → Strand) :
    (s.modStrand c k f).packages = s.packages := by
  rcases s.modStrand_eq c k f with h | ⟨x, -, h⟩ <;> simp [h]
@[simp] theorem State.modStrand_net (s : State) (c k : Nat) (f : Strand → Strand) :
    (s.modStrand c k f).net = s.net := by
  rcases s.modStrand_eq c k f with h | ⟨x, -, h⟩ <;> simp [h]
@[simp] theorem State.modStrand_kept (s : State) (c k : Nat) (f : Strand → Strand) :
    (s.modStrand c k f).kept = s.kept := by
  rcases s.modStrand_eq c k f with h | ⟨x, -, h⟩ <;> simp [h]
@[simp] theorem State.modStrand_seqs (s : State) (c k : Nat) (f : Strand → Strand) :
    (s.modStrand c k f).seqs = s.seqs := by
  rcases s.modStrand_eq c k f with h | ⟨x, -, h⟩ <;> simp [h]
@[simp] theorem State.modStrand_psent (s : State) (c k : Nat) (f : Strand → Strand) :
    (s.modStrand c k f).psent = s.psent := by
  rcases s.modStrand_eq c k f with h | ⟨x, -, h⟩ <;> simp [h]
@[simp] theorem State.modStrand_pdone (s : State) (c k : Nat) (f : Strand → Strand) :
    (s.modStrand c k f).pdone = s.pdone := by
  rcases s.modStrand_eq c k f with h | ⟨x, -, h⟩ <;> simp [h]
@[simp] theorem State.modStrand_windows (s : State) (c k : Nat) (f : Strand → Strand) :
    (s.modStrand c k f).windows = s.windows := by
  rcases s.modStrand_eq c k f with h | ⟨x, -, h⟩ <;> simp [h]
@[simp] theorem State.modStrand_now (s : State) (c k : Nat) (f : Strand → Strand) :
    (s.modStrand c k f).now = s.now := by
  rcases s.modStrand_eq c k f with h | ⟨x, -, h⟩ <;> simp [h]
@[simp] theorem State.modStrand_turn (s : State) (c k : Nat) (f : Strand → Strand) :
    (s.modStrand c k f).turn = s.turn := by
  rcases s.modStrand_eq c k f with h | ⟨x, -, h⟩ <;> simp [h]
@[simp] theorem State.modStrand_tick (s : State) (c k : Nat) (f : Strand → Strand) :
    (s.modStrand c k f).tick = s.tick := by
  rcases s.modStrand_eq c k f with h | ⟨x, -, h⟩ <;> simp [h]
@[simp] theorem State.modStrand_cluster (s : State) (c k : Nat) (f : Strand → Strand) (j : Nat) :
    (s.modStrand c k f).cluster j = s.cluster j := by
  rcases s.modStrand_eq c k f with h | ⟨x, -, h⟩ <;> simp [h]
@[simp] theorem State.modStrand_die (s : State) (c k : Nat) (f : Strand → Strand) (j : Nat) :
    (s.modStrand c k f).die j = s.die j := by
  rcases s.modStrand_eq c k f with h | ⟨x, -, h⟩ <;> simp [h]
@[simp] theorem State.modStrand_pkg (s : State) (c k : Nat) (f : Strand → Strand) (j : Nat) :
    (s.modStrand c k f).pkg j = s.pkg j := by
  rcases s.modStrand_eq c k f with h | ⟨x, -, h⟩ <;> simp [h]

/-! ### Memory -/

@[simp] theorem State.putByte_byte_self (s : State) (pa : Nat) (b : Byte) : (s.putByte pa b).byte pa = b :=
  smGet_smSet_self _ _ _ _
theorem State.putByte_byte_ne (s : State) (pa : Nat) (b : Byte) (q : Nat) (h : q ≠ pa) :
    (s.putByte pa b).byte q = s.byte q := smGet_smSet_ne _ _ _ h

/-- A write of bytes leaves every other byte. -/
theorem writeBytes_byte_out (b : List Byte) (s : State) (pa q : Nat) (h : q < pa ∨ pa + b.length ≤ q) :
    (writeBytes s pa b).byte q = s.byte q := by
  induction b generalizing s pa with
  | nil => rfl
  | cons x t ih =>
    simp only [List.length_cons] at h
    rw [writeBytes, ih _ _ (by omega), State.putByte_byte_ne _ _ _ _ (by omega)]

/-- A read after a write of bytes. -/
theorem writeBytes_byte_in (b : List Byte) (s : State) (pa i : Nat) (h : i < b.length) :
    (writeBytes s pa b).byte (pa + i) = b[i] := by
  induction b generalizing s pa i with
  | nil => simp at h
  | cons x t ih =>
    rw [writeBytes]
    cases i with
    | zero => rw [writeBytes_byte_out _ _ _ _ (by omega)]; simp
    | succ i =>
      have := ih (s.putByte pa x) (pa + 1) i (by simpa using h)
      rw [show pa + (i + 1) = pa + 1 + i by omega, this]; rfl

theorem readBytes_writeBytes (b : List Byte) (s : State) (pa : Nat) : readBytes (writeBytes s pa b) pa b.length = b := by
  induction b generalizing s pa with
  | nil => rfl
  | cons x t ih =>
    rw [List.length_cons, readBytes, writeBytes, ih, writeBytes_byte_out _ _ _ _ (by omega)]; simp

@[simp] theorem readBytes_length (s : State) (pa n : Nat) : (readBytes s pa n).length = n := by
  induction n generalizing pa with
  | zero => rfl
  | succ n ih => simp [readBytes, ih]

/-- What a read of bytes depends on. -/
theorem readBytes_congr (s t : State) (pa n : Nat) (h : ∀ q, pa ≤ q → q < pa + n → t.byte q = s.byte q) :
    readBytes t pa n = readBytes s pa n := by
  induction n generalizing pa with
  | zero => rfl
  | succ n ih =>
    rw [readBytes, readBytes, h pa (by omega) (by omega), ih _ (fun q h1 h2 => h q (by omega) (by omega))]

/-- Every memory operation keeps the canonical form. -/
theorem State.putByte_wf (s : State) (pa : Nat) (b : Byte) (w : Memory.wf s.mem) : Memory.wf (s.putByte pa b).mem :=
  smWf_smSet pa b w
theorem writeBytes_wf (b : List Byte) (s : State) (pa : Nat) (w : Memory.wf s.mem) : Memory.wf (writeBytes s pa b).mem := by
  induction b generalizing s pa with
  | nil => exact w
  | cons x t ih => exact ih _ _ (s.putByte_wf pa x w)
theorem writeU_wf (s : State) (pa n v : Nat) (w : Memory.wf s.mem) : Memory.wf (writeU s pa n v).mem := writeBytes_wf _ s pa w
theorem writeD_wf (s : State) (pa : Nat) (v : DWord) (w : Memory.wf s.mem) : Memory.wf (writeD s pa v).mem :=
  writeU_wf s pa 8 _ w
theorem Memory.wf_filter (m : SMap Byte) (p : Nat × Byte → Bool) (w : Memory.wf m) : Memory.wf (m.filter p) :=
  smWf_filter p w
theorem Memory.wf_reset : Memory.wf State.reset.mem := rfl

@[simp] theorem writeBytes_poison (b : List Byte) (s : State) (pa : Nat) : (writeBytes s pa b).poison = s.poison := by
  induction b generalizing s pa with
  | nil => rfl
  | cons x t ih => rw [writeBytes, ih]; rfl
@[simp] theorem writeBytes_poisonDue (b : List Byte) (s : State) (pa : Nat) : (writeBytes s pa b).poisonDue = s.poisonDue := by
  induction b generalizing s pa with
  | nil => rfl
  | cons x t ih => rw [writeBytes, ih]; rfl
@[simp] theorem writeBytes_clusters (b : List Byte) (s : State) (pa : Nat) : (writeBytes s pa b).clusters = s.clusters := by
  induction b generalizing s pa with
  | nil => rfl
  | cons x t ih => rw [writeBytes, ih]; rfl
@[simp] theorem writeBytes_dies (b : List Byte) (s : State) (pa : Nat) : (writeBytes s pa b).dies = s.dies := by
  induction b generalizing s pa with
  | nil => rfl
  | cons x t ih => rw [writeBytes, ih]; rfl
@[simp] theorem writeBytes_packages (b : List Byte) (s : State) (pa : Nat) : (writeBytes s pa b).packages = s.packages := by
  induction b generalizing s pa with
  | nil => rfl
  | cons x t ih => rw [writeBytes, ih]; rfl
@[simp] theorem writeBytes_net (b : List Byte) (s : State) (pa : Nat) : (writeBytes s pa b).net = s.net := by
  induction b generalizing s pa with
  | nil => rfl
  | cons x t ih => rw [writeBytes, ih]; rfl
@[simp] theorem writeBytes_kept (b : List Byte) (s : State) (pa : Nat) : (writeBytes s pa b).kept = s.kept := by
  induction b generalizing s pa with
  | nil => rfl
  | cons x t ih => rw [writeBytes, ih]; rfl
@[simp] theorem writeBytes_seqs (b : List Byte) (s : State) (pa : Nat) : (writeBytes s pa b).seqs = s.seqs := by
  induction b generalizing s pa with
  | nil => rfl
  | cons x t ih => rw [writeBytes, ih]; rfl
@[simp] theorem writeBytes_psent (b : List Byte) (s : State) (pa : Nat) : (writeBytes s pa b).psent = s.psent := by
  induction b generalizing s pa with
  | nil => rfl
  | cons x t ih => rw [writeBytes, ih]; rfl
@[simp] theorem writeBytes_pdone (b : List Byte) (s : State) (pa : Nat) : (writeBytes s pa b).pdone = s.pdone := by
  induction b generalizing s pa with
  | nil => rfl
  | cons x t ih => rw [writeBytes, ih]; rfl
@[simp] theorem writeBytes_windows (b : List Byte) (s : State) (pa : Nat) : (writeBytes s pa b).windows = s.windows := by
  induction b generalizing s pa with
  | nil => rfl
  | cons x t ih => rw [writeBytes, ih]; rfl
@[simp] theorem writeBytes_now (b : List Byte) (s : State) (pa : Nat) : (writeBytes s pa b).now = s.now := by
  induction b generalizing s pa with
  | nil => rfl
  | cons x t ih => rw [writeBytes, ih]; rfl
@[simp] theorem writeBytes_turn (b : List Byte) (s : State) (pa : Nat) : (writeBytes s pa b).turn = s.turn := by
  induction b generalizing s pa with
  | nil => rfl
  | cons x t ih => rw [writeBytes, ih]; rfl
@[simp] theorem writeBytes_tick (b : List Byte) (s : State) (pa : Nat) : (writeBytes s pa b).tick = s.tick := by
  induction b generalizing s pa with
  | nil => rfl
  | cons x t ih => rw [writeBytes, ih]; rfl
@[simp] theorem writeBytes_cores (b : List Byte) (s : State) (pa : Nat) : (writeBytes s pa b).cores = s.cores := by
  induction b generalizing s pa with
  | nil => rfl
  | cons x t ih => rw [writeBytes, ih]; rfl

end Sys2Proof.Machine
end

