-- ==== Sys2Proof/Laws/Ops.lean ====
section
/-! SUPPORT. What the shared operations do: the end of a slot and of an entry, the three frames of a meaning, register
writes. -/

namespace Sys2Proof.Machine

/-! ### The actor -/

theorem AtSlot.strand {s : State} {a : Actor} (h : AtSlot s a) : s.strand a.core a.k = some a.x := by
  obtain ⟨h1, h2⟩ := h
  unfold State.actor at h1
  split at h1
  · next c k _ =>
    cases hs : s.strand c k with
    | none => simp [hs] at h1
    | some x => simp only [hs, Option.map_some, Option.some.injEq] at h1; subst h1; exact hs
  · next c k _ =>
    cases hs : s.strand c k with
    | none => simp [hs] at h1
    | some x =>
      simp only [hs, Option.map_eq_some_iff] at h1
      obtain ⟨e, -, rfl⟩ := h1
      simp at h2
  · cases h1

theorem AtSlot.regs {s : State} {a : Actor} (h : AtSlot s a) : a.sr = a.x.s ∧ a.kr = a.x.k ∧ a.pc = a.x.pc := by
  obtain ⟨h1, h2⟩ := h
  unfold State.actor at h1
  split at h1
  · next c k _ =>
    cases hs : s.strand c k with
    | none => simp [hs] at h1
    | some x => simp only [hs, Option.map_some, Option.some.injEq] at h1; subst h1; exact ⟨rfl, rfl, rfl⟩
  · next c k _ =>
    cases hs : s.strand c k with
    | none => simp [hs] at h1
    | some x =>
      simp only [hs, Option.map_eq_some_iff] at h1
      obtain ⟨e, -, rfl⟩ := h1
      simp at h2
  · cases h1

theorem AtEntry.strand {s : State} {a : Actor} (h : AtEntry s a) : s.strand a.core a.k = some a.x := by
  obtain ⟨h1, h2⟩ := h
  unfold State.actor at h1
  split at h1
  · next c k _ =>
    cases hs : s.strand c k with
    | none => simp [hs] at h1
    | some x => simp only [hs, Option.map_some, Option.some.injEq] at h1; subst h1; simp at h2
  · next c k _ =>
    cases hs : s.strand c k with
    | none => simp [hs] at h1
    | some x =>
      simp only [hs, Option.map_eq_some_iff] at h1
      obtain ⟨e, -, rfl⟩ := h1
      exact hs
  · cases h1

/-! ### Register writes -/

theorem withReg_eq (x : Strand) (d : SReg) (v : Word) :
    withReg x d v = match d with
      | .s i => x.putS false i v
      | .zr => x := by
  cases d <;> rfl

theorem setReg_eq {s : State} {a : Actor} (h : AtSlot s a) (d : SReg) (v : Word) :
    setReg s a d v = s.setStrand a.core a.k (withReg a.x d v) ∨ setReg s a d v = s ∧ withReg a.x d v = a.x := by
  cases d with
  | s i => left; simp only [setReg, setS, h.2, withReg]; rw [State.modStrand_some _ _ _ _ _ h.strand]; rfl
  | zr => right; exact ⟨rfl, rfl⟩

theorem setReg_strand {s : State} {a : Actor} (h : AtSlot s a) (d : SReg) (v : Word) :
    (setReg s a d v).strand a.core a.k = some (withReg a.x d v) := by
  rcases setReg_eq h d v with e | ⟨e, e2⟩
  · simp [e]
  · rw [e, e2, h.strand]

theorem setK_eq {s : State} {a : Actor} (h : AtSlot s a) (d : Fin 8) (v : KWord) :
    setK s a d v = s.setStrand a.core a.k (withPred a.x d v) := by
  simp only [setK, h.2]
  rw [State.modStrand_some _ _ _ _ _ h.strand]
  simp only [Strand.putK, withPred]
  split <;> rfl

/-! ### Ends -/

theorem OnlyCore.of_cores {s t : State} {c : Nat} (h1 : ∀ j, j ≠ c → t.core j = s.core j)
    (h2 : t = { s with cores := t.cores }) : OnlyCore s t c := by
  refine ⟨fun pa => ?_, h1, h2⟩
  rw [h2]; rfl

/-- A state that differs from `s` in one core and one of its strands. -/
theorem leaves_setCore (s : State) (a : Actor) (co : Core) (y : Strand) :
    Leaves s (s.setCore a.core { co with strands := smPut (s.core a.core).strands a.k (some y) }) a co y := by
  refine ⟨.of_cores (fun j h => State.setCore_core_ne _ _ _ _ h) rfl, ?_, by simp [State.strand], by simp⟩
  intro j i h
  by_cases hj : j = a.core
  · subst hj
    simp only [State.strand, State.setCore_core_self]
    exact smGet_smPut_ne _ _ _ (by tauto)
  · simp [State.strand, State.setCore_core_ne _ _ _ _ hj]

/-- The end of a slot that no SINGLE_STEP follows and that raises nothing. -/
theorem completeSlot_eq {s : State} {a : Actor} {x : Strand} (h : s.strand a.core a.k = some x) (hss : a.x.ss = false)
    (jump : Option Word) :
    completeSlot s a jump none = s.setCore a.core
      { countSlot (s.core a.core) a.k with
        strands := smPut (s.core a.core).strands a.k (some (match jump with
          | some t => jumped x t
          | none => nextSlot x a.pc)) } := by
  cases jump <;>
    simp [completeSlot, h, hss, State.setStrand, State.modCore, State.countCore, countSlot, nextSlot, jumped]

theorem Leaves.mk_core {s s' : State} {a : Actor} {co co' : Core} {y y' : Strand} (h : Leaves s s' a co y)
    (hc : co'.strands = smPut (s'.core a.core).strands a.k (some y')) :
    Leaves s (s'.setCore a.core co') a co' y' := by
  obtain ⟨⟨h1, h2, h3⟩, h4, -, -⟩ := h
  refine ⟨.of_cores (fun j hj => by rw [State.setCore_core_ne _ _ _ _ hj, h2 j hj]) ?_, ?_, ?_, by simp⟩
  · rw [h3]; rfl
  · intro j i hji
    by_cases hj : j = a.core
    · subst hj
      rw [← h4 _ _ hji]
      simp only [State.strand, State.setCore_core_self, hc]
      exact smGet_smPut_ne _ _ _ (by tauto)
    · rw [← h4 _ _ hji]; simp [State.strand, State.setCore_core_ne _ _ _ _ hj]
  · simp [State.strand, hc]

theorem slotEnd {s s' : State} {a : Actor} {co : Core} {y : Strand} (hss : a.x.ss = false) (h : Leaves s s' a co y) :
    Leaves s (completeSlot s' a none none) a (countSlot co a.k) (nextSlot y a.pc) := by
  rw [completeSlot_eq h.2.2.1 hss, h.2.2.2]
  exact (h.mk_core rfl)

theorem jumpEnd {s s' : State} {a : Actor} {co : Core} {y : Strand} (hss : a.x.ss = false) (p : Word)
    (h : Leaves s s' a co y) : Leaves s (completeSlot s' a (some p) none) a (countSlot co a.k) (jumped y p) := by
  rw [completeSlot_eq h.2.2.1 hss, h.2.2.2]
  exact (h.mk_core rfl)

/-! ### Single changes -/

theorem AtSlot.leaves {s : State} {a : Actor} (h : AtSlot s a) : Leaves s s a (s.core a.core) a.x :=
  ⟨.of_cores (fun _ _ => rfl) rfl, fun _ _ _ => rfl, h.strand, rfl⟩
theorem AtEntry.leaves {s : State} {a : Actor} (h : AtEntry s a) : Leaves s s a (s.core a.core) a.x :=
  ⟨.of_cores (fun _ _ => rfl) rfl, fun _ _ _ => rfl, h.strand, rfl⟩
theorem Leaves.modStrand {s s' : State} {a : Actor} {co : Core} {y : Strand} (h : Leaves s s' a co y) (f : Strand → Strand) :
    Leaves s (s'.modStrand a.core a.k f) a co (f y) := by
  rw [State.modStrand_some _ _ _ _ _ h.2.2.1, State.setStrand, State.modCore, h.2.2.2]
  exact h.mk_core rfl
/-- A change of the core's registers that has nothing to do with its strands. -/
theorem Leaves.modCore {s s' : State} {a : Actor} {co : Core} {y : Strand} (h : Leaves s s' a co y) (f : Core → Core)
    (hf : ∀ q S, f { q with strands := S } = { f q with strands := S }) : Leaves s (s'.modCore a.core f) a (f co) y := by
  have hs : ∀ q, (f q).strands = q.strands := fun q => by
    have e := congrArg Core.strands (hf q q.strands)
    exact e
  obtain ⟨⟨h1, h2, h3⟩, h4, h5, h6⟩ := h
  refine ⟨.of_cores (fun j hj => by rw [State.modCore_core, if_neg hj, h2 j hj]) ?_, ?_, ?_, ?_⟩
  · rw [h3]; rfl
  · intro j i hji
    rw [← h4 _ _ hji]
    by_cases hj : j = a.core
    · subst hj; simp [State.strand, hs]
    · simp [State.strand, State.modCore_core, hj]
  · simpa [State.strand, hs] using h5
  · rw [State.modCore_core_self, hs]
    conv_lhs => rw [h6, hf]
theorem Leaves.orFlags {s s' : State} {a : Actor} {co : Core} {y : Strand} (h : Leaves s s' a co y) (f : Flags) :
    Leaves s (Machine.orFlags s' a.core f) a { co with fstat := co.fstat ||| f.setWidth 64 } y :=
  h.modCore (fun q => { q with fstat := q.fstat ||| f.setWidth 64 }) (fun _ _ => rfl)
theorem Leaves.setReg {s s' : State} {a : Actor} {co : Core} {y : Strand} (h : Leaves s s' a co y) (he : a.exec = false)
    (d : SReg) (v : Word) : Leaves s (Machine.setReg s' a d v) a co (withReg y d v) := by
  cases d with
  | s i =>
    have := h.modStrand (fun x => x.putS a.exec i v)
    simp only [he] at this
    rw [withReg_eq]; simpa only [Machine.setReg, setS, he] using this
  | zr => exact h
theorem Leaves.setK {s s' : State} {a : Actor} {co : Core} {y : Strand} (h : Leaves s s' a co y) (he : a.exec = false)
    (d : Fin 8) (v : KWord) : Leaves s (Machine.setK s' a d v) a co (withPred y d v) := by
  have := h.modStrand (fun x => x.putK a.exec d v)
  simp only [he] at this
  have e : Strand.putK y false d v = withPred y d v := by simp only [Strand.putK, withPred]; split <;> rfl
  rw [e] at this
  simpa only [Machine.setK, he] using this

/-! ### The frames of a meaning -/

theorem accessOp_eq {s : State} {a : Actor} (h : AtSlot s a) (g : Guard) (body : Actor → R Res) :
    accessOp s g body = finishSlot a (if a.guard g then body a else .ok (.next s)) := by
  simp [accessOp, h.1, h.2]

/-- A slot whose guard is true and whose meaning goes on to the next slot with the strand `y` and the core `co`. -/
theorem accessOp_completes {s : State} {a : Actor} {g : Guard} {body : Actor → R Res} {s' : State} {co : Core} {y : Strand}
    (h : Runs s a g) (hb : body a = .ok (.next s'))
    (hs : Leaves s s' a co y) :
    ∃ t, accessOp s g body = .next t ∧ Leaves s t a (countSlot co a.k) (nextSlot y a.pc) :=
  ⟨_, by rw [accessOp_eq h.1, h.2.1, if_pos rfl, hb]; rfl, slotEnd h.2.2 hs⟩

/-- The same for a taken transfer. -/
theorem accessOp_jumps {s : State} {a : Actor} {g : Guard} {body : Actor → R Res} {s' : State} {co : Core} {y : Strand}
    {p : Word} (h : Runs s a g) (hb : body a = .ok (.jump s' p))
    (hs : Leaves s s' a co y) :
    ∃ t, accessOp s g body = .next t ∧ Leaves s t a (countSlot co a.k) (jumped y p) :=
  ⟨_, by rw [accessOp_eq h.1, h.2.1, if_pos rfl, hb]; rfl, jumpEnd h.2.2 p hs⟩

/-! ### Accesses that a strand waits for (09 R179, R195) -/

/-- A store that its page and its target admit is performed. -/
theorem strandStoreRaw_ok {s : State} {c : Nat} {id : Ident} {va : Word} {l : Leaf} (b : List Byte)
    (h1 : strandLeaf s c (id.cls == 1) va false true false = .ok l) (h2 : l.fmtOk = true) (h3 : (spaceOf va == 0xC0) = false)
    (h4 : lockHit (s.cluster (clOf c)) (s.core c).part va.toNat b.length false = false)
    (h5 : pieceDenied s (l.pa va) b.length l.geom2 id .wr = none) (h6 : l.poison = false)
    (h7 : (siteOf (l.pa va) l.geom2).isMemory = true) (h8 : livePath s (pkgOf c) (homeDie (l.pa va)) = true) :
    strandStoreRaw s c id va b = .ok (clearPoison (writeBytes s (l.pa va) b) (l.pa va) b.length) := by
  simp only [strandStoreRaw, recordLeaf, Bool.not_true, h1, h2, h4]
  simp [h3, h5, h6, h7, h8, targetStore]

/-- A load that its page and its target admit answers the bytes as they stand. -/
theorem strandLoadRaw_ok {s : State} {c : Nat} {id : Ident} {va : Word} {l : Leaf} {n : Nat}
    (h1 : strandLeaf s c (id.cls == 1) va true false false = .ok l) (h2 : l.fmtOk = true) (h3 : (spaceOf va == 0xC0) = false)
    (h4 : lockHit (s.cluster (clOf c)) (s.core c).part va.toNat n true = false)
    (h5 : pieceDenied s (l.pa va) n l.geom2 id .rd = none) (h6 : l.poison = false) (h7 : s.poisoned (l.pa va) n = none)
    (h8 : (siteOf (l.pa va) l.geom2).isMemory = true) (h9 : livePath s (pkgOf c) (homeDie (l.pa va)) = true) :
    strandLoadRaw s c id va n = .ok (readBytes s (l.pa va) n) := by
  simp only [strandLoadRaw, recordLeaf, Bool.not_false, h1, h2, h4]
  simp [h3, h5, h6, h7, h8, h9, targetLoad]

end Sys2Proof.Machine
end

