-- ==== Sys2Proof/Tests/Slice0.lean ====
section
/-! SUPPORT. Tests: words written out from the manual's encodings, ill-formed terms, small single steps, and for each statement
that has hypotheses a state and operands that meet them. -/

set_option maxRecDepth 100000
set_option Elab.async false

namespace Sys2Proof.Tests

open Sys2Proof.Machine

/-! ### Small states -/

/-- The true guard. -/
def g0 : Guard := { neg := false, k := 0 }
/-- A guard that a fresh strand does not meet. -/
def gF : Guard := { neg := false, k := 1 }
/-- A cached page `n`, mapped to physical page `n`: readable and writable data, or code that was scanned. -/
def page (n : Nat) (code : Bool) : TcEntry :=
  { part := 63, va := BitVec.ofNat 72 (n * 65536), big := false
    lo := BitVec.ofNat 64 (0xC000000000000000 + n * 65536 + if code then 0xB400 else 0xD000), hi := 0, passed := true }
/-- Core 0 of partition 63, all of whose rights are set at reset, with one strand and three cached pages. -/
def coreOf (x : Strand) : Core :=
  { Core.reset with part := 63, assigned := true, tc := [page 0 true, page 1 false, page 2 false], strands := [(0, some x)] }
/-- A state in which a slot, or the head entry, of strand 0 of core 0 acts. -/
def stateOf (co : Core) (exec : Bool) : State :=
  { State.reset with
    cores := [(0, co)], turn := { agent := if exec then .execute 0 0 else .slot 0 0, dt := 0, useCache := true, free := 0, upset := false } }
def slotState (x : Strand) : State := stateOf (coreOf x) false
/-- An entry with the registers of `x`. -/
def entryOf (x : Strand) (i : Instr) : SeqItem :=
  .one { pc := 1, i := i, s := x.s, k := x.k, shadowed := false, badS := 0, badK := 0, num := 0, taken := [] }
def entryState (x : Strand) (i : Instr) : State := stateOf (coreOf { x with seq := [entryOf x i] }) true
/-- The strand that acts. -/
def act (s : State) : Actor := s.actor.getD default
def setS (x : Strand) (i : Fin 16) (v : Word) : Strand := { x with s := x.s.set i v }

theorem atSlotOf {s : State} (h : (s.actor.any (fun a => !a.exec)) = true) : AtSlot s (act s) := by
  unfold AtSlot act
  cases ha : s.actor with
  | none => simp [ha] at h
  | some a => simpa [ha] using h
theorem runsOf {s : State} {g : Guard} (h : (s.actor.any (fun a => !a.exec && a.guard g && !a.x.ss)) = true) :
    Runs s (act s) g := by
  unfold Runs AtSlot act
  cases ha : s.actor with
  | none => simp [ha] at h
  | some a => simpa [ha, and_assoc] using h
theorem atEntryOf {s : State} (h : (s.actor.any (fun a => a.exec)) = true) : AtEntry s (act s) := by
  unfold AtEntry act
  cases ha : s.actor with
  | none => simp [ha] at h
  | some a => simpa [ha] using h

/-- A check of `AtHome` and of `Readable` that evaluates, for accesses without a pair. -/
def homeB (s : State) (a : Actor) (x : Access) : Bool :=
  x.isLocal a.core && (s.deniedAt (a.ident s) x).isNone && (siteOf x.pa x.geom2).isMemory && !heldBySubByte s a.core x &&
    (!x.writes || !nearKept s a.core a.k)
def readB (s : State) (a : Actor) (x : Access) : Bool :=
  homeB s a x && (s.poisoned x.pa x.bytes).isNone && (match x.op with
    | .load _ (some _) => false
    | _ => true)
theorem homeOf {s : State} {a : Actor} {x : Access} (h : homeB s a x = true) : AtHome s a x := by
  simp only [homeB, Bool.and_eq_true, Bool.or_eq_true, Bool.not_eq_true', Option.isNone_iff_eq_none] at h
  exact ⟨h.1.1.1.1, h.1.1.1.2, h.1.1.2, h.1.2, fun w => h.2.resolve_left (by simp [w])⟩
theorem readOf {s : State} {a : Actor} {x : Access} (h : readB s a x = true) : Readable s a x := by
  simp only [readB, Bool.and_eq_true, Option.isNone_iff_eq_none] at h
  refine ⟨homeOf h.1.1, h.1.2, ?_⟩
  intro n q m e
  rw [e] at h
  simp at h
theorem homesOf {s : State} {a : Actor} {xs : List Access} (h : xs.all (homeB s a) = true) : ∀ x ∈ xs, AtHome s a x :=
  fun x hx => homeOf (List.all_eq_true.1 h x hx)
theorem readsOf {s : State} {a : Actor} {xs : List Access} (h : xs.all (readB s a) = true) : ∀ x ∈ xs, Readable s a x :=
  fun x hx => readOf (List.all_eq_true.1 h x hx)

/-! ### Witnesses: rows 0x00 to 0x07 -/

/-- `s1` the greatest 64-bit number, `s2` one, `s3` the least, `s4` minus one, `s6` a code address, `s14` a stack. -/
def sx : Strand :=
  setS (setS (setS (setS (setS (setS freshStrand 1 0x7FFFFFFFFFFFFFFF) 2 1) 3 0x8000000000000000) 4 0xFFFFFFFFFFFFFFFF) 6 0x40) 14
    0x10100
def sw : State := slotState sx
def eioState : State := stateOf { coreOf sx with fctl := 0x80 } false
def alu (sat z : Bool) (a b : Fin 16) : Alu3 := { sh := false, g := g0, w := .w64, z := z, sat := sat, d := .s 5, a := .s a, b := .s b }
/-- The operand that a clause reads as a signed 64-bit number. -/
def opS (s : State) (i : Fin 16) : Int := intOf true 64 (pat 64 ((act s).opnd (.s i)))
theorem runs_sw : Runs sw (act sw) g0 := runsOf (by decide +kernel)
theorem runs_eio : Runs eioState (act eioState) g0 := runsOf (by decide +kernel)

theorem witness_IntegerArithmetic :
    (Runs sw (act sw) (alu false false 1 2).g ∧ 2 ^ 63 ≤ opS sw 1 + opS sw 2 ∧ bit (sw.core (act sw).core).fctl 7 = false) ∧
    (Runs eioState (act eioState) (alu true false 1 2).g ∧ 2 ^ 63 ≤ opS eioState 1 + opS eioState 2 ∧
      (alu true false 1 2).sat = true) ∧
    (Runs eioState (act eioState) (alu false false 1 2).g ∧ bit (eioState.core (act eioState).core).fctl 7 = true ∧
      2 ^ 63 ≤ opS eioState 1 + opS eioState 2 ∧ opS eioState 3 - opS eioState 2 < -(2 ^ 63) ∧
      2 ^ 63 ≤ opS eioState 3 * opS eioState 4) :=
  ⟨⟨runs_sw, by decide +kernel, by decide +kernel⟩, ⟨runs_eio, by decide +kernel, rfl⟩, runs_eio, by decide +kernel, by decide +kernel, by decide +kernel, by decide +kernel⟩

/-- A zero divisor (s0), the least number over minus one, and an ordinary quotient. -/
theorem witness_IntegerDivision :
    Runs sw (act sw) (alu true false 1 0).g ∧ Runs eioState (act eioState) g0 ∧ opS sw 0 = 0 ∧
    (opS sw 3 = -(2 ^ 63) ∧ opS sw 4 = -1) ∧ opS sw 2 ≠ 0 := ⟨runs_sw, runs_eio, by decide +kernel, by decide +kernel, by decide +kernel⟩

/-- Fields of one bit and of all 64. -/
def bfx (pos : BitVec 6) (len : BitVec 7) : BitField := { sh := false, g := g0, z := false, d := .s 5, a := .s 1, pos := pos, len := len }
theorem witness_BitOperations :
    Runs sw (act sw) (alu false true 1 2).g ∧
    (1 ≤ (bfx 63 1).len.toNat ∧ (bfx 63 1).pos.toNat + (bfx 63 1).len.toNat ≤ 64) ∧
    (1 ≤ (bfx 0 64).len.toNat ∧ (bfx 0 64).pos.toNat + (bfx 0 64).len.toNat ≤ 64) := ⟨runs_sw, by decide +kernel, by decide +kernel⟩

theorem witness_ScalarMoves : Runs sw (act sw) (alu false false 1 2).g ∧ Runs sw (act sw) g0 := ⟨runs_sw, runs_sw⟩

/-- s1 has a bit wrong: tagged, single or double; or its residue is wrong. -/
def badX (tag two : Bool) : Strand :=
  { sx with checks := { sx.checks with synS := 2, tagS := if tag then 2 else 0, twoS := if two then 2 else 0 } }
def offX : Strand := { sx with checks := { sx.checks with res := sx.checks.res.set 1 (residueOf sx.s[1] + 1) } }
/-- The checks that an add of s1, and a store to the address in s1, meet in SHADOW mode and in RESIDUE mode. -/
def addS1 : Instr := .add { alu false false 1 1 with b := .imm 1 }
def ldS1 : Instr := .ld { sh := false, g := g0, w := .d, z := false, raw := false, acq := none, d := .s 3, m := { a := .s 1, b := none, sc := 0, disp := 0 } }
def residueState (x : Strand) : State := stateOf { coreOf x with fctl := 0x200 } false
theorem witness_GuardsAndShadows :
    (Instr.wf 0 (.add { alu false false 1 2 with g := gF }) = true ∧ (Instr.add { alu false false 1 2 with g := gF }).side = false ∧
      AtSlot sw (act sw) ∧ (act sw).guard (Instr.add { alu false false 1 2 with g := gF }).guard = false ∧ (act sw).x.ss = false) ∧
    (Runs sw (act sw) g0 ∧ { alu false false 1 2 with sh := true }.sh = true) ∧
    (scalarReads sx addS1 = [1] ∧ predicateReads addS1 = [] ∧ vectorReads addS1 = [] ∧ addS1.side = false ∧
      (bit (kVal sx.k addS1.guard.k) 0 != addS1.guard.neg) = true ∧ privilegedStop sx addS1 = false ∧
      (badX true false).checks.lost (slotReads (badX true false) addS1) = false ∧
      (badX true false).checks.corrects (slotReads (badX true false) addS1) = ([], [], []) ∧
      (badX false false).checks.synK = 0 ∧ slotCheck (slotState (badX false false)) 0 0 (badX false false) [] 0 addS1 = none) ∧
    ((residueReads ldS1).contains 1 = true ∧ (offX.checks.res.get 1).toNat ≠ (offX.s.get 1).toNat % 15 ∧
      offX.checks.shadowFails (Machine.readsOf offX offX.k ldS1) = false ∧ bit ((residueState offX).core 0).fctl 9 = true ∧
      offX.checks.lost (slotReads offX ldS1) = false ∧ offX.checks.corrects (slotReads offX ldS1) = ([], [], [])) := by
  refine ⟨⟨by decide +kernel, by decide +kernel, atSlotOf (by decide +kernel), by decide +kernel, by decide +kernel⟩,
    ⟨runs_sw, rfl⟩, ⟨?_, ?_, ?_, ?_, ?_, ?_, ?_, ?_, ?_, ?_⟩, ?_, ?_, ?_, ?_, ?_, ?_⟩ <;> decide +kernel
/-- 26 R472, R473, R475 and 09 R200: the outcomes of a check. -/
theorem test_checks :
    slotCheck (slotState (badX true false)) 0 0 (badX true false) [] 0 addS1 = some cShadow ∧
    slotCheck (residueState offX) 0 0 offX [] 0 ldS1 = some cResidue ∧ slotCheck (slotState offX) 0 0 offX [] 0 ldS1 = none ∧
    (match checkedSlot exec (slotState (badX false true)) 0 0 (badX false true) [] addS1 with
      | .next t => (t.strand 0 0).isNone
      | _ => false) = true := by
  refine ⟨?_, ?_, ?_, ?_⟩ <;> decide +kernel

/-- Both levels end at the slot: level 1 begins later, at its last count, and level 0 goes round. -/
def loopStrand : Strand :=
  { sx with l0 := { lb := 0, le := 0x44, lc := 2, busy := true }, l1 := { lb := 0x40, le := 0x44, lc := 1, busy := true } }
def countState : State := slotState (setS sx 2 5)
theorem witness_HardwareLoops :
    (loopStrand.l0.busy = true ∧ loopStrand.l0.le = 0x44 ∧ loopStrand.l1.busy = true ∧ loopStrand.l1.le = 0x44 ∧
      loopStrand.l0.lb.toNat < loopStrand.l1.lb.toNat ∧ loopStrand.l1.lc.toNat ≤ 1 ∧ 1 < loopStrand.l0.lc.toNat) ∧
    (¬ (sx.l0.busy = true ∧ sx.l0.le = 0x44)) ∧
    (Runs sw (act sw) g0 ∧ (act sw).x.l0.busy = false ∧ checkStatic sw (act sw) 0x40 = .ok ()) ∧
    (Runs (slotState loopStrand) (act (slotState loopStrand)) g0 ∧ (act (slotState loopStrand)).x.l1.busy = true) :=
  ⟨by decide +kernel, by decide +kernel, ⟨runs_sw, by decide +kernel, by decide +kernel⟩, runsOf (by decide +kernel), by decide +kernel⟩

/-- Targets in the cached code page; a full and an empty return stack; a branch outcome that waits. -/
def fullState : State := slotState { sx with rs := List.replicate 8 0x40, bq := [true] }
def oneState : State := slotState { sx with rs := [0x40], bq := [false] }
def oddState : State := slotState { setS sx 14 0x10101 with rs := List.replicate 8 0x40 }
theorem witness_Transfers :
    (Runs sw (act sw) g0 ∧ checkStatic sw (act sw) (branchTarget (act sw).pc 1 0) = .ok () ∧ (act sw).x.rs.length < 8) ∧
    (Runs fullState (act fullState) g0 ∧ (act fullState).x.bq = true :: []) ∧
    (Runs oneState (act oneState) g0 ∧ (act oneState).x.bq = false :: []) := by
  refine ⟨⟨runs_sw, by decide +kernel, by decide +kernel⟩, ⟨runsOf (by decide +kernel), by decide +kernel⟩, runsOf (by decide +kernel), by decide +kernel⟩

/-! ### Witnesses: rows 0x10 to 0x13 -/

/-- `s1` points into data page 1, `s2` is misaligned, `s3` lies on no page, `s4` on a code page; `s5` a descriptor of two
entries of 64 bytes. -/
def mx : Strand :=
  setS (setS (setS (setS (setS freshStrand 1 0x10000) 2 0x10001) 3 0x90000) 4 0) 5 (6 * 2 ^ 32 + 2)
/-- Queue 0 is a local ring of four 64-byte slots of which one is filled. -/
def ring : Queue := { Queue.reset with bound := true, base := 0x20000, sz := 2, nslot := 4, dir := 0, linked := true, p := 1 }
def mcore : Core := { coreOf mx with queues := Core.reset.queues.set 0 ring }
def mw : State := stateOf mcore false
def ma : Actor := act mw
def atS (i : Fin 16) : MemOp := { a := .s i, b := none, sc := 0, disp := 0 }
def baseS (i : Fin 16) : MemBase := { a := .s i, disp := 0 }
def ld (i : Fin 16) : LdF := { sh := false, g := g0, w := .d, z := false, raw := false, acq := none, d := .s 6, m := atS i }
def st (i : Fin 16) : StF :=
  { sh := false, g := g0, w := .d, z := false, sat := false, raw := false, rel := none, d := .s 6, m := atS i }
/-- The leaf of data page 1, and of a page of code. -/
def leaf1 : Leaf := { entry := 0, lo := (page 1 false).lo, hi := 0, big := false, passed := true }
def leaf0 : Leaf := { entry := 0, lo := (page 0 true).lo, hi := 0, big := false, passed := true }
theorem runs_mw : Runs mw ma g0 := runsOf (by decide +kernel)
theorem settled_mw : Settled mw ma := ⟨by decide +kernel, by decide +kernel⟩
def loadAt (pa n : Nat) : Access := mkAccess leaf1 (BitVec.ofNat 72 pa) (.load n none)
def storeAt (pa : Nat) (b : List Byte) : Access := mkAccess leaf1 (BitVec.ofNat 72 pa) (.store b)
def swap4 : Atomic := { op := .swap, len := 4, signed := false, b := 1, c := 0 }
/-- The same, with the page's first line poisoned. -/
def poisonState : State := { mw with poison := [(0x10000, true)] }
/-- Partition 1 has no rights at reset. -/
def deniedState : State := stateOf { mcore with part := 1, tc := mcore.tc.map (fun e => { e with part := 1 }) } false

theorem witness_AccessChecks :
    (siteOf (loadAt 0x10000 8).pa false).isMemory = true ∧
    deniedState.deniedAt { part := 1, cls := 0 } (loadAt 0x10000 8) = some 0x10000 ∧
    mw.deniedAt { part := 63, cls := 0 } (loadAt 0x10000 8) = none ∧ mw.poisoned 0x10000 8 = none ∧
    poisonState.poisoned 0x1003F 1 = some 0x10000 ∧ mw.deniedAt { part := 63, cls := 0 } (storeAt 0x1FFFF [1]) = none ∧
    (Runs mw ma (ld 1).g ∧ Settled mw ma ∧ tileWaits ma (ma.ea (atS 2)).toNat 8 = false ∧ (ma.ea (atS 2)).toNat % 8 ≠ 0) ∧
    ((ma.ea (atS 3)).toNat % 8 = 0 ∧ mw.leafFor ma.core (ma.ea (atS 3)) = .absent false) ∧
    (mw.leafFor ma.core (ma.ea (atS 4)) = .leaf leaf0 ∧ leaf0.w = false) ∧
    (mw.leafFor ma.core (ma.ea (atS 1)) = .leaf leaf1 ∧ leaf1.r = true ∧ leaf1.u = true ∧ ¬ (leaf1.w = true ∧ leaf1.x = true)) := by
  refine ⟨?_, ?_, ?_, ?_, ?_, ?_, ⟨runs_mw, settled_mw, ?_, ?_⟩, ?_, ?_, ?_⟩ <;> decide +kernel

/-- The answer of a load of another die has come. -/
def answeredState : State :=
  stateOf { mcore with strands := [(0, some { mx with prog := .gather 0 [loadAt 0x10000 8] [(0, none, List.replicate 8 1)] none })] }
    false
/-- The page's frame lies in another package. -/
def farLeaf : Leaf := { leaf1 with lo := BitVec.ofNat 64 (0xC00000000000D000 + 2 ^ 50) }
def farState : State :=
  stateOf { mcore with tc := [{ page 1 false with lo := farLeaf.lo }] } false
theorem witness_ScalarMemory :
    (Runs mw ma (ld 1).g ∧ ma.spec mw = none ∧ ma.x.prog = .none ∧
      planOne mw ma (ma.ea (atS 1)) 8 8 .rd false (ruleRaw false) = .ok leaf1 ∧
      Readable mw ma (mkAccess leaf1 (ma.ea (atS 1)) (.load 8 none))) ∧
    planOne mw ma (ma.ea (atS 2)) 8 8 .rd false (ruleRaw false) = .error (.cause { code := cMisaligned, eva := 0x10001 }) ∧
    ((loadAt 0x10000 8).isLocal 0 = true ∧ heldBySubByte deniedState 0 (loadAt 0x10000 8) = false ∧
      deniedState.deniedAt ((act deniedState).ident deniedState) (loadAt 0x10000 8) = some 0x10000) ∧
    (Runs farState (act farState) g0 ∧
      planOne farState (act farState) 0x10000 8 8 .rd false (ruleRaw false) = .ok farLeaf ∧
      (mkAccess farLeaf 0x10000 (.load 8 none)).isLocal 0 = false ∧
      farState.room 0 ((act farState).ident farState) ((mkAccess farLeaf 0x10000 (.load 8 none)).dest 0) 1 = true) ∧
    (Runs answeredState (act answeredState) g0 ∧
      (act answeredState).x.prog = .gather 0 [loadAt 0x10000 8] [(0, none, List.replicate 8 1)] none) ∧
    (Runs mw ma (st 1).g ∧ Settled mw ma ∧ released mw ma (st 1).rel.isSome = .ok () ∧
      planOne mw ma (ma.ea (atS 1)) 8 8 .wr false (ruleRaw false) = .ok leaf1 ∧ AtHome mw ma (storeAt 0x10000 (List.replicate 8 0))) := by
  refine ⟨⟨runs_mw, ?_, ?_, ?_, readOf ?_⟩, ?_, ?_, ⟨runsOf ?_, ?_, ?_, ?_⟩, ⟨runsOf ?_, ?_⟩, runs_mw, settled_mw, ?_, ?_, homeOf ?_⟩ <;>
    decide +kernel

def outCore : Core := { mcore with queues := Core.reset.queues.set 0 { ring with dir := 2, peer := 1 } }
def outState : State := stateOf outCore false
def ldq (n : BitVec 4) : LdqF := { sh := false, g := g0, q := 0, need := n, ord := none, m := atS 1 }
def bc : VgathBcF := { sh := false, g := g0, acq := none, q := 0, need := 1, m := baseS 1, b := 0, c := 5 }
theorem witness_QueueMemory :
    (Settled mw ma ∧ Runs mw ma (ldq 3).g ∧ (mcore.queues.get 0).dir ≠ 2 ∧
      queuesReady mw ma [{ q := 0, need := 3, produce := true }] = .ok () ∧
      planOne mw ma (ma.ea (atS 1)) 64 64 .rd false ruleAny = .ok leaf1 ∧
      ∀ x ∈ slotUnits leaf1 (ma.ea (atS 1)) 64 (fun _ => .load 16 none), Readable mw ma x) ∧
    (Settled outState (act outState) ∧ (outCore.queues.get 0).dir = 2 ∧
      queuesReady outState (act outState) [{ q := 0, need := 1, produce := true }] = .ok () ∧
      planOne outState (act outState) ((act outState).ea (atS 1)) 64 64 .rd false ruleAny = .ok leaf1) ∧
    (queuesReady mw ma [{ q := 0, need := 1, produce := false }] = .ok () ∧
      released mw ma (ldq 1).ord.isSome = .ok () ∧ planOne mw ma (ma.ea (atS 1)) 64 64 .wr false ruleAny = .ok leaf1 ∧
      mw.poisoned 0x20000 64 = none ∧
      ∀ x ∈ slotUnits leaf1 (ma.ea (atS 1)) 64 (fun i => .store (readBytes mw (0x20000 + 16 * i) 16)), AtHome mw ma x) ∧
    (Runs mw ma bc.g ∧ queuesLegal mw ma [{ q := 0, need := 2, produce := true }] = .ok () ∧
      bits (ma.sr.get 5) 32 6 = 6 ∧ min (bits (ma.sr.get 5) 0 32) 4 = 2 ∧ (∀ j < 2, lane 32 (ma.x.v.get 0) j ≠ 0xFFFFFFFF) ∧
      queuesReady mw ma [{ q := 0, need := 2, produce := true }] = .ok () ∧
      planList (fun j => (planOne mw ma (ma.eaBase bc.m + BitVec.ofNat 72 (lane 32 (ma.x.v.get 0) j * 2 ^ 6)) 64 64 .rd true
          ruleAny).map (fun x =>
            mkAccess x (ma.eaBase bc.m + BitVec.ofNat 72 (lane 32 (ma.x.v.get 0) j * 2 ^ 6)) (.load 64 none))) (List.range 2) =
        ([loadAt 0x10000 64, loadAt 0x10000 64], none) ∧
      ∀ x ∈ [loadAt 0x10000 64, loadAt 0x10000 64], Readable mw ma x) := by
  refine ⟨⟨settled_mw, runs_mw, ?_, ?_, ?_, readsOf ?_⟩, ⟨⟨?_, ?_⟩, ?_, ?_, ?_⟩, ⟨?_, ?_, ?_, ?_, homesOf ?_⟩, runs_mw, ?_, ?_, ?_, ?_,
    ?_, ?_, readsOf ?_⟩ <;> decide +kernel

/-- Tables of partition 63 of package 0 that map the first 256 MiB of space `sp` to physical address 0, with the leaf `lo`. -/
def mapped (s : State) (sp : Nat) (lo : DWord) : State :=
  let t := fun (pa : Nat) => BitVec.ofNat 64 (2 ^ 63 + pa)
  let s1 := writeD s (rootPa 0 63 + 16 * sp) (t 0x300000)
  let s2 := writeD s1 0x300000 (t 0x310000)
  let s3 := writeD s2 0x310000 (t 0x320000)
  writeD s3 0x320000 lo
/-- The leaf of those tables. -/
def bigLeaf (lo : DWord) : Leaf := { entry := 0x320000, lo := lo, hi := 0, big := true, passed := false }

def vld (i : Fin 16) : VmemF :=
  { sh := false, g := g0, lt := .i8, rm := .fctl, sat := false, raw := false, ord := none, d := .v 1, m := atS i }
def vqld : VmemF := { vld 1 with d := .q 0 1 }
def vlds : VstrideF :=
  { sh := false, g := g0, lt := .i32, rm := .fctl, sat := false, raw := false, ord := none, d := .v 1, m := baseS 1, stride := 5 }
def vidx (b : Option (Fin 16)) : VindexF :=
  { sh := false, g := g0, lt := .i32, rm := .fctl, sat := false, raw := false, ord := none, d := .v 1, m := baseS 1, idx := .v 2,
    sc := 2, bound := b }
/-- The three vector loads and stores, with every index 0; the loop bound in s0 is 0, which every index reaches. -/
def vls : List VectorLoad := vectorLoads mw ma (vld 1) { vlds with stride := 0 } (vidx none) 0
def vss : List VectorStore := vectorStores mw ma (vld 1) { vlds with stride := 0 } (vidx none) 0
/-- A store without a stored pair, of which `SoundPairs` asks nothing. -/
def plainStore (x : Access) : Bool := match x.op with
  | .block _ => false
  | _ => true
theorem soundOf {s : State} {xs : List Access} (h : xs.all plainStore = true) : SoundPairs s xs := by
  intro pre x post bs e o
  have := List.all_eq_true.1 h x (by simp [e])
  simp [plainStore, o] at this
def loadOk (p : VectorLoad) : Bool :=
  decide (p.plan.2 = none) && p.plan.1.all (readB mw ma) && decide (queuesReady mw ma (regUseOut p.d ++ p.more) = .ok ()) &&
    (let es := loadedElts p.lt p.raw p.n (p.plan.1.map (fun x => (x, dataAt mw x)))
     es.all (·.isSome) && (firstCause mcore.fctl (runLanes (fun i seed =>
      eltTo p.lt (modeOf p.rm mcore.fctl) p.sat ((es.getD i none).getD (.same 0)) seed) (List.range es.length)
      mcore.seed).2.1).isNone)
def storeOk (p : VectorStore) : Bool :=
  decide (queuesReady mw ma p.us = .ok ()) && decide (vreg mw ma p.d = .ok 0) && decide (released mw ma p.rel = .ok ()) &&
    (match p.plan 0 with
      | .ok l => (match encodeStore mw ma p.lt p.raw p.rm p.sat l mcore.seed with
        | .ok (xs, r, _) => xs.all (homeB mw ma) && (firstCause mcore.fctl r).isNone && xs.all plainStore
        | .error _ => false)
      | .error _ => false)
theorem witness_VectorMemory :
    (Settled mw ma ∧ queuesReady mw ma (regUseIn (vidx none).idx) = .ok () ∧ vreg mw ma (vidx none).idx = .ok 0 ∧
      vls.length = 3 ∧ vls.all loadOk = true ∧ (∀ p ∈ vls, Runs mw ma p.g) ∧ outOfBound ma (vidx none) 0 = false) ∧
    (outOfBound ma (vidx (some 0)) 0 = true ∧ Runs mw ma (vidx (some 0)).g ∧
      queuesReady mw ma (regUseOut (vidx (some 0)).d ++ regUseIn (vidx (some 0)).idx) = .ok ()) ∧
    (planElems mw ma (ma.ea (vld 3).m) .i8 false 16 1 false (fun _ => none)).isOk = false ∧
    (modeOf .fctl mcore.fctl ≠ .rs ∧ queuesReady mw ma (regUseOut vqld.d) = .ok () ∧ (mcore.queues.get 0).dir ≠ 2) ∧
    (vss.length = 3 ∧ vss.all storeOk = true ∧ ∀ p ∈ vss, Runs mw ma p.g) := by
  refine ⟨⟨settled_mw, ?_, ?_, ?_, ?_, ?_, ?_⟩, ⟨?_, runs_mw, ?_⟩, ?_, ⟨?_, ?_, ?_⟩, ?_, ?_, ?_⟩
  case refine_5 => intro p h; fin_cases h <;> exact runs_mw
  case refine_15 => intro p h; fin_cases h <;> exact runs_mw
  all_goals decide +kernel

def amo : AmoF := { sh := false, g := g0, w := .w32, z := false, ord := .plain, d := .s 6, m := baseS 1, b := .s 2 }
def cas : CasF := { sh := false, g := g0, w := .w64, z := false, ord := .plain, d := .s 6, m := baseS 1, b := .s 2, c := 0 }
def amof : AmofF := { sh := false, g := g0, fmt := .fp32, ord := .plain, d := .s 6, m := baseS 1, b := .s 2 }
def amoOk (p : AtomicForm) : Bool :=
  match planOne mw ma (ma.eaBase p.m) p.x.len p.x.len .amo false p.rule with
  | .ok l => readB mw ma (mkAccess l (ma.eaBase p.m) (.atomic p.x))
  | .error _ => false
def casDone : State :=
  stateOf { mcore with strands := [(0, some { mx with
    prog := .gather 0 [mkAccess leaf1 0x10000 (.atomic swap4)] [(0, none, List.replicate 4 1)] none })] } false
theorem witness_Atomics :
    (ma.spec mw = none ∧ ma.x.prog = .none ∧ Runs mw ma g0 ∧ released mw ma (ordRel .plain) = .ok () ∧
      (atomicForms ma amo cas amof).length = 9 ∧ (atomicForms ma amo cas amof).all amoOk = true) ∧
    planOne mw ma 0x10001 4 4 .amo false (ruleFloat .fp32) = .error (.cause { code := cMisaligned, eva := 0x10001 }) ∧
    (Runs casDone (act casDone) g0 ∧ (act casDone).x.prog =
      .gather 0 [mkAccess leaf1 0x10000 (.atomic swap4)] [(0, none, List.replicate 4 1)] none) := by
  refine ⟨⟨?_, ?_, runs_mw, ?_, ?_, ?_⟩, ?_, runsOf ?_, ?_⟩ <;> decide +kernel

def grouped (p : Prog) : State :=
  { stateOf { mcore with strands := [(0, some { mx with prog := p })] } false with
    packages := [(0, { Package.reset with lea := { Lea.reset with members := [0, 1], given := [(0, 0, 5)] } })] }
def deniedStore : State := stateOf { mcore with strands := [(0, some { mx with denial := some { code := cDeny, eva := 0x10000 } })] } false
def bst : BstF := { g := g0, d := .s 6, a := 7, b := .s 1 }
/-- `s7` points into shared space 0x80, whose leaf is marked LEAREP. -/
def lea0 : DWord := 0xC00000000000D100
def bstState (sp : Nat) (lo : DWord) : State :=
  mapped (stateOf { mcore with strands := [(0, some (setS mx 7 (BitVec.ofNat 72 (sp * 2 ^ 64 + 0x10000))))] } false) sp lo
def bstVa : Word := 0x800000000000010000
theorem witness_FencesAndLeaStores :
    (ma.spec mw = none ∧ Runs mw ma g0 ∧ unordered mw ma = false ∧ denialComing mw ma = false ∧
      ma.x.denial = none ∧ releaseReady mw ma = .ok () ∧ (mw.pkg (pkgOf ma.core)).lea.members = []) ∧
    (Runs deniedStore (act deniedStore) g0 ∧ unordered deniedStore (act deniedStore) = false ∧
      denialComing deniedStore (act deniedStore) = false ∧ (act deniedStore).x.denial = some { code := cDeny, eva := 0x10000 }) ∧
    (Runs (grouped .none) (act (grouped .none)) g0 ∧ releaseReady (grouped .none) (act (grouped .none)) = .ok () ∧
      ((grouped .none).pkg 0).lea.members ≠ [] ∧ (act (grouped .none)).x.prog = .none) ∧
    (Runs (grouped (.stage 3 0)) (act (grouped (.stage 3 0))) g0 ∧ (act (grouped (.stage 3 0))).x.prog = .stage 3 0 ∧
      ((grouped (.stage 3 0)).pkg 0).lea.given.find? (fun g => g.1 == 0 && g.2.1 == 0) = some (0, 0, 5)) ∧
    (let s := bstState 0x80 lea0
     let l := bigLeaf lea0
     Runs s (act s) g0 ∧ (act s).sr.get 7 = bstVa ∧ queuesReady s (act s) (bstUse (.s 1)) = .ok () ∧
      planOne s (act s) bstVa 8 8 .wr false (ruleLea bstVa) = .ok l ∧ bstData s (act s) (.s 1) = .ok [0, 0, 1, 0, 0, 0, 0, 0] ∧
      releaseReady s (act s) = .ok () ∧ s.walk 0 63 bstVa = .leaf l ∧ l.w = true ∧ l.x = false ∧ l.fmtOk = true ∧ l.poison = false ∧
      pathCause s 0 (l.pa bstVa) = none ∧
      s.admits (l.pa bstVa) l.geom2 (leaIdent 63) .wr = true ∧ (siteOf (l.pa bstVa) l.geom2).isMemory = true) ∧
    (let s := bstState 0x7F lea0
     let va : Word := 0x7F0000000000010000
     Runs s (act s) g0 ∧ (act s).sr.get 7 = va ∧ va.toNat % 8 = 0 ∧ tileWaits (act s) va.toNat 8 = false ∧
      s.leafFor 0 va = .leaf (bigLeaf lea0) ∧ (bigLeaf lea0).permits false .wr = true ∧ (bigLeaf lea0).fmtOk = true ∧
      spaceOf va < 0x80) := by
  refine ⟨⟨?_, runs_mw, ?_, ?_, ?_, ?_, ?_⟩, ⟨runsOf ?_, ?_, ?_, ?_⟩, ⟨runsOf ?_, ?_, ?_, ?_⟩, ⟨runsOf ?_, ?_, ?_⟩,
    ⟨runsOf ?_, ?_, ?_, ?_, ?_, ?_, ?_, ?_, ?_, ?_, ?_, ?_, ?_, ?_⟩, runsOf ?_, ?_, ?_, ?_, ?_, ?_, ?_, ?_⟩ <;> decide +kernel

/-! ### Witnesses: traps and control registers -/

/-- A configuration whose trap vectors stand in data page 2; the vector of SOFTWARE_TRAP names line 1. -/
def cfg0 : PartCfg :=
  { clu := Vector.replicate 4 0, hbmlo := 0, hbmhi := 0, shared := 0, tvbase := 0x20000, fqbase := 0, fqcap := 0, fqall := false
    fqmbox := 0, ctbase := 0, dirbase := 0x18000, dircap := 4, scales := [], savebase := 0x28000, savesize := 0, fctl := 0
    remto := 0, pagewait := 0, qwd := 0, swd := 0, foldto := 0, stkbase := 0, stklog2 := 0, pm := [], fenced := false
    stoppedAt := none, released := false }
/-- The stack's page is data page 1, so the record stands at its first 2 KiB below s14. -/
def trapStrand : Strand := setS sx 14 0x11000
def configured (s : State) : State := { s with packages := [(0, { Package.reset with parts := [(63, some cfg0)] })] }
def supId : Ident := { part := 63, cls := 1 }
/-- The leaf of data page 2, and the vector of SOFTWARE_TRAP and of BREAKPOINT. -/
def leaf2 : Leaf := { leaf1 with lo := (page 2 false).lo }
def vec1 : List Byte := [0x40, 0, 0, 0, 0, 0, 0, 0]
def img (s : State) (x : Strand) (e : Cause) (epc : Word) : List Byte := recordBytes (s.core 0) 0 0 x e epc 0 s.tick s.turn.free
def counted (s : State) (e : Cause) : State := countDelivery s 0 e.code (s.core 0).part
def stored (s : State) (x : Strand) (e : Cause) (epc : Word) : State :=
  clearPoison (writeBytes (counted s e) (leaf1.pa 0x10800) (img s x e epc)) (leaf1.pa 0x10800) (img s x e epc).length
theorem clearPoison_byte (s : State) (pa n q : Nat) : (clearPoison s pa n).byte q = s.byte q := rfl
theorem leaf2_fmt : leaf2.fmtOk = true := by decide +kernel
theorem leaf2_sound : leaf2.poison = false := by decide +kernel
/-- A check of `TrapFits` that evaluates, for a record at 0x10800 and vectors in data page 2. -/
def fitB (s : State) (x : Strand) (e : Cause) (epc va : Word) : Bool :=
  let u := counted s e
  let t := stored s x e epc
  let id := strandIdent (s.core 0) x
  decide (s.strand 0 0 = some x) && (s.core 0).spec.isNone && !x.tm && x.gang.isNone && !(barrierOf s 0).waiting.contains (0, 0) &&
    decide (s.cfg 0 = some cfg0) && decide ((s.core 0).part = 63) && decide (trapRecord x = 0x10800) &&
    decide (strandLeaf u 0 (x.prio == 3) 0x10800 false true false = .ok leaf1) &&
    decide (strandLeaf u 0 (id.cls == 1) 0x10800 false true false = .ok leaf1) &&
    !lockHit (u.cluster (clOf 0)) (u.core 0).part 0x10800 2048 false &&
    (pieceDenied u (leaf1.pa 0x10800) 2048 leaf1.geom2 id .wr).isNone && livePath u (pkgOf 0) (homeDie (leaf1.pa 0x10800)) &&
    decide ((img s x e epc).length = 2048) && decide (space0 (cfg0.tvbase + BitVec.ofNat 64 (8 * e.code.toNat)) = va) &&
    decide (strandLeaf t 0 true va true false false = .ok leaf2) && !(spaceOf va == 0xC0) &&
    !lockHit (t.cluster (clOf 0)) (t.core 0).part va.toNat 8 true && (pieceDenied t (leaf2.pa va) 8 leaf2.geom2 supId .rd).isNone &&
    (t.poisoned (leaf2.pa va) 8).isNone && (siteOf (leaf2.pa va) leaf2.geom2).isMemory &&
    livePath t (pkgOf 0) (homeDie (leaf2.pa va)) && decide (0x11000 ≤ leaf2.pa va) && decide (readBytes u (leaf2.pa va) 8 = vec1)
theorem leaf1_pa : leaf1.pa 0x10800 = 0x10800 := by decide +kernel
theorem fit_store {s : State} {x : Strand} {e : Cause} {epc : Word} (hi : (img s x e epc).length = 2048)
    (h1 : strandLeaf (counted s e) 0 ((strandIdent (s.core 0) x).cls == 1) 0x10800 false true false = .ok leaf1)
    (h2 : lockHit ((counted s e).cluster (clOf 0)) ((counted s e).core 0).part 0x10800 2048 false = false)
    (h3 : pieceDenied (counted s e) (leaf1.pa 0x10800) 2048 leaf1.geom2 (strandIdent (s.core 0) x) .wr = none)
    (h4 : livePath (counted s e) (pkgOf 0) (homeDie (leaf1.pa 0x10800)) = true) :
    strandStoreRaw (counted s e) 0 (strandIdent (s.core 0) x) 0x10800 (img s x e epc) = .ok (stored s x e epc) :=
  strandStoreRaw_ok (s := counted s e) (c := 0) (id := strandIdent (s.core 0) x) (va := 0x10800) (l := leaf1) (img s x e epc)
    h1 (by decide +kernel) (by decide +kernel) (by rw [hi]; exact h2) (by rw [hi]; exact h3) (by decide +kernel)
    (by decide +kernel) h4
theorem stored_byte {s : State} {x : Strand} {e : Cause} {epc : Word} (hi : (img s x e epc).length = 2048) (q : Nat)
    (hq : 0x11000 ≤ q) : (stored s x e epc).byte q = (counted s e).byte q := by
  rw [stored, clearPoison_byte]
  exact writeBytes_byte_out _ _ _ _ (by rw [hi, leaf1_pa]; omega)
theorem fit_load {s : State} {x : Strand} {e : Cause} {epc va : Word} (hi : (img s x e epc).length = 2048)
    (h1 : strandLeaf (stored s x e epc) 0 true va true false false = .ok leaf2) (h2 : (spaceOf va == 0xC0) = false)
    (h3 : lockHit ((stored s x e epc).cluster (clOf 0)) ((stored s x e epc).core 0).part va.toNat 8 true = false)
    (h4 : pieceDenied (stored s x e epc) (leaf2.pa va) 8 leaf2.geom2 supId .rd = none)
    (h5 : (stored s x e epc).poisoned (leaf2.pa va) 8 = none) (h6 : (siteOf (leaf2.pa va) leaf2.geom2).isMemory = true)
    (h7 : livePath (stored s x e epc) (pkgOf 0) (homeDie (leaf2.pa va)) = true) (h8 : 0x11000 ≤ leaf2.pa va)
    (h9 : readBytes (counted s e) (leaf2.pa va) 8 = vec1) : strandLoadRaw (stored s x e epc) 0 supId va 8 = .ok vec1 := by
  have h1' : strandLeaf (stored s x e epc) 0 (supId.cls == 1) va true false false = .ok leaf2 := by
    rw [show (supId.cls == 1) = true from rfl]
    exact h1
  rw [strandLoadRaw_ok (s := stored s x e epc) (c := 0) (id := supId) (va := va) (n := 8) (l := leaf2) h1' leaf2_fmt h2 h3 h4
    leaf2_sound h5 h6 h7, ← h9]
  exact congrArg Except.ok (readBytes_congr _ _ _ _ (fun q a1 _ => stored_byte hi q (by omega)))
theorem vec1_ne : leVal vec1 % 2 ^ 64 ≠ 0 := by decide +kernel
theorem fitOf {s : State} {x : Strand} {e : Cause} {epc va : Word} (h : fitB s x e epc va = true) :
    TrapFits s 0 0 x e epc cfg0 leaf1 vec1 := by
  simp only [fitB, Bool.and_eq_true, decide_eq_true_eq, Bool.not_eq_true', Option.isNone_iff_eq_none] at h
  obtain ⟨⟨⟨⟨⟨⟨⟨⟨⟨⟨⟨⟨⟨⟨⟨⟨⟨⟨⟨⟨⟨⟨⟨h1, h2⟩, h3⟩, h4⟩, h5⟩, h6⟩, h7⟩, h8⟩, h9⟩, h10⟩, h11⟩, h12⟩, h13⟩, h14⟩, h15⟩, h16⟩, h17⟩, h18⟩,
    h19⟩, h20⟩, h21⟩, h22⟩, h23⟩, h24⟩ := h
  have hs := fit_store h14 h10 h11 h12 h13
  have hl := fit_load h14 h16 h17 h18 h19 h20 h21 h22 h23 h24
  have hi : supId = { part := (s.core 0).part, cls := 1 } := by rw [h7]; rfl
  rw [hi] at hl
  unfold TrapFits
  dsimp only
  rw [h8, h15]
  refine ⟨h1, h2, h3, h4, h5, h6, ?_, h9, ?_, ?_, vec1_ne⟩
  · rfl
  · exact hs
  · exact hl

def softCause : Cause := { code := cSoftwareTrap, eva := 0x12 }
def brkCause : Cause := { code := cBreakpoint, eva := 0 }
/-- The same machine with the vector of `e`, at `va`, naming line 1. -/
def trapState (va : Nat) : State := writeD (configured (slotState trapStrand)) va 0x40
/-- The machine after the TRAP slot has completed. -/
def afterTrap : State := (trapState 0x20030).setCore 0
  { countSlot ((trapState 0x20030).core 0) 0 with strands := [(0, some (nextSlot trapStrand 0))] }
theorem witness_TrapEntry : TrapClass.n ≠ .v ∧ TrapFits (trapState 0x20030) 0 0 trapStrand softCause 1 cfg0 leaf1 vec1 :=
  ⟨by decide, fitOf (va := 0x20030) (by decide +kernel)⟩
/-- SINGLE_STEP waits after the slot; ERET is met outside trap mode. -/
def ssState : State := slotState { sx with ss := true }
theorem witness_SoftwareTraps :
    (AtSlot (trapState 0x20030) (act (trapState 0x20030)) ∧ (act (trapState 0x20030)).guard g0 = true ∧
      nextSlot (act (trapState 0x20030)).x (act (trapState 0x20030)).pc = nextSlot trapStrand 0 ∧
      TrapFits afterTrap 0 0 (nextSlot trapStrand 0) softCause (nextSlot trapStrand 0).pc cfg0 leaf1 vec1) ∧
    (AtSlot (trapState 0x20038) (act (trapState 0x20038)) ∧ (act (trapState 0x20038)).guard g0 = true ∧
      (act (trapState 0x20038)).x = trapStrand ∧ (act (trapState 0x20038)).pc = 0 ∧
      TrapFits (trapState 0x20038) 0 0 trapStrand brkCause 0 cfg0 leaf1 vec1) ∧
    (AtSlot ssState (act ssState) ∧ (act ssState).x.ss = true) ∧
    (Runs sw (act sw) g0 ∧ (act sw).spec sw = none ∧ (act sw).x.tm = false) :=
  ⟨⟨atSlotOf (by decide +kernel), by decide +kernel, by decide +kernel, fitOf (va := 0x20030) (by decide +kernel)⟩,
    ⟨atSlotOf (by decide +kernel), by decide +kernel, by decide +kernel, by decide +kernel, fitOf (va := 0x20038) (by decide +kernel)⟩,
    ⟨atSlotOf (by decide +kernel), by decide +kernel⟩, runs_sw, by decide +kernel, by decide +kernel⟩

/-- A record whose every word but the residue's is zero: it returns to program counter 0. -/
def eretBytes : List Byte := List.replicate 0x400 0 ++ residueBytes 7 0 3
def eretStrand : Strand := { sx with tm := true, prio := 3, record := 0x10800 }
/-- A state whose memory holds `b` at `pa`, and nothing else. -/
def memState (s : State) (pa : Nat) (b : List Byte) : State := { s with mem := b.zipIdx.map (fun p => (pa + p.2, p.1)) }
def eretState : State :=
  memState (stateOf { coreOf eretStrand with
    residues := [(3, some { core := 0, check := 7, v := false, seq := [], capture := none, bq := [true] })] } false) 0x10800 eretBytes
theorem smGet_zipIdx (b : List Byte) (m pa i : Nat) (h : i < b.length) :
    smGet 0 ((b.zipIdx m).map (fun p => (pa + p.2, p.1))) (pa + m + i) = b[i] := by
  induction b generalizing m i with
  | nil => simp at h
  | cons x t ih =>
    cases i with
    | zero => simp [smGet]
    | succ i =>
      have := ih (m + 1) i (by simpa using h)
      simp only [List.zipIdx_cons, List.map_cons, smGet, List.getElem_cons_succ]
      rw [if_neg (by omega), ← this]
      congr 1
      omega
theorem memState_byte (s : State) (pa i : Nat) (b : List Byte) (h : i < b.length) : (memState s pa b).byte (pa + i) = b[i] :=
  smGet_zipIdx b 0 pa i h
theorem readBytes_get (s : State) (pa n i : Nat) (h : i < n) : (readBytes s pa n)[i]? = some (s.byte (pa + i)) := by
  induction n generalizing pa i with
  | zero => omega
  | succ n ih =>
    cases i with
    | zero => rfl
    | succ i => rw [readBytes, List.getElem?_cons_succ, ih _ _ (by omega)]; congr 2; omega
theorem eret_load : strandLoadRaw eretState 0 supId 0x10800 2048 = .ok eretBytes := by
  have hl : eretBytes.length = 2048 := by decide +kernel
  rw [strandLoadRaw_ok (s := eretState) (c := 0) (id := supId) (va := 0x10800) (n := 2048) (l := leaf1) (by decide +kernel)
    (by decide +kernel) (by decide +kernel) (by decide +kernel) (by decide +kernel) (by decide +kernel) (by decide +kernel)
    (by decide +kernel) (by decide +kernel), show leaf1.pa 0x10800 = 0x10800 by decide +kernel]
  refine congrArg Except.ok (List.ext_getElem? (fun i => ?_))
  by_cases h : i < 2048
  · rw [readBytes_get _ _ _ _ h, List.getElem?_eq_getElem (by omega)]
    rw [eretState, memState_byte _ _ _ _ (by omega)]
  · rw [List.getElem?_eq_none (by simp; omega), List.getElem?_eq_none (by omega)]
theorem witness_TrapReturn :
    Runs eretState (act eretState) g0 ∧ (act eretState).spec eretState = none ∧ (act eretState).x.tm = true ∧
    strandLoadRaw eretState (act eretState).core { part := (eretState.core (act eretState).core).part, cls := 1 }
      (act eretState).x.record 2048 = .ok eretBytes ∧
    setBits (act eretState).x.epc 0 64 (leVal ((eretBytes.drop 0x100).take 8)) = (act eretState).x.epc ∧
    pcShapeOk (act eretState).x.epc = true ∧ seqIdle (act eretState).x = true ∧
    leVal ((eretBytes.drop 0x410).take 8) = 3 ∧ ((smGet none (eretState.core 0).residues 3).map (·.core)) = some 0 ∧
    eretBytes.drop 0x400 = residueBytes 7 0 3 ∧
    bit (BitVec.ofNat 64 (leVal ((eretBytes.drop 0x1E0).take 8)) : DWord) 63 = false ∧
    sequenced (eretState.core 0) + seqCount [] + 0 ≤ 16 := by
  refine ⟨runsOf ?_, ?_, ?_, eret_load, ?_, ?_, ?_, ?_, ?_, by simp [eretBytes], ?_, ?_⟩ <;> decide +kernel

/-- s14 is misaligned with a full stack and with an empty one; the stack's page holds what a return takes. -/
def emptyState : State := slotState { setS sx 14 0x10101 with rs := [] }
/-- Lines 0 and 1 carry TGT on their first two slots. -/
def tgtLines (s : State) : State := writeBytes (writeBytes s 0x3C [0, 0, 0x60]) 0x7C [0, 0, 0x60]
def stackState : State := tgtLines (slotState { sx with rs := List.replicate 8 0x40 })
def returnState : State := tgtLines sw
theorem witness_ReturnStackMemory :
    (Runs oddState (act oddState) g0 ∧ Settled oddState (act oddState) ∧ (act oddState).x.rs.length = 8 ∧
      checkStatic oddState (act oddState) (branchTarget (act oddState).pc 1 0) = .ok () ∧
      ((act oddState).sr.get 14 - 8).toNat % 8 ≠ 0 ∧ tileWaits (act oddState) ((act oddState).sr.get 14 - 8).toNat 8 = false) ∧
    (let s := stackState
     let a := act s
     let va := a.sr.get 14 - 8
     Runs s a g0 ∧ Settled s a ∧ a.x.rs.length = 8 ∧ checkStatic s a (branchTarget a.pc 1 0) = .ok () ∧
      checkTarget s a (a.sr.get 6) true = .ok () ∧ planOne s a va 8 8 .wr false ruleAny = .ok leaf1 ∧
      AtHome s a (mkAccess leaf1 va (.push (leBytes 8 (a.x.rs.getD 7 0).toNat)))) ∧
    (Runs emptyState (act emptyState) g0 ∧ Settled emptyState (act emptyState) ∧ (act emptyState).x.rs = [] ∧
      ((act emptyState).sr.get 14).toNat % 8 ≠ 0 ∧ tileWaits (act emptyState) ((act emptyState).sr.get 14).toNat 8 = false) ∧
    (let va := (act returnState).sr.get 14
     Runs returnState (act returnState) g0 ∧ Settled returnState (act returnState) ∧ (act returnState).x.rs = [] ∧ planOne returnState (act returnState) va 8 8 .rd false ruleAny = .ok leaf1 ∧
      Readable returnState (act returnState) (mkAccess leaf1 va (.load 8 none)) ∧
      checkTarget returnState (act returnState) (setBits (act returnState).pc 0 64 (leVal (readBytes returnState (leaf1.pa va) 8))) true = .ok ()) := by
  refine ⟨⟨runsOf ?_, ⟨?_, ?_⟩, ?_, ?_, ?_, ?_⟩, ⟨runsOf ?_, ⟨?_, ?_⟩, ?_, ?_, ?_, ?_, homeOf ?_⟩,
    ⟨runsOf ?_, ⟨?_, ?_⟩, ?_, ?_, ?_⟩, runsOf ?_, ⟨?_, ?_⟩, ?_, ?_, readOf ?_, ?_⟩ <;> decide +kernel

def supStrand : Strand := { sx with prio := 3, prog := .stage 2 5 }
def supState : State := slotState supStrand
/-- s6 = 0x40 lies on a page that the tables map. -/
def scanState : State := mapped (slotState { sx with prio := 3 }) 0 lea0
theorem witness_ControlRegisters :
    (Runs sw (act sw) g0 ∧ (act sw).spec sw = none ∧ seqIdle (act sw).x = true ∧ (act sw).x.prio ≠ 3) ∧
    (Runs supState (act supState) g0 ∧ (act supState).x.prio = 3 ∧ releaseReady supState (act supState) = .ok () ∧
      (act supState).x.prog = .stage 2 5) ∧
    (Runs scanState (act scanState) g0 ∧ (act scanState).x.prio = 3 ∧ (act scanState).x.prog = .none ∧
      scanState.walk 0 (scanState.core 0).part ((act scanState).sr.get 6) = .leaf (bigLeaf lea0)) := by
  refine ⟨⟨runs_sw, ?_, ?_, ?_⟩, ⟨runsOf ?_, ?_, ?_, ?_⟩, runsOf ?_, ?_, ?_, ?_⟩ <;> decide +kernel

/-! ### Witnesses: rows 0x08 to 0x0F -/

/-- `s1` holds two sound exponent bytes, `s2` two of 0xFF; k1 enables every lane. -/
def vx : Strand := { setS (setS freshStrand 1 0x7F80) 2 0xFFFF with k := freshStrand.k.set 1 0xFFFF, v := freshStrand.v.set 5 1 }
def vcore (i : Instr) : Core := { coreOf { vx with seq := [entryOf vx i] } with queues := Core.reset.queues.set 0 ring }
def vw (i : Instr) : State := stateOf (vcore i) true
def va (i : Instr) : Actor := act (vw i)
def v3 (d : VReg) : V3 := { sh := false, g := g0, lt := .i8, d := d, a := .v 1, b := .q 0 1, rm := .fctl, sat := true }
def v4 (d : VReg) : V4 := { sh := false, g := g0, lt := .fp32, d := d, a := .v 1, b := .v 2, c := .imm 3, rm := .rn, sat := false }
def vn (d : VReg) : V3n := { sh := false, g := g0, lt := .i16, d := d, a := .v 1, b := .s 1 }
def v2 (d : VReg) : V2 := { sh := false, g := g0, lt := .fp32, d := d, a := .v 1, sat := false }
def vsl (d : VReg) : VselF := { sh := false, g := g0, lt := .i32, d := d, a := .v 1, b := .v 2, c := 1 }
def vpm (d : VReg) : VpermF := { sh := false, g := g0, d := d, a := .v 1, b := .v 2 }
def vbc (d : VReg) : VbcastF := { sh := false, g := g0, lt := .i8, d := d, a := .v 1, idx := 15 }
def vi (d : VReg) : Instr := .vadd (v3 d)
def lws (d : VReg) : List LaneWise := laneWise (vw (vi d)) (va (vi d)) (v3 d) (v4 d) (vn d) (v2 d) (vsl d) (vpm d) (vbc d)
def lwOk (d : VReg) (p : LaneWise) : Bool :=
  decide (queuesReady (vw (vi d)) (va (vi d)) (regUseOut p.d ++ p.srcs.flatMap srcUse) = .ok ()) &&
    (p.srcs.mapM (vsrc (vw (vi d)) (va (vi d)) p.t)).isOk
/-- No flag of the lane-wise instructions that are no special function traps, and some lane is enabled. -/
def lwQuiet (d : VReg) (p : LaneWise) : Bool :=
  match p.srcs.mapM (vsrc (vw (vi d)) (va (vi d)) p.t) with
  | .ok vs =>
    let r := runLanes (p.f vs) ((List.range p.t.lanes).filter (fun n => (va (vi d)).enabled p.g p.t.width n)) (vcore (vi d)).seed
    (firstCause (vcore (vi d)).fctl r.2.1).isNone && !r.1.isEmpty
  | .error _ => false
theorem witness_VectorLanes :
    AtEntry (vw (vi (.v 3))) (va (vi (.v 3))) ∧ (lws (.v 3)).length = 27 ∧ (lws (.v 3)).all (lwOk (.v 3)) = true ∧
    ((lws (.v 3)).take 19).all (lwQuiet (.v 3)) = true := by
  refine ⟨atEntryOf ?_, ?_, ?_, ?_⟩ <;> decide +kernel

theorem witness_IntegerLanes :
    LaneTy.isInt .i8 = true ∧ LaneTy.isInt .z64 = true ∧ (4 ∈ [4, 8, 16, 32, 64] ∧ 31 < 128 / 4 ∧ ([(31, 5)].map (·.1)).Nodup) ∧
    (0 : Nat) < 1 := by decide

def cvt (dt st : LaneTy) (c : Fin 16) : VcvtF :=
  { sh := false, g := g0, dt := dt, st := st, pos := 0, d := 3, a := .v 1, c := some c, rm := .rn, sat := false }
def cvtOk (dt st : LaneTy) (c : Fin 16) : Bool :=
  let i := Instr.vcvt (cvt dt st c)
  (((vw i).actor.any (fun a => a.exec)) && decide (queuesReady (vw i) (va i) (srcUse (.v 1)) = .ok ()) &&
    decide (vsrc (vw i) (va i) st (.v 1) = .ok 0))
theorem witness_BlockConversions :
    (cvtOk .db8 .fp32 2 = true ∧ LaneTy.isBlock .db8 = true ∧ bits ((va (.vcvt (cvt .db8 .fp32 2))).sr.get 2) 0 8 = 0xFF) ∧
    (cvtOk .db8 .fp32 1 = true ∧ LaneTy.isBlock .fp32 = false ∧ bits ((va (.vcvt (cvt .db8 .fp32 1))).sr.get 1) 0 8 = 0x80 ∧
      bits ((va (.vcvt (cvt .db8 .fp32 1))).sr.get 1) 8 8 = 0x7F ∧
      (let a := va (.vcvt (cvt .db8 .fp32 1))
       let ls := (a.lanes g0 .db8).filter (fun n => (cvtSource .fp32 .db8 0 n).isSome)
       firstCause 0 (runLanes (fun n seed => eltToBlock false .rn false 0x80 0x7F
        (laneElt .fp32 (lane 32 0 ((cvtSource .fp32 .db8 0 n).getD 0))) seed) ls 1).2.1 = none)) ∧
    (cvtOk .fp32 .db8 1 = true ∧
      (let a := va (.vcvt (cvt .fp32 .db8 1))
       let ls := (a.lanes g0 .fp32).filter (fun n => (cvtSource .db8 .fp32 0 n).isSome)
       (∀ n ∈ ls, (blockDecode false 0x80 0x7F (lane 8 0 ((cvtSource .db8 .fp32 0 n).getD 0))).isSome = true) ∧
       firstCause 0 (runLanes (fun n seed => eltTo .fp32 .rn false
        (.num ((blockDecode false 0x80 0x7F (lane 8 0 ((cvtSource .db8 .fp32 0 n).getD 0))).getD numZero)) seed) ls 1).2.1 = none)) ∧
    (let i := Instr.vcvt { cvt .fp32 .db8 2 with a := .v 5 }
     AtEntry (vw i) (va i) ∧ queuesReady (vw i) (va i) (srcUse (.v 5)) = .ok () ∧ vsrc (vw i) (va i) .db8 (.v 5) = .ok 1 ∧
      ((vw i).core 0).spec = none ∧ ((va i).lanes g0 .fp32).any (fun n =>
        (blockDecode false 0xFF 0xFF (lane 8 1 ((cvtSource .db8 .fp32 0 n).getD 0))).isNone) = true) := by
  refine ⟨⟨?_, ?_, ?_⟩, ⟨?_, ?_, ?_, ?_, ?_⟩, ⟨?_, ?_⟩, atEntryOf ?_, ?_, ?_, ?_, ?_⟩ <;> decide +kernel

def vcmpF : VcmpF := { sh := false, g := g0, lt := .i8, cond := .eq, d := 2, a := .v 1, b := none }
def vextF (g : Guard) : VextF := { sh := false, g := g, lt := .i64, d := .s 5, a := .q 0 1, idx := 1 }
def vinsF (g : Guard) : VinsF := { sh := false, g := g, lt := .i32, d := 3, a := .s 1, idx := 3 }
def vdotF : VdotF := { sh := false, g := g0, lt := .i8, d := .v 3, a := .v 1, b := .v 2, c := some (.v 4), rm := .rn, sat := false }
def vredF (g : Guard) : VredF := { sh := false, g := g, lt := .i32, op := .add, d := .v 3, a := .v 1, rm := .rn, sat := false }
def vpackF : VpackF := { sh := false, g := g0, dt := .i8, st := .i16, d := 3, a := .v 1, b := .v 2, rm := .rn, sat := true }
def vunpkF : VunpkF := { sh := false, g := g0, dt := .i16, st := .i8, d := 30, a := .v 1, rm := .rn, sat := false }
def ready (i : Instr) (us : List QUse) : Bool :=
  ((vw i).actor.any (fun a => a.exec)) && decide (queuesReady (vw i) (va i) us = .ok ())
/-- k0 is always true, so only a negated k2 disables every lane: gF is false of k1, and true of k3 it is not. -/
def gOff : Guard := { neg := false, k := 3 }
theorem witness_VectorElements :
    (ready (.vcmp vcmpF) (srcUse vcmpF.a ++ vcmpF.b.toList.flatMap srcUse) = true ∧
      vsrc (vw (.vcmp vcmpF)) (va (.vcmp vcmpF)) .i8 (.v 1) = .ok 0 ∧
      vcmpF.b.toList.mapM (vsrc (vw (.vcmp vcmpF)) (va (.vcmp vcmpF)) .i8) = .ok []) ∧
    (ready (.vext (vextF g0)) (regUseIn (vextF g0).a) = true ∧ (va (.vext (vextF g0))).guard g0 = true ∧
      vreg (vw (.vext (vextF g0))) (va (.vext (vextF g0))) (.q 0 1) = .ok 0) ∧
    (ready (.vext (vextF gOff)) (regUseIn (vextF gOff).a) = true ∧ (va (.vext (vextF gOff))).guard gOff = false) ∧
    ((va (.vins (vinsF gOff))).enabled gOff 32 3 = false ∧ (va (.vins (vinsF g0))).enabled g0 32 3 = true ∧
      vsrc (vw (.vins (vinsF g0))) (va (.vins (vinsF g0))) .i32 (.s 1) = .ok 0x7F8000007F8000007F8000007F80) ∧
    (ready (.vdot vdotF) (regUseOut (.v 3) ++ srcUse (.v 1) ++ srcUse (.v 2) ++ (some (VSrc.v 4)).toList.flatMap srcUse) = true ∧
      (some (VSrc.v 4)).toList.mapM (vsrc (vw (.vdot vdotF)) (va (.vdot vdotF)) (dotDest .i8)) = .ok [0] ∧
      firstCause 0 (runLanes (dotLane .i8 .rn false 0 0 (some 0)) ((va (.vdot vdotF)).lanes g0 (dotDest .i8)) 1).2.1 = none) ∧
    (ready (.vred (vredF g0)) (regUseOut (.v 3) ++ srcUse (.v 1)) = true ∧
      vsrc (vw (.vred (vredF g0))) (va (.vred (vredF g0))) .i32 (.v 1) = .ok 0 ∧
      firstCause 0 (redTree .i32 .add .rn false 2 [some 0, some 0, some 0, some 0] 1).2.1 = none) ∧
    (ready (.vpack vpackF) (srcUse (.v 1) ++ srcUse (.v 2)) = true ∧
      firstCause 0 (runLanes (fun _ seed => eltTo .i8 .rn true (laneElt .i16 0) seed) ((va (.vpack vpackF)).lanes g0 .i8) 1).2.1 =
        none) ∧
    (let f : VcvtF := { cvt .i32 .fp32 1 with c := none }
     ready (.vcvt f) (srcUse f.a) = true ∧ LaneTy.isBlock .i32 = false ∧ vsrc (vw (.vcvt f)) (va (.vcvt f)) .fp32 (.v 1) = .ok 0 ∧
      firstCause 0 (runLanes (fun _ seed => eltTo .i32 .rn false (laneElt .fp32 0) seed)
        (((va (.vcvt f)).lanes g0 .i32).filter (fun n => (cvtSource .fp32 .i32 0 n).isSome)) 1).2.1 = none) ∧
    (ready (.vunpk vunpkF) (srcUse (.v 1)) = true ∧ vunpkF.d.val ≤ 30 ∧
      vsrc (vw (.vunpk vunpkF)) (va (.vunpk vunpkF)) .i8 (.v 1) = .ok 0) := by
  refine ⟨⟨?_, ?_, ?_⟩, ⟨?_, ?_, ?_⟩, ⟨?_, ?_⟩, ⟨?_, ?_, ?_⟩, ⟨?_, ?_, ?_⟩, ⟨?_, ?_, ?_⟩, ⟨?_, ?_⟩, ⟨?_, ?_, ?_, ?_⟩, ?_, ?_, ?_⟩ <;>
    decide +kernel

/-- An open capture holds a compare that writes k2. -/
def lateCap : Capture := { left := 5, es := [{ pc := 1, i := .vcmp vcmpF, s := sx.s, k := sx.k, shadowed := false, badS := 0, badK := 0,
                                               num := 0, taken := [] }], reps := 2 }
def lateState : State := slotState { sx with capture := some lateCap }
theorem witness_Sequencing :
    (AtSlot sw (act sw) ∧ (act sw).x.ss = false ∧ seqEntries (act sw).x = [] ∧ (act sw).x.capture = none ∧ Runs sw (act sw) g0 ∧
      sequenced (sw.core (act sw).core) < 16) ∧
    (AtSlot lateState (act lateState) ∧ (act lateState).x.ss = false ∧ (act lateState).x.capture = some lateCap ∧
      lateCap.es.any (fun e => entryWritesK e 2) = true) ∧
    (AtEntry (vw (.vdrain { g := gF })) (va (.vdrain { g := gF })) ∧
      AtEntry (vw (.nop { g := g0, exec := true })) (va (.nop { g := g0, exec := true }))) ∧
    (AtEntry (vw (.kpush { g := g0, k := 1, mode := 0 })) (va (.kpush { g := g0, k := 1, mode := 0 })) ∧
      (va (.kpush { g := g0, k := 1, mode := 0 })).guard g0 = true ∧ (va (.kpush { g := g0, k := 1, mode := 0 })).x.bq.length < 8) := by
  refine ⟨⟨atSlotOf ?_, ?_, ?_, ?_, runs_sw, ?_⟩, ⟨atSlotOf ?_, ?_, ?_, ?_⟩, ⟨atEntryOf ?_, atEntryOf ?_⟩, atEntryOf ?_, ?_, ?_⟩ <;> decide +kernel

/-- `s1` the base of a ring in the core's own share (page 16), `s2` a local ring of 256 slots of 16 bytes, `s3` an unbinding,
`s4` a reserved bit. -/
def qx : Strand := setS (setS (setS (setS freshStrand 1 0x100000) 2 0x10000) 3 0x310000) 4 4
def shareLeaf : Leaf := { leaf1 with lo := BitVec.ofNat 64 (0xC00000000000D000 + (0x010000000000 + 0x50000)) }
def qcore (p : Prog) (q : Queue) : Core :=
  { coreOf { qx with prog := p } with
    tc := [page 0 true, { page 16 false with lo := shareLeaf.lo }], queues := Core.reset.queues.set 0 q }
def qw (p : Prog) (q : Queue) : State := stateOf (qcore p q) false
def linkedOut : Queue := { ring with dir := 1, peer := 1 }
theorem witness_Queues :
    (let s := qw .none ring
     Runs s (act s) g0 ∧ (act s).spec s = none ∧ earlierNames (act s).x 0 (fun _ => true) = false ∧
      slotInUse (s.core 0) (act s).k 0 = false ∧ (act s).waited = [] ∧
      cfgReserved ((act s).sr.get 4) = true ∧ cfgReserved ((act s).sr.get 2) = false ∧ bits ((act s).sr.get 2) 8 9 = 256 ∧
      ((act s).sr.get 2).extractLsb' 20 2 = 0#2 ∧ ((act s).sr.get 3).extractLsb' 20 2 = 3#2 ∧
      planRing s (act s) ((act s).sr.get 1) 16 4096 = .ok 0x010000050000 ∧
      (ring.bound = true ∧ ring.linked = true ∧ ring.dir = 0 ∧ 3 ≤ ring.free ∧ ring.filled = 1)) ∧
    (let s := qw (.stage 1 0) linkedOut
     Runs s (act s) g0 ∧ (act s).waited = [] ∧ linkedOut.bound = true ∧ linkedOut.dir = 1 ∧ linkedOut.badLink = false ∧
      linkedOut.linked = true ∧ (act s).x.prog = .stage 1 0) ∧
    (let s := qw .none { linkedOut with dir := 2 }
     Runs s (act s) g0 ∧ (act s).spec s = none ∧ (act s).waited = [] ∧ unordered s (act s) = false ∧
      3 ≤ Queue.free { linkedOut with dir := 2 } ∧ linkedOut.filled = 1 ∧ advCount (act s) (.imm 1) = 1) ∧
    (Runs (qw .none Queue.reset) (act (qw .none Queue.reset)) g0 ∧ Queue.reset.bound = false) ∧
    (let i : Instr := .qadvP { g := g0, exec := true, q := 0, n := .imm 1 }
     AtEntry (vw i) (va i) ∧ (va i).guard g0 = true ∧ (va i).spec (vw i) = none ∧ (va i).waited = [] ∧ advCount (va i) (.imm 1) = 1) ∧
    (AtEntry (vw (vi (.q 0 3))) (va (vi (.q 0 3))) ∧ (va (vi (.q 0 3))).spec (vw (vi (.q 0 3))) = none ∧
      shadowMarks (vw (vi (.q 0 3))) (va (vi (.q 0 3))) = false ∧ (lws (.q 0 3)).all (lwOk (.q 0 3)) = true ∧
      ((lws (.q 0 3)).take 19).all (lwQuiet (.q 0 3)) = true) := by
  refine ⟨⟨runsOf ?_, ?_, ?_, ?_, ?_, ?_, ?_, ?_, ?_, ?_, ?_, ?_⟩, ⟨runsOf ?_, ?_, ?_, ?_, ?_, ?_, ?_⟩,
    ⟨runsOf ?_, ?_, ?_, ?_, ?_, ?_, ?_⟩, ⟨runsOf ?_, ?_⟩,
    ⟨atEntryOf ?_, ?_, ?_, ?_, ?_⟩, atEntryOf ?_, ?_, ?_, ?_, ?_⟩ <;> decide +kernel

/-! ### Witnesses: rows 0x14 to 0x17 -/

/-- Core 0's translation tables map the first 256 MiB of space 0 to physical address 0 and the second to its package's
shares; its package holds the configuration of partition 63. -/
def world (s : State) : State :=
  writeD (mapped (configured s) 0 0xC00000000000D000) 0x320010 (BitVec.ofNat 64 (0xC00000000000D000 + 0x010000000000))
/-- Address `ofs` of core 0's own share, in those tables. -/
def shareVa (ofs : Nat) : Word := BitVec.ofNat 72 (0x10000000 + ofs)
def wleaf : Leaf := { entry := 0x320000, lo := 0xC00000000000D000, hi := 0, big := true, passed := false }
def wshare : Leaf :=
  { entry := 0x320010, lo := BitVec.ofNat 64 (0xC00000000000D000 + 0x010000000000), hi := 0, big := true, passed := false }

/-- `s1`, `s2` sound addresses; `s3` 64 bytes; `s4`, `s7` misaligned; `s5` a member's word of fold 0 with one element of 64 bytes;
`s8` 0x10000, `s9` and `s10` one row of 64 bytes. -/
def ex : Strand :=
  { setS (setS (setS (setS (setS (setS (setS (setS freshStrand 1 0x10000) 2 0x10040) 3 64) 4 0x10008) 5 16) 8 0x20000) 10
      (2 ^ 32 + 64)) 7 1 with memb := 1 }
def ecore : Core := { coreOf ex with tc := [page 0 true] }
def ew : State := world (stateOf ecore false)
def ea : Actor := act ew
theorem runs_ew : Runs ew ea g0 := runsOf (by decide +kernel)
theorem settled_ew : Settled ew ea := ⟨by decide +kernel, by decide +kernel⟩
def desc (w6 : Nat) : State := writeD ew 0x10030 (BitVec.ofNat 64 w6)
/-- A staged, a running and a lock-holding command of strand 0. -/
def cmd0 : Command :=
  { eng := 0, seq := 7, core := 0, strand := 0, part := 63, prio3 := false, level := 0, comp := 0, task := 0
    op := .cpy 0x10000 0x10040 1 64 0 0, ranges := [], registered := true, running := false, pub := 0, next := 0, todo := none
    units := 0, missing := [], status := none, stop := false, sent := false, result := [], flying := [] }
def stagedState : State := world (stateOf { ecore with staging := [cmd0] } false)
def runningState : State := world (stateOf { ecore with chains := ecore.chains.set 0 [{ cmd0 with running := true }] } false)
def is7 (x : Command) : Bool := x.eng == 0 && x.seq == 7
/-- `s1` names the mailbox page of core 0's own position. -/
def mailLeaf : Leaf := { leaf1 with lo := BitVec.ofNat 64 (0xC00000000000D000 + 0x030000000000) }
def mailState (b : MailBind) : State :=
  stateOf { coreOf (setS freshStrand 1 0x110000) with
    tc := [page 0 true, { page 17 false with lo := mailLeaf.lo }], mailboxes := [(0, { bind := b, parked := [] })] } false
theorem witness_EngineInstructions :
    (Settled ew ea ∧ Runs ew ea g0 ∧ (ew.core ea.core).staging.length < 32 ∧ (ea.sr.get 4).toNat % 64 ≠ 0 ∧
      (ea.sr.get 1).toNat % 64 = 0 ∧ (ea.sr.get 2).toNat % 64 = 0 ∧ bits (ea.sr.get 3) 0 64 % 64 = 0 ∧
      bits (ea.sr.get 7) 0 64 % 64 ≠ 0 ∧ completionPair ew ea none = .ok (0, 0)) ∧
    (bit ea.x.memb 0 = true ∧ bit ea.x.memb 15 = false ∧ bits (ea.sr.get 5) 32 4 = 0 ∧ bits (ea.sr.get 5) 0 32 * credSize .fp32 = 64 ∧
      bits (ea.sr.get 5) 36 36 = 0) ∧
    ((ea.sr.get 8).toNat % 2 ^ 16 = 0 ∧ bits (ea.sr.get 10) 0 32 = 64 ∧ bits (ea.sr.get 10) 32 32 = 1) ∧
    (Runs (desc (6 * 2 ^ 32 + 32)) (act (desc (6 * 2 ^ 32 + 32))) g0 ∧
      planOne (desc (6 * 2 ^ 32 + 32)) (act (desc (6 * 2 ^ 32 + 32))) 0x10000 64 64 .rd false ruleAny = .ok wleaf ∧
      Readable (desc (6 * 2 ^ 32 + 32)) (act (desc (6 * 2 ^ 32 + 32))) (mkAccess wleaf 0x10000 (.load 64 none)) ∧
      (∀ i ∈ [0, 1, 2, 3, 4, 5, 7], readU (desc (6 * 2 ^ 32 + 32)) (0x10000 + 8 * i) 8 = 0) ∧
      readU (desc (6 * 2 ^ 32 + 32)) 0x10030 8 = 6 * 2 ^ 32 + 32 ∧ readU (desc (5 * 2 ^ 32)) 0x10030 8 = 5 * 2 ^ 32) ∧
    (ea.spec ew = none ∧ unordered ew ea = false ∧
      (ew.core 0).staging.filter (fun x => x.strand == ea.k && x.eng == 0) = [] ∧
      (ew.core 0).staging.find? is7 = none ∧ ((ew.core 0).chains.get 0).find? is7 = none ∧ (ew.core 0).retained.find? is7 = none) ∧
    (Runs stagedState (act stagedState) g0 ∧ (stagedState.core 0).staging.filter (fun x => x.strand == 0 && x.eng == 0) = [cmd0] ∧
      cmd0.core = 0 ∧ cmd0.registered = true ∧ isZeroLength cmd0 = false ∧ (stagedState.core 0).staging.find? is7 = some cmd0) ∧
    (Runs runningState (act runningState) g0 ∧
      ((runningState.core 0).chains.get 0).find? is7 = some { cmd0 with running := true } ∧
      (runningState.core 0).staging.find? is7 = none) ∧
    (∀ b ∈ [MailBind.none, .slot 3, .pipeline 0 0],
      strandLeaf (mailState b) 0 false 0x110000 true false false = .ok mailLeaf ∧ (mailState b).actor.any (fun a => !a.exec) = true ∧
      mailLeaf.fmtOk = true ∧ siteOf (mailLeaf.pa 0x110000) false = .mailbox 0 0 0 ∧ ((mailState b).core 0).halt = .none ∧
      (smGet Mailbox.reset ((mailState b).core 0).mailboxes 0).bind = b) := by
  refine ⟨⟨settled_ew, runs_ew, ?_, ?_, ?_, ?_, ?_, ?_, ?_⟩, ?_, ?_, ⟨runsOf ?_, ?_, readOf ?_, ?_, ?_, ?_⟩, ?_,
    ⟨runsOf ?_, ?_, ?_, ?_, ?_, ?_⟩, ⟨runsOf ?_, ?_, ?_⟩, ?_⟩ <;> decide +kernel

/-- `s1` an answer of this core, `s2` one of core 1, `s3` an object of this core, `s4` a class instance of another kind, `s5` an
answer of this core under an older generation. -/
def hx : Strand :=
  setS (setS (setS (setS (setS freshStrand 1 ((answerHandle 0 0 0 0).setWidth 72)) 2 ((answerHandle 1 1 0 0).setWidth 72)) 3
    ((objectHandle 0 1 5).setWidth 72)) 4 0x8000000000000000) 5 ((answerHandle 0 0 0 1).setWidth 72)
def hw : State := world (slotState hx)
def ha : Actor := act hw
def hd (i : Fin 16) : DWord := low64 (ha.sr.get i)
theorem runs_hw : Runs hw ha g0 := runsOf (by decide +kernel)
theorem handle_self : HandleOk hw ha (hd 1) false true := by
  refine ⟨?_, ?_, ?_, ?_, ?_⟩ <;> decide +kernel
theorem handle_other : HandleOk hw ha (hd 2) false true := by
  refine ⟨?_, ?_, ?_, ?_, ?_⟩ <;> decide +kernel
theorem handle_object : HandleOk hw ha (hd 3) true true := by
  refine ⟨?_, ?_, ?_, ?_, ?_⟩ <;> decide +kernel
/-- Core 0 keeps the broken answer of core 1. -/
def brokenState : State :=
  world (stateOf { coreOf hx with pib := [.known (answerHandle 1 1 0 0) (ansBroken 3 0)] } false)
/-- The first record of core 0's cluster is free. -/
theorem witness_Answers :
    (Runs hw ha g0 ∧ ha.spec hw = none ∧ 2 ≤ hKind (hd 4) ∧ hd 0 = 0 ∧ hKind (hd 3) = 0 ∧ hd 3 ≠ 0 ∧
      hKind (hd 5) = 1 ∧ hHome (hd 5) = ha.core ∧ slotGen hw ha.core (hSlot (hd 5)) ≠ hGen (hd 5)) ∧
    HandleOk hw ha (hd 1) false true ∧ HandleOk hw ha (hd 2) false true ∧ hHome (hd 1) = ha.core ∧ hHome (hd 2) ≠ ha.core ∧
    (hw.core 0).halt = .none ∧ freeTask hw (clOf ha.core) = some (taskPa 0 0) ∧ pibCount (hw.core 0) < 256 ∧
    (registeredState (writeD hw (slotStatusPa 0 0) (BitVec.ofNat 64 (2 ^ 55))) 0 (hd 1)).state.toNat < 2 ∧ (registeredState hw 0 (hd 2)).state.toNat < 2 ∧ pibState (hw.core 0) (hd 2) = none ∧
    (Runs brokenState (act brokenState) g0 ∧ 2 ≤ (registeredState brokenState 0 (low64 ((act brokenState).sr.get 2))).state.toNat ∧
      freeTask brokenState 0 = some (taskPa 0 0)) := by
  refine ⟨⟨runs_hw, ?_, ?_, ?_, ?_, ?_, ?_, ?_, ?_⟩, handle_self, handle_other, ?_, ?_, ?_, ?_, ?_, ?_, ?_, ?_, runsOf ?_, ?_, ?_⟩ <;> decide +kernel

theorem witness_Invocations :
    (ha.spec hw = none ∧ ha.x.hsync = [] ∧ Runs hw ha g0 ∧ HandleOk hw ha (hd 3) true true ∧ freeSlot hw ha.core = some 0) ∧
    (let s := mailState .none
     Runs s (act s) g0 ∧ strandLeaf s 0 false 0x110000 false true false = .ok mailLeaf ∧ mailLeaf.fmtOk = true ∧
      spaceOf (0x110000 : Word) ≠ 0xC0) := by
  refine ⟨⟨?_, ?_, runs_hw, handle_object, ?_⟩, runsOf ?_, ?_, ?_, ?_⟩ <;> decide +kernel

/-- `s1` ordinary memory of core 0's own share, `s2` a size, `s3` too large a size, `s6` the handle of object 1 of class 5, which
the directory holds, `s7` core 1. -/
def ox : Strand :=
  setS (setS (setS (setS (setS (setS freshStrand 1 0x10060000) 2 256) 3 (2 ^ 40)) 4 0x10060001) 6
    ((objectHandle 0 1 5).setWidth 72)) 7 1
def ocore (t : List TcEntry) : Core := { coreOf ox with tc := page 0 true :: t }
def ow : State := world (stateOf (ocore []) false)
def oa : Actor := act ow
/-- The entry of object 1. -/
def owHeld : State := writeD ow 0x18030 (BitVec.ofNat 64 (2 ^ 63 + 5 * 2 ^ 40 + 256))
theorem runs_ow : Runs ow oa g0 := runsOf (by decide +kernel)
theorem handle_ow : HandleOk owHeld (act owHeld) (low64 ((act owHeld).sr.get 6)) true false := by
  refine ⟨?_, ?_, ?_, ?_, ?_⟩ <;> decide +kernel
theorem witness_Objects :
    (Runs ow oa g0 ∧ oa.spec ow = none ∧ (oa.sr.get 4).toNat % 64 ≠ 0 ∧ (oa.sr.get 1).toNat % 64 = 0 ∧
      2 ^ 40 ≤ (oa.sr.get 3).toNat ∧ (oa.sr.get 0).toNat = 0 ∧ 0 < (oa.sr.get 2).toNat ∧ (oa.sr.get 2).toNat < 2 ^ 40) ∧
    (planObject ow oa (pagePieces 0x10060000 256) = .ok [(0x10060000, 256, wshare)] ∧ ownPiece wshare 0 0x10060000 256 = true ∧
      ow.cfg 0 = some cfg0 ∧ freeIndex ow 0 cfg0 1 (cfg0.dircap - 1) = .ok (some 1) ∧
      (unitWrite ow 0 (dirVa cfg0 0 1) (leBytes 32 0x10060000)).isOk = true) ∧
    (Runs owHeld (act owHeld) g0 ∧ owHeld.cfg 0 = some cfg0 ∧ HandleOk owHeld (act owHeld) (low64 ((act owHeld).sr.get 6)) true false ∧
      hOwner (low64 ((act owHeld).sr.get 6)) = 0 ∧ hIndex (low64 ((act owHeld).sr.get 6)) = 1 ∧
      (unitRead owHeld 0 (dirVa cfg0 0 1 + 16)).isOk = true ∧
      bits (BitVec.ofNat 64 (2 ^ 63 + 5 * 2 ^ 40 + 256) : DWord) 40 12 = hClass (low64 ((act owHeld).sr.get 6)) ∧
      (unitWrite owHeld 0 (dirVa cfg0 0 1 + 16) (leBytes 8 0)).isOk = true) ∧
    (strandLeaf ow 0 false 0x10060000 true false false = .ok wshare ∧ wshare.fmtOk = true ∧ ownerOf wshare 0x10060000 = some 0 ∧
      ownerOf wleaf 0x10000 = none ∧ bits (oa.sr.get 7) 0 22 = 1 ∧ seqIdle oa.x = true ∧ releaseReady ow oa = .ok () ∧
      oa.x.rs = [] ∧ oa.x.memb = 0 ∧ publishStrand ow oa.core oa.k none = some ow) := by
  refine ⟨⟨runs_ow, ?_, ?_, ?_, ?_, ?_, ?_, ?_⟩, ?_, ⟨runsOf ?_, ?_, handle_ow, ?_, ?_, ?_, ?_, ?_⟩,
    ⟨?_, ?_, ?_, ?_, ?_, ?_, ?_, ?_, ?_, rfl⟩⟩ <;> decide +kernel

/-- `s1` a descriptor, level record or image; `s2` one; `s6` a phase token of level record 0x10100 in phase 2; `s7` a bad token
address; k1 true. -/
def tx : Strand :=
  { setS (setS (setS (setS (setS freshStrand 1 0x10000) 2 1) 6 (BitVec.ofNat 72 (0x10100 / 32 * 65536 + 2))) 7 (2 ^ 60)) 8 0x10100
    with k := freshStrand.k.set 1 0xFFFF }
def tcore : Core := { coreOf tx with tc := [page 0 true] }
/-- The state with some words written. -/
def words (l : List (Nat × Nat)) : State := l.foldl (fun s p => writeD s p.1 (BitVec.ofNat 64 p.2)) (world (stateOf tcore false))
def tw : State := words []
def ta : Actor := act tw
theorem runs_tw : Runs tw ta g0 := runsOf (by decide +kernel)
/-- A launch descriptor: entry, level 0x10100, one cluster, one unit. -/
def launchWords (prio : Nat) : List (Nat × Nat) :=
  [(0x10000, 0x40), (0x10008, 0x10100), (0x10010, 1), (0x10018, 2 ^ 32 + prio * 2 ^ 26)]
def lw (prio : Nat) : State := words (launchWords prio)
def lbytes (prio : Nat) : List Byte :=
  leBytes 8 0x40 ++ leBytes 8 0x10100 ++ leBytes 8 1 ++ leBytes 8 (2 ^ 32 + prio * 2 ^ 26) ++ List.replicate 32 0
def isOk' (r : R State) : Bool := r.isOk
theorem witness_Launches :
    ∀ prio ∈ [0, 3],
      let s := lw prio
      let a := act s
      (s.actor.any (fun a => !a.exec && a.guard g0 && !a.x.ss)) = true ∧ a.spec s = none ∧ a.sr.get 1 = 0x10000 ∧
      recordLoad s a 0x10000 64 64 = .ok (lbytes prio) ∧ (launchDesc (lbytes prio)).level = 0x10100 ∧
      recordLoad s a 0x10108 8 8 = .ok (List.replicate 8 0) ∧
      launchStores s a (launchDesc (lbytes prio)) 0x10000 (decide (prio = 3)) = .ok () ∧ (takeSlot s 0 0).isSome = true ∧
      (∀ q ∈ takeSlot s 0 0, (match recordStore q.2 a 0x10110 (leBytes 8 q.1.toNat) 8 with
        | .ok s1 => (match recordStore s1 a 0x10100 (leBytes 8 (2 ^ 61 + 1)) 8 with
          | .ok s2 => isOk' (recordStore s2 a 0x10118 (leBytes 8 0) 8)
          | .error _ => false)
        | .error _ => false) = true) ∧ wordAt (List.replicate 8 0) 0 = 0 ∧
      launchRefused s 0 (launchDesc (lbytes prio)) = decide (prio = 3) ∧ (launchDesc (lbytes prio)).lkind = 0 ∧
      (launchDesc (lbytes prio)).nstage = 0 ∧ (launchDesc (lbytes prio)).units = 1 := by
  decide +kernel

def tqState (q : TileQueue) : State := { tw with clusters := [(0, { Cluster.reset with tq := q })] }
def tq (claims : Nat) : TileQueue :=
  { configured := true, rows := 3, cols := 3, srows := 2, scols := 2, rule := 0, claims := claims }
/-- An image without a level, one of level 0x10100, a running level of kind 1, a phase record of kind 3 in phase `p`. -/
def image (lv : Nat) : List (Nat × Nat) := [(0x10008, 0x40), (0x10030, 2 ^ 5), (0x10038, lv)]
def levelState (p : Nat) : State := words [(0x10100, 3 * 2 ^ 61 + p * 2 ^ 32)]
def running : State := words (image 0x10100 ++ [(0x10100, 2 ^ 61)])
theorem witness_Tasks :
    (Runs tw ta g0 ∧ ta.spec tw = none ∧ recordLoad tw ta 0x10000 16 16 = .ok (List.replicate 16 0) ∧
      recordLoad (words [(0x10000, 2 ^ 32 + 1), (0x10008, 2 ^ 16 + 1)]) (act (words [(0x10000, 2 ^ 32 + 1), (0x10008, 2 ^ 16 + 1)]))
        0x10000 16 16 = .ok (leBytes 8 (2 ^ 32 + 1) ++ leBytes 8 (2 ^ 16 + 1))) ∧
    ((tqState TileQueue.reset).cluster 0).tq.configured = false ∧ tileClaim (tq 4) = none ∧ tileClaim (tq 3) = some (2, 2, 1, 1) ∧
    ((tq 3).rule = 0 ∧ 0 < (tq 3).srows.toNat ∧ 0 < (tq 3).scols.toNat) ∧
    (recordLoad (words (image 0)) (act (words (image 0))) 0x10000 64 64 =
        .ok (List.replicate 8 0 ++ leBytes 8 0x40 ++ List.replicate 32 0 ++ leBytes 8 32 ++ List.replicate 8 0) ∧
      freeTask (words (image 0)) (clOf 0) = some (taskPa 0 0)) ∧
    (recordLoad running (act running) 0x10100 8 8 = .ok (leBytes 8 (2 ^ 61)) ∧ lvRunning (2 ^ 61) = true ∧
      devPa running 0 63 0x10100 true = .ok 0x10100 ∧ freeTask running (clOf 0) = some (taskPa 0 0) ∧
      0x10108 ≤ taskPa 0 0 ∧ isOk' (recordStore running (act running) 0x10100 (leBytes 8 0) 8) = true ∧
      strandLeaf running 0 true 0x10100 true false false = .ok wleaf) ∧
    (recordLoad (words (image 0x10100)) (act (words (image 0x10100))) 0x10100 8 8 = .ok (List.replicate 8 0) ∧
      lvRunning 0 = false ∧ lvKind 0 ≠ 3) ∧
    (bits (ta.sr.get 7) 53 11 ≠ 0 ∧ bits (ta.sr.get 8) 53 11 = 0 ∧ recordLoad tw ta 0x10100 8 32 = .ok (List.replicate 8 0)) ∧
    (∀ p ∈ [1, 2, 3, 4, 32770], let s := levelState p
      tokenVa (act s) (low64 ((act s).sr.get 6)) = 0x10100 ∧ bits (low64 ((act s).sr.get 6)) 0 16 = 2 ∧
      recordLoad s (act s) 0x10100 8 8 = .ok (leBytes 8 (3 * 2 ^ 61 + p * 2 ^ 32)) ∧
      lvKind (BitVec.ofNat 64 (3 * 2 ^ 61 + p * 2 ^ 32)) = 3 ∧ freeTask s (clOf 0) = some (taskPa 0 0) ∧
      strandLeaf s 0 true 0x10100 true false false = .ok wleaf) := by
  refine ⟨⟨runs_tw, ?_⟩, ?_⟩ <;> decide +kernel

def fcontrib (arrived outcome failed : Bool) : Contribution :=
  { fold := 0, round := 0, kind := 0, since := 0, arrived := arrived, outcome := outcome, failed := failed }
def fx (memb eject : BitVec 16) (q : Option Contribution) : State :=
  slotState { sx with memb := memb, eject := eject, contrib := q }
/-- The hypotheses that the clauses of a strand with these masks and this contribution share. -/
def foldOk (memb eject : BitVec 16) (q : Option Contribution) : Bool :=
  let s := fx memb eject q
  let a := act s
  (s.actor.any (fun a => !a.exec && a.guard g0 && !a.x.ss)) && (a.spec s).isNone && a.x.memb == memb && a.x.eject == eject &&
    a.x.prog == .none && a.x.contrib == q && (s.core 0).spec.isNone && seqIdle a.x &&
    !bit ((s.cluster (clOf 0)).wave.get 0) 0 && (releaseReady s a).isOk && (checkStatic s a (branchTarget a.pc 1 0)).isOk
theorem witness_Folds :
    foldOk 0 0 none = true ∧ foldOk 1 0 none = true ∧ foldOk 1 1 none = true ∧ foldOk 0 1 none = true ∧
    bit (({ Cluster.reset with wave := Vector.replicate 16 1 } : Cluster).wave.get 0) 0 = true ∧
    foldOk 1 0 (some (fcontrib true true false)) = true ∧ foldOk 1 0 (some (fcontrib true false false)) = true ∧
    foldOk 1 0 (some (fcontrib true false true)) = true ∧ foldOk 1 0 (some (fcontrib false false false)) = true := by
  refine ⟨?_, ?_, ?_, ?_, ?_, ?_, ?_, ?_, ?_⟩ <;> decide +kernel

/-! ### Witnesses: rows 0x18 to 0x1A -/

theorem inTurnOf {s : State} {i : Instr}
    (h : (s.actor.any (fun a => a.exec) && inOrder (s.core (act s).core) (act s).k (((seqHead (act s).x.seq).map (·.num)).getD 0) i &&
      (act s).x.eprog == .none && (act s).spec s == none) = true) : InTurn s (act s) i := by
  simp only [Bool.and_eq_true, beq_iff_eq] at h
  exact ⟨atEntryOf h.1.1.1, h.1.1.2, h.1.2, h.2⟩

def fMma (d : Fin 16) (m : Nat) (chk : Option (Fin 16)) : MmaF :=
  { g := g0, mf := .i8, chk := chk, d := d, q := 0, need := 1, m := .mask (BitVec.ofNat 32 m) }
def fMrec (d : Fin 16) (m : Nat) : MrecF := { g := g0, mf := .i8, d := d, q := 0, need := 1, m := .mask (BitVec.ofNat 32 m) }
def fTile (d : Fin 16) : TileF := { g := g0, d := d }
def fTileMem (d : Fin 16) (disp : BitVec 18) : TileMemF := { g := g0, d := d, a := 1, disp := disp, b := some 3 }
def fAcvt : AcvtF := { g := g0, mf := .fp16, q := 0, need := 1, a := 1, m := 2, rm := .rn, sat := false }
def fLadcfg (d : Fin 16) (r : BitVec 5) : LadcfgF := { g := g0, d := d, r := r, micro := true }
def fLadld (j : Fin 16) : LadldF := { g := g0, d := 1, j := j }
def fLadw : LadwF := { g := g0, v := 1, grp := 2 }
def fWld : WldF := { g := g0, mf := .i8, a := 1, disp := 0, nact := 32, sp := false }
def fMpld : MpldF := { g := g0, a := 1, disp := 0 }

/-- `s1` is page 1, `s3` a row stride of 128 bytes. -/
def mxx : Strand := setS (setS freshStrand 1 0x10000) 3 128
def iss (l : Option (Nat × Nat)) : State := stateOf { coreOf mxx with ladIssued := l } false
/-- Sixteen entries of the strand, as many as its core holds. -/
def fullSeq : State := slotState { mxx with seq := List.replicate 16 (entryOf mxx (.vadd (v3 (.v 3)))) }
def issOk (l : Option (Nat × Nat)) : Bool :=
  let s := iss l
  s.actor.any (fun a => !a.exec) && !(act s).x.ss && (act s).spec s == none && (act s).x.capture == none &&
    decide (sequenced (s.core (act s).core) < 16) && !((seqEntries (act s).x).any (fun e => entryWritesK e 0)) && (act s).guard g0 &&
    !((act s).guard gF)
theorem witness_ExecuteSideIssue :
    (issOk (some (4, 2)) = true ∧ issOk none = true ∧ isRung ((iss (some (4, 2))).core 0) 5 = true ∧
      isRung ((iss (some (4, 2))).core 0) 6 = false ∧ isRung ((iss none).core 0) 5 = false ∧
      microValid ((iss none).core 0).microActive = true ∧ (15 : Nat) + 1 ≤ 16 ∧ ¬ (15 : Nat) + 2 ≤ 16) ∧
    (let i := Instr.vadd (v3 (.v 3))
     i.wf 1 = true ∧ (encodeSlot i).isSome = true ∧ (∀ w ∈ encodeSlot i, w.opc.toNat / 32 ≤ 15 ∧ w.shadow = false) ∧ i.side = true ∧
      AtSlot fullSeq (act fullSeq) ∧ (act fullSeq).x.ss = false ∧ (act fullSeq).x.capture = none ∧
      16 ≤ sequenced (fullSeq.core (act fullSeq).core)) := by
  refine ⟨⟨?_, ?_, ?_, ?_, ?_, ?_, ?_, ?_⟩, ?_, ?_, ?_, ?_, atSlotOf ?_, ?_, ?_, ?_⟩ <;> decide +kernel

/-- A matrix core: a plane of `nact` columns of the weight 1, queue 0 with 64-byte slots of which one is filled. -/
def mplane (sparse : Bool) : Plane :=
  { valid := true, sparse := sparse, fmt := .i8, nact := 2, weights := List.replicate 1024 1, meta_ := List.replicate 256 0x44
    pairs := [] }
def mcoreOf (pl : Plane) (q : Queue) : Core := { coreOf mxx with active := pl, queues := Core.reset.queues.set 0 q }
def mxs (co : Core) (i : Instr) : State := stateOf { co with strands := [(0, some { mxx with seq := [entryOf mxx i] })] } true
def turnOk (co : Core) (i : Instr) : Bool :=
  let s := mxs co i
  s.actor.any (fun a => a.exec) && inOrder (s.core (act s).core) (act s).k (((seqHead (act s).x.seq).map (·.num)).getD 0) i &&
    (act s).x.eprog == .none && (act s).spec s == none && (act s).guard g0 && !(act s).guard gF
theorem inTurn_mxs {co : Core} {i : Instr} (h : turnOk co i = true) : InTurn (mxs co i) (act (mxs co i)) i := by
  refine inTurnOf ?_
  simp only [turnOk, Bool.and_eq_true] at h ⊢
  exact h.1.1

theorem witness_WeightPlanes :
    (let s := iss none
     Runs s (act s) g0 ∧ Settled s (act s) ∧
      (∀ x ∈ liveStrands (s.core 0), x.2.gang = none ∧ ∀ e ∈ seqEntries x.2, ∀ u ∈ unitNames e.i, u.1 ≠ 16) ∧
      (imagePlan s (act s) ((act s).sr.get 1 + (0 : BitVec 18).signExtend 72) (1024 + 0 + 0) 64).2 = none ∧
      (imagePlan s (act s) ((act s).sr.get 1 + (0 : BitVec 18).signExtend 72) (1024 + 0 + 0) 64).1.length = 16 ∧
      (imagePlan s (act s) ((act s).sr.get 1 + (0 : BitVec 18).signExtend 72) (1024 + 0 + 0) 64).1.all (readB s (act s)) = true ∧
      (imagePlan s (act s) ((act s).sr.get 1 + (0 : BitVec 18).signExtend 72) 32 32).2 = none ∧
      (imagePlan s (act s) ((act s).sr.get 1 + (0 : BitVec 18).signExtend 72) 32 32).1.all (readB s (act s)) = true ∧
      (s.core 0).mpldAt = none) ∧
    (let s := stateOf { coreOf mxx with mpldAt := some 0 } false
     Runs s (act s) g0 ∧ Settled s (act s) ∧ (s.core 0).mpldAt.isSome = true) ∧
    (InTurn (mxs (coreOf mxx) (.wswp { g := g0 })) (act (mxs (coreOf mxx) (.wswp { g := g0 }))) (.wswp { g := g0 })) ∧
    (let s := mxs (coreOf mxx) (.gang { g := g0 })
     InTurn s (act s) (.gang { g := g0 }) ∧ (act s).guard g0 = true ∧ (act s).guard gF = false ∧
      (barrierOf s 0).waiting.all (fun m => m.1 != 0) = true) := by
  refine ⟨⟨runsOf ?_, ⟨?_, ?_⟩, ?_, ?_, ?_, ?_, ?_, ?_, ?_⟩, ⟨runsOf ?_, ⟨?_, ?_⟩, ?_⟩, inTurn_mxs ?_, inTurn_mxs ?_, ?_, ?_, ?_⟩ <;>
    decide +kernel

def matCo (pl : Plane) (sz : BitVec 2) : Core := mcoreOf pl { ring with sz := sz }
/-- The conditions of a matrix operation with `m` rows, but for its result. -/
def matOk (pl : Plane) (i : Instr) (sparse : Bool) : Bool :=
  let s := mxs (matCo pl 2) i
  let a := act s
  turnOk (matCo pl 2) i && a.x.gang == none && ((s.core 0).queues.get 0).legal false &&
    ((s.core 0).queues.get 0).met { q := 0, need := 1, produce := false } &&
    decide (queuesLegal s a [{ q := 0, need := 1, produce := false }] = .ok ()) &&
    decide (mfRow .i8 sparse + mfPairs .i8 sparse ≤ slotSize 2) && (queuesReady s a (rowUses 0 1 1)).isOk &&
    decide (smGet none (s.core 0).tileStrand 3 = none) && microValid (s.core 0).microActive &&
    decide (maskRows a.sr (.mask 1) = 1) && decide (maskRows a.sr (.mask 0) = 0) && decide (maskRows a.sr (.mask 33) = 33) &&
    (match (List.range 1).mapM (fun j => queueBytes s a 0 (1 + j) 0 (mfRow .i8 sparse + mfPairs .i8 sparse)) with
     | .ok rows => (rows.mapM (rowNums .i8 sparse)).isSome
     | .error _ => false) && ((List.range (min pl.nact 32)).mapM (columnNums pl)).isSome
theorem witness_MatrixOperations :
    (matOk (mplane false) (.mma (fMma 3 1 none)) false = true ∧ matOk (mplane true) (.mmas (fMma 3 1 none)) true = true ∧
      matOk (mplane false) (.mrec (fMrec 3 1)) false = true) ∧
    (turnOk (mcoreOf (mplane false) Queue.reset) (.mma (fMma 3 1 none)) = true ∧ Queue.reset.legal false = false) ∧
    (slotSize 0 < mfRow .i8 false + mfPairs .i8 false) ∧
    (let i := Instr.mma (fMma 3 1 (some 1))
     matOk (mplane false) i false = true ∧ unordered (mxs (matCo (mplane false) 2) i) (act (mxs (matCo (mplane false) 2) i)) = false ∧
      (∀ l, planOne (mxs (matCo (mplane false) 2) i) (act (mxs (matCo (mplane false) 2) i)) 0x10000 8 8 .wr false ruleAny = .ok l →
        homeB (mxs (matCo (mplane false) 2) i) (act (mxs (matCo (mplane false) 2) i))
          (mkAccess l 0x10000 (.store (leBytes 8 (2 ^ 32 + 2)))) = true) ∧
      planOne (mxs (matCo (mplane false) 2) i) (act (mxs (matCo (mplane false) 2) i)) 0x10000 8 8 .wr false ruleAny = .ok leaf1 ∧
      (mxs (matCo (mplane false) 2) i).turn.upset = false ∧
      bit ({ (mxs (matCo (mplane false) 2) i).turn with upset := true, free := 1 } : Turn).free (0 % 16) = true) := by
  refine ⟨⟨?_, ?_, ?_⟩, ⟨?_, ?_⟩, ?_, ?_, ?_, ?_, ?_, ?_, ?_⟩
  · decide +kernel
  · decide +kernel
  · decide +kernel
  · decide +kernel
  · decide +kernel
  · decide +kernel
  · decide +kernel
  · decide +kernel
  · have h : planOne (mxs (matCo (mplane false) 2) (.mma (fMma 3 1 (some 1)))) (act (mxs (matCo (mplane false) 2) (.mma (fMma 3 1 (some 1))))) 0x10000 8 8 .wr false ruleAny = .ok leaf1 := by decide +kernel
    intro l hl
    rw [h] at hl
    cases hl
    decide +kernel
  · decide +kernel
  · decide +kernel
  · decide +kernel

def aldPlan (s : State) (a : Actor) (vs : List Word) : List Access × Option PlanErr :=
  planList (fun i => (planOne s a (vs.getD i 0) 128 64 .rd false ruleTile).map (fun x =>
    mkAccess x (vs.getD i 0) (.load 128 none))) (List.range 32)
def astPlan (s : State) (a : Actor) (vs : List Word) (t : Nat) : List Access × Option PlanErr :=
  planList (fun i => (planOne s a (vs.getD i 0) 128 64 .wr false ruleTile).map (fun x =>
    mkAccess x (vs.getD i 0) (.store ((List.range 32).flatMap (fun c => leBytes 4 (tileAt (s.core 0) t i c).toNat)))))
    (List.range 32)
def tileMemOk : Bool :=
  let s := mxs (coreOf mxx) (.ald (fTileMem 1 0))
  let u := mxs (coreOf mxx) (.ast (fTileMem 1 0))
  match tileRows (act s) (fTileMem 1 0) with
  | .ok vs =>
    (aldPlan s (act s) vs).2 == none && (aldPlan s (act s) vs).1.all (readB s (act s)) &&
      decide ((aldPlan s (act s) vs).1.length = 32) &&
      (astPlan u (act u) vs 1).2 == none && (astPlan u (act u) vs 1).1.all (homeB u (act u))
  | .error _ => false
def isErr {ε α : Type} (r : Except ε α) : Bool := match r with
  | .error _ => true
  | .ok _ => false
theorem witness_AccumulatorTiles :
    (turnOk (coreOf mxx) (.azero (fTile 1)) = true ∧ turnOk (coreOf mxx) (.azeroRelease (fTile 1)) = true ∧
      turnOk (coreOf mxx) (.ald (fTileMem 1 0)) = true ∧ turnOk (coreOf mxx) (.ast (fTileMem 1 0)) = true ∧
      (∀ d, smGet none (coreOf mxx).tileStrand d = none)) ∧
    tileMemOk = true ∧ isErr (tileRows (act (iss none)) (fTileMem 1 1)) = true ∧
    (let i := Instr.acvt fAcvt
     let s := mxs (matCo (mplane false) 2) i
     turnOk (matCo (mplane false) 2) i = true ∧ ((s.core 0).queues.get 0).dir ≠ 2 ∧
      (queuesReady s (act s) [{ q := 0, need := 1 + 2 - 1, produce := true }]).isOk = true ∧
      4 * mfBits .fp16 + 0 ≤ slotSize 2 ∧ slotSize 1 < 4 * mfBits .fp16 + 0) := by
  refine ⟨⟨?_, ?_, ?_, ?_, fun d => rfl⟩, ?_, ?_, ?_, ?_, ?_, ?_, ?_⟩ <;> decide +kernel

/-- A ladder on tiles 4 and 5 with its first rungs as `occ` says and one chain that reaches rung 0 or 1 next. -/
def ladCo (occ : BitVec 16) (ch : List Nat) : Core :=
  { coreOf mxx with
    ladIssued := some (4, 2)
    ladder := { Ladder.reset with configured := true, base := 4, r := 2, occupied := occ
                                  chains := ch.map (fun r => { carry := [], rung := r }) } }
theorem witness_Ladders :
    (turnOk (ladCo 0 []) (.ladcfg (fLadcfg 4 2)) = true ∧ (ladCo 0 []).ladder.chains = [] ∧
      turnOk (ladCo 0 [0]) (.ladpush (fTile 1)) = true ∧ turnOk (ladCo 3 []) (.ladrd (fTile 1)) = true ∧
      turnOk (ladCo 1 [1]) (.ladld (fLadld 0)) = true ∧
      (ladCo 1 [1]).ladder.chains.all (fun c => decide (0 < c.rung)) = true ∧ turnOk (ladCo 0 []) (.ladw fLadw) = true) ∧
    (bit (ladCo 0 [0]).ladder.occupied 0 = false ∧ bit (ladCo 2 [1]).ladder.occupied 1 = true ∧ (1 : Nat) + 1 = (ladCo 2 [1]).ladder.r ∧
      bit (ladCo 1 [0]).ladder.occupied 0 = true ∧ (0 : Nat) + 1 ≠ (ladCo 1 [0]).ladder.r) := by
  refine ⟨⟨?_, ?_, ?_, ?_, ?_, ?_, ?_⟩, ?_, ?_, ?_, ?_, ?_⟩ <;> decide +kernel

/-! ### Witnesses: messages at their targets -/

theorem arrivesOf {s : State} {f : Flit} {u : State}
    (h : (decide (s.net[0]? = some f) && deliverable s 0 f && !revokedFlit s f) = true)
    (hu : (match filterFlit { s with net := s.net.eraseIdx 0 } f with
      | .execute v => some (noteDelivery v f)
      | _ => none) = some u) : Arrives s 0 f u := by
  simp only [Bool.and_eq_true, decide_eq_true_eq, Bool.not_eq_true'] at h
  refine ⟨h.1.1, h.1.2, h.2, ?_⟩
  split at hu
  · rename_i v hv
    exact ⟨v, hv, (Option.some.inj hu).symm⟩
  · cases hu

/-- A flit from core 1 to `d`, the state in which it is the one in flight, and the state in which its target acts. -/
def flitTo (d : Dest) (cls : Nat) (who : Ident) (m : Msg) : Flit :=
  { src := 1, who := who, dst := d, cls := cls, seq := 0, pseq := 0, sent := 0, clock := [], msg := m }
def msgId : Ident := { part := 63, cls := 7 }
def msgTo (m : Msg) : Flit := flitTo (.core 0) clsMSG msgId m
def withFlit (s : State) (f : Flit) : State := { s with net := [f] }
def arrived (s : State) (f : Flit) : State :=
  match filterFlit { withFlit s f with net := [] } f with
  | .execute v => noteDelivery v f
  | _ => s
def arrives (s : State) (f : Flit) : Bool :=
  decide ((withFlit s f).net[0]? = some f) && deliverable (withFlit s f) 0 f && !revokedFlit (withFlit s f) f &&
    (match filterFlit { withFlit s f with net := (withFlit s f).net.eraseIdx 0 } f with
      | .execute _ => true
      | _ => false)
theorem arrives_of {s : State} {f : Flit} (h : arrives s f = true) : Arrives (withFlit s f) 0 f (arrived s f) := by
  simp only [arrives, Bool.and_eq_true] at h
  refine arrivesOf (by simpa [and_assoc] using h.1) ?_
  have h2 := h.2
  unfold arrived
  have e : (withFlit s f).net.eraseIdx 0 = [] := rfl
  rw [e] at h2 ⊢
  split at h2
  · rename_i v hv
    rw [hv]
  · cases h2

def keyOf (f : Flit) : Nat := streamKey f.srcKey f.dst
/-- The state with a window for a flit's stream. -/
def windowed (f : Flit) (w : Window) : State := { withFlit sw f with windows := [(keyOf f, some w)] }
def stopped63 : State :=
  { withFlit sw (msgTo (.frameRelease 0)) with
    packages := [(0, { Package.reset with parts := [(63, some { cfg0 with stoppedAt := some 0 })] })] }
theorem witness_Deliveries :
    let f := msgTo (.frameRelease 0)
    MessageEvent 0 (.frameRelease 0) ∧ (withFlit sw f).net[0]? = some f ∧ deliverable (withFlit sw f) 0 f = true ∧
    revokedFlit (withFlit sw f) f = false ∧ deliverable (withFlit sw { f with dst := .core 1, src := 4096, cls := clsREQ }) 0 { f with dst := .core 1, src := 4096, cls := clsREQ } = false ∧
    deliverable stopped63 0 f = true ∧ revokedFlit stopped63 f = true ∧
    (let w : Window := { part := 63, high := 5, entries := [(0, some 0)], last := 0 }
     smGet none (windowed f w).windows (keyOf f) = some w ∧ (w.high - f.seq).toNat < 256 ∧
      (smGet none w.entries f.seq.toNat).isSome = true ∧ deliverable (windowed f w) 0 f = true) ∧
    (let w : Window := { part := 63, high := 256, entries := [], last := 0 }
     smGet none (windowed f w).windows (keyOf f) = some w ∧ 256 ≤ (w.high - f.seq).toNat ∧ 32768 ≤ (f.seq - w.high).toNat ∧
      deliverable (windowed f w) 0 f = true) ∧
    (let s := { withFlit sw f with windows := (List.range 1024).map (fun i => ((i + 8192) * 2 ^ 40, some Window.reset)) }
     smGet none s.windows (keyOf f) = none ∧ 1024 ≤ windowsOf s f.dst ∧ deliverable s 0 f = true) ∧
    Arrives (withFlit sw f) 0 f (arrived sw f) := by
  refine ⟨by simp [MessageEvent], ?_, ?_, ?_, ?_, ?_, ?_, ?_, ?_, ?_, arrives_of ?_⟩ <;> decide +kernel

/-- Class 5 has one method, and its object 1 is in the directory of core 0. -/
def classWorld : State :=
  [(0x50, 0x20000), (0x58, 1), (0x20000, 0x40), (0x20008, 3 * 2 ^ 11 + 2 ^ 7)].foldl
    (fun s p => writeD s p.1 (BitVec.ofNat 64 p.2)) owHeld
def inv (target : DWord) (m : BitVec 8) : Invocation :=
  { target := target, method := m, args := [1, 2, 3, 4], ans := answerHandle 0 1 7 0, sender := 1, part := 63 }
def obj1 : DWord := objectHandle 0 1 5
def pibWorld (l : List PibEntry) : State := world (stateOf { coreOf hx with pib := l } false)
/-- Slot 7 of core 0 holds a pending answer of generation 0. -/
def slotWorld (l : List PibEntry) : State := setSlot (pibWorld l) 0 7 0 ansPending
def freeOk (u : State) : Bool :=
  !revoked u 0 (u.core 0).part && (u.rights (0, 4352) { part := 63, cls := 7 }).getLsbD 3
theorem witness_AnswerMessages :
    (let x := inv obj1 0
     let u := arrived classWorld (msgTo (.invocation x))
     Arrives (withFlit classWorld (msgTo (.invocation x))) 0 (msgTo (.invocation x)) u ∧ hCompute x.ans = 0 ∧
      hIsAnswer (0 : DWord) = false ∧ hIsObject x.target = true ∧ freeOk u = true ∧ objectValid u x.target = true ∧
      (methodDesc u 0 (hClass x.target) 0).isSome = true ∧ (∀ d ∈ methodDesc u 0 (hClass x.target) 0, handleArgs d x = []) ∧ spillFull u 0 = false ∧ 0 < pibFree (classWorld.core 0) ∧
      methodDesc u 0 (hClass x.target) 1 = none ∧ objectValid u (objectHandle 0 2 5) = false) ∧
    (let x := { inv (answerHandle 0 1 9 0) 0 with ans := 0 }
     let s := pibWorld []
     let u := arrived s (msgTo (.invocation x))
     Arrives (withFlit s (msgTo (.invocation x))) 0 (msgTo (.invocation x)) u ∧ hIsAnswer x.ans = false ∧ hIsObject x.target = false ∧
      pibRetired (s.core 0) x.target = false ∧ hHome x.target ≠ 0 ∧ (knownState u 0 x.target).pending = true ∧ 0 < pibFree (s.core 0) ∧
      pibCount (s.core 0) < 256) ∧
    (arrives classWorld (msgTo (.forwarded (inv obj1 0) obj1)) = true ∧
      (runInvocation (arrived classWorld (msgTo (.forwarded (inv obj1 0) obj1))) 0 (inv obj1 0) obj1 none).isSome = true) ∧
    (let h := answerHandle 0 0 7 0
     let st := ansValue [1, 2, 3]
     (∀ m ∈ [Msg.resolution h st false, .broken h st false], arrives (slotWorld []) (msgTo m) = true ∧
       slotGen (arrived (slotWorld []) (msgTo m)) 0 7 = 0 ∧ (Machine.slotState (arrived (slotWorld []) (msgTo m)) 0 7).pending = true) ∧
      hHome h = 0 ∧ hSlot h = 7 ∧ hGen h = 0 ∧ st.body.length ≤ 32 ∧ slotGen (slotWorld []) 0 7 ≠ hGen (answerHandle 0 0 7 1)) ∧
    (let h := answerHandle 0 1 9 0
     arrives (pibWorld [.res h (ansValue [])]) (msgTo (.retire h)) = true) ∧
    (let h := answerHandle 0 1 9 0
     let f := msgTo (.waiterReg h 1)
     arrives (pibWorld [.res h (ansValue [])]) f = true ∧
      (registeredState (arrived (pibWorld [.res h (ansValue [])]) f) 0 h).pending = false ∧
      (registeredState (arrived (pibWorld []) f) 0 h).pending = true ∧ pibCount ((pibWorld []).core 0) < 256) ∧
    (let f := { msgTo (.retryReg (answerHandle 0 1 9 0) 0 0) with cls := clsRSP }
     (withFlit sw f).net[0]? = some f ∧ deliverable (withFlit sw f) 0 f = true ∧ 0 ≤ sw.now) ∧
    (let h := answerHandle 0 1 9 0
     ((pibWorld [.retired h 0]).core 0).pib[0]? = some (.retired h 0) ∧ pibHasRes ((pibWorld [.waiting h (inv h 0) 0 1]).core 0) h = false ∧
      (knownState (pibWorld [.waiting h (inv h 0) 0 1]) 0 h).state.toNat < 2 ∧
      (let l := [.waiting h (inv h 0) 0 1, .res h (ansValue [])]
       ((pibWorld l).core 0).pib[0]? = some (.waiting h (inv h 0) 0 1) ∧ 2 ≤ (knownState (pibWorld l) 0 h).state.toNat) ∧
      (let e : PibEntry := .args (inv obj1 0) obj1 [] { handler := 0x40, slot := 3, prio := 1, hkind := 0, ab := false } [] []
       ((pibWorld [e]).core 0).pib[0]? = some e ∧ spillFull (pibWorld [e]) 0 = false) ∧
      (let s := { pibWorld [.waiting h (inv h 0) 0 1] with
          now := remoteLimit (pibWorld [.waiting h (inv h 0) 0 1]) 0 }
       0 + remoteLimit s 0 ≤ s.now)) := by
  refine ⟨⟨arrives_of ?_, ?_, ?_, ?_, ?_, ?_, ?_, ?_, ?_, ?_, ?_, ?_⟩, ⟨arrives_of ?_, ?_, ?_, ?_, ?_, ?_, ?_, ?_⟩, ?_, ?_, ?_, ?_, ?_, ?_, ?_, ?_⟩ <;> decide +kernel

/-! ### Witnesses: messages of cores, strands and shepherds -/

def ctx0 : Context :=
  { s := Vector.replicate 16 0, k := Vector.replicate 8 0, pc := 0, l0 := LoopLevel.free, l1 := LoopLevel.free, prio := 1, tm := false
    ss := false, cancel := false, slot := 0, frame := { owner := 1, num := 3 }, role := .plain, wdStart := 0, wdFired := false
    part := 63, hsync := [] }
def mboxPa : Nat := 0x030000000000
def mboxMsg : Msg := .mailbox mboxPa [1, 2, 3, 4] 1
def mboxCore (b : MailBind) (n : Nat) : State :=
  slotStateOf b n
where slotStateOf (b : MailBind) (n : Nat) : State :=
  stateOf { coreOf freshStrand with mailboxes := [(0, { bind := b, parked := List.replicate n { args := [], s13 := 0, part := 63 } })] } false
def noRight : Ident := { part := 1, cls := 7 }
def waitOf (k : WaitKind) : Wait := { kind := k, since := 0, qs := [] }
/-- An HSYNC of strand 0 of core 0 on an answer whose COMPUTE core it is. -/
def sync0 : SyncHold := { ans := answerHandle 0 1 9 0, core := 0, strand := 0, since := 0 }
def syncStrand : Strand := { freshStrand with hsync := [sync0], wait := some (waitOf .hsync) }
def syncState : State := stateOf { coreOf syncStrand with hsyncAcks := [sync0] } false
theorem witness_CoreMessages :
    (∀ b ∈ [MailBind.slot 3, .none], ∀ n ∈ [0, 15, 16],
      let s := mboxCore b n
      arrives s (msgTo mboxMsg) = true ∧ siteOf mboxPa false = .mailbox 0 0 0 ∧
      mayCommand (arrived s (msgTo mboxMsg)) 0 0 msgId = true ∧ ((withFlit s (msgTo mboxMsg)).mailbox 0 0).bind = b ∧
      ((withFlit s (msgTo mboxMsg)).mailbox 0 0).parked.length = n) ∧
    (let f := flitTo (.core 0) clsMSG noRight mboxMsg
     arrives sw f = true ∧ mayCommand (arrived sw f) 0 0 f.who = false ∧
      arrives sw { f with msg := .context ctx0 } = true ∧
      mayMessage (arrived sw { f with msg := .context ctx0 }) 0 noRight = false) ∧
    (∀ m ∈ [Msg.active 3 0x40 [1], .taskRelease 0x10000 0x40 [] 1 3 0, .context ctx0, .contextBack ctx0, .frameRelease 3,
        .hsync { sync0 with core := 1 }],
      arrives sw (msgTo m) = true ∧ mayMessage (arrived sw (msgTo m)) 0 msgId = true ∧
      coreExists (arrived sw (msgTo m)) 0 1 = true ∧ (sw.core 0).halt = .none) ∧
    (syncState.strand 0 0 = some syncStrand ∧ hCompute (answerHandle 0 1 9 0) = 0 ∧
      (syncState.core 0).hsyncAcks.contains sync0 = true ∧ syncDone syncState 0 sync0 = true ∧
      syncStrand.hsync.find? (fun z => (syncState.core (hCompute z.ans)).hsyncAcks.contains z && syncDone syncState (hCompute z.ans) z) =
        some sync0 ∧
      (let s := { syncState with now := remoteLimit syncState 0 }
       0 + remoteLimit s 0 ≤ s.now)) := by
  refine ⟨?_, ⟨?_, ?_, ?_, ?_⟩, ?_, ?_, ?_, ?_, ?_, ?_⟩ <;> decide +kernel

/-- A pre-empted core diverts what reaches its mailbox; a pipeline's mailbox hands it to its launch. -/
def divertState : State := { mboxCore .none 0 with
  packages := [(0, { Package.reset with parts := [(63, some { cfg0 with savesize := 0x200000, clu := #v[1, 0, 0, 0] })] })]
  cores := [(0, { ((mboxCore .none 0).core 0) with halt := .preempted 1 })] }
def pipeState : State :=
  { mboxCore (.pipeline 0 0) 0 with clusters := [(0, { Cluster.reset with launches := [(0, some { (default : Launch) with part := 63 })] })] }
theorem witness_CoreMailboxes :
    (arrives divertState (msgTo mboxMsg) = true ∧ ((withFlit divertState (msgTo mboxMsg)).core 0).halt = .preempted 1 ∧
      mayCommand (arrived divertState (msgTo mboxMsg)) 0 0 msgId = true ∧ spillFull (arrived divertState (msgTo mboxMsg)) 0 = false) ∧
    (arrives pipeState (msgTo mboxMsg) = true ∧ ((withFlit pipeState (msgTo mboxMsg)).mailbox 0 0).bind = .pipeline 0 0 ∧
      ((arrived pipeState (msgTo mboxMsg)).launch 0 0).isSome = true ∧ ((withFlit pipeState (msgTo mboxMsg)).core 0).halt = .none) := by
  refine ⟨⟨?_, ?_, ?_, ?_⟩, ?_, ?_, ?_, ?_⟩ <;> decide +kernel

/-- One start waits at routine slot 3 of a core with a strand that stalls. -/
def start0 (p : Option (BitVec 2)) : Start := { Start.plain 0 with pc := some 0x40, prio := p, s8 := 7 }
def selCore (x : List (Nat × Option Strand)) (p : Option (BitVec 2)) (r : Routine) : Core :=
  { Core.reset with part := 63, assigned := true, strands := x, routines := [(3, { r with queue := [start0 p] })] }
def selState (x : List (Nat × Option Strand)) (p : Option (BitVec 2)) (r : Routine) (now : Nat) : State :=
  { State.reset with cores := [(0, selCore x p r)], now := now }
def cand3 (p : Nat) : Cand := { prio := p, arrival := 0, slot := 3, stage := false }
def stalled : Strand := { freshStrand with wait := some (waitOf .queue) }
def parkState (n : Nat) : State :=
  selState ((0, some stalled) :: (List.range n).map (fun i => (i + 1, some { freshStrand with place := .parked }))) (some 1) Routine.reset 300
/-- Every tile is allocated, and `n` strands stand in banks. -/
def fullTiles (n : Nat) : State :=
  { State.reset with
    cores := [(0, { selCore ((0, some stalled) :: (List.range (n - 1)).map (fun i => (i + 1, some freshStrand))) (some 1) Routine.reset with
      tileAlloc := 0xFFFF })], now := 300 }
theorem witness_StrandSelection :
    (let s := selState [] none Routine.reset 0
     coreIdle s 0 = false ∧ bestCand (unheld s 0) = some (cand3 0) ∧ freeIdx (s.core 0) = some 0 ∧ freeFrame (s.core 0) = some 0 ∧
      banked (s.core 0) < 8 ∧ (smGet Routine.reset (s.core 0).routines 3).queue.head? = some (start0 none) ∧
      (start0 none).pc.isSome = true ∧ (start0 none).target = 0 ∧ (start0 none).taskRec = none ∧ (start0 none).receiver = []) ∧
    (let r := { Routine.reset with waited := 4097 }
     4096 < r.waited ∧ r.raised = false ∧ (0 : Nat) < 2) ∧
    (∀ n ∈ [0, 3, 4], (parkState n).strand 0 0 = some stalled ∧ mayPark (parkState n) 0 0 stalled = true ∧
      ((liveStrands ((parkState n).core 0)).filter (fun p => p.2.place == .parked)).length = n ∧
      smWf none ((parkState n).core 0).strands = true ∧
      (List.range 16).find? (fun i => !bit ((parkState n).core 0).tileAlloc i && (smGet none ((parkState n).core 0).tileStrand i).isNone) = some 0) ∧
    (let s := fullTiles 1
     s.strand 0 0 = some stalled ∧ mayPark s 0 0 stalled = true ∧ banked (s.core 0) < 8 ∧ (s.core 0).tileAlloc = 0xFFFF) ∧
    (let s := fullTiles 8
     s.strand 0 0 = some stalled ∧ mayPark s 0 0 stalled = true ∧ 8 ≤ banked (s.core 0) ∧ (s.core 0).tileAlloc = 0xFFFF) ∧
    (let s := slotState sx
     Runs s (act s) g0 ∧ (act s).spec s = none ∧ seqIdle (act s).x = true ∧ releaseReady s (act s) = .ok () ∧
      publishStrand s 0 0 none = some s ∧ (act s).x.frame.owner = 0 ∧ (act s).x.role = .plain ∧ (act s).x.memb = 0 ∧
      (barrierOf s 0).waiting = []) := by
  refine ⟨⟨?_, ?_, ?_, ?_, ?_, ?_, ?_, ?_, ?_, ?_⟩, ?_, ?_, ⟨?_, ?_, ?_, ?_⟩, ⟨?_, ?_, ?_, ?_⟩, runsOf ?_, ?_, ?_, ?_, ?_, ?_, ?_, ?_, ?_⟩ <;>
    decide +kernel

def pend (cls : TrapClass) (code : Code) : Pending := { cls := cls, cause := { code := code, eva := 0 }, epc := 0, vpc := 0 }
def mgmt : Master := { part := 63, cls := 0xB }
def mgmtId : Ident := { part := 63, cls := 0xB }
/-- A partition whose save area is large enough for one strand. -/
def saveState : State :=
  let s := stateOf { coreOf sx with assigned := true } false
  writeD (mapped { s with packages := [(0, { Package.reset with parts := [(63, some { cfg0 with savesize := 2048 })] })] } 0
    0xC00000000000D000) 0x320010 0
def haltedState : State := divertQueues ((quiesce saveState 0).modCore 0 (fun co => { co with halt := .preempted 1 })) 0
def emptyCore (h : Halt) : State := { State.reset with cores := [(0, { Core.reset with part := 63, assigned := true, halt := h })] }
def parkedState : State := stateOf { coreOf sx with halt := .parked 0 } false
theorem witness_StrandEvents :
    (let s := slotState { sx with pending := some (pend .t cPermission) }
     (s.strand 0 0).map (·.pending) = some (some (pend .t cPermission)) ∧ (s.core 0).halt = .none ∧ parkDue (s.core 0) = false ∧
      TrapClass.t ≠ .v) ∧
    (let s := configured (slotState { sx with pending := none })
     let s1 : State := { s with now := strandLimit s 0 + 1, packages := [(0, { Package.reset with parts := [(63, some { cfg0 with swd := 7 })] })] }
     strandLimit s1 0 ≠ 0 ∧ (sx.wdFired = false ∧ ({ s1 with now := 8 } : State).now > sx.wdStart + strandLimit s1 0)) ∧
    ((∀ j < 32, bit (1 : BitVec 32) j = true → j = 0) ∧ bit (1 : BitVec 32) 0 = true ∧ smWf none ((slotState sx).core 0).strands = true) ∧
    (mayPreempt saveState 0 mgmtId = true ∧ blockAdmits saveState (clOf 0) mgmtId .cmd = true ∧ (saveState.core 0).halt = .none ∧
      parkDue (saveState.core 0) = false ∧ (saveState.core 0).assigned = true ∧ (saveState.core 0).spec = none ∧
      gangRuns saveState 0 = false ∧
      liveStrands (haltedState.core 0) = [(0, sx)] ∧ haltedState.strand 0 0 = some sx ∧ sx.pending = none ∧
      saveVa haltedState 0 0 = some 0x28000 ∧
      (unitWrite haltedState 0 0x28000 (saveImage haltedState 0 0 sx cPreempt)).isOk = true) ∧
    (let s := emptyCore .none
     mayPreempt s 0 mgmtId = true ∧ blockAdmits s (clOf 0) mgmtId .cmd = true ∧ gangRuns s 0 = false ∧ parkDue (s.core 0) = false ∧
      liveStrands ((divertQueues ((quiesce s 0).modCore 0 (fun co => { co with halt := .preempted 1 })) 0).core 0) = []) ∧
    (let s := emptyCore (.preempted 1)
     mayPreempt s 0 mgmtId = true ∧ (s.core 0).halt = .preempted 1) ∧
    (let s := slotState { sx with pending := some (pend .v cReservedFormat) }
     (s.core 0).halt = .none ∧ decodingStrand (s.core 0) = some 0 ∧ gangRuns s 0 = false) ∧
    ((parkedState.core 0).halt = .parked 0 ∧ parkActs parkedState 0 mgmt 1 = true ∧ parkActs parkedState 0 mgmt 2 = true ∧ parkedState.strand 0 0 = some sx ∧
      (endInTrap parkedState 0 0 { sx with tm := true, cause := cReservedFormat } cReservedFormat).isSome = true) ∧
    ((emptyCore (.parked 0)).core 0).strands = [] := by
  refine ⟨⟨?_, ?_, ?_, ?_⟩, ⟨?_, ?_, ?_⟩, ⟨?_, ?_, ?_⟩, ⟨?_, ?_, ?_, ?_, ?_, ?_, ?_, ?_, ?_, ?_, ?_, ?_⟩, ⟨?_, ?_, ?_, ?_, ?_⟩, ⟨?_, ?_⟩, ⟨?_, ?_, ?_⟩,
    ⟨?_, ?_, ?_, ?_, ?_⟩, ?_⟩ <;> decide +kernel

/-! ### Witnesses: shepherds -/

/-- The cluster's event queue holds one record. -/
def evState (s : State) (b : List Byte) : State := postEvent s 0 b
/-- Task record 0 waits with COUNT 2. -/
def taskWorld : State := writeD tw (taskPa 0 0) 2
/-- The launch of a running level of kind 3 in ordinary memory of core 0's share, with 2 outstanding. -/
def lvlPa : Nat := 0x010000060000
def launch0 : Launch :=
  { part := 63, level := 0x10060000, core := 0, entry := 0x40, clumask := 1, prio := 1, arg0 := 5, arg1 := 6, units := 3
    nextUnit := 0, placed := [], stages := [], mbox := none, mboxWait := [], kind := 3, done := false, fresh := true }
def lvlWorld (w : Nat) : State :=
  (writeD tw lvlPa (BitVec.ofNat 64 w)).modCluster 0 (fun x => { x with launches := [(0, some launch0)] })
theorem witness_ShepherdRecords :
    (∀ r : List Byte, r = eventRecord 6 0 0 0 0 → r.length = 32 ∧ (tw.cluster 0).evCount < 512 ∧ (tw.cluster 0).ingress = [] ∧
      512 ≤ ((tw.modCluster 0 (fun x => { x with evCount := 512 })).cluster 0).evCount) ∧
    (let b := eventRecord 7 0 2 (BitVec.ofNat 64 lvlPa) 1
     let s := evState (lvlWorld (3 * 2 ^ 61 + 2)) b
     headEvent (collectEvents s 0) 0 = some b ∧ (eventOf b).source = 7 ∧ (eventOf b).word ≠ 1 ∧
      managedLevel (popEvent (collectEvents s 0) 0) 0 (eventOf b).task.toNat = some launch0) ∧
    (∀ p ∈ [(5, taskPa 0 0, 1, 0), (5, taskPa 0 0, 2, 0), (5, taskPa 0 0, 3, 0), (5, 0, 1, 0), (5, taskPa 0 1, 1, 0),
        (3, taskPa 0 0, 1, 2 ^ 26), (6, 0, 1, 0)],
      let b := eventRecord p.1 0 (BitVec.ofNat 64 p.2.2.2) (BitVec.ofNat 64 p.2.1) p.2.2.1
      let s := evState taskWorld b
      headEvent (collectEvents s 0) 0 = some b ∧ s.poisoned (eventPa 0 (s.cluster 0).evHead) 32 = none ∧
      ({ s with poison := [(eventPa 0 0, true)] } : State).poisoned (eventPa 0 (s.cluster 0).evHead) 32 ≠ none ∧
      readD (popEvent (collectEvents s 0) 0) (taskPa 0 0) = 2 ∧ (eventOf b).source = p.1 ∧
      (eventOf b).task.toNat = p.2.1 ∧ (eventOf b).dec = p.2.2.1 ∧ bits (eventOf b).word 26 6 = p.2.2.2 / 2 ^ 26) ∧
    (taskCluster (taskPa 0 0) = some 0 ∧ bits (readD taskWorld (taskPa 0 0)) 62 2 = 0 ∧ taskFree taskWorld (taskPa 0 0) = false ∧
      bits (readD taskWorld (taskPa 0 0)) 0 32 = 2 ∧ taskFree taskWorld (taskPa 0 1) = true) ∧
    (let s := lvlWorld (3 * 2 ^ 61 + 2)
     managedLevel s 0 lvlPa = some launch0 ∧ ordinaryVault 0 lvlPa = true ∧ lvKind (readD s lvlPa) = 3 ∧ lvState (readD s lvlPa) ≠ 2 ∧
      1 < lvOut (readD s lvlPa) ∧ s.poisoned lvlPa 32 = none ∧
      ({ s with poison := [(lvlPa, true)] } : State).poisoned lvlPa 32 ≠ none) := by
  refine ⟨?_, ?_, ?_, ⟨?_, ?_, ?_, ?_, ?_⟩, ?_, ?_, ?_, ?_, ?_, ?_, ?_⟩
  case refine_1 => intro r h; subst h; decide +kernel
  all_goals decide +kernel

def stage0 : Stage :=
  { handler := 0x80, qbase := 0x20000, cap := 4, slotsz := 64, maxinst := 2, mininst := 0, reserved := 0, published := 0, claimed := 0
    freed := 0, early := [], stamps := [], earlyFree := [], skipped := [], instances := [], nextInst := 0, lastEval := 0 }
def pipe (st : Stage) (w : List MailMsg) : Launch := { launch0 with fresh := false, stages := [st], mboxWait := w, kind := 1 }
def pipeWorld (l : Launch) (now : Nat) : State :=
  { (ew.modCore 0 (fun co => { co with strands := [] })).modCluster 0 (fun x => { x with launches := [(0, some l)] }) with now := now }
def full : Stage := { stage0 with reserved := 4, published := 4 }
def empty2 : Stage := { stage0 with cap := 16, reserved := 1, published := 1, instances := [(0, 0, 0, false)], nextInst := 1 }
theorem witness_ShepherdWork :
    (let s := lvlWorld 0
     ((s.cluster 0).launches.find? (fun q => q.2.any (·.fresh))) = some (0, some launch0) ∧ launch0.stages = [] ∧
      (let free := (eligible s 0 launch0).filter (fun c => (unboundSlot (s.core c)).isSome)
       free.filter (placeUnits s 0 0 (min launch0.units free.length) [] free).contains ≠ [])) ∧
    (let l := pipe stage0 [{ args := [1, 2, 3, 4], s13 := 0, part := 63 }]
     let s := pipeWorld l 0
     s.launch 0 0 = some l ∧ stage0.free ≠ 0 ∧ l.mbox = none ∧ stage0.early = [] ∧ stage0.published = stage0.reserved ∧
      (devWrite s 0 63 (BitVec.ofNat 72 (stage0.qbase + stage0.reserved % stage0.cap * stage0.slotsz)) [1]).isOk = true) ∧
    ((pipeWorld (pipe stage0 []) 0).launch 0 0 = some (pipe stage0 []) ∧ stage0.reserved = stage0.freed ∧
      (pipe stage0 []).done = false ∧ (pipe stage0 []).fresh = false) ∧
    (∀ p ∈ [(full, true, false), (empty2, false, true), (stage0, false, false)],
      let s := pipeWorld (pipe p.1 []) 1024
      s.launch 0 0 = some (pipe p.1 []) ∧ (pipe p.1 []).stages[0]? = some p.1 ∧ p.1.lastEval + 1024 ≤ s.now ∧
      decide (3 * p.1.cap < 4 * p.1.occupied ∧ p.1.instances.length < p.1.maxinst) = p.2.1 ∧
      decide (8 * p.1.occupied < p.1.cap ∧ p.1.mininst < (p.1.instances.filter (fun e => !e.2.2.2)).length) = p.2.2) ∧
    (let s := (lvlWorld (2 ^ 61 + 2 ^ 59)).modCore 0 (fun co => { co with strands := [(0, some { tx with role := .unit 0 0 })] })
     (s.cluster 0).launches = [(0, some launch0)] ∧ launch0.done = false ∧ (levelCanceller s 0 63 launch0.level).isSome = true ∧
      s.strand 0 0 = some { tx with role := .unit 0 0 } ∧ isOfLaunch 0 0 (.unit 0 0) = true) := by
  refine ⟨⟨?_, ?_, ?_⟩, ⟨?_, ?_, ?_, ?_, ?_, ?_⟩, ⟨?_, ?_, ?_, ?_⟩, ?_, ?_, ?_, ?_, ?_, ?_⟩ <;> decide +kernel

/-- Memory that lists a leaf and nothing else: a line of zeros passes the checks. -/
def scanLeaf (x w : Bool) : DWord := BitVec.ofNat 64 (2 ^ 63 + 2 ^ 62 + 0x19000 + (if x then 0x2000 else 0) + if w then 0x4000 else 0)
def scanReq (x w : Bool) : ScanReq :=
  { core := 0, strand := 0, tag := 5, part := 63, va := 0x10000, leaf := 0xFFF0, lo := scanLeaf x w, big := false }
def scanWorld (x w : Bool) : State := writeD State.reset 0xFFF0 (scanLeaf x w)
/-- The same with one bit of the first line's word set. -/
def oddWorld : State := writeU (scanWorld true false) 0x1003F 1 0x80
def scanned : Leaf := { entry := 0xFFF0, lo := scanLeaf true false, hi := 0, big := false, passed := false }
def scanId : Ident := { part := 63, cls := 0xA }
theorem scan_line (n : Nat) : readBytes (scanWorld true false) (0x10000 + n) 64 = List.replicate 64 0 := by
  refine List.ext_getElem? (fun i => ?_)
  by_cases hi : i < 64
  · rw [readBytes_get _ _ _ _ hi, scanWorld, writeD, writeU, writeBytes_byte_out _ _ _ _ (by
      rw [show (leBytes 8 (scanLeaf true false).toNat).length = 8 by decide +kernel]; omega)]
    exact (List.getElem?_replicate_of_lt hi).symm
  · rw [List.getElem?_eq_none (by simp; omega), List.getElem?_eq_none (by rw [List.length_replicate]; omega)]
theorem zero_scan (va : Word) (tgt : Word → Option Bool) : scanLine (List.replicate 64 0) va tgt = (0, 0) := by
  have hs : ∀ v, ∀ i < 5, scanSlot (List.replicate 64 0) v i tgt = 0 := by
    intro v i hi
    have : i = 0 ∨ i = 1 ∨ i = 2 ∨ i = 3 ∨ i = 4 := by omega
    rcases this with h | h | h | h | h <;> subst h <;> rfl
  unfold scanLine
  rw [if_neg (by decide +kernel), if_neg (by decide +kernel)]
  have : (List.range 5).find? (fun i => scanSlot (List.replicate 64 0) (va + BitVec.ofNat 72 i) i tgt != 0) = none := by
    rw [List.find?_eq_none]
    intro i hi
    simp only [hs _ i (List.mem_range.1 hi), bne_self_eq_false, Bool.false_eq_true, not_false_eq_true]
  rw [this]
theorem scan_passes (s : State) (l : Leaf) (base : Word) (id : Ident) (tgt : Word → Option Bool) (left n : Nat)
    (h : ∀ j < n + left, n ≤ j → readBytes s (l.pa (base + BitVec.ofNat 72 (64 * j))) 64 = List.replicate 64 0 ∧
      s.admits (l.pa (base + BitVec.ofNat 72 (64 * j))) l.geom2 id .rd = true ∧ l.poison = false ∧
      s.poisoned (l.pa (base + BitVec.ofNat 72 (64 * j))) 64 = none ∧
      (siteOf (l.pa (base + BitVec.ofNat 72 (64 * j))) l.geom2).isMemory = true) :
    scanLines s l base id tgt n left = .passed := by
  induction left generalizing n with
  | zero => rfl
  | succ left ih =>
    obtain ⟨h1, h2, h3, h4, h5⟩ := h n (by omega) (Nat.le_refl n)
    simp only [scanLines, h1, h2, h3, h4, h5, zero_scan]
    simpa using ih (n + 1) (fun j hj hn => h j (by omega) (by omega))
theorem scan_pa : ∀ j < 1024, scanned.pa (0x10000 + BitVec.ofNat 72 (64 * j)) = 0x10000 + 64 * j := by decide +kernel
theorem page_admits : ∀ j < 1024, (State.reset.admits (0x10000 + 64 * j) false scanId .rd &&
    (State.reset.poisoned (0x10000 + 64 * j) 64).isNone && (siteOf (0x10000 + 64 * j) false).isMemory) = true := by decide +kernel
theorem page_passes (tgt : Word → Option Bool) : scanLines (scanWorld true false) scanned 0x10000 scanId tgt 0 1024 = .passed := by
  refine scan_passes _ _ _ _ _ _ _ (fun j hj _ => ?_)
  rw [scan_pa j (by omega)]
  have h1 := page_admits j (by omega)
  simp only [Bool.and_eq_true, Option.isNone_iff_eq_none] at h1
  exact ⟨scan_line (64 * j), h1.1.1, by decide +kernel, h1.1.2, h1.2⟩
/-- A line of zeros but for one bit of its line word fails its parity. -/
theorem page_fails (tgt : Word → Option Bool) : scanLines oddWorld scanned 0x10000 scanId tgt 0 1024 = .failed 2 0x10000 := by
  have h1 : scanned.pa (0x10000 + BitVec.ofNat 72 (64 * 0)) = 0x10000 := by decide +kernel
  have h2 : readBytes oddWorld 0x10000 64 = List.replicate 63 0 ++ [0x80] := by decide +kernel
  have h3 : oddWorld.admits 0x10000 false scanId .rd = true := by decide +kernel
  have h4 : oddWorld.poisoned 0x10000 64 = none := by decide +kernel
  have h5 : (siteOf 0x10000 false).isMemory = true := by decide +kernel
  have h6 : ∀ va, scanLine (List.replicate 63 0 ++ [0x80]) va tgt = (2, 0) := by
    intro va
    unfold scanLine
    rw [if_neg (by decide +kernel), if_pos (by decide +kernel)]
  rw [show (1024 : Nat) = 1023 + 1 by rfl, scanLines]
  simp only [h1, h2, h6, show scanned.geom2 = false by decide +kernel, show scanned.poison = false by decide +kernel, h3, h4, h5]
  rfl

def gate (x : Cluster) (now : Nat) : State := { State.reset with clusters := [(0, x)], now := now }
def scanStrand : Strand := { freshStrand with wait := some (waitOf .scan), prog := .stage 1 5 }
theorem witness_ClusterControl :
    ((slotState scanStrand).strand 0 0 = some scanStrand ∧ scanStrand.wait.any (fun q => q.kind == .scan) = true ∧
      scanStrand.prog = .stage 1 (BitVec.ofNat 128 (scanReq true false).tag)) ∧
    (State.reset.admits (cblockPa 0 0x3000) false { part := 63, cls := 0xB } .wr = true ∧
      ((emptyCore (.parked 0)).core 0).halt = .parked 0 ∧ bits (2 : DWord) 0 2 = 2) ∧
    (let x := (gate Cluster.reset 90000).cluster 0
     x.gated = false ∧ x.nogate = false ∧ clusterIdle (gate Cluster.reset 90000) 0 = true ∧ x.idleSince + 90000 ≤ 90000) ∧
    (let x := { Cluster.reset with gated := true, nogate := true }
     (gate x 0).cluster 0 = x ∧ x.wakeDue = none) ∧
    (let x := { Cluster.reset with gated := true, wakeDue := some 7200 }
     ((gate x 7200).cluster 0).wakeDue = some 7200 ∧ clusterIdle (withFlit (gate x 0) (msgTo (.frameRelease 0))) 0 = false) ∧
    (∀ c ∈ [0, 2 ^ 22 - 1], ∀ slot ∈ [0, 31],
      State.reset.admits (cblockPa (clOf c) (0x1000 + 0x200 * (c % 16) + 16 * slot)) false { part := 63, cls := 0xB } .wr = true) ∧
    (State.reset.admits (cblockPa 0 (0x1000 + 16 * 3)) false { part := 63, cls := 0 } .wr = true ∧
      isSupervisorOf State.reset 0 { part := 63, cls := 0 } = false ∧ bits (0x300 : DWord) 8 2 = 3) ∧
    (∀ c ∈ [0, 2 ^ 22 - 1], ∀ i ∈ [0, 3],
      State.reset.admits (cblockPa (clOf c) (0x100000 + 0x40 * (c % 16) + 16 * i)) false { part := 63, cls := 0xB } .wr = true) ∧
    (∀ cl ∈ [0, 2 ^ 18 - 1], State.reset.admits (cblockPa cl 0) false { part := 63, cls := 0xB } .wr = true) ∧
    (∀ x ∈ [true, false], ∀ w ∈ [true, false],
      bit (scanReq x w).lo 13 = x ∧ bit (scanReq x w).lo 14 = w ∧ readD (scanWorld x w) 0xFFF0 = (scanReq x w).lo) ∧
    (∀ tgt, scanLines oddWorld scanned 0x10000 scanId tgt 0 1024 = .failed 2 0x10000) ∧
    ∀ tgt, scanLines (scanWorld true false) scanned 0x10000 scanId tgt 0 1024 = .passed := by
  refine ⟨⟨?_, ?_, ?_⟩, ⟨?_, ?_, ?_⟩, ⟨?_, ?_, ?_, ?_⟩, ⟨?_, ?_⟩, ⟨?_, ?_⟩, ?_, ⟨?_, ?_, ?_⟩, ?_, ?_, ?_, page_fails, page_passes⟩ <;> decide +kernel

/-! ### Witnesses: the fabric, queues, engines -/

def okDone (d : Done) : Bool := match d with
  | .ok .. => true
  | _ => false
def accAt (pa : Nat) (op : AccessOp) (owner : Option Nat) : Access :=
  { mkAccess leaf1 (BitVec.ofNat 72 pa) op with owner := owner }
def reqFlit (src : Nat) (a : Access) : Flit :=
  { flitTo (.home a.pa) clsREQ { part := 63, cls := 0 } (.request a 0 0 0) with src := src, clock := if src = 1 then [] else [0, 0, 0, 0] }
def kept0 : Kept := { flit := msgTo (.frameRelease 0), first := 0, last := 0 }
def keptState (now : Nat) : State := { sw with kept := [kept0], now := now }
def linked0 (f : Flit) : State := (keptState 18000).setLink 0 0 { Link.reset with waiting := [f] }
def onLink0 (s : State) : Bool :=
  (List.range 16).any (fun p => (s.link (pkgOf kept0.flit.src) p).waiting.any (·.same kept0.flit) ||
    (s.link (pkgOf kept0.flit.src) p).inFlight.any (fun g => g.2.any (·.same kept0.flit)))
/-- Packages 0 and 1 with every port up. -/
def portsUp (s : State) : State :=
  (List.range 16).foldl (fun st i => (st.setLink 0 i { Link.reset with up := true }).setLink 1 i { Link.reset with up := true }) s
def lsw : State := portsUp sw
/-- A sector of a copy of another package's core 4096, whose home is on this one. -/
def sectorFlit : Flit :=
  { flitTo (.home 0x10000) clsENG { part := 63, cls := 3 } (.sector 4096 7 0 [(0x10000, false, List.replicate 64 1)]) with src := 4096 }
theorem witness_Requests :
    (∀ p ∈ [(accAt 0x10000 (.load 8 none) none, 1), (accAt 0x10000 (.store [1]) none, 1), (accAt 0x10000 (.atomic swap4) none, 1),
        (accAt 0x10000 (.store [1]) none, 1024), (accAt 0x10000 (.store [1]) (some 3), 1)],
      arrives sw (reqFlit p.2 p.1) = true ∧ okDone (performAt (arrived sw (reqFlit p.2 p.1)) { part := 63, cls := 0 } p.1) = true) ∧
    ((reqFlit 1024 (accAt 0x10000 (.store [1]) none)).crossDie = true ∧ (reqFlit 1 (accAt 0x10000 (.store [1]) none)).crossDie = false ∧
      (accAt 0x10000 (.store [1]) none).host = none) ∧
    (okDone (performAt (arrived sw (reqFlit 1 (accAt 0x10000 (.store [1]) none))) { part := 1, cls := 0 }
      (accAt 0x10000 (.store [1]) none)) = false) ∧
    ((keptState 18000).kept[0]? = some kept0 ∧ kept0.last + 18000 ≤ (keptState 18000).now ∧
      18000 < kept0.first + remoteLimit (keptState 18000) 1 ∧ onLink0 (keptState 18000) = false ∧
      onLink0 (linked0 kept0.flit) = true ∧
      (let s := keptState (18000 + remoteLimit (keptState 18000) 1)
       kept0.first + remoteLimit s kept0.flit.src ≤ s.now)) ∧
    (let f := { msgTo (.retry 4 7) with cls := clsRSP }
     (withFlit sw f).net[0]? = some f ∧ deliverable (withFlit sw f) 0 f = true) ∧
    ({ sw with windows := [(5, some Window.reset)] } : State).windows[0]? = some (5, some Window.reset) ∧
    ((withFlit lsw sectorFlit).net[0]? = some sectorFlit ∧ deliverable (withFlit lsw sectorFlit) 0 sectorFlit = true ∧
      revokedFlit (withFlit lsw sectorFlit) sectorFlit = false ∧
      ({ withFlit lsw sectorFlit with net := [] } : State).admits 0x10000 false sectorFlit.who .wr = true ∧
      ({ withFlit lsw sectorFlit with net := [] } : State).admits 0x10000 false { part := 1, cls := 3 } .wr = false ∧
      sectorFlit.sent + 90000 ≤ ({ withFlit lsw sectorFlit with now := 90000 } : State).now) := by
  refine ⟨?_, ⟨?_, ?_, ?_⟩, ?_, ⟨?_, ?_, ?_, ?_, ?_, ?_⟩, ⟨?_, ?_⟩, ?_, ?_, ?_, ?_, ?_, ?_, ?_⟩ <;> decide +kernel

def respFlit (a : Access) (cause : Option Code) (data : List Byte) : Flit :=
  { flitTo (.core 0) clsRSP { part := 63, cls := 0 } (.response a 0 9 0 cause data) with src := 1 }
def gathering : Strand :=
  { freshStrand with prog := .gather 9 [accAt 0x10000 (.load 8 none) none] [] none, wait := some (waitOf .response) }
def staging : Strand := { freshStrand with prog := .stage 0 0x10000, wait := some (waitOf .gather) }
def waits (k : WaitKind) : Strand := { freshStrand with wait := some (waitOf k) }
def ewaits : Strand := { freshStrand with ewait := some (waitOf .queue), seq := [entryOf freshStrand (.wswp { g := g0 })] }
def watched (x : Strand) (now : Nat) : State :=
  { slotState x with packages := [(0, { Package.reset with parts := [(63, some { cfg0 with qwd := 7 })] })], now := now }
/-- A load and a store of the host's window, the port of die 0 being live; a slot and an entry that both wait for answers. -/
def hostAcc (op : AccessOp) : Access := { accAt 0x10000 op none with host := some 0xC00000000000010000 }
def hostFlit (op : AccessOp) : Flit := { reqFlit 0 (hostAcc op) with clock := [] }
def hostState (f : Flit) : State := { withFlit sw f with packages := [(0, { Package.reset with uePorts := 1 })] }
def bothWait : Strand := { gathering with eprog := gathering.prog, ewait := some (waitOf .response) }
theorem witness_HostAnswers :
    (∀ op ∈ [AccessOp.load 8 none, .store [1]], (hostState (hostFlit op)).net[0]? = some (hostFlit op) ∧
      deliverable (hostState (hostFlit op)) 0 (hostFlit op) = true ∧ (hostAcc op).host.isSome = true ∧
      (uePort (hostState (hostFlit op)) (hostFlit op).dst.die).isSome = true ∧
      (hostFlit op).msg.returns = decide (op = .load 8 none)) ∧
    ((slotState bothWait).strand 0 0 = some bothWait ∧ bothWait.prog.unanswered = true ∧ bothWait.eprog.unanswered = true ∧
      (let s := { slotState bothWait with now := remoteLimit (slotState bothWait) 0 }
       (waitOf .response).since + remoteLimit s 0 ≤ s.now)) := by
  refine ⟨?_, ?_, ?_, ?_, ?_⟩ <;> decide +kernel

theorem witness_AnswersAndTimeouts :
    (∀ f ∈ [respFlit (accAt 0x10000 (.load 8 none) none) none [1, 2, 3, 4, 5, 6, 7, 8], respFlit (accAt 0x10000 (.store [1]) none) (some cDeny) [],
        respFlit (accAt 0x10000 (.store [1]) none) (some cReservedFormat) []],
      (withFlit (slotState gathering) f).net[0]? = some f ∧ deliverable (withFlit (slotState gathering) f) 0 f = true ∧
      revokedFlit (withFlit (slotState gathering) f) f = false) ∧
    ((slotState gathering).strand 0 0 = some gathering ∧ gathering.ewait = none) ∧
    ((slotState staging).strand 0 0 = some staging ∧ (waitOf .gather).since + pageLimit (slotState staging) 0 <
      (slotState staging).now + pageLimit (slotState staging) 0 + 1 ∧ ((slotState staging).core 0).halt = .none) ∧
    (let s := watched (waits .queue) 8
     s.strand 0 0 = some (waits .queue) ∧ queueLimit s 0 ≠ 0 ∧ (waitOf .queue).since + queueLimit s 0 < s.now ∧ (waits .queue).pending = none) ∧
    (let s := watched ewaits 8
     s.strand 0 0 = some ewaits ∧ ewaits.wait = none ∧ ewaits.ewait = some (waitOf .queue) ∧ (seqHead ewaits.seq).isSome = true) := by
  refine ⟨?_, ⟨?_, ?_⟩, ⟨?_, ?_, ?_⟩, ⟨?_, ?_, ?_, ?_⟩, ?_, ?_, ?_, ?_⟩ <;> decide +kernel

def peerRing (dir : BitVec 2) (l : Bool) : Queue := { ring with dir := dir, peer := 1, linked := l }
def qstate (b : Queue) : State := slotStateQ b
where slotStateQ (b : Queue) : State := stateOf { coreOf freshStrand with queues := Core.reset.queues.set 0 b } false
theorem witness_QueueMessages :
    (arrives (qstate Queue.reset) (msgTo (.queueLink 1 4 2 1 0x20000)) = true ∧
      ((qstate Queue.reset).core 0).queues.toList.any (fun b => b.bound && b.linked && b.peer == 1 && b.peerQ == 1) = false) ∧
    (∀ l ∈ [true, false], ∀ m ∈ [Msg.queueUnlink 0, .queueWrite 0 0x20000 [1, 2] [1, 0], .queueTag 0 0x20000 true,
        .queuePublish 0 1, .queueCredit 0 1],
      arrives (qstate (peerRing 1 l)) (msgTo m) = true ∧ (((qstate (peerRing 1 l)).core 0).queues.get 0).linked = l ∧
      (((qstate (peerRing 1 l)).core 0).queues.get 0).peer = 1 ∧ (((qstate (peerRing 1 l)).core 0).queues.get 0).dir ≠ 0) := by
  refine ⟨⟨?_, ?_⟩, ?_⟩ <;> decide +kernel

/-- A state whose engine `e` of core 0 has `x` at the head of its chain. -/
def engState (e : Fin 4) (x : Command) : State := world (stateOf { ecore with chains := ecore.chains.set e [x] } false)
def cpy0 : EngineOp := .cpy 0x10000 0x20000 1 64 0 0
def nbmv0 : EngineOp := .nbmv .i8 false 0x10000 0x20000 0x30000 1 32
def attn0 : EngineOp := .attn false 0x10000 0x20000 0x30000 0x40000 0x50000 0x60000 10 32 .d32 .e4m3 .fp32 0x3F800000
def cred0 : EngineOp := .cred .add .fp32 0x10000 0x20000 16 0 0
def cmdOf (e : Fin 4) (op : EngineOp) (run : Bool) (st : Option Code) : Command :=
  { cmd0 with eng := e, op := op, running := run, status := st, comp := 0x10080 }
def startOk (e : Fin 4) (op : EngineOp) : Bool :=
  let x := cmdOf e op false none
  let s := engState e x
  decide (headOf s 0 e = some x) && !x.running && (e != 2 || tileFree s x) &&
    (s.rights (engineTarget 0 e.val) { part := 63, cls := 0 }).getLsbD 3
def runOk (e : Fin 4) (op : EngineOp) (st : Option Code) : Bool :=
  let x := cmdOf e op true st
  let s := engState e x
  decide (headOf s 0 e = some x) && x.running && decide (x.status = st) && x.missing.isEmpty && !x.stop && leaDone s x
def segsOk (r : State × Except Code Segs) : Bool := match r.2 with
  | .ok _ => true
  | .error _ => false
theorem copy_runs :
    let x := cmdOf 0 cpy0 true none
    let s := engState 0 x
    (((List.range 16).map (fun j => ((s.cluster 0).copyNext + j) % 16)).findSome?
      (fun j => (copyRuns s (0 * 16 + j)).map (fun r => (j, r)))) = some (0, x, copyGeo s 0 63 cpy0) ∧
    (copyTodo (copyGeo s 0 63 cpy0) x).drop x.next = [0] ∧ s.walk 0 63 (BitVec.ofNat 72 (sectorDest (copyGeo s 0 63 cpy0) cpy0 0).1) = .leaf wleaf ∧
    wleaf.learep = false ∧ (copyGeo s 0 63 cpy0).kind = .same ∧
    segsOk (sectorData (s.modCluster 0 (fun y => { y with copyNext := 1 })) x (copyGeo s 0 63 cpy0) 0) = true := by
  refine ⟨?_, ?_, ?_, ?_, ?_, ?_⟩ <;> decide +kernel
/-- A copy to the second package, whose tables map the destination there. -/
def farWorld (x : Command) : State :=
  portsUp <| writeD (engState 0 x) 0x320020 (BitVec.ofNat 64 (0xC00000000000D000 + 2 ^ 50))
def farCpy : EngineOp := .cpy 0x20000000 0x10000 1 64 0 0
theorem copy_far :
    let x := cmdOf 0 farCpy true none
    let s := farWorld x
    let g := copyGeo s 0 63 farCpy
    ((((List.range 16).map (fun j => ((s.cluster 0).copyNext + j) % 16)).findSome?
      (fun j => (copyRuns s (0 * 16 + j)).map (fun r => (j, r)))).map (fun r => (r.1, r.2.1))) = some (0, x) ∧
    (copyTodo g x).drop x.next = [0] ∧ x.core = 0 ∧ x.eng = 0 ∧
    (match sectorData (s.modCluster 0 (fun y => { y with copyNext := 1 })) x g 0 with
      | (_, .ok gs) => (placeSegs s x gs).all (fun q => homePkg q.1 == 1) && !(placeSegs s x gs).isEmpty &&
          (checkSegs s x gs).2.isNone
      | _ => false) = true := by
  refine ⟨?_, ?_, ?_, ?_, ?_⟩ <;> decide +kernel
/-- The source of the copy lies on no page. -/
def lostCpy : EngineOp := .cpy 0x10000 0x90000000 1 64 0 0
theorem copy_lost :
    let x := cmdOf 0 lostCpy true none
    let s := engState 0 x
    (match sectorData (s.modCluster 0 (fun y => { y with copyNext := 1 })) x (copyGeo s 0 63 lostCpy) 0 with
      | (_, .error _) => true
      | _ => false) = true ∧ (copyTodo (copyGeo s 0 63 lostCpy) x).drop x.next = [0] := by
  refine ⟨?_, ?_⟩ <;> decide +kernel
theorem witness_EngineCommands :
    (startOk 0 cpy0 = true ∧ startOk 1 nbmv0 = true ∧ startOk 2 attn0 = true ∧ startOk 3 cred0 = true ∧
      ((engState 0 cmd0).rights (engineTarget 0 0) { part := 1, cls := 0 }).getLsbD 3 = false) ∧
    (engRead (engState 3 (cmdOf 3 cred0 false none)) (cmdOf 3 cred0 false none).who 0x20000 (16 * credSize .fp32)).1 =
      engState 3 (cmdOf 3 cred0 false none) ∧
    (runOk 0 cpy0 (some cNone) = true ∧ runOk 0 cpy0 (some cDeny) = true ∧ runOk 0 cpy0 none = true ∧ runOk 1 nbmv0 none = true ∧
      runOk 2 attn0 none = true ∧ attnBlocks (attnLen attn0) ≤ 1) ∧
    (let x := { cmdOf 0 cpy0 true none with next := 1 }
     (copyTodo (copyGeo (engState 0 x) 0 63 cpy0) x).length ≤ x.next) ∧
    (let x := cmdOf 0 cpy0 true none
     let s := engState 0 x
     credWithout s x cNone = s ∧ x.comp ≠ 0 ∧ x.comp.toNat % 8 = 0 ∧
      (match engPage (freeLocks s x) x.who x.comp .wr with
        | (_, .ok l) => decide (l = wleaf)
        | _ => false) = true ∧ (engPage (freeLocks s x) x.who x.comp .wr).1 = freeLocks s x ∧ spaceOf x.comp ≠ 0xC0 ∧
      eventRoom s x.eventCluster = true ∧
      (siteOf (wleaf.pa x.comp) wleaf.geom2).isMemory = true) ∧
    (let x := cmdOf 3 cred0 true none
     ∀ ok ∈ [true, false], let f := msgTo (.credOut x.seq ok [1, 2, 3, 4])
       arrives (engState 3 x) f = true ∧ headOf (engState 3 x) 0 3 = some x ∧ x.status = none) := by
  refine ⟨⟨?_, ?_, ?_, ?_, ?_⟩, rfl, ⟨?_, ?_, ?_, ?_, ?_, ?_⟩, ?_, ⟨rfl, ?_, ?_, ?_, rfl, ?_, ?_, ?_⟩, ?_⟩ <;> decide +kernel

/-! ### Witnesses: the query tile, row barriers, folds, upsets -/

/-- The query tile runs a command of one block whose keys are at `kb`; block 0 is entry `ent` of the table. -/
def attnOp (kb : Word) : EngineOp := .attn false 0x10000 kb 0x30000 0x40000 0x50000 0x60000 10 32 .d32 .e4m3 .fp32 0x3F800000
def tile0 (stall : Option Nat) : AttnTile :=
  { core := 0, block := 0, mx := List.replicate 32 negInf32, l := List.replicate 32 0, o := List.replicate 32 (List.replicate 32 0)
    stall := stall, lastWalk := 0 }
def attnState (kb : Word) (ent : Nat) (stall : Option Nat) (now : Nat) : State :=
  let s := engState 2 (cmdOf 2 (attnOp kb) true none)
  let s1 := writeD (writeD (writeU s 0x40000 4 ent) 0x320020 (BitVec.ofNat 64 (2 ^ 62))) 0x320028 (BitVec.ofNat 64 (2 ^ 20))
  setTile { s1 with now := now } 0 (tile0 stall)
def attnCmd (kb : Word) : Command := cmdOf 2 (attnOp kb) true none
def readOk (r : State × Except Code (List Byte)) : Bool := match r.2 with
  | .ok _ => true
  | .error _ => false
def rowsOk {α : Type} (r : State × Except Code α) : Bool := match r.2 with
  | .ok _ => true
  | .error _ => false
def attnOk (kb : Word) (ent : Nat) (stall : Option Nat) (aw : Bool) : Bool :=
  let s := attnState kb ent stall 1024
  let x := attnCmd kb
  decide (tileCommand s 0 = some (tile0 stall, x)) && tileRuns (tile0 stall) x && readOk (engRead s x.who 0x40000 4) &&
    (match (engRead s x.who 0x40000 4).2 with
     | .ok b => leVal b == ent
     | .error _ => false) && (awaited s x kb 1024 == aw) && decide ((tile0 stall).lastWalk + 1024 ≤ s.now)
/-- The strand that stands at the barrier of row 0 on core `c`, before an MMA. -/
def gangStrand (c : Nat) : Strand :=
  let e := fun (i : Instr) => ({ pc := 1, i := i, s := mxx.s, k := mxx.k, shadowed := false, badS := 0, badK := 0, num := c, taken := [] } : SeqEntry)
  { mxx with seq := [.one (e (.mma (fMma 3 1 none)))], gang := some (e (.gang { g := g0 })) }
def gangCore (pl : Plane) (c : Nat) : Core := { matCo pl 2 with strands := [(0, some (gangStrand c))] }
def rowOf (n : Nat) : Barrier := { waiting := (List.range n).map (fun c => (c, 0)), since := 0, opened := false, epoch := 0 }
def gangState (n : Nat) (pl : Plane) : State :=
  { State.reset with
    cores := [(0, gangCore (mplane false) 0), (1, gangCore (mplane false) 1), (2, gangCore (mplane false) 2), (3, gangCore pl 3)]
    clusters := [(0, { Cluster.reset with barriers := Cluster.reset.barriers.setIfInBounds 0 (rowOf n) })], now := 10
    packages := [(0, { Package.reset with parts := [(63, some { cfg0 with qwd := 7 })] })] }
def gangOk (pl : Plane) (sound : Bool) : Bool :=
  let s := gangState 4 pl
  match gangedRow s 0 0 with
  | some (l :: gs) => !(Machine.rowBarrier s 0 0).opened && gangReady s 0 0 (l :: gs) && (gangSound s l (l :: gs) == sound)
  | _ => false
/-- The row after its opening: the lead core's queue holds a row, or none, or has been bound anew. -/
def startedState (filled rebound : Bool) : State :=
  let s := gangState 4 (mplane false)
  match gangedRow s 0 0 with
  | some (l :: gs) =>
    (openRow s 0 0 l (l :: gs)).modCore 0 (fun co => { co with
      queues := co.queues.set 0 { co.queues.get 0 with
        p := if filled then 1 else 0, epoch := (co.queues.get 0).epoch + if rebound then 1 else 0 } })
  | _ => s
def startedOk : Bool :=
  let s := startedState true false
  match startedRow s 0 0 with
  | l :: gs => (Machine.rowBarrier s 0 0).opened && (leadCause s (Machine.rowBarrier s 0 0) l).isNone && (match leadRows s l with
      | .ok rows => (l :: gs).all (fun g => g.a.guard g.op.g && g.op.chk.isNone && (smGet none (s.core g.a.core).tileStrand g.op.d.val).isNone &&
          (runMatrix s g.a.core g.op (s.core g.a.core).microActive rows).isSome)
      | .error _ => false)
  | [] => false
def reboundOk : Bool :=
  let s := startedState true true
  match startedRow s 0 0 with
  | l :: _ => (Machine.rowBarrier s 0 0).opened && (leadCause s (Machine.rowBarrier s 0 0) l).isSome
  | [] => false
def unfilledOk : Bool :=
  let s := { startedState false false with now := 30 }
  let b := Machine.rowBarrier s 0 0
  match startedRow s 0 0 with
  | l :: _ => b.opened && !b.waiting.isEmpty && decide (b.since + queueLimit s 0 < s.now) && (leadCause s b l).isNone &&
      (match leadRows s l with
        | .error (.again _) => true
        | _ => false)
  | [] => false
theorem witness_MatrixEvents :
    (attnOk 0x20000 0 none false = true ∧ attnOk 0x20000 0xFFFFFFFF none false = true ∧ attnOk 0x20000000 0 none true = true ∧
      attnOk 0x20000000 0 (some 0) true = true ∧ attnOk 0x20000 0 (some 0) false = true) ∧
    (rowsOk (attnRows (attnState 0x20000 0 none 0) (attnCmd 0x20000) .e4m3 32 32 0x10000) = true ∧
      rowsOk (attnRows (attnState 0x20000 0 none 0) (attnCmd 0x20000) .e4m3 32 32 0x20000) = true ∧
      rowsOk (attnRows (attnState 0x20000 0 none 0) (attnCmd 0x20000) .e4m3 32 32 0x30000) = true) ∧
    (let s := attnState 0x20000000 0 (some 0) 0
     let s1 := { s with now := pageLimit s 0 + 1 }
     tileCommand s1 0 = some (tile0 (some 0), attnCmd 0x20000000) ∧ 0 + pageLimit s1 0 < s1.now) ∧
    (gangOk (mplane false) true = true ∧ gangOk Plane.reset false = true) ∧
    (startedOk = true ∧ reboundOk = true ∧ unfilledOk = true) ∧
    (let s := gangState 3 (mplane false)
     let b := (s.cluster 0).barriers.getD 0 Barrier.reset
     b.waiting ≠ [] ∧ queueLimit s 0 ≠ 0 ∧ b.since + queueLimit s 0 < s.now ∧ (gangedRow s 0 0).isNone = true) := by
  refine ⟨⟨?_, ?_, ?_, ?_, ?_⟩, ⟨?_, ?_, ?_⟩, ⟨?_, ?_⟩, ⟨?_, ?_⟩, ⟨?_, ?_, ?_⟩, ?_, ?_, ?_, ?_⟩ <;> decide +kernel

def fin1 (kind : Nat) (core : Nat) : FoldIn := { core := core, strand := 0, own := 0, kind := kind, pred := true }
def round0 (got : List FoldIn) (sent : Bool) : FoldRound :=
  { round := 2, members := [(1, 0), (0, 0)], got := got, since := 0, sent := sent }
def fold0 (r : FoldRound) : Fold :=
  { (Package.reset.folds.get 0) with
    joined := [{ core := 1, strand := 0, base := 2, limit := none }, { core := 0, strand := 0, base := 2, limit := none }]
    base := 3, rounds := [r] }
/-- Cores 0 and 1 are members of fold 0, whose round 2 is open. -/
def foldStrand (q : Option Contribution) : Strand := { sx with memb := 1, contrib := q }
def foldWorld (q : Option Contribution) (sp : Option Machine.Spec) (r : FoldRound) : State :=
  { State.reset with
    cores := [(0, { coreOf (foldStrand q) with spec := sp }), (1, coreOf (foldStrand none))]
    packages := [(0, { Package.reset with folds := Package.reset.folds.set 0 (fold0 r) })] }
def blockFlit (m : Msg) : Flit := flitTo (.block (pblockPa 0 0)) clsCOL msgId m
def spec0 : Machine.Spec := { strand := 0, checkpoint := sx, hint := true, confirmed := false, atomicOut := false, buf := [], held := [], deferred := none, count := 0 }
def waiting0 : Contribution := { fold := 0, round := 0, kind := 0, since := 0, arrived := false, outcome := false, failed := false }
theorem witness_FoldEvents :
    ((round0 [fin1 1 0, fin1 1 1] false).got ≠ [] ∧ (∀ g ∈ (round0 [fin1 1 0, fin1 1 1] false).got, g.kind = 1) ∧
      (∀ g ∈ (round0 [fin1 0 0, fin1 1 1] false).got, g.kind < 3) ∧ (fin1 0 0).kind ≠ (fin1 1 1).kind) ∧
    (let r := round0 [fin1 0 0] false
     let s := foldWorld none none r
     let f := blockFlit (.foldIn 0 0 0 0 true)
     arrives s f = true ∧ homePkg (pblockPa 0 0) = 0 ∧
      (s.fold 0 0).joined.find? (fun y => y.core == 1 && y.strand == 0) = some { core := 1, strand := 0, base := 2, limit := none } ∧
      (s.fold 0 0).packages = [] ∧ (s.fold 0 0).cred = [] ∧ (s.fold 0 0).rounds = [r] ∧ r.round = 2 + 0 ∧ r.round ≠ (s.fold 0 0).base ∧
      r.sent = false ∧ ({ r with got := r.got ++ [fin1 0 1] } : FoldRound).full = true ∧
      entriesFit (takeContribution (arrived s f) 0 0 (fin1 0 1)) 0 = true) ∧
    (∀ m ∈ [Msg.foldJoin 0 0, .foldLeave 0 0],
      arrives (foldWorld none none (round0 [] false)) (blockFlit m) = true ∧
      (foldWorld none none (round0 [] false)).strand 1 0 = some (foldStrand none) ∧ bit (foldStrand none).memb 0 = true ∧
      bit (((foldWorld none none (round0 [] false)).cluster 0).wave.get 0) 1 = false) ∧
    (let s := foldWorld none none (round0 [fin1 0 1] false)
     let s1 := { s with now := foldLimit s 0 }
     (s1.fold 0 0).rounds = [round0 [fin1 0 1] false] ∧ 0 + foldLimit s1 0 ≤ s1.now ∧ s1.strand 0 0 = some (foldStrand none) ∧
      (round0 [fin1 0 1] false).members.find? (fun m => m.1 == 0 &&
        !((round0 [fin1 0 1] false).got.any (fun g => g.core == m.1 && g.strand == m.2))) = some (0, 0)) ∧
    (∀ sp ∈ [none, some spec0], ∀ o ∈ [true, false], ∀ failed ∈ [true, false],
      let s := foldWorld (some waiting0) sp (round0 [] false)
      let f := msgTo (.foldOut 0 0 0 o failed 0)
      arrives s f = true ∧ s.strand 0 0 = some (foldStrand (some waiting0)) ∧ (s.core 0).spec = sp ∧ (foldStrand (some waiting0)).prog = .none ∧
      spec0.deferred = none ∧ waiting0.round = 0 ∧ waiting0.arrived = false) ∧
    (let s := foldWorld (some waiting0) none (round0 [] false)
     let s1 := { s with now := foldLimit s 0 + 1 }
     s1.strand 0 0 = some (foldStrand (some waiting0)) ∧ waiting0.since + foldLimit s1 0 < s1.now ∧ (s1.core 0).halt = .none) := by
  refine ⟨⟨?_, ?_, ?_, ?_⟩, ⟨?_, ?_, ?_, ?_, ?_, ?_, ?_, ?_, ?_, ?_, ?_⟩, ?_, ⟨?_, ?_, ?_, ?_⟩, ?_, ?_, ?_, ?_⟩ <;> decide +kernel

/-- A round of members of two clusters, the first of which has contributed: it holds an entry of its die's root. -/
def halfRound (n : Nat) : FoldRound := { round := n, members := [(0, 0), (16, 0)], got := [fin1 0 0], since := 0, sent := false }
def splitRound : FoldRound := { round := 2, members := [(1, 0), (16, 0)], got := [], since := 0, sent := false }
/-- `n` such rounds of fold 1, and a round of fold 0 whose first contribution takes another entry. -/
def crowded (n : Nat) : State :=
  { State.reset with
    cores := [(1, coreOf (foldStrand none)), (16, coreOf (foldStrand none))]
    packages := [(0, { Package.reset with
      folds := (Package.reset.folds.set 0 (fold0 splitRound)).set 1 { (fold0 splitRound) with rounds := (List.range n).map halfRound } })] }
theorem witness_FoldEvents_entries :
    (let f := blockFlit (.foldIn 0 0 0 0 true)
     let s := crowded 64
     arrives s f = true ∧ (s.fold 0 0).rounds = [splitRound] ∧ splitRound.round = 2 + 0 ∧ splitRound.round ≠ (s.fold 0 0).base ∧
       (s.fold 0 0).packages = [] ∧ (s.fold 0 0).cred = [] ∧
       (s.fold 0 0).joined.find? (fun y => y.core == f.src && y.strand == 0) = some { core := 1, strand := 0, base := 2, limit := none } ∧
       entriesFit (takeContribution (arrived s f) 0 0 (fin1 0 1)) 0 = false ∧
       entriesFit (takeContribution (arrived (crowded 63) f) 0 0 (fin1 0 1)) 0 = true) := by
  refine ⟨?_, ?_, ?_, ?_, ?_, ?_, ?_, ?_, ?_⟩ <;> decide +kernel

def struck (n : Nat) : State :=
  { State.reset with
    cores := [(0, { Core.reset with part := 5, assigned := true, strikes := List.replicate n 0 })]
    clusters := [(0, { Cluster.reset with strikes := (List.range 17).flatMap (fun k => List.replicate n (k, 0)) })] }
/-- Partition 63 is configured, and `at_` is when it was stopped. -/
def stopState (at_ : Option Nat) (fenced : Bool) : State :=
  { State.reset with
    cores := [(0, { Core.reset with part := 63, assigned := true })], now := 90000
    packages := [(0, { Package.reset with parts := [(63, some { cfg0 with stoppedAt := at_, fenced := fenced })] })] }
def poisoned0 : State := { ew with poisonDue := [0x10000] }
theorem witness_UpsetsAndFences :
    (∀ n ∈ [14, 15], ((((struck n).core 0).strikes.filter (fun t => decide ((struck n).now < t + Config.strikeWindow)) ++ [(struck n).now]).length
        < Config.strikeLimit ↔ n = 14) ∧ clusterPart (struck n) 0 = some 5 ∧
      (∀ k ∈ [16, 0, 3], ((recentReports 0 ((((struck n).cluster 0).strikes.filter (fun r => r.1 == k)).map (·.2))).length <
        Config.strikeLimit ↔ n = 14))) ∧
    ((siteOf 0x10000 false).isMemory = true ∧ lineOwners (stopState none false) 0x10000 = [] ∧
      lineOwners (stopState none false) 0x010000028000 = [(0, 63)] ∧ siteOf 0x010000028000 false = .share 0 0x28000 ∧
      hardwareRange 0 0x28000 = true ∧ ((stopState none false).core 0).assigned = true ∧
      ew.partCfg 0 63 ≠ none ∧ devPa ew 0 63 (space0 0x10000) false = .ok 0x10000) ∧
    (poisoned0.poisonDue.contains (0x10040 / 64 * 64) = false ∧ poisoned0.poisonDue.contains (0x10000 / 64 * 64) = true ∧
      poisoned0.packages.flatMap (fun e => e.2.parts.filterMap (fun y => if y.2.isSome then some (e.1, y.1) else none)) = [(0, 63)] ∧
      (mapsLine { poisoned0 with poisonDue := [] } 0 0x10000 4 (rootPa 0 63) 0).isSome = true) ∧
    (∀ at_ ∈ [none, some 0], ∀ fenced ∈ [true, false],
      (stopState at_ fenced).partCfg 0 63 = some { cfg0 with stoppedAt := at_, fenced := fenced } ∧
      partCores (stopState at_ fenced) 0 63 = [0] ∧ ((stopState at_ fenced).pkg 0).pendingCfg = none ∧
      0 + 90000 ≤ (stopState at_ fenced).now) ∧ cfg0.released = false := by
  refine ⟨?_, ⟨?_, ?_, ?_, ?_, ?_, ?_, ?_, ?_⟩, ⟨?_, ?_, ?_, ?_⟩, ?_, ?_⟩ <;> decide +kernel

/-! ### Witnesses: links, the Lea, the board -/

def lflit : Flit := msgTo (.frameRelease 0)
def linkState (l : Link) (now : Nat) : State := { State.reset with packages := [(0, { Package.reset with links := Package.reset.links.set 3 l })], now := now }
def up (live : BitVec 16) : Link := { Link.reset with up := true, live := live }
def frames (q d : BitVec 32) : Link := { up 0xFFFF with inFlight := [(q, [lflit, lflit])], delivered := d, replay := [(q, [lflit, lflit])] }
def linkCases : List Link :=
  [frames 1 0, frames 5 5, frames 0 0x80000000, { up 0xFFFF with ackFlight := some 0 }, { up 0xFFFF with replayReq := some 1 },
        { up 0xFFFF with notice := some (0xFFFF, 0) }, { up 0xFFFF with notice := some (0x000F, 0) },
        { up 0xFFFF with notice := some (0x0007, 0) }, { up 0xFFFF with marker := some 1 }, Link.reset, { Link.reset with attempts := 6 },
        { Link.reset with attempts := 7 }, { Link.reset with retryAt := some 0 }, up 0xF0F]
/-- Every link of `linkCases`, and any other, is a state's link 3. -/
theorem link_of (l : Link) (now : Nat) : (linkState l now).link (3 / 17) (3 % 17) = l := rfl
theorem witness_OpticalLinks :
    (frames 1 0).up = true ∧ (frames 1 0).marker ≠ some 0 ∧ (frames 1 0).notice = none ∧ (1 : BitVec 32) = (frames 1 0).delivered + 1 ∧
    2 ^ 31 ≤ ((0 : BitVec 32) - (0x80000000 : BitVec 32)).toNat ∧ (up 0xFFFF).waiting = [] ∧ (0xFFFF : BitVec 16) &&& 1 ≠ 0 ∧
    4 ≤ popcount16 0x000F ∧ popcount16 0x0007 < 4 ∧ (0xFFFF : BitVec 16) ≠ 0x000F ∧
    (4 ≤ popcount16 0xF ∧ min (min (3 : BitVec 5).toNat 3) (popcount16 0xF) < 4 ∧ popcount16 0x7 < 4) ∧
    bit ((linkState (up 0xFFFF) 0).pkg 0).lasers 68 = true ∧ bit ((linkState (up 0xFFFF) 0).pkg 0).lasers 12 = true ∧ (12 : Nat) / 4 = 3 ∧
    (let live := (0xFFFF : BitVec 16) &&& ~~~(0xF#16 <<< (4 * (12 % 4)))
     (0xFFFF : BitVec 16) ≠ live ∧ 4 ≤ popcount16 live) := by
  refine ⟨?_, ?_, ?_, ?_, ?_, ?_, ?_, ?_, ?_, ?_, ?_, ?_, ?_, ?_⟩ <;> decide +kernel

def linkAfter (o : Out) : Link :=
  match o with
  | .next t => t.link 0 3
  | _ => Link.reset
/-- 24 Table 24.4: a second loss before the notice is taken adds to it. -/
theorem test_second_loss :
    (linkAfter (execLossOfLight 3 0x0030 (linkState { up 0xFFFF with notice := some (0xFFF0, 0) } 7))).notice = some (0xFFC0, 0) := by
  decide +kernel
/-- 24 R468: a notice with a larger live set than the transmitter's acknowledges and does not restripe. -/
theorem test_notice_crosses_marker :
    let l := linkAfter (execRestripeNotice 3 (linkState { up 0x0FFF with notice := some (0xFFFF, 0), marker := some 2 } 7))
    l.live = 0x0FFF ∧ l.notice = none ∧ l.marker = some 2 := by
  decide +kernel

def lark0 (gen : BitVec 16) (holder : Nat) : Lark := { group := 1, gen := gen, holder := holder, next := 1, applied := 0, nack := 0 }
def leaState (l : Lea) (now : Nat) : State :=
  { State.reset with
    cores := [(0, coreOf { sx with wait := some (waitOf .lea) })]
    packages := [(0, { Package.reset with lea := l, formed := true }), (1, { Package.reset with lea := { l with number := 1 }, formed := true })]
    now := now }
def member (gen : BitVec 16) (holder : Nat) : Lea :=
  { Lea.reset with members := [0, 1], hasLark := true, lark := lark0 gen holder, seenGen := 5, applied := 6
                   received := [(7, .fence), (6, .fence)], queue := [(0, 0, .fence)] }
def leaOk (g : BitVec 16) (holder : Nat) (older : Bool) : Bool :=
  let s := leaState (member g holder) 180000
  let l := s.lea 0
  l.hasLark && !l.members.isEmpty && olderLark l l.lark == older && (decide (l.lark.holder = l.number) == (holder == 0)) && !l.txOff &&
    decide (l.received.find? (fun r => r.1 == 7) = some (7, .fence)) && decide (7 = l.applied + 1) &&
    decide (l.received.find? (fun r => r.1 == 6) = some (6, .fence)) && decide (6 ≤ l.applied) &&
    decide (l.members.find? (fun m => !(s.lea m).txOff) = some 0) && decide (l.lastSeen + 180000 ≤ s.now)
def leaWait : State := { leaState (member 5 0) 0 with now := remoteLimit (leaState (member 5 0) 0) 0 }
theorem witness_LeaEvents :
    (leaOk 4 0 true = true ∧ leaOk 5 0 false = true ∧ leaOk 5 1 false = true) ∧
    (leaWait.strand 0 0 = some { sx with wait := some (waitOf .lea) } ∧ 0 + remoteLimit leaWait 0 ≤ leaWait.now ∧
      (leaWait.lea 0).queue.find? (fun q => q.1 == 0 && q.2.1 == 0) = some (0, 0, .fence)) ∧
    ((([(0, 1023), (1023, 0)] : List (Nat × Nat)).map (·.1)).Nodup ∧ (([(0, 1023), (1023, 0)] : List (Nat × Nat)).map (·.2)).Nodup ∧
      (∀ n ∈ ([(0, 1023), (1023, 0)] : List (Nat × Nat)), n.2 < 1024) ∧ Memory.wf leaWait.mem) ∧ ([0, 1] : List Nat).Nodup ∧
    ((leaWait.pkg 0).formed = true ∧ (leaWait.pkg 1).formed = true) := by
  refine ⟨⟨?_, ?_, ?_⟩, ⟨?_, ?_, ?_⟩, ⟨?_, ?_, ?_, ?_⟩, ?_, ?_, ?_⟩ <;> decide +kernel

/-- Job 0 is partition 63's; package 0 has every port, or none. -/
def ueState (ports : BitVec 4) : State := { ew with packages := [(0, { Package.reset with parts := [(63, some cfg0)], uePorts := ports })] }
def hostReq : Requester := { pkg := 0, id := { part := 63, cls := 8 }, sup := false }
def mailHost (b : MailBind) (n : Nat) : State :=
  let s := ueState 0xF
  (writeD s 0x320020 (BitVec.ofNat 64 (0xC00000000000D000 + 0x030000000000))).modCore 0 (fun co =>
    { co with mailboxes := [(0, { bind := b, parked := List.replicate n { args := [], s13 := 0, part := 63 } })] })
def mailLeafBig : Leaf :=
  { entry := 0x320020, lo := BitVec.ofNat 64 (0xC00000000000D000 + 0x030000000000), hi := 0, big := true, passed := false }
def goodOffer : UetOffer :=
  { aiFull := true, reliable := true, semanticOk := true, congestionOk := true, linkLayerOk := true, security := true, payload := 4096 }
theorem engRead_host : (engRead (ueState 0xF) hostReq 0x10000 2) = (ueState 0xF, .ok [0, 0]) := by
  have h1 : (engRead (ueState 0xF) hostReq 0x10000 2).1 = ueState 0xF := by rfl
  have h2 : (engRead (ueState 0xF) hostReq 0x10000 2).2 = .ok [0, 0] := by decide +kernel
  exact Prod.ext h1 h2
theorem engCheck_host : engCheck (ueState 0xF) hostReq 0x10000 [1, 2] = (ueState 0xF, none) := by
  have h1 : (engCheck (ueState 0xF) hostReq 0x10000 [1, 2]).1 = ueState 0xF := by rfl
  have h2 : (engCheck (ueState 0xF) hostReq 0x10000 [1, 2]).2 = none := by decide +kernel
  exact Prod.ext h1 h2
theorem witness_HostAccesses :
    ((ueState 0xF).pkg 0).uePorts ≠ 0 ∧ jobPart (ueState 0xF) 0 1 = none ∧ jobPart (ueState 0xF) 0 0 = some 63 ∧
    engCheck (ueState 0xF) hostReq 0x10000 [1, 2] = (ueState 0xF, none) ∧
    engRead (ueState 0xF) hostReq 0x10000 2 = (ueState 0xF, .ok [0, 0]) ∧
    (engCheck (ueState 0xF) hostReq 0x30000000 [1, 2]).2.isSome = true ∧
    readOk (engRead (ueState 0xF) hostReq 0x30000000 2) = false ∧
    (∀ b ∈ [MailBind.none, .slot 3], ∀ n ∈ [15, 16],
      let s := mailHost b n
      bit (s.pkg 0).uePorts 0 = true ∧ jobPart s 0 0 = some 63 ∧ s.walk 0 63 0x20000000 = .leaf mailLeafBig ∧ mailLeafBig.w = true ∧
      mailLeafBig.x = false ∧ mailLeafBig.u = true ∧ mailLeafBig.fmtOk = true ∧
      siteOf (mailLeafBig.pa 0x20000000) mailLeafBig.geom2 = .mailbox 0 0 0 ∧ mayCommand s 0 0 { part := 63, cls := 8 } = true ∧
      spaceOf (0x20000000 : Word) ≠ 0xC0 ∧ (s.core 0).halt = .none ∧
      (s.mailbox 0 0).bind = b ∧ (s.mailbox 0 0).parked.length = n) ∧
    mayCommand (mailHost .none 0) 0 0 { part := 1, cls := 8 } = false ∧
    (goodOffer.aiFull = true ∧ goodOffer.payload ≤ 4096 ∧ ¬ ({ goodOffer with payload := 4097 } : UetOffer).payload ≤ 4096) := by
  refine ⟨?_, ?_, ?_, engCheck_host, engRead_host, ?_, ?_, ?_, ?_, ?_⟩ <;> decide +kernel

/-- A sound record: VERSION 1, partition 5, cluster 0 of die 0, HBM 0 to 0x10000, 64 fault records, strand stacks of 2^12 bytes. -/
def cfgBody : List Byte :=
  (List.range 64).flatMap (fun i =>
    leBytes 8 (if i = 0 then 1 + 5 * 2 ^ 16 else if i = 2 then 1 else if i = 7 then 0x10000 else if i = 12 then 64 else if i = 27 then 12 else 0))
def mgmtState (pc : Option PartCfg) : State :=
  { State.reset with packages := [(0, { Package.reset with booted := true, boots := 1, keyHashes := [[]], parts := [(5, pc)] })] }
def image0 (secver : Nat) : BootImage := { bytes := [1], key := [2], signature := [3], secver := secver, advances := true }
theorem witness_ManagementRequests :
    (∀ pc ∈ [none, some cfg0],
      let s := mgmtState pc
      (s.pkg 0).booted = true ∧ (s.pkg 0).inReset = false ∧ (s.pkg 0).pendingCfg = none ∧ s.partCfg 0 5 = pc) ∧
    (cfgPart cfgBody = 5 ∧ cfgWellFormed 0 cfgBody = true ∧ cfgFree (mgmtState none) 0 cfgBody = true) ∧
    (cfg0.stoppedAt = none ∧ cfg0.released = false ∧ (List.replicate 32 (0 : Byte)).length = 32) ∧
    cfgStatus { State.reset with packages := [(0, { Package.reset with keyHashes := [] })] } 0 cfgBody [] ≠ 0 ∧
    ((State.reset.pkg 0).inReset = false ∧ (State.reset.pkg 0).booted = false) ∧
    (let s : State := { State.reset with packages := [(0, { Package.reset with boots := 1 })] }
     (s.pkg 0).booted = false ∧ (s.pkg 0).boots ≠ 0 ∧ bit (s.pkg 0).uePorts 0 = true) ∧
    imageOk { Package.reset with fused := 1 } (image0 0) = false := by
  refine ⟨?_, ⟨?_, ?_, ?_⟩, ⟨?_, ?_, ?_⟩, ?_, ⟨?_, ?_⟩, ⟨?_, ?_, ?_⟩, ?_⟩
  all_goals first | decide +kernel | simp [imageOk, image0]
/-- Whether a signature verifies is open (log 7): where one does, its record, and its image, meet the rest of their statement. -/
theorem witness_signatures (h : Config.verify256s (cfgSigner cfgBody) cfgBody [] = true) (h' : Config.verify256s [2] [1] [3] = true) :
    cfgStatus (mgmtState none) 0 cfgBody [] = 0 ∧ imageOk { Package.reset with bootHash := [] } (image0 0) = true := by
  have k1 : ((mgmtState none).pkg 0).keyHashes.any (fun h => h == shake256 (cfgSigner cfgBody) h.length) = true := by
    simp [mgmtState, State.pkg, smGet, shake256, leBytes]
  have k2 : cfgWellFormed 0 cfgBody = true := by decide +kernel
  have k3 : cfgFree (mgmtState none) 0 cfgBody = true := by decide +kernel
  have k4 : ¬ bits (cfgWord cfgBody 8) 0 32 < (smGet 0 ((mgmtState none).pkg 0).minima (cfgPart cfgBody).toNat).toNat := by decide +kernel
  constructor
  · simp only [cfgStatus, k1, h, k2, k3, if_neg k4]
    rfl
  · simpa [imageOk, image0, Package.reset, shake256, leBytes] using h'

theorem witness_PowerAndHeat :
    (List.replicate 42 (0 : BitVec 32)).length = 42 ∧ (719999 : Nat) < 720000 ∧ (State.reset.pkg 0).inReset = false ∧
    (let s := { State.reset with now := 1800000001, dies := [(0, { Die.reset with boilLapsed := false })] }
     (s.die 0).boilLapsed = false ∧ (s.die 0).boilAt + 1800000000 < s.now) ∧
    (State.reset.die 0).stopped = false ∧ diePartitions State.reset 0 0 = [] ∧
    diePartitions (mgmtState (some { cfg0 with clu := #v[1, 0, 0, 0] })) 0 0 = [5] ∧
    (let s := { State.reset with
        now := 108000000000
        packages := [(0, { Package.reset with
          connectors := [(24, some { degraded := true, baseline := none, value := 0, wmask := 0, postedAt := 0 })] })] }
     (s.connector 0 24).degraded = true ∧ (s.connector 0 24).postedAt + 108000000000 ≤ s.now) ∧
    ((21 : Nat) < 22 ∧ (24 : Nat) ≤ 24 ∧ (29 : Nat) < 30) := by
  refine ⟨?_, ?_, ?_, ?_, ?_, ?_, ?_, ?_, ?_⟩ <;> decide +kernel

/-! ### Witnesses: decoding, steps, the memory's form -/

/-- A NOP of the access side, and one of the execute side. -/
def nopWord : Nat := 0x28000E0E0E00000000000000
def placed (w : Nat) : State := State.reset.withFetchWord 96 w
def slotOk (s : State) (i : Instr) : Bool :=
  let u := s.advance s.turn.dt
  match s.turn.agent, u.strand 0 0 with
  | .slot 0 0, some x =>
    !cannotIssue (u.core 0) 0 x && !awaits x && !watchdogDue x && !drains x && !commits (u.core 0) 0 x && (heldWaits (u.core 0).spec 0 (Slot.unpack (slotBits (match fetchLine u 0 x x.pc with
      | .ok q => q.2
      | .error _ => []) 0)) i == false) && pcShapeOk x.pc && !x.needTgt &&
      (match fetchLine u 0 x x.pc with
       | .ok (l, line) => parityOk line 0 && scanOk l && decide (decode 0 (sideBit line 0) (slotBits line 0) = .ok i) &&
           !slotWaits x (Slot.unpack (slotBits line 0)) i && !x.checks.lost (slotReads x i) &&
           decide (x.checks.corrects (slotReads x i) = ([], [], [])) && decide (slotCheck (toBank u 0 0 { x with place := .bank, needTgt := false }) 0 0 x line 0 i = none)
       | .error _ => false)
  | _, _ => false
/-- A slot that reads s5, which an entry is still to write, and which an atomic on the speculative path is to write. -/
def readS5 : Instr := .add { alu false false 5 5 with b := .imm 1 }
def lateStrand : Strand := { sx with seq := [entryOf sx (.vext { vextF g0 with d := .s 5 })] }
theorem witness_SlotWaits :
    (∀ w ∈ encodeSlot readS5, slotWaits lateStrand w readS5 = true ∧
      heldWaits (some { spec0 with held := [.atomic (accAt 0x10000 (.atomic swap4) none) (some 5) true] }) 0 w readS5 = true) ∧
    (encodeSlot readS5).isSome = true ∧ readS5.side = false := by
  refine ⟨?_, ?_, ?_⟩ <;> decide +kernel
theorem witness_StepRunsSlot :
    slotOk (placed nopWord) (.nop { g := g0, exec := false }) = true ∧
    decode 0 false (BitVec.ofNat 96 (0x3E0 * 2 ^ 86)) = .error .opcode ∧ decode 0 true 0 = .error .side ∧ (decode 0 false 0).isOk = true := by
  refine ⟨?_, ?_, ?_, ?_⟩ <;> decide +kernel
/-- Step runs the instruction that `withFetchWord` places: the program counter passes it. -/
theorem test_step_nop : (match step (placed nopWord) with
    | .next t => (t.strand 0 0).map (·.pc) == some 1 && t.tick == 1
    | _ => false) = true := by decide +kernel
theorem witness_StepRunsOthers :
    (let s := placed nopWord
     let u := s.advance s.turn.dt
     (u.strand 0 0).isSome = true ∧ s.turn.agent = .slot 0 0) ∧
    (let s := slotState { sx with wdPending := true }
     cannotIssue (s.core 0) 0 { sx with wdPending := true } = false ∧ watchdogDue { sx with wdPending := true } = true ∧
      cannotIssue ((slotState { sx with pending := some (pend .t cPermission) }).core 0) 0 { sx with pending := some (pend .t cPermission) } = true) ∧
    (let s := slotState { sx with pc := 0x90000 * 5 }
     isErr (fetchSlot s 0 { sx with pc := 5 * 2 ^ 40 }) = true ∧ drains sx = false) ∧
    (let s := entryState sx (.wswp { g := g0 })
     s.turn.agent = .execute 0 0 ∧ (s.core 0).halt = .none ∧ parkDue (s.core 0) = false ∧ (s.core 0).spec = none ∧
      ((s.strand 0 0).bind (fun x => seqHead x.seq)).isSome = true ∧
      (s.strand 0 0).all (fun x => (seqHead x.seq).all (fun e =>
        let r : Reads := { Machine.readsOf x e.k e.i with s := [], k := [] }
        !x.checks.lost r && decide (x.checks.corrects r = ([], [], [])) && !entryFails x e && !entryUseFails s 0 0 e && decide (x.pending = none) && decide (x.place = .bank) && !gangStarted s 0 0)) = true) ∧
    (let s := { sw with turn := { sw.turn with agent := .flip 0 0 (.s 1) false } }
     s.turn.agent = .flip 0 0 (.s 1) false ∧ (s.strand 0 0).isSome = true ∧ CheckedWord.s 1 ≠ .other) ∧
    (encode (.frameRelease 0) = none ∧ encode (.nop { g := g0, exec := true }) ≠ none) := by
  refine ⟨⟨?_, ?_⟩, ⟨?_, ?_, ?_⟩, ⟨?_, ?_⟩, ⟨?_, ?_, ?_, ?_, ?_, ?_⟩, ⟨?_, ?_, ?_⟩, ?_, ?_⟩ <;> decide +kernel
theorem witness_MemoryInvariant : Memory.wf State.reset.mem ∧ (match step (placed nopWord) with
    | .next _ => true
    | _ => false) = true ∧ smWf 0 (writeD State.reset 0x1000 5).mem = true := by
  refine ⟨?_, ?_, ?_⟩ <;> decide +kernel
/-- SHAKE256 of the empty message, its first three bytes as FIPS 202's published example has them. -/
theorem test_shake256 : shake256 [] 3 = [0x46, 0xb9, 0xdd] := by decide +kernel
/-! ### Decoding: words written out from the encoding tables

Each word is put together from Table 10.3 and the opcode tables of chapters 12, 14, 15, 17 and 20: opcode, MOD, guard, the
three operand bytes, the needs and TAIL. -/

def gk (neg : Bool) (k : Fin 8) : Guard := { neg := neg, k := k }
/-- What slot 1 of a line decodes to on `side`. -/
def reads (w : SlotBits) (side : Bool) (i : Instr) : Bool :=
  match decode 1 side w with
  | .ok j => j == i
  | .error _ => false

theorem test_decode_arithmetic_0 :
    (reads 0x00021000FD00000000000000 false (.add { sh := false, g := gk false 1, w := .w64, z := false, sat := true, d := .s 0, a := .s 15, b := .imm 0x10 }) &&
      reads 0x006EA09A8E0000FFFFFFFF81 false (.addi { sh := true, g := gk true 2, w := .w32, z := true, sat := true, d := .s 9, a := .pcn, imm := 0xFFFFFFFF81 }) &&
      reads 0x00943020DD20000000000000 false (.sub { sh := false, g := gk false 3, w := .w16, z := true, sat := false, d := .s 2, a := .s 13, b := .imm 0x12 }) &&
      reads 0x00FAC030CD30000000000000 false (.mul { sh := true, g := gk true 4, w := .w8, z := false, sat := true, d := .s 3, a := .s 12, b := .imm 0x13 }) &&
      reads 0x01005040BD40000000000000 false (.mulh { sh := false, g := gk false 5, w := .w64, z := false, sat := false, d := .s 4, a := .s 11, b := .imm 0x14 })) = true := by decide +kernel

theorem test_decode_arithmetic_1 :
    (reads 0x016CE050AD50000000000000 false (.mulhz { sh := true, g := gk true 6, w := .w32, z := true, sat := false, d := .s 5, a := .s 10, b := .imm 0x15 }) &&
      reads 0x019070609D60000000000000 false (.div { sh := false, g := gk false 7, w := .w16, z := false, sat := false, d := .s 6, a := .s 9, b := .imm 0x16 }) &&
      reads 0x01FE90708D70000000000000 false (.divz { sh := true, g := gk true 1, w := .w8, z := true, sat := true, d := .s 7, a := .s 8, b := .imm 0x17 }) &&
      reads 0x020020807D80000000000000 false (.rem { sh := false, g := gk false 2, w := .w64, z := false, sat := false, d := .s 8, a := .s 7, b := .imm 0x18 }) &&
      reads 0x026CB0906D90000000000000 false (.remz { sh := true, g := gk true 3, w := .w32, z := true, sat := false, d := .s 9, a := .s 6, b := .imm 0x19 })) = true := by decide +kernel

theorem test_decode_arithmetic_2 :
    (reads 0x029040A05DA0000000000000 false (.minI { sh := false, g := gk false 4, w := .w16, z := false, sat := false, d := .s 10, a := .s 5, b := .imm 0x1A }) &&
      reads 0x02F8D0B04DB0000000000000 false (.maxI { sh := true, g := gk true 5, w := .w8, z := false, sat := false, d := .s 11, a := .s 4, b := .imm 0x1B }) &&
      reads 0x030460C03DC0000000000000 false (.minz { sh := false, g := gk false 6, w := .w64, z := true, sat := false, d := .s 12, a := .s 3, b := .imm 0x1C }) &&
      reads 0x036CF0D02DD0000000000000 false (.maxz { sh := true, g := gk true 7, w := .w32, z := true, sat := false, d := .s 13, a := .s 2, b := .imm 0x1D })) = true := by decide +kernel

theorem test_decode_logic_0 :
    (reads 0x08280A700A70000000000000 false (.andI { sh := true, g := gk false 0, w := .w32, z := false, sat := false, d := .zr, a := .s 0, b := .zr }) &&
      reads 0x08541A701A70000000000000 false (.orI { sh := false, g := gk false 1, w := .w16, z := true, sat := false, d := .zr, a := .s 1, b := .zr }) &&
      reads 0x08B82A702A70000000000000 false (.xorI { sh := true, g := gk false 2, w := .w8, z := false, sat := false, d := .zr, a := .s 2, b := .zr }) &&
      reads 0x08C43A703A70000000000000 false (.andn { sh := false, g := gk false 3, w := .w64, z := true, sat := false, d := .zr, a := .s 3, b := .zr }) &&
      reads 0x09284A704A70000000000000 false (.shl { sh := true, g := gk false 4, w := .w32, z := false, sat := false, d := .zr, a := .s 4, b := .zr })) = true := by decide +kernel

theorem test_decode_logic_1 :
    (reads 0x09545A705A70000000000000 false (.shr { sh := false, g := gk false 5, w := .w16, z := true, sat := false, d := .zr, a := .s 5, b := .zr }) &&
      reads 0x09B86A706A70000000000000 false (.sar { sh := true, g := gk false 6, w := .w8, z := false, sat := false, d := .zr, a := .s 6, b := .zr }) &&
      reads 0x09C47A707A70000000000000 false (.rol { sh := false, g := gk false 7, w := .w64, z := true, sat := false, d := .zr, a := .s 7, b := .zr }) &&
      reads 0x0A280A708A70000000000000 false (.ror { sh := true, g := gk false 0, w := .w32, z := false, sat := false, d := .zr, a := .s 8, b := .zr }) &&
      reads 0x0A48B0304E00000000000000 false (.clz { sh := false, g := gk true 3, w := .w32, d := .s 3, a := .s 4 })) = true := by decide +kernel

theorem test_decode_logic_2 :
    (reads 0x0A90B0304E00000000000000 false (.ctz { sh := false, g := gk true 3, w := .w16, d := .s 3, a := .s 4 }) &&
      reads 0x0AD8B0304E00000000000000 false (.popc { sh := false, g := gk true 3, w := .w8, d := .s 3, a := .s 4 }) &&
      reads 0x0B08B0304E00000000000000 false (.sext { sh := false, g := gk true 3, w := .w32, d := .s 3, a := .s 4 }) &&
      reads 0x0B54B0304E00000000000000 false (.zext { sh := false, g := gk true 3, w := .w16, d := .s 3, a := .s 4 }) &&
      reads 0x0BA420102E00000000002818 false (.bfx { sh := true, g := gk false 2, z := true, d := .s 1, a := .s 2, pos := 24, len := 40 })) = true := by decide +kernel

theorem test_decode_logic_3 :
    (reads 0x0BC020102E0000000000013F false (.bfi { sh := false, g := gk false 2, z := false, d := .s 1, a := .s 2, pos := 63, len := 1 })) = true := by decide +kernel

theorem test_decode_address_0 :
    (reads 0x1020105E0E00008000000001 false (.li { sh := true, g := gk false 1, d := .s 5, imm := 0x8000000001 }) &&
      reads 0x1040105E0E000000DEADBEEF false (.lih { sh := false, g := gk false 1, d := .s 5, imm := 0xDEADBEEF }) &&
      reads 0x108C00506070000000000010 false (.lea { sh := false, g := gk false 0, d := .s 5, a := .s 6, b := some (.s 7), scale := 3, disp := 0x10 }) &&
      reads 0x10C000506E00000000000030 false (.adda { sh := false, g := gk false 0, d := .s 5, a := .s 6, b := .imm 0x30 }) &&
      reads 0x112000506070000000000000 false (.suba { sh := true, g := gk false 0, d := .s 5, a := .s 6, b := .src (.s 7) })) = true := by decide +kernel

theorem test_decode_address_1 :
    (reads 0x114000506C30006400000000 false (.select { sh := false, g := gk false 0, d := .s 5, a := .s 6, b := .imm 3, c := 4 })) = true := by decide +kernel

theorem test_decode_predicates_0 :
    (reads 0x200006206070000000000000 false (.cmp { g := gk false 0, cond := .eq, w := .w64, d := 2, a := .s 6, b := some (.s 7) }) &&
      reads 0x200506206070000000000000 false (.cmp { g := gk false 0, cond := .ne, w := .w32, d := 2, a := .s 6, b := some (.s 7) }) &&
      reads 0x200A06206070000000000000 false (.cmp { g := gk false 0, cond := .lt, w := .w16, d := 2, a := .s 6, b := some (.s 7) }) &&
      reads 0x200F06206070000000000000 false (.cmp { g := gk false 0, cond := .le, w := .w8, d := 2, a := .s 6, b := some (.s 7) }) &&
      reads 0x201006206070000000000000 false (.cmp { g := gk false 0, cond := .gt, w := .w64, d := 2, a := .s 6, b := some (.s 7) })) = true := by decide +kernel

theorem test_decode_predicates_1 :
    (reads 0x201506206070000000000000 false (.cmp { g := gk false 0, cond := .ge, w := .w32, d := 2, a := .s 6, b := some (.s 7) }) &&
      reads 0x201A06206E00000000000000 false (.cmp { g := gk false 0, cond := .ltz, w := .w16, d := 2, a := .s 6, b := none }) &&
      reads 0x201F06206E00000000000000 false (.cmp { g := gk false 0, cond := .lez, w := .w8, d := 2, a := .s 6, b := none }) &&
      reads 0x202006206E00000000000000 false (.cmp { g := gk false 0, cond := .gtz, w := .w64, d := 2, a := .s 6, b := none }) &&
      reads 0x202506206E00000000000000 false (.cmp { g := gk false 0, cond := .gez, w := .w32, d := 2, a := .s 6, b := none })) = true := by decide +kernel

theorem test_decode_predicates_2 :
    (reads 0x202A06206070000000000000 false (.cmp { g := gk false 0, cond := .ltu, w := .w16, d := 2, a := .s 6, b := some (.s 7) }) &&
      reads 0x202F06206070000000000000 false (.cmp { g := gk false 0, cond := .leu, w := .w8, d := 2, a := .s 6, b := some (.s 7) }) &&
      reads 0x203006206070000000000000 false (.cmp { g := gk false 0, cond := .gtu, w := .w64, d := 2, a := .s 6, b := some (.s 7) }) &&
      reads 0x203506206070000000000000 false (.cmp { g := gk false 0, cond := .geu, w := .w32, d := 2, a := .s 6, b := some (.s 7) }) &&
      reads 0x207606206E00000000000007 false (.cmpi { g := gk false 0, cond := .geu, w := .w16, d := 2, a := .s 6, imm := 7 })) = true := by decide +kernel

theorem test_decode_predicates_3 :
    (reads 0x208016566670000000000000 false (.kand { g := gk false 1, d := 5, a := 6, b := 7 }) &&
      reads 0x20C016566670000000000000 false (.kor { g := gk false 1, d := 5, a := 6, b := 7 }) &&
      reads 0x210016566670000000000000 false (.kxor { g := gk false 1, d := 5, a := 6, b := 7 }) &&
      reads 0x214016566E00000000000000 false (.knot { g := gk false 1, d := 5, a := 6 }) &&
      reads 0x218016506E00000000000000 false (.kmov { g := gk false 1, d := .k 5, a := .s 6 })) = true := by decide +kernel

theorem test_decode_control_0 :
    (reads 0x28000E0E0E00000000000000 true (.nop { g := gk false 0, exec := true }) &&
      reads 0x2840CE0E0E0000FFFFFFFFF1 false (.br { g := gk true 4, ofs := 0x1FFFFFFFFE, tslot := 1 }) &&
      reads 0x28C0CE0E0E0000FFFFFFFFF3 false (.call { g := gk true 4, ofs := 0x1FFFFFFFFE, tslot := 3 }) &&
      reads 0x2980CE0E0E0000FFFFFFFFF6 false (.brq { g := gk true 4, ofs := 0x1FFFFFFFFE, tslot := 6 }) &&
      reads 0x28804E00BE00000000000000 false (.jmp { g := gk false 4, a := 11 })) = true := by decide +kernel

theorem test_decode_control_1 :
    (reads 0x29004E00DE00000000000000 false (.calli { g := gk false 4, a := 13 }) &&
      reads 0x29404E0E0E00000000000000 false (.ret { g := gk false 4 }) &&
      reads 0x29C04E0E0E00000000000000 false (.endStrand { g := gk false 4 }) &&
      reads 0x30010E006E00000000000011 false (.loopR { g := gk false 0, lvl := true, a := 6, ofs := 2, tslot := 1 }) &&
      reads 0x30400E0E0E0000ABCDE0091C false (.loopi { g := gk false 0, lvl := false, count := 0xABCDE, lofs := 0x123, eslot := 4 })) = true := by decide +kernel

theorem test_decode_system_0 :
    (reads 0x38003E0E0E0000123456789A false (.trapI { g := gk false 3, imm := 0x123456789A }) &&
      reads 0x38403E0E0E00000000000000 false (.eret { g := gk false 3 }) &&
      reads 0x38803E0E0E00000000000000 false (.brk { g := gk false 3 }) &&
      reads 0x38C0001E0E00000000000000 false (.getc { g := gk false 0, d := .s 1, reg := .status }) &&
      reads 0x38C0001E0E00000000000001 false (.getc { g := gk false 0, d := .s 1, reg := .cause })) = true := by decide +kernel

theorem test_decode_system_1 :
    (reads 0x38C0001E0E00000000000002 false (.getc { g := gk false 0, d := .s 1, reg := .epc }) &&
      reads 0x38C0001E0E00000000000003 false (.getc { g := gk false 0, d := .s 1, reg := .eva }) &&
      reads 0x38C0001E0E00000000000004 false (.getc { g := gk false 0, d := .s 1, reg := .fctl }) &&
      reads 0x38C0001E0E00000000000005 false (.getc { g := gk false 0, d := .s 1, reg := .fstat }) &&
      reads 0x38C0001E0E00000000000006 false (.getc { g := gk false 0, d := .s 1, reg := .tid })) = true := by decide +kernel

theorem test_decode_system_2 :
    (reads 0x38C0001E0E00000000000007 false (.getc { g := gk false 0, d := .s 1, reg := .core }) &&
      reads 0x38C0001E0E00000000000008 false (.getc { g := gk false 0, d := .s 1, reg := .part }) &&
      reads 0x38C0001E0E00000000000009 false (.getc { g := gk false 0, d := .s 1, reg := .lseq }) &&
      reads 0x38C0001E0E0000000000000A false (.getc { g := gk false 0, d := .s 1, reg := .fold }) &&
      reads 0x38C0001E0E0000000000000B false (.getc { g := gk false 0, d := .s 1, reg := .ladstep })) = true := by decide +kernel

theorem test_decode_system_3 :
    (reads 0x38C0001E0E0000000000000C false (.getc { g := gk false 0, d := .s 1, reg := .seed }) &&
      reads 0x39000E002E00000000000004 false (.setc { g := gk false 0, reg := .fctl, a := .s 2 }) &&
      reads 0x39400E002C00000000000000 false (.tlbiPage { g := gk false 0, a := .s 2 }) &&
      reads 0x39400E002C10000000000000 false (.tlbiSpace { g := gk false 0, a := .s 2 }) &&
      reads 0x39400E0A7C20000000000000 false (.tlbiPartition { g := gk false 0 })) = true := by decide +kernel

theorem test_decode_system_4 :
    (reads 0x39800A702E00000000000000 false (.scan { g := gk false 0, d := .zr, a := 2 })) = true := by decide +kernel

theorem test_decode_vector_arithmetic_0 :
    (reads 0x400813E2040001E020000000 true (.vadd { sh := false, g := gk false 1, lt := .fp32, d := .v 30, a := .v 0, b := .q 0 1, rm := .rn, sat := false }) &&
      reads 0x406013F2141002E010000000 true (.vsub { sh := true, g := gk false 1, lt := .i8, d := .v 31, a := .v 1, b := .q 1 2, rm := .fctl, sat := true }) &&
      reads 0x408A13E2242003E0A0000000 true (.vmul { sh := false, g := gk false 1, lt := .bf16, d := .v 30, a := .v 2, b := .q 2 3, rm := .rs, sat := false }) &&
      reads 0x40C904344252F00650000000 true (.vfma { sh := false, g := gk false 0, lt := .fp16, d := .q 3 2, a := .q 4 15, b := .v 5, c := .s 6, rm := .rz, sat := true }) &&
      reads 0x410604344252F00610000000 true (.vfms { sh := false, g := gk false 0, lt := .z32, d := .q 3 2, a := .q 4 15, b := .v 5, c := .s 6, rm := .fctl, sat := true })) = true := by decide +kernel

theorem test_decode_vector_arithmetic_1 :
    (reads 0x414B04344252F00670000000 true (.vnfma { sh := false, g := gk false 0, lt := .e4m3, d := .q 3 2, a := .q 4 15, b := .v 5, c := .s 6, rm := .rd, sat := true }) &&
      reads 0x4185023C4A7000E000000000 true (.vmin { sh := false, g := gk false 0, lt := .z16, d := .v 3, a := .imm 4, b := .zr }) &&
      reads 0x41C5023C4A7000E000000000 true (.vmax { sh := false, g := gk false 0, lt := .z16, d := .v 3, a := .imm 4, b := .zr }) &&
      reads 0x420302324E0000E010000000 true (.vabs { sh := false, g := gk false 0, lt := .i64, d := .v 3, a := .v 4, sat := true }) &&
      reads 0x424302324E0000E010000000 true (.vneg { sh := false, g := gk false 0, lt := .i64, d := .v 3, a := .v 4, sat := true })) = true := by decide +kernel

theorem test_decode_vector_arithmetic_2 :
    (reads 0x48280232425000E000000000 true (.vand { sh := true, g := gk false 0, lt := .fp32, d := .v 3, a := .v 4, b := .v 5 }) &&
      reads 0x486C0232425000E000000000 true (.vor { sh := true, g := gk false 0, lt := .e5m2, d := .v 3, a := .v 4, b := .v 5 }) &&
      reads 0x48A20232425000E000000000 true (.vxor { sh := true, g := gk false 0, lt := .i32, d := .v 3, a := .v 4, b := .v 5 }) &&
      reads 0x48E70232425000E000000000 true (.vshl { sh := true, g := gk false 0, lt := .z64, d := .v 3, a := .v 4, b := .v 5 }) &&
      reads 0x49210232425000E000000000 true (.vshr { sh := true, g := gk false 0, lt := .i16, d := .v 3, a := .v 4, b := .v 5 })) = true := by decide +kernel

theorem test_decode_vector_arithmetic_3 :
    (reads 0x49600232425000E000000000 true (.vsar { sh := true, g := gk false 0, lt := .i8, d := .v 3, a := .v 4, b := .v 5 }) &&
      reads 0x500D02324250002680000000 true (.vdot { sh := false, g := gk false 0, lt := .e2m1, d := .v 3, a := .v 4, b := .v 5, c := some (.v 6), rm := .ru, sat := false }) &&
      reads 0x504202324E0000E000000000 true (.vred { sh := false, g := gk false 0, lt := .i32, op := .add, d := .v 3, a := .v 4, rm := .fctl, sat := false }) &&
      reads 0x504202324E0000E000000001 true (.vred { sh := false, g := gk false 0, lt := .i32, op := .min, d := .v 3, a := .v 4, rm := .fctl, sat := false }) &&
      reads 0x504202324E0000E000000002 true (.vred { sh := false, g := gk false 0, lt := .i32, op := .max, d := .v 3, a := .v 4, rm := .fctl, sat := false })) = true := by decide +kernel

theorem test_decode_vector_elements_0 :
    (reads 0x600906324E0000E000000008 true (.vcmp { sh := false, g := gk false 0, lt := .fp16, cond := .gtz, d := 3, a := .v 4, b := none }) &&
      reads 0x604802324250006700000000 true (.vsel { sh := false, g := gk false 0, lt := .fp32, d := .v 3, a := .v 4, b := .v 5, c := 7 }) &&
      reads 0x60800232425000E000000000 true (.vperm { sh := false, g := gk false 0, d := .v 3, a := .v 4, b := .v 5 }) &&
      reads 0x60CA02324E0000E000000007 true (.vbcast { sh := false, g := gk false 0, lt := .bf16, d := .v 3, a := .v 4, idx := 7 }) &&
      reads 0x610000324E0000E00000000F true (.vext { sh := false, g := gk false 0, lt := .i8, d := .s 3, a := .v 4, idx := 15 })) = true := by decide +kernel

theorem test_decode_vector_elements_1 :
    (reads 0x614D02304E0000E00000001F true (.vins { sh := false, g := gk false 0, lt := .e2m1, d := 3, a := .s 4, idx := 31 }) &&
      reads 0x680802324E0000E000000000 true (.vrcp { sh := false, g := gk false 0, lt := .fp32, d := .v 3, a := .v 4, sat := false }) &&
      reads 0x684902324E0000E010000000 true (.vrsq { sh := false, g := gk false 0, lt := .fp16, d := .v 3, a := .v 4, sat := true }) &&
      reads 0x688A02324E0000E000000000 true (.vexp { sh := false, g := gk false 0, lt := .bf16, d := .v 3, a := .v 4, sat := false }) &&
      reads 0x68C802324E0000E010000000 true (.vexp2 { sh := false, g := gk false 0, lt := .fp32, d := .v 3, a := .v 4, sat := true })) = true := by decide +kernel

theorem test_decode_vector_elements_2 :
    (reads 0x690902324E0000E000000000 true (.vlog2 { sh := false, g := gk false 0, lt := .fp16, d := .v 3, a := .v 4, sat := false }) &&
      reads 0x694A02324E0000E010000000 true (.vtanh { sh := false, g := gk false 0, lt := .bf16, d := .v 3, a := .v 4, sat := true }) &&
      reads 0x698802324E0000E000000000 true (.vsin { sh := false, g := gk false 0, lt := .fp32, d := .v 3, a := .v 4, sat := false }) &&
      reads 0x69C902324E0000E010000000 true (.vcos { sh := false, g := gk false 0, lt := .fp16, d := .v 3, a := .v 4, sat := true }) &&
      reads 0x700802324E000009B1CF0000 true (.vcvt { sh := false, g := gk false 0, dt := .fp32, st := .db4, pos := 7, d := 3, a := .v 4, c := some 9, rm := .rs, sat := true })) = true := by decide +kernel

theorem test_decode_vector_elements_3 :
    (reads 0x704B0232425000E030090000 true (.vpack { sh := false, g := gk false 0, dt := .e4m3, st := .fp16, d := 3, a := .v 4, b := .v 5, rm := .rn, sat := true }) &&
      reads 0x708103E24E0000E000000000 true (.vunpk { sh := false, g := gk false 0, dt := .i16, st := .i8, d := 30, a := .v 4, rm := .fctl, sat := false })) = true := by decide +kernel

theorem test_decode_queues_0 :
    (reads 0x78000E0E0E0000089ABCDEFF true (.vloop { g := gk false 0, n := 15, c := .imm 0x89ABCDEF }) &&
      reads 0x78000E004E00000000000001 true (.vloop { g := gk false 0, n := 1, c := .s 4 }) &&
      reads 0x78400E0E0E00000000000000 true (.vdrain { g := gk false 0 }) &&
      reads 0x788004C03041000000000000 false (.qcfgBind { g := gk false 0, q := 12, a := 3, b := 4 }) &&
      reads 0x78C004CE0E01000000000000 false (.qlink { g := gk false 0, q := 12 })) = true := by decide +kernel

theorem test_decode_queues_1 :
    (reads 0x790004CCFE01000000000000 true (.qadvP { g := gk false 0, exec := true, q := 12, n := .imm 15 }) &&
      reads 0x794004C03E01000000000000 false (.qadvC { g := gk false 0, exec := false, q := 12, n := .s 3 }) &&
      reads 0x79800024CE00100000000000 false (.qstat { g := gk false 0, d := .s 2, q := 12 }) &&
      reads 0x79C00E062C20000000000000 true (.kpush { g := gk false 0, k := 2, mode := 2 })) = true := by decide +kernel

theorem test_decode_memory_0 :
    (reads 0x80202050607000E04423FFFF false (.ld { sh := true, g := gk false 2, w := .b, z := false, raw := true, acq := some .core, d := .s 5, m := { a := .s 6, b := some 7, sc := 4, disp := 0x3FFFF } }) &&
      reads 0x80042050607000E04C23FFFF false (.ld { sh := false, g := gk false 2, w := .h, z := false, raw := true, acq := some .clu, d := .s 5, m := { a := .s 6, b := some 7, sc := 4, disp := 0x3FFFF } }) &&
      reads 0x800A2050607000E05423FFFF false (.ld { sh := false, g := gk false 2, w := .w, z := true, raw := true, acq := some .die, d := .s 5, m := { a := .s 6, b := some 7, sc := 4, disp := 0x3FFFF } }) &&
      reads 0x800C2050607000E05C23FFFF false (.ld { sh := false, g := gk false 2, w := .d, z := false, raw := true, acq := some .pkg, d := .s 5, m := { a := .s 6, b := some 7, sc := 4, disp := 0x3FFFF } }) &&
      reads 0x80102050607000E06423FFFF false (.ld { sh := false, g := gk false 2, w := .a, z := false, raw := true, acq := some .sys, d := .s 5, m := { a := .s 6, b := some 7, sc := 4, disp := 0x3FFFF } })) = true := by decide +kernel

theorem test_decode_memory_1 :
    (reads 0x80462DF0607000E00223FFFF false (.st { sh := false, g := gk false 2, w := .h, z := true, sat := true, raw := false, rel := none, d := .imm 0x1F, m := { a := .s 6, b := some 7, sc := 4, disp := 0x3FFFF } }) &&
      reads 0x88000450607800E05823FFFF false (.ldq { sh := false, g := gk false 0, q := 5, need := 8, ord := some .pkg, m := { a := .s 6, b := some 7, sc := 4, disp := 0x3FFFF } }) &&
      reads 0x88400450607800E09823FFFF false (.stq { sh := false, g := gk false 0, q := 5, need := 8, ord := some .pkg, m := { a := .s 6, b := some 7, sc := 4, disp := 0x3FFFF } }) &&
      reads 0x900C03F0607000E05763FFFF false (.vld { sh := false, g := gk false 0, lt := .e5m2, rm := .rs, sat := true, raw := true, ord := some .die, d := .v 31, m := { a := .s 6, b := some 7, sc := 4, disp := 0x3FFFF } }) &&
      reads 0x904C03F0607000E09763FFFF false (.vst { sh := false, g := gk false 0, lt := .e5m2, rm := .rs, sat := true, raw := true, ord := some .die, d := .v 31, m := { a := .s 6, b := some 7, sc := 4, disp := 0x3FFFF } })) = true := by decide +kernel

theorem test_decode_memory_2 :
    (reads 0x90830410607300E000020001 false (.vlds { sh := false, g := gk false 0, lt := .i64, rm := .fctl, sat := false, raw := false, ord := none, d := .q 1 3, m := { a := .s 6, disp := 0x20001 }, stride := 7 }) &&
      reads 0x90C30410607300E000020001 false (.vsts { sh := false, g := gk false 0, lt := .i64, rm := .fctl, sat := false, raw := false, ord := none, d := .q 1 3, m := { a := .s 6, disp := 0x20001 }, stride := 7 }) &&
      reads 0x910A02106290000800920001 false (.vgath { sh := false, g := gk false 0, lt := .bf16, rm := .rz, sat := false, raw := false, ord := none, d := .v 1, m := { a := .s 6, disp := 0x20001 }, idx := .v 9, sc := 2, bound := some 8 }) &&
      reads 0x914A02106290000800920001 false (.vscat { sh := false, g := gk false 0, lt := .bf16, rm := .rz, sat := false, raw := false, ord := none, d := .v 1, m := { a := .s 6, disp := 0x20001 }, idx := .v 9, sc := 2, bound := some 8 }) &&
      reads 0x910004406291000800060001 false (.vgathBc { sh := false, g := gk false 0, acq := none, q := 4, need := 1, m := { a := .s 6, disp := 0x20001 }, b := 9, c := 8 })) = true := by decide +kernel

theorem test_decode_atomics_0 :
    (reads 0x98000050607000E000020001 false (.amoAdd { sh := false, g := gk false 0, w := .w64, z := false, ord := .plain, d := .s 5, m := { a := .s 6, disp := 0x20001 }, b := .s 7 }) &&
      reads 0x984C0050607000E048020001 false (.amoMin { sh := false, g := gk false 0, w := .w32, z := true, ord := .acq .clu, d := .s 5, m := { a := .s 6, disp := 0x20001 }, b := .s 7 }) &&
      reads 0x98900050607000E088020001 false (.amoMax { sh := false, g := gk false 0, w := .w16, z := false, ord := .rel .clu, d := .s 5, m := { a := .s 6, disp := 0x20001 }, b := .s 7 }) &&
      reads 0x98DC0050607000E000020001 false (.amoAnd { sh := false, g := gk false 0, w := .w8, z := true, ord := .plain, d := .s 5, m := { a := .s 6, disp := 0x20001 }, b := .s 7 }) &&
      reads 0x99000050607000E048020001 false (.amoOr { sh := false, g := gk false 0, w := .w64, z := false, ord := .acq .clu, d := .s 5, m := { a := .s 6, disp := 0x20001 }, b := .s 7 })) = true := by decide +kernel

theorem test_decode_atomics_1 :
    (reads 0x994C0050607000E088020001 false (.amoXor { sh := false, g := gk false 0, w := .w32, z := true, ord := .rel .clu, d := .s 5, m := { a := .s 6, disp := 0x20001 }, b := .s 7 }) &&
      reads 0x99900050607000E000020001 false (.amoSwap { sh := false, g := gk false 0, w := .w16, z := false, ord := .plain, d := .s 5, m := { a := .s 6, disp := 0x20001 }, b := .s 7 }) &&
      reads 0x99D800506070000800020001 false (.amoCas { sh := false, g := gk false 0, w := .w8, z := false, ord := .plain, d := .s 5, m := { a := .s 6, disp := 0x20001 }, b := .s 7, c := 8 }) &&
      reads 0x9A000050607000E000020001 false (.amofAdd { sh := false, g := gk false 0, fmt := .fp32, ord := .plain, d := .s 5, m := { a := .s 6, disp := 0x20001 }, b := .s 7 }) &&
      reads 0x9A080050607000E000020001 false (.amofAdd { sh := false, g := gk false 0, fmt := .bf16, ord := .plain, d := .s 5, m := { a := .s 6, disp := 0x20001 }, b := .s 7 })) = true := by decide +kernel

theorem test_decode_atomics_2 :
    (reads 0x9A100050607000E000020001 false (.amofAdd { sh := false, g := gk false 0, fmt := .fp16, ord := .plain, d := .s 5, m := { a := .s 6, disp := 0x20001 }, b := .s 7 }) &&
      reads 0x9A400E0E0E0000E000000000 false (.fence { sh := false, g := gk false 0, scope := .core }) &&
      reads 0x9A440E0E0E0000E000000000 false (.fence { sh := false, g := gk false 0, scope := .clu }) &&
      reads 0x9A480E0E0E0000E000000000 false (.fence { sh := false, g := gk false 0, scope := .die }) &&
      reads 0x9A4C0E0E0E0000E000000000 false (.fence { sh := false, g := gk false 0, scope := .pkg })) = true := by decide +kernel

theorem test_decode_atomics_3 :
    (reads 0x9A500E0E0E0000E000000000 false (.fence { sh := false, g := gk false 0, scope := .sys }) &&
      reads 0x9A52003E0E0000E000000000 false (.fenceSysLea { sh := false, g := gk false 0, d := .s 3 })) = true := by decide +kernel

theorem test_decode_engines_0 :
    (reads 0xA02000203040000E00000000 false (.cpy { sh := true, g := gk false 0, d := 2, a := 3, b := 4, c := some 14 }) &&
      reads 0xA06000203040000E00000000 false (.cpy2d { sh := true, g := gk false 0, d := 2, a := 3, b := 4, c := some 14 }) &&
      reads 0xA0800E003E0000E000000000 false (.replay { sh := false, g := gk false 0, a := 3, c := none }) &&
      reads 0xA0C200203040000600000000 false (.cred { sh := false, g := gk false 0, op := .add, fmt := .fp32, d := 2, a := 3, b := 4, c := some 6 }) &&
      reads 0xA0C700203040000600000000 false (.cred { sh := false, g := gk false 0, op := .min, fmt := .bf16, d := 2, a := 3, b := 4, c := some 6 })) = true := by decide +kernel

theorem test_decode_engines_1 :
    (reads 0xA0C800203040000600000000 false (.cred { sh := false, g := gk false 0, op := .max, fmt := .i32, d := 2, a := 3, b := 4, c := some 6 }) &&
      reads 0xA0CD00203040000600000000 false (.cred { sh := false, g := gk false 0, op := .and, fmt := .i64, d := 2, a := 3, b := 4, c := some 6 }) &&
      reads 0xA0D000203040000600000000 false (.cred { sh := false, g := gk false 0, op := .or, fmt := .i32, d := 2, a := 3, b := 4, c := some 6 }) &&
      reads 0xA0D500203040000600000000 false (.cred { sh := false, g := gk false 0, op := .xor, fmt := .i64, d := 2, a := 3, b := 4, c := some 6 }) &&
      reads 0xA100002E0C3000E000000000 false (.eseq { sh := false, g := gk false 0, d := .s 2, eng := 3 })) = true := by decide +kernel

theorem test_decode_engines_2 :
    (reads 0xA14000203C0000E000000000 false (.rlqQuery { sh := false, g := gk false 0, d := .s 2, a := 3 }) &&
      reads 0xA14000203CB000E000000000 false (.rlqRelease { sh := false, g := gk false 0, d := .s 2, a := 3, eng := 3 }) &&
      reads 0xB2400E003E0000000000001F false (.mbind { g := gk false 0, a := 3, slot := 31 }) &&
      reads 0xB2800E003E00000000000000 false (.munbind { g := gk false 0, a := 3 })) = true := by decide +kernel

theorem test_decode_invocations_0 :
    (reads 0xA800501020C00000000000AB false (.invoke { g := gk false 5, d := .s 1, a := 2, b := .base 12, method := 0xAB }) &&
      reads 0xA8405E002A700000000000AB false (.invoken { g := gk false 5, a := 2, b := .zr, method := 0xAB }) &&
      reads 0xA8805E00204000E000000000 false (.sendMailbox { g := gk false 5, a := 2, b := .base 4 }) &&
      reads 0xA8815E002040000900000011 false (.sendActive { g := gk false 5, a := 2, b := .base 4, c := 9, slot := 17 }) &&
      reads 0xA8C05E0020C0000000000020 false (.resolveValue { g := gk false 5, a := 2, b := .s 12, len := 32 })) = true := by decide +kernel

theorem test_decode_invocations_1 :
    (reads 0xA8C15E002030000000000000 false (.resolveObject { g := gk false 5, a := 2, b := 3 }) &&
      reads 0xA9005E002E0000000000003F false (.breakAnswer { g := gk false 5, a := 2, cause := 0x3F }) &&
      reads 0xA9405E002E0000000000001A false (.when { g := gk false 5, a := 2, ofs := 3, tslot := 2 }) &&
      reads 0xA98050102E00000000000000 false (.hstat { g := gk false 5, d := .s 1, a := 2 }) &&
      reads 0xA9C050102E00006600000003 false (.hget { g := gk false 5, d := .s 1, a := 2, word := 3, c := some 6 })) = true := by decide +kernel

theorem test_decode_invocations_2 :
    (reads 0xAA005E002E00000000000000 false (.hsync { g := gk false 5, a := 2 }) &&
      reads 0xAA405E002E00000000000000 false (.hretire { g := gk false 5, a := 2 }) &&
      reads 0xAAC05E002E00000000000000 false (.objfree { g := gk false 5, a := 2 }) &&
      reads 0xAB005E002E00000000000000 false (.migr { g := gk false 5, a := 2 }) &&
      reads 0xAA8050102030000000000876 false (.objnew { g := gk false 5, d := 1, a := 2, b := 3, cls := 0x876 })) = true := by decide +kernel

theorem test_decode_invocations_3 :
    (reads 0xAB405E002E0000FFFFFFFFF0 false (.migra { g := gk false 5, a := 2, disp := 0xFFFFFFFFF0 }) &&
      reads 0xAB805E0E0E00000080000001 false (.hold { g := gk false 5, m := .mask 0x80000001 }) &&
      reads 0xABC05E002E00000000000000 false (.release { g := gk false 5, m := .s 2 })) = true := by decide +kernel

theorem test_decode_tasks_0 :
    (reads 0xB00050102E000000FFFFFFFE false (.task { g := gk false 5, d := 1, a := 2, n := .mask 0xFFFFFFFE }) &&
      reads 0xB0405E002CF0000000000000 false (.tdec { g := gk false 5, a := 2, n := .imm 15 }) &&
      reads 0xB08050102E00000000000000 false (.launch { g := gk false 5, d := .s 1, a := 2 }) &&
      reads 0xB0C05E002E00000000000000 false (.cancel { g := gk false 5, a := 2 }) &&
      reads 0xB100561E0E00000000000000 false (.testc { g := gk false 5, d := 1 })) = true := by decide +kernel

theorem test_decode_tasks_1 :
    (reads 0xB14050102E00000000000000 false (.phtok { g := gk false 5, d := 1, a := 2 }) &&
      reads 0xB18050102E0000000000002B false (.phwait { g := gk false 5, d := .s 1, a := 2, ofs := 5, tslot := 3 }) &&
      reads 0xB1C05E002E00000000000000 false (.tqcfg { g := gk false 5, a := 2 }) &&
      reads 0xB20050102E00000000000000 false (.tnext { g := gk false 5, d := 1, a := 2 })) = true := by decide +kernel

theorem test_decode_folds_0 :
    (reads 0xB82C6E0E0E00000000000000 false (.fjoin { g := gk false 6, fold := 11 }) &&
      reads 0xB86C6E0E0E00000000000000 false (.fleave { g := gk false 6, fold := 11 }) &&
      reads 0xB96C6E0E0E00000000000000 false (.fsync { g := gk false 6, fold := 11 }) &&
      reads 0xB8AC601E0E00000000000027 false (.fmemb { g := gk false 6, d := .s 1, fold := 11, sel := 39 }) &&
      reads 0xB8EC6E063E00000000000034 false (.cbrAll { g := gk false 6, ht := false, k := 3, fold := 11, ofs := 6, tslot := 4 })) = true := by decide +kernel

theorem test_decode_folds_1 :
    (reads 0xB92E6E063E00000000000034 false (.cbrAny { g := gk false 6, ht := true, k := 3, fold := 11, ofs := 6, tslot := 4 }) &&
      reads 0xB98060102430040000000000 false (.bst { g := gk false 6, d := .s 1, a := 2, b := .q 3 4 }) &&
      reads 0xB9C0601E0E00000000000000 false (.bseq { g := gk false 6, d := .s 1 })) = true := by decide +kernel

theorem test_decode_matrix_0 :
    (reads 0xC0007E002E00000001820002 false (.wld { g := gk false 7, mf := .i8, a := 2, disp := 0x20002, nact := 32, sp := true }) &&
      reads 0xC0087E002E00000001820002 false (.wld { g := gk false 7, mf := .e4m3, a := 2, disp := 0x20002, nact := 32, sp := true }) &&
      reads 0xC0107E002E00000001820002 false (.wld { g := gk false 7, mf := .e5m2, a := 2, disp := 0x20002, nact := 32, sp := true }) &&
      reads 0xC0187E002E00000001820002 false (.wld { g := gk false 7, mf := .db8, a := 2, disp := 0x20002, nact := 32, sp := true }) &&
      reads 0xC0207E002E00000001820002 false (.wld { g := gk false 7, mf := .e2m1, a := 2, disp := 0x20002, nact := 32, sp := true })) = true := by decide +kernel

theorem test_decode_matrix_1 :
    (reads 0xC0287E002E00000001820002 false (.wld { g := gk false 7, mf := .db4, a := 2, disp := 0x20002, nact := 32, sp := true }) &&
      reads 0xC0307E002E00000000820002 false (.wld { g := gk false 7, mf := .fp16, a := 2, disp := 0x20002, nact := 32, sp := false }) &&
      reads 0xC0387E002E00000000820002 false (.wld { g := gk false 7, mf := .bf16, a := 2, disp := 0x20002, nact := 32, sp := false }) &&
      reads 0xC0407E0E0E00000000000000 true (.wswp { g := gk false 7 }) &&
      reads 0xC0807E0E0E00000000000000 true (.gang { g := gk false 7 })) = true := by decide +kernel

theorem test_decode_matrix_2 :
    (reads 0xC0FC78142E00300900000020 true (.mma { g := gk false 7, mf := .bf16, chk := some 9, d := 1, q := 2, need := 3, m := .mask 32 }) &&
      reads 0xC1287814205030E000000000 true (.mmas { g := gk false 7, mf := .db4, chk := none, d := 1, q := 2, need := 3, m := .s 5 }) &&
      reads 0xC1407E002E00000000020002 false (.mpld { g := gk false 7, a := 2, disp := 0x20002 }) &&
      reads 0xC1A078142E0030E000000001 true (.mrec { g := gk false 7, mf := .e2m1, d := 1, q := 2, need := 3, m := .mask 1 }) &&
      reads 0xC80078FE0E00000000000000 true (.azero { g := gk false 7, d := 15 })) = true := by decide +kernel

theorem test_decode_matrix_3 :
    (reads 0xC80078FE0E00000000000001 true (.azeroRelease { g := gk false 7, d := 15 }) &&
      reads 0xC84078F02030000000000001 true (.ald { g := gk false 7, d := 15, a := 2, disp := 1, b := some 3 }) &&
      reads 0xC88078F02E0000000003FFFF true (.ast { g := gk false 7, d := 15, a := 2, disp := 0x3FFFF, b := none }) &&
      reads 0xC8F074486E0500E000000D20 true (.acvt { g := gk false 7, mf := .fp16, q := 4, need := 5, a := 6, m := 32, rm := .rs, sat := true })) = true := by decide +kernel

theorem test_decode_ladders_0 :
    (reads 0xD000081E0E0000000000011F true (.ladcfg { g := gk false 0, d := 1, r := 31, micro := true }) &&
      reads 0xD0400E081E00000000000000 true (.ladpush { g := gk false 0, d := 1 }) &&
      reads 0xD080081E0E00000000000000 true (.ladrd { g := gk false 0, d := 1 }) &&
      reads 0xD0C0081E0E0000000000000E true (.ladld { g := gk false 0, d := 1, j := 14 }) &&
      reads 0xD1000E03FE00000000000003 true (.ladw { g := gk false 0, v := 31, grp := 3 })) = true := by decide +kernel

theorem test_decode_ladders_1 :
    (reads 0xD8000E002E00000000000000 false (.attncfg { g := gk false 0, a := 2, dh := .d32, inp := .e4m3, out := .fp32 }) &&
      reads 0xD8000E002E00000000000025 false (.attncfg { g := gk false 0, a := 2, dh := .d64, inp := .e5m2, out := .fp16 }) &&
      reads 0xD8000E002E0000000000004A false (.attncfg { g := gk false 0, a := 2, dh := .d96, inp := .db8, out := .bf16 }) &&
      reads 0xD8000E002E0000000000000F false (.attncfg { g := gk false 0, a := 2, dh := .d128, inp := .fp16, out := .fp32 }) &&
      reads 0xD8000E002E00000000000030 false (.attncfg { g := gk false 0, a := 2, dh := .d32, inp := .bf16, out := .fp16 })) = true := by decide +kernel

theorem test_decode_ladders_2 :
    (reads 0xD8440E002E00000E00000000 false (.attn { g := gk false 0, chk := true, a := 2, c := some 14 }) &&
      reads 0xD898001020E000E000000000 false (.nbmv { g := gk false 0, mf := .db8, chk := false, d := 1, a := 2, b := 14, c := none })) = true := by decide +kernel

/-! ### Ill-formed terms, one for each check of WellFormed.lean -/

theorem test_illformed_guard :
    (!Instr.wf 0 (.add { sh := false, g := gk true 0, w := .w64, z := false, sat := false, d := .s 1, a := .s 2, b := .s 3 }) &&
      !Instr.wf 0 (.nop { g := gk true 0, exec := false }) &&
      !Instr.wf 0 (.fence { sh := false, g := gk true 0, scope := .sys })) = true := by decide +kernel

theorem test_illformed_signedness :
    (!Instr.wf 0 (.mulhz { sh := false, g := g0, w := .w64, z := false, sat := false, d := .s 1, a := .s 2, b := .s 3 }) &&
      !Instr.wf 0 (.divz { sh := false, g := g0, w := .w64, z := false, sat := false, d := .s 1, a := .s 2, b := .s 3 }) &&
      !Instr.wf 0 (.div { sh := false, g := g0, w := .w64, z := true, sat := false, d := .s 1, a := .s 2, b := .s 3 }) &&
      !Instr.wf 0 (.maxz { sh := false, g := g0, w := .w64, z := false, sat := false, d := .s 1, a := .s 2, b := .s 3 }) &&
      !Instr.wf 0 (.minI { sh := false, g := g0, w := .w64, z := true, sat := false, d := .s 1, a := .s 2, b := .s 3 })) = true := by decide +kernel

theorem test_illformed_saturation :
    (!Instr.wf 0 (.andI { sh := false, g := g0, w := .w64, z := false, sat := true, d := .s 1, a := .s 2, b := .s 3 }) &&
      !Instr.wf 0 (.mulh { sh := false, g := g0, w := .w64, z := false, sat := true, d := .s 1, a := .s 2, b := .s 3 })) = true := by decide +kernel

theorem test_illformed_extension :
    (!Instr.wf 0 (.sext { sh := false, g := g0, w := .w64, d := .s 1, a := .s 2 })) = true := by decide +kernel

theorem test_illformed_bit_field :
    (!Instr.wf 0 (.bfx { sh := false, g := g0, z := false, d := .s 1, a := .s 2, pos := 0, len := 0 }) &&
      !Instr.wf 0 (.bfx { sh := false, g := g0, z := false, d := .s 1, a := .s 2, pos := 1, len := 64 }) &&
      !Instr.wf 0 (.bfi { sh := false, g := g0, z := true, d := .s 1, a := .s 2, pos := 0, len := 8 })) = true := by decide +kernel

theorem test_illformed_scale :
    (!Instr.wf 0 (.lea { sh := false, g := g0, d := .s 1, a := .s 2, b := none, scale := 5, disp := 0 })) = true := by decide +kernel

theorem test_illformed_condition :
    (!Instr.wf 0 (.cmp { g := g0, cond := .ltz, w := .w64, d := 1, a := .s 2, b := some (.s 3) }) &&
      !Instr.wf 0 (.cmp { g := g0, cond := .eq, w := .w64, d := 1, a := .s 2, b := none }) &&
      !Instr.wf 0 (.cmpi { g := g0, cond := .gez, w := .w64, d := 1, a := .s 2, imm := 0 })) = true := by decide +kernel

theorem test_illformed_kmov :
    (!Instr.wf 0 (.kmov { g := g0, d := .s 1, a := .zr })) = true := by decide +kernel

theorem test_illformed_loop_end :
    (!Instr.wf 1 (.loopR { g := g0, lvl := false, a := 1, ofs := 0, tslot := 2 }) &&
      !Instr.wf 1 (.loopi { g := g0, lvl := false, count := 2, lofs := 1, eslot := 5 })) = true := by decide +kernel

theorem test_illformed_loop_end_of_line :
    (!Instr.wf 4 (.loopi { g := g0, lvl := false, count := 2, lofs := 1, eslot := 0 })) = true := by decide +kernel

theorem test_illformed_control_register :
    (!Instr.wf 0 (.setc { g := g0, reg := .epc, a := .s 1 }) &&
      !Instr.wf 0 (.setc { g := g0, reg := .tid, a := .s 1 })) = true := by decide +kernel

theorem test_illformed_lanes :
    (!Instr.wf 0 (.vadd { sh := false, g := g0, lt := .db8, d := .v 1, a := .v 2, b := .v 3, rm := .fctl, sat := false }) &&
      !Instr.wf 0 (.vadd { sh := false, g := g0, lt := .fp32, d := .q 1 0, a := .v 2, b := .v 3, rm := .fctl, sat := false }) &&
      !Instr.wf 0 (.vadd { sh := false, g := g0, lt := .fp32, d := .v 1, a := .v 2, b := .q 1 0, rm := .fctl, sat := false }) &&
      !Instr.wf 0 (.vmul { sh := false, g := g0, lt := .e4m3, d := .v 1, a := .imm 1, b := .v 3, rm := .fctl, sat := false }) &&
      !Instr.wf 0 (.vsub { sh := false, g := g0, lt := .i32, d := .v 1, a := .v 2, b := .v 3, rm := .rn, sat := false })) = true := by decide +kernel

theorem test_illformed_third_source :
    (!Instr.wf 0 (.vfma { sh := false, g := g0, lt := .fp32, d := .v 1, a := .v 2, b := .v 3, c := .q 1 1, rm := .fctl, sat := false }) &&
      !Instr.wf 0 (.vfms { sh := false, g := g0, lt := .e5m2, d := .v 1, a := .v 2, b := .v 3, c := .imm 1, rm := .fctl, sat := false })) = true := by decide +kernel

theorem test_illformed_shift_lanes :
    (!Instr.wf 0 (.vshl { sh := false, g := g0, lt := .fp32, d := .v 1, a := .v 2, b := .v 3 }) &&
      !Instr.wf 0 (.vand { sh := false, g := g0, lt := .db4, d := .v 1, a := .v 2, b := .v 3 })) = true := by decide +kernel

theorem test_illformed_one_source :
    (!Instr.wf 0 (.vabs { sh := false, g := g0, lt := .z8, d := .v 1, a := .v 2, sat := false }) &&
      !Instr.wf 0 (.vneg { sh := false, g := g0, lt := .fp32, d := .v 1, a := .v 2, sat := true }) &&
      !Instr.wf 0 (.vrcp { sh := false, g := g0, lt := .i32, d := .v 1, a := .v 2, sat := false }) &&
      !Instr.wf 0 (.vsin { sh := false, g := g0, lt := .e4m3, d := .v 1, a := .v 2, sat := false })) = true := by decide +kernel

theorem test_illformed_dot :
    (!Instr.wf 0 (.vdot { sh := false, g := g0, lt := .i32, d := .v 1, a := .v 2, b := .v 3, c := none, rm := .fctl, sat := false }) &&
      !Instr.wf 0 (.vdot { sh := false, g := g0, lt := .i8, d := .v 1, a := .v 2, b := .v 3, c := some (.q 1 1), rm := .fctl, sat := false }) &&
      !Instr.wf 0 (.vdot { sh := false, g := g0, lt := .fp16, d := .v 1, a := .v 2, b := .v 3, c := some (.imm 1), rm := .fctl, sat := false })) = true := by decide +kernel

theorem test_illformed_reduction :
    (!Instr.wf 0 (.vred { sh := false, g := g0, lt := .fp32, op := .min, d := .v 1, a := .v 2, rm := .rz, sat := false }) &&
      !Instr.wf 0 (.vred { sh := false, g := g0, lt := .fp32, op := .max, d := .v 1, a := .v 2, rm := .fctl, sat := true }) &&
      !Instr.wf 0 (.vred { sh := false, g := g0, lt := .db8, op := .add, d := .v 1, a := .v 2, rm := .fctl, sat := false })) = true := by decide +kernel

theorem test_illformed_vector_compare :
    (!Instr.wf 0 (.vcmp { sh := false, g := g0, lt := .e2m1, cond := .eq, d := 1, a := .v 2, b := some (.v 3) }) &&
      !Instr.wf 0 (.vcmp { sh := false, g := g0, lt := .i8, cond := .ltu, d := 1, a := .v 2, b := some (.v 3) }) &&
      !Instr.wf 0 (.vcmp { sh := false, g := g0, lt := .i8, cond := .eq, d := 1, a := .v 2, b := none }) &&
      !Instr.wf 0 (.vcmp { sh := false, g := g0, lt := .i8, cond := .ltz, d := 1, a := .v 2, b := some (.v 3) })) = true := by decide +kernel

theorem test_illformed_elements :
    (!Instr.wf 0 (.vsel { sh := false, g := g0, lt := .db8, d := .v 1, a := .v 2, b := .v 3, c := 1 }) &&
      !Instr.wf 0 (.vperm { sh := false, g := g0, d := .v 1, a := .v 2, b := .q 1 0 }) &&
      !Instr.wf 0 (.vbcast { sh := false, g := g0, lt := .fp32, d := .v 1, a := .v 2, idx := 4 }) &&
      !Instr.wf 0 (.vbcast { sh := false, g := g0, lt := .fp32, d := .v 1, a := .s 2, idx := 1 }) &&
      !Instr.wf 0 (.vext { sh := false, g := g0, lt := .i64, d := .s 1, a := .v 2, idx := 2 }) &&
      !Instr.wf 0 (.vins { sh := false, g := g0, lt := .i8, d := 1, a := .s 2, idx := 16 }) &&
      !Instr.wf 0 (.vins { sh := false, g := g0, lt := .e4m3, d := 1, a := .imm 2, idx := 0 })) = true := by decide +kernel

theorem test_illformed_conversion :
    (!Instr.wf 0 (.vcvt { sh := false, g := g0, dt := .fp32, st := .fp32, pos := 0, d := 1, a := .v 2, c := none, rm := .fctl, sat := false }) &&
      !Instr.wf 0 (.vcvt { sh := false, g := g0, dt := .db8, st := .db4, pos := 0, d := 1, a := .v 2, c := some 1, rm := .fctl, sat := false }) &&
      !Instr.wf 0 (.vcvt { sh := false, g := g0, dt := .fp32, st := .db8, pos := 0, d := 1, a := .v 2, c := none, rm := .fctl, sat := false }) &&
      !Instr.wf 0 (.vcvt { sh := false, g := g0, dt := .fp32, st := .fp16, pos := 2, d := 1, a := .v 2, c := none, rm := .fctl, sat := false })) = true := by decide +kernel

theorem test_illformed_packing :
    (!Instr.wf 0 (.vpack { sh := false, g := g0, dt := .i8, st := .i32, d := 1, a := .v 2, b := .v 3, rm := .fctl, sat := false }) &&
      !Instr.wf 0 (.vunpk { sh := false, g := g0, dt := .i16, st := .i8, d := 31, a := .v 2, rm := .fctl, sat := false })) = true := by decide +kernel

theorem test_illformed_queues :
    (!Instr.wf 0 (.vloop { g := g0, n := 0, c := .s 1 }) &&
      !Instr.wf 0 (.qadvP { g := g0, exec := false, q := 1, n := .imm 0 }) &&
      !Instr.wf 0 (.qadvC { g := g0, exec := true, q := 1, n := .imm 16 }) &&
      !Instr.wf 0 (.kpush { g := g0, k := 1, mode := 3 })) = true := by decide +kernel

theorem test_illformed_loads :
    (!Instr.wf 0 (.ld { sh := false, g := g0, w := .d, z := true, raw := false, acq := none, d := .s 1, m := { a := .s 1, b := none, sc := 0, disp := 0 } }) &&
      !Instr.wf 0 (.ld { sh := false, g := g0, w := .b, z := false, raw := false, acq := none, d := .s 1, m := { a := .s 1, b := none, sc := 1, disp := 0 } }) &&
      !Instr.wf 0 (.ld { sh := false, g := g0, w := .b, z := false, raw := false, acq := none, d := .s 1, m := { a := .s 1, b := some 2, sc := 5, disp := 0 } })) = true := by decide +kernel

theorem test_illformed_stores :
    (!Instr.wf 0 (.st { sh := false, g := g0, w := .b, z := true, sat := false, raw := false, rel := none, d := .s 1, m := { a := .s 1, b := none, sc := 0, disp := 0 } }) &&
      !Instr.wf 0 (.st { sh := false, g := g0, w := .d, z := false, sat := true, raw := false, rel := none, d := .s 1, m := { a := .s 1, b := none, sc := 0, disp := 0 } })) = true := by decide +kernel

theorem test_illformed_queue_and_vector_memory :
    (!Instr.wf 0 (.ldq { sh := false, g := g0, q := 1, need := 0, ord := none, m := { a := .s 1, b := none, sc := 0, disp := 0 } }) &&
      !Instr.wf 0 (.vld { sh := false, g := g0, lt := .db8, rm := .fctl, sat := false, raw := false, ord := none, d := .v 1, m := { a := .s 1, b := none, sc := 0, disp := 0 } }) &&
      !Instr.wf 0 (.vlds { sh := false, g := g0, lt := .i8, rm := .fctl, sat := false, raw := false, ord := none, d := .q 1 0, m := { a := .s 1, disp := 0 }, stride := 2 }) &&
      !Instr.wf 0 (.vgath { sh := false, g := g0, lt := .i8, rm := .fctl, sat := false, raw := false, ord := none, d := .v 1, m := { a := .s 1, disp := 0 }, idx := .v 2, sc := 5, bound := none }) &&
      !Instr.wf 0 (.vscat { sh := false, g := g0, lt := .i8, rm := .fctl, sat := false, raw := false, ord := none, d := .v 1, m := { a := .s 1, disp := 0 }, idx := .q 2 0, sc := 0, bound := none }) &&
      !Instr.wf 0 (.vgathBc { sh := false, g := g0, acq := none, q := 1, need := 0, m := { a := .s 1, disp := 0 }, b := 1, c := 2 })) = true := by decide +kernel

theorem test_illformed_engines :
    (!Instr.wf 0 (.cpy { sh := false, g := g0, d := 1, a := 2, b := 3, c := some 15 }) &&
      !Instr.wf 0 (.cpy2d { sh := false, g := g0, d := 1, a := 2, b := 15, c := none }) &&
      !Instr.wf 0 (.replay { sh := false, g := g0, a := 2, c := some 15 }) &&
      !Instr.wf 0 (.cred { sh := false, g := g0, op := .and, fmt := .fp32, d := 1, a := 2, b := 3, c := none })) = true := by decide +kernel

theorem test_illformed_invocations :
    (!Instr.wf 0 (.invoke { g := g0, d := .s 1, a := 2, b := .base 13, method := 0 }) &&
      !Instr.wf 0 (.resolveValue { g := g0, a := 1, b := .s 0, len := 33 }) &&
      !Instr.wf 0 (.resolveValue { g := g0, a := 1, b := .zr, len := 1 }) &&
      !Instr.wf 0 (.resolveValue { g := g0, a := 1, b := .s 1, len := 0 }) &&
      !Instr.wf 0 (.resolveValue { g := g0, a := 1, b := .s 13, len := 32 }) &&
      !Instr.wf 0 (.breakAnswer { g := g0, a := 1, cause := 0 })) = true := by decide +kernel

theorem test_illformed_tasks :
    (!Instr.wf 0 (.tdec { g := g0, a := 1, n := .imm 0 }) &&
      !Instr.wf 0 (.tdec { g := g0, a := 1, n := .imm 16 }) &&
      !Instr.wf 0 (.tnext { g := g0, d := 1, a := 1 })) = true := by decide +kernel

theorem test_illformed_folds :
    (!Instr.wf 0 (.fmemb { g := g0, d := .s 1, fold := 1, sel := 7 }) &&
      !Instr.wf 0 (.fmemb { g := g0, d := .s 1, fold := 1, sel := 40 }) &&
      !Instr.wf 0 (.bst { g := g0, d := .s 1, a := 2, b := .q 1 0 })) = true := by decide +kernel

theorem test_illformed_weights :
    (!Instr.wf 0 (.wld { g := g0, mf := .i8, a := 1, disp := 0, nact := 0, sp := false }) &&
      !Instr.wf 0 (.wld { g := g0, mf := .i8, a := 1, disp := 0, nact := 33, sp := false }) &&
      !Instr.wf 0 (.wld { g := g0, mf := .bf16, a := 1, disp := 0, nact := 1, sp := true })) = true := by decide +kernel

theorem test_illformed_matrix :
    (!Instr.wf 0 (.mma { g := g0, mf := .i8, chk := none, d := 1, q := 2, need := 0, m := .mask 1 }) &&
      !Instr.wf 0 (.mma { g := g0, mf := .i8, chk := none, d := 1, q := 2, need := 1, m := .mask 0 }) &&
      !Instr.wf 0 (.mma { g := g0, mf := .i8, chk := none, d := 1, q := 2, need := 1, m := .mask 33 }) &&
      !Instr.wf 0 (.mmas { g := g0, mf := .fp16, chk := none, d := 1, q := 2, need := 1, m := .mask 1 }) &&
      !Instr.wf 0 (.mrec { g := g0, mf := .i8, d := 1, q := 2, need := 1, m := .mask 33 }) &&
      !Instr.wf 0 (.acvt { g := g0, mf := .i8, q := 1, need := 1, a := 2, m := 0, rm := .fctl, sat := false })) = true := by decide +kernel

theorem test_illformed_attention :
    (!Instr.wf 0 (.attn { g := g0, chk := false, a := 1, c := some 15 }) &&
      !Instr.wf 0 (.nbmv { g := g0, mf := .i8, chk := false, d := 1, a := 2, b := 15, c := none })) = true := by decide +kernel

theorem test_illformed_device_event : Instr.wf 0 (.strandSelect 0) = false := by decide +kernel


end Sys2Proof.Tests
end

section
/-! Deliveries: what an arrival leaves as it was, and what its target's action makes of a flit that the filter lets through
(22 R435, R440, R441; 07 R163). -/

namespace Sys2Proof.Machine

/-! ### What the network's own steps leave -/

@[simp] theorem release_mem (s : State) (f : Flit) : (release s f).mem = s.mem := rfl
@[simp] theorem release_cores (s : State) (f : Flit) : (release s f).cores = s.cores := rfl
@[simp] theorem release_clusters (s : State) (f : Flit) : (release s f).clusters = s.clusters := rfl
@[simp] theorem release_packages (s : State) (f : Flit) : (release s f).packages = s.packages := rfl

/-- A flit that is marked done changes nothing but its target's windows. -/
theorem markDone_eq (s : State) (f : Flit) (old : DWord) : ∃ w, markDone s f old = { s with windows := w } := by
  unfold markDone
  dsimp only
  split
  · exact ⟨_, rfl⟩
  · exact ⟨s.windows, rfl⟩

@[simp] theorem markDone_mem (s : State) (f : Flit) (old : DWord) : (markDone s f old).mem = s.mem := by
  obtain ⟨w, h⟩ := markDone_eq s f old; rw [h]
@[simp] theorem markDone_cores (s : State) (f : Flit) (old : DWord) : (markDone s f old).cores = s.cores := by
  obtain ⟨w, h⟩ := markDone_eq s f old; rw [h]
@[simp] theorem markDone_clusters (s : State) (f : Flit) (old : DWord) : (markDone s f old).clusters = s.clusters := by
  obtain ⟨w, h⟩ := markDone_eq s f old; rw [h]
@[simp] theorem markDone_packages (s : State) (f : Flit) (old : DWord) : (markDone s f old).packages = s.packages := by
  obtain ⟨w, h⟩ := markDone_eq s f old; rw [h]
@[simp] theorem markDone_kept (s : State) (f : Flit) (old : DWord) : (markDone s f old).kept = s.kept := by
  obtain ⟨w, h⟩ := markDone_eq s f old; rw [h]

/-- A delivery changes nothing but package sequences and die clocks. -/
theorem noteDelivery_eq (s : State) (f : Flit) : ∃ p d, noteDelivery s f = { s with pdone := p, dies := d } := by
  unfold noteDelivery
  split <;> split <;> exact ⟨_, _, rfl⟩

/-- A flit that the filter lets through changes nothing but its target's windows. -/
theorem filterFlit_execute {s v : State} {f : Flit} (h : filterFlit s f = .execute v) : ∃ w, v = { s with windows := w } := by
  unfold filterFlit at h
  dsimp only at h
  split at h
  · split at h
    · cases h
    · cases h; exact ⟨_, rfl⟩
  · split at h
    · cases h; exact ⟨_, rfl⟩
    · split at h
      · split at h
        · cases h
        · cases h; exact ⟨_, rfl⟩
      · cases h

/-! ### What an arrival leaves -/

/-- The state in which a target acts differs from the one before in the network alone. -/
theorem Arrives.eq {s u : State} {n : Nat} {f : Flit} (h : Arrives s n f u) :
    ∃ w p d, u = { s with net := s.net.eraseIdx n, windows := w, pdone := p, dies := d } := by
  obtain ⟨-, -, -, v, hv, rfl⟩ := h
  obtain ⟨w, rfl⟩ := filterFlit_execute hv
  obtain ⟨p, d, h⟩ := noteDelivery_eq { s with net := s.net.eraseIdx n, windows := w } f
  exact ⟨w, p, d, h⟩

section
variable {s u : State} {n : Nat} {f : Flit}

theorem Arrives.mem (h : Arrives s n f u) : u.mem = s.mem := by obtain ⟨w, p, d, rfl⟩ := h.eq; rfl
theorem Arrives.kept (h : Arrives s n f u) : u.kept = s.kept := by obtain ⟨w, p, d, rfl⟩ := h.eq; rfl
theorem Arrives.now (h : Arrives s n f u) : u.now = s.now := by obtain ⟨w, p, d, rfl⟩ := h.eq; rfl
theorem Arrives.core (h : Arrives s n f u) (c : Nat) : u.core c = s.core c := by obtain ⟨w, p, d, rfl⟩ := h.eq; rfl
theorem Arrives.strand (h : Arrives s n f u) (c k : Nat) : u.strand c k = s.strand c k := by
  obtain ⟨w, p, d, rfl⟩ := h.eq; rfl
theorem Arrives.cluster (h : Arrives s n f u) (c : Nat) : u.cluster c = s.cluster c := by
  obtain ⟨w, p, d, rfl⟩ := h.eq; rfl
theorem Arrives.pkg (h : Arrives s n f u) (c : Nat) : u.pkg c = s.pkg c := by obtain ⟨w, p, d, rfl⟩ := h.eq; rfl
theorem Arrives.mailbox (h : Arrives s n f u) (c m : Nat) : u.mailbox c m = s.mailbox c m := by
  obtain ⟨w, p, d, rfl⟩ := h.eq; rfl

/-! ### What a delivery leads to -/

/-- The target's action is what its delivery leads to. -/
theorem Arrives.deliver {t : State} {act : State → Flit → Option State} (h : Arrives s n f u) (ha : act u f = some t) :
    Machine.deliver s n act = release (markDone t f 0) f := by
  obtain ⟨hn, hd, hr, v, hv, rfl⟩ := h
  simp only [Machine.deliver, takeFlit, hn, hd, if_true, hr, Bool.false_eq_true, if_false, hv, ha]

/-- An arrival for which the target is not ready stays where it is. -/
theorem Arrives.deliver_none {act : State → Flit → Option State} (h : Arrives s n f u) (ha : act u f = none) :
    Machine.deliver s n act = s := by
  obtain ⟨hn, hd, hr, v, hv, rfl⟩ := h
  simp only [Machine.deliver, takeFlit, hn, hd, if_true, hr, Bool.false_eq_true, if_false, hv, ha]

/-- The same for an action that may stop the step. -/
theorem Arrives.deliverOut {t : State} {act : State → Flit → Option Out} (h : Arrives s n f u)
    (ha : act u f = some (.next t)) : Machine.deliverOut s n act = .next (release (markDone t f 0) f) := by
  obtain ⟨hn, hd, hr, v, hv, rfl⟩ := h
  simp only [Machine.deliverOut, takeFlit, hn, hd, if_true, hr, Bool.false_eq_true, if_false, hv, ha]

/-- A message at a core. -/
theorem Arrives.atCore {t : State} {c : Nat} {act : State → Nat → Flit → Option State} (h : Arrives s n f u)
    (hc : f.dst = .core c) (ha : act u c f = some t) : Machine.atCore n s act = .next (release (markDone t f 0) f) := by
  rw [Machine.atCore, h.deliver]
  rw [hc]; exact ha

end

end Sys2Proof.Machine
end

section
/-! Memory words and the answers' operations: what a word or a slot reads as after a write, an invocation's run, the buffer and
a notice (02 R42 to R58; 17 R351 to R354). -/

namespace Sys2Proof.Machine

/-! ### Words of memory -/

@[simp] theorem leBytes_length (n v : Nat) : (leBytes n v).length = n := by
  induction n generalizing v with
  | zero => rfl
  | succ n ih => simp [leBytes, ih]

theorem leVal_leBytes (n v : Nat) : leVal (leBytes n v) = v % 256 ^ n := by
  induction n generalizing v with
  | zero => simp [leBytes, leVal, Nat.mod_one]
  | succ n ih =>
    rw [leBytes, leVal, ih, Nat.pow_succ', Nat.mod_mul, BitVec.toNat_ofNat]

/-- Reads depend on memory alone. -/
theorem byte_of_mem {s t : State} (h : t.mem = s.mem) (q : Nat) : t.byte q = s.byte q := by
  simp [State.byte, h]
theorem readBytes_of_mem {s t : State} (h : t.mem = s.mem) (pa n : Nat) : readBytes t pa n = readBytes s pa n :=
  readBytes_congr s t pa n (fun q _ _ => byte_of_mem h q)
theorem readD_of_mem {s t : State} (h : t.mem = s.mem) (pa : Nat) : readD t pa = readD s pa := by
  simp [readD, readU, readBytes_of_mem h]

@[simp] theorem readD_writeD (s : State) (pa : Nat) (v : DWord) : readD (writeD s pa v) pa = v := by
  have h := readBytes_writeBytes (leBytes 8 v.toNat) s pa
  rw [leBytes_length] at h
  rw [readD, readU, writeD, writeU, h, leVal_leBytes, Nat.mod_eq_of_lt (by simpa using v.isLt)]
  exact BitVec.ofNat_toNat _ _

theorem readBytes_writeD_out (s : State) (pa : Nat) (v : DWord) (q n : Nat) (h : q + n ≤ pa ∨ pa + 8 ≤ q) :
    readBytes (writeD s pa v) q n = readBytes s q n :=
  readBytes_congr _ _ _ _ (fun _ h1 h2 => writeBytes_byte_out _ _ _ _ (by rw [leBytes_length]; omega))

@[simp] theorem writeBytes_core (b : List Byte) (s : State) (pa c : Nat) : (writeBytes s pa b).core c = s.core c := by
  simp [State.core]
@[simp] theorem writeD_core (s : State) (pa : Nat) (v : DWord) (c : Nat) : (writeD s pa v).core c = s.core c :=
  writeBytes_core _ _ _ _
@[simp] theorem setSlot_core (s : State) (c j : Nat) (gen : BitVec 6) (st : AnswerState) (i : Nat) :
    (setSlot s c j gen st).core i = s.core i := by simp [setSlot]

/-- A slot's bodies lie below every status word. -/
theorem slotBody_below_status (c : Nat) (h : DWord) : slotBodyPa c (hSlot h) + 32 ≤ slotStatusPa c (hSlot h) := by
  have : hSlot h < 2 ^ 12 := BitVec.isLt _
  simp only [slotBodyPa, slotStatusPa, sharePa]
  omega

theorem readD_setSlot (s : State) (c j : Nat) (gen : BitVec 6) (st : AnswerState) :
    readD (setSlot s c j gen st) (slotStatusPa c j) = statusWord gen st := readD_writeD _ _ _

theorem readBytes_setSlot (s : State) (c : Nat) (h : DWord) (gen : BitVec 6) (st : AnswerState) (hl : st.body.length ≤ 32) :
    readBytes (setSlot s c (hSlot h) gen st) (slotBodyPa c (hSlot h)) st.body.length = st.body := by
  have := slotBody_below_status c h
  rw [setSlot, readBytes_writeD_out _ _ _ _ _ (by omega), readBytes_writeBytes]

/-! ### The buffer (02 R48, R56) -/

/-- While the buffer itself has room an entry changes nothing but the core's buffer. -/
theorem addPib_of_room {s : State} {c : Nat} (e : PibEntry) (h : pibCount (s.core c) < 256) :
    addPib s c e = s.setCore c { s.core c with pib := (s.core c).pib ++ [e] } := if_pos h

/-- An invocation whose own answer another core computes takes no entry. -/
theorem takeEntry_elsewhere {s : State} {c : Nat} {ans : DWord} (h : hIsAnswer ans = false ∨ hCompute ans ≠ c) :
    takeEntry s c ans = some s := by
  rw [takeEntry, if_pos]
  rcases h with h | h <;> simp [h]

/-- An invocation on an object runs where it arrives. -/
theorem acceptInvocation_object {s : State} {c : Nat} {x : Invocation} (src : Nat) (hf : 0 < pibFree (s.core c))
    (he : hIsAnswer x.ans = false ∨ hCompute x.ans ≠ c) (ho : hIsObject x.target = true) :
    acceptInvocation s c x src = runInvocation s c x x.target none := by
  rw [acceptInvocation, if_neg (by omega), takeEntry_elsewhere he, Option.bind_some, if_pos ho]

/-- One on an answer that is pending here waits in the buffer (02 R48). -/
theorem acceptInvocation_pending {s : State} {c : Nat} {x : Invocation} (src : Nat) (hf : 0 < pibFree (s.core c))
    (he : hIsAnswer x.ans = false ∨ hCompute x.ans ≠ c) (ho : hIsObject x.target = false)
    (hr : pibRetired (s.core c) x.target = false) (hh : hHome x.target ≠ c)
    (hp : (knownState s c x.target).pending = true) :
    acceptInvocation s c x src = some (addPib s c (.waiting x.target x s.now src)) := by
  rw [acceptInvocation, if_neg (by omega), takeEntry_elsewhere he]
  simp only [Option.bind_some, ho, hr, Bool.false_eq_true, if_false, hh, decide_false, Bool.false_and, hp, Bool.true_or,
    if_true, show pibFree (s.core c) ≠ 0 by omega]

/-! ### Running an invocation (02 R52 to R59) -/

/-- The owner's partition stands, and its mailbox admits the sender's message unit. -/
def MayRun (s : State) (c : Nat) (x : Invocation) : Prop :=
  revoked s (pkgOf c) (s.core c).part = false ∧
    (s.rights (pkgOf c, 4352 + (c % 4096 / 16) * 32 + c % 16) { part := x.part, cls := 7 }).getLsbD 3 = true

theorem runInvocation_stale {s : State} {c : Nat} {x : Invocation} (hm : MayRun s c x) {target : DWord}
    (hv : objectValid s target = false) :
    runInvocation s c x target none = some (refuseInvocation s c x cHandleStale c) := by
  simp only [runInvocation, hm.1, hm.2, hv, Bool.false_and, Bool.not_true, Bool.false_eq_true, if_false, Option.isNone_none,
    Bool.not_false, Bool.and_self, if_true]

theorem runInvocation_noMethod {s : State} {c : Nat} {x : Invocation} (hm : MayRun s c x) {target : DWord}
    (hv : objectValid s target = true) (hd : methodDesc s c (hClass target) x.method.toNat = none) :
    runInvocation s c x target none = some (refuseInvocation s c x cInvokeDenied c) := by
  simp only [runInvocation, hm.1, hm.2, hv, Bool.false_and, Bool.not_true, Bool.and_false, Bool.false_eq_true, if_false,
    Option.isNone_none, if_true, hd]

/-- A method without handle arguments starts at once. -/
theorem runInvocation_plain {s : State} {c : Nat} {x : Invocation} (hm : MayRun s c x) {target : DWord}
    (hv : objectValid s target = true) {d : MethodDesc} (hd : methodDesc s c (hClass target) x.method.toNat = some d)
    (ha : handleArgs d x = []) (hs : spillFull s c = false) :
    runInvocation s c x target none = some (startInvocation s c x target (objectRecord s target) d []) := by
  simp only [runInvocation, hm.1, hm.2, hv, Bool.false_and, Bool.not_true, Bool.and_false, Bool.false_eq_true, if_false,
    Option.isNone_none, if_true, hd, ha, hs, List.map_nil, List.eraseDups_nil, List.filter_nil, List.isEmpty_nil]

/-- Without handle arguments every argument word is handed over as it is. -/
theorem args_of_noHandles {d : MethodDesc} {x : Invocation} (ha : handleArgs d x = []) (w : DWord → DWord) :
    x.args.zipIdx.map (fun p => if bit d.hkind p.2 && hIsAnswer p.1 then w p.1 else p.1) = x.args := by
  calc x.args.zipIdx.map (fun p => if bit d.hkind p.2 && hIsAnswer p.1 then w p.1 else p.1)
      = x.args.zipIdx.map Prod.fst := by
        refine List.map_congr_left (fun p hp => if_neg ?_)
        simp only [handleArgs, List.filter_eq_nil_iff, List.mem_map, forall_exists_index, and_imp,
          forall_apply_eq_imp_iff₂] at ha
        exact ha p hp
    _ = x.args := List.zipIdx_map_fst 0 x.args

theorem startInvocation_plain (s : State) (c : Nat) {x : Invocation} (target : DWord) (receiver : List Byte) {d : MethodDesc}
    (known : List (DWord × AnswerState)) (ha : handleArgs d x = []) :
    startInvocation s c x target receiver d known = queueStart s c d.slot
      { Start.plain s.now with
        pc := some (space0 d.handler), prio := some d.prio, s8 := zext72 (x.args.getD 0 0), s9 := zext72 (x.args.getD 1 0),
        s10 := zext72 (x.args.getD 2 0), s11 := zext72 (x.args.getD 3 0), s12 := zext72 x.ans,
        s13 := BitVec.ofNat 72 x.sender, target := target, receiver := receiver, part := x.part } := by
  simp only [startInvocation, ha, List.find?_nil, ite_self, List.map_nil]
  rw [args_of_noHandles ha (fun w => argWord (((known.find? (fun k => k.1 == w)).map (·.2)).getD ansPending) w)]
  rfl

/-! ### Notices (02 R44, R48; 17 R350, R354) -/

/-- Where nothing waits in the core's buffer, learning an answer's state leaves memory as it is. -/
theorem settle_mem_of_empty {s : State} {c : Nat} (h : DWord) (st : AnswerState) (hp : (s.core c).pib = []) :
    (settle s c h st).mem = s.mem := by
  simp [settle, serveWaiting, notifyWaiters, startConts, settleArgs, dropKnown, hp]

/-- A notice for a slot of its HOME core that is not pending, or is another's, is discarded, and counted unless it is a default
notice. -/
theorem applyNotice_closed {s : State} {c : Nat} {h : DWord} (st : AnswerState) (dflt : Bool) (hh : hHome h = c)
    (hc : ¬(slotGen s c (hSlot h) = hGen h ∧ (slotState s c (hSlot h)).pending = true)) :
    applyNotice s c h st dflt = if dflt then s else s.countCore c 0x11 1 (some (s.core c).part) := by
  have hc' : (slotGen s c (hSlot h) == hGen h && (slotState s c (hSlot h)).pending) = false := by
    rw [Bool.eq_false_iff]; simpa using hc
  simp only [applyNotice, hh, decide_true, Bool.true_and, hc', Bool.not_false, if_true]
  cases dflt <;> rfl

/-- A notice for a pending slot of its HOME core, in whose buffer nothing waits, writes the slot. -/
theorem applyNotice_open_mem {s : State} {c : Nat} {h : DWord} (st : AnswerState) (dflt : Bool) (hh : hHome h = c)
    (hg : slotGen s c (hSlot h) = hGen h) (hs : (slotState s c (hSlot h)).pending = true) (hp : (s.core c).pib = []) :
    (applyNotice s c h st dflt).mem = (setSlot s c (hSlot h) (hGen h) st).mem := by
  simp only [applyNotice, hh, decide_true, Bool.true_and, hg, beq_self_eq_true, hs, Bool.not_true, Bool.false_and,
    Bool.false_eq_true, if_false, if_true]
  rw [settle_mem_of_empty, State.modCore_mem]
  simp [hp]

/-- A retire notice turns a resolution entry, alone in the buffer, into a retired mark. -/
theorem applyRetire_pib {s : State} {c : Nat} {h : DWord} {st : AnswerState} (hp : (s.core c).pib = [.res h st]) :
    ((applyRetire s c h).core c).pib = [.retired h s.now] := by
  simp [applyRetire, settleArgs, startConts, notifyWaiters, hp]

end Sys2Proof.Machine
end

section
/-! Invocations and notices at their target (02 R48 to R58, R503; 17 R351, R354). -/

namespace Sys2Proof.Machine

/-! ### The messages at a core -/

section
variable {s u t : State} {n c : Nat} {f : Flit}

/-- An event that delivers to a core leads to what the core makes of the message. -/
theorem Arrives.takes {i : Instr} {act : State → Nat → Flit → Option State} (h : Arrives s n f u) (hc : f.dst = .core c)
    (hi : exec i s = Machine.atCore n s act) (ha : act u c f = some t) : Takes i s f t :=
  hi.trans (h.atCore hc ha)

theorem Arrives.takes_invocation {x : Invocation} (h : Arrives s n f u) (hc : f.dst = .core c) (hm : f.msg = .invocation x)
    (ha : acceptInvocation u c x f.src = some t) : Takes (.invocationArrival n) s f t :=
  h.takes hc rfl (by simp only [hm, ha])

theorem Arrives.takes_forwarded {x : Invocation} {obj : DWord} (h : Arrives s n f u) (hc : f.dst = .core c)
    (hm : f.msg = .forwarded x obj) (hf : 0 < pibFree (s.core c)) (ha : runInvocation u c x obj none = some t) :
    Takes (.forwardedInvocation n) s f t :=
  h.takes hc rfl (by simp only [hm, ha, h.core, if_neg (Nat.ne_of_gt hf)])

/-- A resolution and a break notice have the same effect at the core. -/
theorem Arrives.takes_notice {a : DWord} {st : AnswerState} {dflt : Bool} {p : Instr × Msg} (h : Arrives s n f u)
    (hc : f.dst = .core c) (hp : p ∈ [(Instr.resolutionNotice n, Msg.resolution a st dflt), (.breakNotice n, .broken a st dflt)])
    (hm : f.msg = p.2) : Takes p.1 s f (applyNotice u c a st dflt) := by
  simp only [List.mem_cons, List.not_mem_nil, or_false] at hp
  obtain rfl | rfl := hp
  · exact h.takes hc rfl (by simp only [hm])
  · exact h.takes hc rfl (by simp only [hm])

theorem Arrives.takes_retire {a : DWord} (h : Arrives s n f u) (hc : f.dst = .core c) (hm : f.msg = .retire a) :
    Takes (.retireNotice n) s f (applyRetire u c a) :=
  h.takes hc rfl (by simp only [hm])

/-- A waiter of an answer whose state is known is told it. -/
theorem Arrives.takes_waiter_known {a : DWord} {core : Nat} (h : Arrives s n f u) (hc : f.dst = .core c)
    (hm : f.msg = .waiterReg a core) (hp : (registeredState u c a).pending = false) :
    Takes (.waiterRegistration n) s f (sendUnit u c (.core core) clsNTC
      (if (registeredState u c a).broken then .broken a (registeredState u c a) false
        else .resolution a (registeredState u c a) false)) :=
  h.takes hc rfl (by simp only [hm, hp, Bool.not_false, if_true])

/-- A waiter of a pending answer is registered. -/
theorem Arrives.takes_waiter_pending {a : DWord} {core : Nat} (h : Arrives s n f u) (hc : f.dst = .core c)
    (hm : f.msg = .waiterReg a core) (hp : (registeredState u c a).pending = true) (hf : 0 < pibFree (s.core c)) :
    Takes (.waiterRegistration n) s f (addPib u c (.waiter a core)) :=
  h.takes hc rfl (by
    simp only [hm, hp, Bool.not_true, Bool.false_eq_true, if_false, h.core, if_neg (Nat.ne_of_gt hf)])

/-- The buffer of the state in which a core acts has the room that it had. -/
theorem Arrives.addPib (h : Arrives s n f u) (e : PibEntry) (hr : pibCount (s.core c) < 256) :
    Machine.addPib u c e = u.setCore c { s.core c with pib := (s.core c).pib ++ [e] } := by
  rw [addPib_of_room e (by rwa [h.core]), h.core]

end

/-- A buffer that is not full to its 256 entries has an entry free. -/
theorem pibFree_pos {co : Core} (h : pibCount co < 256) : 0 < pibFree co :=
  Nat.sub_pos_of_lt (h.trans (by decide))

/-! ### The timeouts of the buffer -/

theorem exec_registrationRetry {s : State} {n : Nat} {f : Flit} {h : DWord} {core due : Nat} (hn : s.net[n]? = some f)
    (hd : deliverable s n f = true) (hm : f.msg = .retryReg h core due) (hdue : due ≤ s.now) :
    let u := { s with net := s.net.eraseIdx n }
    exec (.registrationRetry n) s = .next (if revokedFlit s f then countDest u f.dst 0x34 f.who.part
      else sendUnit u core (.core (hCompute h)) clsNTC (.waiterReg h core)) := by
  change execRegistrationRetry n s = _
  simp only [execRegistrationRetry, takeFlit, hn, hd, if_true, hm, if_neg (Nat.not_lt.mpr hdue)]
  exact (apply_ite Host.Outcome.next _ _ _).symm

section
variable {s : State} {c n : Nat}

theorem exec_retiredMarkExpiry {h : DWord} {at_ : Nat} (he : (s.core c).pib[n]? = some (.retired h at_)) :
    exec (.retiredMarkExpiry c n) s = .next (if at_ + remoteLimit s (hHome h) + 90000 < s.now then
      s.modCore c (fun co => { co with pib := co.pib.eraseIdx n }) else s) := by
  change execRetiredMarkExpiry c n s = _
  simp only [execRetiredMarkExpiry, he, flightLimit]
  exact (apply_ite Host.Outcome.next _ _ _).symm

variable {h : DWord} {x : Invocation} {since src : Nat}

theorem exec_pendingAnswerTimeout_known (he : (s.core c).pib[n]? = some (.waiting h x since src))
    (hk : 2 ≤ (knownState s c h).state.toNat) :
    exec (.pendingAnswerTimeout c n) s = .next (serveWaiting s c h (knownState s c h)) := by
  change execPendingAnswerTimeout c n s = _
  simp only [execPendingAnswerTimeout, he, if_pos hk]

theorem exec_pendingAnswerTimeout_late (he : (s.core c).pib[n]? = some (.waiting h x since src))
    (hk : (knownState s c h).state.toNat < 2) (hr : pibHasRes (s.core c) h = false) (hl : since + remoteLimit s c ≤ s.now) :
    exec (.pendingAnswerTimeout c n) s = .next
      (refuseInvocation (s.modCore c (fun co => { co with pib := co.pib.eraseIdx n })) c x cHandleStale c) := by
  change execPendingAnswerTimeout c n s = _
  simp only [execPendingAnswerTimeout, he, if_neg (Nat.not_le.mpr hk), hr, Bool.false_or, decide_eq_true_eq,
    if_neg (Nat.not_lt.mpr hl)]

theorem exec_pendingAnswerTimeout_args {target : DWord} {receiver : List Byte} {d : MethodDesc}
    {known : List (DWord × AnswerState)} (he : (s.core c).pib[n]? = some (.args x target receiver d [] known))
    (hs : spillFull s c = false) :
    exec (.pendingAnswerTimeout c n) s = .next
      (startInvocation (s.modCore c (fun co => { co with pib := co.pib.eraseIdx n })) c x target receiver d known) := by
  change execPendingAnswerTimeout c n s = _
  simp only [execPendingAnswerTimeout, he, hs, Bool.false_eq_true, if_false]

end

/-- Settles O42: each message is delivered through the filter (`Arrives.takes`), and its effect is that of the operation on the
buffer, the slot or the routine queue. -/
theorem answerMessages : Obligations.AnswerMessages := by
  unfold Obligations.AnswerMessages
  refine ⟨fun s u n c f ha hc => ⟨fun x hm hf he => ⟨fun ho hfree hv => ⟨fun d hd hh hs => ?_, fun hd => ?_⟩, fun ho hfree hv => ?_,
      fun ho hr hh hp hroom => ?_⟩, fun x obj t hm hf hrun => ha.takes_forwarded hc hm hf hrun,
      fun h st dflt p hp hm hh => ⟨fun hopen => ?_, fun hopen hpib hlen => ?_⟩, fun h hm st hpib => ?_,
      fun h core hm => ⟨fun hp => ha.takes_waiter_known hc hm hp, fun hp hroom => ?_⟩⟩,
    fun s n f h core due hn hd hm hdue => exec_registrationRetry hn hd hm hdue,
    fun s c n h => ⟨fun at_ he => exec_retiredMarkExpiry he,
      fun x since src he => ⟨fun hk => exec_pendingAnswerTimeout_known he hk, fun hk hr hl => exec_pendingAnswerTimeout_late he hk hr hl⟩,
      fun x target receiver d known he hs => exec_pendingAnswerTimeout_args he hs⟩⟩
  case refine_1 =>
    have hmay : MayRun u c x := ⟨by rw [ha.core]; exact hfree.1, hfree.2⟩
    refine ha.takes_invocation hc hm ?_
    rw [acceptInvocation_object f.src (by rwa [ha.core]) he ho, runInvocation_plain hmay hv hd hh hs,
      startInvocation_plain _ _ _ _ _ hh, ha.now]
  case refine_2 =>
    have hmay : MayRun u c x := ⟨by rw [ha.core]; exact hfree.1, hfree.2⟩
    refine ha.takes_invocation hc hm ?_
    rw [acceptInvocation_object f.src (by rwa [ha.core]) he ho, runInvocation_noMethod hmay hv hd]
  case refine_3 =>
    have hmay : MayRun u c x := ⟨by rw [ha.core]; exact hfree.1, hfree.2⟩
    refine ha.takes_invocation hc hm ?_
    rw [acceptInvocation_object f.src (by rwa [ha.core]) he ho, runInvocation_stale hmay hv]
  case refine_4 =>
    refine ha.takes_invocation hc hm ?_
    rw [acceptInvocation_pending f.src (by rwa [ha.core]) he ho (by rwa [ha.core]) hh hp, ha.now, ha.addPib _ hroom]
  case refine_5 =>
    have h1 := ha.takes_notice hc hp hm
    rwa [applyNotice_closed st dflt hh hopen, ha.core] at h1
  case refine_6 =>
    have hmem := applyNotice_open_mem st dflt hh hopen.1 hopen.2 (by rwa [ha.core])
    refine ⟨_, ha.takes_notice hc hp hm, ?_, ?_⟩
    · rw [readD_of_mem hmem, readD_setSlot]
    · rw [readBytes_of_mem hmem, readBytes_setSlot _ _ _ _ _ hlen]
  case refine_7 =>
    refine ⟨_, ha.takes_retire hc hm, ?_⟩
    rw [applyRetire_pib (st := st) (by rwa [ha.core]), ha.now]
  case refine_8 =>
    have h1 := ha.takes_waiter_pending hc hm hp (pibFree_pos hroom)
    rwa [ha.addPib _ hroom] at h1

end Sys2Proof.Machine
end

section
/-! The other messages that reach a core (02 R62, R64, R70, R71; 17 R346, R353, R358; 03 R89, R101, R103). -/

namespace Sys2Proof.Machine

/-! ### The spill queue -/

/-- A core that runs diverts nothing, so its spill queue is never full. -/
theorem spillFull_of_running {s : State} {c : Nat} (h : (s.core c).halt = .none) : spillFull s c = false := by
  simp [spillFull, h]

/-- At a core that runs a start joins its routine's queue. -/
theorem queueAt_of_running {s : State} {c : Nat} (slot : Nat) (q : Start) (h : (s.core c).halt = .none) :
    queueAt s c slot q = s.modCore c (fun co =>
      let r := smGet Routine.reset co.routines slot
      { co with routines := smPut co.routines slot { r with queue := r.queue ++ [q] } }) := by
  simp only [queueAt, h]

/-! ### Mailboxes (02 R70; 03 R89, R103) -/

/-- A pre-empted or parked core diverts what reaches its mailboxes. -/
theorem mailAtCore_of_halted {s : State} {c r : Nat} (m : Nat) (x : MailMsg)
    (h : (s.core c).halt = .preempted r ∨ (s.core c).halt = .parked r) : mailAtCore s c m x = divert s c (.mail m x) := by
  rcases h with h | h <;> simp only [mailAtCore, h]
theorem mailAtCore_of_running {s : State} {c : Nat} (m : Nat) (x : MailMsg) (h : (s.core c).halt = .none) :
    mailAtCore s c m x = dispatchAtMailbox s c m x := by
  simp only [mailAtCore, h]

section
variable {s : State} {c m : Nat} (x : MailMsg)

theorem dispatchAtMailbox_pipeline {q y : Nat} {l : Launch} (hb : (s.mailbox c m).bind = .pipeline q y)
    (hl : s.launch q y = some l) :
    dispatchAtMailbox s c m x = s.setLaunch q y { l with mboxWait := l.mboxWait ++ [x] } := by
  simp only [dispatchAtMailbox, hb, hl]
theorem dispatchAtMailbox_slot {k : BitVec 5} (hb : (s.mailbox c m).bind = .slot k) :
    dispatchAtMailbox s c m x = dispatchMail s c k x := by
  simp only [dispatchAtMailbox, hb]
theorem dispatchAtMailbox_park (hb : (s.mailbox c m).bind = .none) (hp : (s.mailbox c m).parked.length < 16) :
    dispatchAtMailbox s c m x =
      setMailbox s c m { s.mailbox c m with parked := (s.mailbox c m).parked ++ [x] } := by
  simp only [dispatchAtMailbox, hb, unboundLimit, if_pos hp]
theorem dispatchAtMailbox_full (hb : (s.mailbox c m).bind = .none) (hp : 16 ≤ (s.mailbox c m).parked.length) :
    dispatchAtMailbox s c m x = s.countCore c 0x12 1 (some x.part) := by
  simp only [dispatchAtMailbox, hb, unboundLimit, if_neg (Nat.not_lt.mpr hp)]

end

section
variable {s u : State} {n c : Nat} {f : Flit}

section
variable {pa : Nat} {args : List DWord} {s13 : Word} {cl pos ofs : Nat}

/-- A mailbox message whose sender may command the mailbox. -/
theorem Arrives.takes_mailbox (h : Arrives s n f u) (hc : f.dst = .core c) (hm : f.msg = .mailbox pa args s13)
    (hs : siteOf pa false = .mailbox cl pos ofs) (hmay : mayCommand u cl pos f.who = true) (hsp : spillFull u c = false) :
    Takes (.mailboxMessage n) s f (mailAtCore u c (ofs / 4096) { args := args, s13 := s13, part := f.who.part }) := by
  refine congrArg _ (h.deliver ?_)
  simp only [hm, hs, hc, hmay, hsp, if_true, Bool.false_eq_true, if_false]

/-- One whose sender may not is refused, with a fault record. -/
theorem Arrives.takes_mailbox_denied (h : Arrives s n f u) (hc : f.dst = .core c) (hm : f.msg = .mailbox pa args s13)
    (hs : siteOf pa false = .mailbox cl pos ofs) (hmay : mayCommand u cl pos f.who = false) :
    Takes (.mailboxMessage n) s f (postFault (countDelivery u c cInvokeDenied (s.core c).part) (pkgOf f.src)
      { cause := cInvokeDenied, core := f.src, part := f.who.part, src := 4 }) := by
  rw [← h.core]
  refine congrArg _ (h.deliver ?_)
  simp only [hm, hs, hc, hmay, Bool.false_eq_true, if_false, refuseOneWay, deniedAtCore]

end

/-! ### Active messages, task releases, contexts and frames -/

theorem Arrives.takes_active {slot : BitVec 5} {handler : DWord} {args : List DWord} (h : Arrives s n f u) (hc : f.dst = .core c)
    (hm : f.msg = .active slot handler args) (hmay : mayMessage u c f.who = true) (hex : coreExists u c f.src = true)
    (hsp : spillFull u c = false) :
    Takes (.activeMessage n) s f (queueStart u c slot { Start.plain s.now with
      pc := if handler = 0 then none else some (space0 handler)
      s8 := zext72 (args.getD 0 0), s9 := zext72 (args.getD 1 0), s10 := zext72 (args.getD 2 0)
      s11 := zext72 (args.getD 3 0), s13 := BitVec.ofNat 72 f.src, part := f.who.part }) := by
  rw [← h.now]
  exact h.takes hc rfl (by simp only [hm, hmay, hex, hsp, Bool.and_self, if_true, Bool.false_eq_true, if_false])

/-- What a task release, or the release of a WHEN's continuation, queues at its core (03 R101; 17 R352). -/
theorem Arrives.takes_taskRelease {rec creator : Nat} {handler level : DWord} {args : List DWord} {slot : BitVec 5}
    (h : Arrives s n f u) (hc : f.dst = .core c) (hm : f.msg = .taskRelease rec handler args creator slot level)
    (hsp : spillFull u c = false) {t : State}
    (ht : t = queueStart (dropCont u c rec) c slot
      { Start.plain u.now with
        pc := (match continuationOf (u.core c) rec with
          | some q => some q.2
          | none => if handler = 0 then none else some (space0 handler))
        s8 := zext72 (args.getD 0 0), s9 := zext72 (args.getD 1 0), s10 := zext72 (args.getD 2 0)
        s11 := zext72 (args.getD 3 0), s13 := BitVec.ofNat 72 creator
        role := if level = 0 then .plain else .task ((taskCluster rec).getD (clOf creator)) level
        taskRec := some rec, waitedFor := ((continuationOf (u.core c) rec).map (·.1)).toList, part := f.who.part }) :
    Takes (.taskRelease n) s f t := by
  refine h.takes hc rfl ?_
  simp only [hm, hsp, Bool.false_eq_true, if_false, ht] <;> rfl

/-- A context that is taken in joins the contexts that wait to resume. -/
theorem queueContext_queue (x : Context) (back : Bool) (hh : (u.core c).halt = .none) :
    ∃ q, (smGet Routine.reset ((queueContext u c x back).core c).routines 32).queue =
        (smGet Routine.reset (u.core c).routines 32).queue ++ [q] ∧
      q.ctx = some x ∧ q.prio = some x.prio ∧ q.back = back := by
  refine ⟨{ Start.plain u.now with prio := some x.prio, ctx := some x, part := x.part, back := back }, ?_, rfl, rfl, rfl⟩
  simp [queueContext, contextQueue, queueAt_of_running _ _ hh]

theorem Arrives.takes_context {x : Context} (h : Arrives s n f u) (hc : f.dst = .core c) (hm : f.msg = .context x)
    (hmay : mayMessage u c f.who = true) (hex : coreExists u c f.src = true) (hsp : spillFull u c = false) :
    Takes (.contextMove n) s f (queueContext u c x false) :=
  h.takes hc rfl (by simp only [hm, hmay, hex, hsp, Bool.and_self, if_true, Bool.false_eq_true, if_false])

/-- A context that its target's access table turns away goes back to its source. -/
theorem Arrives.takes_context_denied {x : Context} (h : Arrives s n f u) (hc : f.dst = .core c) (hm : f.msg = .context x)
    (hmay : mayMessage u c f.who = false) :
    Takes (.contextMove n) s f (sendUnit u c (.core f.src) clsMSG (.contextBack x)) :=
  h.takes hc rfl (by simp only [hm, hmay, Bool.false_and, Bool.false_eq_true, if_false])

theorem Arrives.takes_contextBack {x : Context} (h : Arrives s n f u) (hc : f.dst = .core c) (hm : f.msg = .contextBack x)
    (hsp : spillFull u c = false) : Takes (.contextReturn n) s f (queueContext u c x true) :=
  h.takes hc rfl (by simp only [hm, hsp, Bool.false_eq_true, if_false])

theorem Arrives.takes_frameRelease {k : Nat} (h : Arrives s n f u) (hc : f.dst = .core c) (hm : f.msg = .frameRelease k) :
    Takes (.frameRelease n) s f (u.modCore c (fun co => { co with frames := setBit co.frames k false })) :=
  h.takes hc rfl (by simp only [hm])

theorem Arrives.takes_hsync {y : SyncHold} (h : Arrives s n f u) (hc : f.dst = .core c) (hm : f.msg = .hsync y) :
    Takes (.hsyncRequest n) s f (u.modCore c (fun co => { co with hsyncAcks := co.hsyncAcks ++ [y] })) :=
  h.takes hc rfl (by simp only [hm])

end

/-! ### HSYNC at its strand (17 R353) -/

section
variable {s : State} {c k : Nat} {x : Strand}

theorem exec_hsyncAck (hx : s.strand c k = some x) {y : SyncHold}
    (hy : x.hsync.find? (fun z => (s.core (hCompute z.ans)).hsyncAcks.contains z && syncDone s (hCompute z.ans) z) = some y) :
    exec (.hsyncAck c k) s = .next ((s.modCore (hCompute y.ans) (fun co =>
      { co with hsyncAcks := co.hsyncAcks.erase y })).modStrand c k (fun z => { z with hsync := z.hsync.erase y })) := by
  change execHsyncAck c k s = _
  simp only [execHsyncAck, hx, hy]

/-- A hold that is past its time ends with every other hold of the strand, and the held instruction traps. -/
theorem exec_hsyncTimeout (hx : s.strand c k = some x) {w : Wait} {y : SyncHold} (hy : y ∈ x.hsync)
    (hl : y.since + remoteLimit s c ≤ s.now) (hw : x.wait = some w) (hk : w.kind = .hsync) (hh : (s.core c).halt = .none) :
    exec (.hsyncTimeout c k) s = .next (raise ((x.hsync.foldl (fun st (z : SyncHold) =>
      st.modCore (hCompute z.ans) (fun co => { co with hsyncAcks := co.hsyncAcks.filter (fun q => q != z) })) s).modStrand c k
        (fun z => { z with hsync := [] })) c k .t { code := cRemoteTimeout, eva := 0 } x.pc 0) := by
  have hlate : x.hsync.any (fun y => decide (y.since + remoteLimit s c ≤ s.now)) = true :=
    List.any_eq_true.mpr ⟨y, hy, decide_eq_true hl⟩
  change execHsyncTimeout c k s = _
  simp only [execHsyncTimeout, hx, hlate, hw, Option.any_some, hk, hh, beq_self_eq_true, Bool.and_self, if_true]

end

/-- Settles O43: each message is delivered through the filter, and its effect is that of the operation on the mailbox, the
routine queue, the frames or the acknowledgements. -/
theorem coreMessages : Obligations.CoreMessages := by
  unfold Obligations.CoreMessages
  refine ⟨fun s u n c f ha hc => ⟨fun pa args s13 cl pos ofs hm hs => ⟨fun hmay => ha.takes_mailbox_denied hc hm hs hmay,
      fun hmay => ⟨fun r hr hsp => ?_, fun hh => ?_⟩⟩, fun slot handler args hm hmay hex hsp => ha.takes_active hc hm hmay hex hsp,
      fun rec handler args creator slot level hm hsp => ?_,
      fun x hm => ⟨fun hmay hex hh => ?_, fun hmay => ha.takes_context_denied hc hm hmay⟩, fun x hm hh => ?_,
      fun k hm => ha.takes_frameRelease hc hm, fun y hm => ha.takes_hsync hc hm⟩,
    fun s c k x hx => ⟨fun y hy => exec_hsyncAck hx hy,
      fun w y hy hl hw hk hh => exec_hsyncTimeout hx hy hl hw hk hh⟩⟩
  case refine_1 =>
    have h1 := ha.takes_mailbox hc hm hs hmay hsp
    rwa [mailAtCore_of_halted _ _ (by rwa [ha.core])] at h1
  case refine_2 =>
    have hu : (u.core c).halt = .none := by rwa [ha.core]
    have h1 := ha.takes_mailbox hc hm hs hmay (spillFull_of_running hu)
    rw [mailAtCore_of_running _ _ hu] at h1
    refine ⟨fun q y l hb hl => ?_, fun k hb => ?_, fun hb hp => ?_, fun hb hp => ?_⟩
    · rwa [dispatchAtMailbox_pipeline _ (by rwa [ha.mailbox]) hl] at h1
    · rw [dispatchAtMailbox_slot _ (by rwa [ha.mailbox]), dispatchMail, ha.now] at h1
      exact h1
    · rwa [dispatchAtMailbox_park _ (by rwa [ha.mailbox]) (by rwa [ha.mailbox]), ha.mailbox] at h1
    · rwa [dispatchAtMailbox_full _ (by rwa [ha.mailbox]) (by rwa [ha.mailbox])] at h1
  case refine_3 =>
    refine ha.takes_taskRelease hc hm hsp ?_
    rw [ha.core, ha.now] <;> rfl
  case refine_4 =>
    have hu : (u.core c).halt = .none := by rwa [ha.core]
    obtain ⟨q, hq, hctx, hprio, hback⟩ := queueContext_queue x false hu
    exact ⟨_, q, ha.takes_context hc hm hmay hex (spillFull_of_running hu), by rw [hq, ha.core], hctx, hprio, hback⟩
  case refine_5 =>
    have hu : (u.core c).halt = .none := by rwa [ha.core]
    obtain ⟨q, hq, hctx, -, hback⟩ := queueContext_queue x true hu
    exact ⟨_, q, ha.takes_contextBack hc hm (spillFull_of_running hu), by rw [hq, ha.core], hctx, hback⟩

end Sys2Proof.Machine
end

section
/-! Fields of words, and the words of bytes. -/

namespace Sys2Proof.Machine

/-- A bit of a word with a field placed in it. -/
theorem getLsbD_setBits {w : Nat} (x : BitVec w) (lo len v i : Nat) (hi : i < w) :
    (setBits x lo len v).getLsbD i = if lo ≤ i ∧ i < lo + len then v.testBit (i - lo) else x.getLsbD i := by
  simp only [setBits, BitVec.getLsbD_or, BitVec.getLsbD_and, BitVec.getLsbD_not, BitVec.getLsbD_ofNat, hi, decide_true,
    Bool.true_and, Nat.testBit_mul_two_pow, Nat.testBit_two_pow_sub_one, Nat.testBit_mod_two_pow]
  by_cases h1 : lo ≤ i
  · by_cases h2 : i - lo < len
    · simp [h1, h2, show i < lo + len by omega]
    · simp [h1, h2, show ¬ i < lo + len by omega]
  · simp [h1]

/-- A bit of a word with one bit set or cleared. -/
theorem bit_setBit {w : Nat} (x : BitVec w) (n i : Nat) (v : Bool) (hi : i < w) :
    bit (setBit x n v) i = if i = n then v else bit x i := by
  rw [bit, setBit, getLsbD_setBits _ _ _ _ _ hi]
  by_cases h : i = n
  · subst h; cases v <;> simp
  · rw [if_neg (by omega), if_neg h, bit]

/-- The field that was placed. -/
theorem bits_setBits {w : Nat} (x : BitVec w) (lo len v : Nat) (h : lo + len ≤ w) (hv : v < 2 ^ len) :
    bits (setBits x lo len v) lo len = v := by
  refine Nat.eq_of_testBit_eq (fun i => ?_)
  rw [bits, ← BitVec.getLsbD, BitVec.getLsbD_extractLsb']
  by_cases hi : i < len
  · rw [getLsbD_setBits _ _ _ _ _ (by omega), if_pos (by omega)]
    simp [hi]
  · rw [Nat.testBit_lt_two_pow (hv.trans_le (Nat.pow_le_pow_right (by omega) (by omega)))]
    simp [hi]

/-- Bit `i` of a little-endian value is bit `i % 8` of byte `i / 8`. -/
theorem testBit_leVal (b : List Byte) (i : Nat) : (leVal b).testBit i = (b.getD (i / 8) 0).getLsbD (i % 8) := by
  induction b generalizing i with
  | nil => simp [leVal]
  | cons x t ih =>
    have hx : x.toNat < 2 ^ 8 := x.isLt
    rw [leVal, show x.toNat + 256 * leVal t = 2 ^ 8 * leVal t + x.toNat by ring, Nat.testBit_two_pow_mul_add _ hx]
    by_cases hi : i < 8
    · rw [if_pos hi, Nat.div_eq_of_lt hi, Nat.mod_eq_of_lt hi]; rfl
    · rw [if_neg hi, ih, show i / 8 = (i - 8) / 8 + 1 by omega, show i % 8 = (i - 8) % 8 by omega]; rfl

/-- The first `n` steps by which a store replaces the bytes of a word. -/
theorem getLsbD_mergeBytes (old : DWord) (g : Nat → Byte) (n i : Nat) (hi : i < 64) (hn : n ≤ 8) :
    ((List.range n).foldl (fun a j => setBits a (8 * j) 8 (g j).toNat) old).getLsbD i =
      if i < 8 * n then (g (i / 8)).getLsbD (i % 8) else old.getLsbD i := by
  induction n with
  | zero => simp
  | succ n ih =>
    rw [List.range_succ, List.foldl_append, List.foldl_cons, List.foldl_nil, getLsbD_setBits _ _ _ _ _ hi, ih (by omega)]
    by_cases h : 8 * n ≤ i ∧ i < 8 * n + 8
    · rw [if_pos h, if_pos (by omega), show i / 8 = n by omega, show i % 8 = i - 8 * n by omega]; rfl
    · rw [if_neg h]
      by_cases h2 : i < 8 * n
      · rw [if_pos h2, if_pos (by omega)]
      · rw [if_neg h2, if_neg (by omega)]

/-- A store that covers a word replaces it by its bytes. -/
theorem mergeWord_covered (old : DWord) (w pa : Nat) (b : List Byte) (h1 : pa ≤ w) (h2 : w + 8 ≤ pa + b.length) :
    mergeWord old w pa b = BitVec.ofNat 64 (leVal ((b.drop (w - pa)).take 8)) := by
  have hm : mergeWord old w pa b =
      (List.range 8).foldl (fun a j => setBits a (8 * j) 8 (b.getD (w + j - pa) 0).toNat) old := by
    refine List.foldl_ext _ _ _ (fun a j hj => if_pos ?_)
    have := List.mem_range.mp hj
    omega
  refine BitVec.eq_of_getLsbD_eq (fun i hi => ?_)
  rw [hm, getLsbD_mergeBytes old (fun j => b.getD (w + j - pa) 0) 8 i hi (Nat.le_refl 8), if_pos (by omega),
    BitVec.getLsbD_ofNat, testBit_leVal]
  have h8 : i / 8 < 8 := by omega
  simp only [hi, decide_true, Bool.true_and, List.getD_eq_getElem?_getD, List.getElem?_take, h8, if_true, List.getElem?_drop]
  rw [show w + i / 8 - pa = w - pa + i / 8 by omega]

end Sys2Proof.Machine
end

section
/-! Control of clusters: gating, writes of control words, the bracken scanner (02 R67; 03 R97, R106; 10 R218 to R223; 26 R481). -/

namespace Sys2Proof.Machine

/-! ### Gating (03 R97) -/

section
variable {s : State} {cl : Nat}

theorem exec_clusterPowerGate (h1 : (s.cluster cl).gated = false) (h2 : (s.cluster cl).nogate = false)
    (h3 : clusterIdle s cl = true) (h4 : (s.cluster cl).idleSince + 90000 ≤ s.now) :
    exec (.clusterPowerGate cl) s = .next (s.setCluster cl { s.cluster cl with gated := true, wakeDue := none }) := by
  change execClusterPowerGate cl s = _
  exact if_pos (by simp [h1, h2, h3, gateAfter, h4])

theorem exec_clusterWake_begin (h1 : (s.cluster cl).gated = true) (h2 : (s.cluster cl).wakeDue = none)
    (h3 : (s.cluster cl).nogate = true ∨ clusterIdle s cl = false) :
    exec (.clusterWake cl) s = .next (s.setCluster cl { s.cluster cl with wakeDue := some (s.now + 7200) }) := by
  change execClusterWake cl s = _
  simp only [execClusterWake, h2, wakeTime]
  rw [if_pos]
  rcases h3 with h3 | h3 <;> simp [h1, h3]

theorem exec_clusterWake_end {due : Nat} (h1 : (s.cluster cl).gated = true) (h2 : (s.cluster cl).wakeDue = some due)
    (h3 : due ≤ s.now) : exec (.clusterWake cl) s =
      .next (s.setCluster cl { s.cluster cl with gated := false, wakeDue := none, idleSince := s.now }) := by
  change execClusterWake cl s = _
  simp only [execClusterWake, h2, h1, Bool.true_and, decide_eq_true_eq, if_pos h3]

end

/-! ### Words of a cluster's control block -/

/-- Where an offset in a cluster's control block lies. -/
theorem siteOf_cblockPa {cl o : Nat} (hcl : cl < 2 ^ 18) (ho : o < 2 ^ 24) : siteOf (cblockPa cl o) false = .cblock cl o := by
  have hp : cblockPa cl o / 2 ^ 50 = cl / 256 := by simp only [cblockPa]; omega
  have hm : cblockPa cl o % 2 ^ 50 = 0x020000000000 + cl % 256 * 2 ^ 24 + o := by simp only [cblockPa]; omega
  have h1 : cl / 256 * 256 + (0x020000000000 + cl % 256 * 2 ^ 24 + o - 0x020000000000) / 2 ^ 24 = cl := by omega
  have h2 : (0x020000000000 + cl % 256 * 2 ^ 24 + o) % 2 ^ 24 = o := by omega
  simp only [siteOf, hp, hm]
  rw [if_neg (by omega), if_neg (by omega), if_neg (by omega), if_pos (by omega), h1, h2]

/-- The next word of a control block. -/
theorem cblockPa_add (cl o n : Nat) : cblockPa cl o + n = cblockPa cl (o + n) := by simp only [cblockPa]; omega

/-- A control block starts at a multiple of 16. -/
theorem cblockPa_mod (cl o : Nat) : cblockPa cl o % 16 = o % 16 := by simp only [cblockPa]; omega

/-- The cluster of a core, and the core's place in it. -/
theorem clOf_lt {c : Nat} (h : c < 2 ^ 22) : clOf c < 2 ^ 18 := by simp only [clOf]; omega
theorem clOf_mul_add (c : Nat) : clOf c * 16 + c % 16 = c := by simp only [clOf]; omega

/-- A store that its target admits is performed there. -/
theorem performAt_store {s : State} {id : Ident} {pa : Nat} {b : List Byte} (hb : 0 < b.length ∧ b.length ≤ 64)
    (ha : s.admits pa false id .wr = true) :
    performAt s id (plainAccess pa 0 false 0 (.store b)) = targetStore s id pa false b := by
  have hp : pieces pa b.length .wr = [(pa, .wr)] := by
    simp [pieces, show (b.length + 63) / 64 = 1 by omega]
  have hd : s.deniedAt id (plainAccess pa 0 false 0 (.store b)) = none := by
    simp [State.deniedAt, Access.asks, plainAccess, hp, ha]
  rw [performAt, hd]
  rfl

/-- A store of control space that its target admits is performed word by word. -/
theorem controlStore_admitted {s t : State} {m : Master} {cl o : Nat} {b d : List Byte} (hcl : cl < 2 ^ 18) (ho : o < 2 ^ 24)
    (hb : 0 < b.length ∧ b.length ≤ 64) (ha : s.admits (cblockPa cl o) false { part := m.part, cls := m.cls } .wr = true)
    (hs : ctlStore s { part := m.part, cls := m.cls } (cblockPa cl o) b false (ctlWords (cblockPa cl o) b.length) = .ok t d) :
    controlStore s m (cblockPa cl o) b = .next t := by
  have ht : targetStore s { part := m.part, cls := m.cls } (cblockPa cl o) false b = .ok t d := by
    rw [targetStore, siteOf_cblockPa hcl ho, if_neg (by simp [Site.isMemory]), hs]
  rw [controlStore, performAt_store hb ha, ht]

/-- A word that is not skipped is read, merged and written. -/
theorem ctlStore_cons {s t : State} {id : Ident} {pa w : Nat} {b : List Byte} {ws : List Nat} {old : DWord}
    (hr : ctlRead s w = some old) (hw : ctlWrite s id w (mergeWord old w pa b) = .done t) :
    ctlStore s id pa b false (w :: ws) = ctlStore t id pa b (routineIgnored s id w (mergeWord old w pa b)) ws := by
  simp only [ctlStore, Bool.false_eq_true, if_false, hr, hw]

/-- The words of a store of one word and of a store of two. -/
theorem ctlWords_one {pa : Nat} (h : pa % 8 = 0) : ctlWords pa 8 = [pa] := by
  rw [ctlWords, show (pa + 8 - 1) / 8 - pa / 8 + 1 = 1 by omega, show pa / 8 * 8 = pa by omega]
  rfl
theorem ctlWords_two {pa : Nat} (h : pa % 8 = 0) : ctlWords pa 16 = [pa + 8, pa] := by
  rw [ctlWords, show (pa + 16 - 1) / 8 - pa / 8 + 1 = 2 by omega, show pa / 8 * 8 = pa by omega]
  rfl

/-- A store of one aligned word. -/
theorem controlStore_word {s t : State} {m : Master} {cl o : Nat} {v old : DWord} (hcl : cl < 2 ^ 18) (ho : o < 2 ^ 24)
    (h8 : o % 8 = 0) (ha : s.admits (cblockPa cl o) false { part := m.part, cls := m.cls } .wr = true)
    (hr : ctlRead s (cblockPa cl o) = some old)
    (hw : ctlWrite s { part := m.part, cls := m.cls } (cblockPa cl o) v = .done t) :
    controlStore s m (cblockPa cl o) (leBytes 8 v.toNat) = .next t := by
  have hv : mergeWord old (cblockPa cl o) (cblockPa cl o) (leBytes 8 v.toNat) = v := by
    rw [mergeWord_covered _ _ _ _ (Nat.le_refl _) (by simp), Nat.sub_self, List.drop_zero,
      List.take_of_length_le (by simp), leVal_leBytes, Nat.mod_eq_of_lt (by simpa using v.isLt), BitVec.ofNat_toNat]
    exact BitVec.setWidth_eq v
  have hpa : cblockPa cl o % 8 = 0 := by have := cblockPa_mod cl o; omega
  have hend : ∀ skip, ctlStore t { part := m.part, cls := m.cls } (cblockPa cl o) (leBytes 8 v.toNat) skip [] = .ok t [] :=
    fun _ => rfl
  refine controlStore_admitted (d := []) hcl ho (by simp) ha ?_
  rw [leBytes_length, ctlWords_one hpa, ctlStore_cons hr (by rwa [hv]), hend]

/-! ### What the words do (02 R67; 03 R106; 26 R481) -/

section
variable (s : State) {id : Ident} {pa cl : Nat} (v : DWord)

/-- Every word of a cluster's control block can be read. -/
theorem ctlRead_cblock {o : Nat} (hpa : siteOf pa false = .cblock cl o) : ∃ old, ctlRead s pa = some old := by
  simp only [ctlRead, hpa]
  split_ifs <;> exact ⟨_, rfl⟩

theorem ctlWrite_nogate (hpa : siteOf pa false = .cblock cl 0) (h : id.cls = 0xB) :
    ctlWrite s id pa v = .done (s.modCluster cl (fun x => { x with nogate := bit v 0 })) := by
  simp [ctlWrite, hpa, isManagement, h]

theorem ctlWrite_routine {i slot half : Nat} (hpa : siteOf pa false = .cblock cl (0x1000 + 0x200 * i + 16 * slot + half))
    (hi : i < 16) (hs : slot < 32) (hh : half = 0 ∨ half = 8) :
    ctlWrite s id pa v = .done (routineWrite s id (cl * 16 + i) slot half v) := by
  simp only [ctlWrite, hpa]
  rw [show (0x1000 + 0x200 * i + 16 * slot + half) / 8 * 8 = 0x1000 + 0x200 * i + 16 * slot + half by omega,
    if_neg (by omega), if_pos (by omega),
    show (0x1000 + 0x200 * i + 16 * slot + half - 0x1000) / 0x200 = i by omega,
    show (0x1000 + 0x200 * i + 16 * slot + half) % 0x200 / 16 = slot by omega,
    show (0x1000 + 0x200 * i + 16 * slot + half) % 16 = half by omega]

theorem ctlWrite_parkAct {i : Nat} (hpa : siteOf pa false = .cblock cl (0x3000 + 8 * i)) (hi : i < 16)
    (h : id.cls = 0xB ∨ id.cls = 2) : ctlWrite s id pa v = .done (s.modCore (cl * 16 + i) (parkActWrite v)) := by
  have hm : (isManagement id || id.cls == 2) = true := by simpa [isManagement] using h
  simp only [ctlWrite, hpa]
  rw [show (0x3000 + 8 * i) / 8 * 8 = 0x3000 + 8 * i by omega, if_neg (by omega), if_neg (by omega), if_pos (by omega),
    if_pos hm, show (0x3000 + 8 * i - 0x3000) / 8 = i by omega]

/-- A write of a core counter's SELECT. -/
theorem ctlWrite_select {i j : Nat} (hpa : siteOf pa false = .cblock cl (0x100000 + 0x40 * i + 16 * j)) (hi : i < 16)
    (hj : j < 4) (h : id.cls = 0xB ∨ isSupervisorOf s (cl * 16 + i) id = true) :
    ctlWrite s id pa v = .done (s.modCore (cl * 16 + i) (fun co =>
      { co with counters := co.counters.setIfInBounds j (counterWrite (co.counters.getD j Counter.reset) 0 v) })) := by
  have hm : (isManagement id || isSupervisorOf s (cl * 16 + i) id) = true := by simpa [isManagement] using h
  simp only [ctlWrite, hpa]
  rw [show (0x100000 + 0x40 * i + 16 * j) / 8 * 8 = 0x100000 + 0x40 * i + 16 * j by omega, if_neg (by omega),
    if_neg (by omega), if_neg (by omega), if_pos (by omega),
    show (0x100000 + 0x40 * i + 16 * j - 0x100000) / 0x40 = i by omega, if_pos hm,
    show (0x100000 + 0x40 * i + 16 * j) % 0x40 / 16 = j by omega, show (0x100000 + 0x40 * i + 16 * j) % 16 = 0 by omega]

end

/-! ### The routine table (02 R67) -/

section
variable {s : State} {id : Ident} {c slot : Nat} {v : DWord}

/-- Bytes 8 to 15 of an entry are kept until bytes 0 to 7 are written. -/
theorem routineWrite_hi (h : bits v 8 2 ≠ 3 ∨ bindsSupervisor s c id = true) :
    routineWrite s id c slot 8 v = s.setCore c { s.core c with
      routines := smPut (s.core c).routines slot { smGet Routine.reset (s.core c).routines slot with nextHi := v &&& 0x700#64 } } := by
  have hn : ¬(bits v 8 2 = 3 ∧ ¬ bindsSupervisor s c id = true) := by tauto
  simp only [routineWrite, ne_eq, OfNat.ofNat_ne_zero, not_false_eq_true, if_true, if_neg hn]

theorem routineWrite_hi_refused (h : bits v 8 2 = 3) (hs : bindsSupervisor s c id = false) :
    routineWrite s id c slot 8 v = s.countShepherd (clOf c) 0x10 1 (some id.part) := by
  simp [routineWrite, h, hs]

/-- The write of bytes 0 to 7 takes effect whole. -/
theorem routineWrite_lo {r : Routine} (hr : smGet Routine.reset (s.core c).routines slot = r)
    (h : r.nextHi.extractLsb' 8 2 ≠ (3 : BitVec 2) ∨ bindsSupervisor s c id = true) :
    routineWrite s id c slot 0 v = s.setCore c { s.core c with
      routines := smPut (s.core c).routines slot
        { r with handler := v, prio := r.nextHi.extractLsb' 8 2, conc := bit r.nextHi 10 } } := by
  have hn : ¬(r.nextHi.extractLsb' 8 2 = (3 : BitVec 2) ∧ ¬ bindsSupervisor s c id = true) := by tauto
  simp only [routineWrite, ne_eq, not_true_eq_false, if_false, hr, if_neg hn]

/-- A write of bytes 8 to 15 with PRIO 3 by a master that is no supervisor makes the target ignore bytes 0 to 7 too. -/
theorem routineIgnored_hi {pa cl i : Nat} (hpa : siteOf pa false = .cblock cl (0x1000 + 0x200 * i + 16 * slot + 8))
    (hi : i < 16) (hs : slot < 32) :
    routineIgnored s id pa v = (bits v 8 2 == 3 && !bindsSupervisor s (cl * 16 + i) id) := by
  simp only [routineIgnored, hpa]
  rw [show (0x1000 + 0x200 * i + 16 * slot + 8 - 0x1000) / 0x200 = i by omega,
    show (0x1000 + 0x200 * i + 16 * slot + 8) % 16 = 8 by omega,
    decide_eq_true (show 0x1000 ≤ 0x1000 + 0x200 * i + 16 * slot + 8 by omega),
    decide_eq_true (show 0x1000 + 0x200 * i + 16 * slot + 8 < 0x3000 by omega)]
  rfl

end

end Sys2Proof.Machine
end

section
/-! Writes of control words by their masters, and the bracken scanner (02 R67; 03 R106; 10 R218 to R223; 26 R481). -/

namespace Sys2Proof.Machine

/-! ### Writes of a routine entry's 16 bytes (02 R67) -/

/-- The bits that a routine entry keeps of its bytes 8 to 15 hold PRIO. -/
theorem prio_kept (v : DWord) : (v &&& 0x700#64).extractLsb' 8 2 = v.extractLsb' 8 2 := by
  rw [BitVec.extractLsb'_and, show (0x700#64).extractLsb' 8 2 = BitVec.allOnes 2 by decide, BitVec.and_allOnes]
theorem bits_kept (v : DWord) : bits (v &&& 0x700#64) 8 2 = bits v 8 2 := by rw [bits, prio_kept, bits]

/-- The field of two bits reads 3 as a number exactly when it is 3. -/
theorem bits_two_eq_three (v : DWord) (lo : Nat) : bits v lo 2 = 3 ↔ v.extractLsb' lo 2 = (3 : BitVec 2) := by
  rw [bits, ← BitVec.toNat_inj]; rfl

theorem bindsSupervisor_iff (s : State) (c : Nat) (id : Ident) :
    bindsSupervisor s c id = true ↔ id.cls = 0xB ∨ id.cls = 2 ∨ isSupervisorOf s c id = true := by
  simp [bindsSupervisor, isManagement, or_assoc]

/-- Binding rights of a core depend on its partition alone. -/
theorem bindsSupervisor_setCore (s : State) (c : Nat) (id : Ident) (rs : SMap Routine) :
    bindsSupervisor (s.setCore c { s.core c with routines := rs }) c id = bindsSupervisor s c id := by
  simp [bindsSupervisor, isSupervisorOf]

/-- The first two words of an entry as bytes hold them. -/
def entryLo (b : List Byte) : DWord := BitVec.ofNat 64 (leVal (b.take 8))
def entryHi (b : List Byte) : DWord := BitVec.ofNat 64 (leVal (b.drop 8))

theorem mergeWord_entryLo {old : DWord} {pa : Nat} {b : List Byte} (hb : b.length = 16) : mergeWord old pa pa b = entryLo b := by
  rw [mergeWord_covered _ _ _ _ (Nat.le_refl _) (by omega), Nat.sub_self, List.drop_zero, entryLo]
theorem mergeWord_entryHi {old : DWord} {pa : Nat} {b : List Byte} (hb : b.length = 16) :
    mergeWord old (pa + 8) pa b = entryHi b := by
  rw [mergeWord_covered _ _ _ _ (by omega) (by omega), show pa + 8 - pa = 8 by omega,
    List.take_of_length_le (by rw [List.length_drop]; omega), entryHi]

/-- A core with entry `slot` of its routine table written. -/
def boundCore (co : Core) (slot : Nat) (lo hi : DWord) : Core :=
  let r := smGet Routine.reset co.routines slot
  let r' : Routine := { r with handler := lo, prio := hi.extractLsb' 8 2, conc := bit hi 10, nextHi := hi }
  { co with routines := smPut co.routines slot r' }

section
variable {s : State} {id : Ident} {c slot pa : Nat} {b : List Byte}

/-- The words of an entry's 16 bytes, the higher first. -/
theorem ctlStore_entry (hs : slot < 32) (hb : b.length = 16)
    (hpa : siteOf pa false = .cblock (clOf c) (0x1000 + 0x200 * (c % 16) + 16 * slot + 0))
    (hpa8 : siteOf (pa + 8) false = .cblock (clOf c) (0x1000 + 0x200 * (c % 16) + 16 * slot + 8))
    (h : bits (entryHi b) 8 2 ≠ 3 ∨ bindsSupervisor s c id = true) :
    ctlStore s id pa b false [pa + 8, pa] =
      .ok (s.setCore c (boundCore (s.core c) slot (entryLo b) (entryHi b &&& 0x700))) [] := by
  have hi : c % 16 < 16 := Nat.mod_lt _ (by decide)
  obtain ⟨old, hr⟩ := ctlRead_cblock s hpa8
  have hw := ctlWrite_routine s (id := id) (mergeWord old (pa + 8) pa b) hpa8 hi hs (.inr rfl)
  rw [clOf_mul_add, mergeWord_entryHi hb, routineWrite_hi h] at hw
  have hsk : routineIgnored s id (pa + 8) (entryHi b) = false := by
    rw [routineIgnored_hi hpa8 hi hs, clOf_mul_add]
    rcases h with h | h <;> simp [h]
  rw [ctlStore_cons hr (by rwa [mergeWord_entryHi hb]), mergeWord_entryHi hb, hsk]
  generalize ht : s.setCore c _ = t at hw
  have htr : smGet Routine.reset (t.core c).routines slot =
      { smGet Routine.reset (s.core c).routines slot with nextHi := entryHi b &&& 0x700 } := by
    rw [← ht]; simp
  obtain ⟨old', hr'⟩ := ctlRead_cblock t hpa
  have hw' := ctlWrite_routine t (id := id) (mergeWord old' pa pa b) hpa hi hs (.inl rfl)
  rw [clOf_mul_add, mergeWord_entryLo hb, routineWrite_lo htr ?_] at hw'
  · rw [ctlStore_cons hr' (by rwa [mergeWord_entryLo hb])]
    cases routineIgnored t id pa (mergeWord old' pa pa b) <;> simp [ctlStore, ← ht, boundCore]
  · rw [← ht, bindsSupervisor_setCore]
    refine h.imp_left (fun h => ?_)
    rw [ne_eq, bits_two_eq_three, ← prio_kept] at h
    exact h

/-- The bytes of an entry that the target ignores. -/
theorem ctlStore_entry_ignored (hs : slot < 32) (hb : b.length = 16)
    (hpa8 : siteOf (pa + 8) false = .cblock (clOf c) (0x1000 + 0x200 * (c % 16) + 16 * slot + 8))
    (h : bits (entryHi b) 8 2 = 3) (hn : bindsSupervisor s c id = false) :
    ctlStore s id pa b false [pa + 8, pa] = .ok (s.countShepherd (clOf c) 0x10 1 (some id.part)) [] := by
  have hi : c % 16 < 16 := Nat.mod_lt _ (by decide)
  obtain ⟨old, hr⟩ := ctlRead_cblock s hpa8
  have hw := ctlWrite_routine s (id := id) (mergeWord old (pa + 8) pa b) hpa8 hi hs (.inr rfl)
  rw [clOf_mul_add, mergeWord_entryHi hb, routineWrite_hi_refused h hn] at hw
  have hsk : routineIgnored s id (pa + 8) (entryHi b) = true := by
    rw [routineIgnored_hi hpa8 hi hs, clOf_mul_add, h, hn]; rfl
  rw [ctlStore_cons hr (by rwa [mergeWord_entryHi hb]), mergeWord_entryHi hb, hsk]
  rfl

end

section
variable {s : State} {m : Master} {c slot : Nat} {b : List Byte}

/-- A write of a routine entry's 16 bytes is performed when its two words are. -/
theorem exec_routineTableWrite {t : State} (hc : c < 2 ^ 22) (hs : slot < 32) (hb : b.length = 16)
    (ha : s.admits (cblockPa (clOf c) (0x1000 + 0x200 * (c % 16) + 16 * slot)) false { part := m.part, cls := m.cls } .wr = true)
    (h : ∀ pa, siteOf pa false = .cblock (clOf c) (0x1000 + 0x200 * (c % 16) + 16 * slot + 0) →
      siteOf (pa + 8) false = .cblock (clOf c) (0x1000 + 0x200 * (c % 16) + 16 * slot + 8) →
      ctlStore s { part := m.part, cls := m.cls } pa b false [pa + 8, pa] = .ok t []) :
    exec (.routineTableWrite m c slot b) s = .next t := by
  have hcl := clOf_lt hc
  have hi : c % 16 < 16 := Nat.mod_lt _ (by decide)
  have hmod : cblockPa (clOf c) (0x1000 + 0x200 * (c % 16) + 16 * slot) % 8 = 0 := by
    have := cblockPa_mod (clOf c) (0x1000 + 0x200 * (c % 16) + 16 * slot); omega
  have hst := h (cblockPa (clOf c) (0x1000 + 0x200 * (c % 16) + 16 * slot))
    (by rw [Nat.add_zero]; exact siteOf_cblockPa hcl (by omega))
    (by rw [cblockPa_add]; exact siteOf_cblockPa hcl (by omega))
  change execRoutineTableWrite m c slot b s = _
  rw [execRoutineTableWrite, if_pos ⟨hs, .inr hb⟩]
  exact controlStore_admitted hcl (by omega) (by omega) ha (by rw [hb, ctlWords_two hmod, hst])

end

/-! ### Writes of SELECT, NOGATE and PARKACT (03 R106; 26 R481) -/

section
variable {s : State} {m : Master} (v : DWord)

/-- The SELECT words of a core's counters are event counter registers. -/
theorem isSelect_core {pa cl i j : Nat} (hpa : siteOf pa false = .cblock cl (0x100000 + 0x40 * i + 16 * j)) (hi : i < 16)
    (hj : j < 4) : isSelect pa = true := by
  rw [isSelect, hpa]
  simp only [Bool.and_eq_true, decide_eq_true_eq, beq_iff_eq]
  omega

theorem exec_eventCounterSelectWrite {c i : Nat} (hc : c < 2 ^ 22) (hi : i < 4)
    (ha : s.admits (cblockPa (clOf c) (0x100000 + 0x40 * (c % 16) + 16 * i)) false { part := m.part, cls := m.cls } .wr = true)
    (hm : m.cls = 0xB ∨ isSupervisorOf s c { part := m.part, cls := m.cls } = true) :
    exec (.eventCounterSelectWrite m (cblockPa (clOf c) (0x100000 + 0x40 * (c % 16) + 16 * i)) v) s =
      .next (s.modCore c (fun co =>
        { co with counters := co.counters.setIfInBounds i (counterWrite (co.counters.getD i Counter.reset) 0 v) })) := by
  have h16 : c % 16 < 16 := Nat.mod_lt _ (by decide)
  have hpa := siteOf_cblockPa (clOf_lt hc) (show 0x100000 + 0x40 * (c % 16) + 16 * i < 2 ^ 24 by omega)
  obtain ⟨old, hr⟩ := ctlRead_cblock s hpa
  have hw := ctlWrite_select s (id := { part := m.part, cls := m.cls }) v hpa h16 hi (by rwa [clOf_mul_add])
  rw [clOf_mul_add] at hw
  change execEventCounterSelectWrite m _ v s = _
  rw [execEventCounterSelectWrite, if_pos (isSelect_core hpa h16 hi)]
  exact controlStore_word (clOf_lt hc) (by omega) (by omega) ha hr hw

/-- A word of a control block is written as one. -/
theorem exec_controlBlockWrite {t : State} {cl o : Nat} (hcl : cl < 2 ^ 18) (ho : o < 2 ^ 24) (h8 : o % 8 = 0)
    (ha : s.admits (cblockPa cl o) false { part := m.part, cls := m.cls } .wr = true)
    (hw : ctlWrite s { part := m.part, cls := m.cls } (cblockPa cl o) v = .done t) :
    exec (.controlBlockWrite m (cblockPa cl o) v) s = .next t := by
  obtain ⟨old, hr⟩ := ctlRead_cblock s (siteOf_cblockPa hcl ho)
  have hst := controlStore_word hcl ho h8 ha hr hw
  change execControlBlockWrite m _ v s = _
  rw [execControlBlockWrite, siteOf_cblockPa hcl ho]
  exact (if_pos h8).trans hst

theorem parkActWrite_parked {co : Core} {k : Nat} {v : DWord} (hh : co.halt = .parked k)
    (hv : bits v 0 2 = 1 ∨ bits v 0 2 = 2) : parkActWrite v co = { co with parkAct := v.extractLsb' 0 2 } := by
  have hb : BitVec.ofNat 2 (bits v 0 2) = v.extractLsb' 0 2 := by rw [bits, BitVec.ofNat_toNat, BitVec.setWidth_eq]
  rw [parkActWrite, hh]
  exact (if_pos hv).trans (by rw [hb])

end

/-! ### The bracken scanner (10 R218 to R223) -/

section
variable {s : State} {r : ScanReq}

/-- The scanner writes a leaf's two words and no other memory. -/
theorem writeScan_mem (s : State) (r : ScanReq) (code : Nat) : ∃ hi,
    (writeScan s r code).mem = (writeD (writeD s r.leaf (setBits (readD s r.leaf) 10 2 code)) (r.leaf + 8) hi).mem := ⟨_, rfl⟩

/-- SCAN stands in the leaf that the scanner has written. -/
theorem readD_writeScan (s : State) (r : ScanReq) {code : Nat} (hc : code < 4) :
    bits (readD (writeScan s r code) r.leaf) 10 2 = code := by
  have h : readD (writeScan s r code) r.leaf = setBits (readD s r.leaf) 10 2 code := by
    obtain ⟨hi, hm⟩ := writeScan_mem s r code
    rw [readD_of_mem hm, readD, readU, readBytes_writeD_out _ _ _ _ _ (by omega), ← readU, ← readD, readD_writeD]
  rw [h, bits_setBits _ _ _ _ (by decide) hc]

theorem scanPage_notExecutable (h : bit r.lo 13 = false) : scanPage s r = endScan s r (scanResult 13 0) := by
  simp only [scanPage, Leaf.x, h, Bool.not_false, if_true]
theorem scanPage_writable (h : bit r.lo 13 = true) (hw : bit r.lo 14 = true) :
    scanPage s r = endScan (writeScan s r 2) r (scanResult 11 0) := by
  simp only [scanPage, Leaf.x, Leaf.w, h, hw, Bool.not_true, Bool.false_eq_true, if_false, if_true]

/-- The leaf of a request as the scanner finds it. -/
def scanLeaf (s : State) (r : ScanReq) : Leaf :=
  { entry := r.leaf, lo := readD s r.leaf, hi := readD s (r.leaf + 8), big := r.big, passed := false }
def scanSize (r : ScanReq) : Nat := if r.big then 28 else 16
def scanBase (r : ScanReq) : Word := setBits r.va 0 (scanSize r) 0
/-- The TGT bit of a target in the page of the request. -/
def scanTgt (s : State) (r : ScanReq) : Word → Option Bool := fun t =>
  if pageOf r.big t == pageOf r.big (scanBase r) then some (tgtBit (readBytes s ((scanLeaf s r).pa (pcLine t)) 64) (pcSlot t))
  else none
def scanAll (s : State) (r : ScanReq) : ScanEnd :=
  scanLines s (scanLeaf s r) (scanBase r) { part := r.part, cls := 0xA } (scanTgt s r) 0 (2 ^ scanSize r / 64)

/-- An executable page whose leaf has not changed ends as its lines do. -/
theorem scanPage_failed {code : Nat} {pc : Word} (h : bit r.lo 13 = true) (hw : bit r.lo 14 = false)
    (hlo : readD s r.leaf = r.lo) (hl : scanAll s r = .failed code pc) :
    scanPage s r = endScan (writeScan s r 2) r (scanResult code pc) := by
  delta scanAll scanTgt at hl
  simp only [scanLeaf, scanBase, scanSize, hlo] at hl
  simp only [scanPage, Leaf.x, Leaf.w, h, hw, hlo, hl, Bool.not_true, Bool.false_eq_true, if_false, bne_self_eq_false, Bool.or_self]
theorem scanPage_passed (h : bit r.lo 13 = true) (hw : bit r.lo 14 = false)
    (hlo : readD s r.leaf = r.lo) (hl : scanAll s r = .passed) :
    scanPage s r = endScan (writeScan s r 1) r (scanResult 0 0) := by
  delta scanAll scanTgt at hl
  simp only [scanLeaf, scanBase, scanSize, hlo] at hl
  simp only [scanPage, Leaf.x, Leaf.w, h, hw, hlo, hl, Bool.not_true, Bool.false_eq_true, if_false, bne_self_eq_false, Bool.or_self]

/-- The oldest request of a cluster is the one that is served. -/
theorem exec_brackenScanComplete {cl : Nat} {rest : List ScanReq} {t : State} (h : (s.cluster cl).scans = r :: rest)
    (ht : scanPage (s.modCluster cl (fun x => { x with scans := rest })) r = t) :
    exec (.brackenScanComplete cl) s = .next (t.modCluster cl (fun x => { x with scans := scanHead t x.scans })) := by
  change execBrackenScanComplete cl s = _
  rw [execBrackenScanComplete, h, ← ht]

/-- The strand that waits for a scan has its result. -/
theorem endScan_waiting {x : Strand} (w : BitVec 128) (hx : s.strand r.core r.strand = some x)
    (hw : x.wait.any (fun q => q.kind == .scan) = true) (hp : x.prog = .stage 1 (BitVec.ofNat 128 r.tag)) :
    endScan s r w = s.setStrand r.core r.strand { x with prog := .stage 2 w } := by
  rw [endScan, State.modStrand_some _ _ _ _ _ hx, hp]
  simp [hw]

end

/-! ### O48 -/

/-- A write of one counter leaves the others. -/
theorem counters_set (l : Vector Counter 4) (i j : Nat) (x : Counter) (hi : i < 4) :
    (l.setIfInBounds i x).getD j Counter.reset = if j = i then x else l.getD j Counter.reset := by
  by_cases h : j < 4
  · simp [Vector.getD, h, Array.getElem_setIfInBounds, eq_comm]
  · simp [Vector.getD, h, show j ≠ i by omega]

/-- Settles O48: each event unfolds to the write of the control word, or of the leaf, that it makes. -/
theorem clusterControl : Obligations.ClusterControl := by
  unfold Obligations.ClusterControl
  refine ⟨fun s cl => ?_, ?_, ?_, ?_, ?_, ?_, ?_⟩
  · exact ⟨exec_clusterPowerGate, exec_clusterWake_begin, fun _ => exec_clusterWake_end⟩
  · rintro s m id c slot b hc hs hb rfl ha
    dsimp only
    refine ⟨fun h => ?_, fun h hn => ?_⟩
    · have h' : bits (entryHi b) 8 2 ≠ 3 ∨ bindsSupervisor s c { part := m.part, cls := m.cls } = true := by
        rw [bindsSupervisor_iff, ← bits_kept]; exact h
      refine ⟨_, exec_routineTableWrite hc hs hb ha (fun pa hpa hpa8 => ctlStore_entry hs hb hpa hpa8 h'), ?_, ?_, ?_⟩
      · exact .of_cores (fun j => State.setCore_core_ne _ _ _ _) rfl
      · simp [boundCore, entryLo, entryHi]
      · intro j hj
        simp [boundCore, smGet_smPut_ne _ _ _ hj]
    · have h' : bits (entryHi b) 8 2 = 3 := by rw [← bits_kept]; exact h
      have hn' : bindsSupervisor s c { part := m.part, cls := m.cls } = false := by
        rw [← Bool.not_eq_true, bindsSupervisor_iff]; exact hn
      exact exec_routineTableWrite hc hs hb ha (fun pa _ hpa8 => ctlStore_entry_ignored hs hb hpa8 h' hn')
  · intro s m c i v hc hi
    dsimp only
    intro ha hm
    refine ⟨_, exec_eventCounterSelectWrite v hc hi ha hm, .of_cores (fun j hj => ?_) rfl, ?_, fun j hj => ?_⟩
    · rw [State.modCore_core, if_neg hj]
    · rw [State.modCore_core_self, counters_set _ _ _ _ hi, if_pos rfl]; rfl
    · rw [State.modCore_core_self, counters_set _ _ _ _ hi, if_neg hj]
  · intro s m cl v hcl hm ha
    exact exec_controlBlockWrite v hcl (by decide) rfl ha (ctlWrite_nogate s v (siteOf_cblockPa hcl (by decide)) hm)
  · intro s m c v k hc hm ha hh hv
    have hi : c % 16 < 16 := Nat.mod_lt _ (by decide)
    have hcl := clOf_lt hc
    have hw := ctlWrite_parkAct s (id := { part := m.part, cls := m.cls }) v
      (siteOf_cblockPa hcl (show 0x3000 + 8 * (c % 16) < 2 ^ 24 by omega)) hi hm
    rw [clOf_mul_add] at hw
    rw [exec_controlBlockWrite v hcl (by omega) (by omega) ha hw, State.modCore, State.modCore, parkActWrite_parked hh hv]
  · intro s cl r rest h
    dsimp only
    have hm (pa : Nat) : readD (s.modCluster cl (fun x => { x with scans := rest })) pa = readD s pa := readD_of_mem rfl pa
    refine ⟨fun h1 => ⟨?_, ?_⟩, fun h1 h2 => ⟨?_, ?_⟩, fun h1 h2 hlo => ⟨fun code pc hl => ⟨?_, ?_⟩, fun hl => ⟨?_, ?_⟩⟩⟩
    · exact exec_brackenScanComplete h (scanPage_notExecutable h1)
    · rintro n ⟨⟩
    · exact exec_brackenScanComplete h (scanPage_writable h1 h2)
    · rintro n ⟨⟩; exact readD_writeScan _ _ (by decide)
    · exact exec_brackenScanComplete h (scanPage_failed h1 h2 (by rw [hm, hlo]) hl)
    · rintro n ⟨⟩; exact readD_writeScan _ _ (by decide)
    · exact exec_brackenScanComplete h (scanPage_passed h1 h2 (by rw [hm, hlo]) hl)
    · rintro n ⟨⟩; exact readD_writeScan _ _ (by decide)
  · intro s r w x hx hw hp
    exact endScan_waiting w hx hw hp

end Sys2Proof.Machine
end

section
/-! What leaves every strand and every frame as it was: messages, events, levels, stages. -/

namespace Sys2Proof.Machine

/-- What each step of a fold keeps, the fold keeps. -/
theorem foldl_stays {α σ : Type} {f : σ → α → σ} {P : σ → Prop} (hP : ∀ s y, P s → P (f s y)) (l : List α) {s : σ} (hs : P s) :
    P (l.foldl f s) := by
  induction l generalizing s with
  | nil => exact hs
  | cons y l ih => exact ih (hP s y hs)

/-- The strands and the frames of every core are as they were. -/
def KeepsStrands (s t : State) : Prop := ∀ c, (t.core c).strands = (s.core c).strands ∧ (t.core c).frames = (s.core c).frames

namespace KeepsStrands

variable {s t u : State}

theorem refl (s : State) : KeepsStrands s s := fun _ => ⟨rfl, rfl⟩
theorem trans (h : KeepsStrands s t) (h' : KeepsStrands t u) : KeepsStrands s u :=
  fun c => ⟨(h' c).1.trans (h c).1, (h' c).2.trans (h c).2⟩
theorem strand (h : KeepsStrands s t) (c k : Nat) : t.strand c k = s.strand c k := by rw [State.strand, (h c).1, State.strand]
theorem frames (h : KeepsStrands s t) (c : Nat) : (t.core c).frames = (s.core c).frames := (h c).2
theorem of_cores (h : t.cores = s.cores) : KeepsStrands s t := fun c => by rw [State.core, h, State.core]; exact ⟨rfl, rfl⟩
theorem modCore (s : State) (c : Nat) {f : Core → Core} (h : ∀ x, (f x).strands = x.strands ∧ (f x).frames = x.frames) :
    KeepsStrands s (s.modCore c f) := fun j => by
  rw [State.modCore_core]
  split
  · next e => exact e ▸ h _
  · exact ⟨rfl, rfl⟩
theorem foldl {α : Type} {f : State → α → State} (h : ∀ s x, KeepsStrands s (f s x)) (l : List α) (s : State) :
    KeepsStrands s (l.foldl f s) :=
  foldl_stays (P := KeepsStrands s) (fun _ _ ht => ht.trans (h _ _)) l (refl s)

end KeepsStrands

/-! ### Messages and events -/

/-- What neither the fabric, nor a die's count of its writes, nor the flits that are kept bear on, a flit that is sent leaves
as it was. -/
theorem send_field {α : Type} {g : State → α} (hd : ∀ s d f, g (s.modDie d f) = g s) (hl : ∀ s f, g (enterLink s f) = g s)
    (hn : ∀ s n, g { s with net := n } = g s) (hk : ∀ s k q r, g { s with kept := k, seqs := q, psent := r } = g s)
    (s : State) (src : Nat) (who : Ident) (d : Dest) (cls : Nat) (m : Msg) : g (send s src who d cls m) = g s := by
  have h1 : g (if m.isWrite then s.modDie (dieOf src) (fun x => { x with writes := x.writes + 1 }) else s) = g s := by
    split
    · exact hd _ _ _
    · rfl
  rw [send, hk]
  calc
    _ = _ := apply_ite g _ _ _
    _ = _ := ite_congr rfl (fun _ => hl _ _) (fun _ => hn _ _)
    _ = g s := (ite_self _).trans h1

theorem enterLink_cores (s : State) (f : Flit) : (enterLink s f).cores = s.cores := by
  rw [enterLink]
  split <;> rfl
theorem enterLink_clusters (s : State) (f : Flit) : (enterLink s f).clusters = s.clusters := by
  rw [enterLink]
  split <;> rfl
theorem enterLink_mem (s : State) (f : Flit) : (enterLink s f).mem = s.mem := by
  rw [enterLink]
  split <;> rfl
@[simp] theorem send_cores (s : State) (src : Nat) (who : Ident) (d : Dest) (cls : Nat) (m : Msg) :
    (send s src who d cls m).cores = s.cores :=
  send_field (g := State.cores) (fun _ _ _ => rfl) enterLink_cores (fun _ _ => rfl) (fun _ _ _ _ => rfl) _ _ _ _ _ _
@[simp] theorem send_clusters (s : State) (src : Nat) (who : Ident) (d : Dest) (cls : Nat) (m : Msg) :
    (send s src who d cls m).clusters = s.clusters :=
  send_field (g := State.clusters) (fun _ _ _ => rfl) enterLink_clusters (fun _ _ => rfl) (fun _ _ _ _ => rfl) _ _ _ _ _ _
@[simp] theorem send_mem (s : State) (src : Nat) (who : Ident) (d : Dest) (cls : Nat) (m : Msg) :
    (send s src who d cls m).mem = s.mem :=
  send_field (g := State.mem) (fun _ _ _ => rfl) enterLink_mem (fun _ _ => rfl) (fun _ _ _ _ => rfl) _ _ _ _ _ _
@[simp] theorem sendNotice_cores (s : State) (src : Nat) (who : Ident) (ans : DWord) (st : AnswerState) (dflt : Bool) :
    (sendNotice s src who ans st dflt).cores = s.cores := by
  rw [sendNotice]
  split <;> simp
@[simp] theorem sendUnit_cores (s : State) (c : Nat) (d : Dest) (cls : Nat) (m : Msg) : (sendUnit s c d cls m).cores = s.cores :=
  send_cores _ _ _ _ _ _
@[simp] theorem postEvent_cores (s : State) (cl : Nat) (r : List Byte) : (postEvent s cl r).cores = s.cores := by
  rw [postEvent]
  split
  · rw [putEvent, State.modCluster_cores, writeBytes_cores]
  · rfl
@[simp] theorem writeD_cores (s : State) (pa : Nat) (v : DWord) : (writeD s pa v).cores = s.cores := writeBytes_cores _ _ _
theorem devWrite_cores {s t : State} {p : Nat} {part : BitVec 6} {va : Word} {b : List Byte}
    (h : devWrite s p part va b = .ok t) : t.cores = s.cores := by
  rw [devWrite] at h
  split at h
  · cases h
  · cases h; exact writeBytes_cores _ _ _

@[simp] theorem sendNotice_clusters (s : State) (src : Nat) (who : Ident) (ans : DWord) (st : AnswerState) (dflt : Bool) :
    (sendNotice s src who ans st dflt).clusters = s.clusters := by
  rw [sendNotice]
  split <;> simp
/-- A numbered flit is kept until its acknowledgement comes. -/
theorem send_kept (s : State) (src : Nat) (who : Ident) (d : Dest) {cls : Nat} (m : Msg) (h : cls ≠ clsRSP ∧ cls ≠ clsENG) :
    (send s src who d cls m).kept.map Kept.what = s.kept.map Kept.what ++ [(src, d, cls, m)] := by
  have h1 : (if m.isWrite then s.modDie (dieOf src) (fun x => { x with writes := x.writes + 1 }) else s).kept = s.kept := by
    split <;> rfl
  rw [send]
  dsimp only
  rw [if_pos (decide_eq_true h), h1, List.map_append]
  rfl
@[simp] theorem sendNotice_mem (s : State) (src : Nat) (who : Ident) (ans : DWord) (st : AnswerState) (dflt : Bool) :
    (sendNotice s src who ans st dflt).mem = s.mem := by
  rw [sendNotice]
  split <;> simp
/-- A notice goes to the answer's HOME, and to its COMPUTE where that is another core. -/
theorem sendNotice_sent (s : State) (c : Nat) (who : Ident) (ans : DWord) (st : AnswerState) (dflt : Bool) :
    Sent s (sendNotice s c who ans st dflt) c (notices ans (if st.broken then .broken ans st dflt else .resolution ans st dflt)) := by
  rw [sendNotice, Sent, notices]
  split
  · rw [send_kept _ _ _ _ _ (by decide)]; rfl
  · rw [send_kept _ _ _ _ _ (by decide), send_kept _ _ _ _ _ (by decide), List.append_assoc]; rfl

/-! ### Starts, levels and stages -/

theorem KeepsStrands.divert (s : State) (c : Nat) (d : Diverted) : KeepsStrands s (divert s c d) := by
  rw [Machine.divert]
  refine trans (t := match spillVa s c (s.core c).diverted.length with
    | some va => (devWrite s (pkgOf c) (s.core c).part va ((List.range 64).map (Config.spillByte s.tick))).toOption.getD s
    | none => s) ?_ (.modCore _ _ (fun _ => ⟨rfl, rfl⟩))
  split
  · next va _ =>
    cases hw : devWrite s (pkgOf c) (s.core c).part va ((List.range 64).map (Config.spillByte s.tick)) with
    | error e => exact refl s
    | ok t => exact of_cores (devWrite_cores hw)
  · exact refl s

theorem KeepsStrands.queueAt (s : State) (c slot : Nat) (q : Start) : KeepsStrands s (queueAt s c slot q) := by
  rw [Machine.queueAt]
  split
  · exact .modCore _ _ (fun _ => ⟨rfl, rfl⟩)
  · exact refl s
  · exact .divert _ _ _

theorem KeepsStrands.phaseDone (s : State) (pa : Nat) (ph : BitVec 16) : KeepsStrands s (phaseDone s pa ph) := by
  rw [Machine.phaseDone]
  exact trans (of_cores (by rfl)) (.foldl (fun _ _ => .queueAt _ _ _ _) _ _)

theorem levelDone_cores (s : State) (p : Nat) (part : BitVec 6) (pa : Nat) (w : DWord) :
    (levelDone s p part pa w).cores = s.cores := by
  have h : ∀ st : AnswerState, ((if hIsAnswer (readD s (pa + 16)) then
      sendNotice (writeD s pa (setBits w 59 2 2)) (levelCl pa * 16) (shepherdIdent part) (readD s (pa + 16)) st false
      else writeD s pa (setBits w 59 2 2))).cores = s.cores := fun st => by split <;> simp
  rw [levelDone]
  split
  · exact h _
  · split
    · exact h _
    · rw [postEvent_cores]; exact h _

theorem KeepsStrands.finishChildren (s : State) (p : Nat) (part : BitVec 6) (pa n : Nat) :
    KeepsStrands s (finishChildren s p part pa n) := by
  rw [Machine.finishChildren]
  dsimp only
  split
  · exact refl s
  split
  · exact of_cores rfl
  generalize h0 : (if lvOut (readD s pa) < n then s.countShepherd (levelCl pa) 0x21 1 (some part) else s) = s0
  have h0 : KeepsStrands s s0 := by
    rw [← h0]
    split
    · exact of_cores rfl
    · exact refl s
  split
  · exact h0.trans (of_cores (writeD_cores _ _ _))
  generalize h1 : (if lvKind (readD s pa) = 3 then Machine.phaseDone s0 pa (lvPhase (readD s pa)) else s0) = s1
  have h1 : KeepsStrands s s1 := by
    rw [← h1]
    split
    · exact h0.trans (.phaseDone _ _ _)
    · exact h0
  split
  · exact h1.trans (of_cores (writeD_cores _ _ _))
  · exact h1.trans (of_cores (levelDone_cores _ _ _ _ _))

theorem KeepsStrands.finishLevelVa (s : State) (p : Nat) (part : BitVec 6) (level : DWord) (n : Nat) :
    KeepsStrands s (finishLevelVa s p part level n) := by
  rw [Machine.finishLevelVa]
  split
  · exact refl s
  · split
    · exact refl s
    · exact .finishChildren _ _ _ _ _

theorem KeepsStrands.unbindInstance (s : State) (e : Nat × Nat × Nat × Bool) : KeepsStrands s (unbindInstance s e) :=
  .modCore _ _ (fun _ => ⟨rfl, rfl⟩)

theorem KeepsStrands.finishStage (s : State) (cl n i inst inSlot : Nat) (out : Option Nat) (pub : Bool) :
    KeepsStrands s (finishStage s cl n i inst inSlot out pub) := by
  rw [Machine.finishStage]
  split
  · exact refl s
  · exact trans (of_cores (by rfl)) (.foldl .unbindInstance _ _)

theorem KeepsStrands.finishRole (s : State) (c : Nat) (x : Strand) (byHandler : Bool) :
    KeepsStrands s (finishRole s c x byHandler) := by
  rw [Machine.finishRole]
  split
  · exact refl s
  · split
    · exact .finishLevelVa _ _ _ _ _
    · exact refl s
  · exact .finishStage _ _ _ _ _ _ _ _
  · exact .finishLevelVa _ _ _ _ _

theorem KeepsStrands.dropKnown (s : State) (c : Nat) : KeepsStrands s (dropKnown s c) := .modCore _ _ (fun _ => ⟨rfl, rfl⟩)

end Sys2Proof.Machine
end

section
/-! The selector and its order, promotion, parking, and the end of a strand (02 R63, R64, R68, R69; 12 R251). -/

namespace Sys2Proof.Machine

/-! ### The selector's order (02 R68) -/

theorem Cand.before_iff (a b : Cand) : a.before b = true ↔
    b.prio < a.prio ∨ a.prio = b.prio ∧ (a.arrival < b.arrival ∨ a.arrival = b.arrival ∧ a.slot < b.slot) := by
  simp [Cand.before]
theorem Cand.before_asymm {a b : Cand} (h : a.before b = true) : b.before a = false := by
  rw [← Bool.not_eq_true, before_iff]
  rw [before_iff] at h
  omega
/-- What is not after `b` is not after what `b` is not after. -/
theorem Cand.not_before_trans {a b c : Cand} (h : a.before b = false) (h' : b.before c = false) : a.before c = false := by
  rw [← Bool.not_eq_true, before_iff] at h h' ⊢
  omega

/-- The better of what has been found and the next. -/
def takeBest (acc : Option Cand) (d : Cand) : Option Cand :=
  match acc with
  | none => some d
  | some b => if d.before b then some d else some b
theorem bestCand_eq (l : List Cand) : bestCand l = l.foldl takeBest none := rfl

theorem takeBest_some (acc : Option Cand) (d : Cand) : ∃ b, takeBest acc d = some b ∧ (b = d ∨ acc = some b) ∧
    d.before b = false ∧ ∀ e, acc = some e → e.before b = false := by
  have hd : d.before d = false := by
    rw [← Bool.not_eq_true, Cand.before_iff]; omega
  cases acc with
  | none => exact ⟨d, rfl, .inl rfl, hd, by rintro e ⟨⟩⟩
  | some b =>
    cases h : d.before b with
    | true => exact ⟨d, by simp [takeBest, h], .inl rfl, hd, by rintro e ⟨⟩; exact Cand.before_asymm h⟩
    | false =>
      refine ⟨b, by simp [takeBest, h], .inr rfl, h, ?_⟩
      rintro e ⟨⟩
      rw [← Bool.not_eq_true, Cand.before_iff]; omega

theorem foldl_takeBest {l : List Cand} {acc : Option Cand} {d : Cand} (h : l.foldl takeBest acc = some d) :
    (d ∈ l ∨ acc = some d) ∧ (∀ e ∈ l, e.before d = false) ∧ ∀ e, acc = some e → e.before d = false := by
  induction l generalizing acc with
  | nil =>
    refine ⟨.inr h, by simp, fun e he => ?_⟩
    obtain rfl : d = e := Option.some.inj (h.symm.trans he)
    rw [← Bool.not_eq_true, Cand.before_iff]; omega
  | cons x l ih =>
    obtain ⟨b, hb, hfrom, hx, hacc⟩ := takeBest_some acc x
    rw [List.foldl_cons, hb] at h
    obtain ⟨hd, hl, hbd⟩ := ih h
    have hbd := hbd b rfl
    refine ⟨?_, ?_, fun e he => Cand.not_before_trans (hacc e he) hbd⟩
    · rcases hd with hd | hd
      · exact .inl (List.mem_cons_of_mem _ hd)
      · obtain rfl := Option.some.inj hd
        exact hfrom.imp_left (fun h => by simp [h])
    · intro e he
      rcases List.mem_cons.mp he with rfl | he
      · exact Cand.not_before_trans hx hbd
      · exact hl e he

/-- The selector takes one of the candidates, and none is before it. -/
theorem bestCand_first {l : List Cand} {d : Cand} (h : bestCand l = some d) : d ∈ l ∧ ∀ e ∈ l, e.before d = false := by
  rw [bestCand_eq] at h
  obtain ⟨hd, hl, -⟩ := foldl_takeBest h
  exact ⟨hd.resolve_right (by simp), hl⟩

/-! ### The start of a strand (02 R63, R64) -/

section
variable {s : State} {c idx n : Nat} {d : Cand} {q : Start}

/-- The routine and the state after the head of a slot's queue has been taken. -/
def takenRoutine (r : Routine) : Routine := { r with queue := r.queue.drop 1, waited := 0, raised := false }
def takenState (s : State) (c slot : Nat) : State :=
  s.modCore c (fun co =>
    { co with routines := smPut co.routines slot (takenRoutine (smGet Routine.reset (s.core c).routines slot)) })
theorem takenState_routine (s : State) (c slot : Nat) : smGet Routine.reset ((takenState s c slot).core c).routines slot =
    takenRoutine (smGet Routine.reset (s.core c).routines slot) := by
  simp [takenState]

theorem takeStart_queue {slot : Nat} (hq : (smGet Routine.reset (s.core c).routines slot).queue.head? = some q) :
    takeStart s c slot false = some (takenState s c slot, q) := by
  simp [takeStart, takenState, takenRoutine, hq]

/-- The state after a strand has taken an index and a frame. -/
def startedState (s : State) (c idx n : Nat) (x : Strand) : State :=
  (s.setStrand c idx x).modCore c (fun co => { co with frames := setBit co.frames n true })

theorem takenState_strand (s : State) (c slot j i : Nat) : (takenState s c slot).strand j i = s.strand j i := by
  rw [takenState]
  refine KeepsStrands.strand (.modCore s c ?_) j i
  exact fun _ => ⟨rfl, rfl⟩
theorem startedState_strand (s : State) (c idx n : Nat) (x : Strand) (j i : Nat) :
    (startedState s c idx n x).strand j i = if j = c ∧ i = idx then some x else s.strand j i := by
  rw [startedState, State.strand, State.modCore_core]
  by_cases hj : j = c
  · subst hj
    rw [if_pos rfl, State.setStrand_core_self, smGet_smPut]
    by_cases hi : i = idx <;> simp [hi, State.strand]
  · rw [if_neg hj, if_neg (fun h => hj h.1), State.setStrand_core_ne _ _ _ _ _ hj, State.strand]

theorem startedState_strand_self (s : State) (c idx n : Nat) (x : Strand) : (startedState s c idx n x).strand c idx = some x := by
  rw [startedState_strand, if_pos ⟨rfl, rfl⟩]

theorem startStrand_plain {slot : BitVec 5} {r : Routine} (h1 : q.target = 0) (h2 : q.taskRec = none) (h3 : q.receiver = [])
    (h4 : q.pc.isSome = true ∨ r.handler ≠ 0) :
    startStrand s c idx n slot r q =
      startedState s c idx n (entryStrand s c n slot (q.pc.getD (space0 r.handler)) (q.prio.getD r.prio) q) := by
  have h5 : ¬(q.pc.isNone ∧ r.handler = 0) := by
    rcases h4 with h4 | h4
    · simp [Option.isNone_iff_eq_none, Option.isSome_iff_ne_none.mp h4]
    · exact fun h => h4 h.2
  simp only [startStrand, h1, ne_eq, not_true_eq_false, false_and, if_false, if_neg h5, h2, h3, List.isEmpty_nil, if_true]
  rfl

theorem exec_strandSelect_plain (h1 : coreIdle s c = false) (h2 : bestCand (unheld s c) = some d)
    (h3 : freeIdx (s.core c) = some idx) (h4 : freeFrame (s.core c) = some n) (h5 : banked (s.core c) < 8)
    (h6 : d.stage = false) (hq : (smGet Routine.reset (s.core c).routines d.slot).queue.head? = some q) (hctx : q.ctx = none) :
    exec (.strandSelect c) s = .next (startStrand (takenState s c d.slot) c idx n (BitVec.ofNat 5 d.slot)
      (smGet Routine.reset ((takenState s c d.slot).core c).routines d.slot) q) := by
  have hfree : contextFree s c = true := by simp [contextFree, h3, h4, h5]
  change execStrandSelect c s = _
  simp only [execStrandSelect, h1, Bool.false_eq_true, if_false, h2, h3, h4, hfree, Bool.not_true, h5, if_true]
  cases parkable s c <;> simp only [h6, takeStart_queue hq, hctx]

theorem exec_routinePromotion {slot p : Nat} (h1 : 4096 < (smGet Routine.reset (s.core c).routines slot).waited)
    (h2 : (smGet Routine.reset (s.core c).routines slot).raised = false)
    (hp : ((smGet Routine.reset (s.core c).routines slot).queue.head?.map
      (fun h => (h.prio.getD (smGet Routine.reset (s.core c).routines slot).prio).toNat)).getD
      (smGet Routine.reset (s.core c).routines slot).prio.toNat = p) (h3 : p < 2) :
    exec (.routinePromotion c slot) s = .next (s.modCore c (fun co => { co with
      routines := smPut co.routines slot { smGet Routine.reset (s.core c).routines slot with raised := true } })) := by
  subst hp
  change execRoutinePromotion c slot s = _
  rw [execRoutinePromotion]
  refine if_pos ⟨h1, by simp [h2], ?_⟩
  cases hq : (smGet Routine.reset (s.core c).routines slot).queue.head? with
  | none => simpa [hq] using h3
  | some q => simpa [hq] using h3

end

/-! ### Parking (02 R69) -/

/-- A table lists each of its values at its key. -/
theorem smGet_of_mem {β : Type} [DecidableEq β] {d v : β} {m : SMap β} {lo k : Nat} (w : smWfFrom d lo m = true)
    (h : (k, v) ∈ m) : smGet d m k = v ∧ lo ≤ k := by
  induction m generalizing lo with
  | nil => simp at h
  | cons p t ih =>
    obtain ⟨j, u⟩ := p
    simp only [smWfFrom, Bool.and_eq_true, decide_eq_true_eq] at w
    obtain ⟨⟨hj, -⟩, ht⟩ := w
    rcases List.mem_cons.mp h with h | h
    · cases h; exact ⟨by simp [smGet], hj⟩
    · obtain ⟨h1, h2⟩ := ih ht h
      exact ⟨by rw [smGet, if_neg (by omega), h1], by omega⟩

theorem strand_of_mem_live {s : State} {c k : Nat} {x : Strand} (w : smWf none (s.core c).strands = true)
    (h : (k, x) ∈ liveStrands (s.core c)) : s.strand c k = some x := by
  simp only [liveStrands, List.mem_filterMap] at h
  obtain ⟨⟨j, y⟩, hj, hy⟩ := h
  cases y with
  | none => simp at hy
  | some y =>
    cases hy
    exact (smGet_of_mem w hj).1

theorem mem_live_of_strand {s : State} {c k : Nat} {x : Strand} (h : s.strand c k = some x) : (k, x) ∈ liveStrands (s.core c) := by
  have hm : ∀ m : SMap (Option Strand), smGet none m k = some x → (k, some x) ∈ m := by
    intro m
    induction m with
    | nil => simp
    | cons p t ih =>
      obtain ⟨j, v⟩ := p
      rw [smGet]
      split
      · next e => subst e; rintro rfl; exact List.mem_cons_self
      · exact fun h => List.mem_cons_of_mem _ (ih h)
  exact List.mem_filterMap.mpr ⟨_, hm _ h, rfl⟩

/-- The core of `parkStrand`, with the strand at its new place. -/
theorem parkStrand_strands (co : Core) (k : Nat) (x : Strand) : ∃ p, (parkStrand co k x).strands =
    smPut co.strands k (some { x with place := p }) := by
  rw [parkStrand]
  split
  · exact ⟨_, rfl⟩
  · split <;> exact ⟨_, rfl⟩

/-- A strand that a step has moved to the save area. -/
def movedTo (old : State) (c : Nat) (p : Nat × Strand) : Bool :=
  p.2.place == .saved && (old.strand c p.1).any (fun y => y.place != .saved)
/-- The record that the save area takes of it, and the state that holds it. -/
def movedRecord (s : State) (c : Nat) (p : Nat × Strand) : List Byte :=
  recordBytes (s.core c) c p.1 p.2 { code := cNone, eva := 0 } p.2.pc 0 (saveKey s p.1) s.turn.free
def withRecord (s : State) (c : Nat) (st : State) (p : Nat × Strand) : State :=
  clearPoison (writeBytes st (hardRecord c p.1) (movedRecord s c p)) (hardRecord c p.1) 2048

theorem writeMoved_eq (old s : State) (c : Nat) : writeMoved old s c =
    (liveStrands (s.core c)).foldl (fun st p => if movedTo old c p then withRecord s c st p else st) s := rfl

theorem foldl_if_none {α σ : Type} {f : σ → α → σ} {cond : α → Bool} {l : List α} (h : ∀ y ∈ l, cond y = false) (s : σ) :
    l.foldl (fun st y => if cond y then f st y else st) s = s := by
  induction l generalizing s with
  | nil => rfl
  | cons y l ih =>
    rw [List.foldl_cons, if_neg (by simp [h y]), ih (fun z hz => h z (List.mem_cons_of_mem _ hz))]

/-- A fold in which only `x` has an effect ends with that effect. -/
theorem foldl_if_one {α σ : Type} [DecidableEq α] {f : σ → α → σ} {cond : α → Bool} {x : α} {R : σ → Prop}
    (hR : ∀ u, R u → R (f u x)) {l : List α} (hx : x ∈ l) (hc : cond x = true) (h : ∀ y ∈ l, cond y = true → y = x) {s : σ}
    (hs : R s) : ∃ u, R u ∧ l.foldl (fun st y => if cond y then f st y else st) s = f u x := by
  induction l generalizing s with
  | nil => simp at hx
  | cons y l ih =>
    have hl : ∀ z ∈ l, cond z = true → z = x := fun z hz => h z (List.mem_cons_of_mem _ hz)
    rw [List.foldl_cons]
    by_cases hxl : x ∈ l
    · refine ih hxl hl ?_
      split
      · next hy => rw [h y List.mem_cons_self hy]; exact hR _ hs
      · exact hs
    · obtain rfl : x = y := (List.mem_cons.mp hx).resolve_right hxl
      refine ⟨s, hs, ?_⟩
      rw [if_pos hc, foldl_if_none]
      exact fun z hz => Bool.eq_false_iff.mpr (fun hcz => hxl (hl z hz hcz ▸ hz))

/-! ### The record of a strand in the save area (09 R186) -/

theorem readBytes_add (s : State) (pa m n : Nat) : readBytes s pa (m + n) = readBytes s pa m ++ readBytes s (pa + m) n := by
  induction m generalizing pa with
  | zero => simp [readBytes]
  | succ m ih => rw [Nat.succ_add, readBytes, ih, readBytes, List.cons_append, show pa + 1 + m = pa + (m + 1) by omega]

/-- A part of the bytes that have been written. -/
theorem readBytes_of_written {s : State} {pa : Nat} {a b c : List Byte}
    (h : readBytes s pa (a ++ b ++ c).length = a ++ b ++ c) : readBytes s (pa + a.length) b.length = b := by
  rw [List.length_append, List.length_append, readBytes_add, readBytes_add] at h
  have h1 := List.append_inj_left h (by simp [readBytes_length])
  exact List.append_inj_right h1 (readBytes_length _ _ _)

theorem length_flatMap_const {α β : Type} {f : α → List β} {n : Nat} (h : ∀ a, (f a).length = n) (l : List α) :
    (l.flatMap f).length = n * l.length := by
  induction l with
  | nil => rfl
  | cons a l ih => rw [List.flatMap_cons, List.length_append, h, ih, List.length_cons]; ring

/-- The fields of a record from CAUSE on, and those from the loop levels on. -/
def recordLoops (x : Strand) : List Byte :=
  leBytes 8 (bits x.l0.lb 0 64) ++ leBytes 8 (bits x.l0.le 0 64) ++ leBytes 8 (if x.l0.busy then x.l0.lc.toNat else 0) ++
  leBytes 8 (bits x.l1.lb 0 64) ++ leBytes 8 (bits x.l1.le 0 64) ++ leBytes 8 (if x.l1.busy then x.l1.lc.toNat else 0) ++
  leBytes 8 (b2n x.l1.busy * 2 + b2n x.l0.busy)
def recordHead (co : Core) (x : Strand) (cause : Cause) : List Byte :=
  leBytes 8 (cause.code.toNat * 2 ^ 58) ++ leBytes 16 cause.eva.toNat ++ leBytes 8 co.fctl.toNat ++ leBytes 8 co.fstat.toNat ++
  (x.k.toList.drop 1).flatMap (fun (w : KWord) => leBytes 2 w.toNat) ++ leBytes 2 0
def recordStack (x : Strand) (k : Nat) (vpc : Word) (con : Nat) : List Byte :=
  ((x.rs ++ List.replicate 8 0).take 8).flatMap (fun (w : DWord) => leBytes 8 w.toNat) ++ leBytes 8 (min 8 x.rs.length) ++
  leBytes 8 x.hold.toNat ++ leBytes 8 (tidOf x k).toNat ++ leBytes 8 (bits vpc 0 64) ++ leBytes 8 con ++ List.replicate 24 0
def recordRegs (x : Strand) : List Byte := x.s.toList.flatMap (fun (w : Word) => leBytes 16 w.toNat)
def recordVector (x : Strand) : List Byte := x.v.toList.flatMap (fun (w : VWord) => leBytes 16 w.toNat)
/-- CON of a record. -/
def contribBits (x : Strand) : Nat :=
  match x.contrib with
  | some q => b2n (!q.arrived) * 2 ^ 62 + b2n q.arrived * 2 ^ 61 + b2n q.outcome * 2 ^ 60 + q.fold.val * 2 ^ 56
  | none => 0

theorem recordRegs_length (x : Strand) : (recordRegs x).length = 256 := by
  rw [recordRegs, length_flatMap_const (fun _ => leBytes_length _ _), Vector.length_toList]
theorem recordVector_length (x : Strand) : (recordVector x).length = 512 := by
  rw [recordVector, length_flatMap_const (fun _ => leBytes_length _ _), Vector.length_toList]
theorem recordLoops_length (x : Strand) : (recordLoops x).length = 56 := by
  simp only [recordLoops, List.length_append, leBytes_length]
theorem recordHead_length (co : Core) (x : Strand) (cause : Cause) : (recordHead co x cause).length = 56 := by
  simp only [recordHead, List.length_append, leBytes_length, length_flatMap_const (fun _ => leBytes_length _ _),
    List.length_drop, Vector.length_toList]
theorem recordStack_length (x : Strand) (k : Nat) (vpc : Word) (con : Nat) : (recordStack x k vpc con).length = 128 := by
  simp only [recordStack, List.length_append, leBytes_length, length_flatMap_const (fun _ => leBytes_length _ _),
    List.length_take, List.length_replicate]
  omega
theorem residueBytes_length (check : DWord) (core key : Nat) : (residueBytes check core key).length = 1024 := by
  rw [residueBytes, List.length_append, List.length_append, List.length_append, leBytes_length, leBytes_length, leBytes_length,
    List.length_map, List.length_range]

section
variable (co : Core) (c k : Nat) (x : Strand) (cause : Cause) (epc vpc : Word) (key : Nat) (check : DWord)

/-- The fields of a record that follow STATUS. -/
def recordTail : List Byte :=
  recordHead co x cause ++ (recordLoops x ++ (recordStack x k vpc (contribBits x) ++ (recordVector x ++ residueBytes check c key)))

theorem recordBytes_eq : recordBytes co c k x cause epc vpc key check =
    recordRegs x ++ (leBytes 8 (bits epc 0 64) ++ (leBytes 8 (statusOf x).toNat ++ recordTail co c k x cause vpc key check)) := by
  delta recordBytes recordTail recordRegs recordHead recordLoops recordStack recordVector contribBits
  simp only [List.append_assoc] <;> rfl

theorem recordBytes_length : (recordBytes co c k x cause epc vpc key check).length = 2048 := by
  rw [recordBytes_eq, recordTail]
  simp only [List.length_append, leBytes_length, recordRegs_length, recordHead_length, recordLoops_length, recordStack_length,
    recordVector_length, residueBytes_length]

/-- Register `i` stands at byte 16 i of the record. -/
theorem recordBytes_reg (i : Fin 16) : ∃ a b, recordBytes co c k x cause epc vpc key check =
    a ++ leBytes 16 (x.s.get i).toNat ++ b ∧ a.length = 16 * i.val := by
  have hi : i.val < x.s.toList.length := by simp
  have hs : x.s.toList = x.s.toList.take i.val ++ x.s.get i :: x.s.toList.drop (i.val + 1) := by
    conv_lhs => rw [← List.take_append_drop i.val x.s.toList, List.drop_eq_getElem_cons hi]
    rfl
  have hr : recordRegs x = (x.s.toList.take i.val).flatMap (fun (w : Word) => leBytes 16 w.toNat) ++
      leBytes 16 (x.s.get i).toNat ++ (x.s.toList.drop (i.val + 1)).flatMap (fun (w : Word) => leBytes 16 w.toNat) := by
    rw [recordRegs, hs, List.flatMap_append, List.flatMap_cons, ← List.append_assoc, ← hs]
  refine ⟨_, _, (recordBytes_eq co c k x cause epc vpc key check).trans (by rw [hr, List.append_assoc]), ?_⟩
  rw [length_flatMap_const (fun _ => leBytes_length _ _), List.length_take]
  omega

/-- STATUS stands at byte 0x108. -/
theorem recordBytes_status : ∃ a b, recordBytes co c k x cause epc vpc key check =
    a ++ leBytes 8 (statusOf x).toNat ++ b ∧ a.length = 0x108 := by
  refine ⟨recordRegs x ++ leBytes 8 (bits epc 0 64), recordTail co c k x cause vpc key check, ?_, ?_⟩
  · rw [recordBytes_eq, List.append_assoc, List.append_assoc]
  · rw [List.length_append, leBytes_length, recordRegs_length]

end

/-! ### A strand that is parked (02 R69) -/

section
variable {s : State} {c k : Nat} {x : Strand} {p : Place}

/-- The state whose strand has left its bank, before the save area is written. -/
def parkedState (s : State) (c k : Nat) (x : Strand) : State := s.modCore c (fun co => parkStrand co k x)

theorem parkedState_strand (hp : (parkStrand (s.core c) k x).strands = smPut (s.core c).strands k (some { x with place := p }))
    (j i : Nat) : (parkedState s c k x).strand j i = if j = c ∧ i = k then some { x with place := p } else s.strand j i := by
  rw [State.strand, parkedState, State.modCore_core]
  by_cases hj : j = c
  · subst hj
    rw [if_pos rfl, hp, smGet_smPut]
    by_cases hi : i = k <;> simp [hi, State.strand]
  · rw [if_neg hj, if_neg (fun h => hj h.1), State.strand]

/-- No strand but the one that is parked is moved. -/
theorem movedTo_parked (hw : smWf none (s.core c).strands = true)
    (hp : (parkStrand (s.core c) k x).strands = smPut (s.core c).strands k (some { x with place := p }))
    {y : Nat × Strand} (hy : y ∈ liveStrands ((parkedState s c k x).core c)) (hm : movedTo s c y = true) :
    y = (k, { x with place := p }) ∧ p = .saved := by
  have hw' : smWf none ((parkedState s c k x).core c).strands = true := by
    rw [parkedState, State.modCore_core_self, hp]
    exact smWfFrom_smPut (by omega) (by simp) hw
  have hs := strand_of_mem_live hw' hy
  rw [parkedState_strand hp] at hs
  simp only [movedTo, Bool.and_eq_true, beq_iff_eq, Option.any_eq_true, bne_iff_ne] at hm
  obtain ⟨h1, z, hz, h2⟩ := hm
  by_cases hj : y.1 = k
  · rw [if_pos ⟨rfl, hj⟩, Option.some.injEq] at hs
    exact ⟨Prod.ext hj hs.symm, by rw [← hs] at h1; exact h1⟩
  · rw [if_neg (fun h => hj h.2), hz, Option.some.injEq] at hs
    exact absurd (hs ▸ h1) h2

theorem parkAt_unsaved (hw : smWf none (s.core c).strands = true)
    (hp : (parkStrand (s.core c) k x).strands = smPut (s.core c).strands k (some { x with place := p })) (hn : p ≠ .saved) :
    parkAt s c k x = parkedState s c k x := by
  rw [parkAt, writeMoved_eq]
  exact foldl_if_none (fun y hy => Bool.eq_false_iff.mpr (fun h => hn (movedTo_parked hw hp hy h).2)) _

theorem clearPoison_cores (s : State) (pa n : Nat) : (clearPoison s pa n).cores = s.cores := rfl
theorem clearPoison_mem (s : State) (pa n : Nat) : (clearPoison s pa n).mem = s.mem := rfl
theorem withRecord_cores (s : State) (c : Nat) (u : State) (y : Nat × Strand) : (withRecord s c u y).cores = u.cores := by
  rw [withRecord, clearPoison_cores, writeBytes_cores]
theorem withRecord_mem (s : State) (c : Nat) (u : State) (y : Nat × Strand) :
    (withRecord s c u y).mem = (writeBytes u (hardRecord c y.1) (movedRecord s c y)).mem := by
  rw [withRecord, clearPoison_mem]
theorem movedRecord_length (s : State) (c : Nat) (y : Nat × Strand) : (movedRecord s c y).length = 2048 := by
  rw [movedRecord, recordBytes_length]
theorem withRecord_byte_out (s : State) (c : Nat) (u : State) (y : Nat × Strand) {q : Nat}
    (h : q < hardRecord c y.1 ∨ hardRecord c y.1 + 2048 ≤ q) : (withRecord s c u y).byte q = u.byte q := by
  rw [byte_of_mem (withRecord_mem s c u y), writeBytes_byte_out _ _ _ _ (by rwa [movedRecord_length])]
theorem readBytes_withRecord (s : State) (c : Nat) (u : State) (y : Nat × Strand) :
    readBytes (withRecord s c u y) (hardRecord c y.1) (movedRecord s c y).length = movedRecord s c y := by
  rw [readBytes_of_mem (withRecord_mem s c u y), readBytes_writeBytes]

/-- A strand that is parked in the save area has its record there; other memory and every core are as the parking left them. -/
theorem parkAt_saved (hx : s.strand c k = some x) (hb : x.place = .bank) (hw : smWf none (s.core c).strands = true)
    (hp : (parkStrand (s.core c) k x).strands = smPut (s.core c).strands k (some { x with place := .saved })) :
    (parkAt s c k x).cores = (parkedState s c k x).cores ∧
      (∀ q, q < hardRecord c k ∨ hardRecord c k + 2048 ≤ q → (parkAt s c k x).byte q = s.byte q) ∧
      let b := movedRecord (parkedState s c k x) c (k, { x with place := .saved })
      readBytes (parkAt s c k x) (hardRecord c k) b.length = b := by
  let R := fun u : State => u.cores = (parkedState s c k x).cores ∧
    ∀ q, q < hardRecord c k ∨ hardRecord c k + 2048 ≤ q → u.byte q = s.byte q
  have hmem : (k, { x with place := .saved }) ∈ liveStrands ((parkedState s c k x).core c) :=
    mem_live_of_strand (by rw [parkedState_strand hp, if_pos ⟨rfl, rfl⟩])
  have hcond : movedTo s c (k, { x with place := .saved }) = true := by
    simp [movedTo, hx, hb]
  obtain ⟨u, ⟨h1, h2⟩, hu⟩ := foldl_if_one (R := R) (f := withRecord (parkedState s c k x) c)
    (fun u hu => ⟨(withRecord_cores _ _ _ _).trans hu.1, fun q hq => (withRecord_byte_out _ _ _ _ hq).trans (hu.2 q hq)⟩)
    hmem hcond (fun y hy hm => (movedTo_parked hw hp hy hm).1) (s := parkedState s c k x) ⟨rfl, fun q _ => rfl⟩
  have ht : parkAt s c k x = withRecord (parkedState s c k x) c u (k, { x with place := .saved }) := by
    rw [parkAt, writeMoved_eq]; exact hu
  rw [ht]
  exact ⟨(withRecord_cores _ _ _ _).trans h1, fun q hq => (withRecord_byte_out _ _ _ _ hq).trans (h2 q hq),
    readBytes_withRecord _ _ _ _⟩

/-! ### Where a strand is parked -/

theorem parkStrand_full {co : Core} (h : 4 ≤ ((liveStrands co).filter (fun p => p.2.place == .parked)).length) :
    parkStrand co k x = { co with strands := smPut co.strands k (some { x with place := .saved }) } := if_pos h
theorem parkStrand_tile {co : Core} {n : Nat} (h : ¬4 ≤ ((liveStrands co).filter (fun p => p.2.place == .parked)).length)
    (ht : (List.range 16).find? (fun t => !bit co.tileAlloc t && (smGet none co.tileStrand t).isNone) = some n) :
    parkStrand co k x = { co with
      strands := smPut co.strands k (some { x with place := .parked }), tileStrand := smPut co.tileStrand n (some k) } := by
  rw [parkStrand, if_neg h, ht]
theorem parkStrand_noTile {co : Core} (h : ¬4 ≤ ((liveStrands co).filter (fun p => p.2.place == .parked)).length)
    (ht : (List.range 16).find? (fun t => !bit co.tileAlloc t && (smGet none co.tileStrand t).isNone) = none) :
    parkStrand co k x = { co with
      strands := smPut co.strands k (some { x with place := if banked co < 8 then .parked else .saved }) } := by
  rw [parkStrand, if_neg h, ht]

theorem exec_strandParkContext (hx : s.strand c k = some x) (hm : mayPark s c k x = true) :
    exec (.strandParkContext c k) s = .next (parkAt s c k x) := by
  change execStrandParkContext c k s = _
  simp only [execStrandParkContext, hx, hm, if_true]

theorem place_of_mayPark (h : mayPark s c k x = true) : x.place = .bank := by
  simp only [mayPark, Bool.and_eq_true, beq_iff_eq] at h
  exact h.1.1.1.1

/-- A strand that leaves its bank for a tile or an idle bank changes its core alone. -/
theorem parked_unsaved (hx : s.strand c k = some x) (hm : mayPark s c k x = true) (hw : smWf none (s.core c).strands = true)
    (hp : (parkStrand (s.core c) k x).strands = smPut (s.core c).strands k (some { x with place := .parked })) :
    ∃ t, exec (.strandParkContext c k) s = .next t ∧ OnlyCore s t c ∧ OnlyStrand s t c k ∧
      t.strand c k = some { x with place := .parked } ∧ t.core c = parkStrand (s.core c) k x := by
  refine ⟨parkedState s c k x, ?_, ?_, fun j i h => ?_, ?_, State.modCore_core_self _ _ _⟩
  · rw [exec_strandParkContext hx hm, parkAt_unsaved hw hp (by decide)]
  · exact .of_cores (fun j hj => (State.modCore_core _ _ _ _).trans (if_neg hj)) rfl
  · rw [parkedState_strand hp, if_neg (by omega)]
  · rw [parkedState_strand hp, if_pos ⟨rfl, rfl⟩]

/-- A strand that goes to the save area has its context there. -/
theorem parked_saved (hx : s.strand c k = some x) (hm : mayPark s c k x = true) (hw : smWf none (s.core c).strands = true)
    (hp : (parkStrand (s.core c) k x).strands = smPut (s.core c).strands k (some { x with place := .saved })) :
    ∃ t, exec (.strandParkContext c k) s = .next t ∧ OnlyStrand s t c k ∧ t.strand c k = some { x with place := .saved } ∧
      (∀ q, q < hardRecord c k ∨ hardRecord c k + 2048 ≤ q → t.byte q = s.byte q) ∧
      (∀ i : Fin 16, readBytes t (hardRecord c k + 16 * i.val) 16 = leBytes 16 (x.s.get i).toNat) ∧
      readD t (hardRecord c k + 0x108) = statusOf x := by
  obtain ⟨hc, hq, hb⟩ := parkAt_saved hx (place_of_mayPark hm) hw hp
  have hs (j i : Nat) : (parkAt s c k x).strand j i = (parkedState s c k x).strand j i := by
    rw [State.strand, State.core, hc]; rfl
  refine ⟨_, exec_strandParkContext hx hm, fun j i h => ?_, ?_, hq, fun i => ?_, ?_⟩
  · rw [hs, parkedState_strand hp, if_neg (by omega)]
  · rw [hs, parkedState_strand hp, if_pos ⟨rfl, rfl⟩]
  · obtain ⟨a, d, h, ha⟩ := recordBytes_reg ((parkedState s c k x).core c) c k { x with place := .saved }
      { code := cNone, eva := 0 } x.pc 0 (saveKey (parkedState s c k x) k) (parkedState s c k x).turn.free i
    rw [movedRecord, h] at hb
    have h1 := readBytes_of_written hb
    rwa [leBytes_length, ha] at h1
  · obtain ⟨a, d, h, ha⟩ := recordBytes_status ((parkedState s c k x).core c) c k { x with place := .saved }
      { code := cNone, eva := 0 } x.pc 0 (saveKey (parkedState s c k x) k) (parkedState s c k x).turn.free
    rw [movedRecord, h] at hb
    have h1 := readBytes_of_written hb
    rw [leBytes_length, ha] at h1
    rw [readD, readU, h1, leVal_leBytes, Nat.mod_eq_of_lt (by simpa using (statusOf _).isLt), BitVec.ofNat_toNat,
      BitVec.setWidth_eq]
    rfl

end

/-! ### The end of a strand (12 R251) -/

theorem bit_setBit_false {w : Nat} (x : BitVec w) (n : Nat) : bit (setBit x n false) n = false := by
  by_cases h : n < w
  · rw [bit_setBit _ _ _ _ h, if_pos rfl]
  · exact BitVec.getLsbD_of_ge _ _ (by omega)

/-- The core that a strand leaves, apart from its frame. -/
def leftCore (k : Nat) (co : Core) : Core :=
  let sp := match co.spec with
    | some sp => if sp.strand = k then none else co.spec
    | none => none
  { co with strands := smErase co.strands k, spec := sp, tileStrand := co.tileStrand.filter (fun t => t.2 != some k) }
/-- The state in which a strand of its own core's frame has left its core. -/
def leftState (s : State) (c k : Nat) (x : Strand) : State :=
  s.modCore c (fun co => leftCore k { co with frames := setBit co.frames x.frame.num false })

theorem leftState_strand (s : State) (c k : Nat) (x : Strand) (j i : Nat) :
    (leftState s c k x).strand j i = if j = c ∧ i = k then none else s.strand j i := by
  rw [State.strand, leftState, State.modCore_core]
  by_cases hj : j = c
  · subst hj
    rw [if_pos rfl, leftCore, smGet_smErase]
    by_cases hi : i = k <;> simp [hi, State.strand]
  · rw [if_neg hj, if_neg (fun h => hj h.1), State.strand]

section
variable {s : State} {c k : Nat} {x : Strand}

/-- Whoever owns the frame, the strand is gone from its core, and its own frame is free. -/
theorem dropContext_left (s : State) (c k : Nat) (x : Strand) (byHandler : Bool) :
    (dropContext s c k x byHandler).strand c k = none ∧
      (x.frame.owner = c → bit ((dropContext s c k x byHandler).core c).frames x.frame.num = false) := by
  rw [dropContext]
  generalize gangLeave (leaveFolds s c k x.memb) c k = s1
  dsimp only
  have hk (s3 : State) : KeepsStrands s3 (dropKnown (finishRole s3 c x byHandler) c) :=
    (KeepsStrands.finishRole _ _ _ _).trans (.dropKnown _ _)
  refine ⟨?_, fun ho => ?_⟩
  · rw [(hk _).strand, State.strand, State.modCore_core_self, State.dropStrand, State.modCore_core_self, smGet_smErase_self]
  · rw [(hk _).frames, State.modCore_core_self, State.dropStrand, State.modCore_core_self, if_pos ho, State.modCore_core_self,
      bit_setBit_false]

theorem leaveFolds_none (s : State) (c k : Nat) : leaveFolds s c k 0 = s := by
  simp [leaveFolds, bit]

theorem gangLeave_absent (h : (barrierOf s c).waiting.contains (c, k) = false) : gangLeave s c k = s := by
  rw [gangLeave, gangStarted, h, Bool.and_false, if_neg (by decide), gangRelease, h, Bool.false_and, if_neg (by decide)]

/-- A strand on which nothing else hangs leaves its core, and no more. -/
theorem dropContext_plain {byHandler : Bool} (ho : x.frame.owner = c) (hr : x.role = .plain) (hm : x.memb = 0)
    (hb : (barrierOf s c).waiting.contains (c, k) = false) :
    dropContext s c k x byHandler = dropKnown (leftState s c k x) c := by
  rw [dropContext, hm, leaveFolds_none, gangLeave_absent hb]
  simp only [if_pos ho, finishRole, hr]
  rw [leftState, State.dropStrand]
  simp only [State.modCore, State.setCore_setCore, State.setCore_core_self]
  rfl

end

/-- END whose staged commands have been published ends the strand. -/
theorem exec_endStrand {s s1 : State} {a : Actor} {f : Bare} (h : Runs s a f.g) (hs : a.spec s = none) (hq : seqIdle a.x = true)
    (hr : releaseReady s a = .ok ()) (hp : publishStrand s a.core a.k none = some s1) :
    exec (.endStrand f) s = .next (endStrand s1 a.core a.k a.x (if a.x.tm then ansBroken a.x.cause a.core else ansValue []) a.x.tm) := by
  obtain ⟨hat, hg, -⟩ := h
  change execEndStrand f s = _
  rw [execEndStrand, accessOp_eq hat, hg, if_pos rfl, noSpec, hs]
  simp only [Option.isSome_none, Bool.false_eq_true, if_false, hq, Bool.not_true, hr, hp]
  rfl

theorem framePointer_of_cfg {s t : State} {c : Nat} (h : t.cfg c = s.cfg c) (n : Nat) : framePointer t c n = framePointer s c n := by
  rw [framePointer, framePointer, h]
theorem takenState_cfg (s : State) (c slot : Nat) : (takenState s c slot).cfg c = s.cfg c := by
  simp [State.cfg, takenState]

/-- What the end of a strand sends: nothing, or the default notice of its answer. -/
theorem endStrand_sent {s : State} {c k : Nat} {x : Strand} {byHandler : Bool} (st : AnswerState) (ho : x.frame.owner = c)
    (hr : x.role = .plain) (hm : x.memb = 0) (hb : (barrierOf s c).waiting.contains (c, k) = false) :
    OnlyStrand s (endStrand s c k x st byHandler) c k ∧ (∀ pa, (endStrand s c k x st byHandler).byte pa = s.byte pa) ∧
      Sent s (endStrand s c k x st byHandler) c (match pendingAnswer x with
        | none => []
        | some h => notices h (if st.broken then .broken h st true else .resolution h st true)) := by
  have hd (u : State) (hu : u.cores = s.cores) (hcl : u.clusters = s.clusters) :
      OnlyStrand s (dropContext u c k x byHandler) c k ∧ (dropContext u c k x byHandler).mem = u.mem ∧
        (dropContext u c k x byHandler).kept = u.kept := by
    have hb' : (barrierOf u c).waiting.contains (c, k) = false := by rwa [barrierOf, State.cluster, hcl]
    rw [dropContext_plain ho hr hm hb']
    refine ⟨fun j i h => ?_, rfl, rfl⟩
    rw [(KeepsStrands.dropKnown _ _).strand, leftState_strand, if_neg (by omega), State.strand, State.core, hu]
    rfl
  rw [endStrand]
  cases hp : pendingAnswer x with
  | none =>
    obtain ⟨h1, h2, h3⟩ := hd s rfl rfl
    exact ⟨h1, byte_of_mem h2, by rw [Sent, h3]; exact (List.append_nil _).symm⟩
  | some h =>
    obtain ⟨h1, h2, h3⟩ := hd (sendNotice s c (unitIdent s c) h st true) (sendNotice_cores _ _ _ _ _ _)
      (sendNotice_clusters _ _ _ _ _ _)
    exact ⟨h1, byte_of_mem (h2.trans (sendNotice_mem _ _ _ _ _ _)),
      (congrArg (List.map Kept.what) h3).trans (sendNotice_sent _ _ _ _ _ _)⟩

/-- The answer of END is broken in trap mode alone. -/
theorem endAnswer_msg (tm : Bool) (h : DWord) (cause : Code) (c : Nat) :
    (if (if tm then ansBroken cause c else ansValue []).broken then
      Msg.broken h (if tm then ansBroken cause c else ansValue []) true
      else .resolution h (if tm then ansBroken cause c else ansValue []) true) =
    if tm then .broken h (ansBroken cause c) true else .resolution h (ansValue []) true := by
  cases tm <;> rfl

/-- Settles O44: the order of the selector is a strict weak order; a strand that is parked is the only one whose record the save
area takes; the end of a strand is its notice and the release of its context. -/
theorem strandSelection : Obligations.StrandSelection := by
  unfold Obligations.StrandSelection
  refine ⟨⟨fun l d => bestCand_first, ?_, ?_, ?_⟩, ?_⟩
  · intro s c idx n d q h1 h2 h3 h4 h5 h6
    dsimp only
    intro hq hctx ht htr hrc hpc
    refine ⟨_, _, (exec_strandSelect_plain h1 h2 h3 h4 h5 h6 hq hctx).trans
      (by rw [takenState_routine, startStrand_plain (r := takenRoutine _) ht htr hrc hpc]), ?_, fun j i h => ?_,
      startedState_strand_self _ _ _ _ _, ?_, rfl, rfl, rfl, rfl, rfl, rfl, rfl, rfl, rfl, rfl, rfl, rfl, rfl, ?_, ?_⟩
    · refine .of_cores (fun j hj => ?_) rfl
      rw [startedState, State.modCore_core, if_neg hj, State.setStrand_core_ne _ _ _ _ _ hj, takenState, State.modCore_core, if_neg hj]
    · rw [startedState_strand, if_neg (by omega), takenState_strand]
    · simp only [entryStrand, framePointer_of_cfg (takenState_cfg s c d.slot)]
    · simp [startedState, takenState]
    · rw [startedState, State.modCore_core_self, State.setStrand_core_self, takenState_routine]; rfl
  · intro s c slot
    exact fun h1 h2 h3 => exec_routinePromotion h1 h2 rfl h3
  · intro s c k x hx hm hw
    dsimp only
    refine ⟨fun n h4 ht => ?_, fun h4 ht hb => ?_, fun h => parked_saved hx hm hw ?_⟩
    · have hp := parkStrand_tile (k := k) (x := x) (by omega) ht
      obtain ⟨t, h1, h2, h3, h5, h6⟩ := parked_unsaved hx hm hw (by rw [hp])
      exact ⟨t, h1, h2, h3, h5, by rw [h6, hp]; exact smGet_smPut_self _ _ _ _⟩
    · have hp := parkStrand_noTile (k := k) (x := x) (by omega) ht
      rw [if_pos hb] at hp
      obtain ⟨t, h1, h2, h3, h5, h6⟩ := parked_unsaved hx hm hw (by rw [hp])
      exact ⟨t, h1, h2, h3, h5, by rw [h6, hp]⟩
    · by_cases h4 : 4 ≤ ((liveStrands (s.core c)).filter (fun p => p.2.place == .parked)).length
      · rw [parkStrand_full h4]
      · obtain ⟨ht, hb⟩ := h.resolve_left h4
        rw [parkStrand_noTile h4 ht, if_neg (by omega)]
  · intro s a f s1 h hs hq hr hp
    refine ⟨⟨_, exec_endStrand h hs hq hr hp, ?_⟩, ?_⟩
    · rw [endStrand]
      exact dropContext_left _ _ _ _ _
    · rintro rfl ho hrole hmemb hbar
      obtain ⟨h1, h2, h3⟩ := endStrand_sent (byHandler := a.x.tm)
        (if a.x.tm then ansBroken a.x.cause a.core else ansValue []) ho hrole hmemb hbar
      refine ⟨_, exec_endStrand h hs hq hr hp, (by rw [endStrand]; exact (dropContext_left _ _ _ _ _).1), h1, h2, ?_⟩
      simp only [endAnswer_msg] at h3
      exact h3

end Sys2Proof.Machine
end

section
/-! What happens at a fold's root leaves strands, frames and clusters as they were (02 R77, R78; 17 R370; 22 R444). -/

namespace Sys2Proof.Machine

/-- The strands and frames of every core, and every cluster, are as they were. -/
def RootOnly (s t : State) : Prop := KeepsStrands s t ∧ t.clusters = s.clusters

namespace RootOnly

variable {s t u : State}

theorem refl (s : State) : RootOnly s s := ⟨.refl s, rfl⟩
theorem trans (h : RootOnly s t) (h' : RootOnly t u) : RootOnly s u := ⟨h.1.trans h'.1, h'.2.trans h.2⟩
theorem of_cores (h : t.cores = s.cores) (h' : t.clusters = s.clusters) : RootOnly s t := ⟨.of_cores h, h'⟩
theorem strand (h : RootOnly s t) (c k : Nat) : t.strand c k = s.strand c k := h.1.strand c k
theorem cluster (h : RootOnly s t) (cl : Nat) : t.cluster cl = s.cluster cl := by rw [State.cluster, h.2, State.cluster]
theorem foldl {α : Type} {f : State → α → State} (h : ∀ s x, RootOnly s (f s x)) (l : List α) (s : State) :
    RootOnly s (l.foldl f s) :=
  foldl_stays (P := RootOnly s) (fun _ _ ht => ht.trans (h _ _)) l (refl s)

theorem sendRoot (s : State) (p c : Nat) (m : Msg) : RootOnly s (sendRoot s p c m) :=
  of_cores (send_cores _ _ _ _ _ _) (send_clusters _ _ _ _ _ _)
theorem modFold (s : State) (p : Nat) (f : Fin 16) (g : Fold → Fold) : RootOnly s (s.modFold p f g) := of_cores rfl rfl
theorem modPkg (s : State) (p : Nat) (g : Package → Package) : RootOnly s (s.modPkg p g) := of_cores rfl rfl

theorem finishRound (s : State) (p : Nat) (f : Fin 16) (r : FoldRound) (v : FoldValue) (n : Nat) :
    RootOnly s (finishRound s p f r v n) :=
  (modFold _ _ _ _).trans (foldl (fun _ _ => sendRoot _ _ _ _) _ _)
theorem finishCred (s : State) (p : Nat) (f : Fin 16) (r : CredRound) (x : CredIn) : RootOnly s (finishCred s p f r x) :=
  (modFold _ _ _ _).trans (foldl (fun _ _ => sendRoot _ _ _ _) _ _)

theorem farSettle (s : State) (p : Nat) (f : Fin 16) (n : Nat) : RootOnly s (farSettle s p f n) := by
  rw [Machine.farSettle]
  split
  · exact refl s
  · dsimp only
    split
    · exact finishRound _ _ _ _ _ _
    · exact refl s
theorem farSettleCred (s : State) (p : Nat) (f : Fin 16) (n : Nat) : RootOnly s (farSettleCred s p f n) := by
  rw [Machine.farSettleCred]
  split
  · exact refl s
  · split
    · exact refl s
    · split
      · exact refl s
      · exact finishCred _ _ _ _ _
theorem foldApply (s : State) (p n : Nat) (op : LeaOp) : RootOnly s (foldApply s p n op) := by
  cases op with
  | fold => exact (modFold _ _ _ _).trans (farSettle _ _ _ _)
  | cred => exact (modFold _ _ _ _).trans (farSettleCred _ _ _ _)
  | _ => exact refl s

/-- Cores that are changed in place, their strands and frames not. -/
theorem mapCores (s : State) {g : Nat × Core → Nat × Core}
    (h : ∀ q, (g q).1 = q.1 ∧ (g q).2.strands = q.2.strands ∧ (g q).2.frames = q.2.frames) :
    RootOnly s { s with cores := s.cores.map g } := by
  refine ⟨fun c => ?_, rfl⟩
  have hm : ∀ m : SMap Core, (smGet Core.reset (m.map g) c).strands = (smGet Core.reset m c).strands ∧
      (smGet Core.reset (m.map g) c).frames = (smGet Core.reset m c).frames := by
    intro m
    induction m with
    | nil => exact ⟨rfl, rfl⟩
    | cons q m ih =>
      obtain ⟨h1, h2⟩ := h q
      rw [List.map_cons, smGet, smGet, h1]
      split
      · exact h2
      · exact ih
  exact hm s.cores

theorem leaApplied (s : State) (p n : Nat) : RootOnly s (leaApplied s p n) := by
  rw [Machine.leaApplied]
  refine (modPkg s p _).trans (mapCores _ (fun q => ?_))
  split <;> exact ⟨rfl, rfl, rfl⟩
theorem leaQueue (s : State) (p : Nat) (op : LeaOp) : RootOnly s (leaQueue s p op) := by
  rw [Machine.leaQueue]
  split
  · exact ((modPkg _ _ _).trans (foldApply _ _ _ _)).trans (leaApplied _ _ _)
  · exact modPkg _ _ _

theorem closeRound (p : Nat) (f : Fin 16) (s : State) (r : FoldRound) : RootOnly s (closeRound p f s r) := by
  rw [Machine.closeRound]
  split
  · exact refl s
  · split
    · exact finishRound _ _ _ _ _ _
    · exact (modFold _ _ _ _).trans (leaQueue _ _ _)
theorem closeCred (p : Nat) (f : Fin 16) (s : State) (r : CredRound) : RootOnly s (closeCred p f s r) := by
  rw [Machine.closeCred]
  split
  · exact refl s
  · split
    · exact finishCred _ _ _ _ _
    · exact (modFold _ _ _ _).trans (foldl (fun _ _ => leaQueue _ _ _) _ _)
theorem settleFold (s : State) (p : Nat) (f : Fin 16) : RootOnly s (settleFold s p f) :=
  (foldl (closeRound p f) _ _).trans (foldl (closeCred p f) _ _)
theorem foldForget (s : State) (c k : Nat) (f : Fin 16) (made : Nat) : RootOnly s (foldForget s c k f made) :=
  (modFold _ _ _ _).trans (settleFold _ _ _)

end RootOnly

end Sys2Proof.Machine
end

section
/-! Rounds of folds and their outcomes (02 R78; 17 R374). -/

namespace Sys2Proof.Machine

/-! ### The value of a round -/

/-- The value of contributions that follow the value `v`. -/
def gotValue (v : FoldValue) (l : List FoldIn) : FoldValue := l.foldl (fun v g => v.join (FoldValue.ofPred g.kind g.pred)) v
theorem FoldRound.value_eq (r : FoldRound) : r.value = gotValue FoldValue.none r.got := rfl

theorem gotValue_all (v : FoldValue) (l : List FoldIn) : (gotValue v l).all = (v.all && l.all (·.pred)) := by
  induction l generalizing v with
  | nil => exact (Bool.and_true _).symm
  | cons g l ih => exact (ih _).trans (Bool.and_assoc _ _ _)
theorem gotValue_any (v : FoldValue) (l : List FoldIn) : (gotValue v l).any = (v.any || l.any (·.pred)) := by
  induction l generalizing v with
  | nil => exact (Bool.or_false _).symm
  | cons g l ih => exact (ih _).trans (Bool.or_assoc _ _ _)
/-- Bit `i` of KINDS tells whether kind `i` has come. -/
theorem gotValue_kinds (v : FoldValue) (l : List FoldIn) {i : Nat} (hi : i < 3) :
    (gotValue v l).kinds.getLsbD i = (v.kinds.getLsbD i || l.any (fun g => g.kind == i)) := by
  induction l generalizing v with
  | nil => exact (Bool.or_false _).symm
  | cons g l ih =>
    refine (ih _).trans ?_
    have hb : (BitVec.ofNat 3 (2 ^ g.kind)).getLsbD i = (g.kind == i) := by
      rw [BitVec.getLsbD_ofNat, decide_eq_true hi, Bool.true_and, Nat.testBit_two_pow]
      rfl
    have hj : (v.join (FoldValue.ofPred g.kind g.pred)).kinds = v.kinds ||| BitVec.ofNat 3 (2 ^ g.kind) := rfl
    rw [hj, BitVec.getLsbD_or, hb, List.any_cons, Bool.or_assoc]
theorem FoldRound.value_kinds (r : FoldRound) {i : Nat} (hi : i < 3) :
    r.value.kinds.getLsbD i = r.got.any (fun g => g.kind == i) := by
  have h0 : FoldValue.none.kinds.getLsbD i = false := BitVec.getLsbD_zero
  rw [value_eq, gotValue_kinds _ _ hi, h0, Bool.false_or]

/-- Two bits of KINDS say that the contributions differ. -/
theorem failed_of_bits {v : FoldValue} {i j : Nat} (hi : i < 3) (hj : j < 3) (h : i ≠ j) (h1 : v.kinds.getLsbD i = true)
    (h2 : v.kinds.getLsbD j = true) : v.failed = true := by
  have hx : ∀ x : BitVec 3, ∀ i < 3, ∀ j < 3, i ≠ j → x.getLsbD i = true → x.getLsbD j = true →
      (!(x == 0 || x == 1 || x == 2 || x == 4)) = true := by decide
  exact hx v.kinds i hi j hj h h1 h2

theorem FoldRound.value_one_kind {r : FoldRound} {kind : Nat} (h0 : r.got ≠ [])
    (h : ∀ g ∈ r.got, g.kind = kind) : r.value.kinds = BitVec.ofNat 3 (2 ^ kind) := by
  refine BitVec.eq_of_getLsbD_eq (fun i hi => ?_)
  rw [value_kinds r hi, BitVec.getLsbD_ofNat, decide_eq_true hi, Bool.true_and, Nat.testBit_two_pow]
  obtain ⟨g, hg⟩ := List.exists_mem_of_ne_nil _ h0
  rw [Bool.eq_iff_iff, List.any_eq_true, decide_eq_true_eq]
  constructor
  · rintro ⟨e, he, hi⟩
    rw [← h e he]; exact beq_iff_eq.mp hi
  · rintro rfl
    exact ⟨g, hg, beq_iff_eq.mpr (h g hg)⟩

/-- A round of one kind has that kind's outcome. -/
theorem FoldRound.outcome_one_kind {r : FoldRound} {kind : Nat} (h0 : r.got ≠ []) (hk : kind < 3)
    (h : ∀ g ∈ r.got, g.kind = kind) : r.value.failed = false ∧
      r.value.outcome = if kind = 0 then r.got.all (·.pred) else if kind = 1 then r.got.any (·.pred) else true := by
  have hv := value_one_kind h0 h
  have ha : r.value.all = r.got.all (·.pred) := (gotValue_all _ _).trans (Bool.true_and _)
  have ho : r.value.any = r.got.any (·.pred) := (gotValue_any _ _).trans (Bool.false_or _)
  rw [FoldValue.failed, FoldValue.outcome, hv, ha, ho]
  match kind, hk with
  | 0, _ => exact ⟨by decide, rfl⟩
  | 1, _ => exact ⟨by decide, rfl⟩
  | 2, _ => exact ⟨by decide, rfl⟩

/-- A round in which two kinds have come fails. -/
theorem FoldRound.failed_of_kinds {r : FoldRound} {g e : FoldIn} (hg : g ∈ r.got) (he : e ∈ r.got) (hk : ∀ g ∈ r.got, g.kind < 3)
    (hne : g.kind ≠ e.kind) : r.value.failed = true := by
  have hb {y : FoldIn} (hy : y ∈ r.got) : r.value.kinds.getLsbD y.kind = true := by
    rw [value_kinds r (hk y hy), List.any_eq_true]
    exact ⟨y, hy, beq_self_eq_true _⟩
  exact failed_of_bits (hk g hg) (hk e he) hne (hb hg) (hb he)

end Sys2Proof.Machine
end

section
/-! Contributions, joins, leaves and ejections at a fold's root, outcomes at its members (02 R80 to R82; 17 R370 to R374). -/

namespace Sys2Proof.Machine

/-! ### The folds of a package -/

theorem modFold_fold (s : State) (p : Nat) (f : Fin 16) (g : Fold → Fold) : (s.modFold p f g).fold p f = g (s.fold p f) := by
  simp only [State.modFold, State.fold, State.modPkg, State.setPkg_pkg_self]
  exact Vector.getElem_set_self f.isLt
theorem enterLink_fold (p : Nat) (f : Fin 16) (s : State) (g : Flit) : (enterLink s g).fold p f = s.fold p f := by
  have h : ((enterLink s g).pkg p).folds = (s.pkg p).folds := by
    rw [enterLink]
    split
    · rfl
    · rw [State.setLink, State.modPkg, State.setPkg_pkg]
      split
      · next h => rw [h]
      · rfl
  rw [State.fold, h, State.fold]
theorem send_fold (s : State) (src : Nat) (who : Ident) (d : Dest) (cls : Nat) (m : Msg) (p : Nat) (f : Fin 16) :
    (send s src who d cls m).fold p f = s.fold p f :=
  send_field (g := fun s => s.fold p f) (fun _ _ _ => rfl) (enterLink_fold p f) (fun _ _ => rfl) (fun _ _ _ _ => rfl) _ _ _ _ _ _

/-- The end of a round sends every member the outcome, and no more. -/
theorem finishRound_kept (s : State) (p : Nat) (f : Fin 16) (r : FoldRound) (v : FoldValue) (n : Nat) :
    (finishRound s p f r v n).kept.map Kept.what = s.kept.map Kept.what ++ r.got.map (fun g =>
      (p * 4096, Dest.core g.core, clsCOL, Msg.foldOut f g.own g.strand v.outcome v.failed n)) := by
  have h (l : List FoldIn) (t : State) :
      (l.foldl (fun st g => sendRoot st p g.core (.foldOut f g.own g.strand v.outcome v.failed n)) t).kept.map Kept.what =
      t.kept.map Kept.what ++ l.map (fun g =>
        (p * 4096, Dest.core g.core, clsCOL, Msg.foldOut f g.own g.strand v.outcome v.failed n)) := by
    induction l generalizing t with
    | nil => exact (List.append_nil _).symm
    | cons g l ih => rw [List.foldl_cons, ih, sendRoot, send_kept _ _ _ _ _ (by decide), List.append_assoc]; rfl
  rw [finishRound, h]
  rfl
theorem finishRound_fold (s : State) (p : Nat) (f : Fin 16) (r : FoldRound) (v : FoldValue) (n : Nat) :
    (finishRound s p f r v n).fold p f = { s.fold p f with
      rounds := (s.fold p f).rounds.filter (fun q => q.round != r.round)
      far := (s.fold p f).far.filter (fun q => q.round != r.round) } := by
  have h (l : List FoldIn) (t : State) :
      (l.foldl (fun st g => sendRoot st p g.core (.foldOut f g.own g.strand v.outcome v.failed n)) t).fold p f = t.fold p f := by
    induction l generalizing t with
    | nil => rfl
    | cons g l ih => rw [List.foldl_cons, ih, sendRoot, send_fold]
  rw [finishRound, h, modFold_fold]

/-! ### Contributions (22 R444, R445) -/

section
variable {s u : State} {n : Nat} {f : Flit} {p : Nat} {fold : Fin 16} {g : FoldIn} {m : FoldMember} {r : FoldRound}

/-- A round of a fold of one package that has become full ends. -/
theorem closeRound_full (hp : (s.fold p fold).packages = []) (hf : r.full = true) (hs : r.sent = false) :
    closeRound p fold s r = finishRound s p fold r r.value 0 := by
  simp [closeRound, hf, hs, hp]

/-- The contribution that completes the only round of a fold of one package ends it. -/
theorem takeContribution_full {q : FoldRound}
    (hj : (s.fold p fold).joined.find? (fun y => y.core == g.core && y.strand == g.strand) = some m)
    (hp : (s.fold p fold).packages = []) (hc : (s.fold p fold).cred = []) (hr : (s.fold p fold).rounds = [r])
    (hn : r.round = m.base + g.own) (hb : r.round ≠ (s.fold p fold).base) (hq : q = { r with got := r.got ++ [g] })
    (hs : r.sent = false) (hf : q.full = true) : ∃ t, t.kept = s.kept ∧ (t.fold p fold).rounds = [q] ∧
      takeContribution s p fold g = finishRound t p fold q q.value 0 := by
  let add := fun (q : FoldRound) => if q.round = m.base + g.own then { q with got := q.got ++ [g] } else q
  let fo := s.fold p fold
  have hfo : (if m.base + g.own = fo.base then openFold s.now fo else fo) = fo := if_neg (by rw [← hn]; exact hb)
  have hadd : fo.rounds.map add = [q] := by rw [hr, List.map_singleton, hq]; exact congrArg (fun q => [q]) (if_pos hn)
  let t := s.modFold p fold (fun fo =>
    { (if m.base + g.own = fo.base then openFold s.now fo else fo) with
      rounds := (if m.base + g.own = fo.base then openFold s.now fo else fo).rounds.map add })
  have ht : t.fold p fold = { fo with rounds := [q] } := by
    rw [modFold_fold, hfo, hadd]
  have h1 : closeRound p fold t q = finishRound t p fold q q.value 0 :=
    closeRound_full (by rw [ht]; exact hp) hf (by rw [hq]; exact hs)
  have hcred : ((finishRound t p fold q q.value 0).fold p fold).cred = [] := by
    rw [finishRound_fold, ht]; exact hc
  refine ⟨t, rfl, by rw [ht], ?_⟩
  have h2 : takeContribution s p fold g = settleFold t p fold := by
    rw [takeContribution, hj]
  rw [h2, settleFold, ht]
  dsimp only [List.foldl_cons, List.foldl_nil]
  rw [h1, hcred, List.foldl_nil]

end

/-! ### Joins, leaves and ejections (02 R81; 17 R370) -/

section
variable {s u : State} {n c k : Nat} {f : Flit} {fold : Fin 16} {x : Strand}

theorem setWave_strands (s : State) (c : Nat) (f : Fin 16) (on : Bool) : KeepsStrands s (setWave s c f on) := .of_cores rfl
theorem setWave_wave (s : State) (c : Nat) (f : Fin 16) (on : Bool) :
    bit (((setWave s c f on).cluster (clOf c)).wave.get f) (c % 16) = on := by
  have h : ((setWave s c f on).cluster (clOf c)).wave.get f = setBit ((s.cluster (clOf c)).wave.get f) (c % 16) on := by
    rw [setWave]
    dsimp only
    rw [(RootOnly.modFold _ _ _ _).cluster, State.modCluster_cluster_self]
    exact Vector.getElem_set_self f.isLt
  rw [h, bit_setBit _ _ _ _ (Nat.mod_lt _ (by decide)), if_pos rfl]

/-- What the root records ends the wait of the strand for it, and no more. -/
theorem rootRecorded_strand (hx : s.strand c k = some x) : ∃ pr, (rootRecorded s c k).strand c k = some { x with prog := pr } := by
  rw [rootRecorded, State.modStrand_some _ _ _ _ _ hx, State.setStrand_strand_self]
  split
  · exact ⟨_, rfl⟩
  · exact ⟨x.prog, rfl⟩
theorem rootRecorded_cluster (s : State) (c k j : Nat) : (rootRecorded s c k).cluster j = s.cluster j := by
  simp [rootRecorded]

/-- A strand with its membership in a fold set or cleared, its rounds counted anew. -/
def membStrand (x : Strand) (f : Fin 16) (on : Bool) : Strand :=
  { x with memb := setBit x.memb f.val on, rounds := smErase x.rounds f.val, credRounds := smErase x.credRounds f.val }

theorem KeepsStrands.modStrand {t : State} (h : KeepsStrands s t) (hx : s.strand c k = some x) (g : Strand → Strand) :
    (t.modStrand c k g).strand c k = some (g x) := by
  rw [State.modStrand_some t c k g x (by rw [h.strand, hx]), State.setStrand_strand_self]

theorem foldJoin_recorded (hx : s.strand c k = some x) (fold : Fin 16) :
    (foldJoin s c k fold).strand c k = some (membStrand x fold true) ∧
      bit (((foldJoin s c k fold).cluster (clOf c)).wave.get fold) (c % 16) = true := by
  rw [foldJoin]
  refine ⟨((setWave_strands s c fold true).trans (RootOnly.modFold _ _ _ _).1).modStrand hx _, ?_⟩
  rw [State.modStrand_cluster, (RootOnly.modFold _ _ _ _).cluster, setWave_wave]

theorem foldLeave_recorded (hx : s.strand c k = some x) (fold : Fin 16) :
    (foldLeave s c k fold).strand c k = some (membStrand x fold false) ∧
      bit (((foldLeave s c k fold).cluster (clOf c)).wave.get fold) (c % 16) = false := by
  rw [foldLeave]
  refine ⟨((setWave_strands s c fold false).trans (RootOnly.foldForget _ _ _ _ _).1).modStrand hx _, ?_⟩
  rw [State.modStrand_cluster, (RootOnly.foldForget _ _ _ _ _).cluster, setWave_wave]

theorem ejectMember_strand (hx : s.strand c k = some x) (fold : Fin 16) : (ejectMember s c k fold).strand c k =
    some { membStrand x fold false with eject := setBit x.eject fold.val true } := by
  rw [ejectMember]
  exact ((setWave_strands s c fold false).trans (RootOnly.foldForget _ _ _ _ _).1).modStrand hx _

theorem membStrand_memb (x : Strand) (fold : Fin 16) (on : Bool) : bit (membStrand x fold on).memb fold.val = on := by
  rw [membStrand, bit_setBit _ _ _ _ fold.isLt, if_pos rfl]

/-- A join at the root of a core that is not yet a member. -/
theorem Arrives.takes_foldJoin {pa : Nat} (h : Arrives s n f u) (hd : f.dst = .block pa) (hm : f.msg = .foldJoin fold k)
    (hx : s.strand f.src k = some x) (hw : bit ((s.cluster (clOf f.src)).wave.get fold) (f.src % 16) = false) :
    Takes (.foldJoinRecorded n) s f (rootRecorded (foldJoin u f.src k fold) f.src k) := by
  change execFoldJoinRecorded n s = _
  rw [execFoldJoinRecorded, h.deliver]
  simp only [hd, hm, h.cluster, h.strand, hw, hx, Option.isNone_some, Bool.or_self, Bool.false_eq_true, if_false]

/-- A leave at the root of a member. -/
theorem Arrives.takes_foldLeave {pa : Nat} (h : Arrives s n f u) (hd : f.dst = .block pa) (hm : f.msg = .foldLeave fold k)
    (hx : s.strand f.src k = some x) (hw : bit x.memb fold.val = true) :
    Takes (.foldLeaveRecorded n) s f (rootRecorded (foldLeave u f.src k fold) f.src k) := by
  change execFoldLeaveRecorded n s = _
  rw [execFoldLeaveRecorded, h.deliver]
  simp only [hd, hm, h.strand, hx, Option.map_some, Option.getD_some, hw, if_true]

/-- A member that owes its contribution to the only round of a fold is ejected once the round has lasted the fold timeout. -/
theorem exec_foldEject {pkg : Nat} {r : FoldRound} (hr : (s.fold pkg fold).rounds = [r]) (hs : r.sent = false)
    (hl : r.since + foldLimit s c ≤ s.now)
    (ho : r.members.find? (fun m => m.1 == c && !(r.got.any (fun g => g.core == m.1 && g.strand == m.2))) = some (c, k)) :
    exec (.foldEject pkg fold c) s = .next (ejectMember s c k fold) := by
  change execFoldEject pkg fold c s = _
  simp only [execFoldEject, hr, List.findSome?_cons, hl, hs, decide_true, Bool.not_false, Bool.and_self, if_true, ho]

end

/-! ### Outcomes at the members (02 R80 to R82; 17 R372, R374) -/

section
variable {s u : State} {n c k : Nat} {f : Flit} {fold : Fin 16} {x : Strand} {q : Contribution} {sp : Spec}

theorem raiseLseq_strands (s : State) (c n : Nat) : KeepsStrands s (raiseLseq s c n) := .modCore _ _ (fun _ => ⟨rfl, rfl⟩)
theorem raiseLseq_spec (s : State) (c n : Nat) : ((raiseLseq s c n).core c).spec = (s.core c).spec := by
  simp [raiseLseq]

/-- The outcome of the contribution that a member waits for is taken. -/
theorem Arrives.takes_foldOutcome {t : State} {own lseq : Nat} {o failed : Bool} (h : Arrives s n f u) (hc : f.dst = .core c)
    (hm : f.msg = .foldOut fold own k o failed lseq) (hx : s.strand c k = some x) (hq : x.contrib = some q) (hf : q.fold = fold)
    (hr : q.round = own) (ha : q.arrived = false)
    (ht : takeOutcome (raiseLseq u c lseq) c k { q with arrived := true, outcome := o, failed := failed } = some (.next t)) :
    Takes (.foldOutcome n) s f t := by
  change execFoldOutcome n s = _
  rw [execFoldOutcome]
  refine h.deliverOut ?_
  simp only [hc, hm, h.strand, hx, Option.bind_some, hq, hf, hr, ha, and_self, if_true]
  subst hf hr
  exact ht

theorem takeOutcome_waiting (hs : (s.core c).spec = none) : takeOutcome s c k q =
    some (.next (s.modStrand c k (fun y => { y with contrib := some q, prog := .none }))) := by
  rw [takeOutcome, hs]
/-- An outcome that a speculation went against squashes it. -/
theorem takeOutcome_against (hs : (s.core c).spec = some sp) (hk : sp.strand = k) (h : q.failed = true ∨ q.outcome ≠ sp.hint) :
    takeOutcome s c k q = some (.next (squashSpec s c sp (some q))) := by
  have hg : (!q.failed && q.outcome == sp.hint) = false := by
    rcases h with h | h
    · simp [h]
    · simp [h]
  simp only [takeOutcome, hs, hk, ne_eq, not_true_eq_false, if_false, hg, Bool.false_eq_true]
theorem takeOutcome_guessed (hs : (s.core c).spec = some sp) (hk : sp.strand = k) (hf : q.failed = false) (ho : q.outcome = sp.hint) :
    takeOutcome s c k q = some (commitSpec s c sp) := by
  simp [takeOutcome, hs, hk, hf, ho]

theorem returnSlots_core (s : State) (c : Nat) (held : List Held) (j : Nat) : (returnSlots s c held).core j = s.core j := by
  rw [returnSlots]
  induction held generalizing s with
  | nil => rfl
  | cons h l ih =>
    rw [List.foldl_cons, ih]
    split
    · split
      · exact setSlot_core _ _ _ _ _ _
      · rfl
    · rfl

theorem endSpec_strands (s : State) (c : Nat) : KeepsStrands s (s.modCore c (fun co => { co with spec := none })) :=
  .modCore _ _ (fun _ => ⟨rfl, rfl⟩)
theorem modSpec_strands (s : State) (c : Nat) (g : Spec → Spec) : KeepsStrands s (modSpec s c g) := .modCore _ _ (fun _ => ⟨rfl, rfl⟩)
theorem modSpec_spec (g : Spec → Spec) (hs : (s.core c).spec = some sp) : ((modSpec s c g).core c).spec = some (g sp) := by
  rw [modSpec, State.modCore_core_self, hs]; rfl
theorem modStrand_spec (s : State) (c k : Nat) (g : Strand → Strand) (j : Nat) :
    ((s.modStrand c k g).core j).spec = (s.core j).spec := by
  rcases s.modStrand_eq c k g with h | ⟨x, -, h⟩
  · rw [h]
  · rw [h, State.setStrand, State.modCore_core]
    split
    · next e => rw [e]
    · rfl

/-- A squash leaves the checkpoint's registers at its CBR, and the contribution with its outcome. -/
theorem squashSpec_strand (hx : s.strand c k = some x) (hk : sp.strand = k) (q : Option Contribution) :
    ((squashSpec s c sp q).core c).spec = none ∧ ∃ y, (squashSpec s c sp q).strand c k = some y ∧ y.pc = sp.checkpoint.pc ∧
      y.s = sp.checkpoint.s ∧ y.k = sp.checkpoint.k ∧ y.v = sp.checkpoint.v ∧ y.contrib = q := by
  have h1 : (returnSlots s c sp.held).strand c k = some x := by rw [State.strand, returnSlots_core]; exact hx
  subst hk
  rw [squashSpec]
  refine ⟨?_, _, (endSpec_strands _ _).modStrand h1 _, rfl, rfl, rfl, rfl, rfl⟩
  rw [modStrand_spec, State.modCore_core_self]

/-- The state in which a speculation's path is confirmed, and its strand's contribution done. -/
def confirmedState (s : State) (c k : Nat) : State :=
  (modSpec s c (fun q => { q with confirmed := true })).modStrand c k (fun x => { x with contrib := none })

theorem confirmedState_strand (hx : s.strand c k = some x) : (confirmedState s c k).strand c k = some { x with contrib := none } :=
  (modSpec_strands _ _ _).modStrand hx _
theorem confirmedState_spec (hs : (s.core c).spec = some sp) :
    ((confirmedState s c k).core c).spec = some { sp with confirmed := true } := by
  rw [confirmedState, modStrand_spec, modSpec_spec _ hs]

/-- What the confirmation of a path that has met no trap leads to. -/
theorem commitSpec_eq (hk : sp.strand = k) (hd : sp.deferred = none) (hx : s.strand c k = some x) :
    commitSpec s c sp = if x.prog == .none then drainSpec (confirmedState s c k) c k else .next (confirmedState s c k) := by
  subst hk
  have h := confirmedState_strand hx
  rw [confirmedState] at h
  simp only [commitSpec, hd, Option.isSome_none, Bool.false_eq_true, if_false, h]
  rfl

theorem endCommit_none (s : State) (c k : Nat) : endCommit s c k none = s.modCore c (fun co => { co with spec := none }) := by
  simp [endCommit]

/-- A confirmed path that has nothing under way and nothing kept back is at its end. -/
theorem drainSpec_empty (hs : (s.core c).spec = some sp) (hx : s.strand c k = some x) (hb : sp.buf = []) (hh : sp.held = [])
    (hd : sp.deferred = none) : ∃ t, drainSpec s c k = .next t ∧ (t.core c).spec = none ∧ t.strand c k = some x := by
  have ha : ∃ a, slotActor s c k = some a := ⟨_, by rw [slotActor, hx]; rfl⟩
  obtain ⟨a, ha⟩ := ha
  have hdr : (if sp.atomicOut then Except.ok (s, sp.buf) else drainStores s a sp.buf) = .ok (s, []) := by
    rw [hb]
    cases sp.atomicOut <;> rfl
  let t := modSpec s c (fun q => { q with buf := [] })
  have ht : (t.core c).spec.bind (·.deferred) = none := by
    rw [modSpec_spec _ hs]; exact hd
  refine ⟨t.modCore c (fun co => { co with spec := none }), ?_, ?_, ?_⟩
  · rw [drainSpec, hs, ha]
    dsimp only
    rw [hdr]
    dsimp only
    rw [hh, drainHeld, ht, endCommit_none]
  · rw [State.modCore_core_self]
  · rw [(endSpec_strands _ _).strand, (modSpec_strands _ _ _).strand, hx]

/-- A member without an outcome traps at its collective instruction. -/
theorem exec_foldOutcomeTimeout (hx : s.strand c k = some x) (hq : x.contrib = some q) (ha : q.arrived = false)
    (hh : (s.core c).halt = .none) (hs : (s.core c).spec = none) (hl : q.since + foldLimit s c < s.now) :
    exec (.foldOutcomeTimeout c k) s = .next (raise (s.modStrand c k (fun y =>
      { y with contrib := none, prog := .none, wait := none })) c k .t { code := cFoldTimeout, eva := 0 } x.pc 0) := by
  change execFoldOutcomeTimeout c k s = _
  simp only [execFoldOutcomeTimeout, hx, Option.bind_some, hq, ha, hh, hs, show ¬ s.now ≤ q.since + foldLimit s c by omega,
    decide_false, Bool.or_self, bne_self_eq_false, Bool.false_eq_true, if_false, (KeepsStrands.refl s).modStrand hx]

end

end Sys2Proof.Machine
end

section
/-! The contributions that a root takes or leaves at the switch (22 R444, R445), and the events of folds together (02 R80 to R82). -/

namespace Sys2Proof.Machine

/-- A contribution waits at the switch while no entry is free. -/
theorem Arrives.foldContribution_waits {s u : State} {n pa own k kind : Nat} {f : Flit} {fold : Fin 16} {pred : Bool}
    (h : Arrives s n f u) (hd : f.dst = .block pa) (hm : f.msg = .foldIn fold own k kind pred)
    (he : entriesFit (takeContribution u (homePkg pa) fold { core := f.src, strand := k, own := own, kind := kind, pred := pred })
      (homePkg pa) = false) : exec (.foldContribution n) s = .next s := by
  change execFoldContribution n s = _
  rw [execFoldContribution, h.deliver_none]
  simp only [hd, hm, ifEntry, he, Bool.false_eq_true, if_false]
theorem Arrives.takes_foldContribution {s u : State} {n pa own k kind : Nat} {f : Flit} {fold : Fin 16} {pred : Bool}
    (h : Arrives s n f u) (hd : f.dst = .block pa) (hm : f.msg = .foldIn fold own k kind pred)
    (he : entriesFit (takeContribution u (homePkg pa) fold { core := f.src, strand := k, own := own, kind := kind, pred := pred })
      (homePkg pa) = true) : Takes (.foldContribution n) s f
        (takeContribution u (homePkg pa) fold { core := f.src, strand := k, own := own, kind := kind, pred := pred }) := by
  change execFoldContribution n s = _
  rw [execFoldContribution, h.deliver]
  simp only [hd, hm, ifEntry, he, if_true]

theorem Arrives.fold {s u : State} {n : Nat} {f : Flit} (h : Arrives s n f u) (p : Nat) (fold : Fin 16) :
    u.fold p fold = s.fold p fold := by rw [State.fold, h.pkg, State.fold]

/-- Settles O54: what the root does leaves the strands and clusters as they were, but for the member that it names. -/
theorem foldEvents : Obligations.FoldEvents := by
  unfold Obligations.FoldEvents
  refine ⟨fun r kind h0 hk h => FoldRound.outcome_one_kind h0 hk h,
    fun r hk ⟨g, hg, e, he, hne⟩ => FoldRound.failed_of_kinds hg he hk hne, ?_, ?_, ?_, ?_⟩
  · intro s u n pa f ha hd
    dsimp only
    refine ⟨?_, ?_, ?_⟩
    · intro fold own k kind pred m r hm hj hp hc hr hn hb
      refine ⟨fun he => ha.foldContribution_waits hd hm he, fun hs hf he => ?_⟩
      obtain ⟨t, hkept, hrounds, ht⟩ := takeContribution_full (s := u) (p := homePkg pa) (fold := fold)
        (g := { core := f.src, strand := k, own := own, kind := kind, pred := pred }) (by rw [ha.fold]; exact hj)
        (by rw [ha.fold, hp]) (by rw [ha.fold, hc]) (by rw [ha.fold, hr]) hn (by rw [ha.fold]; exact hb) rfl hs hf
      refine ⟨_, ha.takes_foldContribution hd hm he, ?_, ?_⟩
      · rw [ht, finishRound_fold, hrounds]
        simp
      · rw [ht, finishRound_kept, hkept, ha.kept]
    · intro fold k x hm hx hw
      have hx' : u.strand f.src k = some x := by rw [ha.strand, hx]
      obtain ⟨h1, h2⟩ := foldJoin_recorded hx' fold
      obtain ⟨pr, h3⟩ := rootRecorded_strand h1
      exact ⟨_, _, ha.takes_foldJoin hd hm hx hw, h3, membStrand_memb x fold true, rfl, rfl, by rw [rootRecorded_cluster, h2]⟩
    · intro fold k x hm hx hw
      have hx' : u.strand f.src k = some x := by rw [ha.strand, hx]
      obtain ⟨h1, h2⟩ := foldLeave_recorded hx' fold
      obtain ⟨pr, h3⟩ := rootRecorded_strand h1
      exact ⟨_, _, ha.takes_foldLeave hd hm hx hw, h3, membStrand_memb x fold false, rfl, rfl, by rw [rootRecorded_cluster, h2]⟩
  · intro s pkg c k fold r x hr hs hl ho hx
    exact ⟨_, _, exec_foldEject hr hs hl ho, ejectMember_strand hx fold,
      (bit_setBit _ _ _ _ fold.isLt).trans (if_pos rfl), membStrand_memb x fold false, rfl, rfl⟩
  · intro s u n c k lseq own f fold o failed x q ha hc hm hx hq hf hr harr
    dsimp only
    have hv (t : State) := ha.takes_foldOutcome (t := t) hc hm hx hq hf hr harr
    have hxv : (raiseLseq u c lseq).strand c k = some x := by rw [(raiseLseq_strands _ _ _).strand, ha.strand, hx]
    have hsv : ((raiseLseq u c lseq).core c).spec = (s.core c).spec := by rw [raiseLseq_spec, ha.core]
    refine ⟨fun hs => hv _ (takeOutcome_waiting (hsv.trans hs)), fun sp hs hk h => ?_,
      fun sp hs hk hfl ho hd => ⟨fun hp => ?_, fun hp hb hh => ?_⟩⟩
    · obtain ⟨h1, y, h2⟩ := squashSpec_strand hxv hk (some { q with arrived := true, outcome := o, failed := failed })
      exact ⟨_, y, hv _ (takeOutcome_against (hsv.trans hs) hk h), h1, h2⟩
    · refine ⟨_, hv _ ((takeOutcome_guessed (hsv.trans hs) hk hfl ho).trans ?_), confirmedState_spec (hsv.trans hs),
        confirmedState_strand hxv⟩
      rw [commitSpec_eq hk hd hxv, if_neg (by simp [hp])]
    · obtain ⟨t, h1, h2, h3⟩ := drainSpec_empty (confirmedState_spec (k := k) (hsv.trans hs)) (confirmedState_strand hxv) hb hh hd
      refine ⟨t, hv _ ((takeOutcome_guessed (hsv.trans hs) hk hfl ho).trans ?_), h2, h3⟩
      rw [commitSpec_eq hk hd hxv, if_pos (by simp [hp]), h1]
  · intro s c k x q hx hq ha hh hs hl
    exact exec_foldOutcomeTimeout hx hq ha hh hs hl

end Sys2Proof.Machine
end

section
/-! The shepherd's work: launches, pipelines, instances, cancellation (02 R74; 03 R87 to R96). -/

namespace Sys2Proof.Machine

/-! ### Placement of a launch (03 R87) -/

theorem placed_unbound {s : State} {cl : Nat} {l : Launch} {c : Nat}
    (h : c ∈ (eligible s cl l).filter (fun c => (unboundSlot (s.core c)).isSome)) :
    (s.core c).halt = .none ∧ (unboundSlot (s.core c)).getD 0 < 32 := by
  rw [List.mem_filter] at h
  obtain ⟨he, hu⟩ := h
  refine ⟨?_, ?_⟩
  · simp only [eligible, List.mem_flatMap, List.mem_filter, Bool.and_eq_true, beq_iff_eq] at he
    obtain ⟨_, -, -, -, h⟩ := he
    exact h
  · obtain ⟨i, hi⟩ := Option.isSome_iff_exists.mp hu
    rw [hi]
    exact List.mem_range.mp (List.mem_of_find?_eq_some hi)

section
variable {s : State} {cl n : Nat} {l : Launch} {placed : List (Nat × Nat)}

theorem launch_of_clusters {s t : State} (h : t.clusters = s.clusters) (cl n : Nat) : t.launch cl n = s.launch cl n := by
  rw [State.launch, State.cluster, h]; rfl
@[simp] theorem setLaunch_launch (s : State) (cl n : Nat) (l : Launch) : (s.setLaunch cl n l).launch cl n = some l := by
  simp [State.launch, State.setLaunch]

/-- The routine that a launch binds. -/
def unitRoutine (l : Launch) : Routine :=
  { Routine.reset with handler := l.entry, prio := l.prio, conc := true, nextHi := routineTail l.prio true }

/-- The routine in slot `e.2` of core `e.1`. -/
def routineAt (s : State) (e : Nat × Nat) : Routine := smGet Routine.reset (s.core e.1).routines e.2

/-- A slot of one core that is replaced: every other slot, and whether a core is halted, are as they were. -/
theorem routineAt_put (s : State) (p e : Nat × Nat) (r : Routine) :
    routineAt (s.modCore p.1 (fun co => { co with routines := smPut co.routines p.2 r })) e = (if e = p then r else routineAt s e) ∧
      ∀ c, ((s.modCore p.1 (fun co => { co with routines := smPut co.routines p.2 r })).core c).halt = (s.core c).halt := by
  refine ⟨?_, fun c => ?_⟩
  · rw [routineAt, State.modCore_core]
    by_cases hc : e.1 = p.1
    · rw [if_pos hc, smGet_smPut, routineAt, ← hc]
      exact if_congr ⟨fun hs => Prod.ext hc hs, fun h => by rw [h]⟩ rfl rfl
    · rw [if_neg hc, if_neg (fun h => hc (by rw [h])), routineAt]
  · rw [State.modCore_core]
    split
    · next h => rw [h]
    · rfl

/-- The binding of the placed cores binds every slot that they name, and halts nothing. -/
theorem routineAt_bindUnits (l : Launch) (placed : List (Nat × Nat)) (s : State) (e : Nat × Nat) :
    routineAt (placed.foldl (bindUnit l) s) e = (if e ∈ placed then unitRoutine l else routineAt s e) ∧
      ∀ c, ((placed.foldl (bindUnit l) s).core c).halt = (s.core c).halt := by
  induction placed generalizing s with
  | nil => simp
  | cons p placed ih =>
    obtain ⟨h1, h2⟩ := ih (bindUnit l s p)
    obtain ⟨h3, h4⟩ := routineAt_put s p e (unitRoutine l)
    refine ⟨?_, fun c => (h2 c).trans (h4 c)⟩
    rw [List.foldl_cons, h1, bindUnit]
    refine (if_congr Iff.rfl rfl h3).trans ?_
    by_cases he : e = p
    · simp [he]
    · simp [he]
theorem bindUnits_clusters (l : Launch) (placed : List (Nat × Nat)) (s : State) :
    (placed.foldl (bindUnit l) s).clusters = s.clusters := by
  induction placed generalizing s with
  | nil => rfl
  | cons p placed ih => exact ih _

/-- Unit `u` of a launch as a start. -/
def unitStart (now cl n : Nat) (l : Launch) (u : Nat) : Start :=
  { Start.plain now with
    prio := some l.prio, s8 := BitVec.ofNat 72 u, s9 := zext72 l.arg0, s10 := zext72 l.arg1
    s13 := BitVec.ofNat 72 l.core, role := .unit cl n, part := l.part }

/-- A routine with one more start. -/
def Routine.withStart (r : Routine) (q : Start) : Routine := { r with queue := r.queue ++ [q] }

/-- A unit joins the queue of its place; every other slot is as it was. -/
theorem queueUnit_routine {u : Nat} {p : Nat × Nat} (hp : placed.getD (u % placed.length) (0, 0) = p) (hs : p.2 < 32)
    (hh : (s.core p.1).halt = .none) (e : Nat × Nat) :
    routineAt (queueUnit cl n l placed s u) e =
        (if e = p then (routineAt s p).withStart (unitStart s.now cl n l u) else routineAt s e) ∧
      (∀ c, ((queueUnit cl n l placed s u).core c).halt = (s.core c).halt) ∧
      (queueUnit cl n l placed s u).clusters = s.clusters := by
  have h5 : (BitVec.ofNat 5 p.2).toNat = p.2 := by rw [BitVec.toNat_ofNat]; exact Nat.mod_eq_of_lt hs
  have h : queueUnit cl n l placed s u = s.modCore p.1 (fun co =>
      { co with routines := smPut co.routines p.2 ((routineAt s p).withStart (unitStart s.now cl n l u)) }) := by
    rw [queueUnit, hp]
    dsimp only
    rw [queueStart, h5, queueAt_of_running _ _ hh]
    rfl
  rw [h]
  exact ⟨(routineAt_put _ _ _ _).1, (routineAt_put _ _ e _).2, rfl⟩

/-- What units that join the queues leave of a slot: its binding, and every start that waits there. -/
def Queued (r r' : Routine) : Prop := r'.handler = r.handler ∧ r'.conc = r.conc ∧ ∀ q ∈ r.queue, q ∈ r'.queue
theorem Queued.refl (r : Routine) : Queued r r := ⟨rfl, rfl, fun _ h => h⟩
theorem Queued.trans {a b c : Routine} (h : Queued a b) (h' : Queued b c) : Queued a c :=
  ⟨h'.1.trans h.1, h'.2.1.trans h.2.1, fun q hq => h'.2.2 q (h.2.2 q hq)⟩
theorem Queued.withStart (r : Routine) (q : Start) : Queued r (r.withStart q) :=
  ⟨rfl, rfl, fun _ h => List.mem_append_left _ h⟩

/-- Units dealt round the placed cores: each stands in the queue of its place. -/
theorem routineAt_queueUnits (h0 : placed ≠ []) (hp : ∀ p ∈ placed, p.2 < 32) (us : List Nat) (s : State)
    (hh : ∀ p ∈ placed, (s.core p.1).halt = .none) :
    (∀ e, Queued (routineAt s e) (routineAt (us.foldl (queueUnit cl n l placed) s) e)) ∧
      (us.foldl (queueUnit cl n l placed) s).clusters = s.clusters ∧
      ∀ u ∈ us, ∀ e, placed[u % placed.length]? = some e → ∃ now,
        unitStart now cl n l u ∈ (routineAt (us.foldl (queueUnit cl n l placed) s) e).queue := by
  induction us generalizing s with
  | nil => exact ⟨fun _ => .refl _, rfl, by simp⟩
  | cons u us ih =>
    have hl : u % placed.length < placed.length := Nat.mod_lt _ (List.length_pos_iff.mpr h0)
    have hget : placed.getD (u % placed.length) (0, 0) = placed[u % placed.length] := by
      rw [List.getD_eq_getElem?_getD, List.getElem?_eq_getElem hl]; rfl
    have hmem := List.getElem_mem hl
    have hstep := queueUnit_routine (s := s) (cl := cl) (n := n) (l := l) hget (hp _ hmem) (hh _ hmem)
    obtain ⟨h1, h2, h3⟩ := ih (queueUnit cl n l placed s u) (fun p hp => (((hstep p).2.1 _).trans (hh p hp)))
    rw [List.foldl_cons]
    refine ⟨fun e => .trans ?_ (h1 e), h2.trans (hstep (0, 0)).2.2, fun v hv e he => ?_⟩
    · rw [(hstep e).1]
      split
      · next hep => rw [hep]; exact .withStart _ _
      · exact .refl _
    · rcases List.mem_cons.mp hv with rfl | hv
      · obtain rfl : placed[v % placed.length] = e := by
          rw [List.getElem?_eq_getElem hl] at he; exact Option.some.inj he
        refine ⟨s.now, (h1 _).2.2 _ ?_⟩
        rw [(hstep _).1, if_pos rfl]
        exact List.mem_append_right _ (List.mem_singleton.mpr rfl)
      · exact h3 v hv e he

/-- The places of a launch: eligible cores that the shepherd has chosen, each with its lowest unbound slot. -/
def openCores (s : State) (cl : Nat) (l : Launch) : List Nat := (eligible s cl l).filter (fun c => (unboundSlot (s.core c)).isSome)
def places (s : State) (cl n : Nat) (l : Launch) : List (Nat × Nat) :=
  let chosen := placeUnits s cl n (min l.units (openCores s cl l).length) [] (openCores s cl l)
  ((openCores s cl l).filter chosen.contains).map (fun c => (c, (unboundSlot (s.core c)).getD 0))
theorem places_open {e : Nat × Nat} (h : e ∈ places s cl n l) : (s.core e.1).halt = .none ∧ e.2 < 32 := by
  simp only [places, List.mem_map, List.mem_filter] at h
  obtain ⟨c, ⟨hc, -⟩, rfl⟩ := h
  exact placed_unbound hc

/-- A plain launch binds its entry on its places and deals its units round them. -/
theorem distribute_plain (hs : l.stages = []) (hp : places s cl n l ≠ []) :
    let t := distribute s cl n l
    t.launch cl n = some { l with fresh := false, placed := places s cl n l, nextUnit := l.units } ∧
    (∀ e ∈ places s cl n l, (routineAt t e).handler = l.entry ∧ (routineAt t e).conc = true) ∧
    ∀ i < l.units, ∀ e, (places s cl n l)[i % (places s cl n l).length]? = some e →
      ∃ now, unitStart now cl n l i ∈ (routineAt t e).queue := by
  let s1 := ((places s cl n l).foldl (bindUnit l) s).setLaunch cl n
    { l with fresh := false, placed := places s cl n l, nextUnit := l.units }
  have hb (e : Nat × Nat) := routineAt_bindUnits l (places s cl n l) s e
  have hh : ∀ p ∈ places s cl n l, (s1.core p.1).halt = .none := fun p hp => ((hb p).2 p.1).trans (places_open hp).1
  obtain ⟨h1, h2, h3⟩ := routineAt_queueUnits (cl := cl) (n := n) (l := l) hp (fun p hp => (places_open hp).2)
    (List.range l.units) s1 hh
  have he : distribute s cl n l = (List.range l.units).foldl (queueUnit cl n l (places s cl n l)) s1 := by
    rw [distribute, if_pos (by rw [hs]; rfl)]
    exact if_neg (by rw [List.isEmpty_iff]; exact hp)
  rw [he]
  refine ⟨?_, fun e hm => ?_, fun i hi => h3 i (List.mem_range.mpr hi)⟩
  · rw [launch_of_clusters h2, setLaunch_launch]
  · have hr : routineAt s1 e = unitRoutine l := ((hb e).1).trans (if_pos hm)
    obtain ⟨h4, h5, -⟩ := h1 e
    rw [h4, h5, hr]
    exact ⟨rfl, rfl⟩

end

end Sys2Proof.Machine
end

section
/-! Pipelines, instances and cancellation at the shepherd (02 R74; 03 R89 to R95). -/

namespace Sys2Proof.Machine

/-! ### Launches (03 R87) -/

theorem exec_launchDistribute {s : State} {cl n : Nat} {l : Launch}
    (h : (s.cluster cl).launches.find? (fun q => q.2.any (·.fresh)) = some (n, some l)) :
    exec (.launchDistribute cl) s = .next (distribute s cl n l) := by
  change execLaunchDistribute cl s = _
  rw [execLaunchDistribute, h]

/-! ### Pipelines (03 R89, R93) -/

section
variable {s : State} {cl n i : Nat} {l : Launch} {st : Stage}

/-- The first stage of a launch turned by `f`. -/
theorem modStage_head {more : List Stage} (f : Stage → Stage) (h : l.stages = st :: more) :
    l.modStage 0 f = { l with stages := f st :: more } := by
  rw [Launch.modStage, h, List.mapIdx_cons, if_pos rfl]
  congr 2
  refine List.ext_getElem (by simp) (fun j _ _ => ?_)
  simp

/-- The oldest message that waits at a pipeline's mailbox fills the next slot of queue 0. -/
theorem exec_pipelineMessageEnqueue {s1 : State} {m : MailMsg} {rest : List MailMsg} {more : List Stage}
    (hl : s.launch cl n = some l) (hm : l.mboxWait = m :: rest) (hs : l.stages = st :: more) (hf : st.free ≠ 0)
    (hb : l.mbox = none ∨ 32 ≤ st.slotsz)
    (hw : devWrite s (cl / 256) l.part (slotWordOf st st.reserved)
      ((m.args.flatMap (fun (w : DWord) => leBytes 8 w.toNat)).take st.slotsz) = .ok s1) :
    exec (.pipelineMessageEnqueue cl n) s = .next (s1.setLaunch cl n { l with
      mboxWait := rest, stages := stageFinish s.now { st with reserved := st.reserved + 1 } st.reserved true :: more }) := by
  change execPipelineMessageEnqueue cl n s = _
  have hfill := modStage_head (l := { l with mboxWait := rest })
    (fun y => stageFinish s.now { y with reserved := y.reserved + 1 } y.reserved true) hs
  have hhd : l.stages.head? = some st := by rw [hs]; rfl
  rw [execPipelineMessageEnqueue, hl]
  dsimp only
  rw [hm, hhd]
  dsimp only
  rw [if_neg hf, hw]
  split
  · next hx =>
    have hz : ¬ st.slotsz < 32 := by
      have := hb.resolve_left (by simp [hx])
      omega
    rw [if_neg hz, hfill]
  · rw [hfill]

/-- The slot that is filled in order is published at once. -/
theorem stageFinish_in_order (now : Nat) (he : st.early = []) (hp : st.published = st.reserved) :
    let y := stageFinish now { st with reserved := st.reserved + 1 } st.reserved true
    y.reserved = st.reserved + 1 ∧ y.published = st.published + 1 ∧ y.early = [] ∧ y.skipped = st.skipped ∧
      y.claimed = st.claimed := by
  simp [stageFinish, stageAdvance, he, hp]

/-- A pipeline that nothing can reach, with nothing left in its queues, drains. -/
theorem exec_pipelineDrain (hl : s.launch cl n = some l) (hs : l.stages ≠ []) (hf : l.fresh = false) (hd : l.done = false)
    (hb : ∀ c m, l.mbox = some (c, m) → (s.mailbox c m).bind ≠ .pipeline cl n) (hw : l.mboxWait = [])
    (he : ∀ st ∈ l.stages, st.reserved = st.freed) : exec (.pipelineDrain cl n) s =
      .next (finishLevelVa (((l.stages.flatMap (·.instances)).foldl unbindInstance s).setLaunch cl n
        { l with done := true, stages := l.stages.map (fun st => { st with instances := [] }) }) (cl / 256) l.part l.level 1) := by
  change execPipelineDrain cl n s = _
  have h1 : l.stages.isEmpty = false := by simpa [List.isEmpty_eq_false_iff] using hs
  have h2 : l.stages.all (·.isEmpty) = true := by simpa [Stage.isEmpty] using he
  rw [execPipelineDrain, hl]
  refine if_neg ?_
  rw [h1, hf, hd, hw, h2]
  split
  · next hm => simp [hb _ _ hm]
  · simp

/-! ### Instances (03 R94, R95) -/

/-- A stage grows: it is three quarters full, its output has room, and it may have one more. -/
def Grows (l : Launch) (i : Nat) (st : Stage) : Prop :=
  3 * st.cap < 4 * st.occupied ∧ st.instances.length < st.maxinst ∧ ∀ nx, l.stages[i + 1]? = some nx → nx.cap < 4 * nx.freeSpace
/-- A stage shrinks: it is an eighth full, and more than its least number stay. -/
def Shrinks (st : Stage) : Prop :=
  8 * st.occupied < st.cap ∧ st.mininst < (st.instances.filter (fun e => !e.2.2.2)).length
/-- The launch whose stage has been evaluated. -/
def evaluated (s : State) (l : Launch) (i : Nat) : Launch := l.modStage i (fun y => { y with lastEval := s.now })

/-- Of three outcomes, the one that two tests choose. -/
theorem ite_ite_of_iff {α : Type} {g e : Bool} {G E : Prop} (hg : g = true ↔ G) (he : e = true ↔ E) (x y z : α) :
    (G → (if g then x else if e then y else z) = x) ∧ (¬ G → E → (if g then x else if e then y else z) = y) ∧
      (¬ G → ¬ E → (if g then x else if e then y else z) = z) := by
  rw [← hg, ← he]
  exact ⟨fun h => if_pos h, fun h h' => (if_neg h).trans (if_pos h'), fun h h' => (if_neg h).trans (if_neg h')⟩

theorem exec_distributorEvaluation (hl : s.launch cl n = some l) (hi : l.stages[i]? = some st) (hf : l.fresh = false)
    (hd : l.done = false) (ht : st.lastEval + 1024 ≤ s.now) :
    (Grows l i st → exec (.distributorEvaluation cl n i) s = .next (addInstance (s.setLaunch cl n (evaluated s l i)) cl n i)) ∧
    (¬ Grows l i st → Shrinks st → exec (.distributorEvaluation cl n i) s =
      .next (removeInstance (s.setLaunch cl n (evaluated s l i)) cl n i (evaluated s l i) st)) ∧
    (¬ Grows l i st → ¬ Shrinks st → exec (.distributorEvaluation cl n i) s = .next (s.setLaunch cl n (evaluated s l i))) := by
  change (_ → execDistributorEvaluation cl n i s = _) ∧ (_ → _ → execDistributorEvaluation cl n i s = _) ∧
    (_ → _ → execDistributorEvaluation cl n i s = _)
  have hn : ¬ s.now < st.lastEval + 1024 := by omega
  simp only [execDistributorEvaluation, hl, hi, hf, hd, evalEvery, hn, decide_false, Bool.or_self, Bool.false_eq_true, if_false]
  refine ite_ite_of_iff ?_ (by simp [Shrinks]) _ _ _
  rw [Grows]
  cases l.stages[i + 1]? with
  | none => simp
  | some nx => simp [and_right_comm, and_assoc]

/-- The stage that has been evaluated. -/
theorem evaluated_stage (hi : l.stages[i]? = some st) : (evaluated s l i).stages[i]? = some { st with lastEval := s.now } := by
  simp [evaluated, Launch.modStage, hi]

/-- What is added to a stage is bound on the cheapest core, with the handler of its stage. -/
theorem addInstance_routine {c : Nat} (hl : s.launch cl n = some l) (hi : l.stages[i]? = some st)
    (hc : cheapest s cl n [] ((eligible s cl l).filter (fun c => (unboundSlot (s.core c)).isSome &&
      !st.instances.any (fun e => e.1 == c))) = some c) :
    let r := routineAt (addInstance s cl n i) (c, (unboundSlot (s.core c)).getD 0)
    r.handler = st.handler ∧ r.prio = l.prio ∧ r.stage = some (cl, n, i, st.nextInst) := by
  rw [addInstance, hl]
  dsimp only
  rw [hi]
  dsimp only
  rw [hc]
  let r : Routine := { Routine.reset with
    handler := st.handler, prio := l.prio, nextHi := routineTail l.prio false, stage := some (cl, n, i, st.nextInst) }
  have h := (routineAt_put s (c, (unboundSlot (s.core c)).getD 0) (c, (unboundSlot (s.core c)).getD 0) r).1
  rw [if_pos rfl] at h
  have ht (t : State) (y : Launch) (e : Nat × Nat) : routineAt (t.setLaunch cl n y) e = routineAt t e := rfl
  rw [ht]
  exact ⟨congrArg Routine.handler h, congrArg Routine.prio h, congrArg Routine.stage h⟩

end

end Sys2Proof.Machine
end

section
/-! Cancellation at the shepherd (02 R74; 04 R107). -/

namespace Sys2Proof.Machine

/-! ### STATUS.CANCEL -/

/-- A strand whose STATUS.CANCEL is set. -/
def cancelledStrand (x : Strand) : Strand := { x with cancel := true }
theorem cancelledStrand_of_cancel {x : Strand} (h : x.cancel = true) : cancelledStrand x = x := by
  rw [cancelledStrand, ← h]

theorem cancelStrand_strand (who j i : Nat) (s : State) (c k : Nat) : (cancelStrand who j i s).strand c k =
    if c = j ∧ k = i then (s.strand c k).map cancelledStrand else s.strand c k := by
  cases hz : s.strand j i with
  | none =>
    rw [show cancelStrand who j i s = s by rw [cancelStrand, hz]]
    split
    · next h => rw [h.1, h.2, hz]; rfl
    · rfl
  | some z =>
    rw [cancelStrand, hz]
    dsimp only
    by_cases hc : z.cancel = true
    · rw [if_pos hc]
      split
      · next h => rw [h.1, h.2, hz, Option.map_some, cancelledStrand_of_cancel hc]
      · rfl
    · rw [if_neg hc]
      by_cases h : c = j ∧ k = i
      · rw [if_pos h, h.1, h.2, hz, State.setStrand_strand_self]; rfl
      · rw [if_neg h, State.setStrand_strand_ne _ _ _ _ _ _ (by omega)]
        split
        · exact (KeepsStrands.of_cores (sendNotice_cores _ _ _ _ _ _)).strand c k
        · rfl

/-- What holds after one step of a fold, and stays, holds at its end. -/
theorem foldl_reaches {α σ : Type} {f : σ → α → σ} {P Q : σ → Prop} (hP : ∀ s y, P s → P (f s y))
    (hQ : ∀ s y, Q s → Q (f s y)) {a : α} (ha : ∀ s, P s → Q (f s a)) {l : List α} (hl : a ∈ l) {s : σ} (hs : P s) : Q (l.foldl f s) := by
  induction l generalizing s with
  | nil => simp at hl
  | cons y l ih =>
    rcases List.mem_cons.mp hl with rfl | hl
    · exact foldl_stays hQ l (ha s hs)
    · exact ih hl (hP s y hs)
section
variable {s : State} {c k : Nat} {x : Strand}

/-- Strand `k` of core `c` is `x`, at most its STATUS.CANCEL set. -/
def MayCancel (c k : Nat) (x : Strand) (s : State) : Prop := s.strand c k = some x ∨ s.strand c k = some (cancelledStrand x)
def IsCancelled (c k : Nat) (x : Strand) (s : State) : Prop := s.strand c k = some (cancelledStrand x)

theorem IsCancelled.cancelStrand (h : IsCancelled c k x s) (who j i : Nat) : IsCancelled c k x (cancelStrand who j i s) := by
  rw [IsCancelled, cancelStrand_strand, h]
  split <;> rfl
theorem MayCancel.cancelStrand (h : MayCancel c k x s) (who j i : Nat) : MayCancel c k x (cancelStrand who j i s) := by
  rcases h with h | h
  · rw [MayCancel, cancelStrand_strand, h]
    split
    · exact .inr rfl
    · exact .inl rfl
  · exact .inr (IsCancelled.cancelStrand h who j i)
theorem MayCancel.cancelled (h : MayCancel c k x s) (who : Nat) : IsCancelled c k x (Machine.cancelStrand who c k s) := by
  rw [IsCancelled, cancelStrand_strand, if_pos ⟨rfl, rfl⟩]
  rcases h with h | h <;> rw [h] <;> rfl
theorem IsCancelled.of_keeps {t : State} (h : IsCancelled c k x s) (hk : KeepsStrands s t) : IsCancelled c k x t :=
  (hk.strand c k).trans h

/-- The core of a live strand is listed, with the strand. -/
theorem listed_of_strand (h : s.strand c k = some x) : ∃ co, (c, co) ∈ s.cores ∧ (k, x) ∈ liveStrands co := by
  have hm : ∀ m : SMap Core, smGet Core.reset m c = Core.reset ∨ (c, smGet Core.reset m c) ∈ m := by
    intro m
    induction m with
    | nil => exact .inl rfl
    | cons p m ih =>
      obtain ⟨j, co⟩ := p
      rw [smGet]
      split
      · next e => subst e; exact .inr List.mem_cons_self
      · exact ih.imp_right (List.mem_cons_of_mem _)
  rcases hm s.cores with hr | hc
  · rw [State.strand, State.core, hr] at h
    cases h
  · exact ⟨_, hc, mem_live_of_strand h⟩

/-- Every strand of the roles that a cancellation names is cancelled. -/
theorem cancelStrands_cancels (who : Nat) {below : Role → Bool} (hx : s.strand c k = some x) (hb : below x.role = true) :
    IsCancelled c k x (cancelStrands s who below) := by
  obtain ⟨co, hc, hk⟩ := listed_of_strand hx
  have hone (j : Nat) (st : State) (p : Nat × Strand) :
      (MayCancel c k x st → MayCancel c k x (if below p.2.role then cancelStrand who j p.1 st else st)) ∧
        (IsCancelled c k x st → IsCancelled c k x (if below p.2.role then cancelStrand who j p.1 st else st)) := by
    split
    · exact ⟨fun h => h.cancelStrand _ _ _, fun h => h.cancelStrand _ _ _⟩
    · exact ⟨id, id⟩
  rw [cancelStrands]
  refine foldl_reaches (P := MayCancel c k x) (Q := IsCancelled c k x) (a := (c, co)) ?_ ?_ ?_ hc (.inl hx)
  · exact fun st q h => foldl_stays (P := MayCancel c k x) (fun st p => (hone q.1 st p).1) _ h
  · exact fun st q h => foldl_stays (P := IsCancelled c k x) (fun st p => (hone q.1 st p).2) _ h
  · intro st h
    refine foldl_reaches (P := MayCancel c k x) (Q := IsCancelled c k x) (a := (k, x)) ?_ ?_ ?_ hk h
    · exact fun st p => (hone c st p).1
    · exact fun st p => (hone c st p).2
    · intro st h
      rw [if_pos hb]
      exact h.cancelled who

/-! ### The launches of a shepherd (03 R92) -/

theorem markCancelling_strands (s : State) (cl who : Nat) (l : Launch) : KeepsStrands s (markCancelling s cl who l) := by
  rw [markCancelling]
  split
  · exact .refl s
  · dsimp only
    split
    · exact .of_cores (by rw [setCanceller, State.modCluster_cores, writeD_cores])
    · exact .refl s

/-- The state without the units of a launch that wait in routine queues. -/
def withoutUnits (s : State) (cl n : Nat) : State := { s with cores := s.cores.map (fun q => (q.1, dropUnits (isUnit cl n) q.2)) }
theorem withoutUnits_strands (s : State) (cl n : Nat) : KeepsStrands s (withoutUnits s cl n) := by
  refine (RootOnly.mapCores s ?_).1
  exact fun _ => ⟨rfl, rfl, rfl⟩

/-- The cancellation of a launch reaches its strands. -/
theorem cancelLaunch_cancels {cl n who : Nat} {l : Launch} (hl : s.launch cl n = some l) (hx : s.strand c k = some x)
    (hr : isOfLaunch cl n x.role = true) : IsCancelled c k x (cancelLaunch cl s (n, who)) := by
  rw [cancelLaunch]
  dsimp only
  rw [hl]
  dsimp only
  have h3 (y : Launch) : ((withoutUnits (markCancelling s cl who l) cl n).setLaunch cl n y).strand c k = some x :=
    ((withoutUnits_strands _ cl n).strand c k).trans (((markCancelling_strands s cl who l).strand c k).trans hx)
  have h4 := cancelStrands_cancels who (h3 { l with fresh := l.fresh && !l.stages.isEmpty, stages := l.stages.map discardSlots }) hr
  have hfin (t : State) (w : Nat) : KeepsStrands t (if w = 0 then t else finishLevelVa t (cl / 256) l.part l.level w) := by
    split
    · exact .refl t
    · exact .finishLevelVa _ _ _ _ _
  exact h4.of_keeps (hfin _ _)

/-- The only launch of a shepherd, below a cancelled level, has its strands cancelled. -/
theorem exec_cancelAtShepherd {cl n who : Nat} {l : Launch} (hl : (s.cluster cl).launches = [(n, some l)]) (hd : l.done = false)
    (hw : levelCanceller s cl l.part l.level = some who) (hx : s.strand c k = some x) (hr : isOfLaunch cl n x.role = true) :
    ∃ t, exec (.cancelAtShepherd cl) s = .next t ∧ IsCancelled c k x t := by
  refine ⟨_, rfl, ?_⟩
  have h1 : launchesToCancel s cl = [(n, who)] := by
    simp [launchesToCancel, hl, hd, hw]
  have h2 : s.launch cl n = some l := by simp [State.launch, hl, smGet]
  refine foldl_stays (P := IsCancelled c k x) (fun st y h => h.cancelStrand _ _ _) _ ?_
  refine foldl_stays (P := IsCancelled c k x) (fun st y h => ?_) _ ?_
  · exact (h.of_keeps (.of_cores (writeD_cores _ _ _))).of_keeps (.finishLevelVa _ _ _ _ _)
  · rw [h1]
    exact cancelLaunch_cancels h2 hx hr

end

/-- Settles O47, by inductions over the placed cores, the units and the strands that an event goes through. -/
theorem shepherdWork : Obligations.ShepherdWork := by
  unfold Obligations.ShepherdWork
  refine ⟨?_, ?_, ?_, ?_, ?_⟩
  · intro s cl n l h
    dsimp only
    intro hs hp
    obtain ⟨h1, h2, h3⟩ := distribute_plain (s := s) (cl := cl) (n := n) hs hp
    refine ⟨_, exec_launchDistribute h, h1, h2, fun i hi e hg => ?_⟩
    obtain ⟨now, hq⟩ := h3 i hi e hg
    exact ⟨_, hq, rfl, rfl, rfl, rfl, rfl⟩
  · intro s s1 cl n l m rest st more hl hm hs hf hb hw
    exact ⟨exec_pipelineMessageEnqueue hl hm hs hf hb hw, stageFinish_in_order s.now⟩
  · intro s cl n l hl hs hf hd hb hw he
    exact exec_pipelineDrain hl hs hf hd hb hw he
  · intro s cl n i l st hl hi hf hd ht
    obtain ⟨h1, h2, h3⟩ := exec_distributorEvaluation hl hi hf hd ht
    refine ⟨fun hg => ⟨h1 hg, fun c hc => ?_⟩, h2, h3⟩
    have h4 := addInstance_routine (s := s.setLaunch cl n (evaluated s l i)) (setLaunch_launch _ _ _ _) (evaluated_stage hi) hc
    exact h4
  · intro s cl n who c k l x hl hd hw hx hr
    obtain ⟨t, ht, hc⟩ := exec_cancelAtShepherd hl hd hw hx hr
    exact ⟨t, _, ht, hc, rfl, rfl, rfl⟩

end Sys2Proof.Machine
end

section
/-! A shepherd and its event records (03 R99 to R101; 17 R362; 26 R477, R479). -/

namespace Sys2Proof.Machine

/-! ### The queue of event records (03 R99) -/

section
variable {s : State} {cl : Nat}

theorem postEvent_room (r : List Byte) (hc : (s.cluster cl).evCount < 512) (hi : (s.cluster cl).ingress = []) :
    postEvent s cl r = putEvent s cl r :=
  if_pos (by simp [eventRoom, hc, hi])
theorem postEvent_full (r : List Byte) (hc : 512 ≤ (s.cluster cl).evCount) :
    postEvent s cl r = s.modCluster cl (fun x => { x with ingress := x.ingress ++ [r] }) :=
  if_neg (by simp [eventRoom, hc])

/-- The record lies behind the records of the queue. -/
theorem readBytes_putEvent (s : State) (cl : Nat) (r : List Byte) :
    readBytes (putEvent s cl r) (eventPa cl ((s.cluster cl).evHead + (s.cluster cl).evCount)) r.length = r := by
  rw [putEvent]
  exact (readBytes_of_mem (State.modCluster_mem _ _ _) _ _).trans (readBytes_writeBytes r s _)
theorem putEvent_evCount (s : State) (cl : Nat) (r : List Byte) :
    ((putEvent s cl r).cluster cl).evCount = (s.cluster cl).evCount + 1 := by
  rw [putEvent, State.modCluster_cluster_self, State.cluster, writeBytes_clusters, State.cluster]

variable {b : List Byte}

section
variable {mine : EventRec → Bool} {act : State → EventRec → State}

/-- A poisoned head of the queue fences the cluster's partition, whatever the event takes. -/
theorem shepherdEvent_poisoned (hb : headEvent (collectEvents s cl) cl = some b)
    (hp : (collectEvents s cl).poisoned (eventPa cl ((collectEvents s cl).cluster cl).evHead) 32 ≠ none) :
    shepherdEvent s cl mine act = .next (fencePartition (collectEvents s cl) (cl / 256) ((collectEvents s cl).core (cl * 16)).part) := by
  simp only [shepherdEvent, hb]
  exact if_pos (Option.isSome_iff_ne_none.mpr hp)

/-- A head that an event takes leaves the queue and has its effect. -/
theorem shepherdEvent_taken (hb : headEvent (collectEvents s cl) cl = some b)
    (hp : (collectEvents s cl).poisoned (eventPa cl ((collectEvents s cl).cluster cl).evHead) 32 = none)
    (hm : mine (eventOf b) = true) :
    shepherdEvent s cl mine act = .next (act (popEvent (collectEvents s cl) cl) (eventOf b)) := by
  simp only [shepherdEvent, hb, hp, hm, Option.isSome_none, Bool.false_eq_true, if_false, if_true]

end

theorem exec_eventRecordTaskDecrement (cl : Nat) (s : State) : exec (.eventRecordTaskDecrement cl) s =
    shepherdEvent s cl (fun e => e.source < 6) (fun st e => decTask st cl e) := rfl
theorem exec_eventRecordLevelDecrement (cl : Nat) (s : State) : exec (.eventRecordLevelDecrement cl) s =
    shepherdEvent s cl (fun e => e.source == 7) (fun st e => decLevel st cl e) := rfl
theorem exec_eventRecordFaultNotice (cl : Nat) (s : State) : exec (.eventRecordFaultNotice cl) s =
    shepherdEvent s cl (fun e => e.source == 6) (fun st _ => st) := rfl

theorem exec_event_poisoned {i : Instr} (hb : headEvent (collectEvents s cl) cl = some b)
    (hp : (collectEvents s cl).poisoned (eventPa cl ((collectEvents s cl).cluster cl).evHead) 32 ≠ none)
    (hi : i ∈ [Instr.eventRecordTaskDecrement cl, .eventRecordLevelDecrement cl, .eventRecordFaultNotice cl]) :
    exec i s = .next (fencePartition (collectEvents s cl) (cl / 256) ((collectEvents s cl).core (cl * 16)).part) := by
  simp only [List.mem_cons, List.not_mem_nil, or_false] at hi
  rcases hi with rfl | rfl | rfl
  · rw [exec_eventRecordTaskDecrement, shepherdEvent_poisoned hb hp]
  · rw [exec_eventRecordLevelDecrement, shepherdEvent_poisoned hb hp]
  · rw [exec_eventRecordFaultNotice, shepherdEvent_poisoned hb hp]

section
variable (hb : headEvent (collectEvents s cl) cl = some b)
  (hp : (collectEvents s cl).poisoned (eventPa cl ((collectEvents s cl).cluster cl).evHead) 32 = none)
include hb hp

theorem exec_taskDecrement (hs : (eventOf b).source < 6) : exec (.eventRecordTaskDecrement cl) s =
    .next (decTask (popEvent (collectEvents s cl) cl) cl (eventOf b)) := by
  rw [exec_eventRecordTaskDecrement, shepherdEvent_taken hb hp (decide_eq_true hs)]
theorem exec_levelDecrement (hs : (eventOf b).source = 7) : exec (.eventRecordLevelDecrement cl) s =
    .next (decLevel (popEvent (collectEvents s cl) cl) cl (eventOf b)) := by
  rw [exec_eventRecordLevelDecrement, shepherdEvent_taken (mine := fun e => e.source == 7) hb hp (beq_iff_eq.mpr hs)]
theorem exec_faultNotice (hs : (eventOf b).source = 6) : exec (.eventRecordFaultNotice cl) s =
    .next (popEvent (collectEvents s cl) cl) := by
  rw [exec_eventRecordFaultNotice, shepherdEvent_taken (mine := fun e => e.source == 6) hb hp (beq_iff_eq.mpr hs)]

end
end

/-! ### Decrements of task records (03 R100, R101) -/

/-- A task record of the cluster's area that waits: the record that a decrement answers to (03 R100). -/
def TaskWaits (s : State) (cl pa : Nat) : Prop :=
  taskCluster pa = some cl ∧ bits (readD s pa) 62 2 = 0 ∧ taskFree s pa = false

section
variable {s : State} {cl : Nat} {e : EventRec}

theorem decTask_untasked (ht : e.task = 0) (hs : e.source < 4) : decTask s cl e = s := if_pos ⟨ht, hs⟩

theorem decTask_unanswered (ht : e.source < 4 → e.task ≠ 0) (hw : ¬ TaskWaits s cl e.task.toNat) :
    decTask s cl e = s.countShepherd cl 0x22 1 (some (s.core e.core).part) := by
  have h : taskCluster e.task.toNat ≠ some cl ∨ bits (readD s e.task.toNat) 62 2 ≠ 0 ∨ taskFree s e.task.toNat = true := by
    rw [TaskWaits, not_and_or, not_and_or, Bool.not_eq_false] at hw
    exact hw
  rw [decTask, if_neg (fun h0 => ht h0.2 h0.1), if_pos h]

theorem TaskWaits.not_unanswered (hw : TaskWaits s cl e.task.toNat) :
    ¬(taskCluster e.task.toNat ≠ some cl ∨ bits (readD s e.task.toNat) 62 2 ≠ 0 ∨ taskFree s e.task.toNat = true) := by
  obtain ⟨h1, h2, h3⟩ := hw
  simp [h1, h2, h3]

theorem decTask_caused (ht : e.source < 4 → e.task ≠ 0) (hw : TaskWaits s cl e.task.toNat) (hc : e.source < 4 ∧ bits e.word 26 6 ≠ 0) :
    decTask s cl e = s := by
  rw [decTask, if_neg (fun h0 => ht h0.2 h0.1), if_neg hw.not_unanswered, if_pos hc]

section
variable (ht : e.source < 4 → e.task ≠ 0) (hw : TaskWaits s cl e.task.toNat) (hc : ¬(e.source < 4 ∧ bits e.word 26 6 ≠ 0))
include ht hw hc

/-- COUNT goes down by DEC, to 0 at the lowest, where the record is released. -/
theorem decTask_counted : decTask s cl e =
    let pa := e.task.toNat
    let count := bits (readD s pa) 0 32
    let t := writeD (if count < e.dec then s.countShepherd cl 0x21 1 (some (s.core e.core).part) else s) pa
      (setBits (readD s pa) 0 32 (count - e.dec))
    if count ≤ e.dec then releaseTask t pa else t := by
  rw [decTask, if_neg (fun h0 => ht h0.2 h0.1), if_neg hw.not_unanswered, if_neg hc]

theorem decTask_less (h : e.dec < bits (readD s e.task.toNat) 0 32) : decTask s cl e =
    writeD s e.task.toNat (setBits (readD s e.task.toNat) 0 32 (bits (readD s e.task.toNat) 0 32 - e.dec)) := by
  rw [decTask_counted ht hw hc]
  dsimp only
  rw [if_neg (by omega), if_neg (by omega)]
theorem decTask_last (h : bits (readD s e.task.toNat) 0 32 = e.dec) : decTask s cl e =
    releaseTask (writeD s e.task.toNat (setBits (readD s e.task.toNat) 0 32 0)) e.task.toNat := by
  rw [decTask_counted ht hw hc]
  dsimp only
  rw [if_pos (by omega), if_neg (by omega), Nat.sub_eq_zero_of_le (by omega)]
theorem decTask_more (h : bits (readD s e.task.toNat) 0 32 < e.dec) : decTask s cl e =
    releaseTask (writeD (s.countShepherd cl 0x21 1 (some (s.core e.core).part)) e.task.toNat
      (setBits (readD s e.task.toNat) 0 32 0)) e.task.toNat := by
  rw [decTask_counted ht hw hc]
  dsimp only
  rw [if_pos (by omega), if_pos h, Nat.sub_eq_zero_of_le (by omega)]

end
end

/-! ### Decrements of levels (17 R362; 02 R76) -/

section
variable {s : State} {cl : Nat} {e : EventRec} {l : Launch} {p pa n : Nat} {part : BitVec 6}

/-- A level of which more than `n` children are left counts `n` of them as finished. -/
theorem finishChildren_less (hk : lvIsLevel (readD s pa) = true) (hs : lvState (readD s pa) ≠ 2) (hn : n < lvOut (readD s pa)) :
    finishChildren s p part pa n = writeD s pa (setBits (readD s pa) 0 32 (lvOut (readD s pa) - n)) := by
  simp only [finishChildren, hk, beq_false_of_ne hs, Bool.not_true, Bool.false_eq_true, if_false, if_pos hn,
    if_neg (Nat.lt_asymm hn)]
/-- A level that is done has no children left. -/
theorem finishChildren_done (hk : lvIsLevel (readD s pa) = true) (hs : lvState (readD s pa) = 2) :
    finishChildren s p part pa n = s.countShepherd (levelCl pa) 0x21 1 (some part) := by
  simp only [finishChildren, hk, beq_of_eq hs, Bool.not_true, Bool.false_eq_true, if_false, if_true]

/-- A decrement of a graph, phase or job level that the shepherd manages in ordinary memory. -/
theorem decLevel_managed (hl : managedLevel s cl e.task.toNat = some l) (ho : ordinaryVault cl e.task.toNat = true)
    (h2 : 2 ≤ lvKind (readD s e.task.toNat)) (h4 : lvKind (readD s e.task.toNat) ≤ 4) : decLevel s cl e =
      if (s.poisoned e.task.toNat 32).isSome then fencePartition s (cl / 256) l.part
      else finishChildren s (cl / 256) l.part e.task.toNat e.dec := by
  simp only [decLevel, hl, ho, h2, h4, Option.map_some, Option.getD_some, Option.isSome_some, decide_true, Bool.and_self,
    or_true, if_true]

end

/-- Settles O46: a poisoned head is `shepherdEvent_poisoned`, and every other one leaves the queue (`shepherdEvent_taken`) and
acts as the lemmas of `decTask` and `decLevel` say. -/
theorem shepherdRecords : Obligations.ShepherdRecords := by
  unfold Obligations.ShepherdRecords
  refine ⟨?_, ?_⟩
  · rintro s u v cl b rfl hb rfl
    refine ⟨fun hp i hi => exec_event_poisoned hb hp hi, fun hp => ⟨?_, ?_, ?_, ?_⟩⟩
    · intro hs ht
      rw [exec_taskDecrement hb hp (by omega), decTask_untasked ht hs]
    · intro hs ht
      rw [exec_taskDecrement hb hp hs]
      refine ⟨fun hw => ?_, fun hw hc => ?_, fun hw hc hd => ⟨_, rfl, ?_, fun q hq => ?_⟩, fun hw hc hd => ?_, fun hw hc hd => ?_⟩
      · rw [decTask_unanswered ht hw]
      · rw [decTask_caused ht hw hc]
      · rw [decTask_less ht hw hc hd, readD_writeD]
      · rw [decTask_less ht hw hc hd]
        exact writeBytes_byte_out _ _ _ _ (by rwa [leBytes_length])
      · rw [decTask_last ht hw hc hd]
      · rw [decTask_more ht hw hc hd]
    · exact exec_faultNotice hb hp
    · intro l hs _ hl ho h2 h4
      have hk : lvIsLevel (readD (popEvent (collectEvents s cl) cl) (eventOf b).task.toNat) = true := by
        simp [lvIsLevel, h4, Nat.le_of_succ_le h2]
      rw [exec_levelDecrement hb hp hs, decLevel_managed hl ho h2 h4]
      refine ⟨fun hq => ?_, fun hq => ?_, finishChildren_less hk, finishChildren_done hk⟩
      · rw [if_pos (Option.isSome_iff_ne_none.mpr hq)]
      · rw [if_neg (by simp [hq])]
  · intro s cl r hr
    refine ⟨fun hc hi => ?_, fun hc => ?_⟩
    · rw [postEvent_room r hc hi, ← hr]
      exact ⟨readBytes_putEvent s cl r, putEvent_evCount s cl r⟩
    · rw [postEvent_full r hc]
      exact ⟨rfl, by rw [State.modCluster_cluster_self]⟩

end Sys2Proof.Machine
end

section
/-! Traps at a boundary, the watchdog and machine checks (09 R179, R184, R198, R200). -/

namespace Sys2Proof.Machine

section
variable {s : State} {c k : Nat} {x : Strand} {p : Pending}

/-! ### Traps at a boundary and the watchdog (09 R179, R184, R198) -/

/-- While no strand of a core has decoded 0xFF, no pending trap of it is that one. -/
theorem pending_of_parkDue (hx : s.strand c k = some x) (hp : x.pending = some p) (hd : parkDue (s.core c) = false) :
    p.cause.code ≠ cReservedFormat := by
  intro h
  have h1 := List.any_eq_false.mp hd _ (mem_live_of_strand hx)
  simp [hp, h] at h1

theorem exec_trapEntry (hx : s.strand c k = some x) (hp : x.pending = some p) (hh : (s.core c).halt = .none)
    (hd : parkDue (s.core c) = false) (hv : p.cls = .v → x.prog.isGather = false) : exec (.trapEntry c k) s =
      .next (enterTrap s c k { x with wait := none, prog := if p.cls = .v then x.prog else .none }
        (if p.cls = .v then { p with epc := x.pc } else p)) := by
  have h1 : ¬(p.cause.code = cReservedFormat ∨ (p.cls = .v ∧ x.prog.isGather = true)) := by
    rintro (h | ⟨h, hg⟩)
    · exact pending_of_parkDue hx hp hd h
    · simp [hv h] at hg
  have h2 : execTrapEntry c k s = .next (takePending c s k) := by simp [execTrapEntry, hh, hd]
  change execTrapEntry c k s = _
  rw [h2]
  simp only [takePending, hx, hp, if_neg h1]

theorem exec_strandWatchdog (hx : s.strand c k = some x) (hl : strandLimit s c ≠ 0) (hh : (s.core c).halt = .none)
    (hf : x.wdFired = false) (hn : x.wdStart + strandLimit s c < s.now) :
    exec (.strandWatchdog c k) s = .next (s.setStrand c k { x with wdPending := true, wdFired := true }) := by
  change execStrandWatchdog c k s = _
  simp only [execStrandWatchdog, hx]
  exact if_pos ⟨hl, hh, by simp [hf], hn⟩

/-! ### Machine checks (09 R200) -/

theorem nodup_of_smWfFrom {β : Type} [DecidableEq β] {d : β} {m : SMap β} {lo : Nat} (w : smWfFrom d lo m = true) : m.Nodup := by
  induction m generalizing lo with
  | nil => exact List.nodup_nil
  | cons q t ih =>
    obtain ⟨j, v⟩ := q
    simp only [smWfFrom, Bool.and_eq_true] at w
    refine List.nodup_cons.mpr ⟨fun h => ?_, ih w.2⟩
    have := (smGet_of_mem w.2 h).2
    omega

/-- No strand is listed twice. -/
theorem liveStrands_nodup {co : Core} (w : smWf none co.strands = true) : (liveStrands co).Nodup := by
  refine (nodup_of_smWfFrom w).filterMap ?_
  rintro ⟨i, _ | y⟩ ⟨j, _ | z⟩ q hy hz <;> simp at hy hz
  rw [← hy] at hz
  simpa [eq_comm] using hz

/-- A fold over distinct elements of which only `a` has an effect has that effect once. -/
theorem foldl_if_nodup {α σ : Type} {f : σ → α → σ} {cond : α → Bool} {a : α} {l : List α} (hn : l.Nodup) (ha : a ∈ l)
    (hc : cond a = true) (h : ∀ y ∈ l, cond y = true → y = a) (s : σ) :
    l.foldl (fun st y => if cond y then f st y else st) s = f s a := by
  obtain ⟨l1, l2, rfl⟩ := List.append_of_mem ha
  have hd := List.nodup_middle.mp hn
  have hout : ∀ y ∈ l1 ++ l2, cond y = false := fun y hy => Bool.eq_false_iff.mpr (fun hcy =>
    (List.nodup_cons.mp hd).1 (h y (by simp at hy ⊢; tauto) hcy ▸ hy))
  rw [List.foldl_append, foldl_if_none (fun y hy => hout y (List.mem_append_left _ hy)), List.foldl_cons, if_pos hc,
    foldl_if_none (fun y hy => hout y (List.mem_append_right _ hy))]

/-- What a machine check does to a strand that its error touches. -/
def checkStrand (c : Nat) (s : State) (q : Nat × Strand) : State :=
  match s.strand c q.1 with
  | some x => endBare s c q.1 x cMachineCheck 0 0
  | none => s
theorem machineCheck_eq (s : State) (c : Nat) (touched : BitVec 32) : machineCheck s c touched =
    (liveStrands (s.core c)).foldl (fun st q => if bit touched q.1 then checkStrand c st q else st) s := rfl

/-- A machine check whose error touches one live strand ends that strand alone. -/
theorem machineCheck_one {touched : BitVec 32} (hx : s.strand c k = some x)
    (h : ∀ j, bit touched j = true → s.strand c j = none ∨ j = k) (hk : bit touched k = true)
    (w : smWf none (s.core c).strands = true) : machineCheck s c touched = endBare s c k x cMachineCheck 0 0 := by
  have hone : ∀ y ∈ liveStrands (s.core c), bit touched y.1 = true → y = (k, x) := by
    rintro ⟨j, z⟩ hm hj
    have hz := strand_of_mem_live w hm
    obtain rfl : j = k := (h j hj).resolve_left (by simp [hz])
    rw [Option.some.inj (hz.symm.trans hx)]
  rw [machineCheck_eq, foldl_if_nodup (liveStrands_nodup w) (mem_live_of_strand hx) hk hone]
  simp only [checkStrand, hx]

end

end Sys2Proof.Machine
end

section
/-! Pre-emption and resumption of a core (03 R102 to R104). -/

namespace Sys2Proof.Machine

/-! ### A core that goes on (03 R104) -/

/-- The core runs, and its spill queue is empty. -/
def Running (c : Nat) (s : State) : Prop := (s.core c).halt = .none ∧ (s.core c).diverted = []

section
variable {s : State} {c : Nat}

theorem Running.modCore (h : Running c s) {f : Core → Core} (hf : ∀ co, (f co).halt = co.halt ∧ (f co).diverted = co.diverted) :
    Running c (s.modCore c f) := by
  obtain ⟨h1, h2⟩ := hf (s.core c)
  rw [Running, State.modCore_core_self, h1, h2]
  exact h

theorem Running.queueAt (h : Running c s) (slot : Nat) (q : Start) : Running c (queueAt s c slot q) := by
  rw [queueAt_of_running slot q h.1]
  exact h.modCore (fun _ => ⟨rfl, rfl⟩)

theorem Running.dispatchAtMailbox (h : Running c s) (m : Nat) (x : MailMsg) : Running c (dispatchAtMailbox s c m x) := by
  rw [Machine.dispatchAtMailbox]
  split
  · exact h.queueAt _ _
  · split
    · exact h
    · exact h
  · split
    · exact h.modCore (fun _ => ⟨rfl, rfl⟩)
    · exact h.modCore (fun _ => ⟨rfl, rfl⟩)

/-- What is redelivered is not diverted again. -/
theorem redeliver_running (s : State) (c : Nat) : Running c (redeliver s c) := by
  rw [redeliver]
  refine foldl_stays (P := Running c) (fun st d h => ?_) _ ?_
  · cases d with
    | start slot q => exact h.queueAt slot q
    | mail m x => exact h.dispatchAtMailbox m x
  · rw [Running, State.modCore_core_self]
    exact ⟨rfl, rfl⟩

theorem resumeCore_idle (read : State → Nat → Option (List Byte × Word)) (h : liveStrands (s.core c) = []) :
    resumeCore s c read = redeliver s c := by
  simp [resumeCore, h]

end

/-! ### Saved strands (03 R102) -/

/-- A strand as it stands saved. -/
def savedStrand (now : Nat) (x : Strand) : Strand :=
  { freezeTimes now x with
    place := .saved, pending := if x.pending.any (fun p => p.cause.code == cReservedFormat) then none else x.pending }
/-- Its residue. -/
def savedResidue (s : State) (c : Nat) (x : Strand) (code : Code) : Residue :=
  { core := c, check := s.turn.free, v := (savedOf x code).v, seq := x.seq, capture := x.capture, bq := x.bq }

theorem saveStrand_core (s : State) (c k : Nat) (x : Strand) (code : Code) : (saveStrand s c k x code).core c =
    { s.core c with
      strands := smPut (s.core c).strands k (some (savedStrand s.now x))
      residues := smPut (s.core c).residues (saveKey s k) (some (savedResidue s c x code))
      tileStrand := (s.core c).tileStrand.filter (fun t => t.2 != some k) } := by
  rw [saveStrand, State.modCore_core_self, State.setStrand_core_self]
  rfl
theorem saveStrand_strand (s : State) (c k : Nat) (x : Strand) (code : Code) :
    (saveStrand s c k x code).strand c k = some (savedStrand s.now x) := by
  rw [State.strand, saveStrand_core, smGet_smPut_self]
theorem saveStrand_residue (s : State) (c k : Nat) (x : Strand) (code : Code) :
    smGet none ((saveStrand s c k x code).core c).residues (saveKey s k) = some (savedResidue s c x code) := by
  rw [saveStrand_core, smGet_smPut_self]
theorem saveStrand_halt (s : State) (c k : Nat) (x : Strand) (code : Code) :
    ((saveStrand s c k x code).core c).halt = (s.core c).halt := by
  rw [saveStrand_core]

theorem unitWrite_cores {s t : State} {c : Nat} {va : Word} {b : List Byte} (h : unitWrite s c va b = .ok t) :
    t.cores = s.cores := by
  rw [unitWrite] at h
  split at h
  · cases h
  · cases h
  · split at h
    · cases h
    · split at h
      · exact devWrite_cores h
      · cases h

/-! ### Pre-emption (03 R102, R103) -/

/-- The core at its slot boundaries, its queued starts in the spill queue. -/
def quietState (s : State) (c who : Nat) : State :=
  divertQueues ((quiesce s c).modCore c (fun co => { co with halt := .preempted who })) c
/-- One strand goes to its save record; whether a record could not be written is noted. -/
def saveOne (c : Nat) (acc : State × Bool) (k : Nat) : State × Bool :=
  match acc.1.strand c k with
  | none => acc
  | some x =>
    match saveVa acc.1 c k with
    | none => (acc.1, true)
    | some va =>
      match unitWrite acc.1 c va (saveImage acc.1 c k x cPreempt) with
      | .error _ => (acc.1, true)
      | .ok st => (saveStrand st c k x cPreempt, acc.2)

theorem preempt_eq (s : State) (c who : Nat) : preempt s c who =
    let u := quietState s c who
    let r := ((liveStrands (u.core c)).map (·.1)).foldl (saveOne c) (u, false)
    if r.2 then fencePartition r.1 (pkgOf c) (u.core c).part else sendUnit r.1 c (.core who) clsCTL (.preemptDone c) := rfl

section
variable {s st u : State} {c k who : Nat} {x : Strand} {va : Word} {m : Master}

theorem preempt_idle (hl : liveStrands ((quietState s c who).core c) = []) :
    preempt s c who = sendUnit (quietState s c who) c (.core who) clsCTL (.preemptDone c) := by
  rw [preempt_eq]
  simp [hl]

/-- The only strand's record is written, and the requester is told. -/
theorem preempt_saved (hl : liveStrands ((quietState s c who).core c) = [(k, x)])
    (hx : (quietState s c who).strand c k = some x) (hva : saveVa (quietState s c who) c k = some va)
    (hw : unitWrite (quietState s c who) c va (saveImage (quietState s c who) c k x cPreempt) = .ok st) :
    preempt s c who = sendUnit (saveStrand st c k x cPreempt) c (.core who) clsCTL (.preemptDone c) := by
  have h : saveOne c (quietState s c who, false) k = (saveStrand st c k x cPreempt, false) := by
    simp only [saveOne, hx, hva, hw]
  rw [preempt_eq]
  dsimp only
  rw [hl, List.map_cons, List.map_nil, List.foldl_cons, List.foldl_nil, h, if_neg Bool.false_ne_true]

/-- The only strand's record lies beyond the save area, or cannot be written: the partition is fenced. -/
theorem preempt_failed (hl : liveStrands ((quietState s c who).core c) = [(k, x)])
    (hx : (quietState s c who).strand c k = some x)
    (hf : saveVa (quietState s c who) c k = none ∨ ∃ va e, saveVa (quietState s c who) c k = some va ∧
      unitWrite (quietState s c who) c va (saveImage (quietState s c who) c k x cPreempt) = .error e) :
    preempt s c who = fencePartition (quietState s c who) (pkgOf c) ((quietState s c who).core c).part := by
  have h : saveOne c (quietState s c who, false) k = (quietState s c who, true) := by
    rcases hf with hva | ⟨va, e, hva, hw⟩
    · simp only [saveOne, hx, hva]
    · simp only [saveOne, hx, hva, hw]
  rw [preempt_eq]
  dsimp only
  rw [hl, List.map_cons, List.map_nil, List.foldl_cons, List.foldl_nil, h, if_pos rfl]

/-- A numbered message is the last that is kept. -/
theorem sendUnit_last (s : State) (c : Nat) (d : Dest) {cls : Nat} (m : Msg) (h : cls ≠ clsRSP ∧ cls ≠ clsENG) :
    (sendUnit s c d cls m).kept.getLast?.map Kept.what = some (c, d, cls, m) := by
  rw [← List.getLast?_map, sendUnit, send_kept _ _ _ _ _ h, List.getLast?_concat]

/-- A strand that is saved keeps its registers, and its sequencer's entries in its residue. -/
theorem preempt_saved_context (hw : st.cores = u.cores) :
    ∃ y, let t := sendUnit (saveStrand st c k x cPreempt) c (.core who) clsCTL (.preemptDone c)
      (t.core c).halt = (u.core c).halt ∧ t.strand c k = some y ∧
      y.place = .saved ∧ y.s = x.s ∧ y.v = x.v ∧ y.k = x.k ∧ y.pc = x.pc ∧ t.mem = st.mem ∧
      t.kept.getLast?.map Kept.what = some (c, .core who, clsCTL, .preemptDone c) ∧
      ∃ key r, smGet none (t.core c).residues key = some r ∧ r.seq = x.seq ∧ r.bq = x.bq := by
  have hc (j : Nat) : (sendUnit (saveStrand st c k x cPreempt) c (.core who) clsCTL (.preemptDone c)).core j =
      (saveStrand st c k x cPreempt).core j := by rw [State.core, sendUnit_cores, State.core]
  refine ⟨savedStrand st.now x, ?_, ?_, rfl, rfl, rfl, rfl, rfl, send_mem _ _ _ _ _ _, ?_, saveKey st k, savedResidue st c x cPreempt,
    ?_, rfl, rfl⟩
  · rw [hc, saveStrand_halt, State.core, hw, State.core]
  · rw [State.strand, hc, ← State.strand, saveStrand_strand]
  · exact sendUnit_last _ _ _ _ (by decide)
  · rw [hc, saveStrand_residue]

/-! ### The requests (03 R102, R104; log 51) -/

theorem exec_preemptRequest_gang (hg : gangRuns s c = true) : exec (.preemptRequest c who m) s = .next s := by
  change execPreemptRequest c who m s = _
  simp [execPreemptRequest, hg]

section
variable (hm : mayPreempt s c { part := m.part, cls := m.cls } = true)
include hm

/-- A core that takes a request, from a master with the right. -/
theorem exec_preemptRequest (hh : (s.core c).halt = .none) (hd : parkDue (s.core c) = false) (ha : (s.core c).assigned = true)
    (hg : gangRuns s c = false) : exec (.preemptRequest c who m) s =
      if blockAdmits s (clOf c) { part := m.part, cls := m.cls } .cmd then .next (preempt s c who)
      else .next (s.countShepherd (clOf c) 0x10 1 (some m.part)) := by
  change execPreemptRequest c who m s = _
  cases hb : blockAdmits s (clOf c) { part := m.part, cls := m.cls } .cmd <;>
    simp [execPreemptRequest, hh, hd, ha, hg, hm, hb]

theorem exec_resume {h : Nat} (hh : (s.core c).halt = .preempted h) : exec (.resume c m) s =
    if blockAdmits s (clOf c) { part := m.part, cls := m.cls } .cmd then .next (resumeCore s c (readSave c))
    else .next (s.countShepherd (clOf c) 0x10 1 (some m.part)) := by
  change execResume c m s = _
  cases hb : blockAdmits s (clOf c) { part := m.part, cls := m.cls } .cmd <;> simp [execResume, hh, hm, hb]

end
end

end Sys2Proof.Machine
end

section
/-! A core that parks on a reserved format code, and its shepherd's word (09 R196, R197). -/

namespace Sys2Proof.Machine

/-! ### Fault records leave the units as they were (09 R192) -/

/-- No core and no shepherd is changed. -/
def KeepsUnits (s t : State) : Prop := t.cores = s.cores ∧ t.clusters = s.clusters

namespace KeepsUnits

variable {s t u : State}

theorem refl (s : State) : KeepsUnits s s := ⟨rfl, rfl⟩
theorem trans (h : KeepsUnits s t) (h' : KeepsUnits t u) : KeepsUnits s u := ⟨h'.1.trans h.1, h'.2.trans h.2⟩
theorem core (h : KeepsUnits s t) (c : Nat) : t.core c = s.core c := by rw [State.core, h.1, State.core]
theorem cluster (h : KeepsUnits s t) (cl : Nat) : t.cluster cl = s.cluster cl := by rw [State.cluster, h.2, State.cluster]
theorem writeBytes (s : State) (pa : Nat) (b : List Byte) : KeepsUnits s (writeBytes s pa b) :=
  ⟨writeBytes_cores _ _ _, writeBytes_clusters _ _ _⟩
theorem send (s : State) (src : Nat) (who : Ident) (d : Dest) (cls : Nat) (m : Msg) : KeepsUnits s (send s src who d cls m) :=
  ⟨send_cores _ _ _ _ _ _, send_clusters _ _ _ _ _ _⟩
theorem devWrite {p : Nat} {part : BitVec 6} {va : Word} {b : List Byte} (h : devWrite s p part va b = .ok t) : KeepsUnits s t := by
  rw [Machine.devWrite] at h
  split at h
  · cases h
  · cases h; exact writeBytes _ _ _

theorem postFault (s : State) (p : Nat) (r : FaultRec) : KeepsUnits s (postFault s p r) := by
  rw [Machine.postFault]
  split
  · exact refl s
  dsimp only
  split
  · exact refl s
  split
  · exact writeBytes _ _ _
  split
  · exact refl s
  · next h =>
    have hw (pa v : Nat) := (devWrite h).trans (writeBytes _ pa (leBytes 4 v))
    split
    · exact hw _ _
    · split
      · split
        · exact (hw _ _).trans (send _ _ _ _ _ _)
        · exact hw _ _
      · exact hw _ _

end KeepsUnits

/-! ### The core that parks (09 R196) -/

theorem divert_halt (s : State) (c : Nat) (d : Diverted) : ((divert s c d).core c).halt = (s.core c).halt := by
  rw [divert, State.modCore_core_self]
  dsimp only
  split
  · next va _ =>
    cases hw : devWrite s (pkgOf c) (s.core c).part va ((List.range 64).map (Config.spillByte s.tick)) with
    | error e => rfl
    | ok t => exact congrArg Core.halt ((KeepsUnits.devWrite hw).core c)
  · rfl
theorem divertQueues_halt (s : State) (c : Nat) : ((divertQueues s c).core c).halt = (s.core c).halt := by
  rw [divertQueues]
  refine foldl_stays (P := fun t : State => (t.core c).halt = (s.core c).halt) (fun t y h => (divert_halt _ _ _).trans h) _ ?_
  rw [State.modCore_core_self]

/-- One strand of a core that parks goes to its hardware record. -/
def parkOne (c : Nat) (s : State) (k : Nat) : State :=
  match s.strand c k with
  | none => s
  | some x =>
    saveStrand (clearPoison (writeBytes s (hardRecord c k) (saveImage s c k x cPreempt)) (hardRecord c k) 2048) c k x cPreempt
/-- The core parked, its starts diverted and its strands in their records. -/
def parkedCore (s : State) (c k : Nat) : State :=
  let u := divertQueues ((quiesce s c).modCore c (fun co => { co with halt := .parked k })) c
  ((liveStrands (u.core c)).map (·.1)).foldl (parkOne c) u

theorem parkOne_halt (s : State) (c k : Nat) : ((parkOne c s k).core c).halt = (s.core c).halt := by
  rw [parkOne]
  split
  · rfl
  · rw [saveStrand_halt, State.core, clearPoison_cores, writeBytes_cores, State.core]
theorem parkedCore_halt (s : State) (c k : Nat) : ((parkedCore s c k).core c).halt = .parked k := by
  rw [parkedCore]
  refine foldl_stays (P := fun t : State => (t.core c).halt = .parked k) (fun t j h => (parkOne_halt _ _ _).trans h) _ ?_
  rw [divertQueues_halt, State.modCore_core_self]

/-- The word that a core which parks sends to its shepherd (log 28). -/
def parkMail (s : State) (c : Nat) : MailMsg :=
  { args := [BitVec.ofNat 64 cReservedFormat.toNat, 0, 0, 0], s13 := BitVec.ofNat 72 c, part := (s.core c).part }
/-- The core parked, with its message and its event record at the shepherd. -/
def parkTold (s : State) (c k : Nat) : State :=
  postEvent ((parkedCore s c k).modCluster (clOf c) (fun x => { x with shepherdMail := x.shepherdMail ++ [parkMail s c] }))
    (clOf c) (eventRecord 6 c 0 0 1)

theorem parkCore_eq (s : State) (c k : Nat) : parkCore s c k =
    postFault (countDelivery (parkTold s c k) c cReservedFormat (s.core c).part) (pkgOf c)
      { cause := cReservedFormat, core := c, part := (s.core c).part, src := 2, strand := k,
        level := match s.strand c k with
          | some x => roleLevel s x.role
          | none => 0 } := rfl

theorem postEvent_shepherdMail (s : State) (cl : Nat) (r : List Byte) :
    ((postEvent s cl r).cluster cl).shepherdMail = (s.cluster cl).shepherdMail := by
  rw [postEvent]
  split
  · rw [putEvent, State.modCluster_cluster_self, State.cluster, writeBytes_clusters, State.cluster]
  · rw [State.modCluster_cluster_self]

theorem countDelivery_halt (s : State) (c : Nat) (cause : Code) (part : BitVec 6) :
    ((countDelivery s c cause part).core c).halt = (s.core c).halt := by
  rw [countDelivery, State.countCore, State.modCore_core_self]

theorem parkTold_halt (s : State) (c k : Nat) : ((parkTold s c k).core c).halt = .parked k := by
  rw [parkTold, State.core, postEvent_cores, State.modCluster_cores, ← State.core, parkedCore_halt]

theorem parkCore_halt (s : State) (c k : Nat) : ((parkCore s c k).core c).halt = .parked k := by
  rw [parkCore_eq, (KeepsUnits.postFault _ _ _).core, countDelivery_halt, parkTold_halt]
theorem parkCore_mail (s : State) (c k : Nat) : ((parkCore s c k).cluster (clOf c)).shepherdMail =
    ((parkedCore s c k).cluster (clOf c)).shepherdMail ++ [parkMail s c] := by
  have h (t : State) : (countDelivery t c cReservedFormat (s.core c).part).cluster (clOf c) = t.cluster (clOf c) := rfl
  rw [parkCore_eq, (KeepsUnits.postFault _ _ _).cluster, h, parkTold, postEvent_shepherdMail, State.modCluster_cluster_self]

section
variable {s t : State} {c k : Nat} {x : Strand} {m : Master}

theorem exec_corePark (hh : (s.core c).halt = .none) (hk : decodingStrand (s.core c) = some k) :
    exec (.corePark c) s = .next (if gangRuns s c then s else parkCore s c k) := by
  change execCorePark c s = _
  simp only [execCorePark, hh, hk]

/-! ### PARKACT (09 R197) -/

theorem exec_parkactRetry (hh : (s.core c).halt = .parked k) (ha : parkActs s c m 1 = true) :
    exec (.parkactRetry c m) s = .next (resumeCore s c (readHard c)) := by
  change execParkactRetry c m s = _
  simp only [execParkactRetry, hh, ha, if_true]
theorem exec_parkactEnd (hh : (s.core c).halt = .parked k) (ha : parkActs s c m 2 = true) (hx : s.strand c k = some x)
    (ht : endInTrap s c k { x with tm := true, cause := cReservedFormat } cReservedFormat = some t) :
    exec (.parkactEnd c m) s = .next (resumeCore t c (readHard c)) := by
  change execParkactEnd c m s = _
  simp only [execParkactEnd, hh, ha, hx, ht, Bool.not_true, Bool.false_eq_true, if_false]

end

/-- Settles O45: each event has its equation; the only strand of a core that is pre-empted is saved or its partition fenced
(`preempt_saved`, `preempt_failed`), and nothing that follows a core's halting or going on undoes it (`parkCore_halt`,
`redeliver_running`). -/
theorem strandEvents : Obligations.StrandEvents := by
  unfold Obligations.StrandEvents
  refine ⟨?_, ?_, ?_, ?_, ?_⟩
  · intro s c k x hx
    refine ⟨fun p hp hh hd hv => exec_trapEntry hx hp hh hd hv, fun hl hh hf hn => exec_strandWatchdog hx hl hh hf hn,
      fun touched h hk w => ?_⟩
    exact congrArg _ (machineCheck_one hx h hk w)
  · rintro s c who m _ rfl hm
    refine ⟨?_, exec_preemptRequest_gang, fun h hh => ⟨fun hb => ?_, fun hb => ?_⟩⟩
    · rintro ⟨hh, hd, ha, hg⟩
      rw [exec_preemptRequest hm hh hd ha hg]
      refine ⟨fun hb => ?_, fun hb hl => ?_, fun k x va st hb hl hx _ hva hw => ?_, fun k x hb hl hx hf => ?_⟩
      · rw [hb, if_neg Bool.false_ne_true]
      · rw [hb, if_pos rfl, preempt_idle hl]; rfl
      · obtain ⟨y, hy⟩ := preempt_saved_context (who := who) (k := k) (x := x) (c := c) (unitWrite_cores hw)
        exact ⟨_, y, by rw [hb, if_pos rfl, preempt_saved hl hx hva hw], hy⟩
      · rw [hb, if_pos rfl, preempt_failed hl hx hf]; rfl
    · rw [exec_resume hm hh, hb, if_pos rfl]
    · rw [exec_resume hm hh, hb, if_neg Bool.false_ne_true]
  · exact fun s c read hl => ⟨resumeCore_idle read hl, redeliver_running s c⟩
  · intro s c k hh hk
    rw [exec_corePark hh hk]
    refine ⟨fun hg => by rw [hg, if_pos rfl], fun hg => ?_⟩
    rw [hg, if_neg Bool.false_ne_true]
    exact ⟨_, _, rfl, parkCore_halt s c k, parkCore_mail s c k⟩
  · intro s c k m hh
    exact ⟨exec_parkactRetry hh, fun x t ha hx ht => exec_parkactEnd hh ha hx ht⟩

end Sys2Proof.Machine
end

section
/-! The state after reset (05 R130; 07 R156; 12 R258; 28 R494, R498). -/

namespace Sys2Proof.Machine

/-- Each unit that a reset machine has is the unit's own reset value. -/
@[simp] theorem State.reset_core (c : Nat) : State.reset.core c = Core.reset := rfl
@[simp] theorem State.reset_cluster (cl : Nat) : State.reset.cluster cl = Cluster.reset := rfl
@[simp] theorem State.reset_die (d : Nat) : State.reset.die d = Die.reset := rfl
@[simp] theorem State.reset_pkg (p : Nat) : State.reset.pkg p = Package.reset := rfl

theorem Core.reset_queue (q : Fin 16) : (Core.reset.queues.get q).bound = false := by
  revert q; decide
theorem Core.reset_engSeq (e : Fin 4) : Core.reset.engSeq.get e = 0 := by
  revert e; decide

/-- The access tables are clear but for partition 63 (07 R156). -/
theorem State.reset_rights (t : Nat × Nat) (id : Ident) :
    State.reset.rights t id = if id.part = 63 then 0xF else 0 := rfl

/-- Settles O5: memory is empty, and each value is that of the unit's reset. -/
theorem resetState : Obligations.ResetState := by
  unfold Obligations.ResetState
  refine ⟨rfl, rfl, fun c => ?_, fun _ => rfl, State.reset_rights, fun _ => ⟨rfl, rfl⟩, fun _ => ⟨rfl, rfl⟩⟩
  exact ⟨rfl, rfl, rfl, fun _ => rfl, fun _ => rfl, rfl, fun _ => rfl, Core.reset_queue, Core.reset_engSeq, rfl, rfl, rfl, rfl, rfl⟩

end Sys2Proof.Machine
end

section
/-! Entries of the vector rows: what one leaves that completes, that traps, that parks its core (14 R268 to R270, R289). -/

namespace Sys2Proof.Machine

/-! ### The end of an entry -/

section
variable {s : State} {a : Actor}

/-- At its entry a shadowable instruction has its effect, and the tag of a shadow that it carries follows. -/
theorem executeShadowable_next (h : AtEntry s a) (i : Instr) (sh : Bool) {tag : Actor → Bool → State → State}
    {body : Actor → R Res} {t : State} (hb : body a = .ok (.next t)) :
    executeShadowable s i sh tag body =
      finishEntry a (.ok (.next (if shadowMarks s a then tag a s.turn.upset t else t))) := by
  have hm : shadowMarks s a = (!residueMode s a.core && headShadowed a.x) := rfl
  simp only [executeShadowable, h.1, h.2, if_true, hb, hm]
  cases !residueMode s a.core && headShadowed a.x <;> rfl

/-- An entry that does not complete ends as its meaning ends. -/
theorem executeShadowable_error (h : AtEntry s a) (i : Instr) (sh : Bool) {tag : Actor → Bool → State → State}
    {body : Actor → R Res} {e : Stop} (hb : body a = .error e) :
    executeShadowable s i sh tag body = finishEntry a (.error e) := by
  simp only [executeShadowable, h.1, h.2, if_true, hb, ite_self]

/-- An entry whose meaning leaves the core `co` and the strand `y`, the tag of its shadow included. -/
theorem executeShadowable_completes (h : AtEntry s a) {i : Instr} {sh : Bool} {tag : Actor → Bool → State → State}
    {body : Actor → R Res} {t : State} {co : Core} {y : Strand} (hi : exec i s = executeShadowable s i sh tag body)
    (hb : body a = .ok (.next t))
    (hl : Leaves s (if shadowMarks s a then tag a s.turn.upset t else t) a co y) : EntryCompletes i s a co y :=
  ⟨_, hi.trans (executeShadowable_next h i sh hb), hl.modStrand _⟩

theorem executeShadowable_traps (h : AtEntry s a) {i : Instr} {sh : Bool} {tag : Actor → Bool → State → State}
    {body : Actor → R Res} {code : Code} {eva : Word} (hi : exec i s = executeShadowable s i sh tag body)
    (hb : body a = trapAt s code eva) : EntryTraps i s a code eva :=
  hi.trans (executeShadowable_error h i sh hb)

/-! ### Flags, draws and lanes (14 R269, R270) -/

theorem commitFlags_trap (s : State) (c : Nat) {r : Raised} {code : Code} (seed : BitVec 32)
    (h : firstCause (s.core c).fctl r = some code) : commitFlags s c r seed = trapAt s code 0 := by
  rw [commitFlags, h]
theorem commitFlags_ok (s : State) (c : Nat) {r : Raised} (seed : BitVec 32) (h : firstCause (s.core c).fctl r = none) :
    commitFlags s c r seed = .ok (orFlags (setSeed s c seed) c r.flags) := by
  rw [commitFlags, h]

theorem Leaves.committed {u : State} {co : Core} {y : Strand} (h : Leaves s u a co y) (r : Raised) (seed : BitVec 32) :
    Leaves s (Machine.orFlags (setSeed u a.core seed) a.core r.flags) a (flagged co r seed) y :=
  (h.modCore (fun q => { q with seed := seed }) (fun _ _ => rfl)).orFlags r.flags

/-- Lanes run in the order given, one result each. -/
theorem runLanes_lanes (f : Nat → BitVec 32 → LaneRes) (l : List Nat) (seed : BitVec 32) :
    (runLanes f l seed).1.map (·.1) = l := by
  induction l generalizing seed with
  | nil => rfl
  | cons i t ih => simp [runLanes, ih]
theorem runLanes_isEmpty (f : Nat → BitVec 32 → LaneRes) (l : List Nat) (seed : BitVec 32) :
    (runLanes f l seed).1.isEmpty = l.isEmpty := by
  cases l <;> rfl

/-- Lanes written by the head entry, and the tag that its shadow leaves where there are any (14 R289; 26 R473). -/
theorem Leaves.withLanes {u : State} {co : Core} (h : Leaves s u a co a.x) (d : Fin 32) (w : Nat) (ls : List (Nat × Nat)) :
    ∃ t, writeLanes u a (.v d) w ls = .ok t ∧
      Leaves s (if shadowMarks s a then tagIf (!ls.isEmpty) (tagV d a) s.turn.upset t else t) a co
        (Machine.withLanes s a a.x d w ls) := by
  refine ⟨_, rfl, ?_⟩
  cases ls with
  | nil => simpa [tagIf, Machine.withLanes] using h
  | cons p l =>
    have h1 : Leaves s (putV u a d ((p :: l).foldl (fun v l => setLane w v l.1 l.2) a.x.v[d])) a co
        { a.x with v := a.x.v.set d (putLanes w (a.x.v.get d) (p :: l)), checks := a.x.checks.wroteV d } := h.modStrand _
    simp only [Machine.withLanes, reduceCtorEq, if_false, List.isEmpty_cons, Bool.false_eq_true]
    cases shadowMarks s a with
    | false => exact h1
    | true => exact h1.modStrand _

/-- Results committed and written to a v register. -/
theorem commit_withLanes (h : AtEntry s a) (d : Fin 32) (w : Nat) {q : List (Nat × Nat) × Raised × BitVec 32}
    (hf : firstCause (s.core a.core).fctl q.2.1 = none) :
    ∃ t, (commitFlags s a.core q.2.1 q.2.2).bind (fun u => (writeLanes u a (.v d) w q.1).map Res.next) = .ok (.next t) ∧
      Leaves s (if shadowMarks s a then tagIf (!q.1.isEmpty) (tagV d a) s.turn.upset t else t) a
        (flagged (s.core a.core) q.2.1 q.2.2) (Machine.withLanes s a a.x d w q.1) := by
  obtain ⟨t, ht, hl⟩ := (h.leaves.committed q.2.1 q.2.2).withLanes d w q.1
  exact ⟨t, by rw [commitFlags_ok _ _ _ hf, Except.bind, ht, Except.map], hl⟩

/-! ### Lane-wise instructions -/

/-- A meaning whose queue needs are met and whose sources are read. -/
theorem sources_read {us : List QUse} {srcs : List VSrc} {t : LaneTy} {vs : List VWord} (k : List VWord → R Res)
    (hq : queuesReady s a us = .ok ()) (hv : srcs.mapM (vsrc s a t) = .ok vs) :
    ((queuesReady s a us).bind fun _ => (srcs.mapM (vsrc s a t)).bind k) = k vs := by
  rw [hq, hv]; rfl

theorem vectorOp_trap {g : Guard} {t : LaneTy} (d : VReg) {f : Nat → BitVec 32 → LaneRes} {code : Code}
    (hf : firstCause (s.core a.core).fctl (runLanes f (a.lanes g t) (s.core a.core).seed).2.1 = some code) :
    vectorOp s a g t d f = trapAt s code 0 := by
  simp only [vectorOp, commitFlags_trap _ _ _ hf, trapAt]

theorem vectorOp_eq (s : State) (a : Actor) (g : Guard) (t : LaneTy) (d : VReg) (f : Nat → BitVec 32 → LaneRes) :
    vectorOp s a g t d f =
      (commitFlags s a.core (runLanes f (a.lanes g t) (s.core a.core).seed).2.1
        (runLanes f (a.lanes g t) (s.core a.core).seed).2.2).bind fun u =>
          (writeLanes u a d t.width (runLanes f (a.lanes g t) (s.core a.core).seed).1).map Res.next := by
  rw [vectorOp]
  cases commitFlags s a.core (runLanes f (a.lanes g t) (s.core a.core).seed).2.1
    (runLanes f (a.lanes g t) (s.core a.core).seed).2.2 <;> rfl

/-- R270 for an instruction that `laneOp` executes with the lane function `f`. -/
theorem laneOp_result (h : AtEntry s a) {i : Instr} {sh : Bool} {g : Guard} {t : LaneTy} {d : VReg} {srcs : List VSrc}
    {vs : List VWord} {f : State → Actor → List VWord → Nat → BitVec 32 → LaneRes}
    (hi : exec i s = laneOp s i sh g t d srcs f)
    (hq : queuesReady s a (regUseOut d ++ srcs.flatMap srcUse) = .ok ()) (hv : srcs.mapM (vsrc s a t) = .ok vs) :
    let r := runLanes (f s a vs) (a.lanes g t) (s.core a.core).seed
    match firstCause (s.core a.core).fctl r.2.1 with
    | some code => EntryTraps i s a code 0
    | none => ∀ j, d = .v j → EntryCompletes i s a (flagged (s.core a.core) r.2.1 r.2.2)
        (Machine.withLanes s a a.x j t.width r.1) := by
  have hb := sources_read (fun vs => vectorOp s a g t d (f s a vs)) hq hv
  dsimp only
  split
  · next code hf => exact executeShadowable_traps h hi (hb.trans (vectorOp_trap d hf))
  · next hf =>
    rintro j rfl
    obtain ⟨u, hu, hl⟩ := commit_withLanes h j t.width hf
    refine executeShadowable_completes h hi (hb.trans ((vectorOp_eq ..).trans hu)) ?_
    rwa [runLanes_isEmpty] at hl

end

theorem minMaxLane_eq (t : LaneTy) (max : Bool) (s : State) (a : Actor) :
    minMaxLane t max s a = fun vs n seed => LaneRes.exact
      (if t.isInt then
        (if decide (intOf t.isSigned t.width (argBits t vs 0 n) < intOf t.isSigned t.width (argBits t vs 1 n)) != max
          then argBits t vs 0 n else argBits t vs 1 n)
      else fpMinMax (laneFp t) max (argBits t vs 0 n) (argBits t vs 1 n)) seed := by
  funext vs n seed
  rw [minMaxLane]
  split <;> rfl

/-- The lane function of the special functions (14 R283). -/
def specialLane (fn : SpecialFn) (f : V2) (_ : State) (_ : Actor) (vs : List VWord) (n : Nat) (seed : BitVec 32) : LaneRes :=
  let r := specialFn fn f.lt f.sat (argBits f.lt vs 0 n)
  { bits := r.1, raised := Raised.ofFlags r.2, seed := seed }
theorem specialOp_eq (fn : SpecialFn) (i : Instr) (f : V2) (s : State) :
    specialOp fn i f s = laneOp s i f.sh f.g f.lt f.d [f.a] (specialLane fn f) := rfl

/-- A lane-wise instruction is a `laneOp` with the lane function that the list gives it. -/
def IsLaneOp (s : State) (a : Actor) (p : LaneWise) : Prop :=
  ∃ sh f, exec p.i s = laneOp s p.i sh p.g p.t p.d p.srcs f ∧ f s a = p.f

theorem isLaneOp_special {s : State} (a : Actor) (fn : SpecialFn) (f : V2) {i : Instr} (h : exec i s = specialOp fn i f s) :
    IsLaneOp s a ⟨i, f.g, f.lt, f.d, [f.a], specialLane fn f s a⟩ :=
  ⟨f.sh, specialLane fn f, h, rfl⟩

theorem isLaneOp_of {s : State} {a : Actor} {i : Instr} {sh : Bool} {g : Guard} {t : LaneTy} {d : VReg} {srcs : List VSrc}
    {f : State → Actor → List VWord → Nat → BitVec 32 → LaneRes} {f' : List VWord → Nat → BitVec 32 → LaneRes}
    (h : exec i s = laneOp s i sh g t d srcs f) (hf : f s a = f') : IsLaneOp s a ⟨i, g, t, d, srcs, f'⟩ :=
  ⟨sh, f, h, hf⟩

theorem laneWise_isLaneOp (s : State) (a : Actor) (f3 : V3) (f4 : V4) (fn : V3n) (f2 : V2) (fs : VselF) (fp : VpermF)
    (fb : VbcastF) : ∀ p ∈ laneWise s a f3 f4 fn f2 fs fp fb, IsLaneOp s a p := by
  simp only [laneWise, List.forall_mem_cons]
  exact ⟨isLaneOp_of rfl rfl, isLaneOp_of rfl rfl, isLaneOp_of rfl rfl, isLaneOp_of rfl rfl, isLaneOp_of rfl rfl,
    isLaneOp_of rfl rfl, isLaneOp_of rfl (minMaxLane_eq ..), isLaneOp_of rfl (minMaxLane_eq ..),
    isLaneOp_of rfl rfl, isLaneOp_of rfl rfl, isLaneOp_of rfl rfl, isLaneOp_of rfl rfl, isLaneOp_of rfl rfl,
    isLaneOp_of rfl rfl, isLaneOp_of rfl rfl, isLaneOp_of rfl rfl, isLaneOp_of (rfl : _ = execVsel fs s) rfl,
    isLaneOp_of (rfl : _ = execVperm fp s) rfl, isLaneOp_of (rfl : _ = execVbcast fb s) rfl,
    isLaneOp_special a .rcp f2 rfl, isLaneOp_special a .rsq f2 rfl, isLaneOp_special a .exp f2 rfl,
    isLaneOp_special a .exp2 f2 rfl, isLaneOp_special a .log2 f2 rfl, isLaneOp_special a .tanh f2 rfl,
    isLaneOp_special a .sin f2 rfl, isLaneOp_special a .cos f2 rfl, List.forall_mem_nil _⟩

/-- Settles O23: each instruction of the list is a `laneOp` (`laneWise_isLaneOp`), whose results are committed together or not
at all (`laneOp_result`). -/
theorem vectorLanes : Obligations.VectorLanes := by
  unfold Obligations.VectorLanes
  intro s a f3 f4 fn f2 fs fp fb h p hp vs hq hv
  obtain ⟨sh, f, hi, hf⟩ := laneWise_isLaneOp s a f3 f4 fn f2 fs fp fb p hp
  have hr := laneOp_result h hi hq hv
  rwa [hf] at hr

/-! ### Conversions (14 R284) -/

section
variable {s : State} {a : Actor} {f : VcvtF} {i : Fin 16} {x : VWord}

/-- A pattern of a block type that decodes no exponent of 0xFF, as the element of lane `n`. -/
def cvtElt (f : VcvtF) (x : VWord) (e0 e1 n : Nat) : Option Num :=
  blockDecode (f.st == .db4) e0 e1 (lane f.st.width x ((cvtSource f.st f.dt f.pos.toNat n).getD 0))

/-- What VCVT does once its source is read: the checks of its exponents, then its lanes. -/
def cvtBody (s : State) (a : Actor) (f : VcvtF) (x : VWord) (e0 e1 : Nat) : R Res :=
  if f.dt.isBlock && (e0 == 0xFF || e1 == 0xFF) then trapAt s cBlockScale 0
  else if f.st.isBlock && (cvtLanes f a).any (fun n => (cvtElt f x e0 e1 n).isNone) then .error (.park s)
  else
    let q := runLanes (fun n seed =>
      let elt := if f.st.isBlock then Elt.num ((cvtElt f x e0 e1 n).getD numZero)
        else laneElt f.st (lane f.st.width x ((cvtSource f.st f.dt f.pos.toNat n).getD 0))
      if f.dt.isBlock then eltToBlock (f.dt == .db4) (modeOf f.rm (s.core a.core).fctl) f.sat e0 e1 elt seed
      else eltTo f.dt (modeOf f.rm (s.core a.core).fctl) f.sat elt seed) (cvtLanes f a) (s.core a.core).seed
    (commitFlags s a.core q.2.1 q.2.2).bind (fun u => (writeLanes u a (.v f.d) f.dt.width q.1).map Res.next)

/-- VCVT is a shadowable instruction whose meaning is `cvtBody`. -/
theorem exec_vcvt (hc : f.c = some i) (hq : queuesReady s a (srcUse f.a) = .ok ()) (hx : vsrc s a f.st f.a = .ok x) :
    ∃ body, exec (.vcvt f) s = executeShadowable s (.vcvt f) f.sh
        (fun a => tagIf (!(cvtLanes f a).isEmpty) (tagV f.d a)) body ∧
      body a = cvtBody s a f x (bits (a.sr.get i) 0 8) (bits (a.sr.get i) 8 8) := by
  refine ⟨_, rfl, ?_⟩
  simp only [hq, hx, hc]
  rfl

theorem markPark_strand {x : Strand} (hx : s.strand a.core a.k = some x) (hs : (s.core a.core).spec = none) :
    ∃ y, (markPark s a).strand a.core a.k = some y ∧ y.v = x.v ∧ y.seq = x.seq ∧
      y.pending.map (·.cause.code) = some cReservedFormat := by
  simp only [markPark, hx, hs]
  exact ⟨_, State.setStrand_strand_self .., rfl, rfl, rfl⟩

/-- Lanes that VCVT converts and commits. -/
theorem vcvt_completes (h : AtEntry s a) (hc : f.c = some i) (hq : queuesReady s a (srcUse f.a) = .ok ())
    (hx : vsrc s a f.st f.a = .ok x) {one : Nat → BitVec 32 → LaneRes}
    (hb : let q := runLanes one (cvtLanes f a) (s.core a.core).seed
      cvtBody s a f x (bits (a.sr.get i) 0 8) (bits (a.sr.get i) 8 8) =
        (commitFlags s a.core q.2.1 q.2.2).bind (fun u => (writeLanes u a (.v f.d) f.dt.width q.1).map Res.next))
    (hf : firstCause (s.core a.core).fctl (runLanes one (cvtLanes f a) (s.core a.core).seed).2.1 = none) :
    let q := runLanes one (cvtLanes f a) (s.core a.core).seed
    EntryCompletes (.vcvt f) s a (flagged (s.core a.core) q.2.1 q.2.2) (Machine.withLanes s a a.x f.d f.dt.width q.1) := by
  obtain ⟨body, hi, hbody⟩ := exec_vcvt hc hq hx
  obtain ⟨u, hu, hl⟩ := commit_withLanes h f.d f.dt.width hf
  rw [runLanes_isEmpty] at hl
  exact executeShadowable_completes h hi (hbody.trans (hb.trans hu)) hl

end

/-- Settles O25: the four cases are the branches of `cvtBody`; a core that parks leaves the strand where it stood
(`markPark_strand`). -/
theorem blockConversions : Obligations.BlockConversions := by
  unfold Obligations.BlockConversions
  intro s a f i x h hc hq hx
  obtain ⟨body, hi, hbody⟩ := exec_vcvt hc hq hx
  refine ⟨fun hd he => ?_, fun hd hs h0 h1 hf => ?_, fun hs hd hall hf => ?_, fun hs hd hsp hany => ?_⟩
  · refine executeShadowable_traps h hi (hbody.trans (if_pos ?_))
    simpa [hd] using he
  · refine vcvt_completes h hc hq hx ?_ hf
    simp [cvtBody, hd, hs, h0, h1]
  · refine vcvt_completes h hc hq hx ?_ hf
    simp only [cvtBody, hd, hs, Bool.false_and, Bool.true_and, Bool.false_eq_true, if_false, if_true]
    rw [if_neg]
    · rfl
    · simp only [List.any_eq_true, not_exists, not_and, Bool.not_eq_true, Option.isNone_eq_false_iff]
      exact hall
  · have hp : body a = .error (.park s) := by
      refine hbody.trans ((if_neg (by simp [hd])).trans (if_pos ?_))
      rw [hs, Bool.true_and]
      exact hany
    obtain ⟨y, hy, hv, hseq, hpend⟩ := markPark_strand h.strand hsp
    exact ⟨_, y, hi.trans (executeShadowable_error h _ _ hp), hy, hv, hseq, hpend⟩

end Sys2Proof.Machine
end

section
/-! Memory in its canonical form (log 4): what a result carries, and the operations that bear on memory. -/

namespace Sys2Proof.Machine

/-! ### Canonical results -/

/-- Memory stands in its canonical form. -/
def Canon (s : State) : Prop := Memory.wf s.mem

/-- The state that a stop carries is canonical. -/
def StopCanon : Stop → Prop
  | .trap s _ | .again s | .park s | .dead s => Canon s
  | .refuse _ => True
/-- The state of a completed slot or entry is canonical. -/
def ResCanon : Res → Prop
  | .next s | .jump s _ | .gone s | .after s _ => Canon s
/-- The state that an access leaves at its home is canonical. -/
def DoneCanon : Done → Prop
  | .ok s _ | .fail s _ _ => Canon s
  | .refuse _ => True
/-- The state that a control write leaves is canonical. -/
def CtlCanon : CtlResult → Prop
  | .done s => Canon s
  | _ => True
/-- The state that the duplicate filter leaves is canonical. -/
def VerdictCanon : Verdict → Prop
  | .execute s | .discard s => Canon s
  | _ => True
/-- The state that a held instruction leaves is canonical. -/
def IssuedCanon : Issued → Prop
  | .done s _ | .wait s _ => Canon s
  | .refuse _ => True
/-- The state at which a scan stops is canonical. -/
def ScanCanon : ScanEnd → Prop
  | .unread s _ _ => Canon s
  | _ => True
/-- The next state, where there is one, is canonical. -/
def OutCanon : Out → Prop
  | .next s => Canon s
  | _ => True
/-- What is there satisfies `P`. -/
def OptCanon {α : Type} (P : α → Prop) : Option α → Prop
  | some x => P x
  | none => True
/-- A value satisfies `P`, and an error `E`. -/
def ExceptCanon {ε α : Type} (E : ε → Prop) (P : α → Prop) : Except ε α → Prop
  | .ok x => P x
  | .error e => E e
/-- The result of a meaning: its value satisfies `P`, and a state at which it stops is canonical. -/
abbrev RCanon {α : Type} (P : α → Prop) : R α → Prop := ExceptCanon StopCanon P

theorem Canon.foldl {α : Type} {f : State → α → State} {s : State} (hs : Canon s) (h : ∀ s x, Canon s → Canon (f s x))
    (l : List α) : Canon (l.foldl f s) :=
  foldl_stays h l hs
theorem Canon.foldl_fst {α β : Type} {f : State × β → α → State × β} {r : State × β} (hs : Canon r.1)
    (h : ∀ (r : State × β) x, Canon r.1 → Canon (f r x).1) (l : List α) : Canon (l.foldl f r).1 :=
  foldl_stays (P := fun r : State × β => Canon r.1) h l hs

section
variable {ε α β : Type} {E : ε → Prop} {P : α → Prop} {Q : β → Prop}

theorem ExceptCanon.bind {x : Except ε α} {f : α → Except ε β} (hx : ExceptCanon E P x)
    (hf : ∀ v, P v → ExceptCanon E Q (f v)) : ExceptCanon E Q (x.bind f) := by
  cases x with
  | ok v => exact hf v hx
  | error e => exact hx
theorem ExceptCanon.map {x : Except ε α} {f : α → β} (hx : ExceptCanon E P x) (hf : ∀ v, P v → Q (f v)) :
    ExceptCanon E Q (x.map f) := by
  cases x with
  | ok v => exact hf v hx
  | error e => exact hx
theorem ExceptCanon.of_ok {x : Except ε α} {v : α} (hx : ExceptCanon E P x) (h : x = .ok v) : P v := by
  subst h
  exact hx
theorem ExceptCanon.getD {x : Except ε State} {s : State} (hx : ExceptCanon E Canon x) (hs : Canon s) :
    Canon (x.toOption.getD s) := by
  cases x with
  | ok v => exact hx
  | error e => exact hs
/-- A list of values read one by one, of which nothing is claimed. -/
theorem ExceptCanon.mapM {f : β → Except ε α} (h : ∀ b, ExceptCanon E (fun _ => True) (f b)) (l : List β) :
    ExceptCanon E (fun _ => True) (l.mapM f) := by
  induction l with
  | nil => trivial
  | cons b t ih =>
    rw [List.mapM_cons]
    exact (h b).bind fun _ _ => ih.bind fun _ _ => True.intro
theorem OptCanon.bind {x : Option α} {f : α → Option β} (hx : OptCanon P x) (hf : ∀ v, P v → OptCanon Q (f v)) :
    OptCanon Q (x.bind f) := by
  cases x with
  | some v => exact hf v hx
  | none => trivial
theorem OptCanon.map {x : Option α} {f : α → β} (hx : OptCanon P x) (hf : ∀ v, P v → Q (f v)) : OptCanon Q (x.map f) := by
  cases x with
  | some v => exact hf v hx
  | none => trivial

end

/-! ### Mem -/

theorem State.setCore_canon {s : State} (c : Nat) (x : Core) (hs : Canon s) : Canon (State.setCore s c x) := hs
theorem State.modCore_canon {s : State} (c : Nat) (f : Core → Core) (hs : Canon s) : Canon (State.modCore s c f) := hs
theorem State.setCluster_canon {s : State} (cl : Nat) (x : Cluster) (hs : Canon s) : Canon (State.setCluster s cl x) := hs
theorem State.modCluster_canon {s : State} (cl : Nat) (f : Cluster → Cluster) (hs : Canon s) :
    Canon (State.modCluster s cl f) := hs
theorem State.setDie_canon {s : State} (d : Nat) (x : Die) (hs : Canon s) : Canon (State.setDie s d x) := hs
theorem State.modDie_canon {s : State} (d : Nat) (f : Die → Die) (hs : Canon s) : Canon (State.modDie s d f) := hs
theorem State.setPkg_canon {s : State} (p : Nat) (x : Package) (hs : Canon s) : Canon (State.setPkg s p x) := hs
theorem State.modPkg_canon {s : State} (p : Nat) (f : Package → Package) (hs : Canon s) : Canon (State.modPkg s p f) := hs
theorem State.setStrand_canon {s : State} (c : Nat) (k : Nat) (x : Strand) (hs : Canon s) : Canon (State.setStrand s c k x) :=
    hs
theorem State.dropStrand_canon {s : State} (c : Nat) (k : Nat) (hs : Canon s) : Canon (State.dropStrand s c k) := hs
theorem State.modStrand_canon {s : State} (c : Nat) (k : Nat) (f : Strand → Strand) (hs : Canon s) :
    Canon (State.modStrand s c k f) := by
  grind [State.modStrand, State.setStrand_canon]
theorem State.putByte_canon {s : State} (pa : Nat) (b : Byte) (hs : Canon s) : Canon (s.putByte pa b) := s.putByte_wf pa b hs
theorem writeBytes_canon {s : State} (pa : Nat) (b : List Byte) (hs : Canon s) : Canon (writeBytes s pa b) :=
    writeBytes_wf b s pa hs
theorem writeU_canon {s : State} (pa : Nat) (n : Nat) (v : Nat) (hs : Canon s) : Canon (writeU s pa n v) :=
    writeBytes_canon _ _ hs
theorem writeD_canon {s : State} (pa : Nat) (v : DWord) (hs : Canon s) : Canon (writeD s pa v) := writeU_canon _ _ _ hs
theorem State.countCore_canon {s : State} (c : Nat) (code : Nat) (n : Nat) (part : Option (BitVec 6)) (hs : Canon s) :
    Canon (State.countCore s c code n part) := hs
theorem State.countShepherd_canon {s : State} (cl : Nat) (code : Nat) (n : Nat) (part : Option (BitVec 6)) (hs : Canon s) :
    Canon (State.countShepherd s cl code n part) := hs
theorem State.countPort_canon {s : State} (p : Nat) (g : Nat) (code : Nat) (n : Nat) (part : Option (BitVec 6))
    (hs : Canon s) : Canon (State.countPort s p g code n part) := hs
theorem State.countDenial_canon {s : State} (pa : Nat) (part : BitVec 6) (hs : Canon s) :
    Canon (State.countDenial s pa part) := by
  grind [State.countDenial, State.countPort_canon, State.countShepherd_canon, State.countCore_canon]
theorem State.countWalk_canon {s : State} (w : WalkResult) (part : BitVec 6) (hs : Canon s) :
    Canon (State.countWalk s w part) := by
  unfold State.countWalk
  grind [State.countDenial_canon]

/-! ### Home -/

theorem routineWrite_canon {s : State} (id : Ident) (c : Nat) (slot : Nat) (half : Nat) (v : DWord) (hs : Canon s) :
    Canon (routineWrite s id c slot half v) := by
  grind [routineWrite, State.setCore_canon, State.countShepherd_canon]
theorem setSharedScale_canon {s : State} (p pa : Nat) (hs : Canon s) : Canon (setSharedScale s p pa) := by
  unfold setSharedScale
  dsimp only
  split
  · exact State.modPkg_canon _ _ hs
  · exact hs
theorem ctlWrite_canon {s : State} (id : Ident) (pa : Nat) (v : DWord) (hs : Canon s) : CtlCanon (ctlWrite s id pa v) := by
  grind [ctlWrite, writeD_canon, setSharedScale_canon, State.modPkg_canon, State.modCore_canon, routineWrite_canon,
    State.modCluster_canon, CtlCanon]
theorem clearPoison_canon {s : State} (pa : Nat) (n : Nat) (hs : Canon s) : Canon (clearPoison s pa n) := hs
theorem ctlStore_canon {s : State} (id : Ident) (pa : Nat) (bytes : List Byte) (skip : Bool) (ws : List Nat) (hs : Canon s) :
    DoneCanon (ctlStore s id pa bytes skip ws) := by
  induction ws generalizing s skip with
  | nil => exact hs
  | cons w t ih => grind [ctlStore, State.countDenial_canon, !.ctlWrite_canon, CtlCanon, DoneCanon]
theorem targetLoad_canon {s : State} (id : Ident) (pa : Nat) (n : Nat) (geom2 : Bool) (hs : Canon s) :
    DoneCanon (targetLoad s id pa n geom2) := by
  grind [targetLoad, State.countDenial_canon, DoneCanon]
theorem targetStore_canon {s : State} (id : Ident) (pa : Nat) (geom2 : Bool) (bytes : List Byte) (hs : Canon s) :
    DoneCanon (targetStore s id pa geom2 bytes) := by
  grind [targetStore, !.ctlStore_canon, writeBytes_canon, clearPoison_canon, DoneCanon]
theorem writeNibble_canon {s : State} (h : Nat) (v : Nat) (hs : Canon s) : Canon (writeNibble s h v) :=
    State.putByte_canon _ _ hs
theorem writeElem_canon {s : State} (four : Bool) (h : Nat) (v : Nat) (hs : Canon s) : Canon (writeElem s four h v) := by
  grind [writeElem, State.putByte_canon, writeNibble_canon]
theorem blockApply_canon {s : State} (b : BlockWrite) (hs : Canon s) : Canon (blockApply s b) := by
  unfold blockApply
  grind [writeBytes_canon, writeElem_canon, Canon.foldl]
theorem performAt_canon {s : State} (id : Ident) (a : Access) (hs : Canon s) : DoneCanon (performAt s id a) := by
  unfold performAt
  split
  · exact State.countDenial_canon _ _ hs
  split
  · exact targetLoad_canon _ _ _ _ hs
  · grind [!.targetLoad_canon, DoneCanon]
  · exact targetStore_canon _ _ _ _ hs
  · exact targetStore_canon _ _ _ _ hs
  · grind [!.targetStore_canon, !.targetLoad_canon, DoneCanon]
  · exact writeNibble_canon _ _ hs
  · grind [blockApply_canon, DoneCanon, Canon.foldl]

/-! ### Net -/

theorem State.setLink_canon {s : State} (p : Nat) (port : Nat) (l : Link) (hs : Canon s) : Canon (State.setLink s p port l) :=
    hs
theorem enterLink_canon {s : State} (f : Flit) (hs : Canon s) : Canon (enterLink s f) := by
  grind [enterLink, State.setLink_canon, Canon]
theorem send_canon {s : State} (src : Nat) (who : Ident) (d : Dest) (cls : Nat) (m : Msg) (hs : Canon s) :
    Canon (send s src who d cls m) := by
  grind [send, enterLink_canon, State.modDie_canon, Canon]
theorem sendUnit_canon {s : State} (c : Nat) (d : Dest) (cls : Nat) (m : Msg) (hs : Canon s) : Canon (sendUnit s c d cls m) :=
    send_canon _ _ _ _ _ hs
theorem sendShepherd_canon {s : State} (cl : Nat) (part : BitVec 6) (d : Dest) (cls : Nat) (m : Msg) (hs : Canon s) :
    Canon (sendShepherd s cl part d cls m) := send_canon _ _ _ _ _ hs
theorem takeFlit_canon {s : State} (i : Nat) (hs : Canon s) : OptCanon (fun r => Canon r.2) (takeFlit s i) := by
  grind [takeFlit, OptCanon, Canon]
theorem release_canon {s : State} (f : Flit) (hs : Canon s) : Canon (release s f) := hs
theorem countDest_canon {s : State} (d : Dest) (code : Nat) (part : BitVec 6) (hs : Canon s) :
    Canon (countDest s d code part) := by
  unfold countDest
  grind [State.countPort_canon, State.countShepherd_canon, State.countCore_canon]
theorem filterFlit_canon {s : State} (f : Flit) (hs : Canon s) : VerdictCanon (filterFlit s f) := by
  unfold filterFlit
  grind [countDest_canon, VerdictCanon, Canon]
theorem markDone_canon {s : State} (f : Flit) (old : DWord) (hs : Canon s) : Canon (markDone s f old) := by
  grind [markDone, Canon]
theorem noteDelivery_canon {s : State} (f : Flit) (hs : Canon s) : Canon (noteDelivery s f) := by
  grind [noteDelivery, State.modDie_canon, Canon]
theorem deliver_canon {s : State} (i : Nat) {act : State → Flit → Option State} (hs : Canon s)
    (ha : ∀ t f, Canon t → OptCanon Canon (act t f)) : Canon (deliver s i act) := by
  unfold deliver
  grind [release_canon, send_canon, countDest_canon, markDone_canon, !.takeFlit_canon, noteDelivery_canon,
    !.filterFlit_canon, OptCanon, VerdictCanon]

/-! ### Records -/

theorem devWrite_canon {s : State} (p : Nat) (part : BitVec 6) (va : Word) (bytes : List Byte) (hs : Canon s) :
    ExceptCanon (fun _ => True) Canon (devWrite s p part va bytes) := by
  grind [devWrite, writeBytes_canon, clearPoison_canon, ExceptCanon]
theorem postFault_canon {s : State} (p : Nat) (r : FaultRec) (hs : Canon s) : Canon (postFault s p r) := by
  unfold postFault
  dsimp only
  split
  · exact hs
  split
  · exact hs
  split
  · exact writeU_canon _ _ _ hs
  split
  · exact hs
  · grind [send_canon, writeU_canon, !.devWrite_canon, ExceptCanon]
theorem countDelivery_canon {s : State} (c : Nat) (cause : Code) (part : BitVec 6) (hs : Canon s) :
    Canon (countDelivery s c cause part) := hs
theorem setCanceller_canon {s : State} (pa : Nat) (core : Nat) (hs : Canon s) : Canon (setCanceller s pa core) := hs
theorem clearCanceller_canon {s : State} (pa : Nat) (hs : Canon s) : Canon (clearCanceller s pa) := hs
theorem putEvent_canon {s : State} (cl : Nat) (r : List Byte) (hs : Canon s) : Canon (putEvent s cl r) := by
  grind [putEvent, writeBytes_canon, State.modCluster_canon]
theorem postEvent_canon {s : State} (cl : Nat) (r : List Byte) (hs : Canon s) : Canon (postEvent s cl r) := by
  grind [postEvent, State.modCluster_canon, putEvent_canon]
theorem popEvent_canon {s : State} (cl : Nat) (hs : Canon s) : Canon (popEvent s cl) := by
  grind [popEvent, putEvent_canon, State.modCluster_canon]
theorem sendNotice_canon {s : State} (src : Nat) (who : Ident) (ans : DWord) (st : AnswerState) (dflt : Bool) (hs : Canon s) :
    Canon (sendNotice s src who ans st dflt) := by
  grind [sendNotice, send_canon]
theorem divert_canon {s : State} (c : Nat) (d : Diverted) (hs : Canon s) : Canon (divert s c d) := by
  unfold divert
  refine State.modCore_canon _ _ ?_
  split
  · exact (devWrite_canon _ _ _ _ hs).getD hs
  · exact hs
theorem queueAt_canon {s : State} (c : Nat) (slot : Nat) (st : Start) (hs : Canon s) : Canon (queueAt s c slot st) := by
  grind [queueAt, divert_canon, State.modCore_canon]
theorem queueStart_canon {s : State} (c : Nat) (slot : BitVec 5) (st : Start) (hs : Canon s) :
    Canon (queueStart s c slot st) := queueAt_canon _ _ _ hs
theorem setTaskState_canon {s : State} (pa : Nat) (st : Nat) (hs : Canon s) : Canon (setTaskState s pa st) :=
    writeD_canon _ _ hs
theorem freeTaskRecord_canon {s : State} (pa : Nat) (hs : Canon s) : Canon (freeTaskRecord s pa) := writeD_canon _ _ hs
theorem queueContinuation_canon {s : State} (c : Nat) (task : Nat) (pc : Word) (slot : BitVec 5) (s8 : Word) (s9 : Word)
    (s10 : Word) (h : DWord) (hs : Canon s) : Canon (queueContinuation s c task pc slot s8 s9 s10 h) := queueStart_canon _ _
      _ hs
theorem phaseDone_canon {s : State} (pa : Nat) (phase : BitVec 16) (hs : Canon s) : Canon (phaseDone s pa phase) := by
  unfold phaseDone
  grind [queueContinuation_canon, State.modCluster_canon, Canon.foldl]
theorem levelDone_canon {s : State} (p : Nat) (part : BitVec 6) (pa : Nat) (w : DWord) (hs : Canon s) :
    Canon (levelDone s p part pa w) := by
  grind [levelDone, postEvent_canon, sendNotice_canon, writeD_canon]
theorem finishChildren_canon {s : State} (p : Nat) (part : BitVec 6) (pa : Nat) (n : Nat) (hs : Canon s) :
    Canon (finishChildren s p part pa n) := by
  grind [finishChildren, levelDone_canon, phaseDone_canon, writeD_canon, State.countShepherd_canon]
theorem finishLevelVa_canon {s : State} (p : Nat) (part : BitVec 6) (level : DWord) (n : Nat) (hs : Canon s) :
    Canon (finishLevelVa s p part level n) := by
  grind [finishLevelVa, finishChildren_canon]
theorem State.setLaunch_canon {s : State} (cl : Nat) (n : Nat) (l : Launch) (hs : Canon s) :
    Canon (State.setLaunch s cl n l) := hs
theorem unbindInstance_canon {s : State} (e : Nat × Nat × Nat × Bool) (hs : Canon s) : Canon (unbindInstance s e) := hs
theorem finishStage_canon {s : State} (cl : Nat) (n : Nat) (i : Nat) (inst : Nat) (inSlot : Nat) (outSlot : Option Nat)
    (publish : Bool) (hs : Canon s) : Canon (finishStage s cl n i inst inSlot outSlot publish) := by
  unfold finishStage
  grind [State.setLaunch_canon, unbindInstance_canon, Canon.foldl]
theorem finishRole_canon {s : State} (c : Nat) (x : Strand) (byHandler : Bool) (hs : Canon s) :
    Canon (finishRole s c x byHandler) := by
  grind [finishRole, finishStage_canon, finishLevelVa_canon]

/-! ### Answers -/

theorem setSlot_canon {s : State} (c : Nat) (j : Nat) (gen : BitVec 6) (st : AnswerState) (hs : Canon s) :
    Canon (setSlot s c j gen st) := by
  grind [setSlot, writeBytes_canon, writeD_canon]
theorem takeSlot_canon {s : State} (c compute : Nat) {r : DWord × State} (hs : Canon s) (h : takeSlot s c compute = some r) :
    Canon r.2 := by
  unfold takeSlot at h
  split at h
  · cases h
  · cases h
    exact setSlot_canon _ _ _ _ hs
theorem addPib_canon {s : State} (c : Nat) (e : PibEntry) (hs : Canon s) : Canon (addPib s c e) := by
  grind [addPib, writeBytes_canon, State.modCore_canon]
theorem dropKnown_canon {s : State} (c : Nat) (hs : Canon s) : Canon (dropKnown s c) := hs
theorem ensureKnown_canon {s : State} (c : Nat) (h : DWord) (hs : Canon s) : OptCanon Canon (ensureKnown s c h) := by
  grind [ensureKnown, addPib_canon, OptCanon]
theorem refuseInvocation_canon {s : State} (c : Nat) (x : Invocation) (cause : Code) (origin : Nat) (hs : Canon s) :
    Canon (refuseInvocation s c x cause origin) := by
  grind [refuseInvocation, postFault_canon, sendNotice_canon, countDelivery_canon]
theorem startInvocation_canon {s : State} (c : Nat) (x : Invocation) (target : DWord) (receiver : List Byte) (d : MethodDesc)
    (known : List (DWord × AnswerState)) (hs : Canon s) : Canon (startInvocation s c x target receiver d known) := by
  grind [startInvocation, queueStart_canon, refuseInvocation_canon]
theorem registerWaiter_canon {s : State} (c : Nat) (h : DWord) (hs : Canon s) : OptCanon Canon (registerWaiter s c h) := by
  unfold registerWaiter
  grind [!.ensureKnown_canon, sendUnit_canon, OptCanon, Option.map.eq_def]
theorem awaitArgs_canon {s : State} (c : Nat) (x : Invocation) (target : DWord) (receiver : List Byte) (d : MethodDesc)
    (need : List DWord) (known : List (DWord × AnswerState)) (hs : Canon s) :
    OptCanon Canon (awaitArgs s c x target receiver d need known) :=
  .map (foldl_stays (P := OptCanon Canon) (fun _ h ho => ho.bind fun _ ht => registerWaiter_canon c h ht) need hs)
    fun _ ht => State.modCore_canon _ _ ht
theorem runInvocation_canon {s : State} (c : Nat) (x : Invocation) (target : DWord) (val : Option AnswerState)
    (hs : Canon s) : OptCanon Canon (runInvocation s c x target val) := by
  unfold runInvocation
  grind [!.awaitArgs_canon, startInvocation_canon, refuseInvocation_canon, OptCanon]
theorem serveOnAnswer_canon {s : State} (c : Nat) (x : Invocation) (st : AnswerState) (hs : Canon s) :
    OptCanon Canon (serveOnAnswer s c x st) := by
  grind [serveOnAnswer, !.runInvocation_canon, sendUnit_canon, refuseInvocation_canon, OptCanon]
theorem serveWaiting_canon {s : State} (c : Nat) (h : DWord) (st : AnswerState) (hs : Canon s) :
    Canon (serveWaiting s c h st) := by
  unfold serveWaiting
  refine Canon.foldl_fst hs (fun r e hr => ?_) _
  grind [!.serveOnAnswer_canon, State.modCore_canon, OptCanon]
theorem notifyWaiters_canon {s : State} (c : Nat) (h : DWord) (st : AnswerState) (hs : Canon s) :
    Canon (notifyWaiters s c h st) := by
  unfold notifyWaiters
  grind [sendUnit_canon, State.modCore_canon, Canon.foldl]
theorem postResolution_canon {s : State} (c : Nat) (task : Nat) (args : List DWord) (hs : Canon s) :
    Canon (postResolution s c task args) := by
  grind [postResolution, writeBytes_canon, postEvent_canon]
theorem startConts_canon {s : State} (c : Nat) (h : DWord) (st : AnswerState) (hs : Canon s) : Canon (startConts s c h st) := by
  unfold startConts
  grind [postResolution_canon, State.modCore_canon, Canon.foldl]
theorem settleArgs_canon {s : State} (c : Nat) (h : DWord) (st : AnswerState) (hs : Canon s) : Canon (settleArgs s c h st) := by
  unfold settleArgs
  grind [startInvocation_canon, State.modCore_canon, Canon.foldl]
theorem settle_canon {s : State} (c : Nat) (h : DWord) (st : AnswerState) (hs : Canon s) : Canon (settle s c h st) := by
  grind [settle, startConts_canon, settleArgs_canon, dropKnown_canon, serveWaiting_canon, notifyWaiters_canon]
theorem applyNotice_canon {s : State} (c : Nat) (h : DWord) (st : AnswerState) (dflt : Bool) (hs : Canon s) :
    Canon (applyNotice s c h st dflt) := by
  grind [applyNotice, State.modCore_canon, settle_canon, setSlot_canon, State.countCore_canon]
theorem applyRetire_canon {s : State} (c : Nat) (h : DWord) (hs : Canon s) : Canon (applyRetire s c h) := by
  unfold applyRetire
  grind [notifyWaiters_canon, startConts_canon, settleArgs_canon, refuseInvocation_canon, State.modCore_canon, Canon.foldl]
theorem takeEntry_canon {s : State} (c : Nat) (ans : DWord) (hs : Canon s) : OptCanon Canon (takeEntry s c ans) := by
  grind [takeEntry, addPib_canon, State.setCore_canon, OptCanon]
theorem acceptInvocation_canon {s : State} (c : Nat) (x : Invocation) (src : Nat) (hs : Canon s) :
    OptCanon Canon (acceptInvocation s c x src) := by
  unfold acceptInvocation
  grind [!.serveOnAnswer_canon, addPib_canon, refuseInvocation_canon, !.runInvocation_canon, !.takeEntry_canon, OptCanon,
    Option.bind.eq_def]

/-! ### Units -/

theorem engPage_canon {s : State} (u : Requester) (va : Word) (want : Right) (hs : Canon s) :
    Canon (engPage s u va want).1 := by
  grind [engPage, State.countDenial_canon]
theorem engRead_canon {s : State} (u : Requester) (va : Word) (n : Nat) (hs : Canon s) : Canon (engRead s u va n).1 := by
  unfold engRead
  refine Canon.foldl_fst hs (fun r q hr => ?_) _
  grind [!.targetLoad_canon, !.engPage_canon, DoneCanon]
theorem engCheck_canon {s : State} (u : Requester) (va : Word) (bytes : List Byte) (hs : Canon s) :
    Canon (engCheck s u va bytes).1 := by
  unfold engCheck
  refine Canon.foldl_fst hs (fun r q hr => ?_) _
  grind [!.targetStore_canon, !.engPage_canon, DoneCanon]
theorem writeParts_canon {s : State} (id : Ident) (ps : List (Nat × Bool × List Byte)) (hs : Canon s) :
    Canon (writeParts s id ps) := by
  unfold writeParts
  grind [!.targetStore_canon, DoneCanon, Canon.foldl]
theorem engWrite_canon {s : State} (u : Requester) (va : Word) (bytes : List Byte) (hs : Canon s) :
    Canon (engWrite s u va bytes) := writeParts_canon _ _ hs

/-! ### Engine -/

theorem freeLocks_canon {s : State} (x : Command) (hs : Canon s) : Canon (freeLocks s x) := hs
theorem registerRanges_canon {s : State} (x : Command) (hs : Canon s) : OptCanon Canon (registerRanges s x) := by
  grind [registerRanges, State.modCluster_canon, OptCanon]
theorem commandFault_canon {s : State} (x : Command) (status : Code) (va : Word) (sectors : List Nat) (hs : Canon s) :
    Canon (commandFault s x status va sectors) := postFault_canon _ _ hs
theorem postCompletion_canon {s : State} (x : Command) (status : Code) (hs : Canon s) : Canon (postCompletion s x status) := by
  grind [postCompletion, countDelivery_canon, postEvent_canon, engWrite_canon, commandFault_canon, engCheck_canon]
theorem credWithout_canon {s : State} (x : Command) (status : Code) (hs : Canon s) : Canon (credWithout s x status) := by
  grind [credWithout, send_canon]
theorem endCommand_canon {s : State} (x : Command) (status : Code) (hs : Canon s) : Canon (endCommand s x status) := by
  grind [endCommand, credWithout_canon, freeLocks_canon, postCompletion_canon]
theorem pageFault_canon (g : CopyGeo) (x : Command) {s : State} (page : Nat) (hs : Canon s) : Canon (pageFault g x s page) := by
  grind [pageFault, commandFault_canon]
theorem pageFaults_canon {s : State} (g : CopyGeo) (x : Command) (hs : Canon s) : Canon (pageFaults s g x) := by
  unfold pageFaults
  grind [pageFault_canon, Canon.foldl]
theorem abandonCommand_canon {s : State} (x : Command) (status : Code) (hs : Canon s) : Canon (abandonCommand s x status) := by
  grind [abandonCommand, pageFaults_canon, commandFault_canon, endCommand_canon]
theorem endChecked_canon {s : State} (x : Command) (chk : Bool) (hs : Canon s) : Canon (endChecked s x chk) := by
  grind [endChecked, commandFault_canon, endCommand_canon]
theorem setHead_canon {s : State} (x : Command) (hs : Canon s) : Canon (setHead s x) := hs
theorem popHead_canon {s : State} (x : Command) (hs : Canon s) : Canon (popHead s x) := hs
theorem sectorDone_canon {s : State} (core : Nat) (seq : BitVec 32) (key : Nat) (cause : Option Code) (hs : Canon s) :
    Canon (sectorDone s core seq key cause) := by
  grind [sectorDone, setHead_canon]
theorem sectorArrives_canon {s : State} (id : Ident) (core : Nat) (seq : BitVec 32) (key : Nat)
    (parts : List (Nat × Bool × List Byte)) (hs : Canon s) : Canon (sectorArrives s id core seq key parts) := by
  grind [sectorArrives, writeParts_canon, State.countDenial_canon, sectorDone_canon]
theorem publishOne_canon {s : State} (x : Command) (hs : Canon s) : Canon (publishOne s x) := by
  grind [publishOne, State.modCluster_canon, abandonCommand_canon, endCommand_canon, State.modCore_canon]
theorem publishList_canon {s : State} (xs : List Command) (hs : Canon s) : OptCanon Canon (publishList s xs) := by
  induction xs generalizing s with
  | nil => exact hs
  | cons x t ih => grind [publishList, publishOne_canon, State.modCore_canon, !.registerRanges_canon, OptCanon]
theorem publishStrand_canon {s : State} (c : Nat) (k : Nat) (eng : Option (Fin 4)) (hs : Canon s) :
    OptCanon Canon (publishStrand s c k eng) := publishList_canon _ hs
theorem abandonStaged_canon {s : State} (c : Nat) (k : Nat) (status : Code) (hs : Canon s) :
    Canon (abandonStaged s c k status) := by
  unfold abandonStaged
  grind [abandonCommand_canon, State.modCore_canon, Canon.foldl]

/-! ### Root -/

theorem sendRoot_canon {s : State} (p : Nat) (core : Nat) (m : Msg) (hs : Canon s) : Canon (sendRoot s p core m) :=
    send_canon _ _ _ _ _ hs
theorem State.modFold_canon {s : State} (p : Nat) (f : Fin 16) (g : Fold → Fold) (hs : Canon s) :
    Canon (State.modFold s p f g) := hs
theorem finishRound_canon {s : State} (p : Nat) (f : Fin 16) (r : FoldRound) (v : FoldValue) (lseq : Nat) (hs : Canon s) :
    Canon (finishRound s p f r v lseq) := by
  unfold finishRound
  grind [sendRoot_canon, State.modFold_canon, Canon.foldl]
theorem finishCred_canon {s : State} (p : Nat) (f : Fin 16) (r : CredRound) (x : CredIn) (hs : Canon s) :
    Canon (finishCred s p f r x) := by
  unfold finishCred
  grind [sendRoot_canon, State.modFold_canon, Canon.foldl]
theorem farSettle_canon {s : State} (p : Nat) (f : Fin 16) (n : Nat) (hs : Canon s) : Canon (farSettle s p f n) := by
  grind [farSettle, finishRound_canon]
theorem farSettleCred_canon {s : State} (p : Nat) (f : Fin 16) (n : Nat) (hs : Canon s) : Canon (farSettleCred s p f n) := by
  grind [farSettleCred, finishCred_canon]
theorem foldApply_canon {s : State} (p : Nat) (seq : Nat) (x3 : LeaOp) (hs : Canon s) : Canon (foldApply s p seq x3) := by
  unfold foldApply
  grind [farSettleCred_canon, farSettle_canon, State.modFold_canon]
theorem leaApplied_canon {s : State} (p : Nat) (n : Nat) (hs : Canon s) : Canon (leaApplied s p n) := hs
theorem leaQueue_canon {s : State} (p : Nat) (op : LeaOp) (hs : Canon s) : Canon (leaQueue s p op) := by
  grind [leaQueue, foldApply_canon, leaApplied_canon, State.modPkg_canon]
theorem closeRound_canon (p : Nat) (f : Fin 16) {s : State} (r : FoldRound) (hs : Canon s) : Canon (closeRound p f s r) := by
  grind [closeRound, State.modFold_canon, leaQueue_canon, finishRound_canon]
theorem closeCred_canon (p : Nat) (f : Fin 16) {s : State} (r : CredRound) (hs : Canon s) : Canon (closeCred p f s r) := by
  unfold closeCred
  grind [leaQueue_canon, State.modFold_canon, finishCred_canon, Canon.foldl]
theorem settleFold_canon {s : State} (p : Nat) (f : Fin 16) (hs : Canon s) : Canon (settleFold s p f) := by
  unfold settleFold
  grind [closeCred_canon, closeRound_canon, Canon.foldl]
theorem takeContribution_canon {s : State} (p : Nat) (f : Fin 16) (g : FoldIn) (hs : Canon s) :
    Canon (takeContribution s p f g) := by
  grind [takeContribution, State.modFold_canon, settleFold_canon]
theorem takeCred_canon {s : State} (p : Nat) (f : Fin 16) (own : Nat) (x : CredIn) (hs : Canon s) :
    Canon (takeCred s p f own x) := by
  grind [takeCred, State.modFold_canon, settleFold_canon, sendRoot_canon]
theorem setWave_canon {s : State} (c : Nat) (f : Fin 16) (on : Bool) (hs : Canon s) : Canon (setWave s c f on) := hs
theorem foldJoin_canon {s : State} (c : Nat) (k : Nat) (f : Fin 16) (hs : Canon s) : Canon (foldJoin s c k f) := by
  grind [foldJoin, State.modStrand_canon, setWave_canon, State.modFold_canon]
theorem foldForget_canon {s : State} (c : Nat) (k : Nat) (f : Fin 16) (made : Nat) (hs : Canon s) :
    Canon (foldForget s c k f made) := by
  grind [foldForget, State.modFold_canon, settleFold_canon]
theorem foldLeave_canon {s : State} (c : Nat) (k : Nat) (f : Fin 16) (hs : Canon s) : Canon (foldLeave s c k f) := by
  grind [foldLeave, setWave_canon, foldForget_canon, State.modStrand_canon]
theorem leaveFolds_canon {s : State} (c : Nat) (k : Nat) (memb : BitVec 16) (hs : Canon s) : Canon (leaveFolds s c k memb) := by
  unfold leaveFolds
  grind [foldLeave_canon, Canon.foldl]
theorem ejectMember_canon {s : State} (c : Nat) (k : Nat) (f : Fin 16) (hs : Canon s) : Canon (ejectMember s c k f) := by
  grind [ejectMember, setWave_canon, foldForget_canon, State.modStrand_canon]

/-! ### Ops -/

theorem setProg_canon {s : State} (a : Actor) (p : Prog) (hs : Canon s) : Canon (setProg s a p) :=
    State.modStrand_canon _ _ _ hs
theorem R.next_canon {s : State} (hs : Canon s) : RCanon ResCanon (R.next s) := hs
theorem trapAt_canon {α : Type} {P : α → Prop} {s : State} (code : Code) (eva : Word) (hs : Canon s) :
    RCanon P (trapAt s code eva) := hs
theorem markWait_canon {s : State} (a : Actor) (kind : WaitKind) (qs : List (Fin 16 × Nat)) (hs : Canon s) :
    Canon (markWait s a kind qs) := State.modStrand_canon _ _ _ hs
theorem stall_canon {α : Type} {P : α → Prop} {s : State} (a : Actor) (kind : WaitKind) (hs : Canon s) :
    RCanon P (stall s a kind) := markWait_canon _ _ _ hs
theorem setS_canon {s : State} (a : Actor) (i : Fin 16) (v : Word) (hs : Canon s) : Canon (setS s a i v) :=
    State.modStrand_canon _ _ _ hs
theorem setReg_canon {s : State} (a : Actor) (d : SReg) (v : Word) (hs : Canon s) : Canon (setReg s a d v) := by
  unfold setReg
  grind [setS_canon]
theorem setPredicted_canon {s : State} (a : Actor) (d : SReg) (v : Word) (carried : Int) (exact : Int) (hs : Canon s) :
    Canon (setPredicted s a d v carried exact) := by
  unfold setPredicted
  grind [State.modStrand_canon]
theorem setK_canon {s : State} (a : Actor) (i : Fin 8) (v : KWord) (hs : Canon s) : Canon (setK s a i v) :=
    State.modStrand_canon _ _ _ hs
theorem orFlags_canon {s : State} (c : Nat) (f : Flags) (hs : Canon s) : Canon (orFlags s c f) := hs
theorem writeMoved_canon {old s : State} (c : Nat) (hs : Canon s) : Canon (writeMoved old s c) := by
  unfold writeMoved
  grind [writeBytes_canon, clearPoison_canon, Canon, Canon.foldl]
theorem strandStoreRaw_canon {s : State} (c : Nat) (id : Ident) (va : Word) (bytes : List Byte) (hs : Canon s) :
    ExceptCanon (fun r => Canon r.2) Canon (strandStoreRaw s c id va bytes) := by
  grind [strandStoreRaw, !.targetStore_canon, State.countDenial_canon, State.countWalk_canon, DoneCanon, ExceptCanon]
theorem strandLoadRaw_canon {s : State} (c : Nat) (id : Ident) (va : Word) (n : Nat) (hs : Canon s) :
    ExceptCanon (fun r => Canon r.2) (fun _ => True) (strandLoadRaw s c id va n) := by
  grind [strandLoadRaw, !.targetLoad_canon, State.countDenial_canon, State.countWalk_canon, DoneCanon, ExceptCanon]
theorem setBarrier_canon {s : State} (cl : Nat) (r : Nat) (b : Barrier) (hs : Canon s) : Canon (setBarrier s cl r b) := hs
theorem gangFail_canon {s : State} (c : Nat) (k : Nat) (code : Code) (hs : Canon s) : Canon (gangFail s c k code) :=
    State.modStrand_canon _ _ _ hs
theorem gangMismatch_canon {s : State} (c : Nat) (p : Nat × Nat → Bool) (hs : Canon s) : Canon (gangMismatch s c p) := by
  unfold gangMismatch
  grind [setBarrier_canon, gangFail_canon, Canon.foldl]
theorem gangRelease_canon {s : State} (c : Nat) (k : Nat) (hs : Canon s) : Canon (gangRelease s c k) := by
  grind [gangRelease, gangMismatch_canon]
theorem gangLeave_canon {s : State} (c : Nat) (k : Nat) (hs : Canon s) : Canon (gangLeave s c k) := by
  grind [gangLeave, gangRelease_canon, setBarrier_canon, gangMismatch_canon]
theorem dropContext_canon {s : State} (c : Nat) (k : Nat) (x : Strand) (byHandler : Bool) (hs : Canon s) :
    Canon (dropContext s c k x byHandler) := by
  grind [dropContext, finishRole_canon, dropKnown_canon, State.dropStrand_canon, sendUnit_canon, State.modCore_canon,
    leaveFolds_canon, gangLeave_canon]
theorem endStrand_canon {s : State} (c : Nat) (k : Nat) (x : Strand) (st : AnswerState) (byHandler : Bool) (hs : Canon s) :
    Canon (endStrand s c k x st byHandler) := by
  grind [endStrand, dropContext_canon, sendNotice_canon]
theorem endBare_canon {s : State} (c : Nat) (k : Nat) (x : Strand) (code : Code) (cause2 : Code) (va : Word) (hs : Canon s) :
    Canon (endBare s c k x code cause2 va) := by
  grind [endBare, abandonStaged_canon, endStrand_canon, postFault_canon, countDelivery_canon]
theorem endInTrap_canon {s : State} (c : Nat) (k : Nat) (x : Strand) (code : Code) (hs : Canon s) :
    OptCanon Canon (endInTrap s c k x code) := by
  unfold endInTrap
  grind [!.publishStrand_canon, endStrand_canon, OptCanon, Option.map.eq_def]
theorem enterTrap_canon {s : State} (c : Nat) (k : Nat) (x0 : Strand) (p : Pending) (hs : Canon s) :
    Canon (enterTrap s c k x0 p) := by
  grind [enterTrap, State.modCore_canon, State.setStrand_canon, !.endInTrap_canon, postFault_canon, !.strandLoadRaw_canon,
    endBare_canon, !.strandStoreRaw_canon, countDelivery_canon, gangRelease_canon, ExceptCanon, OptCanon]
theorem raise_canon {s : State} (c : Nat) (k : Nat) (cls : TrapClass) (cause : Cause) (epc : Word) (vpc : Word)
    (hs : Canon s) : Canon (raise s c k cls cause epc vpc) := by
  grind [raise, enterTrap_canon, State.setStrand_canon, State.modCore_canon]
theorem completeSlot_canon {s : State} (a : Actor) (jump : Option Word) (after : Option Cause) (hs : Canon s) :
    Canon (completeSlot s a jump after) := by
  grind [completeSlot, raise_canon, State.countCore_canon, State.setStrand_canon, State.modCore_canon]
theorem markPark_canon {s : State} (a : Actor) (hs : Canon s) : Canon (markPark s a) := by
  grind [markPark, State.modCore_canon, State.setStrand_canon]
theorem finishSlot_canon (a : Actor) {r : R Res} (hr : RCanon ResCanon r) : OutCanon (finishSlot a r) := by
  match r, hr with
  | .ok (.next s), hs => exact completeSlot_canon a none none hs
  | .ok (.jump s t), hs => exact completeSlot_canon a (some t) none hs
  | .ok (.gone s), hs => exact hs
  | .ok (.after s c), hs => exact completeSlot_canon a none (some c) hs
  | .error (.trap s c), hs => exact raise_canon _ _ _ _ _ _ hs
  | .error (.again s), hs => exact hs
  | .error (.park s), hs => exact markPark_canon a hs
  | .error (.dead s), hs => exact hs
  | .error (.refuse q), hs => trivial
theorem finishEntry_canon (a : Actor) {r : R Res} (hr : RCanon ResCanon r) : OutCanon (finishEntry a r) := by
  match r, hr with
  | .ok (.next s), hs | .ok (.jump s t), hs | .ok (.gone s), hs | .ok (.after s c), hs => exact State.modStrand_canon _ _ _ hs
  | .error (.trap s c), hs => exact raise_canon _ _ _ _ _ _ hs
  | .error (.again s), hs => exact hs
  | .error (.park s), hs => exact markPark_canon a hs
  | .error (.dead s), hs => exact hs
  | .error (.refuse q), hs => trivial
theorem enqueue_canon {s : State} (a : Actor) (i : Instr) (hs : Canon s) : RCanon ResCanon (enqueue s a i) := by
  grind [enqueue, State.setStrand_canon, !.stall_canon, ResCanon, ExceptCanon]
theorem accessOp_canon {s : State} {g : Guard} {body : Actor → R Res} (hs : Canon s) (hb : ∀ a, RCanon ResCanon (body a)) :
    OutCanon (accessOp s g body) := by
  unfold accessOp
  split
  · trivial
  split
  · trivial
  · refine finishSlot_canon _ ?_
    split
    · exact hb _
    · exact hs
theorem executeOp_canon {s : State} {i : Instr} {body : Actor → R Res} (hs : Canon s) (hb : ∀ a, RCanon ResCanon (body a)) :
    OutCanon (executeOp s i body) := by
  unfold executeOp
  split
  · trivial
  split
  · exact finishEntry_canon _ (hb _)
  · exact finishSlot_canon _ (enqueue_canon _ _ hs)
theorem modChecks_canon (a : Actor) (f : Checks → Checks) {s : State} (hs : Canon s) : Canon (modChecks a f s) :=
    State.modStrand_canon _ _ _ hs
theorem tagV_canon (i : Fin 32) (a : Actor) (bad : Bool) {x3 : State} (hx3 : Canon x3) : Canon (tagV i a bad x3) := by
  unfold tagV
  grind [modChecks_canon]
theorem tagK_canon (i : Fin 8) (a : Actor) (bad : Bool) {x3 : State} (hx3 : Canon x3) : Canon (tagK i a bad x3) := by
  unfold tagK
  grind [modChecks_canon]
theorem tagS_canon {s : State} (d : SReg) (a : Actor) (bad : Bool) (hs : Canon s) : Canon (tagS d a bad s) := by
  cases d with
  | s i => exact modChecks_canon _ _ hs
  | zr => exact hs
theorem tagIf_canon {s : State} {wrote : Bool} {tag : Bool → State → State} (bad : Bool) (hs : Canon s)
    (ht : ∀ bad s, Canon s → Canon (tag bad s)) : Canon (tagIf wrote tag bad s) := by
  cases wrote
  · exact hs
  · exact ht bad s hs
theorem executeShadowable_canon {s : State} {i : Instr} {sh : Bool} {tag : Actor → Bool → State → State} {body : Actor → R Res}
    (hs : Canon s) (ht : ∀ a bad s, Canon s → Canon (tag a bad s)) (hb : ∀ a, RCanon ResCanon (body a)) :
    OutCanon (executeShadowable s i sh tag body) := by
  unfold executeShadowable
  dsimp only
  split
  · trivial
  rename_i a ha
  split
  · have hba := hb a
    split
    · refine finishEntry_canon _ ?_
      split <;> grind [ExceptCanon, ResCanon]
    · exact finishEntry_canon _ hba
  split
  · refine finishSlot_canon _ ?_
    grind [State.modStrand_canon, ExceptCanon, ResCanon]
  · exact finishSlot_canon _ (enqueue_canon _ _ hs)
theorem shadowOp_canon {s : State} {g : Guard} {tag : Actor → State → State} (hs : Canon s)
    (ht : ∀ a, Canon (tag a s)) : OutCanon (shadowOp s g tag) :=
  accessOp_canon hs fun a => by
    grind [ExceptCanon, ResCanon]
theorem shadowable_canon {s : State} {sh : Bool} {g : Guard} {d : SReg} {body : Actor → R Res} (hs : Canon s)
    (hb : ∀ a, RCanon ResCanon (body a)) : OutCanon (shadowable s sh g d body) := by
  unfold shadowable
  split
  · exact shadowOp_canon hs fun a => tagS_canon _ _ _ hs
  · exact accessOp_canon hs hb
theorem shadowableMem_canon {s : State} {sh : Bool} {g : Guard} {d : SReg} {body : Actor → R Res} (hs : Canon s)
    (hb : ∀ a, RCanon ResCanon (body a)) : OutCanon (shadowableMem s sh g d body) := by
  unfold shadowableMem
  split
  · exact shadowOp_canon hs fun a => tagS_canon _ _ _ hs
  · exact accessOp_canon hs hb
theorem countFetch_canon {s : State} (c : Nat) (x : Strand) (pc : Word) (e : Code) (hs : Canon s) :
    Canon (countFetch s c x pc e) := by
  grind [countFetch, State.countWalk_canon, State.countDenial_canon]
theorem checkTarget_canon {s : State} (a : Actor) (t : Word) (unchecked : Bool) (hs : Canon s) :
    RCanon (fun _ => True) (checkTarget s a t unchecked) := by
  grind [checkTarget, countFetch_canon, !.trapAt_canon, ExceptCanon]
theorem checkStatic_canon {s : State} (a : Actor) (t : Word) (hs : Canon s) : RCanon (fun _ => True) (checkStatic s a t) :=
    checkTarget_canon _ _ _ hs
theorem eretBody_canon {s : State} (a : Actor) (hs : Canon s) : RCanon ResCanon (eretBody s a) := by
  grind [eretBody, State.setStrand_canon, State.modCore_canon, endBare_canon, !.stall_canon, !.strandLoadRaw_canon,
    !.trapAt_canon, ExceptCanon, ResCanon]

/-! ### Flags -/

theorem setSeed_canon {s : State} (c : Nat) (seed : BitVec 32) (hs : Canon s) : Canon (setSeed s c seed) := hs
theorem commitFlags_canon {s : State} (c : Nat) (r : Raised) (seed : BitVec 32) (hs : Canon s) :
    RCanon Canon (commitFlags s c r seed) := by
  grind [commitFlags, setSeed_canon, orFlags_canon, !.trapAt_canon, ExceptCanon]

/-! ### Operands -/

theorem specHold_canon {s : State} (c : Nat) (h : Held) (hs : Canon s) : Canon (specHold s c h) := hs
theorem specStore_canon {s : State} (c : Nat) (x : Access) (hs : Canon s) : Canon (specStore s c x) := hs
theorem sendHeld_canon {s : State} (a : Actor) (d : Dest) (cls : Nat) (m : Msg) (hs : Canon s) :
    Canon (sendHeld s a d cls m) := by
  grind [sendHeld, sendUnit_canon, specHold_canon]
theorem queuesLegal_canon {s : State} (a : Actor) (us : List QUse) (hs : Canon s) :
    RCanon (fun _ => True) (queuesLegal s a us) := by
  grind [queuesLegal, !.trapAt_canon, ExceptCanon]
theorem queuesReady_canon {s : State} (a : Actor) (us : List QUse) (hs : Canon s) :
    RCanon (fun _ => True) (queuesReady s a us) := by
  unfold queuesReady
  grind [markWait_canon, !.queuesLegal_canon, ExceptCanon, StopCanon, Except.bind.eq_def]
theorem putSlotTag_canon {s : State} (c : Nat) (pa : Nat) (t : Option Bool) (hs : Canon s) : Canon (putSlotTag s c pa t) := hs
theorem setSlotTag_canon {s : State} (a : Actor) (pa : Nat) (t : Option Bool) (hs : Canon s) : Canon (setSlotTag s a pa t) := by
  grind [setSlotTag, putSlotTag_canon, specHold_canon]
theorem queueBytes_canon {s : State} (a : Actor) (q : Fin 16) (need : Nat) (ofs : Nat) (n : Nat) (hs : Canon s) :
    RCanon (fun _ => True) (queueBytes s a q need ofs n) := by
  grind [queueBytes, endBare_canon, ExceptCanon, StopCanon]
theorem queueStore_canon {s : State} (a : Actor) (q : Fin 16) (need : Nat) (ofs : Nat) (data : List Byte) (mask : List Byte)
    (hs : Canon s) : Canon (queueStore s a q need ofs data mask) := by
  grind [queueStore, writeBytes_canon, clearPoison_canon, specStore_canon, setSlotTag_canon, sendHeld_canon]
theorem tagSlot_canon {s : State} (a : Actor) (q : Fin 16) (need : Nat) (bad : Bool) (hs : Canon s) :
    Canon (tagSlot s a q need bad) := by
  grind [tagSlot, setSlotTag_canon, sendHeld_canon]
theorem tagVReg_canon (d : VReg) (a : Actor) (bad : Bool) {s : State} (hs : Canon s) : Canon (tagVReg d a bad s) := by
  unfold tagVReg
  grind [tagSlot_canon, tagV_canon]
theorem queueRoom_canon {s : State} (a : Actor) (n : Nat) (hs : Canon s) : RCanon (fun _ => True) (queueRoom s a n) := by
  grind [queueRoom, !.stall_canon, ExceptCanon]
theorem vsrc_canon {s : State} (a : Actor) (t : LaneTy) (x : VSrc) (hs : Canon s) : RCanon (fun _ => True) (vsrc s a t x) := by
  unfold vsrc
  grind [!.queueBytes_canon, ExceptCanon, Except.map.eq_def]
theorem vreg_canon {s : State} (a : Actor) (x : VReg) (hs : Canon s) : RCanon (fun _ => True) (vreg s a x) := by
  unfold vreg
  grind [!.queueBytes_canon, ExceptCanon, Except.map.eq_def]
theorem putV_canon {s : State} (a : Actor) (i : Fin 32) (v : VWord) (hs : Canon s) : Canon (putV s a i v) :=
    State.modStrand_canon _ _ _ hs
theorem writeLanes_canon {s : State} (a : Actor) (d : VReg) (w : Nat) (ls : List (Nat × Nat)) (hs : Canon s) :
    RCanon Canon (writeLanes s a d w ls) := by
  unfold writeLanes
  grind [queueStore_canon, !.queueRoom_canon, putV_canon, ExceptCanon]
theorem tagLanes_canon {s : State} (d : VReg) (g : Guard) (t : LaneTy) (a : Actor) (bad : Bool) (hs : Canon s) :
    Canon (tagLanes d g t a bad s) :=
  tagIf_canon bad hs fun bad _ ht => tagVReg_canon d a bad ht
theorem vectorOp_canon {s : State} (a : Actor) (g : Guard) (t : LaneTy) (d : VReg) (f : Nat → BitVec 32 → LaneRes)
    (hs : Canon s) : RCanon ResCanon (vectorOp s a g t d f) := by
  unfold vectorOp
  grind [!.writeLanes_canon, !.commitFlags_canon, ResCanon, ExceptCanon, Except.map.eq_def]

/-! ### Names -/

theorem captureOperands_canon {s : State} (c : Nat) (k : Nat) (x : Strand) (e : SeqEntry) (hs : Canon s) :
    Canon (captureOperands s c k x e) := by
  grind [captureOperands, State.setStrand_canon]

/-! ### Access -/

theorem planFail_canon {α : Type} {P : α → Prop} {s : State} (a : Actor) (x3 : PlanErr) (hs : Canon s) :
    RCanon P (planFail s a x3) := by
  unfold planFail
  grind [!.stall_canon, State.countDenial_canon, !.trapAt_canon]
theorem sendAccess_canon {s : State} (a : Actor) (x : Access) (tag : Nat) (idx : Nat) (hs : Canon s) :
    Canon (sendAccess s a x tag idx) := send_canon _ _ _ _ _ hs
theorem performAll_canon {s : State} (a : Actor) (xs : List Access) (hs : Canon s) :
    RCanon (fun r => Canon r.1) (performAll s a xs) := by
  induction xs generalizing s with
  | nil => exact hs
  | cons x t ih => grind [performAll, !.trapAt_canon, !.performAt_canon, DoneCanon, ExceptCanon, StopCanon]
theorem failAt_canon {α : Type} {P : α → Prop} {s : State} (a : Actor) (f : Cause × Option Nat) (hs : Canon s) :
    RCanon P (failAt s a f) := by
  grind [failAt, State.countDenial_canon, !.trapAt_canon]
theorem loadAll_canon {s : State} (a : Actor) (xs : List Access) (fail : Option (Cause × Option Nat)) (hs : Canon s) :
    RCanon (fun r => Canon r.1) (loadAll s a xs fail) := by
  unfold loadAll
  dsimp only
  split
  · grind [!.failAt_canon, !.trapAt_canon, ExceptCanon, StopCanon]
  split
  · exact stall_canon _ _ hs
  split
  · grind [!.failAt_canon, !.performAll_canon, ExceptCanon, StopCanon]
  split
  · exact stall_canon _ _ hs
  · refine markWait_canon _ _ _ (setProg_canon _ _ (Canon.foldl_fst hs (fun r p hr => ?_) _))
    grind [sendAccess_canon, !.performAt_canon, DoneCanon]
theorem denyStore_canon {s : State} (a : Actor) (x : Access) (c : Code) (line : Option Nat) (hs : Canon s) :
    Canon (denyStore s a x c line) := send_canon _ _ _ _ _ hs
theorem storeOne_canon {s : State} (a : Actor) (x : Access) (hs : Canon s) : RCanon Canon (storeOne s a x) := by
  grind [storeOne, sendAccess_canon, denyStore_canon, !.performAt_canon, DoneCanon, ExceptCanon, StopCanon]
theorem storeList_canon {s : State} (a : Actor) (xs : List Access) (hs : Canon s) : RCanon Canon (storeList s a xs) := by
  induction xs generalizing s with
  | nil => exact hs
  | cons x t ih => grind [storeList, !.storeOne_canon, ExceptCanon, StopCanon]
theorem storeReady_canon {s : State} (a : Actor) (xs : List Access) (hs : Canon s) :
    RCanon (fun _ => True) (storeReady s a xs) := by
  grind [storeReady, !.stall_canon, !.trapAt_canon, ExceptCanon]
theorem storeNow_canon {s : State} (a : Actor) (xs : List Access) (hs : Canon s) : RCanon Canon (storeNow s a xs) := by
  unfold storeNow
  grind [!.storeList_canon, specStore_canon, ExceptCanon, Canon.foldl]
theorem releaseReady_canon {s : State} (a : Actor) (hs : Canon s) : RCanon (fun _ => True) (releaseReady s a) := by
  grind [releaseReady, State.modStrand_canon, !.trapAt_canon, !.stall_canon, ExceptCanon]
theorem loadLanes_canon {s : State} (a : Actor) (lt : LaneTy) (rm : RndField) (sat : Bool) (d : VReg) (es : List (Option Elt))
    (hs : Canon s) : RCanon Canon (loadLanes s a lt rm sat d es) := by
  grind [loadLanes, !.writeLanes_canon, !.commitFlags_canon, ExceptCanon, StopCanon]
theorem awaitPage_canon {α : Type} {P : α → Prop} {s : State} (a : Actor) (va : Word) (hs : Canon s) :
    RCanon P (awaitPage s a va) := by
  grind [awaitPage, markWait_canon, State.modStrand_canon, ExceptCanon, StopCanon]
theorem loadPlan_canon {s : State} (a : Actor) (p : List Access × Option PlanErr) (hs : Canon s) :
    RCanon (fun r => Canon r.1) (loadPlan s a p) := by
  unfold loadPlan
  grind [!.stall_canon, setProg_canon, !.awaitPage_canon, !.loadAll_canon, ExceptCanon, StopCanon, Except.bind.eq_def]
theorem storePieces_canon {s : State} (a : Actor) (lt : LaneTy) (raw : Bool) (rm : RndField) (sat : Bool)
    (mark : List Access → List Access) (ps : Except PlanErr (List StorePiece)) (hs : Canon s) :
    RCanon ResCanon (storePieces s a lt raw rm sat mark ps) := by
  unfold storePieces
  split
  · exact planFail_canon _ _ hs
  split
  · exact hs
  · exact trapAt_canon _ _ hs
  · grind [!.storeReady_canon, !.commitFlags_canon, !.storeNow_canon, ExceptCanon.map, ExceptCanon, StopCanon, ResCanon]

/-! ### Control -/

theorem noSpec_canon {s : State} (a : Actor) {k : R Res} (hs : Canon s) (hk : RCanon ResCanon k) :
    RCanon ResCanon (noSpec s a k) := by
  grind [noSpec, !.stall_canon]
theorem execNop_canon (f : NopF) {s : State} (hs : Canon s) : OutCanon (execNop f s) := by
  unfold execNop
  grind [!.accessOp_canon, !.executeOp_canon, ResCanon, ExceptCanon]
theorem jumpTo_canon {s : State} (a : Actor) (t : Word) (hs : Canon s) : RCanon ResCanon (jumpTo s a t) :=
    State.modStrand_canon _ _ _ hs
theorem execBr_canon (f : BranchF) {s : State} (hs : Canon s) : OutCanon (execBr f s) :=
  accessOp_canon hs fun a => by grind [!.jumpTo_canon, !.checkStatic_canon, ExceptCanon, Except.bind.eq_def]
theorem execJmp_canon (f : RegF) {s : State} (hs : Canon s) : OutCanon (execJmp f s) :=
  accessOp_canon hs fun a => by grind [!.jumpTo_canon, !.checkTarget_canon, ExceptCanon, Except.bind.eq_def]
theorem stackTrap_canon {α : Type} {P : α → Prop} (c : Code) (va : Word) {x3 : R α} (hx3 : RCanon P x3) :
    RCanon P (stackTrap c va x3) := by
  unfold stackTrap
  grind [!.trapAt_canon, ExceptCanon, StopCanon]
theorem spillStore_canon {s : State} (a : Actor) (va : Word) (b : List Byte) (hs : Canon s) :
    RCanon Canon (spillStore s a va b) := by
  unfold spillStore
  grind [!.storeNow_canon, !.storeReady_canon, !.planFail_canon, !.loadAll_canon, !.stackTrap_canon, ExceptCanon,
    Except.bind.eq_def, Except.map.eq_def]
theorem fillLoad_canon {s : State} (a : Actor) (va : Word) (hs : Canon s) : RCanon (fun r => Canon r.1) (fillLoad s a va) := by
  unfold fillLoad
  refine ExceptCanon.map (stackTrap_canon _ _ ?_) fun _ h => h
  split
  · exact loadAll_canon _ _ _ hs
  · exact planFail_canon _ _ hs
  · exact loadAll_canon _ _ _ hs
theorem pushReturn_canon {s : State} (a : Actor) (hs : Canon s) : RCanon Canon (pushReturn s a) := by
  unfold pushReturn
  grind [!.spillStore_canon, State.modStrand_canon, ExceptCanon, Except.map.eq_def]
theorem callTo_canon {s : State} (a : Actor) (t : Word) {check : R Unit} (hs : Canon s)
    (hcheck : RCanon (fun _ => True) check) : RCanon ResCanon (callTo s a t check) := by
  unfold callTo
  grind [!.pushReturn_canon, ResCanon, ExceptCanon, Except.bind.eq_def, Except.map.eq_def]
theorem execCall_canon (f : BranchF) {s : State} (hs : Canon s) : OutCanon (execCall f s) :=
  accessOp_canon hs fun a => by grind [!.checkStatic_canon, !.callTo_canon]
theorem execCalli_canon (f : RegF) {s : State} (hs : Canon s) : OutCanon (execCalli f s) :=
  accessOp_canon hs fun a => by grind [!.checkTarget_canon, !.callTo_canon]
theorem execRet_canon (f : Bare) {s : State} (hs : Canon s) : OutCanon (execRet f s) :=
  accessOp_canon hs fun a => by
    dsimp only
    split
    · exact (checkTarget_canon a _ _ hs).bind fun _ _ => State.modStrand_canon _ _ _ hs
    · exact (fillLoad_canon a _ hs).bind fun r hr => (checkTarget_canon a _ _ hr).bind fun _ _ => setS_canon _ _ _ hr
theorem execBrq_canon (f : BranchF) {s : State} (hs : Canon s) : OutCanon (execBrq f s) :=
  accessOp_canon hs fun a => by grind [!.jumpTo_canon, !.checkStatic_canon, State.modStrand_canon, !.stall_canon, ResCanon,
    ExceptCanon, Except.bind.eq_def]
theorem execEndStrand_canon (f : Bare) {s : State} (hs : Canon s) : OutCanon (execEndStrand f s) :=
  accessOp_canon hs fun a => by grind [endStrand_canon, !.publishStrand_canon, !.releaseReady_canon, !.stall_canon,
    !.noSpec_canon, ResCanon, OptCanon, ExceptCanon, Except.bind.eq_def]
theorem loopStart_canon {s : State} (a : Actor) (lvl : Bool) (n : Nat) (e : Word) (hs : Canon s) :
    RCanon ResCanon (loopStart s a lvl n e) := by
  unfold loopStart
  grind [State.modStrand_canon, !.jumpTo_canon, !.checkStatic_canon, !.trapAt_canon, ResCanon, ExceptCanon, Except.bind.eq_def]
theorem execLoopR_canon (f : LoopF) {s : State} (hs : Canon s) : OutCanon (execLoopR f s) :=
  accessOp_canon hs fun a => by grind [!.loopStart_canon]
theorem execLoopi_canon (f : LoopiF) {s : State} (hs : Canon s) : OutCanon (execLoopi f s) :=
  accessOp_canon hs fun a => by grind [!.loopStart_canon]
theorem execTrapI_canon (f : TrapF) {s : State} (hs : Canon s) : OutCanon (execTrapI f s) :=
  accessOp_canon hs fun a => by grind [ResCanon, ExceptCanon]
theorem execEret_canon (f : Bare) {s : State} (hs : Canon s) : OutCanon (execEret f s) :=
  accessOp_canon hs fun a => by grind [!.eretBody_canon, !.noSpec_canon]
theorem execBrk_canon (f : Bare) {s : State} (hs : Canon s) : OutCanon (execBrk f s) :=
  accessOp_canon hs fun a => by grind [!.trapAt_canon]
theorem execGetc_canon (f : GetcF) {s : State} (hs : Canon s) : OutCanon (execGetc f s) :=
  accessOp_canon hs fun a => by grind [setReg_canon, !.stall_canon, ResCanon, ExceptCanon]
theorem execSetc_canon (f : SetcF) {s : State} (hs : Canon s) : OutCanon (execSetc f s) :=
  accessOp_canon hs fun a => by grind [State.modStrand_canon, !.trapAt_canon, !.noSpec_canon, !.stall_canon,
    State.modCore_canon, !.R.next_canon]
theorem tlbi_canon {s : State} (a : Actor) (sel : TcEntry → Bool) (hs : Canon s) : RCanon ResCanon (tlbi s a sel) := by
  unfold tlbi
  grind [!.R.next_canon, !.releaseReady_canon, !.noSpec_canon, !.trapAt_canon, ExceptCanon, Canon, Except.bind.eq_def]
theorem execTlbiPage_canon (f : TlbiF) {s : State} (hs : Canon s) : OutCanon (execTlbiPage f s) :=
  accessOp_canon hs fun a => by grind [!.tlbi_canon]
theorem execTlbiSpace_canon (f : TlbiF) {s : State} (hs : Canon s) : OutCanon (execTlbiSpace f s) :=
  accessOp_canon hs fun a => by grind [!.tlbi_canon]
theorem execTlbiPartition_canon (f : Bare) {s : State} (hs : Canon s) : OutCanon (execTlbiPartition f s) :=
  accessOp_canon hs fun a => by grind [!.tlbi_canon]
theorem execScan_canon (f : DstReg) {s : State} (hs : Canon s) : OutCanon (execScan f s) :=
  accessOp_canon hs fun a => by grind [State.modStrand_canon, State.modCluster_canon, !.planFail_canon, !.stall_canon,
    setReg_canon, !.R.next_canon, !.noSpec_canon, !.trapAt_canon]

/-! ### EngineOps -/

theorem appendCommand_canon {s : State} (x : Command) (hs : Canon s) : OptCanon Canon (appendCommand s x) := by
  unfold appendCommand
  grind [!.registerRanges_canon, State.modCore_canon, !.publishStrand_canon, OptCanon, Option.bind.eq_def]
theorem completionPair_canon {s : State} (a : Actor) (c : Option (Fin 16)) (hs : Canon s) :
    RCanon (fun _ => True) (completionPair s a c) := by
  unfold completionPair
  grind [!.trapAt_canon, ExceptCanon]
theorem append_canon {s : State} (a : Actor) (x : Command) (hs : Canon s) : RCanon ResCanon (append s a x) := by
  grind [append, !.appendCommand_canon, !.stall_canon, specHold_canon, !.R.next_canon, OptCanon]
theorem copyBody_canon {s : State} (a : Actor) (c : Option (Fin 16)) (dst : Word) (src : Word) (rows : Nat) (rowBytes : Nat)
    (dstride : Nat) (sstride : Nat) (hs : Canon s) : RCanon ResCanon (copyBody s a c dst src rows rowBytes dstride sstride)
      := by
  unfold copyBody
  grind [!.append_canon, !.completionPair_canon, !.trapAt_canon, ExceptCanon, Except.bind.eq_def]
theorem execCpy_canon (f : CpyF) {s : State} (hs : Canon s) : OutCanon (execCpy f s) :=
  shadowableMem_canon hs fun a => by grind [!.copyBody_canon]
theorem execCpy2d_canon (f : CpyF) {s : State} (hs : Canon s) : OutCanon (execCpy2d f s) :=
  shadowableMem_canon hs fun a => by grind [!.copyBody_canon]
theorem execReplay_canon (f : ReplayF) {s : State} (hs : Canon s) : OutCanon (execReplay f s) :=
  shadowableMem_canon hs fun a => by grind [!.append_canon, !.completionPair_canon, ExceptCanon, Except.bind.eq_def]
theorem execCred_canon (f : CredF) {s : State} (hs : Canon s) : OutCanon (execCred f s) :=
  shadowableMem_canon hs fun a => by
    dsimp only
    split
    · exact trapAt_canon _ _ hs
    split
    · exact trapAt_canon _ _ hs
    split
    · exact trapAt_canon _ _ hs
    split
    · exact trapAt_canon _ _ hs
    · refine (completionPair_canon a _ hs).bind fun p _ => (append_canon a _ hs).map fun r hr => ?_
      split
      · exact State.modStrand_canon _ _ _ hr
      · exact hr
theorem execEseq_canon (f : EseqF) {s : State} (hs : Canon s) : OutCanon (execEseq f s) :=
  shadowableMem_canon hs fun a => by grind [setReg_canon, !.R.next_canon, !.publishStrand_canon, !.stall_canon, OptCanon]
theorem execRlqQuery_canon (f : RlqQueryF) {s : State} (hs : Canon s) : OutCanon (execRlqQuery f s) :=
  shadowableMem_canon hs fun a => by grind [setReg_canon, !.R.next_canon]
theorem releaseCommand_canon {s : State} (c : Nat) (e : Fin 4) (seq : BitVec 32) (hs : Canon s) :
    Canon (releaseCommand s c e seq).1 := by
  grind [releaseCommand, State.modCore_canon, abandonCommand_canon]
theorem execRlqRelease_canon (f : RlqReleaseF) {s : State} (hs : Canon s) : OutCanon (execRlqRelease f s) :=
  shadowableMem_canon hs fun a => by grind [setReg_canon, !.R.next_canon, releaseCommand_canon, !.stall_canon]
theorem setMailbox_canon {s : State} (c : Nat) (m : Nat) (b : Mailbox) (hs : Canon s) : Canon (setMailbox s c m b) := hs
theorem dispatchMail_canon {s : State} (c : Nat) (slot : BitVec 5) (m : MailMsg) (hs : Canon s) :
    Canon (dispatchMail s c slot m) := queueStart_canon _ _ _ hs
theorem translate_canon {s : State} (a : Actor) (va : Word) (read : Bool) (write : Bool) (hs : Canon s) :
    RCanon (fun _ => True) (translate s a va read write) := by
  grind [translate, !.trapAt_canon, ExceptCanon]
theorem ownMailbox_canon {s : State} (a : Actor) (va : Word) (hs : Canon s) : RCanon (fun _ => True) (ownMailbox s a va) := by
  unfold ownMailbox
  grind [!.trapAt_canon, !.translate_canon, ExceptCanon, Except.bind.eq_def]
theorem execMbind_canon (f : MbindF) {s : State} (hs : Canon s) : OutCanon (execMbind f s) := by
  unfold execMbind
  grind [dispatchMail_canon, !.R.next_canon, setMailbox_canon, !.trapAt_canon, !.ownMailbox_canon, !.stall_canon,
    !.accessOp_canon, ExceptCanon, Canon.foldl, Except.bind.eq_def]
theorem execMunbind_canon (f : RegF) {s : State} (hs : Canon s) : OutCanon (execMunbind f s) :=
  accessOp_canon hs fun a => by grind [setMailbox_canon, !.R.next_canon, !.ownMailbox_canon, !.stall_canon, ExceptCanon,
    Except.bind.eq_def]

/-! ### Invoke -/

theorem checkHandle_canon {s : State} (a : Actor) (h : DWord) (obj : Bool) (ans : Bool) (hs : Canon s) :
    RCanon (fun _ => True) (checkHandle s a h obj ans) := by
  grind [checkHandle, !.trapAt_canon, ExceptCanon]
theorem heldBySync_canon {s : State} (a : Actor) (hs : Canon s) : RCanon (fun _ => True) (heldBySync s a) := by
  grind [heldBySync, !.stall_canon, ExceptCanon]
theorem execInvoke_canon (f : InvokeF) {s : State} (hs : Canon s) : OutCanon (execInvoke f s) :=
  accessOp_canon hs fun a => (checkHandle_canon a _ _ _ hs).bind fun _ _ => (heldBySync_canon a hs).bind fun _ _ => by
    dsimp only
    split
    · exact trapAt_canon _ _ hs
    next h => exact setReg_canon _ _ _ (sendHeld_canon _ _ _ _ (takeSlot_canon _ _ hs h))
theorem execInvoken_canon (f : InvokenF) {s : State} (hs : Canon s) : OutCanon (execInvoken f s) :=
  accessOp_canon hs fun a => by grind [sendHeld_canon, !.R.next_canon, !.heldBySync_canon, !.checkHandle_canon, ExceptCanon,
    Except.bind.eq_def]
theorem execSendMailbox_canon (f : SendMboxF) {s : State} (hs : Canon s) : OutCanon (execSendMailbox f s) :=
  accessOp_canon hs fun a => (heldBySync_canon a hs).bind fun _ _ => (translate_canon a _ _ _ hs).bind fun x _ => by
    dsimp only
    split
    · split
      · exact trapAt_canon _ _ hs
      · exact sendHeld_canon _ _ _ _ hs
    · exact trapAt_canon _ _ hs
theorem execSendActive_canon (f : SendActF) {s : State} (hs : Canon s) : OutCanon (execSendActive f s) :=
  accessOp_canon hs fun a => by grind [sendHeld_canon, !.R.next_canon, !.heldBySync_canon, ExceptCanon, Except.bind.eq_def]
theorem strandNotice_canon {s : State} (a : Actor) (h : DWord) (st : AnswerState) (hs : Canon s) :
    Canon (strandNotice s a h st) := by
  grind [strandNotice, sendNotice_canon, sendHeld_canon]
theorem execResolveValue_canon (f : ResolveF) {s : State} (hs : Canon s) : OutCanon (execResolveValue f s) :=
  accessOp_canon hs fun a => by grind [strandNotice_canon, !.R.next_canon, !.checkHandle_canon, ExceptCanon, Except.bind.eq_def]
theorem execResolveObject_canon (f : Reg2) {s : State} (hs : Canon s) : OutCanon (execResolveObject f s) :=
  accessOp_canon hs fun a => by grind [strandNotice_canon, !.R.next_canon, !.trapAt_canon, !.checkHandle_canon, ExceptCanon,
    Except.bind.eq_def]
theorem execBreakAnswer_canon (f : BreakF) {s : State} (hs : Canon s) : OutCanon (execBreakAnswer f s) :=
  accessOp_canon hs fun a => by grind [strandNotice_canon, !.R.next_canon, !.checkHandle_canon, ExceptCanon, Except.bind.eq_def]
theorem fillContinuation_canon {s : State} (pa : Nat) (c : Nat) (pc : Word) (slot : BitVec 5) (hs : Canon s) :
    Canon (fillContinuation s pa c pc slot) := by
  grind [fillContinuation, writeBytes_canon, writeD_canon]
theorem execWhen_canon (f : WhenF) {s : State} (hs : Canon s) : OutCanon (execWhen f s) :=
  accessOp_canon hs fun a => by grind [State.modCore_canon, !.registerWaiter_canon, queueContinuation_canon, !.R.next_canon,
    fillContinuation_canon, !.stall_canon, !.checkHandle_canon, !.noSpec_canon, OptCanon, ExceptCanon, Except.bind.eq_def]
theorem execHstat_canon (f : DstReg) {s : State} (hs : Canon s) : OutCanon (execHstat f s) :=
  accessOp_canon hs fun a => by grind [setReg_canon, !.R.next_canon, !.checkHandle_canon, ExceptCanon, Except.bind.eq_def]
theorem execHget_canon (f : HgetF) {s : State} (hs : Canon s) : OutCanon (execHget f s) :=
  accessOp_canon hs fun a => by grind [setK_canon, !.R.next_canon, setReg_canon, !.checkHandle_canon, ExceptCanon,
    Except.bind.eq_def]
theorem execHsync_canon (f : RegF) {s : State} (hs : Canon s) : OutCanon (execHsync f s) :=
  accessOp_canon hs fun a => by grind [State.modStrand_canon, !.R.next_canon, sendUnit_canon, !.checkHandle_canon,
    !.noSpec_canon, ExceptCanon, Except.bind.eq_def]
theorem retireSlot_canon {s : State} (c : Nat) (h : DWord) (hs : Canon s) : Canon (retireSlot s c h) := by
  grind [retireSlot, sendUnit_canon, setSlot_canon, startConts_canon, settleArgs_canon]
theorem execHretire_canon (f : RegF) {s : State} (hs : Canon s) : OutCanon (execHretire f s) :=
  accessOp_canon hs fun a => by grind [retireSlot_canon, !.R.next_canon, !.trapAt_canon, !.checkHandle_canon, !.noSpec_canon,
    ExceptCanon, Except.bind.eq_def]
theorem unitWrite_canon {s : State} (c : Nat) (va : Word) (bytes : List Byte) (hs : Canon s) :
    ExceptCanon (fun _ => True) Canon (unitWrite s c va bytes) := by
  grind [unitWrite, !.devWrite_canon, ExceptCanon]
theorem execObjnew_canon (f : ObjnewF) {s : State} (hs : Canon s) : OutCanon (execObjnew f s) :=
  accessOp_canon hs fun a => noSpec_canon a hs (by
    dsimp only
    have hz : RCanon ResCanon (R.next (setS s a f.d 0)) := setS_canon _ _ _ hs
    split
    · exact trapAt_canon _ _ hs
    split
    · exact hz
    split
    · exact planFail_canon _ _ hs
    split
    · exact trapAt_canon _ _ hs
    split
    · exact hz
    split
    · exact trapAt_canon _ _ hs
    · exact hz
    · grind [setS_canon, !.trapAt_canon, !.unitWrite_canon, !.R.next_canon, ExceptCanon, ResCanon])
theorem execObjfree_canon (f : RegF) {s : State} (hs : Canon s) : OutCanon (execObjfree f s) :=
  accessOp_canon hs fun a => noSpec_canon a hs <| (checkHandle_canon a _ _ _ hs).bind fun _ _ => by
    grind [!.trapAt_canon, !.unitWrite_canon, !.R.next_canon, ExceptCanon, ResCanon]
theorem spillAll_canon {s : State} (a : Actor) (sp : Word) (ws : List DWord) (hs : Canon s) :
    RCanon (fun r => Canon r.1) (spillAll s a sp ws) := by
  induction ws generalizing s sp with
  | nil => exact hs
  | cons w t ih => grind [spillAll, !.trapAt_canon, !.strandStoreRaw_canon, ExceptCanon, StopCanon]
theorem migrate_canon {s : State} (a : Actor) (dest : Nat) (hs : Canon s) : RCanon ResCanon (migrate s a dest) := by
  unfold migrate
  split
  · exact hs
  split
  · exact trapAt_canon _ _ hs
  refine (releaseReady_canon a hs).bind fun _ _ => (spillAll_canon a _ _ hs).bind fun r hr => ?_
  have hp := publishStrand_canon (s := r.1) a.core a.k none hr
  split
  · exact stall_canon _ _ hs
  · grind [dropKnown_canon, State.countCore_canon, State.dropStrand_canon, sendUnit_canon, leaveFolds_canon, OptCanon,
    ExceptCanon, ResCanon]
theorem execMigr_canon (f : RegF) {s : State} (hs : Canon s) : OutCanon (execMigr f s) :=
  accessOp_canon hs fun a => by grind [!.migrate_canon, !.noSpec_canon]
theorem execMigra_canon (f : MigraF) {s : State} (hs : Canon s) : OutCanon (execMigra f s) :=
  accessOp_canon hs fun a => by grind [!.migrate_canon, !.trapAt_canon, !.translate_canon, !.noSpec_canon, ExceptCanon,
    Except.bind.eq_def]
theorem execHold_canon (f : HoldF) {s : State} (hs : Canon s) : OutCanon (execHold f s) :=
  accessOp_canon hs fun a => by grind [State.modStrand_canon, !.R.next_canon, !.noSpec_canon]
theorem execRelease_canon (f : HoldF) {s : State} (hs : Canon s) : OutCanon (execRelease f s) :=
  accessOp_canon hs fun a => by grind [State.modStrand_canon, !.R.next_canon, !.noSpec_canon]

/-! ### Lea -/

theorem leaWrite_canon {s : State} (p : Nat) (part : BitVec 6) (c : Nat) (va : Word) (bytes : List Byte) (hs : Canon s) :
    Canon (leaWrite s p part c va bytes) := by
  grind [leaWrite, engWrite_canon, postFault_canon, engCheck_canon]
theorem leaData_canon {s : State} (p : Nat) (n : Nat) (op : LeaOp) (hs : Canon s) : Canon (leaData s p n op) := by
  unfold leaData
  grind [foldApply_canon, settleFold_canon, leaWrite_canon, Canon.foldl]
theorem leaTake_canon {s : State} (a : Actor) (op : LeaOp) (hs : Canon s) : RCanon (fun r => Canon r.1) (leaTake s a op) := by
  grind [leaTake, State.modStrand_canon, !.stall_canon, leaData_canon, leaApplied_canon, State.modPkg_canon, ExceptCanon]

/-! ### Checks -/

theorem correctAll_canon {s : State} (c : Nat) (k : Nat) (x : Strand) (r : Reads) (hs : Canon s) :
    Canon (correctAll s c k x r) := by
  grind [correctAll, State.countCore_canon, State.modStrand_canon]
theorem flipBits_canon {s : State} (c : Nat) (k : Nat) (w : CheckedWord) (two : Bool) (hs : Canon s) :
    Canon (flipBits s c k w two) := by
  unfold flipBits
  grind [State.countCore_canon, putSlotTag_canon, State.modStrand_canon]

/-! ### Queues -/

theorem atIssue_canon {s : State} {g : Guard} {late : SeqEntry → Bool} {act : Actor → R Res} (hs : Canon s)
    (ha : ∀ a, RCanon ResCanon (act a)) : OutCanon (atIssue s g late act) := by
  unfold atIssue
  split
  · trivial
  split
  · exact finishEntry_canon _ hs
  · refine finishSlot_canon _ ?_
    split
    · exact stall_canon _ _ (State.setStrand_canon _ _ _ hs)
    split
    · exact ha _
    · exact hs
theorem execVloop_canon (f : VloopF) {s : State} (hs : Canon s) : OutCanon (execVloop f s) :=
  atIssue_canon hs fun a => by grind [State.setStrand_canon, !.R.next_canon]
theorem execVdrain_canon (f : Bare) {s : State} (hs : Canon s) : OutCanon (execVdrain f s) :=
  atIssue_canon hs fun a => by grind [State.setStrand_canon, !.enqueue_canon]
theorem setQueue_canon {s : State} (c : Nat) (q : Fin 16) (f : Queue → Queue) (hs : Canon s) : Canon (setQueue s c q f) := hs
theorem bindQueue_canon {s : State} (c : Nat) (q : Fin 16) (b : Queue) (hs : Canon s) : Canon (bindQueue s c q b) := by
  grind [bindQueue, sendUnit_canon, setQueue_canon, State.modCore_canon]
theorem qcfgBody_canon {s : State} (a : Actor) (f : QcfgF) (hs : Canon s) : RCanon ResCanon (qcfgBody s a f) := by
  grind [qcfgBody, bindQueue_canon, !.R.next_canon, !.planFail_canon, !.trapAt_canon, !.stall_canon]
theorem execQcfgBind_canon (f : QcfgF) {s : State} (hs : Canon s) : OutCanon (execQcfgBind f s) :=
  accessOp_canon hs fun a => by grind [!.qcfgBody_canon]
theorem execQcfgUnbind_canon (f : QcfgF) {s : State} (hs : Canon s) : OutCanon (execQcfgUnbind f s) :=
  accessOp_canon hs fun a => by grind [!.qcfgBody_canon]
theorem execQlink_canon (f : QueueF) {s : State} (hs : Canon s) : OutCanon (execQlink f s) :=
  accessOp_canon hs fun a => by grind [State.modStrand_canon, State.modCore_canon, sendUnit_canon, !.R.next_canon,
    setQueue_canon, !.trapAt_canon, !.stall_canon, markWait_canon, ExceptCanon, StopCanon]
theorem advance_canon {s : State} (c : Nat) (q : Fin 16) (produce : Bool) (n : Nat) (hs : Canon s) :
    Canon (advance s c q produce n) := by
  grind [advance, sendUnit_canon, setQueue_canon]
theorem qadvBody_canon {s : State} (a : Actor) (f : QadvF) (produce : Bool) (hs : Canon s) :
    RCanon ResCanon (qadvBody s a f produce) := by
  unfold qadvBody
  grind [advance_canon, specHold_canon, !.queuesReady_canon, !.stall_canon, !.R.next_canon, !.trapAt_canon, ExceptCanon,
    Except.bind.eq_def]
theorem guarded_canon {s : State} (a : Actor) (g : Guard) {k : R Res} (hs : Canon s) (hk : RCanon ResCanon k) :
    RCanon ResCanon (guarded s a g k) := by
  grind [guarded, !.R.next_canon]
theorem execQadvP_canon (f : QadvF) {s : State} (hs : Canon s) : OutCanon (execQadvP f s) := by
  unfold execQadvP
  grind [!.accessOp_canon, !.qadvBody_canon, !.guarded_canon, !.executeOp_canon]
theorem execQadvC_canon (f : QadvF) {s : State} (hs : Canon s) : OutCanon (execQadvC f s) := by
  unfold execQadvC
  grind [!.accessOp_canon, !.qadvBody_canon, !.guarded_canon, !.executeOp_canon]
theorem execQstat_canon (f : QstatF) {s : State} (hs : Canon s) : OutCanon (execQstat f s) :=
  accessOp_canon hs fun a => by grind [setReg_canon, !.R.next_canon]
theorem execKpush_canon (f : KpushF) {s : State} (hs : Canon s) : OutCanon (execKpush f s) :=
  executeOp_canon hs fun a => by grind [State.modStrand_canon, !.R.next_canon, !.stall_canon, !.guarded_canon]

/-! ### Folds -/

theorem awaitRoot_canon {s : State} (a : Actor) (n : Nat) (m : Msg) (hs : Canon s) : RCanon ResCanon (awaitRoot s a n m) := by
  grind [awaitRoot, State.modStrand_canon, sendUnit_canon, !.stall_canon]
theorem execFjoin_canon (f : FoldF) {s : State} (hs : Canon s) : OutCanon (execFjoin f s) :=
  accessOp_canon hs fun a => by grind [!.awaitRoot_canon, !.trapAt_canon, !.R.next_canon, !.noSpec_canon]
theorem execFleave_canon (f : FoldF) {s : State} (hs : Canon s) : OutCanon (execFleave f s) :=
  accessOp_canon hs fun a => by grind [!.awaitRoot_canon, State.modStrand_canon, !.R.next_canon, !.noSpec_canon]
theorem execFmemb_canon (f : FmembF) {s : State} (hs : Canon s) : OutCanon (execFmemb f s) :=
  accessOp_canon hs fun a => by grind [setReg_canon, !.R.next_canon]
theorem contribute_canon {s : State} (a : Actor) (f : Fin 16) (kind : Nat) (pred : Bool) (hs : Canon s) :
    RCanon ResCanon (contribute s a f kind pred) := by
  unfold contribute
  grind [State.modStrand_canon, !.stall_canon, sendUnit_canon, !.releaseReady_canon, ExceptCanon, Except.bind.eq_def]
theorem collectiveTest_canon {s : State} (a : Actor) (f : Fin 16) {k : R Res} (hs : Canon s) (hk : RCanon ResCanon k) :
    RCanon ResCanon (collectiveTest s a f k) := by
  grind [collectiveTest, State.modStrand_canon, !.trapAt_canon]
theorem dropContrib_canon {s : State} (a : Actor) (hs : Canon s) : Canon (dropContrib s a) := State.modStrand_canon _ _ _ hs
theorem cbrBody_canon (f : CbrF) (kind : Nat) {s : State} (a : Actor) (hs : Canon s) :
    RCanon ResCanon (cbrBody f kind s a) := by
  unfold cbrBody
  grind [!.contribute_canon, !.checkStatic_canon, !.collectiveTest_canon, State.modCore_canon, !.stall_canon,
    dropContrib_canon, !.trapAt_canon, !.noSpec_canon, !.R.next_canon, !.jumpTo_canon, ExceptCanon, Except.bind.eq_def]
theorem execCbrAll_canon (f : CbrF) {s : State} (hs : Canon s) : OutCanon (execCbrAll f s) :=
  accessOp_canon hs fun a => by grind [!.cbrBody_canon]
theorem execCbrAny_canon (f : CbrF) {s : State} (hs : Canon s) : OutCanon (execCbrAny f s) :=
  accessOp_canon hs fun a => by grind [!.cbrBody_canon]
theorem execFsync_canon (f : FoldF) {s : State} (hs : Canon s) : OutCanon (execFsync f s) :=
  accessOp_canon hs fun a => by grind [!.contribute_canon, !.collectiveTest_canon, !.R.next_canon, dropContrib_canon,
    !.trapAt_canon, !.stall_canon, !.noSpec_canon]
theorem drainStores_canon {s : State} (a : Actor) (xs : List Access) (hs : Canon s) :
    ExceptCanon (fun _ => True) (fun r => Canon r.1) (drainStores s a xs) := by
  induction xs generalizing s with
  | nil => exact hs
  | cons x t ih => grind [drainStores, !.storeOne_canon, ExceptCanon, StopCanon]
theorem issueHeld_canon {s : State} (a : Actor) (h : Held) (hs : Canon s) : IssuedCanon (issueHeld s a h) := by
  cases h with
  | send d cls m => exact sendUnit_canon _ _ _ _ hs
  | append x => grind [issueHeld, !.appendCommand_canon, OptCanon, IssuedCanon]
  | advance q produce n => grind [issueHeld, advance_canon, IssuedCanon]
  | tag pa t => exact putSlotTag_canon _ _ _ hs
  | atomic x d zero => grind [issueHeld, setS_canon, !.loadAll_canon, IssuedCanon, ExceptCanon, StopCanon]
theorem modSpec_canon {s : State} (c : Nat) (f : Spec → Spec) (hs : Canon s) : Canon (modSpec s c f) := hs
theorem endCommit_canon {s : State} (c : Nat) (k : Nat) (deferred : Option Pending) (hs : Canon s) :
    Canon (endCommit s c k deferred) := by
  unfold endCommit
  grind [enterTrap_canon, State.setStrand_canon, State.modCore_canon]
theorem drainHeld_canon {s : State} (c k : Nat) (hs' : List Held) (hs : Canon s) : OutCanon (drainHeld s c k hs') := by
  induction hs' generalizing s with
  | nil => exact endCommit_canon c k _ hs
  | cons h t ih =>
    unfold drainHeld
    split
    · exact hs
    · grind [!.issueHeld_canon, modSpec_canon, markWait_canon, State.modStrand_canon, IssuedCanon, OutCanon]
theorem drainSpec_canon {s : State} (c : Nat) (k : Nat) (hs : Canon s) : OutCanon (drainSpec s c k) := by
  grind [drainSpec, markWait_canon, modSpec_canon, !.drainHeld_canon, !.drainStores_canon, ExceptCanon, OutCanon]
theorem commitSpec_canon {s : State} (c : Nat) (sp : Spec) (hs : Canon s) : OutCanon (commitSpec s c sp) := by
  grind [commitSpec, !.drainSpec_canon, State.modStrand_canon, modSpec_canon, OutCanon]
theorem returnSlots_canon {s : State} (c : Nat) (held : List Held) (hs : Canon s) : Canon (returnSlots s c held) := by
  unfold returnSlots
  grind [setSlot_canon, Canon.foldl]
theorem squashSpec_canon {s : State} (c : Nat) (sp : Spec) (q : Option Contribution) (hs : Canon s) :
    Canon (squashSpec s c sp q) := by
  grind [squashSpec, State.modStrand_canon, returnSlots_canon, State.modCore_canon]
theorem bstData_canon {s : State} (a : Actor) (x2 : BstSrc) (hs : Canon s) : RCanon (fun _ => True) (bstData s a x2) := by
  unfold bstData
  grind [!.queueBytes_canon, ExceptCanon]
theorem execBst_canon (f : BstF) {s : State} (hs : Canon s) : OutCanon (execBst f s) :=
  accessOp_canon hs fun a => noSpec_canon a hs <| (queuesLegal_canon a _ hs).bind fun _ _ => by
    split
    · exact planFail_canon _ _ hs
    · exact ((queuesReady_canon a _ hs).bind fun _ _ => bstData_canon a _ hs).bind fun b _ => (releaseReady_canon a hs).bind
        fun _ _ => (leaTake_canon a _ hs).map fun r hr => setReg_canon _ _ _ hr
theorem execBseq_canon (f : BseqF) {s : State} (hs : Canon s) : OutCanon (execBseq f s) :=
  accessOp_canon hs fun a => by grind [setReg_canon, !.R.next_canon, State.modCore_canon]

/-! ### Memory -/

theorem released_canon {s : State} (a : Actor) (rel : Bool) (hs : Canon s) : RCanon (fun _ => True) (released s a rel) := by
  grind [released, !.releaseReady_canon, ExceptCanon]
theorem loadFlow_canon {s : State} (a : Actor) (us : List QUse) (p : List Access × Option PlanErr) (hs : Canon s) :
    RCanon (fun r => Canon r.1) (loadFlow s a us p) := by
  unfold loadFlow
  refine (queuesLegal_canon a us hs).bind fun _ _ => ExceptCanon.bind (P := fun _ => True) ?_ fun _ _ =>
    (loadPlan_canon a p hs).bind fun r hr => (queuesReady_canon a us hr).map fun _ _ => hr
  split
  · trivial
  · exact queuesReady_canon a us hs
theorem storeFlow_canon {s : State} (a : Actor) (us : List QUse) (rel : Bool) (plan : VWord → Except PlanErr (List StorePiece))
    {data : R VWord} (lt : LaneTy) (raw : Bool) (rm : RndField) (sat : Bool) (hs : Canon s)
    (hd : RCanon (fun _ => True) data) : RCanon ResCanon (storeFlow s a us rel plan data lt raw rm sat) := by
  unfold storeFlow
  refine (queuesLegal_canon a us hs).bind fun _ _ => (released_canon a rel hs).bind fun _ _ => ?_
  have hq := queuesReady_canon a us hs
  split
  · exact hd.bind fun v _ => storePieces_canon _ _ _ _ _ _ _ hs
  · grind [!.trapAt_canon, !.planFail_canon, ExceptCanon]
theorem drawsInOrder_canon {s : State} (a : Actor) (rm : RndField) (hs : Canon s) :
    RCanon (fun _ => True) (drawsInOrder s a rm) := by
  grind [drawsInOrder, !.stall_canon, ExceptCanon]
theorem shadowableV_canon {s : State} {sh : Bool} {g : Guard} {d : VReg} {body : Actor → R Res} (hs : Canon s)
    (hb : ∀ a, RCanon ResCanon (body a)) : OutCanon (shadowableV s sh g d body) := by
  unfold shadowableV
  split
  · exact shadowOp_canon hs fun a => tagVReg_canon _ _ _ hs
  · exact accessOp_canon hs hb
theorem execLd_canon (f : LdF) {s : State} (hs : Canon s) : OutCanon (execLd f s) :=
  shadowableMem_canon hs fun a => by grind [!.loadFlow_canon, setReg_canon, ResCanon, ExceptCanon, Except.map.eq_def]
theorem execSt_canon (f : StF) {s : State} (hs : Canon s) : OutCanon (execSt f s) :=
  shadowableMem_canon hs fun a => (released_canon a _ hs).bind fun _ _ => by
    dsimp only
    split
    · exact planFail_canon _ _ hs
    · exact (storeReady_canon a _ hs).bind fun _ _ => (storeNow_canon a _ (orFlags_canon _ _ hs)).map fun _ h => h
theorem fillSlot_canon {s : State} (a : Actor) (q : Fin 16) (need : Nat) (data : List Byte) (hs : Canon s) :
    Canon (fillSlot s a q need data) := by
  unfold fillSlot
  grind [queueStore_canon, Canon.foldl]
theorem execLdq_canon (f : LdqF) {s : State} (hs : Canon s) : OutCanon (execLdq f s) :=
  shadowableMem_canon hs fun a => by grind [!.queueRoom_canon, fillSlot_canon, !.loadFlow_canon, ResCanon, ExceptCanon,
    Except.bind.eq_def, Except.map.eq_def]
theorem execStq_canon (f : LdqF) {s : State} (hs : Canon s) : OutCanon (execStq f s) :=
  shadowableMem_canon hs fun a => (queuesLegal_canon a _ hs).bind fun _ _ => (released_canon a _ hs).bind fun _ _ => by
    dsimp only
    split
    · exact planFail_canon _ _ hs
    · exact (queuesReady_canon a _ hs).bind fun _ _ => (queueBytes_canon a _ _ _ _ hs).bind fun b _ =>
        (storeReady_canon a _ hs).bind fun _ _ => (storeNow_canon a _ hs).map fun _ h => h
theorem vectorLoad_canon {s : State} (a : Actor) (lt : LaneTy) (rm : RndField) (sat raw : Bool) (d : VReg) (n : Nat)
    (more : List QUse) (p : List Access × Option PlanErr) (hs : Canon s) :
    RCanon ResCanon (vectorLoad s a lt rm sat raw d n more p) :=
  (drawsInOrder_canon a rm hs).bind fun _ _ => (loadFlow_canon a _ p hs).bind fun _ hr =>
    (loadLanes_canon a lt rm sat d _ hr).map fun _ h => h
theorem execVld_canon (f : VmemF) {s : State} (hs : Canon s) : OutCanon (execVld f s) :=
  shadowableV_canon hs fun a => by grind [!.vectorLoad_canon]
theorem execVst_canon (f : VmemF) {s : State} (hs : Canon s) : OutCanon (execVst f s) :=
  shadowableMem_canon hs fun a => by grind [!.vreg_canon, !.storeFlow_canon, !.drawsInOrder_canon, ExceptCanon,
    Except.bind.eq_def]
theorem execVlds_canon (f : VstrideF) {s : State} (hs : Canon s) : OutCanon (execVlds f s) :=
  shadowableV_canon hs fun a => by grind [!.vectorLoad_canon]
theorem execVsts_canon (f : VstrideF) {s : State} (hs : Canon s) : OutCanon (execVsts f s) :=
  shadowableMem_canon hs fun a => by grind [!.vreg_canon, !.storeFlow_canon, !.drawsInOrder_canon, ExceptCanon,
    Except.bind.eq_def]
theorem withIndex_canon {s : State} (a : Actor) (f : VindexF) (us : List QUse) {k : VWord → R Res} (hs : Canon s)
    (hk : ∀ v, RCanon ResCanon (k v)) : RCanon ResCanon (withIndex s a f us k) := by
  refine (queuesLegal_canon a _ hs).bind fun _ _ => (queuesReady_canon a _ hs).bind fun _ _ => (vreg_canon a f.idx hs).bind
    fun v _ => ?_
  split
  · exact trapAt_canon _ _ hs
  · exact hk v
theorem execVgath_canon (f : VindexF) {s : State} (hs : Canon s) : OutCanon (execVgath f s) :=
  shadowableV_canon hs fun a => by grind [!.vectorLoad_canon, !.withIndex_canon]
theorem execVscat_canon (f : VindexF) {s : State} (hs : Canon s) : OutCanon (execVscat f s) :=
  shadowableMem_canon hs fun a => by grind [!.vreg_canon, !.storeFlow_canon, !.drawsInOrder_canon, !.withIndex_canon,
    ExceptCanon, Except.bind.eq_def]
theorem execVgathBc_canon (f : VgathBcF) {s : State} (hs : Canon s) : OutCanon (execVgathBc f s) :=
  shadowableMem_canon hs fun a => (queuesLegal_canon a _ hs).bind fun _ _ => by
    dsimp only
    split
    · exact trapAt_canon _ _ hs
    split
    · exact hs
    split
    · exact trapAt_canon _ _ hs
    · exact (queuesReady_canon a _ hs).bind fun _ _ => (loadPlan_canon a _ hs).bind fun r hr =>
        (queueRoom_canon a _ hr).map fun _ _ => Canon.foldl hr (fun t d ht => fillSlot_canon _ _ _ _ ht) _
theorem atomicBody_canon {s : State} (a : Actor) (ord : Order) (d : SReg) (m : MemBase) (z : Bool) (rule : Leaf → Option Code)
    (x : Atomic) (hs : Canon s) : RCanon ResCanon (atomicBody s a ord d m z rule x) := by
  unfold atomicBody
  grind [!.loadFlow_canon, setReg_canon, !.released_canon, specHold_canon, !.R.next_canon, !.planFail_canon, !.stall_canon,
    ResCanon, ExceptCanon, Except.bind.eq_def, Except.map.eq_def]
theorem intAtomic_canon {s : State} (f : AmoF) (op : AtomicOp) (hs : Canon s) : OutCanon (intAtomic s f op) :=
  shadowableMem_canon hs fun a => atomicBody_canon a _ _ _ _ _ _ hs
theorem execAmoAdd_canon (f : AmoF) {s : State} (hs : Canon s) : OutCanon (execAmoAdd f s) := intAtomic_canon _ _ hs
theorem execAmoMin_canon (f : AmoF) {s : State} (hs : Canon s) : OutCanon (execAmoMin f s) := intAtomic_canon _ _ hs
theorem execAmoMax_canon (f : AmoF) {s : State} (hs : Canon s) : OutCanon (execAmoMax f s) := intAtomic_canon _ _ hs
theorem execAmoAnd_canon (f : AmoF) {s : State} (hs : Canon s) : OutCanon (execAmoAnd f s) := intAtomic_canon _ _ hs
theorem execAmoOr_canon (f : AmoF) {s : State} (hs : Canon s) : OutCanon (execAmoOr f s) := intAtomic_canon _ _ hs
theorem execAmoXor_canon (f : AmoF) {s : State} (hs : Canon s) : OutCanon (execAmoXor f s) := intAtomic_canon _ _ hs
theorem execAmoSwap_canon (f : AmoF) {s : State} (hs : Canon s) : OutCanon (execAmoSwap f s) := intAtomic_canon _ _ hs
theorem execAmoCas_canon (f : CasF) {s : State} (hs : Canon s) : OutCanon (execAmoCas f s) :=
  shadowableMem_canon hs fun a => by grind [!.atomicBody_canon]
theorem execAmofAdd_canon (f : AmofF) {s : State} (hs : Canon s) : OutCanon (execAmofAdd f s) :=
  shadowableMem_canon hs fun a => by grind [!.atomicBody_canon]
theorem execFence_canon (f : FenceF) {s : State} (hs : Canon s) : OutCanon (execFence f s) :=
  shadowableMem_canon hs fun a => by grind [!.R.next_canon, !.releaseReady_canon, !.stall_canon, ExceptCanon,
    Except.bind.eq_def]
theorem execFenceSysLea_canon (f : FenceLeaF) {s : State} (hs : Canon s) : OutCanon (execFenceSysLea f s) :=
  shadowableMem_canon hs fun a => by grind [!.leaTake_canon, setReg_canon, !.releaseReady_canon, !.stall_canon, ResCanon,
    ExceptCanon, Except.bind.eq_def, Except.map.eq_def]

/-! ### Select -/

theorem markBusy_canon {s : State} (t : Nat) (hs : Canon s) : Canon (markBusy s t) := by
  unfold markBusy
  grind [State.modCluster_canon, Canon.foldl]
theorem State.advance_canon {s : State} (dt : Nat) (hs : Canon s) : Canon (State.advance s dt) := by
  grind [State.advance, markBusy_canon, Canon]

/-! ### Turns -/

theorem checkedSlot_canon {ex : Instr → State → Out} (hex : ∀ i s, Canon s → OutCanon (ex i s)) {s : State} (c k : Nat)
    (x : Strand)
    (line : List Byte) (i : Instr) (hs : Canon s) : OutCanon (checkedSlot ex s c k x line i) := by
  unfold checkedSlot
  grind [raise_canon, endBare_canon, correctAll_canon, OutCanon]
theorem toBank_canon {s : State} (c : Nat) (k : Nat) (x : Strand) (hs : Canon s) : Canon (toBank s c k x) := hs
theorem slotTurn_canon {ex : Instr → State → Out} (hex : ∀ i s, Canon s → OutCanon (ex i s)) {s : State} (c k : Nat)
    (hs : Canon s) :
    OutCanon (slotTurn ex s c k) := by
  unfold slotTurn
  grind [raise_canon, toBank_canon, countFetch_canon, State.modStrand_canon, !.drainSpec_canon, !.checkedSlot_canon, OutCanon]
theorem entryTurn_canon {ex : Instr → State → Out} (hex : ∀ i s, Canon s → OutCanon (ex i s)) {s : State} (c k : Nat)
    (hs : Canon s) :
    OutCanon (entryTurn ex s c k) := by
  unfold entryTurn
  grind [raise_canon, endBare_canon, correctAll_canon, captureOperands_canon, OutCanon]
theorem fillTurn_canon {s : State} (c : Nat) (va : Word) (hs : Canon s) : Canon (fillTurn s c va) := by
  grind [fillTurn, State.setCore_canon, State.countDenial_canon]
theorem flipTurn_canon {s : State} (c : Nat) (k : Nat) (w : CheckedWord) (two : Bool) (hs : Canon s) :
    Canon (flipTurn s c k w two) := by
  grind [flipTurn, flipBits_canon, endBare_canon]
theorem runTurn_canon {ex : Instr → State → Out} (hex : ∀ i s, Canon s → OutCanon (ex i s)) {s : State} (hs : Canon s) :
    OutCanon (runTurn ex s) := by
  unfold runTurn
  split
  · exact slotTurn_canon hex _ _ hs
  · exact entryTurn_canon hex _ _ hs
  · exact fillTurn_canon _ _ hs
  · exact flipTurn_canon _ _ _ _ hs
  · split
    · exact hex _ _ hs
    · exact hs

/-! ### Matrix -/

theorem matrixOp_canon {s : State} {i : Instr} {g : Guard} {issue : Actor → R State} {body : Actor → R Res} (hs : Canon s)
    (hi : ∀ a, RCanon Canon (issue a)) (hb : ∀ a, RCanon ResCanon (body a)) : OutCanon (matrixOp s i g issue body) := by
  unfold matrixOp
  split
  · trivial
  split
  · refine finishEntry_canon _ ?_
    split
    · exact hb _
    · exact stall_canon _ _ hs
  · refine finishSlot_canon _ (noSpec_canon _ hs ?_)
    split
    · exact stall_canon _ _ hs
    · refine ExceptCanon.bind (P := Canon) ?_ fun _ ht => enqueue_canon _ _ ht
      split
      · exact hi _
      · exact hs
theorem noCheck_canon {s : State} (x1 : Actor) (hs : Canon s) : RCanon Canon (noCheck s x1) := hs
theorem rungCheck_canon {s : State} (t : Fin 16) (a : Actor) (hs : Canon s) : RCanon Canon (rungCheck s t a) := by
  grind [rungCheck, !.trapAt_canon, ExceptCanon]
theorem tileWrite_canon {s : State} (c : Nat) (t : Nat) (xs : List (Nat × BitVec 32)) (hs : Canon s) :
    Canon (tileWrite s c t xs) := by
  grind [tileWrite, State.modCore_canon, writeMoved_canon]
theorem runMatrix_canon {s : State} (c : Nat) (x : MatOp) (bank : Micro) (rows : List (List Byte)) (hs : Canon s) :
    OptCanon Canon (runMatrix s c x bank rows) := by
  grind [runMatrix, orFlags_canon, State.setCore_canon, writeMoved_canon, OptCanon]
theorem mirrorRecord_canon {s : State} (a : Actor) (m : Nat) (hs : Canon s) : Canon (mirrorRecord s a m) := by
  grind [mirrorRecord, countDelivery_canon, postFault_canon]
theorem matWord_canon {s : State} (a : Actor) (x : MatOp) (m : Nat) (hs : Canon s) : RCanon ResCanon (matWord s a x m) := by
  unfold matWord
  split
  · exact hs
  dsimp only
  split
  · exact planFail_canon _ _ hs
  · refine (storeNow_canon a _ ?_).map fun _ h => h
    split
    · exact mirrorRecord_canon _ _ hs
    · exact hs
theorem idleNeed_canon {s : State} (a : Actor) (q : Fin 16) (need : Nat) (hs : Canon s) :
    RCanon (fun _ => True) (idleNeed s a q need) := by
  grind [idleNeed, !.queuesReady_canon, ExceptCanon]
theorem queueBytes_rows_canon {s : State} (a : Actor) (q : Fin 16) (need m n : Nat) (hs : Canon s) :
    RCanon (fun _ => True) ((List.range m).mapM (fun j => queueBytes s a q (need + j) 0 n)) :=
  .mapM (fun j => queueBytes_canon a q (need + j) 0 n hs) _
theorem matBody_canon {s : State} (x : MatOp) (a : Actor) (hs : Canon s) : RCanon ResCanon (matBody s x a) := by
  unfold matBody
  dsimp only
  split
  · exact stall_canon _ _ hs
  split
  · exact (idleNeed_canon a _ _ hs).map fun _ _ => hs
  refine (queuesLegal_canon a _ hs).bind fun _ _ => ?_
  split
  · exact trapAt_canon _ _ hs
  refine (queuesReady_canon a _ hs).bind fun _ _ => (queueBytes_rows_canon a _ _ _ _ hs).bind fun rows _ => ?_
  split
  · exact stall_canon _ _ hs
  · grind [!.matWord_canon, !.runMatrix_canon, OptCanon, ExceptCanon, StopCanon]
theorem execMma_canon (f : MmaF) {s : State} (hs : Canon s) : OutCanon (execMma f s) := by
  unfold execMma
  grind [!.matBody_canon, !.rungCheck_canon, !.matrixOp_canon]
theorem execMmas_canon (f : MmaF) {s : State} (hs : Canon s) : OutCanon (execMmas f s) := by
  unfold execMmas
  grind [!.matBody_canon, !.rungCheck_canon, !.matrixOp_canon]
theorem execMrec_canon (f : MrecF) {s : State} (hs : Canon s) : OutCanon (execMrec f s) := by
  unfold execMrec
  grind [!.matBody_canon, !.rungCheck_canon, !.matrixOp_canon]
theorem execWld_canon (f : WldF) {s : State} (hs : Canon s) : OutCanon (execWld f s) :=
  accessOp_canon hs fun a => by grind [!.loadPlan_canon, State.modCore_canon, !.stall_canon, !.noSpec_canon, ResCanon,
    ExceptCanon, Except.map.eq_def]
theorem execWswp_canon (f : Bare) {s : State} (hs : Canon s) : OutCanon (execWswp f s) := by
  unfold execWswp
  grind [State.modCore_canon, !.R.next_canon, !.noCheck_canon, !.matrixOp_canon]
theorem execMpld_canon (f : MpldF) {s : State} (hs : Canon s) : OutCanon (execMpld f s) :=
  accessOp_canon hs fun a => by grind [!.loadPlan_canon, State.modCore_canon, !.trapAt_canon, !.noSpec_canon, ResCanon,
    ExceptCanon, Except.map.eq_def]
theorem execGang_canon (f : Bare) {s : State} (hs : Canon s) : OutCanon (execGang f s) := by
  unfold execGang
  grind [State.modStrand_canon, setBarrier_canon, !.stall_canon, !.R.next_canon, !.noCheck_canon, !.matrixOp_canon]
theorem execAzero_canon (f : TileF) {s : State} (hs : Canon s) : OutCanon (execAzero f s) := by
  unfold execAzero
  grind [tileWrite_canon, !.R.next_canon, !.rungCheck_canon, !.matrixOp_canon]
theorem execAzeroRelease_canon (f : TileF) {s : State} (hs : Canon s) : OutCanon (execAzeroRelease f s) := by
  unfold execAzeroRelease
  grind [tileWrite_canon, State.modCore_canon, !.R.next_canon, !.rungCheck_canon, !.matrixOp_canon]
theorem execAld_canon (f : TileMemF) {s : State} (hs : Canon s) : OutCanon (execAld f s) := by
  unfold execAld
  grind [!.loadPlan_canon, tileWrite_canon, !.trapAt_canon, !.R.next_canon, !.rungCheck_canon, !.matrixOp_canon, ResCanon,
    ExceptCanon, Except.map.eq_def]
theorem execAst_canon (f : TileMemF) {s : State} (hs : Canon s) : OutCanon (execAst f s) :=
  matrixOp_canon hs (fun a => noCheck_canon a hs) fun a => by
    dsimp only
    split
    · exact hs
    split
    · exact trapAt_canon _ _ hs
    split
    · exact planFail_canon _ _ hs
    · exact (storeReady_canon a _ hs).bind fun _ _ => (storeNow_canon a _ hs).map fun _ h => h
theorem execAcvt_canon (f : AcvtF) {s : State} (hs : Canon s) : OutCanon (execAcvt f s) :=
  matrixOp_canon hs (fun a => noCheck_canon a hs) fun a => by
    dsimp only
    split
    · refine ExceptCanon.map (P := fun _ => True) ?_ fun _ _ => hs
      split
      · exact queuesReady_canon _ _ hs
      · trivial
    · refine (queuesLegal_canon a _ hs).bind fun _ _ => iteInduction (fun _ => trapAt_canon _ _ hs) fun _ => ?_
      exact (queuesReady_canon a _ hs).bind fun _ _ => orFlags_canon _ _ <| setSeed_canon _ _ <|
        Canon.foldl_fst hs (fun r j hr => queueStore_canon _ _ _ _ _ _ hr) _

/-! ### Ladder -/

theorem ladderSet_canon {s : State} (a : Actor) (hs : Canon s) : RCanon (fun _ => True) (ladderSet s a) := by
  grind [ladderSet, !.trapAt_canon, ExceptCanon]
theorem ladcfgIssue_canon {s : State} (f : LadcfgF) (a : Actor) (hs : Canon s) : RCanon Canon (ladcfgIssue s f a) := by
  grind [ladcfgIssue, State.modCore_canon, !.trapAt_canon, ExceptCanon]
theorem execLadcfg_canon (f : LadcfgF) {s : State} (hs : Canon s) : OutCanon (execLadcfg f s) := by
  unfold execLadcfg
  grind [State.modCore_canon, !.stall_canon, !.R.next_canon, !.ladcfgIssue_canon, !.matrixOp_canon]
theorem execLadpush_canon (f : TileF) {s : State} (hs : Canon s) : OutCanon (execLadpush f s) := by
  unfold execLadpush
  grind [State.modCore_canon, !.R.next_canon, !.trapAt_canon, !.ladderSet_canon, !.matrixOp_canon, ExceptCanon,
    Except.bind.eq_def]
theorem execLadrd_canon (f : TileF) {s : State} (hs : Canon s) : OutCanon (execLadrd f s) := by
  unfold execLadrd
  grind [orFlags_canon, tileWrite_canon, !.stall_canon, !.R.next_canon, !.trapAt_canon, !.ladderSet_canon, !.matrixOp_canon,
    ExceptCanon, Except.bind.eq_def]
theorem execLadld_canon (f : LadldF) {s : State} (hs : Canon s) : OutCanon (execLadld f s) := by
  unfold execLadld
  grind [tileWrite_canon, !.stall_canon, !.R.next_canon, !.trapAt_canon, !.ladderSet_canon, !.matrixOp_canon, ExceptCanon,
    Except.bind.eq_def]
theorem execLadw_canon (f : LadwF) {s : State} (hs : Canon s) : OutCanon (execLadw f s) := by
  unfold execLadw
  grind [State.modCore_canon, !.R.next_canon, !.ladderSet_canon, !.matrixOp_canon, ExceptCanon, Except.map.eq_def]
theorem execAttncfg_canon (f : AttncfgF) {s : State} (hs : Canon s) : OutCanon (execAttncfg f s) :=
  accessOp_canon hs fun a => by grind [State.modCore_canon, !.R.next_canon, !.noSpec_canon]
theorem execAttn_canon (f : AttnF) {s : State} (hs : Canon s) : OutCanon (execAttn f s) :=
  accessOp_canon hs fun a => by grind [!.append_canon, !.completionPair_canon, !.trapAt_canon, !.loadPlan_canon,
    !.noSpec_canon, ExceptCanon, Except.bind.eq_def]
theorem execNbmv_canon (f : NbmvF) {s : State} (hs : Canon s) : OutCanon (execNbmv f s) :=
  accessOp_canon hs fun a => by grind [!.append_canon, !.completionPair_canon, !.trapAt_canon, !.noSpec_canon, ExceptCanon,
    Except.bind.eq_def]

/-! ### Network -/

theorem answer_canon {s : State} (f : Flit) (a : Access) (strand : Nat) (tag : Nat) (idx : Nat) (cause : Option Code)
    (data : List Byte) (hs : Canon s) : Canon (answer s f a strand tag idx cause data) := send_canon _ _ _ _ _ hs
theorem performRequest_canon {s : State} (f : Flit) (a : Access) (strand : Nat) (tag : Nat) (idx : Nat) (hs : Canon s) :
    OutCanon (performRequest s f a strand tag idx) := by
  grind [performRequest, release_canon, answer_canon, markDone_canon, !.performAt_canon, DoneCanon, OutCanon]
theorem takeDone_canon {s : State} (f : Flit) (hs : Canon s) : OptCanon Canon (takeDone s f) := by
  grind [takeDone, State.modCore_canon, OptCanon]
theorem requestAt_canon {s : State} (i : Nat) (sectors : Bool) (mine : Flit → Access → Bool) (hs : Canon s) :
    OutCanon (requestAt s i sectors mine) := by
  unfold requestAt
  grind [!.takeDone_canon, deliver_canon, sectorArrives_canon, sectorDone_canon, send_canon, answer_canon,
    !.performRequest_canon, !.filterFlit_canon, noteDelivery_canon, release_canon, countDest_canon, !.takeFlit_canon,
      VerdictCanon, OutCanon, OptCanon]
theorem execRequestFlitArrival_canon (i : Nat) {s : State} (hs : Canon s) : OutCanon (execRequestFlitArrival i s) :=
    requestAt_canon _ _ _ hs
theorem execCrossDieWriteApply_canon (i : Nat) {s : State} (hs : Canon s) : OutCanon (execCrossDieWriteApply i s) :=
    requestAt_canon _ _ _ hs
theorem execSubByteStore_canon (i : Nat) {s : State} (hs : Canon s) : OutCanon (execSubByteStore i s) :=
    requestAt_canon _ _ _ hs
theorem takeAnswer_canon {s : State} (c : Nat) (strand : Nat) (tag : Nat) (idx : Nat) (cause : Option Code) (data : List Byte)
    (hs : Canon s) : Canon (takeAnswer s c strand tag idx cause data) := State.modStrand_canon _ _ _ hs
theorem storeDenied_canon {s : State} (c : Nat) (strand : Nat) (who : Ident) (a : Access) (cause : Code) (data : List Byte)
    (hs : Canon s) : Canon (storeDenied s c strand who a cause data) := by
  grind [storeDenied, postFault_canon, State.modStrand_canon]
theorem execStoreDenialResponse_canon (i : Nat) {s : State} (hs : Canon s) : OutCanon (execStoreDenialResponse i s) := by
  grind [execStoreDenialResponse, noteDelivery_canon, storeDenied_canon, countDest_canon, !.takeFlit_canon, OptCanon, OutCanon]
theorem hostAnswered_canon {s : State} (f : Flit) (a : Access) (strand : Nat) (tag : Nat) (idx : Nat) (h : HostAnswer)
    (hs : Canon s) : Canon (hostAnswered s f a strand tag idx h) := by
  unfold hostAnswered
  grind [storeDenied_canon, release_canon, takeAnswer_canon]
theorem execRemoteAccessResponse_canon (i : Nat) (host : HostAnswer) {s : State} (hs : Canon s) :
    OutCanon (execRemoteAccessResponse i host s) := by
  grind [execRemoteAccessResponse, hostAnswered_canon, noteDelivery_canon, takeAnswer_canon, countDest_canon,
    !.takeFlit_canon, OptCanon, OutCanon]
theorem execRemoteTimeout_canon (core : Nat) (idx : Nat) {s : State} (hs : Canon s) :
    OutCanon (execRemoteTimeout core idx s) := by
  unfold execRemoteTimeout
  grind [State.setStrand_canon, OutCanon, Canon]
theorem giveUp_canon {s : State} (x : Kept) (hs : Canon s) : Canon (giveUp s x) := by grind [giveUp, Canon]
theorem execFlitResend_canon (i : Nat) {s : State} (hs : Canon s) : OutCanon (execFlitResend i s) := by
  unfold execFlitResend
  grind [giveUp_canon, OutCanon, Canon]
theorem execRetryResponse_canon (i : Nat) {s : State} (hs : Canon s) : OutCanon (execRetryResponse i s) := by
  unfold execRetryResponse
  grind [countDest_canon, !.takeFlit_canon, OptCanon, OutCanon, Canon]
theorem execDuplicateWindowRelease_canon (i : Nat) {s : State} (hs : Canon s) : OutCanon (execDuplicateWindowRelease i s) := by
  unfold execDuplicateWindowRelease
  split
  · dsimp only
    split
    · exact hs
    · exact hs
  · exact hs
theorem execFlitAgeDiscard_canon (i : Nat) {s : State} (hs : Canon s) : OutCanon (execFlitAgeDiscard i s) := by
  unfold execFlitAgeDiscard
  grind [sectorDone_canon, State.countPort_canon, OutCanon, Canon]
theorem execAwaitRewalk_canon (core : Nat) (idx : Nat) {s : State} (hs : Canon s) : OutCanon (execAwaitRewalk core idx s) := by
  grind [execAwaitRewalk, State.setStrand_canon, OutCanon]
theorem execPageWaitTimeout_canon (core : Nat) (idx : Nat) {s : State} (hs : Canon s) :
    OutCanon (execPageWaitTimeout core idx s) := by
  grind [execPageWaitTimeout, raise_canon, OutCanon]
theorem execQueueWaitTimeout_canon (core : Nat) (idx : Nat) {s : State} (hs : Canon s) :
    OutCanon (execQueueWaitTimeout core idx s) := by
  grind [execQueueWaitTimeout, raise_canon, OutCanon]
theorem queueEvent_canon (i : Nat) {s : State} {act : State → Nat → Nat → Msg → Option State} (hs : Canon s)
    (ha : ∀ t c src m, Canon t → OptCanon Canon (act t c src m)) : Canon (queueEvent i s act) :=
  deliver_canon i hs fun t f ht => by
    split
    · exact ha _ _ _ _ ht
    · trivial
theorem onLink_canon {s : State} (c src : Nat) (q : Fin 16) {k : Queue → State} (hs : Canon s) (hk : ∀ b, Canon (k b)) :
    Canon (onLink s c src q k) := by
  unfold onLink
  dsimp only
  split
  · exact hk _
  · exact State.countCore_canon _ _ _ _ hs
theorem execQueueLinkFlit_canon (i : Nat) {s : State} (hs : Canon s) : OutCanon (execQueueLinkFlit i s) := by
  unfold execQueueLinkFlit
  grind [State.modCore_canon, queueEvent_canon, OptCanon, OutCanon]
theorem execQueueUnlinkFlit_canon (i : Nat) {s : State} (hs : Canon s) : OutCanon (execQueueUnlinkFlit i s) := by
  unfold execQueueUnlinkFlit
  grind [setQueue_canon, queueEvent_canon, OptCanon, OutCanon]
theorem execQueueSlotWriteMessage_canon (i : Nat) {s : State} (hs : Canon s) : OutCanon (execQueueSlotWriteMessage i s) := by
  unfold execQueueSlotWriteMessage
  grind [writeBytes_canon, clearPoison_canon, putSlotTag_canon, onLink_canon, queueEvent_canon, OptCanon, OutCanon]
theorem execQueuePublishMessage_canon (i : Nat) {s : State} (hs : Canon s) : OutCanon (execQueuePublishMessage i s) := by
  unfold execQueuePublishMessage
  grind [setQueue_canon, onLink_canon, queueEvent_canon, OptCanon, OutCanon]
theorem execQueueCreditMessage_canon (i : Nat) {s : State} (hs : Canon s) : OutCanon (execQueueCreditMessage i s) := by
  unfold execQueueCreditMessage
  grind [setQueue_canon, onLink_canon, queueEvent_canon, OptCanon, OutCanon]

/-! ### EngineRun -/

theorem checkSegs_canon {s : State} (x : Command) (gs : Segs) (hs : Canon s) : Canon (checkSegs s x gs).1 := by
  unfold checkSegs
  grind [engCheck_canon, Canon.foldl_fst]
theorem writeSegs_canon {s : State} (x : Command) (gs : Segs) (hs : Canon s) : Canon (writeSegs s x gs) :=
    writeParts_canon _ _ hs
theorem engPair_canon {s : State} (x : Command) (l : Leaf) (va : Word) (k : Nat) (hs : Canon s) :
    Canon (engPair s x l va k).1 := engRead_canon _ _ _ hs
theorem samePairs_canon {s : State} (x : Command) (src : Word) (dst : Word) (n : Nat) (hs : Canon s) :
    Canon (samePairs s x src dst n).1 := by
  unfold samePairs
  grind [engPair_canon, Canon.foldl_fst]
theorem copyElems_canon {s : State} (x : Command) (f : Nat) (va : Word) (n : Nat) (hs : Canon s) :
    Canon (copyElems s x f va n).1 := by
  have hr := engRead_canon x.who va n hs
  unfold copyElems
  generalize engRead s x.who va n = r at hr
  dsimp only
  split
  · exact hr
  · refine Canon.foldl_fst (r := (r.1, Except.ok [])) hr (fun r j hr => ?_) _
    split
    · exact hr
    · grind [engPair_canon, State.countDenial_canon]
theorem copyBlocks_canon {s : State} (x : Command) (l : Leaf) (dst : Word) (es : List Elt) (hs : Canon s) :
    Canon (copyBlocks s x l dst es).1 := by
  unfold copyBlocks
  grind [engPair_canon, Canon.foldl_fst]
theorem sectorData_canon {s : State} (x : Command) (g : CopyGeo) (key : Nat) (hs : Canon s) :
    Canon (sectorData s x g key).1 := by
  grind [sectorData, samePairs_canon, engRead_canon, copyBlocks_canon, State.countDenial_canon, copyElems_canon]
theorem leaIssue_canon {s : State} (p : Nat) (op : LeaOp) (hs : Canon s) : Canon (leaIssue s p op) := by
  grind [leaIssue, leaData_canon, leaApplied_canon, State.modPkg_canon]
theorem sendSector_canon {s : State} (x : Command) (key : Nat) (gs : Segs) (hs : Canon s) :
    Canon (sendSector s x key gs).1 := by
  unfold sendSector
  grind [send_canon, writeParts_canon, Canon.foldl]
theorem moveSectors_canon {s : State} (x : Command) (g : CopyGeo) (keys : List Nat) (hs : Canon s) :
    Canon (moveSectors s x g keys) := by
  unfold moveSectors
  grind [leaIssue_canon, setHead_canon, sendSector_canon, checkSegs_canon, sectorData_canon, Canon.foldl_fst]
theorem execCopySector_canon (cl : Nat) {s : State} (hs : Canon s) : OutCanon (execCopySector cl s) := by
  grind [execCopySector, moveSectors_canon, State.modCluster_canon, OutCanon]
theorem retain_canon {s : State} (g : CopyGeo) (x : Command) (hs : Canon s) : Canon (retain s g x) := hs
theorem endCopy_canon {s : State} (x : Command) (hs : Canon s) : Canon (endCopy s x) := by
  unfold endCopy
  grind [retain_canon, postCompletion_canon, pageFault_canon, endCommand_canon, popHead_canon, Canon.foldl]
theorem engElems_canon {s : State} (x : Command) (mf : MatFmt) (geom : Option Nat) (va : Word) (n : Nat) (hs : Canon s) :
    Canon (engElems s x mf geom va n).1 := by
  grind [engElems, engRead_canon, copyElems_canon]
theorem nbmvRows_canon (x : Command) (mf : MatFmt) (dst : Word) (b : Word) (len : Nat) (a : List Num)
    {x6 : State × Nat × Option Code} (x7 : Nat) (hx6 : Canon x6.1) : Canon (nbmvRows x mf dst b len a x6 x7).1 := by
  unfold nbmvRows
  grind [engWrite_canon, engCheck_canon, engElems_canon]
theorem endNbmv_canon {s : State} (x : Command) (mf : MatFmt) (chk : Bool) (dst : Word) (a : Word) (b : Word) (rows : Nat)
    (len : Nat) (hs : Canon s) : Canon (endNbmv s x mf chk dst a b rows len) := by
  unfold endNbmv
  grind [endChecked_canon, commandFault_canon, endCommand_canon, nbmvRows_canon, engElems_canon, popHead_canon, Canon.foldl_fst]
theorem attnRows_canon {s : State} (x : Command) (inp : AttnIn) (dh : Nat) (rows : Nat) (va : Word) (hs : Canon s) :
    Canon (attnRows s x inp dh rows va).1 := engElems_canon _ _ _ _ _ hs
theorem setTile_canon {s : State} (cl : Nat) (t : AttnTile) (hs : Canon s) : Canon (setTile s cl t) := hs
theorem failTile_canon {s : State} (x : Command) (c : Code) (hs : Canon s) : Canon (failTile s x c) := hs
theorem attnStep_canon {s : State} (cl : Nat) (t : AttnTile) (x : Command) (hs : Canon s) : Canon (attnStep s cl t x) := by
  unfold attnStep
  split
  · dsimp only
    have h0 := engRead_canon (s := s) x.who
    have hr := fun (t : State) => attnRows_canon (s := t) x
    split
    · exact failTile_canon _ _ (h0 _ _ hs)
    split
    · exact failTile_canon _ _ (h0 _ _ hs)
    split
    · exact setTile_canon _ _ (h0 _ _ hs)
    split
    · exact failTile_canon _ _ (hr _ _ _ _ _ (h0 _ _ hs))
    split
    · exact failTile_canon _ _ (hr _ _ _ _ _ (hr _ _ _ _ _ (h0 _ _ hs)))
    split
    · exact failTile_canon _ _ (hr _ _ _ _ _ (hr _ _ _ _ _ (hr _ _ _ _ _ (h0 _ _ hs))))
    · exact setTile_canon _ _ (hr _ _ _ _ _ (hr _ _ _ _ _ (hr _ _ _ _ _ (h0 _ _ hs))))
  · exact hs
theorem execAttnBlock_canon (cl : Nat) {s : State} (hs : Canon s) : OutCanon (execAttnBlock cl s) := by
  grind [execAttnBlock, attnStep_canon, OutCanon]
theorem execAttnPageRewalk_canon (cl : Nat) {s : State} (hs : Canon s) : OutCanon (execAttnPageRewalk cl s) := by
  grind [execAttnPageRewalk, attnStep_canon, OutCanon]
theorem execAttnPageTimeout_canon (cl : Nat) {s : State} (hs : Canon s) : OutCanon (execAttnPageTimeout cl s) := by
  grind [execAttnPageTimeout, failTile_canon, OutCanon]
theorem endAttn_canon {s : State} (x : Command) (t : AttnTile) (hs : Canon s) : Canon (endAttn s x t) := by
  grind [endAttn, writeSegs_canon, endChecked_canon, abandonCommand_canon, checkSegs_canon, popHead_canon,
    State.modCluster_canon]
theorem startCommand_canon {s : State} (x : Command) (hs : Canon s) : Canon (startCommand s x) := by
  grind [startCommand, setTile_canon, send_canon, engRead_canon, State.countShepherd_canon, setHead_canon]
theorem execEngineCommandStart_canon (core : Nat) (eng : Fin 4) {s : State} (hs : Canon s) :
    OutCanon (execEngineCommandStart core eng s) := by
  grind [execEngineCommandStart, startCommand_canon, OutCanon]
theorem execCredResult_canon (i : Nat) {s : State} (hs : Canon s) : OutCanon (execCredResult i s) :=
  deliver_canon i hs fun t f ht => by
    dsimp only
    split
    · split
      · exact ht
      split
      · split
        · exact ht
        split
        · exact setHead_canon _ ht
        split
        · exact setHead_canon _ (engCheck_canon _ _ _ ht)
        · exact setHead_canon _ (engWrite_canon _ _ _ (engCheck_canon _ _ _ ht))
      · exact ht
    · trivial
theorem dropSectors_canon {s : State} (x : Command) (hs : Canon s) : Canon (dropSectors s x).1 := by
  grind [dropSectors, setHead_canon, Canon]
theorem clearTile_canon {s : State} (x : Command) (hs : Canon s) : Canon (clearTile s x) := by
  grind [clearTile, State.modCluster_canon]
theorem execEngineCommandEnd_canon (core : Nat) (eng : Fin 4) {s : State} (hs : Canon s) :
    OutCanon (execEngineCommandEnd core eng s) := by
  unfold execEngineCommandEnd
  grind [endAttn_canon, endNbmv_canon, endCopy_canon, dropSectors_canon, abandonCommand_canon, endCommand_canon,
    popHead_canon, clearTile_canon, OutCanon]
theorem execLadderMerge_canon (core : Nat) {s : State} (hs : Canon s) : OutCanon (execLadderMerge core s) := by
  grind [execLadderMerge, State.setCore_canon, writeMoved_canon, orFlags_canon, OutCanon]
theorem resetBarrier_canon {s : State} (cl : Nat) (row : Fin 4) (hs : Canon s) : Canon (resetBarrier s cl row) := hs
theorem gangFails_canon {s : State} (cl : Nat) (row : Fin 4) (cause : Ganged → Option Code) (gs : List Ganged)
    (hs : Canon s) : Canon (gangFails s cl row cause gs) := by
  unfold gangFails
  grind [resetBarrier_canon, gangFail_canon, Canon.foldl]
theorem gangStart_canon {s : State} (g : Ganged) (hs : Canon s) : Canon (gangStart s g) := by
  grind [gangStart, State.modCore_canon, State.modStrand_canon]
theorem openRow_canon {s : State} (cl : Nat) (row : Fin 4) (l : Ganged) (all : List Ganged) (hs : Canon s) :
    Canon (openRow s cl row l all) := by
  unfold openRow
  grind [gangStart_canon, setBarrier_canon, Canon.foldl]
theorem gangRun_canon (rows : List (List Byte)) {o : Out} (g : Ganged) (ho : OutCanon o) : OutCanon (gangRun rows o g) := by
  unfold gangRun
  split
  next s =>
    have hs : Canon (s.modStrand g.a.core g.a.k ungang) := State.modStrand_canon _ _ _ ho
    dsimp only
    split
    · exact finishEntry_canon _ hs
    · have hm := runMatrix_canon g.a.core g.op ((s.modStrand g.a.core g.a.k ungang).core g.a.core).microActive rows hs
      split
      · exact markPark_canon _ hs
      next h =>
        rw [h] at hm
        exact finishEntry_canon _ (matWord_canon _ _ _ hm)
  · exact ho
theorem leadRows_canon {s : State} (l : Ganged) (hs : Canon s) : RCanon (fun _ => True) (leadRows s l) := by
  unfold leadRows
  split
  · exact (queuesReady_canon _ _ hs).bind fun _ _ => queueBytes_rows_canon _ _ _ _ _ hs
  · exact (idleNeed_canon _ _ _ hs).map fun _ _ => True.intro
theorem gangWork_canon {s : State} (cl : Nat) (row : Fin 4) (hs : Canon s) : OutCanon (gangWork s cl row) := by
  unfold gangWork
  split
  · dsimp only
    split
    · exact gangFails_canon _ _ _ _ hs
    · have hl := leadRows_canon (s := s)
      split
      · exact foldl_stays (fun o g ho => gangRun_canon _ g ho) _ (resetBarrier_canon _ _ hs)
      · grind [ExceptCanon, StopCanon, OutCanon]
      · exact hs
  · exact hs
theorem execGangOpen_canon (cl : Nat) (row : Fin 4) {s : State} (hs : Canon s) : OutCanon (execGangOpen cl row s) := by
  grind [execGangOpen, gangFails_canon, openRow_canon, !.gangWork_canon, OutCanon]
theorem execGangBarrierTimeout_canon (cl : Nat) (row : Fin 4) {s : State} (hs : Canon s) :
    OutCanon (execGangBarrierTimeout cl row s) := by
  unfold execGangBarrierTimeout
  grind [resetBarrier_canon, gangFail_canon, OutCanon, Canon.foldl]

/-! ### Messages -/

theorem atCore_canon (i : Nat) {s : State} {act : State → Nat → Flit → Option State} (hs : Canon s)
    (ha : ∀ t c f, Canon t → OptCanon Canon (act t c f)) : OutCanon (atCore i s act) :=
  deliver_canon i hs fun t f ht => by
    split
    · exact ha _ _ _ ht
    · trivial
theorem refuseOneWay_canon {s : State} (src : Nat) (part : BitVec 6) {count : State → State} (hc : Canon (count s)) :
    Canon (refuseOneWay s src part count) := postFault_canon _ _ hc
theorem deniedAtCore_canon (c : Nat) {s : State} (hs : Canon s) : Canon (deniedAtCore c s) := hs
theorem execInvocationArrival_canon (i : Nat) {s : State} (hs : Canon s) : OutCanon (execInvocationArrival i s) := by
  unfold execInvocationArrival
  grind [!.acceptInvocation_canon, !.atCore_canon, OptCanon]
theorem execForwardedInvocation_canon (i : Nat) {s : State} (hs : Canon s) : OutCanon (execForwardedInvocation i s) := by
  unfold execForwardedInvocation
  grind [!.runInvocation_canon, !.atCore_canon, OptCanon]
theorem execResolutionNotice_canon (i : Nat) {s : State} (hs : Canon s) : OutCanon (execResolutionNotice i s) := by
  unfold execResolutionNotice
  grind [applyNotice_canon, !.atCore_canon, OptCanon]
theorem execBreakNotice_canon (i : Nat) {s : State} (hs : Canon s) : OutCanon (execBreakNotice i s) := by
  unfold execBreakNotice
  grind [applyNotice_canon, !.atCore_canon, OptCanon]
theorem execRetireNotice_canon (i : Nat) {s : State} (hs : Canon s) : OutCanon (execRetireNotice i s) := by
  unfold execRetireNotice
  grind [applyRetire_canon, !.atCore_canon, OptCanon]
theorem execRetiredMarkExpiry_canon (core : Nat) (n : Nat) {s : State} (hs : Canon s) :
    OutCanon (execRetiredMarkExpiry core n s) := by
  grind [execRetiredMarkExpiry, State.modCore_canon, OutCanon]
theorem execPendingAnswerTimeout_canon (core : Nat) (n : Nat) {s : State} (hs : Canon s) :
    OutCanon (execPendingAnswerTimeout core n s) := by
  grind [execPendingAnswerTimeout, startInvocation_canon, State.modCore_canon, refuseInvocation_canon, serveWaiting_canon,
    OutCanon]
theorem sendRetry_canon {s : State} (c : Nat) (core : Nat) (h : DWord) (hs : Canon s) : Canon (sendRetry s c core h) :=
    sendUnit_canon _ _ _ _ hs
theorem execWaiterRegistration_canon (i : Nat) {s : State} (hs : Canon s) : OutCanon (execWaiterRegistration i s) := by
  unfold execWaiterRegistration
  grind [addPib_canon, sendRetry_canon, sendUnit_canon, !.atCore_canon, OptCanon]
theorem execRegistrationRetry_canon (i : Nat) {s : State} (hs : Canon s) : OutCanon (execRegistrationRetry i s) := by
  grind [execRegistrationRetry, sendUnit_canon, countDest_canon, !.takeFlit_canon, OptCanon, OutCanon]
theorem execHsyncRequest_canon (i : Nat) {s : State} (hs : Canon s) : OutCanon (execHsyncRequest i s) := by
  unfold execHsyncRequest
  grind [State.modCore_canon, !.atCore_canon, OptCanon]
theorem execHsyncAck_canon (core : Nat) (idx : Nat) {s : State} (hs : Canon s) : OutCanon (execHsyncAck core idx s) := by
  grind [execHsyncAck, State.modCore_canon, State.modStrand_canon, OutCanon]
theorem execHsyncTimeout_canon (core : Nat) (idx : Nat) {s : State} (hs : Canon s) :
    OutCanon (execHsyncTimeout core idx s) := by
  unfold execHsyncTimeout
  grind [raise_canon, State.modStrand_canon, State.modCore_canon, OutCanon, Canon.foldl]
theorem dispatchAtMailbox_canon {s : State} (c : Nat) (m : Nat) (x : MailMsg) (hs : Canon s) :
    Canon (dispatchAtMailbox s c m x) := by
  grind [dispatchAtMailbox, State.countCore_canon, setMailbox_canon, State.setLaunch_canon, dispatchMail_canon]
theorem mailAtCore_canon {s : State} (c : Nat) (m : Nat) (x : MailMsg) (hs : Canon s) : Canon (mailAtCore s c m x) := by
  grind [mailAtCore, dispatchAtMailbox_canon, divert_canon]
theorem execMailboxMessage_canon (i : Nat) {s : State} (hs : Canon s) : OutCanon (execMailboxMessage i s) := by
  unfold execMailboxMessage
  grind [State.countShepherd_canon, State.modCluster_canon, deniedAtCore_canon, refuseOneWay_canon, mailAtCore_canon,
    deliver_canon, OptCanon, OutCanon]
theorem execActiveMessage_canon (i : Nat) {s : State} (hs : Canon s) : OutCanon (execActiveMessage i s) := by
  unfold execActiveMessage
  grind [deniedAtCore_canon, refuseOneWay_canon, queueStart_canon, !.atCore_canon, OptCanon]
theorem dropCont_canon {s : State} (c : Nat) (rec : Nat) (hs : Canon s) : Canon (dropCont s c rec) := hs
theorem execTaskRelease_canon (i : Nat) {s : State} (hs : Canon s) : OutCanon (execTaskRelease i s) := by
  unfold execTaskRelease
  grind [dropCont_canon, queueStart_canon, !.atCore_canon, OptCanon]
theorem queueContext_canon {s : State} (c : Nat) (x : Context) (back : Bool) (hs : Canon s) :
    Canon (queueContext s c x back) := queueAt_canon _ _ _ hs
theorem execContextMove_canon (i : Nat) {s : State} (hs : Canon s) : OutCanon (execContextMove i s) := by
  unfold execContextMove
  grind [sendUnit_canon, queueContext_canon, !.atCore_canon, OptCanon]
theorem execContextReturn_canon (i : Nat) {s : State} (hs : Canon s) : OutCanon (execContextReturn i s) := by
  unfold execContextReturn
  grind [queueContext_canon, !.atCore_canon, OptCanon]
theorem execFrameRelease_canon (i : Nat) {s : State} (hs : Canon s) : OutCanon (execFrameRelease i s) := by
  unfold execFrameRelease
  grind [State.modCore_canon, !.atCore_canon, OptCanon]

/-! ### Teardown -/

theorem hostSend_canon {s : State} (p : Nat) (tag : Nat) (record : List Byte) (hs : Canon s) :
    Canon (hostSend s p tag record) := hs
theorem breakFenced_canon {s : State} (c : Nat) (s12 : Word) (hs : Canon s) : Canon (breakFenced s c s12) := by
  grind [breakFenced, sendNotice_canon]
theorem stopStrand_canon (fenced : Bool) (c : Nat) {s : State} (k : Nat) (hs : Canon s) : Canon (stopStrand fenced c s k) := by
  grind [stopStrand, leaveFolds_canon, gangLeave_canon, State.dropStrand_canon, countDelivery_canon, breakFenced_canon,
    dropContext_canon]
theorem stopCommand_canon (fenced : Bool) {s : State} (x : Command) (hs : Canon s) : Canon (stopCommand fenced s x) := by
  grind [stopCommand, freeLocks_canon, abandonCommand_canon]
theorem stopEntry_canon (c : Nat) {s : State} (e : PibEntry) (hs : Canon s) : Canon (stopEntry c s e) := by
  unfold stopEntry
  grind [postFault_canon, sendNotice_canon]
theorem stopCore_canon (fenced : Bool) {s : State} (c : Nat) (hs : Canon s) : Canon (stopCore fenced s c) := by
  unfold stopCore
  grind [State.modCore_canon, State.modCluster_canon, breakFenced_canon, stopEntry_canon, stopCommand_canon,
    stopStrand_canon, Canon.foldl]
theorem revokeRights_canon {s : State} (p : Nat) (part : BitVec 6) (hs : Canon s) : Canon (revokeRights s p part) := hs
theorem stopPartition_canon {s : State} (p : Nat) (part : BitVec 6) (fenced : Bool) (hs : Canon s) :
    Canon (stopPartition s p part fenced) := by
  unfold stopPartition
  grind [State.modPkg_canon, stopCore_canon, revokeRights_canon, Canon.foldl]
theorem fencePartition_canon {s : State} (p : Nat) (part : BitVec 6) (hs : Canon s) : Canon (fencePartition s p part) := by
  grind [fencePartition, stopPartition_canon, hostSend_canon]
theorem releaseSources_canon {s : State} (p : Nat) (part : BitVec 6) (hs : Canon s) : Canon (releaseSources s p part) := hs

/-! ### Board -/

theorem ueError_canon {s : State} (p : Nat) (hs : Canon s) : Canon (ueError s p) := hs
theorem ueData_canon {s : State} (p : Nat) (b : List Byte) (hs : Canon s) : Canon (ueData s p b) := hs
theorem ueDone_canon {s : State} (p : Nat) (hs : Canon s) : Canon (ueDone s p) := hs
theorem unknownJob_canon {s : State} (p : Nat) (hs : Canon s) : Canon (unknownJob s p) := hs
theorem execUetRmaWrite_canon (pkg : Nat) (job : BitVec 24) (va : Word) (bytes : List Byte) {s : State} (hs : Canon s) :
    OutCanon (execUetRmaWrite pkg job va bytes s) := by
  grind [execUetRmaWrite, engWrite_canon, ueDone_canon, engCheck_canon, ueError_canon, unknownJob_canon, OutCanon]
theorem execUetRmaRead_canon (pkg : Nat) (job : BitVec 24) (va : Word) (len : Nat) {s : State} (hs : Canon s) :
    OutCanon (execUetRmaRead pkg job va len s) := by
  grind [execUetRmaRead, ueData_canon, engRead_canon, ueError_canon, unknownJob_canon, OutCanon]
theorem execUetMailboxSend_canon (pkg : Nat) (port : Fin 4) (job : BitVec 24) (ip : BitVec 128) (va : Word)
    (bytes : List Byte) {s : State} (hs : Canon s) : OutCanon (execUetMailboxSend pkg port job ip va bytes s) := by
  grind [execUetMailboxSend, State.modCluster_canon, ueDone_canon, mailAtCore_canon, State.countDenial_canon, ueError_canon,
    unknownJob_canon, OutCanon]
theorem execUltraEthernetPortDown_canon (pkg : Nat) (port : Fin 4) {s : State} (hs : Canon s) :
    OutCanon (execUltraEthernetPortDown pkg port s) := hs
theorem execUltraEthernetPortUp_canon (pkg : Nat) (port : Fin 4) {s : State} (hs : Canon s) :
    OutCanon (execUltraEthernetPortUp pkg port s) := hs
theorem execUetConnectionSetup_canon (pkg : Nat) (port : Fin 4) (offer : UetOffer) {s : State} (hs : Canon s) :
    OutCanon (execUetConnectionSetup pkg port offer s) := by
  grind [execUetConnectionSetup, ueError_canon, State.modPkg_canon, OutCanon]
theorem postResult_canon {s : State} (p : Nat) (status : Nat) (part : BitVec 6) (pm : List Byte) (hs : Canon s) :
    Canon (postResult s p status part pm) := hs
theorem execMgmtUnknownRequest_canon (pkg : Nat) (code : BitVec 64) {s : State} (hs : Canon s) :
    OutCanon (execMgmtUnknownRequest pkg code s) := by
  grind [execMgmtUnknownRequest, postResult_canon, OutCanon]
theorem zeroRange_canon {s : State} (lo hi : Nat) (hs : Canon s) : Canon (zeroRange s lo hi) := Memory.wf_filter _ _ hs
theorem setRights_canon {s : State} (p : Nat) (part : BitVec 6) (targets : List Nat) (hs : Canon s) :
    Canon (setRights s p part targets) := hs
theorem setRoot_canon {s : State} (p : Nat) (part : BitVec 6) (img : Nat) (shared : DWord) (hs : Canon s) :
    Canon (setRoot s p part img shared) := by
  unfold setRoot
  grind [writeBytes_canon, Canon.foldl]
theorem setHostTables_canon {s : State} (p : Nat) (hs : Canon s) : Canon (setHostTables s p) := hs
theorem applyConfig_canon {s : State} (p : Nat) (b : List Byte) (hs : Canon s) : Canon (applyConfig s p b) := by
  unfold applyConfig
  grind [setHostTables_canon, postResult_canon, State.modPkg_canon, State.modCluster_canon, State.modCore_canon,
    setRights_canon, setRoot_canon, zeroRange_canon, Canon.foldl]
theorem erasePart_canon {s : State} (p : Nat) (part : BitVec 6) (hs : Canon s) : Canon (erasePart s p part) := hs
theorem execMgmtApplyConfig_canon (pkg : Nat) (body : List Byte) (signature : List Byte) {s : State} (hs : Canon s) :
    OutCanon (execMgmtApplyConfig pkg body signature s) := by
  grind [execMgmtApplyConfig, stopPartition_canon, State.modPkg_canon, erasePart_canon, applyConfig_canon, postResult_canon,
    OutCanon]
theorem execMgmtRemovePartition_canon (pkg : Nat) (part : BitVec 6) {s : State} (hs : Canon s) :
    OutCanon (execMgmtRemovePartition pkg part s) := by
  grind [execMgmtRemovePartition, stopPartition_canon, State.modPkg_canon, erasePart_canon, postResult_canon, OutCanon]
theorem freeCores_canon {s : State} (p : Nat) (part : BitVec 6) (hs : Canon s) : Canon (freeCores s p part) := by
  unfold freeCores
  grind [State.modCore_canon, Canon.foldl]
theorem execTeardownRelease_canon (pkg : Nat) (part : BitVec 6) {s : State} (hs : Canon s) :
    OutCanon (execTeardownRelease pkg part s) := by
  grind [execTeardownRelease, postResult_canon, State.modPkg_canon, applyConfig_canon, freeCores_canon, erasePart_canon,
    releaseSources_canon, OutCanon]
theorem execPartitionFence_canon (pkg : Nat) (part : BitVec 6) {s : State} (hs : Canon s) :
    OutCanon (execPartitionFence pkg part s) := fencePartition_canon _ _ hs
theorem resetPackage_canon {s : State} (p : Nat) (hs : Canon s) : Canon (resetPackage s p) := Memory.wf_filter _ _ hs
theorem execResetBoot_canon (pkg : Nat) (bank0 : BootImage) (bank1 : BootImage) {s : State} (hs : Canon s) :
    OutCanon (execResetBoot pkg bank0 bank1 s) := by
  grind [execResetBoot, State.setPkg_canon, resetPackage_canon, State.modPkg_canon, OutCanon]
theorem execSignedImageViaUltraEthernet_canon (pkg : Nat) (image : BootImage) {s : State} (hs : Canon s) :
    OutCanon (execSignedImageViaUltraEthernet pkg image s) := by
  grind [execSignedImageViaUltraEthernet, State.setPkg_canon, OutCanon]
theorem execMgmtAttestationQuote_canon (pkg : Nat) (nonce : List Byte) (part : BitVec 6) {s : State} (hs : Canon s) :
    OutCanon (execMgmtAttestationQuote pkg nonce part s) := by
  grind [execMgmtAttestationQuote, hostSend_canon, OutCanon]
theorem execPowerTelemetryRefresh_canon (pkg : Nat) (words : List (BitVec 32)) {s : State} (hs : Canon s) :
    OutCanon (execPowerTelemetryRefresh pkg words s) := by
  grind [execPowerTelemetryRefresh, State.modPkg_canon, OutCanon]
theorem State.setConnector_canon {s : State} (p : Nat) (conn : Nat) (c : Connector) (hs : Canon s) :
    Canon (State.setConnector s p conn c) := hs
theorem postDegradation_canon {s : State} (p : Nat) (conn : Nat) (c : Connector) (hs : Canon s) :
    Canon (postDegradation s p conn c) := hs
theorem execBusVoltageFault_canon (pkg : Nat) (millivolts : Nat) {s : State} (hs : Canon s) :
    OutCanon (execBusVoltageFault pkg millivolts s) := by
  grind [execBusVoltageFault, postDegradation_canon, resetPackage_canon, State.modPkg_canon, OutCanon]
theorem execBusVoltageRecovery_canon (pkg : Nat) (millivolts : Nat) {s : State} (hs : Canon s) :
    OutCanon (execBusVoltageRecovery pkg millivolts s) := by
  grind [execBusVoltageRecovery, State.modPkg_canon, OutCanon]
theorem execMgmtSetPowerCap_canon (pkg : Nat) (die : Fin 4) (watts : BitVec 16) {s : State} (hs : Canon s) :
    OutCanon (execMgmtSetPowerCap pkg die watts s) := by
  grind [execMgmtSetPowerCap, State.modDie_canon, postResult_canon, OutCanon]
theorem execBoilingLimitRenewal_canon (pkg : Nat) (die : Fin 4) (watts : Nat) {s : State} (hs : Canon s) :
    OutCanon (execBoilingLimitRenewal pkg die watts s) := hs
theorem execBoilingLimitLapse_canon (pkg : Nat) (die : Fin 4) {s : State} (hs : Canon s) :
    OutCanon (execBoilingLimitLapse pkg die s) := by
  grind [execBoilingLimitLapse, State.setDie_canon, OutCanon]
theorem execThermalThrottle_canon (pkg : Nat) (die : Fin 4) (centi : Nat) {s : State} (hs : Canon s) :
    OutCanon (execThermalThrottle pkg die centi s) := by
  grind [execThermalThrottle, State.modDie_canon, OutCanon]
theorem execThermalThrottleEnd_canon (pkg : Nat) (die : Fin 4) (centi : Nat) {s : State} (hs : Canon s) :
    OutCanon (execThermalThrottleEnd pkg die centi s) := by
  grind [execThermalThrottleEnd, State.modDie_canon, OutCanon]
theorem execThermalStop_canon (pkg : Nat) (die : Fin 4) (centi : Nat) {s : State} (hs : Canon s) :
    OutCanon (execThermalStop pkg die centi s) := by
  unfold execThermalStop
  grind [fencePartition_canon, State.modDie_canon, OutCanon, Canon.foldl]
theorem execConnectorCheck_canon (pkg : Nat) (conn : Nat) (value : Nat) (baseline : Nat) (wmask : BitVec 16) {s : State}
    (hs : Canon s) : OutCanon (execConnectorCheck pkg conn value baseline wmask s) := by
  grind [execConnectorCheck, postDegradation_canon, State.setConnector_canon, OutCanon]
theorem execDegradationReport_canon (pkg : Nat) (conn : Nat) {s : State} (hs : Canon s) :
    OutCanon (execDegradationReport pkg conn s) := by
  grind [execDegradationReport, postDegradation_canon, OutCanon]

/-! ### FoldEvents -/

theorem deliverOut_canon {s : State} (i : Nat) {act : State → Flit → Option Out} (hs : Canon s)
    (ha : ∀ t f, Canon t → OptCanon OutCanon (act t f)) : OutCanon (deliverOut s i act) := by
  unfold deliverOut
  grind [release_canon, send_canon, countDest_canon, markDone_canon, !.takeFlit_canon, noteDelivery_canon,
    !.filterFlit_canon, OptCanon, VerdictCanon, OutCanon]
theorem ifEntry_canon (p : Nat) {s : State} (hs : Canon s) : OptCanon Canon (ifEntry p s) := by
  grind [ifEntry, OptCanon]
theorem execFoldContribution_canon (i : Nat) {s : State} (hs : Canon s) : OutCanon (execFoldContribution i s) := by
  unfold execFoldContribution
  grind [takeCred_canon, takeContribution_canon, !.ifEntry_canon, deliver_canon, OptCanon, OutCanon]
theorem rootRecorded_canon {s : State} (c : Nat) (k : Nat) (hs : Canon s) : Canon (rootRecorded s c k) :=
    State.modStrand_canon _ _ _ hs
theorem execFoldJoinRecorded_canon (i : Nat) {s : State} (hs : Canon s) : OutCanon (execFoldJoinRecorded i s) := by
  unfold execFoldJoinRecorded
  grind [rootRecorded_canon, foldJoin_canon, deliver_canon, OptCanon, OutCanon]
theorem execFoldLeaveRecorded_canon (i : Nat) {s : State} (hs : Canon s) : OutCanon (execFoldLeaveRecorded i s) := by
  unfold execFoldLeaveRecorded
  grind [foldLeave_canon, rootRecorded_canon, deliver_canon, OptCanon, OutCanon]
theorem execFoldEject_canon (pkg : Nat) (fold : Fin 16) (core : Nat) {s : State} (hs : Canon s) :
    OutCanon (execFoldEject pkg fold core s) := by
  grind [execFoldEject, ejectMember_canon, OutCanon]
theorem raiseLseq_canon {s : State} (c : Nat) (n : Nat) (hs : Canon s) : Canon (raiseLseq s c n) := hs
theorem takeOutcome_canon {s : State} (c k : Nat) (q : Contribution) (hs : Canon s) :
    OptCanon OutCanon (takeOutcome s c k q) := by
  unfold takeOutcome
  grind [State.modStrand_canon, !.commitSpec_canon, squashSpec_canon, OptCanon, OutCanon]
theorem execFoldOutcome_canon (i : Nat) {s : State} (hs : Canon s) : OutCanon (execFoldOutcome i s) :=
  deliverOut_canon i hs fun t f ht => by
    grind [!.takeOutcome_canon, raiseLseq_canon, OptCanon, OutCanon]
theorem execFoldOutcomeTimeout_canon (core : Nat) (idx : Nat) {s : State} (hs : Canon s) :
    OutCanon (execFoldOutcomeTimeout core idx s) := by
  grind [execFoldOutcomeTimeout, raise_canon, State.modStrand_canon, squashSpec_canon, OutCanon]

/-! ### Optics -/

theorem postLink_canon {s : State} (p : Nat) (e : LinkEvent) (hs : Canon s) : Canon (postLink s p e) := hs
theorem execLinkFrameReceive_canon (link : Nat) (crcOk : Bool) {s : State} (hs : Canon s) :
    OutCanon (execLinkFrameReceive link crcOk s) := by
  unfold execLinkFrameReceive
  grind [State.setLink_canon, State.countPort_canon, OutCanon, Canon]
theorem execLinkAckSend_canon (link : Nat) {s : State} (hs : Canon s) : OutCanon (execLinkAckSend link s) := by
  grind [execLinkAckSend, State.setLink_canon, OutCanon]
theorem execLinkAckReceive_canon (link : Nat) {s : State} (hs : Canon s) : OutCanon (execLinkAckReceive link s) := by
  grind [execLinkAckReceive, State.setLink_canon, OutCanon]
theorem execLinkReplayRequest_canon (link : Nat) {s : State} (hs : Canon s) : OutCanon (execLinkReplayRequest link s) := by
  grind [execLinkReplayRequest, State.setLink_canon, OutCanon]
theorem linkDown_canon {s : State} (p : Nat) (port : Nat) (l : Link) (hs : Canon s) : Canon (linkDown s p port l) := by
  unfold linkDown
  grind [State.setLink_canon, enterLink_canon, Canon.foldl]
theorem execLossOfLight_canon (link : Nat) (lost : BitVec 16) {s : State} (hs : Canon s) :
    OutCanon (execLossOfLight link lost s) := by
  grind [execLossOfLight, State.setLink_canon, OutCanon]
theorem restripe_canon {s : State} (p : Nat) (port : Nat) (l : Link) (live' : BitVec 16)
    (again : List (BitVec 32 × List Flit)) (ahead : Option (List (BitVec 32 × List Flit))) (kind : Nat) (socket : Nat) (seen
      : Option Nat) (hs : Canon s) : Canon (restripe s p port l live' again ahead kind socket seen) := by
  grind [restripe, State.setLink_canon, linkDown_canon, postLink_canon]
theorem execRestripeNotice_canon (link : Nat) {s : State} (hs : Canon s) : OutCanon (execRestripeNotice link s) := by
  grind [execRestripeNotice, restripe_canon, State.setLink_canon, OutCanon]
theorem execLaserSocketFailure_canon (pkg : Nat) (socket : Nat) {s : State} (hs : Canon s) :
    OutCanon (execLaserSocketFailure pkg socket s) := by
  grind [execLaserSocketFailure, restripe_canon, State.modPkg_canon, OutCanon]
theorem execRestripeMarker_canon (link : Nat) {s : State} (hs : Canon s) : OutCanon (execRestripeMarker link s) := by
  grind [execRestripeMarker, State.setLink_canon, OutCanon]
theorem execLinkRetrain_canon (link : Nat) (own : TrainProposal) (far : TrainProposal) {s : State} (hs : Canon s) :
    OutCanon (execLinkRetrain link own far s) := by
  grind [execLinkRetrain, State.setLink_canon, postLink_canon, linkDown_canon, OutCanon]
theorem execRetrainRetry_canon (link : Nat) {s : State} (hs : Canon s) : OutCanon (execRetrainRetry link s) := by
  grind [execRetrainRetry, State.setLink_canon, OutCanon]
theorem State.modLea_canon {s : State} (p : Nat) (f : Lea → Lea) (hs : Canon s) : Canon (State.modLea s p f) := hs
theorem leaCast_canon {s : State} (members : List Nat) (ops : List (Nat × LeaOp)) (hs : Canon s) :
    Canon (leaCast s members ops) := by
  unfold leaCast
  grind [State.modLea_canon, Canon.foldl]
theorem larkCast_canon {s : State} (members : List Nat) (k : Lark) (hs : Canon s) : Canon (larkCast s members k) := by
  unfold larkCast
  grind [State.modLea_canon, Canon.foldl]
theorem holdLark_canon {s : State} (pkg : Nat) (k : Lark) (hs : Canon s) : Canon (holdLark s pkg k) := by
  grind [holdLark, larkCast_canon, leaCast_canon, State.modLea_canon]
theorem execLarkReceive_canon (pkg : Nat) {s : State} (hs : Canon s) : OutCanon (execLarkReceive pkg s) := by
  grind [execLarkReceive, holdLark_canon, State.modLea_canon, OutCanon]
theorem execLeaOperationReceive_canon (pkg : Nat) (seq : Nat) {s : State} (hs : Canon s) :
    OutCanon (execLeaOperationReceive pkg seq s) := by
  grind [execLeaOperationReceive, leaData_canon, leaApplied_canon, State.modLea_canon, OutCanon]
theorem execLarkTimeout_canon (pkg : Nat) {s : State} (hs : Canon s) : OutCanon (execLarkTimeout pkg s) := by
  unfold execLarkTimeout
  grind [larkCast_canon, postLink_canon, State.modLea_canon, OutCanon, Canon.foldl]
theorem execLeaSequenceTimeout_canon (core : Nat) (idx : Nat) {s : State} (hs : Canon s) :
    OutCanon (execLeaSequenceTimeout core idx s) := by
  grind [execLeaSequenceTimeout, raise_canon, State.modLea_canon, OutCanon]
theorem execLarkTransmitterRestore_canon (pkg : Nat) {s : State} (hs : Canon s) :
    OutCanon (execLarkTransmitterRestore pkg s) := hs
theorem renumber_canon {s : State} (ps : List (Nat × Nat)) (hs : Canon s) : Canon (renumber s ps) := by
  unfold renumber
  split
  · exact hs
  · exact foldl_stays (P := Memory.wf) (fun _ e hm => smWf_smSet _ _ hm) s.mem rfl
theorem execDomainFormation_canon (numbers : List (Nat × Nat)) {s : State} (hs : Canon s) :
    OutCanon (execDomainFormation numbers s) := by
  unfold execDomainFormation
  grind [State.modPkg_canon, renumber_canon, OutCanon, Canon.foldl]
theorem execLeaGroupFormation_canon (group : BitVec 16) (g : LeaMembers) {s : State} (hs : Canon s) :
    OutCanon (execLeaGroupFormation group g s) := by
  unfold execLeaGroupFormation
  grind [State.modPkg_canon, State.modLea_canon, OutCanon, Canon.foldl]

/-! ### Scalar -/

theorem aluPut_canon {s : State} (a : Actor) {put : Word → State} (r : Except Code (Word × Bool)) (hs : Canon s)
    (hp : ∀ v, Canon (put v)) : RCanon ResCanon (aluPut s a put r) := by
  unfold aluPut
  split
  · exact trapAt_canon _ _ hs
  · exact orFlags_canon _ _ (hp _)
theorem aluWrite_canon {s : State} (a : Actor) (d : SReg) (r : Except Code (Word × Bool)) (hs : Canon s) :
    RCanon ResCanon (aluWrite s a d r) :=
  aluPut_canon a r hs fun _ => setReg_canon _ _ _ hs
theorem aluNum_canon {s : State} (f : Alu3) (z : Bool) (detect : Bool) (op : Int → Int → Int) (hs : Canon s) :
    OutCanon (aluNum s f z detect op) := by
  unfold aluNum
  grind [!.aluWrite_canon, !.shadowable_canon]
theorem aluSum_canon {s : State} (f : Alu3) (op : Int → Int → Int) (hs : Canon s) : OutCanon (aluSum s f op) :=
  shadowable_canon hs fun a => aluPut_canon a _ hs fun _ => setPredicted_canon _ _ _ _ _ hs
theorem aluPat_canon {s : State} (f : Alu3) (op : Nat → Nat → Nat → Nat → Nat) (hs : Canon s) : OutCanon (aluPat s f op) := by
  unfold aluPat
  grind [!.aluWrite_canon, !.shadowable_canon]
theorem aluDiv_canon {s : State} (f : Alu3) (z : Bool) (rem : Bool) (op : Int → Int → Int) (hs : Canon s) :
    OutCanon (aluDiv s f z rem op) := by
  unfold aluDiv
  grind [!.trapAt_canon, !.aluWrite_canon, !.shadowable_canon]
theorem aluOne_canon {s : State} (f : Alu2) (z : Bool) (op : Nat → Nat → Int) (hs : Canon s) : OutCanon (aluOne s f z op) := by
  unfold aluOne
  grind [!.aluWrite_canon, !.shadowable_canon]
theorem execAdd_canon (f : Alu3) {s : State} (hs : Canon s) : OutCanon (execAdd f s) := aluSum_canon _ _ hs
theorem execAddi_canon (f : AluI) {s : State} (hs : Canon s) : OutCanon (execAddi f s) :=
  shadowable_canon hs fun a => by grind [setPredicted_canon, !.aluPut_canon]
theorem execSub_canon (f : Alu3) {s : State} (hs : Canon s) : OutCanon (execSub f s) := aluSum_canon _ _ hs
theorem execMul_canon (f : Alu3) {s : State} (hs : Canon s) : OutCanon (execMul f s) := aluSum_canon _ _ hs
theorem execMulh_canon (f : Alu3) {s : State} (hs : Canon s) : OutCanon (execMulh f s) := aluNum_canon _ _ _ _ hs
theorem execMulhz_canon (f : Alu3) {s : State} (hs : Canon s) : OutCanon (execMulhz f s) := aluNum_canon _ _ _ _ hs
theorem execDiv_canon (f : Alu3) {s : State} (hs : Canon s) : OutCanon (execDiv f s) := aluDiv_canon _ _ _ _ hs
theorem execDivz_canon (f : Alu3) {s : State} (hs : Canon s) : OutCanon (execDivz f s) := aluDiv_canon _ _ _ _ hs
theorem execRem_canon (f : Alu3) {s : State} (hs : Canon s) : OutCanon (execRem f s) := aluDiv_canon _ _ _ _ hs
theorem execRemz_canon (f : Alu3) {s : State} (hs : Canon s) : OutCanon (execRemz f s) := aluDiv_canon _ _ _ _ hs
theorem execMinI_canon (f : Alu3) {s : State} (hs : Canon s) : OutCanon (execMinI f s) := aluNum_canon _ _ _ _ hs
theorem execMaxI_canon (f : Alu3) {s : State} (hs : Canon s) : OutCanon (execMaxI f s) := aluNum_canon _ _ _ _ hs
theorem execMinz_canon (f : Alu3) {s : State} (hs : Canon s) : OutCanon (execMinz f s) := aluNum_canon _ _ _ _ hs
theorem execMaxz_canon (f : Alu3) {s : State} (hs : Canon s) : OutCanon (execMaxz f s) := aluNum_canon _ _ _ _ hs
theorem execAndI_canon (f : Alu3) {s : State} (hs : Canon s) : OutCanon (execAndI f s) := aluPat_canon _ _ hs
theorem execOrI_canon (f : Alu3) {s : State} (hs : Canon s) : OutCanon (execOrI f s) := aluPat_canon _ _ hs
theorem execXorI_canon (f : Alu3) {s : State} (hs : Canon s) : OutCanon (execXorI f s) := aluPat_canon _ _ hs
theorem execAndn_canon (f : Alu3) {s : State} (hs : Canon s) : OutCanon (execAndn f s) := aluPat_canon _ _ hs
theorem execShl_canon (f : Alu3) {s : State} (hs : Canon s) : OutCanon (execShl f s) := aluPat_canon _ _ hs
theorem execShr_canon (f : Alu3) {s : State} (hs : Canon s) : OutCanon (execShr f s) := aluPat_canon _ _ hs
theorem execSar_canon (f : Alu3) {s : State} (hs : Canon s) : OutCanon (execSar f s) := aluPat_canon _ _ hs
theorem execRol_canon (f : Alu3) {s : State} (hs : Canon s) : OutCanon (execRol f s) := aluPat_canon _ _ hs
theorem execRor_canon (f : Alu3) {s : State} (hs : Canon s) : OutCanon (execRor f s) := aluPat_canon _ _ hs
theorem execClz_canon (f : Alu2) {s : State} (hs : Canon s) : OutCanon (execClz f s) := aluOne_canon _ _ _ hs
theorem execCtz_canon (f : Alu2) {s : State} (hs : Canon s) : OutCanon (execCtz f s) := aluOne_canon _ _ _ hs
theorem execPopc_canon (f : Alu2) {s : State} (hs : Canon s) : OutCanon (execPopc f s) := aluOne_canon _ _ _ hs
theorem execSext_canon (f : Alu2) {s : State} (hs : Canon s) : OutCanon (execSext f s) := aluOne_canon _ _ _ hs
theorem execZext_canon (f : Alu2) {s : State} (hs : Canon s) : OutCanon (execZext f s) := aluOne_canon _ _ _ hs
theorem execBfx_canon (f : BitField) {s : State} (hs : Canon s) : OutCanon (execBfx f s) :=
  shadowable_canon hs fun a => by grind [setReg_canon, ResCanon, ExceptCanon]
theorem execBfi_canon (f : BitField) {s : State} (hs : Canon s) : OutCanon (execBfi f s) :=
  shadowable_canon hs fun a => by grind [setReg_canon, ResCanon, ExceptCanon]
theorem execLi_canon (f : LiF) {s : State} (hs : Canon s) : OutCanon (execLi f s) :=
  shadowable_canon hs fun a => by grind [setPredicted_canon, ResCanon, ExceptCanon]
theorem execLih_canon (f : LihF) {s : State} (hs : Canon s) : OutCanon (execLih f s) :=
  shadowable_canon hs fun a => by grind [setReg_canon, ResCanon, ExceptCanon]
theorem execLea_canon (f : LeaF) {s : State} (hs : Canon s) : OutCanon (execLea f s) :=
  shadowable_canon hs fun a => by grind [setPredicted_canon, ResCanon, ExceptCanon]
theorem execAdda_canon (f : AddaF) {s : State} (hs : Canon s) : OutCanon (execAdda f s) :=
  shadowable_canon hs fun a => by grind [setPredicted_canon, ResCanon, ExceptCanon]
theorem execSuba_canon (f : AddaF) {s : State} (hs : Canon s) : OutCanon (execSuba f s) :=
  shadowable_canon hs fun a => by grind [setPredicted_canon, ResCanon, ExceptCanon]
theorem execSelect_canon (f : SelectF) {s : State} (hs : Canon s) : OutCanon (execSelect f s) :=
  shadowable_canon hs fun a => by grind [setReg_canon, ResCanon, ExceptCanon]
theorem execCmp_canon (f : CmpF) {s : State} (hs : Canon s) : OutCanon (execCmp f s) :=
  accessOp_canon hs fun a => by grind [setK_canon, ResCanon, ExceptCanon]
theorem execCmpi_canon (f : CmpiF) {s : State} (hs : Canon s) : OutCanon (execCmpi f s) :=
  accessOp_canon hs fun a => by grind [setK_canon, ResCanon, ExceptCanon]
theorem execKand_canon (f : K3) {s : State} (hs : Canon s) : OutCanon (execKand f s) :=
  accessOp_canon hs fun a => by grind [setK_canon, ResCanon, ExceptCanon]
theorem execKor_canon (f : K3) {s : State} (hs : Canon s) : OutCanon (execKor f s) :=
  accessOp_canon hs fun a => by grind [setK_canon, ResCanon, ExceptCanon]
theorem execKxor_canon (f : K3) {s : State} (hs : Canon s) : OutCanon (execKxor f s) :=
  accessOp_canon hs fun a => by grind [setK_canon, ResCanon, ExceptCanon]
theorem execKnot_canon (f : K2) {s : State} (hs : Canon s) : OutCanon (execKnot f s) :=
  accessOp_canon hs fun a => by grind [setK_canon, ResCanon, ExceptCanon]
theorem execKmov_canon (f : KmovF) {s : State} (hs : Canon s) : OutCanon (execKmov f s) :=
  accessOp_canon hs fun a => by grind [setS_canon, setK_canon, ResCanon, ExceptCanon]

/-! ### Strands -/

theorem parkAt_canon {s : State} (c : Nat) (k : Nat) (x : Strand) (hs : Canon s) : Canon (parkAt s c k x) := by
  grind [parkAt, State.modCore_canon, writeMoved_canon]
theorem execStrandParkContext_canon (core : Nat) (idx : Nat) {s : State} (hs : Canon s) :
    OutCanon (execStrandParkContext core idx s) := by
  grind [execStrandParkContext, parkAt_canon, OutCanon]
theorem dropStart_canon {s : State} (c : Nat) (q : Start) (hs : Canon s) : Canon (dropStart s c q) := by
  grind [dropStart, finishRole_canon, dropKnown_canon, freeTaskRecord_canon]
theorem startStrand_canon {s : State} (c : Nat) (idx : Nat) (f : Nat) (slot : BitVec 5) (r : Routine) (q : Start)
    (hs : Canon s) : Canon (startStrand s c idx f slot r q) := by
  grind [startStrand, endBare_canon, !.unitWrite_canon, State.setStrand_canon, State.modCore_canon, freeTaskRecord_canon,
    refuseInvocation_canon, dropStart_canon, ExceptCanon]
theorem startContext_canon {s : State} (c : Nat) (idx : Nat) (x : Context) (back : Bool) (hs : Canon s) :
    Canon (startContext s c idx x back) := by
  grind [startContext, State.setStrand_canon, raise_canon]
theorem stageStart_canon {s : State} (e : Nat × Nat × Nat × Nat) (hs : Canon s) :
    OptCanon (fun r => Canon r.1) (stageStart s e) := by
  unfold stageStart
  grind [State.setLaunch_canon, OptCanon, Option.bind.eq_def]
theorem takeStart_canon {s : State} (c : Nat) (slot : Nat) (stage : Bool) (hs : Canon s) :
    OptCanon (fun r => Canon r.1) (takeStart s c slot stage) := by
  unfold takeStart
  grind [!.stageStart_canon, State.modCore_canon, OptCanon, Option.bind.eq_def, Option.map.eq_def]
theorem execStrandSelect_canon (core : Nat) {s : State} (hs : Canon s) : OutCanon (execStrandSelect core s) := by
  grind [execStrandSelect, startStrand_canon, startContext_canon, !.takeStart_canon, parkAt_canon, OptCanon, OutCanon]
theorem execRoutinePromotion_canon (core : Nat) (slot : Nat) {s : State} (hs : Canon s) :
    OutCanon (execRoutinePromotion core slot s) := by
  grind [execRoutinePromotion, State.modCore_canon, OutCanon]
theorem releaseGangs_canon {s : State} (c : Nat) (hs : Canon s) : Canon (releaseGangs s c) := by
  grind [releaseGangs, gangMismatch_canon]
theorem takePending_canon (c : Nat) {s : State} (k : Nat) (hs : Canon s) : Canon (takePending c s k) := by
  grind [takePending, enterTrap_canon]
theorem dropLoads_canon {s : State} (c : Nat) (k : Nat) (hs : Canon s) : Canon (dropLoads s c k) :=
    State.modStrand_canon _ _ _ hs
theorem quiesce_canon {s : State} (c : Nat) (hs : Canon s) : Canon (quiesce s c) := by
  unfold quiesce
  grind [dropLoads_canon, takePending_canon, releaseGangs_canon, squashSpec_canon, Canon.foldl]
theorem saveStrand_canon {s : State} (c : Nat) (k : Nat) (x : Strand) (code : Code) (hs : Canon s) :
    Canon (saveStrand s c k x code) := hs
theorem divertQueues_canon {s : State} (c : Nat) (hs : Canon s) : Canon (divertQueues s c) := by
  unfold divertQueues
  grind [divert_canon, State.modCore_canon, Canon.foldl]
theorem redeliver_canon {s : State} (c : Nat) (hs : Canon s) : Canon (redeliver s c) := by
  unfold redeliver
  grind [State.modCore_canon, dispatchAtMailbox_canon, queueAt_canon, Canon.foldl]
theorem preempt_canon {s : State} (c requester : Nat) (hs : Canon s) : Canon (preempt s c requester) := by
  unfold preempt
  have h1 : Canon (divertQueues ((quiesce s c).modCore c (fun co => { co with halt := .preempted requester })) c) :=
    divertQueues_canon _ (State.modCore_canon _ _ (quiesce_canon c hs))
  generalize divertQueues ((quiesce s c).modCore c (fun co => { co with halt := .preempted requester })) c = s1 at h1
  refine iteInduction (fun _ => fencePartition_canon _ _ ?_) fun _ => sendUnit_canon _ _ _ _ ?_
  all_goals
    refine Canon.foldl_fst h1 (fun r k hr => ?_) _
    split
    · exact hr
    split
    · exact hr
    split
    · exact hr
    next h => exact saveStrand_canon _ _ _ _ ((unitWrite_canon _ _ _ hr).of_ok h)
theorem execPreemptRequest_canon (core requester : Nat) (m : Master) {s : State} (hs : Canon s) :
    OutCanon (execPreemptRequest core requester m s) := by
  unfold execPreemptRequest
  dsimp only
  split
  · exact hs
  split
  · exact State.countShepherd_canon _ _ _ _ hs
  · exact preempt_canon _ _ hs
theorem restoreStrand_canon {s : State} (c : Nat) (k : Nat) (b : List Byte) (va : Word) (hs : Canon s) :
    Canon (restoreStrand s c k b va) := by
  grind [restoreStrand, State.setStrand_canon, State.modCore_canon, endBare_canon]
theorem resumeCore_canon {s : State} (c : Nat) (read : State → Nat → Option (List Byte × Word)) (hs : Canon s) :
    Canon (resumeCore s c read) := by
  unfold resumeCore
  grind [fencePartition_canon, redeliver_canon, restoreStrand_canon, Canon.foldl_fst]
theorem execResume_canon (core : Nat) (m : Master) {s : State} (hs : Canon s) : OutCanon (execResume core m s) := by
  unfold execResume
  dsimp only
  split
  · split
    · exact hs
    split
    · exact State.countShepherd_canon _ _ _ _ hs
    · exact resumeCore_canon _ _ hs
  · exact hs
theorem parkCore_canon {s : State} (c : Nat) (k : Nat) (hs : Canon s) : Canon (parkCore s c k) := by
  unfold parkCore
  grind [countDelivery_canon, postFault_canon, postEvent_canon, State.modCluster_canon, writeBytes_canon, clearPoison_canon,
    saveStrand_canon, quiesce_canon, State.modCore_canon, divertQueues_canon, Canon.foldl]
theorem execCorePark_canon (core : Nat) {s : State} (hs : Canon s) : OutCanon (execCorePark core s) := by
  grind [execCorePark, parkCore_canon, OutCanon]
theorem execParkactRetry_canon (core : Nat) (m : Master) {s : State} (hs : Canon s) : OutCanon (execParkactRetry core m s) := by
  unfold execParkactRetry
  grind [resumeCore_canon, OutCanon]
theorem execParkactEnd_canon (core : Nat) (m : Master) {s : State} (hs : Canon s) : OutCanon (execParkactEnd core m s) := by
  unfold execParkactEnd
  grind [!.endInTrap_canon, resumeCore_canon, OptCanon, OutCanon]
theorem execTrapEntry_canon (core : Nat) (idx : Nat) {s : State} (hs : Canon s) : OutCanon (execTrapEntry core idx s) := by
  grind [execTrapEntry, takePending_canon, OutCanon]
theorem execStrandWatchdog_canon (core : Nat) (idx : Nat) {s : State} (hs : Canon s) :
    OutCanon (execStrandWatchdog core idx s) := by
  grind [execStrandWatchdog, State.setStrand_canon, OutCanon]
theorem machineCheck_canon {s : State} (c : Nat) (touched : BitVec 32) (hs : Canon s) : Canon (machineCheck s c touched) := by
  unfold machineCheck
  grind [endBare_canon, Canon.foldl]
theorem execMachineCheck_canon (core : Nat) (touched : BitVec 32) {s : State} (hs : Canon s) :
    OutCanon (execMachineCheck core touched s) := machineCheck_canon _ _ hs
theorem controlStore_canon {s : State} (m : Master) (pa : Nat) (bytes : List Byte) (hs : Canon s) :
    OutCanon (controlStore s m pa bytes) := by
  grind [controlStore, !.performAt_canon, DoneCanon, OutCanon]
theorem execRoutineTableWrite_canon (m : Master) (core : Nat) (slot : Nat) (bytes : List Byte) {s : State} (hs : Canon s) :
    OutCanon (execRoutineTableWrite m core slot bytes s) := by
  grind [execRoutineTableWrite, !.controlStore_canon, OutCanon]
theorem execEventCounterSelectWrite_canon (m : Master) (pa : Nat) (value : BitVec 64) {s : State} (hs : Canon s) :
    OutCanon (execEventCounterSelectWrite m pa value s) := by
  grind [execEventCounterSelectWrite, !.controlStore_canon, OutCanon]
theorem execControlBlockWrite_canon (m : Master) (pa : Nat) (value : BitVec 64) {s : State} (hs : Canon s) :
    OutCanon (execControlBlockWrite m pa value s) := by
  grind [execControlBlockWrite, !.controlStore_canon, OutCanon]
theorem scanLines_canon {s : State} (l : Leaf) (base : Word) (id : Ident) (tgt : Word → Option Bool) (n left : Nat)
    (hs : Canon s) :
    ScanCanon (scanLines s l base id tgt n left) := by
  induction left generalizing n with
  | zero => trivial
  | succ left ih =>
    unfold scanLines
    grind [State.countDenial_canon, ScanCanon]
theorem writeScan_canon {s : State} (r : ScanReq) (code : Nat) (hs : Canon s) : Canon (writeScan s r code) := by
  grind [writeScan, writeD_canon, Canon]
theorem endScan_canon {s : State} (r : ScanReq) (w : BitVec 128) (hs : Canon s) : Canon (endScan s r w) :=
    State.modStrand_canon _ _ _ hs
theorem scanPage_canon {s : State} (r : ScanReq) (hs : Canon s) : Canon (scanPage s r) := by
  unfold scanPage
  dsimp only
  split
  · exact endScan_canon _ _ hs
  split
  · exact endScan_canon _ _ (writeScan_canon _ _ hs)
  split
  · exact endScan_canon _ _ hs
  · grind [!.scanLines_canon, endScan_canon, writeScan_canon, postFault_canon, ScanCanon]
theorem execBrackenScanComplete_canon (cl : Nat) {s : State} (hs : Canon s) : OutCanon (execBrackenScanComplete cl s) := by
  grind [execBrackenScanComplete, State.modCluster_canon, scanPage_canon, OutCanon]

/-! ### Tasks -/

theorem recordLoad_canon {s : State} (a : Actor) (va : Word) (n : Nat) (align : Nat) (hs : Canon s) :
    RCanon (fun _ => True) (recordLoad s a va n align) := by
  grind [recordLoad, !.strandLoadRaw_canon, !.stall_canon, !.trapAt_canon, ExceptCanon]
theorem recordStore_canon {s : State} (a : Actor) (va : Word) (bytes : List Byte) (align : Nat) (hs : Canon s) :
    RCanon Canon (recordStore s a va bytes align) := by
  grind [recordStore, !.strandStoreRaw_canon, !.stall_canon, !.trapAt_canon, ExceptCanon]
theorem releaseTask_canon {s : State} (pa : Nat) (hs : Canon s) : Canon (releaseTask s pa) := by
  grind [releaseTask, setTaskState_canon, sendShepherd_canon, freeTaskRecord_canon, finishLevelVa_canon]
theorem joinLevel_canon {s : State} (pa : Nat) (hs : Canon s) : Canon (joinLevel s pa) := writeD_canon _ _ hs
theorem taskFill_canon {s : State} (a : Actor) (f : TaskF) (img : List Byte) (l : Option (DWord × Nat)) (pa : Nat)
    (hs : Canon s) :
    Canon (execTask.taskFill s a f img l pa) := by
  unfold execTask.taskFill
  grind [writeBytes_canon, writeD_canon, joinLevel_canon, setS_canon, releaseTask_canon]
theorem execTask_canon (f : TaskF) {s : State} (hs : Canon s) : OutCanon (execTask f s) :=
  accessOp_canon hs fun a => noSpec_canon a hs <| (recordLoad_canon a _ _ _ hs).bind fun img _ => by
    refine ExceptCanon.bind (P := fun _ => True) ?_ fun l _ => ?_
    · split
      · trivial
      · refine (recordLoad_canon a _ _ _ hs).bind fun b _ => ?_
        split
        · exact trapAt_canon _ _ hs
        · trivial
    · split
      · refine iteInduction (fun _ => setS_canon _ _ _ hs) fun _ => ?_
        split
        · exact stall_canon _ _ hs
        · exact taskFill_canon _ _ _ _ _ hs
      · split
        · exact stall_canon _ _ hs
        · exact taskFill_canon _ _ _ _ _ hs
theorem execTdec_canon (f : TdecF) {s : State} (hs : Canon s) : OutCanon (execTdec f s) :=
  accessOp_canon hs fun a => by grind [sendHeld_canon, !.R.next_canon]
theorem bindPipeline_canon {s : State} (c : Nat) (mbox : DWord) (cl : Nat) (n : Nat) (l : Launch) (hs : Canon s) :
    Canon (bindPipeline s c mbox cl n l) := by
  grind [bindPipeline, setMailbox_canon, State.setLaunch_canon]
theorem incParent_canon {s : State} (c : Nat) (parent : DWord) (hs : Canon s) : Canon (incParent s c parent) := by
  grind [incParent, joinLevel_canon]
theorem loadStages_canon {s : State} (a : Actor) (d : LaunchDesc) (n : Nat) (hs : Canon s) :
    RCanon (fun _ => True) (loadStages s a d n) := by
  induction n with
  | zero => trivial
  | succ n ih => exact (recordLoad_canon a _ _ _ hs).bind fun _ _ => ih.map fun _ _ => True.intro
theorem launchStores_canon {s : State} (a : Actor) (d : LaunchDesc) (va : Word) (refused : Bool) (hs : Canon s) :
    RCanon (fun _ => True) (launchStores s a d va refused) :=
  foldl_stays (P := RCanon fun _ => True)
    (fun _ w hr => hr.bind fun _ _ => (recordStore_canon a w _ _ hs).map fun _ _ => True.intro) _ True.intro
theorem execLaunch_canon (f : DstReg) {s : State} (hs : Canon s) : OutCanon (execLaunch f s) :=
  accessOp_canon hs fun a => noSpec_canon a hs <| (recordLoad_canon a _ _ _ hs).bind fun b _ => by
    dsimp only
    refine ExceptCanon.bind (P := fun _ => True) ?_ fun sts _ => (recordLoad_canon a _ _ _ hs).bind fun pb _ =>
      (launchStores_canon a _ _ _ hs).bind fun _ _ => ?_
    · split
      · trivial
      · exact loadStages_canon a _ _ hs
    split
    · exact trapAt_canon _ _ hs
    next h =>
      have h0 := takeSlot_canon a.core a.core hs h
      refine (recordStore_canon a _ _ _ h0).bind fun s1 h1 => ?_
      split
      · exact setReg_canon _ _ _ (strandNotice_canon _ _ _ h1)
      refine (recordStore_canon a _ _ _ h1).bind fun s2 h2 => (recordStore_canon a _ _ _ h2).bind fun s3 h3 =>
        ExceptCanon.bind (P := Canon) ?_ fun s4 h4 => setReg_canon _ _ _ ?_
      · split
        · exact h3
        · exact recordStore_canon a _ _ _ h3
      · grind [clearCanceller_canon, incParent_canon, State.modCluster_canon, State.setLaunch_canon, bindPipeline_canon]
theorem execCancel_canon (f : RegF) {s : State} (hs : Canon s) : OutCanon (execCancel f s) :=
  accessOp_canon hs fun a => noSpec_canon a hs <| (recordLoad_canon a _ _ _ hs).bind fun b _ => by
    dsimp only
    split
    · exact hs
    · refine (recordStore_canon a _ _ _ hs).bind fun s1 h1 => ?_
      split
      · exact h1
      · exact setCanceller_canon _ _ h1
theorem execTestc_canon (f : TestcF) {s : State} (hs : Canon s) : OutCanon (execTestc f s) :=
  accessOp_canon hs fun a => by grind [setK_canon, !.R.next_canon]
theorem execPhtok_canon (f : RegD) {s : State} (hs : Canon s) : OutCanon (execPhtok f s) :=
  accessOp_canon hs fun a => by grind [setS_canon, !.R.next_canon, !.recordLoad_canon, !.trapAt_canon, ExceptCanon,
    Except.bind.eq_def]
theorem execPhwait_canon (f : PhwaitF) {s : State} (hs : Canon s) : OutCanon (execPhwait f s) :=
  accessOp_canon hs fun a => noSpec_canon a hs <| (recordLoad_canon a _ _ _ hs).bind fun b _ => by
    dsimp only
    split
    · exact setReg_canon _ _ _ hs
    split
    · exact trapAt_canon _ _ hs
    split
    · split
      · exact setReg_canon _ _ _ (State.modCluster_canon _ _ (fillContinuation_canon _ _ _ _ hs))
      · exact stall_canon _ _ hs
    · exact setReg_canon _ _ _ hs
theorem execTqcfg_canon (f : RegF) {s : State} (hs : Canon s) : OutCanon (execTqcfg f s) :=
  accessOp_canon hs fun a => by grind [State.modCluster_canon, !.R.next_canon, !.trapAt_canon, !.recordLoad_canon,
    !.noSpec_canon, ExceptCanon, Except.bind.eq_def]
theorem execTnext_canon (f : RegD) {s : State} (hs : Canon s) : OutCanon (execTnext f s) :=
  accessOp_canon hs fun a => by grind [State.modCluster_canon, setS_canon, setK_canon, !.R.next_canon, !.trapAt_canon,
    !.noSpec_canon]

/-! ### Shepherd -/

theorem collectEvents_canon {s : State} (cl : Nat) (hs : Canon s) : Canon (collectEvents s cl) := by
  unfold collectEvents
  grind [postEvent_canon, deliver_canon, OptCanon]
theorem shepherdEvent_canon {s : State} (cl : Nat) (mine : EventRec → Bool) {act : State → EventRec → State} (hs : Canon s)
    (ha : ∀ t e, Canon t → Canon (act t e)) : OutCanon (shepherdEvent s cl mine act) := by
  have h1 := collectEvents_canon cl hs
  unfold shepherdEvent
  dsimp only
  split
  · exact h1
  split
  · exact fencePartition_canon _ _ h1
  split
  · exact ha _ _ (popEvent_canon _ h1)
  · exact h1
theorem decTask_canon {s : State} (cl : Nat) (e : EventRec) (hs : Canon s) : Canon (decTask s cl e) := by
  grind [decTask, releaseTask_canon, writeD_canon, State.countShepherd_canon]
theorem execEventRecordTaskDecrement_canon (cl : Nat) {s : State} (hs : Canon s) :
    OutCanon (execEventRecordTaskDecrement cl s) := by
  unfold execEventRecordTaskDecrement
  grind [decTask_canon, !.shepherdEvent_canon]
theorem decLevel_canon {s : State} (cl : Nat) (e : EventRec) (hs : Canon s) : Canon (decLevel s cl e) := by
  grind [decLevel, State.countShepherd_canon, finishChildren_canon, fencePartition_canon]
theorem execEventRecordLevelDecrement_canon (cl : Nat) {s : State} (hs : Canon s) :
    OutCanon (execEventRecordLevelDecrement cl s) := by
  unfold execEventRecordLevelDecrement
  grind [decLevel_canon, !.shepherdEvent_canon]
theorem execEventRecordFaultNotice_canon (cl : Nat) {s : State} (hs : Canon s) :
    OutCanon (execEventRecordFaultNotice cl s) := by
  unfold execEventRecordFaultNotice
  grind [!.shepherdEvent_canon]
theorem markCancelling_canon {s : State} (cl : Nat) (who : Nat) (l : Launch) (hs : Canon s) :
    Canon (markCancelling s cl who l) := by
  grind [markCancelling, writeD_canon, setCanceller_canon]
theorem cancelStrand_canon (who : Nat) (c : Nat) (k : Nat) {s : State} (hs : Canon s) : Canon (cancelStrand who c k s) := by
  grind [cancelStrand, State.setStrand_canon, sendNotice_canon]
theorem cancelStrands_canon {s : State} (who : Nat) (below : Role → Bool) (hs : Canon s) :
    Canon (cancelStrands s who below) := by
  unfold cancelStrands
  grind [cancelStrand_canon, Canon.foldl]
theorem cancelLaunch_canon (cl : Nat) {s : State} (x : Nat × Nat) (hs : Canon s) : Canon (cancelLaunch cl s x) := by
  grind [cancelLaunch, finishLevelVa_canon, cancelStrands_canon, State.setLaunch_canon, markCancelling_canon, Canon]
theorem dropTask_canon (cl : Nat) {s : State} (pa : Nat) (hs : Canon s) : Canon (dropTask cl s pa) := by
  grind [dropTask, freeTaskRecord_canon, finishLevelVa_canon]
theorem execCancelAtShepherd_canon (cl : Nat) {s : State} (hs : Canon s) : OutCanon (execCancelAtShepherd cl s) := by
  unfold execCancelAtShepherd
  grind [cancelStrand_canon, dropTask_canon, cancelLaunch_canon, OutCanon, Canon.foldl]
theorem addInstance_canon {s : State} (cl : Nat) (n : Nat) (i : Nat) (hs : Canon s) : Canon (addInstance s cl n i) := by
  grind [addInstance, State.setLaunch_canon, State.modCore_canon, State.countShepherd_canon]
theorem queueUnit_canon (cl : Nat) (n : Nat) (l : Launch) (placed : List (Nat × Nat)) {s : State} (u : Nat) (hs : Canon s) :
    Canon (queueUnit cl n l placed s u) := queueStart_canon _ _ _ hs
theorem bindUnit_canon (l : Launch) {s : State} (e : Nat × Nat) (hs : Canon s) : Canon (bindUnit l s e) := hs
theorem distribute_canon {s : State} (cl : Nat) (n : Nat) (l : Launch) (hs : Canon s) : Canon (distribute s cl n l) := by
  unfold distribute
  grind [addInstance_canon, queueUnit_canon, bindUnit_canon, State.setLaunch_canon, Canon.foldl]
theorem execLaunchDistribute_canon (cl : Nat) {s : State} (hs : Canon s) : OutCanon (execLaunchDistribute cl s) := by
  grind [execLaunchDistribute, distribute_canon, OutCanon]
theorem execPipelineMessageEnqueue_canon (cl : Nat) (n : Nat) {s : State} (hs : Canon s) :
    OutCanon (execPipelineMessageEnqueue cl n s) := by
  unfold execPipelineMessageEnqueue
  grind [State.setLaunch_canon, State.countCore_canon, !.devWrite_canon, ExceptCanon, OutCanon]
theorem execPipelineDrain_canon (cl : Nat) (n : Nat) {s : State} (hs : Canon s) : OutCanon (execPipelineDrain cl n s) := by
  unfold execPipelineDrain
  grind [finishLevelVa_canon, State.setLaunch_canon, unbindInstance_canon, OutCanon, Canon.foldl]
theorem removeInstance_canon {s : State} (cl : Nat) (n : Nat) (i : Nat) (l : Launch) (st : Stage) (hs : Canon s) :
    Canon (removeInstance s cl n i l st) := by
  grind [removeInstance, unbindInstance_canon, State.setLaunch_canon]
theorem execDistributorEvaluation_canon (cl : Nat) (n : Nat) (stage : Nat) {s : State} (hs : Canon s) :
    OutCanon (execDistributorEvaluation cl n stage s) := by
  grind [execDistributorEvaluation, removeInstance_canon, addInstance_canon, State.setLaunch_canon, OutCanon]
theorem execClusterPowerGate_canon (cl : Nat) {s : State} (hs : Canon s) : OutCanon (execClusterPowerGate cl s) := by
  grind [execClusterPowerGate, State.setCluster_canon, OutCanon]
theorem execClusterWake_canon (cl : Nat) {s : State} (hs : Canon s) : OutCanon (execClusterWake cl s) := by
  grind [execClusterWake, State.setCluster_canon, OutCanon]

/-! ### Strikes -/

theorem clusterReport_canon {s : State} (cl : Nat) (key : Nat) (hs : Canon s) : Canon (clusterReport s cl key) := by
  grind [clusterReport, fencePartition_canon, State.setCluster_canon, State.countShepherd_canon]
theorem execStrikeReport_canon (unit : StrikeUnit) {s : State} (hs : Canon s) : OutCanon (execStrikeReport unit s) := by
  unfold execStrikeReport
  grind [clusterReport_canon, machineCheck_canon, State.modCore_canon, State.countCore_canon, OutCanon]
theorem countLine_canon {s : State} (pa : Nat) (code : Nat) (hs : Canon s) : Canon (countLine s pa code) := by
  grind [countLine, State.countPort_canon, State.countShepherd_canon]
theorem execPatrolScrub_canon (pa : Nat) (r : ScrubResult) {s : State} (hs : Canon s) : OutCanon (execPatrolScrub pa r s) := by
  unfold execPatrolScrub
  grind [fencePartition_canon, countLine_canon, OutCanon, Canon, Canon.foldl]
theorem execPoisonReport_canon (pa : Nat) {s : State} (hs : Canon s) : OutCanon (execPoisonReport pa s) := by
  unfold execPoisonReport
  grind [postFault_canon, OutCanon, Canon, Canon.foldl]

/-! ### Vector -/

theorem laneOp_canon {s : State} (i : Instr) (sh : Bool) (g : Guard) (t : LaneTy) (d : VReg) (srcs : List VSrc)
    (f : State → Actor → List VWord → Nat → BitVec 32 → LaneRes) (hs : Canon s) : OutCanon (laneOp s i sh g t d srcs f) :=
  executeShadowable_canon hs (fun a bad _ ht => tagLanes_canon d g t a bad ht) fun a =>
    (queuesReady_canon a _ hs).bind fun _ _ => ExceptCanon.bind (P := fun _ => True) (.mapM (fun v => vsrc_canon a t v hs) srcs)
      fun _ _ => vectorOp_canon a _ _ _ _ hs
theorem execVadd_canon (f : V3) {s : State} (hs : Canon s) : OutCanon (execVadd f s) := laneOp_canon _ _ _ _ _ _ _ hs
theorem execVsub_canon (f : V3) {s : State} (hs : Canon s) : OutCanon (execVsub f s) := laneOp_canon _ _ _ _ _ _ _ hs
theorem execVmul_canon (f : V3) {s : State} (hs : Canon s) : OutCanon (execVmul f s) := laneOp_canon _ _ _ _ _ _ _ hs
theorem execVfma_canon (f : V4) {s : State} (hs : Canon s) : OutCanon (execVfma f s) := laneOp_canon _ _ _ _ _ _ _ hs
theorem execVfms_canon (f : V4) {s : State} (hs : Canon s) : OutCanon (execVfms f s) := laneOp_canon _ _ _ _ _ _ _ hs
theorem execVnfma_canon (f : V4) {s : State} (hs : Canon s) : OutCanon (execVnfma f s) := laneOp_canon _ _ _ _ _ _ _ hs
theorem execVmin_canon (f : V3n) {s : State} (hs : Canon s) : OutCanon (execVmin f s) := laneOp_canon _ _ _ _ _ _ _ hs
theorem execVmax_canon (f : V3n) {s : State} (hs : Canon s) : OutCanon (execVmax f s) := laneOp_canon _ _ _ _ _ _ _ hs
theorem execVabs_canon (f : V2) {s : State} (hs : Canon s) : OutCanon (execVabs f s) := laneOp_canon _ _ _ _ _ _ _ hs
theorem execVneg_canon (f : V2) {s : State} (hs : Canon s) : OutCanon (execVneg f s) := laneOp_canon _ _ _ _ _ _ _ hs
theorem execVand_canon (f : V3n) {s : State} (hs : Canon s) : OutCanon (execVand f s) := laneOp_canon _ _ _ _ _ _ _ hs
theorem execVor_canon (f : V3n) {s : State} (hs : Canon s) : OutCanon (execVor f s) := laneOp_canon _ _ _ _ _ _ _ hs
theorem execVxor_canon (f : V3n) {s : State} (hs : Canon s) : OutCanon (execVxor f s) := laneOp_canon _ _ _ _ _ _ _ hs
theorem execVshl_canon (f : V3n) {s : State} (hs : Canon s) : OutCanon (execVshl f s) := laneOp_canon _ _ _ _ _ _ _ hs
theorem execVshr_canon (f : V3n) {s : State} (hs : Canon s) : OutCanon (execVshr f s) := laneOp_canon _ _ _ _ _ _ _ hs
theorem execVsar_canon (f : V3n) {s : State} (hs : Canon s) : OutCanon (execVsar f s) := laneOp_canon _ _ _ _ _ _ _ hs
theorem execVdot_canon (f : VdotF) {s : State} (hs : Canon s) : OutCanon (execVdot f s) :=
  executeShadowable_canon hs (fun a bad _ ht => tagLanes_canon _ _ _ a bad ht) fun a =>
    (queuesReady_canon a _ hs).bind fun _ _ => (vsrc_canon a _ _ hs).bind fun _ _ => (vsrc_canon a _ _ hs).bind fun _ _ =>
      ExceptCanon.bind (P := fun _ => True) (.mapM (fun v => vsrc_canon a _ v hs) _) fun _ _ => vectorOp_canon a _ _ _ _ hs
theorem execVred_canon (f : VredF) {s : State} (hs : Canon s) : OutCanon (execVred f s) :=
  executeShadowable_canon hs (fun a bad _ ht => tagLanes_canon _ _ _ a bad ht) fun a =>
    (queuesReady_canon a _ hs).bind fun _ _ => (vsrc_canon a _ _ hs).bind fun x _ => by
      dsimp only
      split
      · exact hs
      · exact (commitFlags_canon _ _ _ hs).bind fun s1 h1 => (writeLanes_canon a _ _ _ h1).map fun _ h => h
theorem execVcmp_canon (f : VcmpF) {s : State} (hs : Canon s) : OutCanon (execVcmp f s) :=
  executeShadowable_canon hs (fun a bad _ ht => tagIf_canon bad ht fun bad _ hu => tagK_canon _ a bad hu) fun a =>
    (queuesReady_canon a _ hs).bind fun _ _ => (vsrc_canon a _ _ hs).bind fun x _ =>
      ExceptCanon.bind (P := fun _ => True) (.mapM (fun v => vsrc_canon a _ v hs) _) fun ys _ => by
        dsimp only
        refine (?_ : Canon _)
        split
        · exact hs
        · exact setK_canon _ _ _ hs
theorem execVsel_canon (f : VselF) {s : State} (hs : Canon s) : OutCanon (execVsel f s) := laneOp_canon _ _ _ _ _ _ _ hs
theorem execVperm_canon (f : VpermF) {s : State} (hs : Canon s) : OutCanon (execVperm f s) := laneOp_canon _ _ _ _ _ _ _ hs
theorem execVbcast_canon (f : VbcastF) {s : State} (hs : Canon s) : OutCanon (execVbcast f s) := laneOp_canon _ _ _ _ _ _ _ hs
theorem execVext_canon (f : VextF) {s : State} (hs : Canon s) : OutCanon (execVext f s) := by
  unfold execVext
  grind [setReg_canon, !.R.next_canon, !.vreg_canon, !.queuesReady_canon, tagS_canon, tagIf_canon, !.executeShadowable_canon,
    ExceptCanon, Except.bind.eq_def]
theorem execVins_canon (f : VinsF) {s : State} (hs : Canon s) : OutCanon (execVins f s) :=
  executeShadowable_canon hs (fun a bad _ ht => tagIf_canon bad ht fun bad _ hu => tagV_canon _ a bad hu) fun a => by
    dsimp only
    split
    · exact (vsrc_canon a _ _ hs).bind fun x _ => (writeLanes_canon a _ _ _ hs).map fun _ h => h
    · exact hs
theorem specialOp_canon {s : State} (fn : SpecialFn) (i : Instr) (f : V2) (hs : Canon s) : OutCanon (specialOp fn i f s) :=
  laneOp_canon _ _ _ _ _ _ _ hs
theorem execVrcp_canon (f : V2) {s : State} (hs : Canon s) : OutCanon (execVrcp f s) := specialOp_canon _ _ _ hs
theorem execVrsq_canon (f : V2) {s : State} (hs : Canon s) : OutCanon (execVrsq f s) := specialOp_canon _ _ _ hs
theorem execVexp_canon (f : V2) {s : State} (hs : Canon s) : OutCanon (execVexp f s) := specialOp_canon _ _ _ hs
theorem execVexp2_canon (f : V2) {s : State} (hs : Canon s) : OutCanon (execVexp2 f s) := specialOp_canon _ _ _ hs
theorem execVlog2_canon (f : V2) {s : State} (hs : Canon s) : OutCanon (execVlog2 f s) := specialOp_canon _ _ _ hs
theorem execVtanh_canon (f : V2) {s : State} (hs : Canon s) : OutCanon (execVtanh f s) := specialOp_canon _ _ _ hs
theorem execVsin_canon (f : V2) {s : State} (hs : Canon s) : OutCanon (execVsin f s) := specialOp_canon _ _ _ hs
theorem execVcos_canon (f : V2) {s : State} (hs : Canon s) : OutCanon (execVcos f s) := specialOp_canon _ _ _ hs
theorem execVcvt_canon (f : VcvtF) {s : State} (hs : Canon s) : OutCanon (execVcvt f s) :=
  executeShadowable_canon hs (fun a bad _ ht => tagIf_canon bad ht fun bad _ hu => tagV_canon _ a bad hu) fun a =>
    (queuesReady_canon a _ hs).bind fun _ _ => (vsrc_canon a _ _ hs).bind fun x _ => by
      refine iteInduction (fun _ => trapAt_canon _ _ hs) fun _ => iteInduction (fun _ => hs) fun _ => ?_
      exact (commitFlags_canon _ _ _ hs).bind fun s1 h1 => (writeLanes_canon a _ _ _ h1).map fun _ h => h
theorem execVpack_canon (f : VpackF) {s : State} (hs : Canon s) : OutCanon (execVpack f s) :=
  executeShadowable_canon hs (fun a bad _ ht => tagLanes_canon _ _ _ a bad ht) fun a =>
    (queuesReady_canon a _ hs).bind fun _ _ => (vsrc_canon a _ _ hs).bind fun _ _ => (vsrc_canon a _ _ hs).bind fun _ _ =>
      vectorOp_canon a _ _ _ _ hs
theorem execVunpk_canon (f : VunpkF) {s : State} (hs : Canon s) : OutCanon (execVunpk f s) :=
  executeShadowable_canon hs
    (fun a bad _ ht => tagIf_canon bad ht fun bad _ hu => tagV_canon _ a bad (tagV_canon _ a bad hu)) fun a =>
    (queuesReady_canon a _ hs).bind fun _ _ => (vsrc_canon a _ _ hs).bind fun _ _ => (commitFlags_canon _ _ _ hs).bind
      fun _ h1 => (writeLanes_canon a _ _ _ h1).bind fun _ h2 => (writeLanes_canon a _ _ _ h2).map fun _ h => h

/-! ### Step -/

/-! ### The step -/

theorem exec_canon {s : State} (hs : Canon s) : (i : Instr) → OutCanon (exec i s)
  | .add f => execAdd_canon f hs
  | .addi f => execAddi_canon f hs
  | .sub f => execSub_canon f hs
  | .mul f => execMul_canon f hs
  | .mulh f => execMulh_canon f hs
  | .mulhz f => execMulhz_canon f hs
  | .div f => execDiv_canon f hs
  | .divz f => execDivz_canon f hs
  | .rem f => execRem_canon f hs
  | .remz f => execRemz_canon f hs
  | .minI f => execMinI_canon f hs
  | .maxI f => execMaxI_canon f hs
  | .minz f => execMinz_canon f hs
  | .maxz f => execMaxz_canon f hs
  | .andI f => execAndI_canon f hs
  | .orI f => execOrI_canon f hs
  | .xorI f => execXorI_canon f hs
  | .andn f => execAndn_canon f hs
  | .shl f => execShl_canon f hs
  | .shr f => execShr_canon f hs
  | .sar f => execSar_canon f hs
  | .rol f => execRol_canon f hs
  | .ror f => execRor_canon f hs
  | .clz f => execClz_canon f hs
  | .ctz f => execCtz_canon f hs
  | .popc f => execPopc_canon f hs
  | .sext f => execSext_canon f hs
  | .zext f => execZext_canon f hs
  | .bfx f => execBfx_canon f hs
  | .bfi f => execBfi_canon f hs
  | .li f => execLi_canon f hs
  | .lih f => execLih_canon f hs
  | .lea f => execLea_canon f hs
  | .adda f => execAdda_canon f hs
  | .suba f => execSuba_canon f hs
  | .select f => execSelect_canon f hs
  | .cmp f => execCmp_canon f hs
  | .cmpi f => execCmpi_canon f hs
  | .kand f => execKand_canon f hs
  | .kor f => execKor_canon f hs
  | .kxor f => execKxor_canon f hs
  | .knot f => execKnot_canon f hs
  | .kmov f => execKmov_canon f hs
  | .nop f => execNop_canon f hs
  | .br f => execBr_canon f hs
  | .jmp f => execJmp_canon f hs
  | .call f => execCall_canon f hs
  | .calli f => execCalli_canon f hs
  | .ret f => execRet_canon f hs
  | .brq f => execBrq_canon f hs
  | .endStrand f => execEndStrand_canon f hs
  | .loopR f => execLoopR_canon f hs
  | .loopi f => execLoopi_canon f hs
  | .trapI f => execTrapI_canon f hs
  | .eret f => execEret_canon f hs
  | .brk f => execBrk_canon f hs
  | .getc f => execGetc_canon f hs
  | .setc f => execSetc_canon f hs
  | .tlbiPage f => execTlbiPage_canon f hs
  | .tlbiSpace f => execTlbiSpace_canon f hs
  | .tlbiPartition f => execTlbiPartition_canon f hs
  | .scan f => execScan_canon f hs
  | .vadd f => execVadd_canon f hs
  | .vsub f => execVsub_canon f hs
  | .vmul f => execVmul_canon f hs
  | .vfma f => execVfma_canon f hs
  | .vfms f => execVfms_canon f hs
  | .vnfma f => execVnfma_canon f hs
  | .vmin f => execVmin_canon f hs
  | .vmax f => execVmax_canon f hs
  | .vabs f => execVabs_canon f hs
  | .vneg f => execVneg_canon f hs
  | .vand f => execVand_canon f hs
  | .vor f => execVor_canon f hs
  | .vxor f => execVxor_canon f hs
  | .vshl f => execVshl_canon f hs
  | .vshr f => execVshr_canon f hs
  | .vsar f => execVsar_canon f hs
  | .vdot f => execVdot_canon f hs
  | .vred f => execVred_canon f hs
  | .vcmp f => execVcmp_canon f hs
  | .vsel f => execVsel_canon f hs
  | .vperm f => execVperm_canon f hs
  | .vbcast f => execVbcast_canon f hs
  | .vext f => execVext_canon f hs
  | .vins f => execVins_canon f hs
  | .vrcp f => execVrcp_canon f hs
  | .vrsq f => execVrsq_canon f hs
  | .vexp f => execVexp_canon f hs
  | .vexp2 f => execVexp2_canon f hs
  | .vlog2 f => execVlog2_canon f hs
  | .vtanh f => execVtanh_canon f hs
  | .vsin f => execVsin_canon f hs
  | .vcos f => execVcos_canon f hs
  | .vcvt f => execVcvt_canon f hs
  | .vpack f => execVpack_canon f hs
  | .vunpk f => execVunpk_canon f hs
  | .vloop f => execVloop_canon f hs
  | .vdrain f => execVdrain_canon f hs
  | .qcfgBind f => execQcfgBind_canon f hs
  | .qcfgUnbind f => execQcfgUnbind_canon f hs
  | .qlink f => execQlink_canon f hs
  | .qadvP f => execQadvP_canon f hs
  | .qadvC f => execQadvC_canon f hs
  | .qstat f => execQstat_canon f hs
  | .kpush f => execKpush_canon f hs
  | .ld f => execLd_canon f hs
  | .st f => execSt_canon f hs
  | .ldq f => execLdq_canon f hs
  | .stq f => execStq_canon f hs
  | .vld f => execVld_canon f hs
  | .vst f => execVst_canon f hs
  | .vlds f => execVlds_canon f hs
  | .vsts f => execVsts_canon f hs
  | .vgath f => execVgath_canon f hs
  | .vscat f => execVscat_canon f hs
  | .vgathBc f => execVgathBc_canon f hs
  | .amoAdd f => execAmoAdd_canon f hs
  | .amoMin f => execAmoMin_canon f hs
  | .amoMax f => execAmoMax_canon f hs
  | .amoAnd f => execAmoAnd_canon f hs
  | .amoOr f => execAmoOr_canon f hs
  | .amoXor f => execAmoXor_canon f hs
  | .amoSwap f => execAmoSwap_canon f hs
  | .amoCas f => execAmoCas_canon f hs
  | .amofAdd f => execAmofAdd_canon f hs
  | .fence f => execFence_canon f hs
  | .fenceSysLea f => execFenceSysLea_canon f hs
  | .cpy f => execCpy_canon f hs
  | .cpy2d f => execCpy2d_canon f hs
  | .replay f => execReplay_canon f hs
  | .cred f => execCred_canon f hs
  | .eseq f => execEseq_canon f hs
  | .rlqQuery f => execRlqQuery_canon f hs
  | .rlqRelease f => execRlqRelease_canon f hs
  | .mbind f => execMbind_canon f hs
  | .munbind f => execMunbind_canon f hs
  | .invoke f => execInvoke_canon f hs
  | .invoken f => execInvoken_canon f hs
  | .sendMailbox f => execSendMailbox_canon f hs
  | .sendActive f => execSendActive_canon f hs
  | .resolveValue f => execResolveValue_canon f hs
  | .resolveObject f => execResolveObject_canon f hs
  | .breakAnswer f => execBreakAnswer_canon f hs
  | .when f => execWhen_canon f hs
  | .hstat f => execHstat_canon f hs
  | .hget f => execHget_canon f hs
  | .hsync f => execHsync_canon f hs
  | .hretire f => execHretire_canon f hs
  | .objnew f => execObjnew_canon f hs
  | .objfree f => execObjfree_canon f hs
  | .migr f => execMigr_canon f hs
  | .migra f => execMigra_canon f hs
  | .hold f => execHold_canon f hs
  | .release f => execRelease_canon f hs
  | .task f => execTask_canon f hs
  | .tdec f => execTdec_canon f hs
  | .launch f => execLaunch_canon f hs
  | .cancel f => execCancel_canon f hs
  | .testc f => execTestc_canon f hs
  | .phtok f => execPhtok_canon f hs
  | .phwait f => execPhwait_canon f hs
  | .tqcfg f => execTqcfg_canon f hs
  | .tnext f => execTnext_canon f hs
  | .fjoin f => execFjoin_canon f hs
  | .fleave f => execFleave_canon f hs
  | .fmemb f => execFmemb_canon f hs
  | .cbrAll f => execCbrAll_canon f hs
  | .cbrAny f => execCbrAny_canon f hs
  | .fsync f => execFsync_canon f hs
  | .bst f => execBst_canon f hs
  | .bseq f => execBseq_canon f hs
  | .wld f => execWld_canon f hs
  | .wswp f => execWswp_canon f hs
  | .gang f => execGang_canon f hs
  | .mma f => execMma_canon f hs
  | .mmas f => execMmas_canon f hs
  | .mpld f => execMpld_canon f hs
  | .mrec f => execMrec_canon f hs
  | .azero f => execAzero_canon f hs
  | .azeroRelease f => execAzeroRelease_canon f hs
  | .ald f => execAld_canon f hs
  | .ast f => execAst_canon f hs
  | .acvt f => execAcvt_canon f hs
  | .ladcfg f => execLadcfg_canon f hs
  | .ladpush f => execLadpush_canon f hs
  | .ladrd f => execLadrd_canon f hs
  | .ladld f => execLadld_canon f hs
  | .ladw f => execLadw_canon f hs
  | .attncfg f => execAttncfg_canon f hs
  | .attn f => execAttn_canon f hs
  | .nbmv f => execNbmv_canon f hs
  | .strandSelect core => execStrandSelect_canon core hs
  | .routinePromotion core slot => execRoutinePromotion_canon core slot hs
  | .strandParkContext core idx => execStrandParkContext_canon core idx hs
  | .invocationArrival ix => execInvocationArrival_canon ix hs
  | .forwardedInvocation ix => execForwardedInvocation_canon ix hs
  | .resolutionNotice ix => execResolutionNotice_canon ix hs
  | .breakNotice ix => execBreakNotice_canon ix hs
  | .retireNotice ix => execRetireNotice_canon ix hs
  | .retiredMarkExpiry core n => execRetiredMarkExpiry_canon core n hs
  | .pendingAnswerTimeout core n => execPendingAnswerTimeout_canon core n hs
  | .waiterRegistration ix => execWaiterRegistration_canon ix hs
  | .registrationRetry ix => execRegistrationRetry_canon ix hs
  | .hsyncRequest ix => execHsyncRequest_canon ix hs
  | .hsyncAck core idx => execHsyncAck_canon core idx hs
  | .hsyncTimeout core idx => execHsyncTimeout_canon core idx hs
  | .mailboxMessage ix => execMailboxMessage_canon ix hs
  | .activeMessage ix => execActiveMessage_canon ix hs
  | .taskRelease ix => execTaskRelease_canon ix hs
  | .contextMove ix => execContextMove_canon ix hs
  | .contextReturn ix => execContextReturn_canon ix hs
  | .frameRelease ix => execFrameRelease_canon ix hs
  | .eventRecordTaskDecrement cl => execEventRecordTaskDecrement_canon cl hs
  | .eventRecordLevelDecrement cl => execEventRecordLevelDecrement_canon cl hs
  | .eventRecordFaultNotice cl => execEventRecordFaultNotice_canon cl hs
  | .cancelAtShepherd cl => execCancelAtShepherd_canon cl hs
  | .launchDistribute cl => execLaunchDistribute_canon cl hs
  | .pipelineMessageEnqueue cl n => execPipelineMessageEnqueue_canon cl n hs
  | .pipelineDrain cl n => execPipelineDrain_canon cl n hs
  | .distributorEvaluation cl n stage => execDistributorEvaluation_canon cl n stage hs
  | .clusterPowerGate cl => execClusterPowerGate_canon cl hs
  | .clusterWake cl => execClusterWake_canon cl hs
  | .preemptRequest core requester m => execPreemptRequest_canon core requester m hs
  | .resume core m => execResume_canon core m hs
  | .trapEntry core idx => execTrapEntry_canon core idx hs
  | .storeDenialResponse ix => execStoreDenialResponse_canon ix hs
  | .corePark core => execCorePark_canon core hs
  | .parkactRetry core m => execParkactRetry_canon core m hs
  | .parkactEnd core m => execParkactEnd_canon core m hs
  | .strandWatchdog core idx => execStrandWatchdog_canon core idx hs
  | .machineCheck core touched => execMachineCheck_canon core touched hs
  | .routineTableWrite m core slot bytes => execRoutineTableWrite_canon m core slot bytes hs
  | .eventCounterSelectWrite m pa value => execEventCounterSelectWrite_canon m pa value hs
  | .controlBlockWrite m pa value => execControlBlockWrite_canon m pa value hs
  | .brackenScanComplete cl => execBrackenScanComplete_canon cl hs
  | .remoteAccessResponse ix host => execRemoteAccessResponse_canon ix host hs
  | .remoteTimeout core idx => execRemoteTimeout_canon core idx hs
  | .flitResend ix => execFlitResend_canon ix hs
  | .requestFlitArrival ix => execRequestFlitArrival_canon ix hs
  | .retryResponse ix => execRetryResponse_canon ix hs
  | .duplicateWindowRelease ix => execDuplicateWindowRelease_canon ix hs
  | .flitAgeDiscard ix => execFlitAgeDiscard_canon ix hs
  | .subByteStore ix => execSubByteStore_canon ix hs
  | .crossDieWriteApply ix => execCrossDieWriteApply_canon ix hs
  | .awaitRewalk core idx => execAwaitRewalk_canon core idx hs
  | .pageWaitTimeout core idx => execPageWaitTimeout_canon core idx hs
  | .queueWaitTimeout core idx => execQueueWaitTimeout_canon core idx hs
  | .queueLinkFlit ix => execQueueLinkFlit_canon ix hs
  | .queueUnlinkFlit ix => execQueueUnlinkFlit_canon ix hs
  | .queueSlotWriteMessage ix => execQueueSlotWriteMessage_canon ix hs
  | .queuePublishMessage ix => execQueuePublishMessage_canon ix hs
  | .queueCreditMessage ix => execQueueCreditMessage_canon ix hs
  | .engineCommandStart core eng => execEngineCommandStart_canon core eng hs
  | .copySector cl => execCopySector_canon cl hs
  | .engineCommandEnd core eng => execEngineCommandEnd_canon core eng hs
  | .credResult ix => execCredResult_canon ix hs
  | .attnBlock cl => execAttnBlock_canon cl hs
  | .attnPageRewalk cl => execAttnPageRewalk_canon cl hs
  | .attnPageTimeout cl => execAttnPageTimeout_canon cl hs
  | .ladderMerge core => execLadderMerge_canon core hs
  | .gangOpen cl row => execGangOpen_canon cl row hs
  | .gangBarrierTimeout cl row => execGangBarrierTimeout_canon cl row hs
  | .foldContribution ix => execFoldContribution_canon ix hs
  | .foldOutcome ix => execFoldOutcome_canon ix hs
  | .foldLeaveRecorded ix => execFoldLeaveRecorded_canon ix hs
  | .foldEject pkg fold core => execFoldEject_canon pkg fold core hs
  | .foldOutcomeTimeout core idx => execFoldOutcomeTimeout_canon core idx hs
  | .strikeReport unit => execStrikeReport_canon unit hs
  | .patrolScrub pa r => execPatrolScrub_canon pa r hs
  | .poisonReport pa => execPoisonReport_canon pa hs
  | .partitionFence pkg part => execPartitionFence_canon pkg part hs
  | .teardownRelease pkg part => execTeardownRelease_canon pkg part hs
  | .linkFrameReceive link crcOk => execLinkFrameReceive_canon link crcOk hs
  | .linkAckSend link => execLinkAckSend_canon link hs
  | .linkAckReceive link => execLinkAckReceive_canon link hs
  | .linkReplayRequest link => execLinkReplayRequest_canon link hs
  | .lossOfLight link lost => execLossOfLight_canon link lost hs
  | .restripeNotice link => execRestripeNotice_canon link hs
  | .laserSocketFailure pkg socket => execLaserSocketFailure_canon pkg socket hs
  | .restripeMarker link => execRestripeMarker_canon link hs
  | .linkRetrain link own far => execLinkRetrain_canon link own far hs
  | .retrainRetry link => execRetrainRetry_canon link hs
  | .larkReceive pkg => execLarkReceive_canon pkg hs
  | .leaOperationReceive pkg seq => execLeaOperationReceive_canon pkg seq hs
  | .larkTimeout pkg => execLarkTimeout_canon pkg hs
  | .uetRmaWrite pkg job va bytes => execUetRmaWrite_canon pkg job va bytes hs
  | .uetRmaRead pkg job va len => execUetRmaRead_canon pkg job va len hs
  | .uetMailboxSend pkg port job ip va bytes => execUetMailboxSend_canon pkg port job ip va bytes hs
  | .mgmtApplyConfig pkg body signature => execMgmtApplyConfig_canon pkg body signature hs
  | .mgmtRemovePartition pkg part => execMgmtRemovePartition_canon pkg part hs
  | .mgmtAttestationQuote pkg nonce part => execMgmtAttestationQuote_canon pkg nonce part hs
  | .mgmtSetPowerCap pkg die watts => execMgmtSetPowerCap_canon pkg die watts hs
  | .resetBoot pkg bank0 bank1 => execResetBoot_canon pkg bank0 bank1 hs
  | .powerTelemetryRefresh pkg words => execPowerTelemetryRefresh_canon pkg words hs
  | .busVoltageFault pkg millivolts => execBusVoltageFault_canon pkg millivolts hs
  | .boilingLimitRenewal pkg die watts => execBoilingLimitRenewal_canon pkg die watts hs
  | .boilingLimitLapse pkg die => execBoilingLimitLapse_canon pkg die hs
  | .thermalThrottle pkg die centi => execThermalThrottle_canon pkg die centi hs
  | .thermalStop pkg die centi => execThermalStop_canon pkg die centi hs
  | .connectorCheck pkg conn value baseline wmask => execConnectorCheck_canon pkg conn value baseline wmask hs
  | .degradationReport pkg conn => execDegradationReport_canon pkg conn hs
  | .ultraEthernetPortDown pkg port => execUltraEthernetPortDown_canon pkg port hs
  | .ultraEthernetPortUp pkg port => execUltraEthernetPortUp_canon pkg port hs
  | .uetConnectionSetup pkg port offer => execUetConnectionSetup_canon pkg port offer hs
  | .mgmtUnknownRequest pkg code => execMgmtUnknownRequest_canon pkg code hs
  | .signedImageViaUltraEthernet pkg image => execSignedImageViaUltraEthernet_canon pkg image hs
  | .busVoltageRecovery pkg millivolts => execBusVoltageRecovery_canon pkg millivolts hs
  | .thermalThrottleEnd pkg die centi => execThermalThrottleEnd_canon pkg die centi hs
  | .foldJoinRecorded ix => execFoldJoinRecorded_canon ix hs
  | .leaSequenceTimeout core idx => execLeaSequenceTimeout_canon core idx hs
  | .larkTransmitterRestore pkg => execLarkTransmitterRestore_canon pkg hs
  | .domainFormation numbers => execDomainFormation_canon numbers hs
  | .leaGroupFormation group members => execLeaGroupFormation_canon group members hs
theorem step_canon {s : State} (hs : Canon s) : OutCanon (step s) := by
  have ht := runTurn_canon (fun i _ h => exec_canon h i) (State.advance_canon s.turn.dt hs)
  unfold step
  split
  next t h => exact (h ▸ ht : OutCanon (.next t))
  · trivial
  · trivial

/-- Settles O6: every instruction and every event writes memory through `State.putByte`, filters it, or moves it. -/
theorem memoryInvariant : Obligations.MemoryInvariant := by
  intro s t hs h
  exact (h ▸ step_canon hs : OutCanon (.next t))

end Sys2Proof.Machine
end

section
/-! A matrix operation on a core whose table of strands lists one index twice (19 R388; 20 R412). -/

namespace Sys2Proof.Machine

/-! ### A matrix operation at its entry -/

section
variable {s : State} {a : Actor} {i : Instr} {x : MatOp}

/-- An entry of the matrix rows whose turn it is has its effect. -/
theorem matrixOp_entry (h : InTurn s a i) (g : Guard) (issue : Actor → R State) (body : Actor → R Res) :
    matrixOp s i g issue body = finishEntry a (body a) := by
  obtain ⟨⟨ha, he⟩, ho, -, -⟩ := h
  simp only [matrixOp, ha, he, ho, if_true]

/-- An operation whose checks have passed, whose rows are read and whose word does not wait ends as its run does. -/
theorem matBody_runs {rows : List (List Byte)} {t : State} (hg : a.x.gang = none) (h : a.guard x.g = true)
    (hl : queuesLegal s a [{ q := x.q, need := x.need, produce := false }] = .ok ())
    (hc : matCheck s a.core a.core x.q (s.core a.core).microActive x (maskRows a.sr x.m) = none)
    (hq : queuesReady s a (rowUses x.q x.need (maskRows a.sr x.m)) = .ok ())
    (hr : (List.range (maskRows a.sr x.m)).mapM (fun j => queueBytes s a x.q (x.need + j) 0 x.rowBytes) = .ok rows)
    (hw : wordReady s a x = true) (hm : runMatrix s a.core x (s.core a.core).microActive rows = some t) :
    matBody s x a = matWord t a x (maskRows a.sr x.m) := by
  simp [matBody, hg, h, hl, hc, hq, hr, hw, hm, Except.bind]

/-- A write to a tile in which no strand is parked leaves the strands as they were. -/
theorem writeTile_strands {co : Core} {d : Nat} (h : smGet none co.tileStrand d = none) (xs : List (Nat × BitVec 32)) :
    (writeTile co d xs).strands = co.strands := by
  rw [writeTile, claimTile, h]

/-- The memory that an operation leaves: it is written only where the save area takes a strand. -/
theorem runMatrix_mem {c : Nat} {bank : Micro} {rows : List (List Byte)} {t : State} (h : runMatrix s c x bank rows = some t)
    (hd : smGet none (s.core c).tileStrand x.d.val = none) :
    ∃ co, co.strands = (s.core c).strands ∧ t.mem = (writeMoved s (s.setCore c co) c).mem := by
  rw [runMatrix] at h
  dsimp only at h
  split at h
  · cases h
    refine ⟨_, ?_, State.modCore_mem _ _ _⟩
    dsimp only
    rw [writeTile_strands hd]
  · cases h

end

/-! ### The core -/

/-- An MMA of one row into tile 3. -/
def twiceMma : MmaF := { g := { neg := false, k := 0 }, mf := .i8, chk := none, d := 3, q := 0, need := 1, m := .mask 1 }
/-- A strand at that MMA, whose entry has captured its row; its register s0 is 1. -/
def twiceStrand : Strand :=
  { freshStrand with
    s := freshStrand.s.set 0 1
    seq := [.one { pc := 0, i := .mma twiceMma, s := freshStrand.s, k := freshStrand.k, shadowed := false, badS := 0, badK := 0
                   num := 0, taken := [(0, 1, List.replicate 32 0)] }] }
/-- A core with a plane of no active column, on which strand 0 stands in a bank and is listed again in the save area. -/
def twiceCore : Core :=
  { Core.reset with
    strands := [(0, some twiceStrand), (0, some { twiceStrand with place := .saved })]
    active := { valid := true, sparse := false, fmt := .i8, nact := 0, weights := [], meta_ := [], pairs := [] }
    queues := Core.reset.queues.set 0 { Queue.reset with bound := true, sz := 1 } }
def twiceState : State :=
  { State.reset with
    cores := [(0, twiceCore)], turn := { agent := .execute 0 0, dt := 0, useCache := false, free := 0, upset := false } }
def twiceActor : Actor :=
  { core := 0, k := 0, x := twiceStrand, exec := true, sr := freshStrand.s, kr := freshStrand.k, pc := 0 }

theorem twice_inTurn : InTurn twiceState twiceActor (.mma twiceMma) :=
  ⟨⟨rfl, rfl⟩, rfl, rfl, rfl⟩

/-- The checks of the operation pass, its row is read, and its elements are numbers. -/
theorem twice_rows : ∃ rows as cols,
    (List.range 1).mapM (fun j => queueBytes twiceState twiceActor 0 (1 + j) 0 (mfRow .i8 false + mfPairs .i8 false)) = .ok rows ∧
    rows.mapM (rowNums .i8 false) = some as ∧
    (List.range (min twiceCore.active.nact 32)).mapM (columnNums twiceCore.active) = some cols :=
  ⟨_, _, _, rfl, rfl, rfl⟩

/-- A strand's record begins with its s registers. -/
theorem recordBytes_s (co : Core) (c k : Nat) (x : Strand) (cause : Cause) (epc vpc : Word) (key : Nat) (check : DWord) :
    ∃ l, recordBytes co c k x cause epc vpc key check = x.s.toList.flatMap (fun (w : Word) => leBytes 16 w.toNat) ++ l := by
  unfold recordBytes
  generalize x.s.toList.flatMap (fun (w : Word) => leBytes 16 w.toNat) = h
  simp only [List.append_assoc]
  exact ⟨_, rfl⟩

/-- A strand's record begins with the low byte of s0. -/
theorem movedRecord_head (s : State) (c k : Nat) (x : Strand) :
    ∃ l, movedRecord s c (k, x) = BitVec.ofNat 8 x.s[0].toNat :: l := by
  obtain ⟨w, ws, hs⟩ : ∃ w ws, x.s.toList = w :: ws := List.exists_cons_of_length_eq_add_one (n := 15) (by simp)
  have hw : x.s[0] = w := by
    rw [← Vector.getElem_toList (by simp)]
    simp only [hs, List.getElem_cons_zero]
  obtain ⟨l, hl⟩ := recordBytes_s (s.core c) c k x { code := cNone, eva := 0 } x.pc 0 (saveKey s k) s.turn.free
  rw [hs, List.flatMap_cons] at hl
  rw [hw]
  exact ⟨_, hl⟩

/-- The strand of the save area is taken for one that the operation has moved: its record is written, s0 first. -/
theorem twice_moved {co : Core} (h : co.strands = twiceCore.strands) :
    (writeMoved twiceState (twiceState.setCore 0 co) 0).byte (hardRecord 0 0) = 1 := by
  have hl : liveStrands ((twiceState.setCore 0 co).core 0) = [(0, twiceStrand), (0, { twiceStrand with place := .saved })] := by
    rw [State.setCore_core_self, liveStrands, h]
    rfl
  rw [writeMoved_eq, hl]
  change (withRecord (twiceState.setCore 0 co) 0 (twiceState.setCore 0 co) (0, { twiceStrand with place := .saved })).byte _ = 1
  obtain ⟨l, hr⟩ := movedRecord_head (twiceState.setCore 0 co) 0 0 { twiceStrand with place := .saved }
  have hb := writeBytes_byte_in (movedRecord (twiceState.setCore 0 co) 0 (0, { twiceStrand with place := .saved }))
    (twiceState.setCore 0 co) (hardRecord 0 0) 0 (by rw [movedRecord_length]; decide)
  simp only [hr, List.getElem_cons_zero, Nat.add_zero] at hb
  rw [byte_of_mem (withRecord_mem _ _ _ _), hr, hb]
  rfl

/-- The operation that the MMA asks for. -/
def twiceOp : MatOp :=
  { g := twiceMma.g, mf := .i8, kind := 0, chk := none, d := 3, q := 0, need := 1, m := .mask 1 }
theorem twice_op : matOp (.mma twiceMma) = some twiceOp := rfl

/-- The operation runs, and writes the record. -/
theorem twice_run : ∃ rows t,
    (List.range 1).mapM (fun j => queueBytes twiceState twiceActor 0 (1 + j) 0 (mfRow .i8 false + mfPairs .i8 false)) = .ok rows ∧
    runMatrix twiceState 0 twiceOp twiceCore.microActive rows = some t ∧ t.byte (hardRecord 0 0) = 1 := by
  obtain ⟨rows, as, cols, hr, ha, hc⟩ := twice_rows
  obtain ⟨t, ht⟩ : ∃ t, runMatrix twiceState 0 twiceOp twiceCore.microActive rows = some t := by
    have ha' : rows.mapM (rowNums twiceOp.mf twiceOp.sparse) = some as := ha
    have hc' : (List.range (min (twiceState.core 0).active.nact 32)).mapM (columnNums (twiceState.core 0).active) = some cols := hc
    rw [runMatrix, ha', hc']
    exact ⟨_, rfl⟩
  obtain ⟨co, hco, hm⟩ := runMatrix_mem ht rfl
  exact ⟨rows, t, hr, ht, (byte_of_mem hm _).trans (twice_moved hco)⟩

/-- The MMA completes with the memory that the operation leaves. -/
theorem twice_exec : ∃ t, exec (.mma twiceMma) twiceState = .next t ∧ t.byte (hardRecord 0 0) = 1 := by
  obtain ⟨rows, t, hr, ht, hb⟩ := twice_run
  have hbody : matBody twiceState twiceOp twiceActor = .ok (.next t) :=
    matBody_runs rfl rfl rfl rfl rfl hr rfl ht
  have he : exec (.mma twiceMma) twiceState = finishEntry twiceActor (matBody twiceState twiceOp twiceActor) :=
    matrixOp_entry twice_inTurn twiceMma.g (rungCheck twiceState twiceMma.d) (matBody twiceState twiceOp)
  refine ⟨_, by rw [he, hbody, finishEntry], ?_⟩
  rw [byte_of_mem (State.modStrand_mem _ _ _ _), hb]

/-- Refutes O38: the statement does not ask, as that of O44 does, that the core's table of strands be canonical. Where the
table lists an index again in the save area, an operation that claims its tile writes that strand's record (19 R388), so
memory does not stay as it was. -/
theorem not_matrixOperations : ¬ Obligations.MatrixOperations := by
  intro h
  obtain ⟨rows, as, cols, hr, ha, hc⟩ := twice_rows
  have hruns := ((h twiceState twiceActor twiceMma default (.mma twiceMma) (by simp) twiceOp twice_op twice_inTurn rfl).2 rfl).2.2
    (by decide) (by decide) rfl rfl rfl (by decide) rows as cols rfl (by decide) rfl hr ha hc rfl
  obtain ⟨t, ht, ⟨hb, -, -⟩, -⟩ := hruns.1 rfl
  obtain ⟨u, hu, hone⟩ := twice_exec
  obtain rfl : u = t := Host.Outcome.next.inj (hu.symm.trans ht)
  exact absurd (hone.symm.trans (hb _)) (by decide)

end Sys2Proof.Machine
end

section
/-! Stores performed at their homes: what they write, and that they change nothing but memory and its poison (07 R156, R163;
05 R120; 26 R477). -/

namespace Sys2Proof.Machine

/-! ### Changes of memory alone -/

/-- `s` with the memory of `u` and its poison. -/
def State.withMemOf (s u : State) : State := { s with mem := u.mem, poison := u.poison }

/-- `t` is `s` after writes of memory, which poison no line. -/
def OnlyWrites (s t : State) : Prop :=
  t = s.withMemOf t ∧ ∀ l, smGet false t.poison l = true → smGet false s.poison l = true

namespace OnlyWrites
variable {s t u : State}

theorem refl (s : State) : OnlyWrites s s := ⟨rfl, fun _ h => h⟩
theorem trans (h : OnlyWrites s t) (h' : OnlyWrites t u) : OnlyWrites s u := by
  refine ⟨?_, fun l hl => h.2 l (h'.2 l hl)⟩
  rw [h'.1, h.1]
  rfl
theorem ident (h : OnlyWrites s t) (a : Actor) : a.ident t = a.ident s := by rw [h.1]; rfl
theorem deniedAt (h : OnlyWrites s t) (id : Ident) (x : Access) : t.deniedAt id x = s.deniedAt id x := by rw [h.1]; rfl

theorem foldl {α : Type} {f : State → α → State} (h : ∀ s x, OnlyWrites s (f s x)) (l : List α) (s : State) :
    OnlyWrites s (l.foldl f s) := by
  induction l generalizing s with
  | nil => exact refl s
  | cons x l ih => exact (h s x).trans (ih _)

theorem putByte (s : State) (pa : Nat) (b : Byte) : OnlyWrites s (s.putByte pa b) := ⟨rfl, fun _ h => h⟩
theorem writeBytes (s : State) (pa : Nat) (b : List Byte) : OnlyWrites s (writeBytes s pa b) := by
  induction b generalizing s pa with
  | nil => exact refl s
  | cons x t ih => exact (putByte s pa x).trans (ih _ _)
theorem writeNibble (s : State) (h v : Nat) : OnlyWrites s (writeNibble s h v) := putByte _ _ _
theorem writeElem (s : State) (four : Bool) (h v : Nat) : OnlyWrites s (writeElem s four h v) := by
  unfold Machine.writeElem
  split
  · exact writeNibble s h v
  · exact putByte _ _ _
theorem clearPoison (s : State) (pa n : Nat) : OnlyWrites s (clearPoison s pa n) := by
  refine ⟨rfl, ?_⟩
  unfold Machine.clearPoison
  generalize List.filter _ _ = full
  dsimp only
  generalize s.poison = m
  induction full generalizing m with
  | nil => exact fun _ h => h
  | cons x t ih =>
    intro l hl
    have := ih _ l hl
    rw [smGet_smErase] at this
    split at this
    · cases this
    · exact this
theorem blockApply (s : State) (b : BlockWrite) : OnlyWrites s (blockApply s b) := by
  unfold Machine.blockApply
  dsimp only
  split
  · exact (foldl (fun _ _ => writeElem _ _ _ _) _ _).trans (writeBytes _ _ _)
  · exact foldl (fun _ _ => writeElem _ _ _ _) _ _

/-- A line that is not poisoned stays so. -/
theorem poisoned_none (h : OnlyWrites s t) {pa n : Nat} (hs : s.poisoned pa n = none) : t.poisoned pa n = none := by
  simp only [State.poisoned, List.find?_eq_none, Bool.and_eq_true, decide_eq_true_eq, not_and, Bool.not_eq_true] at hs ⊢
  intro l hl hn
  cases ht : smGet false t.poison l with
  | false => rfl
  | true => exact absurd ((hs l hl hn).symm.trans (h.2 l ht)) (by decide)

end OnlyWrites

/-! ### What a store writes -/

/-- The markers of poison are no part of a store's own effect. -/
theorem storeEffect_poison (s : State) (x : Access) : (storeEffect s x).poison = s.poison := by
  have hw : ∀ (four : Bool) (l : List (Nat × Nat)) (f : Nat → Nat) (s : State),
      (l.foldl (fun st w => writeElem st four (f w.1) w.2) s).poison = s.poison := by
    intro four l f
    induction l with
    | nil => exact fun _ => rfl
    | cons w l ih =>
      intro s
      rw [List.foldl_cons, ih, writeElem]
      split <;> rfl
  have hb : ∀ (bs : List BlockWrite) (s : State), (bs.foldl blockApply s).poison = s.poison := by
    intro bs
    induction bs with
    | nil => exact fun _ => rfl
    | cons b bs ih =>
      intro s
      rw [List.foldl_cons, ih, blockApply]
      dsimp only
      split <;> simp [hw]
  unfold storeEffect
  split
  · exact writeBytes_poison _ _ _
  · rfl
  · exact hb _ _
  · rfl

section
variable {s u : State}

/-- Steps that make equal memories of equal memories do so one after another. -/
theorem foldl_mem_congr {α : Type} {f : State → α → State} (hf : ∀ s u x, u.mem = s.mem → (f u x).mem = (f s x).mem) (l : List α)
    (h : u.mem = s.mem) : (l.foldl f u).mem = (l.foldl f s).mem := by
  induction l generalizing s u with
  | nil => exact h
  | cons x l ih => exact ih (hf s u x h)

theorem putByte_mem_congr (pa : Nat) (b : Byte) (h : u.mem = s.mem) : (u.putByte pa b).mem = (s.putByte pa b).mem := by
  simp only [State.putByte, h]
theorem writeBytes_mem_congr (pa : Nat) (b : List Byte) (h : u.mem = s.mem) :
    (writeBytes u pa b).mem = (writeBytes s pa b).mem := by
  induction b generalizing s u pa with
  | nil => exact h
  | cons x t ih => exact ih (pa + 1) (putByte_mem_congr pa x h)
theorem writeNibble_mem_congr (i v : Nat) (h : u.mem = s.mem) : (writeNibble u i v).mem = (writeNibble s i v).mem := by
  rw [writeNibble, writeNibble, byte_of_mem h]
  exact putByte_mem_congr _ _ h
theorem writeElem_mem_congr (four : Bool) (i v : Nat) (h : u.mem = s.mem) :
    (writeElem u four i v).mem = (writeElem s four i v).mem := by
  cases four
  · exact putByte_mem_congr _ _ h
  · exact writeNibble_mem_congr _ _ h
theorem pairOf_congr (b : BlockWrite) (h : u.mem = s.mem) : b.pairOf u = b.pairOf s := by
  simp only [BlockWrite.pairOf, byte_of_mem h]
theorem blockApply_mem_congr (b : BlockWrite) (h : u.mem = s.mem) : (blockApply u b).mem = (blockApply s b).mem := by
  have hw := foldl_mem_congr (f := fun st (w : Nat × Nat) => writeElem st b.four (b.place w.1) w.2)
    (fun _ _ w h => writeElem_mem_congr b.four (b.place w.1) w.2 h)
    (blockEncodeAll b (b.pairOf s).1 (b.pairOf s).2 b.writes b.seed).1 h
  simp only [blockApply, pairOf_congr b h]
  split
  · exact writeBytes_mem_congr _ _ hw
  · exact hw
theorem storeEffect_mem_congr (x : Access) (h : u.mem = s.mem) : (storeEffect u x).mem = (storeEffect s x).mem := by
  unfold storeEffect
  split
  · exact writeBytes_mem_congr _ _ h
  · exact writeNibble_mem_congr _ _ h
  · exact foldl_mem_congr (fun _ _ b h => blockApply_mem_congr b h) _ h
  · exact h
end

/-! ### What a store leaves -/

theorem foldl_byte_out {α : Type} {f : State → α → State} {q : Nat} {l : List α}
    (hf : ∀ s, ∀ x ∈ l, (f s x).byte q = s.byte q) (s : State) : (l.foldl f s).byte q = s.byte q := by
  induction l generalizing s with
  | nil => rfl
  | cons x l ih =>
    rw [List.foldl_cons, ih (fun s y hy => hf s y (List.mem_cons_of_mem _ hy)), hf s x List.mem_cons_self]
theorem writeNibble_byte_out (s : State) {h q : Nat} (v : Nat) (hq : q ≠ h / 2) : (writeNibble s h v).byte q = s.byte q :=
  s.putByte_byte_ne _ _ q hq
theorem writeElem_byte_out (s : State) (four : Bool) {h q : Nat} (v : Nat) (hq : q ≠ h / 2) :
    (writeElem s four h v).byte q = s.byte q := by
  cases four
  · exact s.putByte_byte_ne _ _ q hq
  · exact writeNibble_byte_out s v hq

/-- An encoding gives a pattern for each element that it takes. -/
theorem blockEncodeAll_map_fst (b : BlockWrite) (e0 e1 : Nat) (l : List (Nat × Num)) (seed : BitVec 32) :
    (blockEncodeAll b e0 e1 l seed).1.map (·.1) = l.map (·.1) := by
  induction l generalizing seed with
  | nil => rfl
  | cons w l ih => simp [blockEncodeAll, ih]

theorem blockApply_byte_out (s : State) {b : BlockWrite} {q : Nat} (hw : ∀ w ∈ b.writes, q ≠ b.place w.1 / 2) (hp : q ≠ b.pair)
    (hp' : q ≠ b.pair + 1) : (blockApply s b).byte q = s.byte q := by
  have he := foldl_byte_out (q := q) (f := fun st (w : Nat × Nat) => writeElem st b.four (b.place w.1) w.2)
    (l := (blockEncodeAll b (b.pairOf s).1 (b.pairOf s).2 b.writes b.seed).1) (fun s w hm => by
      have hm' := List.mem_map_of_mem (f := (·.1)) hm
      rw [blockEncodeAll_map_fst] at hm'
      obtain ⟨v, hv, hvw⟩ := List.mem_map.mp hm'
      exact writeElem_byte_out s _ _ (hvw ▸ hw v hv)) s
  unfold blockApply
  dsimp only
  split
  · rw [writeBytes_byte_out _ _ _ _ (by simp only [List.length_cons, List.length_nil]; omega), he]
  · exact he

theorem storeEffect_byte_out (s : State) {x : Access} {q : Nat} (h : ¬ x.touches q) : (storeEffect s x).byte q = s.byte q := by
  unfold Access.touches at h
  unfold storeEffect
  split at h
  · exact writeBytes_byte_out _ _ _ _ (by omega)
  · exact writeNibble_byte_out s _ (by split <;> omega)
  · next bs _ =>
    refine foldl_byte_out (fun s b hm => blockApply_byte_out s ?_ ?_ ?_) s
    · exact fun w hw e => h ⟨b, hm, .inl ⟨w, hw, e⟩⟩
    · exact fun e => h ⟨b, hm, .inr (.inl e)⟩
    · exact fun e => h ⟨b, hm, .inr (.inr e)⟩
  · rfl

/-! ### A store at its home -/

/-- What a block update meets depends on memory and its poison alone, and fewer poisoned lines meet less. -/
theorem blockMeets_none {s u : State} (hm : u.mem = s.mem)
    (hp : ∀ l, smGet false u.poison l = true → smGet false s.poison l = true)
    {b : BlockWrite} (h : blockMeets s b = none) : blockMeets u b = none := by
  have hs : OnlyWrites s (s.withMemOf u) := ⟨rfl, hp⟩
  cases hf : b.fresh with
  | true => rw [blockMeets, hf]; rfl
  | false =>
    rw [blockMeets, hf] at h ⊢
    simp only [Bool.false_eq_true, if_false] at h ⊢
    cases hq : s.poisoned b.pair 2 with
    | some l => rw [hq] at h; cases h
    | none =>
      have hu : u.poisoned b.pair 2 = none := hs.poisoned_none hq
      rw [hq] at h
      rw [hu, pairOf_congr b hm]
      exact h

/-- A store that its target admits and whose pairs are sound is performed there. -/
theorem performAt_isStore {s : State} {id : Ident} {x : Access} (hx : x.op.isStore = true) (hd : s.deniedAt id x = none)
    (hm : (siteOf x.pa x.geom2).isMemory = true) (hb : ∀ bs, x.op = .block bs → bs.findSome? (blockMeets s) = none) :
    ∃ t, performAt s id x = .ok t [] ∧ t.mem = (storeEffect s x).mem ∧ OnlyWrites s t := by
  cases ho : x.op with
  | load n pr => rw [ho] at hx; cases hx
  | atomic y => rw [ho] at hx; cases hx
  | push b => rw [ho] at hx; cases hx
  | store b =>
    refine ⟨clearPoison (writeBytes s x.pa b) x.pa b.length, ?_, ?_, (OnlyWrites.writeBytes ..).trans (.clearPoison ..)⟩
    · simp [performAt, hd, ho, targetStore, hm]
    · rw [storeEffect, ho]; rfl
  | nibble high v =>
    refine ⟨writeNibble s (2 * x.pa + (if high then 1 else 0)) v.toNat, by simp only [performAt, hd, ho], ?_, .writeNibble ..⟩
    rw [storeEffect, ho]
  | block bs =>
    refine ⟨_, by simp only [performAt, hd, ho, hb bs ho], ?_, .foldl OnlyWrites.blockApply bs s⟩
    rw [storeEffect, ho]

/-! ### Stores in order -/

theorem soundPairs_cons {s : State} {x : Access} {xs : List Access} (h : SoundPairs s (x :: xs)) :
    (∀ bs, x.op = .block bs → bs.findSome? (blockMeets s) = none) ∧ SoundPairs (storeEffect s x) xs :=
  ⟨fun bs hb => h [] x xs bs rfl hb, fun pre y post bs hx hb => h (x :: pre) y post bs (by rw [hx]; rfl) hb⟩

/-- Stores performed in order within a step (07 R163): `u` has the memory of `s`, and no line poisoned that `s` has not. -/
theorem storeList_runs {a : Actor} {xs : List Access} {s u : State} (hm : u.mem = s.mem)
    (hp : ∀ l, smGet false u.poison l = true → smGet false s.poison l = true)
    (hx : ∀ x ∈ xs, x.op.isStore = true ∧ x.isLocal a.core = true ∧ u.deniedAt (a.ident u) x = none ∧
      (siteOf x.pa x.geom2).isMemory = true) (hs : SoundPairs s xs) :
    ∃ t, storeList u a xs = .ok t ∧ t.mem = (xs.foldl storeEffect s).mem ∧ OnlyWrites u t := by
  induction xs generalizing s u with
  | nil => exact ⟨u, rfl, hm, .refl u⟩
  | cons x xs ih =>
    obtain ⟨hb, hs⟩ := soundPairs_cons hs
    obtain ⟨hst, hl, hd, hmem⟩ := hx x List.mem_cons_self
    have hb' : ∀ bs, x.op = .block bs → bs.findSome? (blockMeets u) = none := fun bs e => by
      have := hb bs e
      rw [List.findSome?_eq_none_iff] at this ⊢
      exact fun b hm' => blockMeets_none hm hp (this b hm')
    obtain ⟨v, hv, hvm, hvo⟩ := performAt_isStore hst hd hmem hb'
    have hxs : ∀ y ∈ xs, y.op.isStore = true ∧ y.isLocal a.core = true ∧ v.deniedAt (a.ident v) y = none ∧
        (siteOf y.pa y.geom2).isMemory = true := fun y hy => by
      rw [hvo.ident, hvo.deniedAt]
      exact hx y (List.mem_cons_of_mem _ hy)
    obtain ⟨t, ht, htm, hto⟩ := ih (hvm.trans (storeEffect_mem_congr x hm))
      (fun l hl => by rw [storeEffect_poison]; exact hp l (hvo.2 l hl)) hxs hs
    refine ⟨t, ?_, htm, hvo.trans hto⟩
    simp only [storeList, storeOne, hl, if_true, hv]
    exact ht

end Sys2Proof.Machine
end

section
/-! What a slot leaves that writes memory; the queue uses of a slot; loads whose homes are memory of the strand's own die, and
the destinations of their data (14 R270, R297; 15 R314). -/

namespace Sys2Proof.Machine

/-! ### Slots that write memory -/

section
variable {s t u : State} {a : Actor} {co : Core} {y : Strand}

/-- A slot that writes memory leaves, over the memory that it leaves, what a slot leaves that does not. -/
theorem leavesMem_iff : LeavesMem s t a co y ↔ Leaves (s.withMemOf t) t a co y := by
  constructor
  · rintro ⟨ho, hy, hc, hj, ht⟩
    exact ⟨.of_cores hj ht, ho, hy, hc⟩
  · rintro ⟨⟨-, hj, ht⟩, ho, hy, hc⟩
    exact ⟨ho, hy, hc, hj, ht⟩

theorem Leaves.withMemOf (h : Leaves s u a co y) (t : State) : Leaves (s.withMemOf t) (u.withMemOf t) a co y := by
  obtain ⟨⟨-, hj, hu⟩, ho, hy, hc⟩ := h
  refine ⟨.of_cores hj ?_, ho, hy, hc⟩
  rw [hu]
  rfl

/-- Writes of memory after changes of the strand and its core. -/
theorem Leaves.writes (h : Leaves s u a co y) (hw : OnlyWrites u t) : LeavesMem s t a co y := by
  rw [leavesMem_iff]
  have := h.withMemOf t
  rwa [← hw.1] at this

theorem LeavesMem.slotEnd (hss : a.x.ss = false) (h : LeavesMem s t a co y) :
    LeavesMem s (completeSlot t a none none) a (countSlot co a.k) (nextSlot y a.pc) ∧
      (completeSlot t a none none).mem = t.mem := by
  rw [leavesMem_iff] at h ⊢
  have he := completeSlot_eq h.2.2.1 hss none
  refine ⟨?_, by rw [he]; rfl⟩
  have := Machine.slotEnd hss h
  rw [he] at this ⊢
  exact this

theorem accessOp_traps {g : Guard} {body : Actor → R Res} {code : Code} {eva : Word} (h : Runs s a g)
    (hb : body a = trapAt s code eva) :
    accessOp s g body = .next (raise s a.core a.k .t { code := code, eva := eva } a.pc 0) := by
  rw [accessOp_eq h.1, h.2.1, if_pos rfl, hb]; rfl

/-- A slot whose guard is true and whose meaning writes memory. -/
theorem accessOp_writes {g : Guard} {body : Actor → R Res} (h : Runs s a g) (hb : body a = .ok (.next t))
    (hl : LeavesMem s t a co y) :
    ∃ v, accessOp s g body = .next v ∧ LeavesMem s v a (countSlot co a.k) (nextSlot y a.pc) ∧ v.mem = t.mem :=
  ⟨_, by rw [accessOp_eq h.1, h.2.1, if_pos rfl, hb]; rfl, hl.slotEnd h.2.2⟩

end

/-! ### Queue uses -/

section
variable {s : State} {a : Actor} {us vs : List QUse}

theorem queuesLegal_append (h : queuesLegal s a (us ++ vs) = .ok ()) :
    queuesLegal s a us = .ok () ∧ queuesLegal s a vs = .ok () := by
  have hc : ∀ ws, queuesLegal s a ws = .ok () ↔ (a.open ws).any (fun u => !(a.queue s u.q).legal u.produce ||
      a.waited.any (fun w => w.1 == u.q && w.2 != (a.queue s u.q).epoch)) = false := fun ws => by
    rw [queuesLegal]
    split
    · next h => simp [h, trapAt]
    · next h => simp [h]
  rw [hc, Actor.open, List.filter_append, List.any_append, Bool.or_eq_false_iff] at h
  exact ⟨(hc us).mpr h.1, (hc vs).mpr h.2⟩

theorem queuesReady_iff : queuesReady s a us = .ok () ↔
    queuesLegal s a us = .ok () ∧ ∀ u ∈ a.open us, (a.queue s u.q).met u = true := by
  rw [queuesReady]
  cases queuesLegal s a us with
  | error e => simp [Except.bind]
  | ok x => simp [Except.bind, List.isEmpty_iff, List.filter_eq_nil_iff]

theorem queuesReady_append (h : queuesReady s a (us ++ vs) = .ok ()) :
    queuesReady s a us = .ok () ∧ queuesReady s a vs = .ok () := by
  obtain ⟨hl, hm⟩ := queuesReady_iff.mp h
  obtain ⟨hu, hv⟩ := queuesLegal_append hl
  rw [Actor.open, List.filter_append] at hm
  exact ⟨queuesReady_iff.mpr ⟨hu, fun u h => hm u (List.mem_append_left _ h)⟩,
    queuesReady_iff.mpr ⟨hv, fun u h => hm u (List.mem_append_right _ h)⟩⟩

/-- Off a speculative path a strand sees its core's queues. -/
theorem queue_of_spec_none (h : a.spec s = none) (q : Fin 16) : a.queue s q = (s.core a.core).queues.get q := by
  rw [Actor.spec] at h
  rw [Actor.queue, State.queueOf]
  split at h
  · next sp hs =>
    split at h
    · cases h
    · next hk => exact if_neg hk
  · rfl
theorem specBuf_of_none (h : a.spec s = none) : specBuf s a = [] := by rw [specBuf, h]; rfl
theorem overlay_nil (pa : Nat) (b : List Byte) : overlay [] pa b = b := rfl

/-- The index operand whose queue is met, and its bound. -/
theorem withIndex_eq {f : VindexF} {idx : VWord} {k : VWord → R Res} (h : queuesReady s a (us ++ regUseIn f.idx) = .ok ())
    (hv : vreg s a f.idx = .ok idx) :
    withIndex s a f us k = if outOfBound a f idx then trapAt s cGatherBounds 0 else k idx := by
  rw [withIndex, (queuesReady_iff.mp h).1, (queuesReady_append h).2, hv]
  rfl

theorem drawsInOrder_ok {rm : RndField} (h : modeOf rm (s.core a.core).fctl = .rs → seqIdle a.x = true) :
    drawsInOrder s a rm = .ok () := by
  rw [drawsInOrder, if_neg]
  rintro ⟨h1, h2⟩
  exact h2 (h h1)

end

/-! ### Loads -/

section
variable {s : State} {a : Actor}

/-- An access that only reads. -/
def IsLoad (x : Access) : Prop := ∃ n pair, x.op = .load n pair

theorem planElems_isLoad {va : Word} {lt : LaneTy} {raw page : Bool} {n align : Nat} {extra : Leaf → Option Code} {x : Access}
    (h : planElems s a va lt raw n align page extra = .ok x) : IsLoad x := by
  unfold planElems at h
  dsimp only at h
  split at h
  · cases h
  · split at h
    · split at h
      · cases h
      · cases h; exact ⟨_, _, rfl⟩
    · cases h; exact ⟨_, _, rfl⟩

/-- The accesses of a plan are those that its checks have let through. -/
theorem planList_forall {f : Nat → Except PlanErr Access} {P : Access → Prop} (h : ∀ i x, f i = .ok x → P x) (l : List Nat) :
    ∀ x ∈ (planList f l).1, P x := by
  induction l with
  | nil => simp [planList]
  | cons i l ih =>
    rw [planList]
    split
    · simp
    · next x hx => exact List.forall_mem_cons.mpr ⟨h i x hx, ih⟩

theorem targetLoad_memory {id : Ident} {pa n : Nat} {g : Bool} (hm : (siteOf pa g).isMemory = true)
    (hp : s.poisoned pa n = none) :
    targetLoad s id pa n g = .ok s (readBytes s pa n) := by
  rw [targetLoad, if_pos hm, hp]

/-- A load of memory that holds no poison takes its data and changes nothing. -/
theorem performAt_readable {x : Access} (hx : IsLoad x) (h : Readable s a x) :
    performAt s (a.ident s) x = .ok s (dataAt s x) := by
  obtain ⟨n, pair, ho⟩ := hx
  obtain ⟨⟨-, hd, hm, -, -⟩, hp, hq⟩ := h
  rw [Access.bytes, ho] at hp
  rw [performAt, hd, dataAt, ho]
  cases pair with
  | none => exact targetLoad_memory hm hp
  | some r =>
    obtain ⟨hm', hp'⟩ := hq n r.1 r.2 ho
    simp only [targetLoad_memory hm hp, targetLoad_memory hm' hp']

theorem performAll_readable (hs : a.spec s = none) {xs : List Access} (hx : ∀ x ∈ xs, IsLoad x ∧ Readable s a x) :
    performAll s a xs = .ok (s, xs.map (dataAt s)) := by
  induction xs with
  | nil => rfl
  | cons x xs ih =>
    obtain ⟨⟨hl, hr⟩, hxs⟩ := List.forall_mem_cons.mp hx
    obtain ⟨n, pair, ho⟩ := id hl
    simp only [performAll, performAt_readable hl hr, ih hxs, ho, specBuf_of_none hs, overlay_nil, List.map_cons]

theorem prog_of_settled (h : AtSlot s a) (hs : Settled s a) : a.prog = .none := by
  rw [Actor.prog, h.2]; exact hs.2

/-- The loads of a plan, performed within the step, and the cause of the element after them. -/
theorem loadAll_readable (h : AtSlot s a) (hs : Settled s a) {xs : List Access} (hx : ∀ x ∈ xs, IsLoad x ∧ Readable s a x)
    (fail : Option (Cause × Option Nat)) :
    loadAll s a xs fail = fail.elim (.ok (s, xs.map (dataAt s))) (failAt s a) := by
  have hheld : xs.any (fun x => heldBySubByte s a.core x || heldByAtomic s a x ||
      x.writes && x.isLocal a.core && nearKept s a.core a.k) = false := by
    rw [List.any_eq_false]
    intro x hm
    obtain ⟨⟨n, pair, ho⟩, ⟨-, -, -, hsub, -⟩, -⟩ := hx x hm
    simp [hsub, heldByAtomic, hs.1, Access.writes, ho]
  have hlocal : xs.all (fun x => x.isLocal a.core) = true := List.all_eq_true.mpr fun x hm => (hx x hm).2.1.1
  rw [loadAll, prog_of_settled h hs]
  simp only [hheld, hlocal, performAll_readable hs.1 hx, Bool.false_eq_true, if_false, if_true]
  cases fail <;> rfl

/-- A load whose elements are read traps with the cause of the first element that meets one. -/
theorem loadFlow_cause (h : AtSlot s a) (hs : Settled s a) {us : List QUse} {p : List Access × Option PlanErr} {c : Cause}
    (hq : queuesReady s a us = .ok ()) (hx : ∀ x ∈ p.1, IsLoad x ∧ Readable s a x) (hp : p.2 = some (.cause c)) :
    loadFlow s a us p = trapAt s c.code c.eva := by
  have hl : loadPlan s a p = trapAt s c.code c.eva := by
    rw [loadPlan, prog_of_settled h hs, hp]
    exact loadAll_readable h hs hx (some (c, none))
  rw [loadFlow, (queuesReady_iff.mp hq).1, hp, hl]
  simp [Except.bind, trapAt]

theorem loadFlow_ok (h : AtSlot s a) (hs : Settled s a) {us : List QUse} {p : List Access × Option PlanErr}
    (hq : queuesReady s a us = .ok ()) (hx : ∀ x ∈ p.1, IsLoad x ∧ Readable s a x) (hp : p.2 = none) :
    loadFlow s a us p = .ok (s, p.1.map (fun x => (x, dataAt s x))) := by
  have hl : loadPlan s a p = .ok (s, p.1.map (dataAt s)) := by
    rw [loadPlan, prog_of_settled h hs, hp]
    exact loadAll_readable h hs hx none
  have ha : attempt a p = p.1 := by rw [attempt, prog_of_settled h hs]
  rw [loadFlow, (queuesReady_iff.mp hq).1, hp, hl, ha]
  simp only [Except.bind, Except.map, hq, ite_self]
  rw [List.map_prod_left_eq_zip]

/-! ### What a vector load leaves -/

/-- The lanes of a load, converted from its elements (14 R270). -/
def loadedLanes (lt : LaneTy) (rm : RndField) (sat : Bool) (es : List (Option Elt)) (co : Core) :
    List (Nat × Nat) × Raised × BitVec 32 :=
  runLanes (fun i seed => eltTo lt (modeOf rm co.fctl) sat ((es.getD i none).getD (.same 0)) seed) (List.range es.length) co.seed

/-- A vector load whose elements are read is the conversion of its elements. -/
theorem vectorLoad_ok (h : AtSlot s a) (hs : Settled s a) {lt : LaneTy} {rm : RndField} {sat raw : Bool} {d : VReg} {n : Nat}
    {more : List QUse} {p : List Access × Option PlanErr} (hd : modeOf rm (s.core a.core).fctl = .rs → seqIdle a.x = true)
    (hq : queuesReady s a (regUseOut d ++ more) = .ok ()) (hx : ∀ x ∈ p.1, IsLoad x ∧ Readable s a x) (hp : p.2 = none)
    (he : (loadedElts lt raw n (p.1.map (fun x => (x, dataAt s x)))).all (·.isSome) = true) :
    let q := loadedLanes lt rm sat (loadedElts lt raw n (p.1.map (fun x => (x, dataAt s x)))) (s.core a.core)
    vectorLoad s a lt rm sat raw d n more p =
      (commitFlags s a.core q.2.1 q.2.2).bind (fun u => (writeLanes u a d lt.width q.1).map Res.next) := by
  dsimp only
  have hn : (loadedElts lt raw n (p.1.map (fun x => (x, dataAt s x)))).any (·.isNone) = false := by
    rw [List.all_eq_true] at he
    rw [List.any_eq_false]
    exact fun e hm => by simp [Option.isSome_iff_ne_none.mp (he e hm)]
  rw [vectorLoad, drawsInOrder_ok hd, loadFlow_ok h hs hq hx hp]
  simp only [Except.bind, loadLanes, hn, loadedLanes, Bool.false_eq_true, if_false]
  cases commitFlags _ _ _ _ <;> rfl

theorem vectorLoad_cause (h : AtSlot s a) (hs : Settled s a) {lt : LaneTy} {rm : RndField} {sat raw : Bool} {d : VReg} {n : Nat}
    {more : List QUse} {p : List Access × Option PlanErr} {c : Cause}
    (hd : modeOf rm (s.core a.core).fctl = .rs → seqIdle a.x = true)
    (hq : queuesReady s a (regUseOut d ++ more) = .ok ()) (hx : ∀ x ∈ p.1, IsLoad x ∧ Readable s a x)
    (hp : p.2 = some (.cause c)) : vectorLoad s a lt rm sat raw d n more p = trapAt s c.code c.eva := by
  rw [vectorLoad, drawsInOrder_ok hd, loadFlow_cause h hs hq hx hp]
  rfl

end

/-! ### Destinations of a slot -/

section
variable {s u : State} {a : Actor} {co : Core} {w : Nat} {ls : List (Nat × Nat)}

/-- Lanes of a v register written by a slot. -/
theorem Leaves.slotLanes (h : Leaves s u a co a.x) (d : Fin 32) (w : Nat) (ls : List (Nat × Nat)) :
    ∃ t, writeLanes u a (.v d) w ls = .ok t ∧ Leaves s t a co (Machine.slotLanes a.x d w ls) := by
  refine ⟨_, rfl, ?_⟩
  cases ls with
  | nil => exact h
  | cons p l => exact h.modStrand _

/-- The bytes of a slot after a write under a mask. -/
def maskedBytes (old data mask : List Byte) : List Byte :=
  (data.zip (mask.zip old)).map (fun x => if x.2.1 = 0 then x.2.2 else x.1)

/-- Off a speculative path the changes of a slot put the strand on none. -/
theorem spec_none_of_leaves {y : Strand} (h : Leaves s u a co y) (hs : a.spec s = none)
    (hc : co.spec = (s.core a.core).spec) : a.spec u = none := by
  obtain ⟨-, -, -, hu⟩ := h
  rw [Actor.spec, hu, hc]
  exact hs

theorem maskedBytes_length {old data mask : List Byte} (h : data.length = old.length) (h' : mask.length = old.length) :
    (maskedBytes old data mask).length = old.length := by
  simp [maskedBytes, h, h']
theorem maskedBytes_getElem {old data mask : List Byte} {j : Nat} (h : j < (maskedBytes old data mask).length)
    (ho : j < old.length) : (maskedBytes old data mask)[j] = if mask.getD j 0 = 0 then old[j] else data.getD j 0 := by
  simp only [maskedBytes, List.length_map, List.length_zip] at h
  rw [List.getD_eq_getElem mask 0 (by omega), List.getD_eq_getElem data 0 (by omega)]
  simp [maskedBytes]

theorem readBytes_getElem (s : State) (pa n j : Nat) (h : j < (readBytes s pa n).length) :
    (readBytes s pa n)[j] = s.byte (pa + j) := by
  induction n generalizing pa j with
  | zero => simp [readBytes] at h
  | succ n ih =>
    cases j with
    | zero => rfl
    | succ j => simpa [readBytes, Nat.add_assoc, Nat.add_comm 1] using ih (pa + 1) j (by simpa [readBytes] using h)

/-- A slot of the strand's own ring that a write of lanes has changed. -/
def putQueue (u : State) (a : Actor) (slot w : Nat) (ls : List (Nat × Nat)) : State :=
  let m := ls.foldl (fun v l => setLane w v l.1 (2 ^ w - 1)) (0 : VWord)
  let new := maskedBytes (readBytes u slot 16) (vBytes (putLanes w 0 ls)) (vBytes m)
  clearPoison (writeBytes (putSlotTag u a.core slot none) slot new) slot new.length

/-- Lanes of a slot of the strand's own ring (14 R297; 26 R473). -/
theorem writeLanes_queue (hs : a.spec u = none) {q : Fin 16} {n : BitVec 4} (hd : ((u.core a.core).queues.get q).dir ≠ 2)
    (hl : ls ≠ []) :
    let b := (u.core a.core).queues.get q
    writeLanes u a (.q q n) w ls = .ok (putQueue u a (b.slotPa b.base (b.p.toNat + n.toNat - 1)) w ls) := by
  have he : ls.isEmpty = false := List.isEmpty_eq_false_iff.mpr hl
  have hb : ∀ v : VWord, (vBytes v).length = 16 := fun v => leBytes_length _ _
  simp only [writeLanes, he, queueRoom, hs, queueStore, queue_of_spec_none hs, hd, setSlotTag, specBuf_of_none hs, overlay_nil,
    Option.isSome_none, Bool.false_eq_true, if_false, hb]
  rfl

theorem putQueue_leaves (h : Leaves s u a co a.x) (slot : Nat) :
    LeavesMem s (putQueue u a slot w ls) a (untagged co slot) a.x := by
  have ht : Leaves s (putSlotTag u a.core slot none) a (untagged co slot) a.x :=
    h.modCore (fun q => { q with slotTags := smSet none q.slotTags slot none }) (fun _ _ => rfl)
  exact ht.writes ((OnlyWrites.writeBytes _ _ _).trans (.clearPoison _ _ _))

theorem putQueue_byte (h : Leaves s u a co a.x) (slot : Nat) :
    (∀ j < 16, (putQueue u a slot w ls).byte (slot + j) =
      if (vBytes (ls.foldl (fun v l => setLane w v l.1 (2 ^ w - 1)) (0 : VWord))).getD j 0 = 0 then s.byte (slot + j)
      else (vBytes (putLanes w 0 ls)).getD j 0) ∧
    ∀ pa, pa < slot ∨ slot + 16 ≤ pa → (putQueue u a slot w ls).byte pa = s.byte pa := by
  have hb : ∀ v : VWord, (vBytes v).length = 16 := fun v => leBytes_length _ _
  have hn : (maskedBytes (readBytes u slot 16) (vBytes (putLanes w 0 ls))
      (vBytes (ls.foldl (fun v l => setLane w v l.1 (2 ^ w - 1)) (0 : VWord)))).length = 16 := by
    rw [maskedBytes_length] <;> simp [hb]
  have hu : ∀ pa, (putSlotTag u a.core slot none).byte pa = s.byte pa := h.1.1
  refine ⟨fun j hj => ?_, fun pa hpa => ?_⟩
  · rw [putQueue, byte_of_mem (clearPoison_mem _ _ _), writeBytes_byte_in _ _ _ _ (by rw [hn]; exact hj),
      maskedBytes_getElem _ (by simpa using hj), readBytes_getElem, h.1.1]
  · rw [putQueue, byte_of_mem (clearPoison_mem _ _ _), writeBytes_byte_out _ _ _ _ (by rw [hn]; exact hpa), hu]

end

end Sys2Proof.Machine
end

section
/-! Vector loads and stores of elements whose homes are memory of the strand's own die (14 R270; 15 R314 to R317). -/

namespace Sys2Proof.Machine

/-! ### The accesses of a vector store -/

section
variable {s : State} {a : Actor} {lt : LaneTy} {raw sat : Bool} {rm : RndField}

theorem except_map_eq_ok {ε α β : Type} {f : α → β} {x : Except ε α} {y : β} (h : x.map f = .ok y) :
    ∃ z, x = .ok z ∧ f z = y := by
  cases x with
  | error e => cases h
  | ok z => exact ⟨z, rfl, Except.ok.inj h⟩

theorem encodePiece_isStore {p : StorePiece} {seed sd : BitVec 32} {x : Access} {r : Raised}
    (h : encodePiece s a lt raw rm sat p seed = .ok (x, r, sd)) : x.op.isStore = true := by
  unfold encodePiece at h
  dsimp only at h
  split at h
  · obtain ⟨q, -, hq⟩ := except_map_eq_ok h
    cases hq
    rfl
  · cases h
    dsimp only
    split <;> rfl

theorem encodePieces_isStore {l : List StorePiece} {seed sd : BitVec 32} {xs : List Access} {r : Raised}
    (h : encodePieces s a lt raw rm sat l seed = .ok (xs, r, sd)) : ∀ x ∈ xs, x.op.isStore = true := by
  induction l generalizing seed sd xs r with
  | nil => cases h; simp
  | cons p l ih =>
    unfold encodePieces at h
    split at h
    · cases h
    · next x r' sd' hp =>
      obtain ⟨q, hq, he⟩ := except_map_eq_ok h
      cases he
      exact List.forall_mem_cons.mpr ⟨encodePiece_isStore hp, ih hq⟩

theorem encodeStore_isStore {l : List StorePiece} {seed sd : BitVec 32} {xs : List Access} {r : Raised}
    (h : encodeStore s a lt raw rm sat l seed = .ok (xs, r, sd)) : ∀ x ∈ xs, x.op.isStore = true := by
  unfold encodeStore at h
  split at h
  · split at h
    · obtain ⟨q, -, hq⟩ := except_map_eq_ok h
      cases hq
      exact List.forall_mem_singleton.mpr rfl
    · exact encodePieces_isStore h
  · cases h; simp

/-! ### The release of a store -/

/-- A property that no release mark changes holds of a store's accesses with and without it. -/
theorem releaseFirst_forall {P : Access → Prop} (hP : ∀ x rel, P x → P { x with rel := rel }) {xs : List Access}
    (h : ∀ x ∈ xs, P x) (rel : Bool) : ∀ x ∈ releaseFirst rel xs, P x := by
  cases xs with
  | nil => exact h
  | cons x xs =>
    obtain ⟨hx, hxs⟩ := List.forall_mem_cons.mp h
    exact List.forall_mem_cons.mpr ⟨hP x rel hx, hxs⟩
theorem releaseFirst_effect (s : State) (rel : Bool) (xs : List Access) :
    (releaseFirst rel xs).foldl storeEffect s = xs.foldl storeEffect s := by
  cases xs <;> rfl
theorem releaseFirst_soundPairs {xs : List Access} (h : SoundPairs s xs) (rel : Bool) : SoundPairs s (releaseFirst rel xs) := by
  cases xs with
  | nil => exact h
  | cons x xs =>
    obtain ⟨hb, hs⟩ := soundPairs_cons h
    intro pre y post bs hx ho
    cases pre with
    | nil => cases hx; exact hb bs ho
    | cons z pre => cases hx; exact hs pre y post bs rfl ho

/-! ### What a vector store leaves -/

theorem storeReady_ok (hs : a.spec s = none) {xs : List Access} (hx : ∀ x ∈ xs, x.op.isStore = true ∧ AtHome s a x) :
    storeReady s a xs = .ok () := by
  have hheld : xs.any (fun x => heldBySubByte s a.core x || x.isLocal a.core && nearKept s a.core a.k) = false := by
    rw [List.any_eq_false]
    intro x hm
    obtain ⟨ho, -, -, -, hsub, hnear⟩ := hx x hm
    have hw : x.writes = true := by
      rw [Access.writes]
      split
      · next e => rw [e] at ho; cases ho
      · rfl
    simp [hsub, hnear hw]
  have hfar : xs.filter (fun x => !x.isLocal a.core) = [] := by
    rw [List.filter_eq_nil_iff]
    exact fun x hm => by simp [(hx x hm).2.1]
  simp [storeReady, hs, hheld, hfar, roomFor]

/-- Stores performed after an instruction's flags and draws. -/
theorem storeNow_flagged (h : AtSlot s a) (hs : a.spec s = none) {xs : List Access}
    (hx : ∀ x ∈ xs, x.op.isStore = true ∧ AtHome s a x) (hp : SoundPairs s xs) (r : Raised) (seed : BitVec 32) :
    ∃ t, storeNow (orFlags (setSeed s a.core seed) a.core r.flags) a xs = .ok t ∧
      LeavesMem s t a (flagged (s.core a.core) r seed) a.x ∧ t.mem = (xs.foldl storeEffect s).mem := by
  have hl := h.leaves.committed r seed
  have hspec := spec_none_of_leaves hl hs rfl
  have hid : a.ident (orFlags (setSeed s a.core seed) a.core r.flags) = a.ident s := by
    rw [Actor.ident, hl.2.2.2]; rfl
  obtain ⟨t, ht, hm, hw⟩ := storeList_runs (u := orFlags (setSeed s a.core seed) a.core r.flags) (s := s) (xs := xs) (a := a)
    rfl (fun _ h => h) (fun x hm => by
      obtain ⟨ho, hloc, hd, hmem, -⟩ := hx x hm
      rw [hid]
      exact ⟨ho, hloc, hd, hmem⟩) hp
  exact ⟨t, by rw [storeNow, hspec]; exact ht, hl.writes hw, hm⟩

/-- The end of a vector store whose pieces are checked and encoded (15 R314; 14 R270). -/
theorem storePieces_ok (h : AtSlot s a) (hs : a.spec s = none) {l : List StorePiece} {xs : List Access} {r : Raised}
    {seed : BitVec 32} (he : encodeStore s a lt raw rm sat l (s.core a.core).seed = .ok (xs, r, seed))
    (hx : ∀ x ∈ xs, AtHome s a x) (hp : SoundPairs s xs) (rel : Bool) :
    match firstCause (s.core a.core).fctl r with
    | some code => storePieces s a lt raw rm sat (releaseFirst rel) (.ok l) = trapAt s code 0
    | none => ∃ t, storePieces s a lt raw rm sat (releaseFirst rel) (.ok l) = .ok (.next t) ∧
        LeavesMem s t a (flagged (s.core a.core) r seed) a.x ∧ t.mem = (xs.foldl storeEffect s).mem := by
  have hxs : ∀ x ∈ releaseFirst rel xs, x.op.isStore = true ∧ AtHome s a x :=
    releaseFirst_forall (P := fun x => x.op.isStore = true ∧ AtHome s a x) (fun _ _ h => h)
      (fun x hm => ⟨encodeStore_isStore he x hm, hx x hm⟩) rel
  have hready := storeReady_ok hs hxs
  split
  · next code hf => simp only [storePieces, he, hready, commitFlags_trap _ _ _ hf, trapAt]
  · next hf =>
    obtain ⟨t, ht, hl, hm⟩ := storeNow_flagged h hs hxs (releaseFirst_soundPairs hp rel) r seed
    rw [releaseFirst_effect] at hm
    exact ⟨t, by simp only [storePieces, he, hready, commitFlags_ok _ _ _ hf, ht, Except.map], hl, hm⟩

/-- A vector store whose queue needs are met and whose source is read (15 R316, R324). -/
theorem storeFlow_eq {us : List QUse} {rel : Bool} {plan : VWord → Except PlanErr (List StorePiece)} {d : VReg} {v : VWord}
    (hq : queuesReady s a us = .ok ()) (hr : released s a rel = .ok ()) (hv : vreg s a d = .ok v) :
    storeFlow s a us rel plan (vreg s a d) lt raw rm sat = storePieces s a lt raw rm sat (releaseFirst rel) (plan v) := by
  rw [storeFlow, (queuesReady_iff.mp hq).1, hr, hq, hv]
  rfl

end

/-! ### The instructions -/

section
variable {s : State} {a : Actor} {f : VmemF} {fs : VstrideF} {fi : VindexF} {idx v : VWord}

/-- A slot whose meaning is that of a vector load. -/
def IsVectorLoad (s : State) (a : Actor) (p : VectorLoad) : Prop :=
  (∃ body, exec p.i s = accessOp s p.g body ∧ body a = vectorLoad s a p.lt p.rm p.sat p.raw p.d p.n p.more p.plan) ∧
    ∀ x ∈ p.plan.1, IsLoad x

theorem exec_vld (h : f.sh = false) : exec (.vld f) s = accessOp s f.g (fun a =>
    vectorLoad s a f.lt f.rm f.sat f.raw f.d f.lt.lanes []
      (onePlan (planElems s a (a.ea f.m) f.lt f.raw f.lt.lanes (rawAlign f.raw f.lt f.lt.lanes) false (fun _ => none)))) := by
  change execVld f s = _
  rw [execVld, shadowableV, h]
  rfl

theorem exec_vlds (h : fs.sh = false) : exec (.vlds fs) s = accessOp s fs.g (fun a =>
    vectorLoad s a fs.lt fs.rm fs.sat fs.raw fs.d 1 []
      (planList (fun i => planElem s a fs.lt fs.raw false (strideVa a fs i)) (List.range fs.lt.lanes))) := by
  change execVlds fs s = _
  rw [execVlds, shadowableV, h]
  rfl

theorem exec_vgath (h : fi.sh = false) : exec (.vgath fi) s = accessOp s fi.g (fun a =>
    withIndex s a fi (regUseOut fi.d) (fun v =>
      vectorLoad s a fi.lt fi.rm fi.sat fi.raw fi.d 1 (regUseIn fi.idx)
        (planList (fun i => planElem s a fi.lt fi.raw true (indexVa a fi v i)) (List.range fi.lt.lanes)))) := by
  change execVgath fi s = _
  rw [execVgath, shadowableV, h]
  rfl

theorem exec_vst (h : f.sh = false) : exec (.vst f) s = accessOp s f.g (fun a =>
    (drawsInOrder s a f.rm).bind (fun _ =>
      storeFlow s a (regUseIn f.d) f.ord.isSome
        (fun v => (planStore s a (a.ea f.m) f.lt f.raw (lanesOf f.lt v) (rawAlign f.raw f.lt f.lt.lanes) (fun _ => none)).map
          (fun p => [p]))
        (vreg s a f.d) f.lt f.raw f.rm f.sat)) := by
  change execVst f s = _
  rw [execVst, shadowableMem, h]
  rfl

theorem exec_vsts (h : fs.sh = false) : exec (.vsts fs) s = accessOp s fs.g (fun a =>
    (drawsInOrder s a fs.rm).bind (fun _ =>
      storeFlow s a (regUseIn fs.d) fs.ord.isSome
        (fun v => planPieces (fun i => planPieceAt s a fs.lt fs.raw (strideVa a fs i) i (lane fs.lt.width v i))
          (List.range fs.lt.lanes))
        (vreg s a fs.d) fs.lt fs.raw fs.rm fs.sat)) := by
  change execVsts fs s = _
  rw [execVsts, shadowableMem, h]
  rfl

theorem exec_vscat (h : fi.sh = false) : exec (.vscat fi) s = accessOp s fi.g (fun a =>
    withIndex s a fi (regUseIn fi.d) (fun x =>
      (drawsInOrder s a fi.rm).bind (fun _ =>
        storeFlow s a (regUseIn fi.d ++ regUseIn fi.idx) fi.ord.isSome
          (fun v => planPieces (fun i => planPieceAt s a fi.lt fi.raw (indexVa a fi x i) i (lane fi.lt.width v i))
            (List.range fi.lt.lanes))
          (vreg s a fi.d) fi.lt fi.raw fi.rm fi.sat))) := by
  change execVscat fi s = _
  rw [execVscat, shadowableMem, h]
  rfl

theorem vectorLoads_isVectorLoad (hf : f.sh = false) (hfs : fs.sh = false) (hfi : fi.sh = false)
    (hv : queuesReady s a (regUseIn fi.idx) = .ok () → vreg s a fi.idx = .ok idx) {p : VectorLoad}
    (hp : p ∈ vectorLoads s a f fs fi idx) (hb : p.i = .vgath fi → outOfBound a fi idx = false)
    (hq : queuesReady s a (regUseOut p.d ++ p.more) = .ok ()) : IsVectorLoad s a p := by
  simp only [vectorLoads, List.mem_cons, List.not_mem_nil, or_false] at hp
  obtain rfl | rfl | rfl := hp
  · exact ⟨⟨_, exec_vld hf, rfl⟩, planList_forall (fun _ _ h => planElems_isLoad h) _⟩
  · exact ⟨⟨_, exec_vlds hfs, rfl⟩, planList_forall (fun _ _ h => planElems_isLoad h) _⟩
  · refine ⟨⟨_, exec_vgath hfi, ?_⟩, planList_forall (fun _ _ h => planElems_isLoad h) _⟩
    rw [withIndex_eq hq (hv (queuesReady_append hq).2), hb rfl]
    rfl

/-- A slot whose meaning is that of a vector store. -/
def IsVectorStore (s : State) (a : Actor) (p : VectorStore) : Prop :=
  ∃ body, exec p.i s = accessOp s p.g body ∧ body a =
    (drawsInOrder s a p.rm).bind (fun _ => storeFlow s a p.us p.rel p.plan (vreg s a p.d) p.lt p.raw p.rm p.sat)

theorem vectorStores_isVectorStore (hf : f.sh = false) (hfs : fs.sh = false) (hfi : fi.sh = false)
    (hv : queuesReady s a (regUseIn fi.idx) = .ok () → vreg s a fi.idx = .ok idx) {p : VectorStore}
    (hp : p ∈ vectorStores s a f fs fi idx) (hb : p.i = .vscat fi → outOfBound a fi idx = false)
    (hq : queuesReady s a p.us = .ok ()) : IsVectorStore s a p := by
  simp only [vectorStores, List.mem_cons, List.not_mem_nil, or_false] at hp
  obtain rfl | rfl | rfl := hp
  · exact ⟨_, exec_vst hf, rfl⟩
  · exact ⟨_, exec_vsts hfs, rfl⟩
  · refine ⟨_, exec_vscat hfi, ?_⟩
    rw [withIndex_eq hq (hv (queuesReady_append hq).2), hb rfl]
    rfl

end

/-! ### What the instructions leave -/

section
variable {s : State} {a : Actor}

/-- The elements of a vector load, from memory as it stands. -/
def VectorLoad.elts (p : VectorLoad) (s : State) : List (Option Elt) :=
  loadedElts p.lt p.raw p.n (p.plan.1.map (fun x => (x, dataAt s x)))

theorem vectorLoad_traps {p : VectorLoad} (hp : IsVectorLoad s a p) (hs : Settled s a) (h : Runs s a p.g)
    (hd : modeOf p.rm (s.core a.core).fctl = .rs → seqIdle a.x = true) (hq : queuesReady s a (regUseOut p.d ++ p.more) = .ok ())
    (hx : ∀ x ∈ p.plan.1, Readable s a x) {c : Cause} (hc : p.plan.2 = some (.cause c)) : Traps p.i s a c.code c.eva := by
  obtain ⟨⟨body, hi, hb⟩, hload⟩ := hp
  exact hi.trans (accessOp_traps h (hb.trans (vectorLoad_cause h.1 hs hd hq (fun x hm => ⟨hload x hm, hx x hm⟩) hc)))

/-- A vector load whose elements are read: a flag that traps, a v register, a slot of the strand's own ring. -/
theorem vectorLoad_result {p : VectorLoad} (hp : IsVectorLoad s a p) (hs : Settled s a) (h : Runs s a p.g)
    (hd : modeOf p.rm (s.core a.core).fctl = .rs → seqIdle a.x = true) (hq : queuesReady s a (regUseOut p.d ++ p.more) = .ok ())
    (hx : ∀ x ∈ p.plan.1, Readable s a x) (hc : p.plan.2 = none) (he : (p.elts s).all (·.isSome) = true)
    {r : List (Nat × Nat) × Raised × BitVec 32} (hr : loadedLanes p.lt p.rm p.sat (p.elts s) (s.core a.core) = r) :
    match firstCause (s.core a.core).fctl r.2.1 with
    | some code => Traps p.i s a code 0
    | none =>
      (∀ d, p.d = .v d → Completes p.i s a (flagged (s.core a.core) r.2.1 r.2.2)
        (nextSlot (slotLanes a.x d p.lt.width r.1) a.pc)) ∧
      (∀ q n, p.d = .q q n → ((s.core a.core).queues.get q).dir ≠ 2 → r.1 ≠ [] →
        let b := (s.core a.core).queues.get q
        let slot := b.slotPa b.base (b.p.toNat + n.toNat - 1)
        let mask := vBytes (r.1.foldl (fun v l => setLane p.lt.width v l.1 (2 ^ p.lt.width - 1)) (0 : VWord))
        ∃ t, exec p.i s = .next t ∧
          LeavesMem s t a (countSlot (untagged (flagged (s.core a.core) r.2.1 r.2.2) slot) a.k) (nextSlot a.x a.pc) ∧
          (∀ j < 16, t.byte (slot + j) =
            if mask.getD j 0 = 0 then s.byte (slot + j) else (vBytes (putLanes p.lt.width 0 r.1)).getD j 0) ∧
          ∀ pa, pa < slot ∨ slot + 16 ≤ pa → t.byte pa = s.byte pa) := by
  obtain ⟨⟨body, hi, hb⟩, hload⟩ := hp
  have hbody := hb.trans (vectorLoad_ok h.1 hs hd hq (fun x hm => ⟨hload x hm, hx x hm⟩) hc he)
  rw [VectorLoad.elts] at hr
  rw [hr] at hbody
  split
  · next code hf =>
    rw [commitFlags_trap _ _ _ hf] at hbody
    exact hi.trans (accessOp_traps h hbody)
  · next hf =>
    rw [commitFlags_ok _ _ _ hf] at hbody
    have hl := h.1.leaves.committed r.2.1 r.2.2
    refine ⟨fun d hdst => ?_, fun q n hdst hdir hne => ?_⟩
    · obtain ⟨t, ht, hlt⟩ := hl.slotLanes d p.lt.width r.1
      rw [hdst] at hbody
      simp only [Except.bind, ht, Except.map] at hbody
      rw [Completes, hi]
      exact accessOp_completes h hbody hlt
    · have hqs : ∀ u, Leaves s u a (flagged (s.core a.core) r.2.1 r.2.2) a.x →
          (u.core a.core).queues = (s.core a.core).queues := fun u hu => by rw [hu.2.2.2]; rfl
      have hw := writeLanes_queue (w := p.lt.width) (n := n) (spec_none_of_leaves hl hs.1 rfl)
        (by rw [hqs _ hl]; exact hdir) hne
      rw [hqs _ hl] at hw
      rw [hdst] at hbody
      simp only [Except.bind, hw, Except.map] at hbody
      obtain ⟨t, ht, htl, htm⟩ := accessOp_writes h hbody (putQueue_leaves hl _)
      obtain ⟨hin, hout⟩ := putQueue_byte (w := p.lt.width) (ls := r.1) hl
        (((s.core a.core).queues.get q).slotPa ((s.core a.core).queues.get q).base
          (((s.core a.core).queues.get q).p.toNat + n.toNat - 1))
      exact ⟨t, hi.trans ht, htl, fun j hj => (byte_of_mem htm _).trans (hin j hj),
        fun pa hpa => (byte_of_mem htm _).trans (hout pa hpa)⟩

theorem vectorStore_body {p : VectorStore} (hp : IsVectorStore s a p) {v : VWord}
    (hd : modeOf p.rm (s.core a.core).fctl = .rs → seqIdle a.x = true) (hr : released s a p.rel = .ok ())
    (hq : queuesReady s a p.us = .ok ()) (hv : vreg s a p.d = .ok v) :
    ∃ body, exec p.i s = accessOp s p.g body ∧
      body a = storePieces s a p.lt p.raw p.rm p.sat (releaseFirst p.rel) (p.plan v) := by
  obtain ⟨body, hi, hb⟩ := hp
  refine ⟨body, hi, ?_⟩
  rw [hb, drawsInOrder_ok hd, Except.bind, storeFlow_eq hq hr hv]

theorem vectorStore_traps {p : VectorStore} (hp : IsVectorStore s a p) (h : Runs s a p.g) {v : VWord}
    (hd : modeOf p.rm (s.core a.core).fctl = .rs → seqIdle a.x = true) (hr : released s a p.rel = .ok ())
    (hq : queuesReady s a p.us = .ok ()) (hv : vreg s a p.d = .ok v) {c : Cause} (hc : p.plan v = .error (.cause c)) :
    Traps p.i s a c.code c.eva := by
  obtain ⟨body, hi, hb⟩ := vectorStore_body hp hd hr hq hv
  rw [hc] at hb
  exact hi.trans (accessOp_traps h hb)

theorem vectorStore_result {p : VectorStore} (hp : IsVectorStore s a p) (hs : Settled s a) (h : Runs s a p.g) {v : VWord}
    (hd : modeOf p.rm (s.core a.core).fctl = .rs → seqIdle a.x = true) (hr : released s a p.rel = .ok ())
    (hq : queuesReady s a p.us = .ok ()) (hv : vreg s a p.d = .ok v) {l : List StorePiece} {xs : List Access} {r : Raised}
    {seed : BitVec 32} (hl : p.plan v = .ok l)
    (he : encodeStore s a p.lt p.raw p.rm p.sat l (s.core a.core).seed = .ok (xs, r, seed)) (hx : ∀ x ∈ xs, AtHome s a x)
    (hsound : SoundPairs s xs) :
    match firstCause (s.core a.core).fctl r with
    | some code => Traps p.i s a code 0
    | none => CompletesStores p.i s a xs (flagged (s.core a.core) r seed) (nextSlot a.x a.pc) := by
  obtain ⟨body, hi, hb⟩ := vectorStore_body hp hd hr hq hv
  have hrun := storePieces_ok h.1 hs.1 he hx hsound p.rel
  rw [hl] at hb
  split
  · next code hf =>
    rw [hf] at hrun
    exact hi.trans (accessOp_traps h (hb.trans hrun))
  · next hf =>
    rw [hf] at hrun
    obtain ⟨t, ht, htl, htm⟩ := hrun
    obtain ⟨w, hw, hwl, hwm⟩ := accessOp_writes h (hb.trans ht) htl
    have hbyte : ∀ q, w.byte q = (xs.foldl storeEffect s).byte q := byte_of_mem (hwm.trans htm)
    exact ⟨w, hi.trans hw, hwl, hbyte, fun q hq =>
      (hbyte q).trans (foldl_byte_out (fun s x hm => storeEffect_byte_out s (hq x hm)) s)⟩

end

/-- Settles O20: each instruction of the lists is a vector load or a vector store (`vectorLoads_isVectorLoad`,
`vectorStores_isVectorStore`); a load takes its elements from memory as it stands (`performAt_readable`), and a store's
pieces are performed in order (`storeList_runs`). -/
theorem vectorMemory : Obligations.VectorMemory := by
  unfold Obligations.VectorMemory
  refine ⟨fun s a f fs fi idx hs hf hfs hfi hv => ⟨fun hb h hq => ?_, fun p hp hb h hd hq hx => ?_⟩,
    fun s a f fs fi idx v hs hf hfs hfi hv => ⟨fun hb h hq => ?_, fun p hp hb h hd hr hq hv' => ?_⟩⟩
  · refine (exec_vgath hfi).trans (accessOp_traps h ?_)
    rw [withIndex_eq hq (hv (queuesReady_append hq).2), if_pos hb]
  · have hload := vectorLoads_isVectorLoad hf hfs hfi hv hp hb hq
    exact ⟨fun c hc => vectorLoad_traps hload hs h hd hq hx hc,
      fun hc he => vectorLoad_result hload hs h hd hq hx hc he rfl⟩
  · refine (exec_vscat hfi).trans (accessOp_traps h ?_)
    rw [withIndex_eq hq (hv (queuesReady_append hq).2), if_pos hb]
  · have hstore := vectorStores_isVectorStore hf hfs hfi hv hp hb hq
    exact ⟨fun c hc => vectorStore_traps hstore h hd hr hq hv' hc,
      fun l xs r seed hl he hx hsound => vectorStore_result hstore hs h hd hr hq hv' hl he hx hsound⟩

end Sys2Proof.Machine
end

section
/-! Requests at their targets: what the target's action leaves, what its source is told, and what sends a flit again or gives it
up (22 R439 to R442, R446; 07 R157, R163, R171; 25 R467). -/

namespace Sys2Proof.Machine

/-! ### A request that is performed -/

section
variable {s t u : State} {n k tag idx : Nat} {f : Flit} {a : Access}

/-- A request returns a result exactly when its slot waits for it. -/
theorem returns_request (hm : f.msg = .request a k tag idx) : f.msg.returns = !a.op.isStore := by
  rw [hm]
  cases h : a.op <;> simp [Msg.returns, AccessOp.isStore, h]

/-- A request that the filter lets through is performed by the event that takes it. -/
theorem Arrives.requestAt {sectors : Bool} {mine : Flit → Access → Bool} (h : Arrives s n f u) (hm : f.msg = .request a k tag idx)
    (hf : mine f a = true) : Machine.requestAt s n sectors mine = performRequest u f a k tag idx := by
  obtain ⟨hn, hd, hr, v, hv, rfl⟩ := h
  simp [Machine.requestAt, takeFlit, hn, hd, hm, hf, hr, hv]

theorem performRequest_store {d : List Byte} (hm : f.msg = .request a k tag idx) (ho : a.op.isStore = true)
    (hp : performAt u f.who a = .ok t d) : performRequest u f a k tag idx = .next (release (markDone t f 0) f) := by
  simp [performRequest, hp, returns_request hm, ho]

/-- The state in which a result is sent: the window remembers an atomic, with the old value, and a store that its slot waits for. -/
def remembered (t : State) (f : Flit) (a : Access) (d : List Byte) : State :=
  match a.op with
  | .atomic _ => markDone t f (BitVec.ofNat 64 (leVal d))
  | .push _ => markDone t f 0
  | _ => t

theorem performRequest_result {d : List Byte} (hm : f.msg = .request a k tag idx) (ho : a.op.isStore = false)
    (hp : performAt u f.who a = .ok t d) :
    performRequest u f a k tag idx = .next (answer (remembered t f a d) f a k tag idx none d) := by
  rw [performRequest, hp, remembered]
  simp only [returns_request hm, ho]
  cases a.op <;> rfl

theorem performRequest_denied_store {c : Code} {line : Option Nat} (hm : f.msg = .request a k tag idx) (ho : a.op.isStore = true)
    (hp : performAt u f.who a = .fail t c line) : performRequest u f a k tag idx =
      .next (answer (release (markDone t f 0) f) f a k 0 0 (some c) (leBytes 16 (line.getD a.pa))) := by
  simp [performRequest, hp, returns_request hm, ho]

theorem performRequest_denied {c : Code} {line : Option Nat} (hm : f.msg = .request a k tag idx) (ho : a.op.isStore = false)
    (hp : performAt u f.who a = .fail t c line) :
    performRequest u f a k tag idx = .next (answer t f a k tag idx (some c) (leBytes 16 (line.getD a.pa))) := by
  simp [performRequest, hp, returns_request hm, ho]

end

/-! ### A sector of a copy (25 R467) -/

section
variable {s : State} {n c key : Nat} {f : Flit} {seq : BitVec 32} {parts : List (Nat × Bool × List Byte)}

theorem exec_requestFlitArrival_sector (hn : s.net[n]? = some f) (hd : deliverable s n f = true) (hr : revokedFlit s f = false)
    (hm : f.msg = .sector c seq key parts) : exec (.requestFlitArrival n) s =
      .next (sectorArrives { s with net := s.net.eraseIdx n } f.who c seq key parts) := by
  change requestAt s n true _ = _
  simp [requestAt, takeFlit, hn, hd, hm, hr]

theorem sectorArrives_admitted {id : Ident} (h : ∀ q ∈ parts, s.admits q.1 q.2.1 id .wr = true) :
    sectorArrives s id c seq key parts = sectorDone (writeParts s id parts) c seq key none := by
  have hq : parts.find? (fun q => !s.admits q.1 q.2.1 id .wr) = none := by simpa using h
  rw [sectorArrives, hq]

theorem sectorArrives_denied {id : Ident} {q : Nat × Bool × List Byte}
    (h : parts.find? (fun q => !s.admits q.1 q.2.1 id .wr) = some q) :
    sectorArrives s id c seq key parts = sectorDone (s.countDenial q.1 id.part) c seq key (some cDeny) := by
  rw [sectorArrives, h]

end

/-! ### Flits sent again, given up, told to come again, too old (22 R439 to R442) -/

section
variable {s : State} {n : Nat} {x : Kept} {f : Flit}

/-- A flit waits at a link of its package or is in a frame on its way. -/
def OnLink (s : State) (f : Flit) (p : Nat) : Prop :=
  ((s.link (pkgOf f.src) p).waiting.any (·.same f) ||
    (s.link (pkgOf f.src) p).inFlight.any (fun g => g.2.any (·.same f))) = true

theorem giveUp_kept (s : State) (x : Kept) : (giveUp s x).kept = s.kept.filter (fun y => y != x) := by
  rw [giveUp]
  dsimp only
  split <;> rfl
theorem giveUp_net (s : State) (x : Kept) : (giveUp s x).net = s.net := by
  rw [giveUp]
  dsimp only
  split <;> rfl

theorem exec_flitResend_late (hx : s.kept[n]? = some x) (hl : x.last + 18000 ≤ s.now)
    (ht : x.first + remoteLimit s x.flit.src ≤ s.now) : exec (.flitResend n) s = .next (giveUp s x) := by
  change execFlitResend n s = _
  simp only [execFlitResend, hx, resendAfter]
  rw [if_neg (by omega), if_pos ht]

theorem exec_flitResend_waits (hx : s.kept[n]? = some x) (hl : x.last + 18000 ≤ s.now)
    (ht : s.now < x.first + remoteLimit s x.flit.src) (hp : ∃ p < 16, OnLink s x.flit p) : exec (.flitResend n) s =
      .next { s with kept := s.kept.map (fun y => if y = x then { x with last := s.now } else y) } := by
  change execFlitResend n s = _
  simp only [execFlitResend, hx, resendAfter]
  rw [if_neg (by omega), if_neg (by omega), if_pos]
  obtain ⟨p, h16, hp⟩ := hp
  exact List.any_eq_true.mpr ⟨p, List.mem_range.mpr h16, hp⟩

theorem exec_flitResend_sent (hx : s.kept[n]? = some x) (hl : x.last + 18000 ≤ s.now)
    (ht : s.now < x.first + remoteLimit s x.flit.src) (hp : ∀ p < 16, ¬ OnLink s x.flit p) : exec (.flitResend n) s =
      .next { s with
        net := insertFlit { x.flit with sent := s.now } (s.net.filter (fun g => !g.same { x.flit with sent := s.now }))
        kept := s.kept.map (fun y => if y = x then { x with last := s.now } else y) } := by
  change execFlitResend n s = _
  simp only [execFlitResend, hx, resendAfter]
  rw [if_neg (by omega), if_neg (by omega), if_neg]
  rw [List.any_eq_true]
  rintro ⟨p, h16, h⟩
  exact hp p (List.mem_range.mp h16) h

theorem exec_retryResponse {c target seq : Nat} (hn : s.net[n]? = some f) (hd : deliverable s n f = true) (hc : f.dst = .core c)
    (hm : f.msg = .retry target seq) : exec (.retryResponse n) s =
      .next (if revokedFlit s f then countDest { s with net := s.net.eraseIdx n } f.dst 0x34 f.who.part
        else { s with
          net := s.net.eraseIdx n
          kept := s.kept.map (fun x => if x.flit.src = c ∧ x.flit.dst.key = target ∧ x.flit.seq.toNat = seq then
            { x with last := s.now } else x) }) := by
  change execRetryResponse n s = _
  simp only [execRetryResponse, takeFlit, hn, hd, if_true, hm, hc]
  split <;> rfl

/-- The state after a flit that is too old has left the fabric, counted at the port of its destination. -/
def aged (s : State) (n : Nat) (f : Flit) : State :=
  { s with net := s.net.eraseIdx n }.countPort f.dst.pkg (f.dst.die % 4) 0x32 1 (some f.who.part)

theorem exec_flitAgeDiscard_young (hn : s.net[n]? = some f) (h : s.now < f.sent + 90000) : exec (.flitAgeDiscard n) s = .next s := by
  change execFlitAgeDiscard n s = _
  have he : f.expired s.now = false := decide_eq_false (by rw [flightLimit]; omega)
  simp only [execFlitAgeDiscard, hn, he, Bool.false_eq_true, if_false]

theorem expired_of_le (h : f.sent + 90000 ≤ s.now) : f.expired s.now = true := decide_eq_true h

theorem exec_flitAgeDiscard_sector {c key : Nat} {seq : BitVec 32} {parts : List (Nat × Bool × List Byte)}
    (hn : s.net[n]? = some f) (h : f.sent + 90000 ≤ s.now) (hm : f.msg = .sector c seq key parts) :
    exec (.flitAgeDiscard n) s = .next (sectorDone (aged s n f) c seq key (some cLinkDown)) := by
  change execFlitAgeDiscard n s = _
  simp only [execFlitAgeDiscard, hn, expired_of_le h, if_true, hm, aged]

theorem exec_flitAgeDiscard_other (hn : s.net[n]? = some f) (h : f.sent + 90000 ≤ s.now)
    (hm : ∀ c seq key parts, f.msg ≠ .sector c seq key parts) : exec (.flitAgeDiscard n) s = .next (aged s n f) := by
  change execFlitAgeDiscard n s = _
  simp only [execFlitAgeDiscard, hn, expired_of_le h, if_true, aged]

theorem exec_duplicateWindowRelease {key : Nat} {w : Window} (hw : s.windows[n]? = some (key, some w)) :
    exec (.duplicateWindowRelease n) s = .next
      (if w.last + orDefault (((s.partCfg (key % 2 ^ 40 / 4 / 65536) w.part).map (·.remto)).getD 0) Config.remoteTimeout + 90000 < s.now
        then { s with windows := smErase s.windows key } else s) := by
  change execDuplicateWindowRelease n s = _
  simp only [execDuplicateWindowRelease, hw, flightLimit]
  exact (apply_ite _ _ _ _).symm

end

/-- Settles O49: a request that the filter lets through is performed at its target by whichever event takes it
(`Arrives.requestAt`), and each event of the fabric is given by its equation. -/
theorem requests : Obligations.Requests := by
  unfold Obligations.Requests
  refine ⟨fun s u n f a k tag idx h hm => ?_, fun s n f c key seq parts hn hd hr hm => ⟨fun ha => ?_, fun q hq => ?_⟩,
    fun s n x hx hl => ⟨fun ht => ?_, fun ht hp => ?_, fun ht hp => ?_⟩,
    fun s n c target seq f hn hd hc hm => exec_retryResponse hn hd hc hm,
    fun s n f hn => ⟨exec_flitAgeDiscard_young hn, fun ho =>
      ⟨fun c seq key parts hm => exec_flitAgeDiscard_sector hn ho hm, exec_flitAgeDiscard_other hn ho⟩⟩,
    fun s n key w hw => exec_duplicateWindowRelease hw⟩
  · intro home reply performed
    have key : ∀ i, exec i s = performRequest u f a k tag idx → performed i := fun i hi =>
      ⟨fun t d hp => ⟨fun ho => hi.trans (performRequest_store hm ho hp),
        fun m p ho => hi.trans ?_, fun b ho => hi.trans ?_, fun x ho => hi.trans ?_⟩,
       fun t c line hp => ⟨fun ho => hi.trans (performRequest_denied_store hm ho hp),
        fun ho => hi.trans (performRequest_denied hm ho hp)⟩⟩
    · exact ⟨fun ho => key _ (h.requestAt hm ho), fun ho hh hw => key _ (h.requestAt hm (by simp [ho, hh, hw])),
        fun ho hh hw hc => key _ (h.requestAt hm (by simp [ho, hh, hw, hc]))⟩
    all_goals
      rw [performRequest_result hm (by rw [ho]; rfl) hp, remembered, ho]
      rfl
  · rw [exec_requestFlitArrival_sector hn hd hr hm, sectorArrives_admitted ha]
  · rw [exec_requestFlitArrival_sector hn hd hr hm, sectorArrives_denied hq]
  · exact ⟨_, exec_flitResend_late hx hl ht, giveUp_kept s x, giveUp_net s x⟩
  · exact exec_flitResend_sent hx hl ht (fun p h16 => Bool.eq_false_iff.mp (hp p h16))
  · exact exec_flitResend_waits hx hl ht hp

end Sys2Proof.Machine
end

section
/-! What comes back to a strand: answers, denials, and the timeouts of its waits (07 R144, R157, R158; 14 R295; 15 R319; 28
R486). -/

namespace Sys2Proof.Machine

/-! ### Answers (22 R440; 07 R144) -/

section
variable {s : State} {n c k tag idx : Nat} {f : Flit} {a : Access} {cause : Option Code} {data : List Byte}

/-- The state in which a core takes a response. -/
def responded (s : State) (n : Nat) (f : Flit) : State := noteDelivery { s with net := s.net.eraseIdx n } f

theorem responded_strand (s : State) (n : Nat) (f : Flit) (c k : Nat) : (responded s n f).strand c k = s.strand c k := by
  obtain ⟨p, d, h⟩ := noteDelivery_eq { s with net := s.net.eraseIdx n } f
  rw [responded, h]
  rfl

theorem exec_remoteAccessResponse (hn : s.net[n]? = some f) (hd : deliverable s n f = true) (hr : revokedFlit s f = false)
    (hc : f.dst = .core c) (hm : f.msg = .response a k tag idx cause data) (ho : a.op.isStore = false) (h : HostAnswer) :
    exec (.remoteAccessResponse n h) s = .next (takeAnswer (responded s n f) c k tag idx cause data) := by
  change execRemoteAccessResponse n h s = _
  simp [execRemoteAccessResponse, takeFlit, hn, hd, hm, hc, ho, hr, responded]

/-- An answer that has been taken leaves no request of its own that is still to return. -/
theorem takeAnswer_kept {q : Kept} {b : Access} (hq : q ∈ (takeAnswer s c k tag idx cause data).kept) (hs : q.flit.src = c)
    (hm : q.flit.msg = .request b k tag idx) : q.flit.msg.returns = false := by
  rw [takeAnswer, State.modStrand_kept] at hq
  obtain ⟨-, hf⟩ := List.mem_filter.mp hq
  simpa [hs, hm] using hf

/-- An answer changes nothing of its strand but what waits for it. -/
theorem takeAnswer_strand {x : Strand} (hx : s.strand c k = some x) :
    (takeAnswer s c k tag idx cause data).strand c k =
      some { x with prog := x.prog.got tag idx cause data, eprog := x.eprog.got tag idx cause data } := by
  refine (congrArg (fun t => State.strand t c k) (State.modStrand_some _ c k _ x ?_)).trans (State.setStrand_strand_self _ _ _ _)
  exact hx

theorem got_gather {accs : List Access} {got : List (Nat × Option Code × List Byte)} {fail : Option (Cause × Option Nat)}
    (h : got.any (fun g => g.1 == idx) = false) : (Prog.gather tag accs got fail).got tag idx cause data =
      .gather tag accs (got ++ [(idx, cause, data)]) fail := by
  simp [Prog.got, h]

end

/-! ### Denied stores (07 R157) -/

section
variable {s : State} {n c k tag idx : Nat} {f : Flit} {a : Access} {code : Code} {data : List Byte} {x : Strand}

theorem exec_storeDenialResponse (hn : s.net[n]? = some f) (hd : deliverable s n f = true) (hr : revokedFlit s f = false)
    (hc : f.dst = .core c) (hm : f.msg = .response a k tag idx (some code) data) (ho : a.op.isStore = true) :
    exec (.storeDenialResponse n) s = .next (storeDenied (responded s n f) c k f.who a code data) := by
  change execStoreDenialResponse n s = _
  simp [execStoreDenialResponse, takeFlit, hn, hd, hm, hc, ho, hr, responded]

/-- The first denial stays with the strand until a release takes it. -/
theorem storeDenied_strand (who : Ident) (hx : s.strand c k = some x) (h : code ≠ cReservedFormat) :
    (storeDenied s c k who a code data).strand c k = some { x with
      denial := if x.denial.isSome then x.denial else some { code := code, eva := homeEva a code (lineIn data) } } := by
  rw [storeDenied, if_neg (fun e => h e.1), State.strand, (KeepsUnits.postFault _ _ _).core]
  exact (State.modStrand_some _ _ _ _ x hx ▸ State.setStrand_strand_self _ _ _ _)

/-- A pair of 0xFF at the executor parks the core (log 57). -/
theorem storeDenied_reserved (who : Ident) (hx : s.strand c k = some x) :
    storeDenied s c k who a cReservedFormat data = s.setStrand c k
      { x with pending := some { cls := .t, cause := { code := cReservedFormat, eva := 0 }, epc := x.pc, vpc := 0 } } := by
  rw [storeDenied, if_pos ⟨rfl, by rw [hx]; rfl⟩, State.modStrand_some _ _ _ _ x hx]

end

/-! ### Accesses of a host window (28 R486) -/

/-- The host has bytes for a request that returns data, or another answer. -/
def hostFits (h : HostAnswer) (f : Flit) (a : Access) : Prop :=
  match h with
  | .data b => f.msg.returns = true → a.bytes ≤ b.length
  | _ => True

theorem exec_remoteAccessResponse_host {s : State} {n k tag idx : Nat} {f : Flit} {a : Access}
    (hn : s.net[n]? = some f) (hd : deliverable s n f = true) (hm : f.msg = .request a k tag idx) (ho : a.host.isSome = true)
    (hp : (uePort s f.dst.die).isSome = true) (h : HostAnswer) (hh : hostFits h f a) : exec (.remoteAccessResponse n h) s =
      .next (hostAnswered { s with net := s.net.eraseIdx n } f a k tag idx h) := by
  change execRemoteAccessResponse n h s = _
  have hw : (a.host.isNone || (uePort s f.dst.die).isNone) = false := by
    rw [← Option.not_isSome, ← Option.not_isSome, ho, hp]; rfl
  simp only [execRemoteAccessResponse, takeFlit, hn, hd, if_true, hm, hw, Bool.false_eq_true, if_false]
  cases h with
  | data b =>
    have hb : ¬ ((decide (b.length < a.bytes) && (Msg.request a k tag idx).returns) = true) := by
      rw [Bool.and_eq_true, decide_eq_true_eq]
      rintro ⟨hl, hr⟩
      have := hh (hm ▸ hr)
      omega
    exact if_neg hb
  | done => rfl
  | refusal => rfl

section
variable {s : State} {f : Flit} {a : Access} {k tag idx : Nat}

theorem hostAnswered_data {b : List Byte} (h : f.msg.returns = true) : hostAnswered s f a k tag idx (.data b) =
    takeAnswer s f.src k tag idx none (b.take a.bytes) := if_pos h
theorem hostAnswered_done (h : f.msg.returns = true) : hostAnswered s f a k tag idx .done =
    takeAnswer s f.src k tag idx (if a.writes then none else some cHostWindow) [] := by
  rw [hostAnswered, h]; rfl
theorem hostAnswered_done_store (h : f.msg.returns = false) : hostAnswered s f a k tag idx .done = release s f := by
  rw [hostAnswered, h]; rfl
theorem hostAnswered_refusal (h : f.msg.returns = true) : hostAnswered s f a k tag idx .refusal =
    takeAnswer s f.src k tag idx (some cHostWindow) [] := if_pos h
theorem hostAnswered_refusal_store (h : f.msg.returns = false) : hostAnswered s f a k tag idx .refusal =
    storeDenied (release s f) f.src k f.who a cHostWindow [] := by
  rw [hostAnswered, h]; rfl
end

/-! ### Timeouts (07 R158; 14 R300; 15 R319) -/

section
variable {s : State} {c k : Nat} {x : Strand}

/-- A slot or entry whose loads have waited past the remote timeout. -/
def Late (s : State) (c : Nat) (w : Option Wait) (p : Prog) : Prop :=
  ∃ v, w = some v ∧ v.kind = .response ∧ v.since + remoteLimit s c ≤ s.now ∧ p.unanswered = true

theorem late_iff (s : State) (c : Nat) (w : Option Wait) (p : Prog) : Late s c w p ↔
    (w.any (fun q => q.kind == .response && decide (q.since + remoteLimit s c ≤ s.now)) && p.unanswered) = true := by
  cases w <;> simp [Late, and_assoc]

/-- What the remote timeout leaves of a slot's or an entry's attempt. -/
def expiredProg (late : Bool) (p : Prog) : Prog := if late then p.expire cRemoteTimeout else p

theorem exec_remoteTimeout (hx : s.strand c k = some x) {a e : Bool} (ha : Late s c x.wait x.prog ↔ a = true)
    (he : Late s c x.ewait x.eprog ↔ e = true) (hae : (a || e) = true) : ∃ q, exec (.remoteTimeout c k) s =
      .next { s.setStrand c k { x with prog := expiredProg a x.prog, eprog := expiredProg e x.eprog } with kept := q } := by
  rw [late_iff, ← Bool.eq_iff_iff] at ha he
  change ∃ q, execRemoteTimeout c k s = _
  simp only [execRemoteTimeout, hx, ha, he, hae]
  exact ⟨_, rfl⟩

theorem mem_expired {accs : List Access} {got : List (Nat × Option Code × List Byte)} {i : Nat} (hi : i < accs.length)
    (h : got.any (fun g => g.1 == i) = false) : (i, some cRemoteTimeout, []) ∈
      ((List.range accs.length).filter (fun i => !got.any (fun g => g.1 == i))).map
        (fun i => ((i, some cRemoteTimeout, []) : Nat × Option Code × List Byte)) :=
  List.mem_map.mpr ⟨i, List.mem_filter.mpr ⟨List.mem_range.mpr hi, by rw [h]; rfl⟩, rfl⟩

section
variable {since : Nat} {va : BitVec 128} {w : Wait}

theorem awaits_of_stage (hp : x.prog = .stage since va) (hw : x.wait = some w) (hk : w.kind = .gather) : awaits x = true := by
  rw [awaits, hp, hw]
  exact beq_iff_eq.mpr hk

theorem exec_awaitRewalk (hx : s.strand c k = some x) (hp : x.prog = .stage since va) (hw : x.wait = some w)
    (hk : w.kind = .gather) (hd : since + 1024 ≤ s.now) :
    exec (.awaitRewalk c k) s = .next (s.setStrand c k { x with prog := .none }) := by
  change execAwaitRewalk c k s = _
  simp only [execAwaitRewalk, hx, awaits_of_stage hp hw hk, hp]
  simp [hd]

theorem exec_pageWaitTimeout (hx : s.strand c k = some x) (hp : x.prog = .stage since va) (hw : x.wait = some w)
    (hk : w.kind = .gather) (hd : w.since + pageLimit s c < s.now) (hh : (s.core c).halt = .none) :
    exec (.pageWaitTimeout c k) s = .next (raise s c k .t { code := cNotPresent, eva := va.setWidth 72 } x.pc 0) := by
  change execPageWaitTimeout c k s = _
  simp only [execPageWaitTimeout, hx, awaits_of_stage hp hw hk, hp, hw]
  simp [hd, hh]

end

section
variable {w : Wait} (hx : s.strand c k = some x) (hl : queueLimit s c ≠ 0) (hh : (s.core c).halt = .none) (hp : x.pending = none)
include hx hl hh hp

theorem exec_queueWaitTimeout_slot (hw : x.wait = some w) (hk : w.kind = .queue) (hd : w.since + queueLimit s c < s.now) :
    exec (.queueWaitTimeout c k) s = .next (raise s c k .t { code := cQueueTimeout, eva := 0 } x.pc 0) := by
  change execQueueWaitTimeout c k s = _
  simp [execQueueWaitTimeout, hx, hl, hh, hp, hw, hk, hd]

theorem exec_queueWaitTimeout_entry {e : SeqEntry} (hn : x.wait = none) (hw : x.ewait = some w) (hk : w.kind = .queue)
    (hd : w.since + queueLimit s c < s.now) (he : seqHead x.seq = some e) :
    exec (.queueWaitTimeout c k) s = .next (raise s c k .v { code := cQueueTimeout, eva := 0 } x.pc e.pc) := by
  change execQueueWaitTimeout c k s = _
  simp [execQueueWaitTimeout, hx, hl, hh, hp, hn, hw, hk, hd, he]

end

end

/-- Settles O50: an answer is what its strand waits for (`takeAnswer_strand`), a denial stays with its strand
(`storeDenied_strand`), and each timeout is given by its event's equation. -/
theorem answersAndTimeouts : Obligations.AnswersAndTimeouts := by
  unfold Obligations.AnswersAndTimeouts
  refine ⟨fun s n c k tag idx f a cause data h hn hd hr hc hm => ⟨fun ho => ⟨?_, ?_, fun x hx => ?_⟩,
      fun code ho hcause => ⟨fun hne => ?_, fun x he hx => ?_⟩⟩,
    fun s n k tag idx f a h hn hd hm ho hp => ⟨?_, ?_, ?_, ?_, ?_⟩,
    fun s c k x hx => ⟨⟨fun hl he => ?_, fun he hl => ?_, fun hl he => ?_⟩, fun tag accs got fail i hg hi hn => ?_,
      fun since va w hp hw hk => ⟨exec_awaitRewalk hx hp hw hk, exec_pageWaitTimeout hx hp hw hk⟩,
      fun hl hh hp => ⟨fun w => exec_queueWaitTimeout_slot hx hl hh hp, fun w e => exec_queueWaitTimeout_entry hx hl hh hp⟩⟩⟩
  · exact exec_remoteAccessResponse hn hd hr hc hm ho h
  · exact fun q hq b hs hb => takeAnswer_kept hq hs hb
  · refine ⟨_, takeAnswer_strand ((responded_strand s n f c k).trans hx), rfl, rfl, fun accs got fail hp hg => ?_,
      fun accs got fail hp hg => ?_⟩
    · dsimp only
      rw [hp, got_gather hg]
    · dsimp only
      rw [hp, got_gather hg]
  · subst hcause
    exact ⟨_, exec_storeDenialResponse hn hd hr hc hm ho,
      fun x hx => storeDenied_strand f.who ((responded_strand s n f c k).trans hx) hne⟩
  · subst hcause he
    rw [exec_storeDenialResponse hn hd hr hc hm ho, storeDenied_reserved f.who ((responded_strand s n f c k).trans hx)]
    rfl
  · rintro b rfl hr hb
    rw [exec_remoteAccessResponse_host hn hd hm ho hp (.data b) (fun _ => hb), hostAnswered_data hr]
  · rintro rfl hr
    rw [exec_remoteAccessResponse_host hn hd hm ho hp .done trivial, hostAnswered_done_store hr]
  · rintro rfl hr
    rw [exec_remoteAccessResponse_host hn hd hm ho hp .done trivial, hostAnswered_done hr]
  · rintro rfl hr
    rw [exec_remoteAccessResponse_host hn hd hm ho hp .refusal trivial, hostAnswered_refusal hr]
  · rintro rfl hr
    rw [exec_remoteAccessResponse_host hn hd hm ho hp .refusal trivial, hostAnswered_refusal_store hr]
  · obtain ⟨q, hq⟩ := exec_remoteTimeout hx (iff_of_true hl rfl) (e := false) (iff_of_false he (by decide)) rfl
    exact ⟨_, hq, State.setStrand_strand_self _ _ _ _, rfl, fun j i => State.setStrand_strand_ne _ _ _ _ _ _⟩
  · obtain ⟨q, hq⟩ := exec_remoteTimeout hx (a := false) (iff_of_false hl (by decide)) (iff_of_true he rfl) rfl
    exact ⟨_, hq, State.setStrand_strand_self _ _ _ _, rfl, fun j i => State.setStrand_strand_ne _ _ _ _ _ _⟩
  · obtain ⟨q, hq⟩ := exec_remoteTimeout hx (iff_of_true hl rfl) (iff_of_true he rfl) rfl
    exact ⟨_, hq, rfl, fun j i => State.setStrand_strand_ne _ _ _ _ _ _, State.setStrand_strand_self _ _ _ _⟩
  · exact ⟨_, by rw [hg]; rfl, mem_expired hi hn⟩

end Sys2Proof.Machine
end

section
/-! An access at its home, and the checks of a scalar access in their order (07 R148, R149, R156 to R158, R160; 15 R321; 26
R477). -/

namespace Sys2Proof.Machine

/-! ### Bytes that are read and stored -/

section
variable {s : State}

theorem readBytes_getD (s : State) (pa : Nat) {n j : Nat} (h : j < n) : (readBytes s pa n).getD j 0 = s.byte (pa + j) := by
  rw [List.getD_eq_getElem _ _ (by simpa using h), readBytes_getElem]

/-- Memory after the bytes `b` are stored at `pa`. -/
def stored (s : State) (pa : Nat) (b : List Byte) : State := clearPoison (writeBytes s pa b) pa b.length

theorem stored_onlyWrites (s : State) (pa : Nat) (b : List Byte) : OnlyWrites s (stored s pa b) :=
  (OnlyWrites.writeBytes _ _ _).trans (.clearPoison _ _ _)
theorem stored_byte_in (s : State) (pa : Nat) {b : List Byte} {j : Nat} (h : j < b.length) :
    (stored s pa b).byte (pa + j) = b.getD j 0 := by
  rw [stored, byte_of_mem (clearPoison_mem _ _ _), writeBytes_byte_in _ _ _ _ h, List.getD_eq_getElem _ _ h]
theorem stored_byte_out (s : State) {pa q : Nat} {b : List Byte} (h : q < pa ∨ pa + b.length ≤ q) :
    (stored s pa b).byte q = s.byte q := by
  rw [stored, byte_of_mem (clearPoison_mem _ _ _), writeBytes_byte_out _ _ _ _ h]
theorem readU_stored (s : State) (pa n v : Nat) : readU (stored s pa (leBytes n v)) pa n = v % 2 ^ (8 * n) := by
  have hr := readBytes_writeBytes (leBytes n v) s pa
  rw [leBytes_length] at hr
  rw [readU, stored, readBytes_of_mem (clearPoison_mem _ _ _), hr, leVal_leBytes, Nat.pow_mul]

end

/-! ### An access at its home (07 R156, R157; 26 R477) -/

section
variable {s : State} {id : Ident} {x : Access}

theorem performAt_denied {pa : Nat} (hd : s.deniedAt id x = some pa) :
    performAt s id x = .fail (s.countDenial pa id.part) cDeny (some pa) := by
  rw [performAt, hd]

variable (hm : (siteOf x.pa x.geom2).isMemory = true) (hd : s.deniedAt id x = none)
include hm hd

theorem performAt_load {n : Nat} (ho : x.op = .load n none) (hp : s.poisoned x.pa n = none) :
    performAt s id x = .ok s (readBytes s x.pa n) := by
  rw [performAt, hd, ho]
  exact targetLoad_memory hm hp

theorem performAt_load_poisoned {n l : Nat} (ho : x.op = .load n none) (hp : s.poisoned x.pa n = some l) :
    performAt s id x = .fail s cPoison (some l) := by
  rw [performAt, hd, ho]
  exact (if_pos hm).trans (by rw [hp])

theorem performAt_store_memory {b : List Byte} (ho : x.op = .store b) : performAt s id x = .ok (stored s x.pa b) [] := by
  rw [performAt, hd, ho]
  exact if_pos hm

section
variable {m : Atomic} (ho : x.op = .atomic m) (hp : s.poisoned x.pa m.len = none)
include ho hp

theorem performAt_atomic {v : Nat} (hv : atomicNew m (readU s x.pa m.len) = some v) :
    performAt s id x = .ok (stored s x.pa (leBytes m.len v)) (readBytes s x.pa m.len) := by
  rw [readU] at hv
  simp only [performAt, hd, ho, targetLoad_memory hm hp, hv, targetStore, hm, if_true]
  rfl

theorem performAt_atomic_none (hv : atomicNew m (readU s x.pa m.len) = none) :
    performAt s id x = .ok s (readBytes s x.pa m.len) := by
  rw [readU] at hv
  simp only [performAt, hd, ho, targetLoad_memory hm hp, hv]

end

end

/-! ### The checks of one access, in their order (07 R158) -/

section
variable {s : State} {a : Actor} {va : Word} {n align : Nat} {want : Want} {page : Bool} {rule : Leaf → Option Code} {x : Leaf}

theorem planOne_misaligned (hw : tileWaits a va.toNat n = false) (ha : va.toNat % align ≠ 0) :
    planOne s a va n align want page rule = planErr cMisaligned va := by
  simp [planOne, hw, ha]

variable (hw : tileWaits a va.toNat n = false) (ha : va.toNat % align = 0)
include hw ha

theorem planOne_absent {w : Bool} (hl : s.leafFor a.core va = .absent w) :
    planOne s a va n align want false rule = planErr cNotPresent va := by
  simp [planOne, hw, ha, hl]

variable (hl : s.leafFor a.core va = .leaf x)
include hl

theorem planOne_permission (hp : x.permits (a.x.prio == 3) want = false) :
    planOne s a va n align want page rule = planErr cPermission va := by
  simp only [planOne, hw, ha, hl, hp, ne_eq, not_true, Bool.not_false, Bool.true_or, Bool.false_eq_true, if_true, if_false]

variable (hp : x.permits (a.x.prio == 3) want = true) (hwant : (want == .amo) = false)
include hp hwant

theorem planOne_format (hf : x.fmtOk = false) : planOne s a va n align want page rule = planErr cFormat va := by
  simp only [planOne, hw, ha, hl, hp, hwant, hf, ne_eq, not_true, Bool.not_true, Bool.not_false, Bool.and_false, Bool.or_self,
    Bool.false_eq_true, if_true, if_false]

theorem planOne_rule {c : Code} (hf : x.fmtOk = true) (hr : rule x = some c) :
    planOne s a va n align want page rule = planErr c va := by
  simp only [planOne, hw, ha, hl, hp, hwant, hf, hr, ne_eq, not_true, Bool.not_true, Bool.and_false, Bool.or_self,
    Bool.false_eq_true, if_false]

end

/-- A format that R123 to R125 do not list, or a page that is not raw under an access without .raw, is refused (07 R160). -/
theorem fmtOk_or_ruleRaw {x : Leaf} {raw : Bool} (h : fmtBits x.fmt = none ∨ 2 < x.geom ∨ (x.fmt ≠ 0 ∧ raw = false)) :
    x.fmtOk = false ∨ ruleRaw raw x = some cFormat := by
  obtain h | h | ⟨h, rfl⟩ := h
  · exact .inl (by simp [Leaf.fmtOk, h])
  · exact .inl (by simp [Leaf.fmtOk, h])
  · exact .inr (by simp [ruleRaw, h])

/-- The right that a load or a store asks of its page. -/
def Leaf.allows (x : Leaf) : Want → Bool
  | .rd => x.r
  | _ => x.w

theorem permits_eq (x : Leaf) (sup : Bool) {want : Want} (h : want = .rd ∨ want = .wr) :
    x.permits sup want = (!(x.w && x.x) && (x.u || sup) && x.allows want) := by
  obtain rfl | rfl := h <;> rfl

section
variable {s : State} {a : Actor} {va : Word} {n align : Nat} {want : Want} {raw : Bool} {x : Leaf}
  (hw : tileWaits a va.toNat n = false) (ha : va.toNat % align = 0) (hl : s.leafFor a.core va = .leaf x)
  (hwant : want = .rd ∨ want = .wr)
include hw ha hl hwant

theorem planOne_scalar_permission
    (h : x.allows want = false ∨ (x.u = false ∧ a.x.prio ≠ 3) ∨ (x.w = true ∧ x.x = true)) :
    planOne s a va n align want false (ruleRaw raw) = planErr cPermission va := by
  refine planOne_permission hw ha hl ?_
  rw [permits_eq x _ hwant]
  obtain h | ⟨h, h'⟩ | ⟨h, h'⟩ := h
  · rw [h, Bool.and_false]
  · rw [h, beq_eq_false_iff_ne.mpr h']
    simp
  · rw [h, h']
    rfl

theorem planOne_scalar_format (hr : x.allows want = true) (hu : x.u = true ∨ a.x.prio = 3) (hx : ¬ (x.w = true ∧ x.x = true))
    (h : fmtBits x.fmt = none ∨ 2 < x.geom ∨ (x.fmt ≠ 0 ∧ raw = false)) :
    planOne s a va n align want false (ruleRaw raw) = planErr cFormat va := by
  have hp : x.permits (a.x.prio == 3) want = true := by
    rw [permits_eq x _ hwant, hr, Bool.and_true, Bool.and_eq_true, Bool.or_eq_true, beq_iff_eq, Bool.not_eq_true',
      ← Bool.not_eq_true, Bool.and_eq_true]
    exact ⟨hx, hu⟩
  have hne : (want == .amo) = false := by obtain rfl | rfl := hwant <;> rfl
  cases hf : x.fmtOk with
  | false => exact planOne_format hw ha hl hp hne hf
  | true =>
    obtain h | h := fmtOk_or_ruleRaw h
    · exact absurd (hf.symm.trans h) (by decide)
    · exact planOne_rule hw ha hl hp hne hf h

end

/-! ### LD and ST -/

section
variable {s : State} {a : Actor} {f : LdF} {fs : StF} {c : Cause}

theorem queuesReady_nil (s : State) (a : Actor) : queuesReady s a [] = .ok () := queuesReady_iff.mpr ⟨rfl, fun _ h => by cases h⟩

/-- The checks of a scalar load. -/
def ldPlan (s : State) (a : Actor) (f : LdF) : Except PlanErr Leaf :=
  planOne s a (a.ea f.m) (mwBytes f.w) (mwBytes f.w) .rd false (ruleRaw f.raw)
/-- The checks of a scalar store. -/
def stPlan (s : State) (a : Actor) (f : StF) : Except PlanErr Leaf :=
  planOne s a (a.ea f.m) (mwBytes f.w) (mwBytes f.w) .wr false (ruleRaw f.raw)

theorem exec_ld (h : f.sh = false) : exec (.ld f) s = accessOp s f.g (fun a =>
    (loadFlow s a [] (onePlan ((ldPlan s a f).map (fun x => mkAccess x (a.ea f.m) (.load (mwBytes f.w) none))))).map
      (fun r => .next (setReg r.1 a f.d (ldValue f.w f.z ((r.2.head?.map (·.2)).getD []))))) := by
  change execLd f s = _
  rw [execLd, shadowableMem, h]
  rfl

theorem exec_st (h : fs.sh = false) : exec (.st fs) s = accessOp s fs.g (fun a =>
    (released s a fs.rel.isSome).bind (fun _ =>
      match stPlan s a fs with
      | .error e => planFail s a e
      | .ok x =>
        let d := stValue fs.w fs.z fs.sat (a.sdata fs.d)
        let xs := releaseFirst fs.rel.isSome [mkAccess x (a.ea fs.m) (.store d.1)]
        (storeReady s a xs).bind (fun _ =>
          (storeNow (orFlags s a.core (flagIf d.2 flagSAT)) a xs).map Res.next))) := by
  change execSt fs s = _
  rw [execSt, shadowableMem, h]
  rfl

theorem ld_traps (h : Runs s a f.g) (hsh : f.sh = false) (hs : Settled s a) (hp : ldPlan s a f = .error (.cause c)) :
    Traps (.ld f) s a c.code c.eva := by
  refine (exec_ld hsh).trans (accessOp_traps h ?_)
  have hl := loadFlow_cause h.1 hs (queuesReady_nil s a) (p := onePlan (.error (.cause c))) (by simp [onePlan, planList]) rfl
  rw [hp, Except.map, hl]
  rfl

theorem st_traps (h : Runs s a fs.g) (hsh : fs.sh = false) (hr : released s a fs.rel.isSome = .ok ())
    (hp : stPlan s a fs = .error (.cause c)) : Traps (.st fs) s a c.code c.eva := by
  refine (exec_st hsh).trans (accessOp_traps h ?_)
  rw [hr, hp]
  rfl

end

/-- Settles O17: an access at its home is performed by one equation for each operation (`performAt_load` to
`performAt_atomic_none`), and the checks of a scalar access are those of `planOne`, whose first cause the slot raises
(`ld_traps`, `st_traps`). -/
theorem accessChecks : Obligations.AccessChecks := by
  unfold Obligations.AccessChecks
  refine ⟨fun s id x hm => ⟨fun pa => performAt_denied, fun hd => ⟨fun n ho => ⟨fun hp => ?_, fun l => ?_⟩, fun b ho => ?_,
    fun m ho hp => ?_⟩⟩, fun s a f fs hf hfs hs p hp => ?_⟩
  · exact ⟨_, performAt_load hm hd ho hp, readBytes_length _ _ _, fun j => readBytes_getD _ _⟩
  · exact performAt_load_poisoned hm hd ho
  · exact ⟨_, performAt_store_memory hm hd ho, fun j => stored_byte_in s x.pa, fun q => stored_byte_out s,
      (stored_onlyWrites s x.pa b).1⟩
  · cases hv : atomicNew m (readU s x.pa m.len) with
    | some v =>
      refine ⟨_, _, performAt_atomic hm hd ho hp hv, fun j => readBytes_getD _ _, fun w hw => ?_, nofun,
        fun q hq => stored_byte_out s (by rwa [leBytes_length])⟩
      cases hw
      exact readU_stored s x.pa m.len v
    | none =>
      exact ⟨_, _, performAt_atomic_none hm hd ho hp hv, fun j => readBytes_getD _ _, nofun, fun _ => rfl, fun _ _ => rfl⟩
  · intro va n h hw hrel
    have ht : ∀ code, planOne s a va n n p.2.2.2.2.2 false (ruleRaw p.2.2.2.2.1) = planErr code va → Traps p.1 s a code va := by
      obtain rfl | hp := List.mem_cons.mp hp
      · exact fun code => ld_traps (c := { code := code, eva := va }) h hf hs
      · obtain rfl := List.mem_singleton.mp hp
        exact fun code => st_traps (c := { code := code, eva := va }) h hfs (by rw [hrel rfl]; rfl)
    have hwant : p.2.2.2.2.2 = .rd ∨ p.2.2.2.2.2 = .wr := by
      obtain rfl | hp := List.mem_cons.mp hp
      · exact .inl rfl
      · obtain rfl := List.mem_singleton.mp hp
        exact .inr rfl
    refine ⟨fun ha => ht _ (planOne_misaligned hw ha), fun w ha hl => ht _ (planOne_absent hw ha hl), fun x ha hl => ?_⟩
    exact ⟨fun hr => ht _ (planOne_scalar_permission hw ha hl hwant hr),
      fun hr hu hx hf => ht _ (planOne_scalar_format hw ha hl hwant hr hu hx hf)⟩

end Sys2Proof.Machine
end

section
/-! What an access that its target denies, or whose home is on another die, leaves of its strand and of memory (07 R157; 15
R308). -/

namespace Sys2Proof.Machine

/-! ### Counters of denials, and flits -/

section
variable {s t : State} {a : Actor}

theorem KeepsStrands.countDenial (s : State) (pa : Nat) (part : BitVec 6) : KeepsStrands s (s.countDenial pa part) := by
  have hc : ∀ c, KeepsStrands s (s.countCore c 0x10 1 (some part)) := fun c => .modCore s c (fun _ => ⟨rfl, rfl⟩)
  rw [State.countDenial]
  split
  · exact hc _
  · split
    · exact hc _
    · exact .of_cores rfl
  · exact .of_cores rfl
  · exact .of_cores rfl
  · exact .of_cores rfl
  · exact refl s

theorem countDenial_mem (s : State) (pa : Nat) (part : BitVec 6) : (s.countDenial pa part).mem = s.mem := by
  rw [State.countDenial]
  repeat' split
  all_goals rfl

/-- A flit of a core to itself stays on its package. -/
theorem send_own_mem_net (s : State) (c : Nat) (who : Ident) (m : Msg) :
    ∃ f ∈ (send s c who (.core c) clsRSP m).net, f.dst = .core c ∧ f.msg = m := by
  have hp : pkgOf c = (Dest.core c).pkg := by simp only [pkgOf, Dest.pkg, Dest.die, dieOf]; omega
  rw [send]
  simp only [Flit.crossPkg, ← hp, bne_self_eq_false, Bool.false_eq_true, if_false]
  exact ⟨_, List.mem_append_right _ (List.mem_singleton.mpr rfl), rfl, rfl⟩

/-- A slot that completes leaves the strand at its next slot, and nothing else. -/
theorem completeSlot_strand (h : t.strand a.core a.k = some a.x) (hss : a.x.ss = false) :
    (completeSlot t a none none).strand a.core a.k = some (nextSlot a.x a.pc) ∧
      (completeSlot t a none none).net = t.net ∧ (completeSlot t a none none).mem = t.mem := by
  rw [completeSlot_eq h hss none]
  exact ⟨by simp [State.strand], rfl, rfl⟩

/-- Neither a loop-back nor the next program counter touches a register. -/
theorem nextSlot_s (x : Strand) (pc : Word) : (nextSlot x pc).s = x.s := by
  change (loopBack x pc).1.s = x.s
  unfold loopBack
  split
  · rfl
  · rfl
  · rfl
  · split
    · dsimp only
      split <;> rfl
    · dsimp only
      split <;> rfl

end

/-! ### Slots that end in a trap, wait or complete -/

section
variable {s t : State} {a : Actor} {g : Guard} {body : Actor → R Res}

theorem accessOp_trap {c : Cause} (h : Runs s a g) (hb : body a = .error (.trap t c)) :
    accessOp s g body = .next (raise t a.core a.k .t c a.pc 0) := by
  rw [accessOp_eq h.1, h.2.1, if_pos rfl, hb]; rfl
theorem accessOp_again (h : Runs s a g) (hb : body a = .error (.again t)) : accessOp s g body = .next t := by
  rw [accessOp_eq h.1, h.2.1, if_pos rfl, hb]; rfl
theorem accessOp_next (h : Runs s a g) (hb : body a = .ok (.next t)) : accessOp s g body = .next (completeSlot t a none none) := by
  rw [accessOp_eq h.1, h.2.1, if_pos rfl, hb]; rfl

end

end Sys2Proof.Machine
end

section
/-! LD and ST (15 R311, R312). -/

namespace Sys2Proof.Machine

/-! ### The value of a load -/

theorem leVal_lt (b : List Byte) : leVal b < 2 ^ (8 * b.length) := by
  induction b with
  | nil => exact Nat.one_pos
  | cons x t ih =>
    have hx := x.isLt
    have hp : 2 ^ (8 * (x :: t).length) = 256 * 2 ^ (8 * t.length) := by
      rw [List.length_cons, show 8 * (t.length + 1) = 8 * t.length + 8 by omega, Nat.pow_add]
      omega
    rw [leVal, hp]
    omega

/-- A pattern read as signed is the integer of its bit vector. -/
theorem intOf_signed (w y : Nat) (hw : 0 < w) : intOf true w y = (BitVec.ofNat w y).toInt := by
  obtain ⟨v, rfl⟩ : ∃ v, w = v + 1 := ⟨w - 1, by omega⟩
  have hp : 2 ^ (v + 1) = 2 * 2 ^ v := Nat.pow_succ'
  have hc : ((2 : Int) ^ (v + 1)) = ((2 ^ (v + 1) : Nat) : Int) := by push_cast; rfl
  rw [BitVec.toInt_eq_toNat_cond, BitVec.toNat_ofNat, intOf, hc]
  simp only [Bool.true_and, decide_eq_true_eq, Nat.add_sub_cancel]
  split <;> split <;> omega

theorem extend72_signed (w y : Nat) (hw : 0 < w) : extend72 false w y = ((BitVec.ofNat w y).signExtend 64).setWidth 72 := by
  rw [extend72, intOf_signed w y hw]
  rfl

theorem mwBytes_pos (mw : MWidth) : 0 < mwBytes mw := by cases mw <;> decide

/-- The value that LD writes (15 R311). -/
theorem ldValue_eq (mw : MWidth) (z : Bool) {b : List Byte} (hb : b.length = mwBytes mw) :
    ldValue mw z b = if z = true ∨ mw = .d ∨ mw = .a then BitVec.ofNat 72 (leVal b)
      else ((BitVec.ofNat (8 * mwBytes mw) (leVal b)).signExtend 64).setWidth 72 := by
  have hext : extend72 z (8 * b.length) (leVal b) = if z = true then BitVec.ofNat 72 (leVal b)
      else ((BitVec.ofNat (8 * mwBytes mw) (leVal b)).signExtend 64).setWidth 72 := by
    cases z with
    | true => rw [extend72, if_pos rfl, if_pos rfl, Nat.mod_eq_of_lt (leVal_lt b)]
    | false => rw [extend72_signed _ _ (by have := mwBytes_pos mw; omega), hb]; rfl
  cases mw with
  | d => rw [if_pos (.inr (.inl rfl))]; rfl
  | a => rw [if_pos (.inr (.inr rfl))]; rfl
  | b => simpa [ldValue] using hext
  | h => simpa [ldValue] using hext
  | w => simpa [ldValue] using hext

/-! ### LD -/

section
variable {s : State} {a : Actor} {x : Access} {n : Nat}

/-- A load of one datum, as its plan runs: nothing of the slot is under way. -/
theorem loadFlow_one (h : AtSlot s a) (hs : Settled s a) : loadFlow s a [] ([x], none) =
    (loadAll s a [x] none).bind (fun r => (queuesReady r.1 a []).map (fun _ => (r.1, [x].zip r.2))) := by
  have hp := prog_of_settled h hs
  rw [loadFlow, loadPlan, attempt, hp]
  rfl

/-- A load on the strand's own die that no sub-byte store holds is performed within the step. -/
theorem loadAll_local (h : AtSlot s a) (hs : Settled s a) (hx : IsLoad x) (hl : x.isLocal a.core = true)
    (hh : heldBySubByte s a.core x = false) : loadAll s a [x] none = performAll s a [x] := by
  obtain ⟨m, pair, ho⟩ := hx
  rw [loadAll, prog_of_settled h hs]
  simp only [List.any_cons, List.any_nil, List.all_cons, List.all_nil, hh, heldByAtomic, hs.1, Option.any_none, Access.writes, ho,
    hl, Bool.false_and, Bool.or_self, Bool.and_self, Bool.false_eq_true, if_false, if_true]
  cases performAll s a [x] <;> rfl

theorem homeEva_denied (l : Option Nat) (hx : x.scales = []) : homeEva x cDeny l = x.va := by
  cases l with
  | none => rfl
  | some l =>
    rw [homeEva, hx]
    simp only [List.find?_nil, ite_self]
    rfl

/-- A load that its target denies traps with what the target has counted (07 R157). -/
theorem loadAll_denied (h : AtSlot s a) (hs : Settled s a) (hx : IsLoad x) (hl : x.isLocal a.core = true)
    (hh : heldBySubByte s a.core x = false) (hsc : x.scales = []) {pa : Nat} (hd : s.deniedAt (a.ident s) x = some pa) :
    loadAll s a [x] none = trapAt (s.countDenial pa (a.ident s).part) cDeny x.va := by
  rw [loadAll_local h hs hx hl hh, performAll, performAt_denied hd, ← homeEva_denied (some pa) hsc]

/-- The state in which a slot waits for the answer to one load. -/
def asked (s : State) (a : Actor) (x : Access) : State :=
  markWait (setProg (sendAccess s a x s.tick 0) a (.gather s.tick [x] [] none)) a .response []

/-- A load of a home on another die is asked, and the slot waits (15 R308). -/
theorem loadAll_far (h : AtSlot s a) (hs : Settled s a) (hx : IsLoad x) (hl : x.isLocal a.core = false)
    (hh : heldBySubByte s a.core x = false) (hr : s.room a.core (a.ident s) (x.dest a.core) 1 = true) :
    loadAll s a [x] none = .error (.again (asked s a x)) := by
  obtain ⟨m, pair, ho⟩ := hx
  rw [loadAll, prog_of_settled h hs]
  simp [hh, heldByAtomic, hs.1, Access.writes, ho, hl, roomFor, hr, asked]

theorem asked_strand (h : AtSlot s a) (x : Access) : ∃ y, (asked s a x).strand a.core a.k = some y ∧ y.s = a.x.s ∧ y.pc = a.x.pc ∧
    y.prog = .gather s.tick [x] [] none := by
  have hx : (sendAccess s a x s.tick 0).strand a.core a.k = some a.x := by
    rw [State.strand, State.core, sendAccess, send_cores]
    exact h.strand
  refine ⟨{ a.x with prog := .gather s.tick [x] [] none, wait := waitOn s.now .response [] a.x.wait }, ?_, rfl, rfl, rfl⟩
  rw [asked, setProg, State.modStrand_some _ _ _ _ _ hx, markWait, State.setStrand_modStrand, State.setStrand_strand_self]
  simp only [h.2, Bool.false_eq_true, if_false]
  have hn : (sendAccess s a x s.tick 0).now = s.now :=
    send_field (g := State.now) (fun _ _ _ => rfl) (fun s f => by rw [enterLink]; split <;> rfl) (fun _ _ => rfl)
      (fun _ _ _ _ => rfl) _ _ _ _ _ _
  rw [State.setStrand_now, hn]

theorem asked_mem (s : State) (a : Actor) (x : Access) : (asked s a x).mem = s.mem := by
  rw [asked, markWait, State.modStrand_mem, setProg, State.modStrand_mem, sendAccess, send_mem]

/-- The answer to the one load that a slot waits for is its datum (15 R308). -/
theorem loadFlow_answered (h : AtSlot s a) (hs : a.spec s = none) {tag m : Nat} {d : List Byte}
    (hp : a.x.prog = .gather tag [x] [(0, none, d)] none) (ho : x.op = .load m none) (r : Except PlanErr Access) :
    loadFlow s a [] (onePlan r) = .ok (s, [(x, d)]) := by
  have hprog : a.prog = .gather tag [x] [(0, none, d)] none := by rw [Actor.prog, h.2]; exact hp
  have hall : loadAll s a [] none = .ok (s, [d]) := by
    rw [loadAll, hprog]
    simp [gathered, ho, specBuf_of_none hs, overlay_nil]
  have hplan : loadPlan s a (onePlan r) = .ok (s, [d]) := by
    rw [loadPlan, hprog]
    cases r <;> simp [hall, onePlan, planList, Except.bind]
  rw [loadFlow, hplan, attempt, hprog]
  rfl

end

section
variable {s : State} {a : Actor} {f : LdF} {l : Leaf}

/-- The access of LD to the page `l`. -/
def ldAccess (a : Actor) (f : LdF) (l : Leaf) : Access := mkAccess l (a.ea f.m) (.load (mwBytes f.w) none)

theorem ldAccess_isLoad (a : Actor) (f : LdF) (l : Leaf) : IsLoad (ldAccess a f l) := ⟨_, _, rfl⟩

theorem exec_ld_ok (hsh : f.sh = false) : ∃ body, exec (.ld f) s = accessOp s f.g body ∧
    (∀ {d : List Byte} {x : Access}, loadFlow s a [] (onePlan ((ldPlan s a f).map (ldAccess a f))) = .ok (s, [(x, d)]) →
      body a = .ok (.next (setReg s a f.d (ldValue f.w f.z d)))) ∧
    (ldPlan s a f = .ok l → ∀ e, loadFlow s a [] ([ldAccess a f l], none) = .error e → body a = .error e) := by
  refine ⟨_, exec_ld hsh, fun hl => ?_, fun hp e hl => ?_⟩
  · exact congrArg (fun r => Except.map _ r) hl
  · rw [hp]
    exact congrArg (fun r => Except.map _ r) hl

/-- LD whose datum has come. -/
theorem ld_completes (h : Runs s a f.g) (hsh : f.sh = false) {x : Access} {d : List Byte} (hd : d.length = mwBytes f.w)
    (hl : loadFlow s a [] (onePlan ((ldPlan s a f).map (ldAccess a f))) = .ok (s, [(x, d)])) :
    Completes (.ld f) s a (s.core a.core) (nextSlot (withReg a.x f.d
      (if f.z = true ∨ f.w = .d ∨ f.w = .a then BitVec.ofNat 72 (leVal d)
        else ((BitVec.ofNat (8 * mwBytes f.w) (leVal d)).signExtend 64).setWidth 72)) a.pc) := by
  obtain ⟨body, hi, hb, -⟩ := exec_ld_ok (s := s) (a := a) (l := default) hsh
  rw [Completes, hi, ← ldValue_eq f.w f.z hd]
  exact accessOp_completes h (hb hl) (h.1.leaves.setReg h.1.2 f.d _)

theorem ld_readable (h : Runs s a f.g) (hsh : f.sh = false) (hs : Settled s a) (hp : ldPlan s a f = .ok l)
    (hr : Readable s a (ldAccess a f l)) : Completes (.ld f) s a (s.core a.core) (nextSlot (withReg a.x f.d
      (if f.z = true ∨ f.w = .d ∨ f.w = .a then BitVec.ofNat 72 (readU s (l.pa (a.ea f.m)) (mwBytes f.w))
        else ((BitVec.ofNat (8 * mwBytes f.w) (readU s (l.pa (a.ea f.m)) (mwBytes f.w))).signExtend 64).setWidth 72)) a.pc) := by
  refine ld_completes (x := ldAccess a f l) h hsh (readBytes_length s (l.pa (a.ea f.m)) (mwBytes f.w)) ?_
  rw [hp]
  exact loadFlow_ok h.1 hs (queuesReady_nil s a) (p := ([ldAccess a f l], none))
    (List.forall_mem_singleton.mpr ⟨ldAccess_isLoad a f l, hr⟩) rfl

theorem ld_denied (h : Runs s a f.g) (hsh : f.sh = false) (hs : Settled s a) (hp : ldPlan s a f = .ok l)
    (hl : (ldAccess a f l).isLocal a.core = true) (hh : heldBySubByte s a.core (ldAccess a f l) = false) {pa : Nat}
    (hd : s.deniedAt (a.ident s) (ldAccess a f l) = some pa) : exec (.ld f) s =
      .next (raise (s.countDenial pa (a.ident s).part) a.core a.k .t { code := cDeny, eva := a.ea f.m } a.pc 0) := by
  obtain ⟨body, hi, -, hb⟩ := exec_ld_ok (s := s) (a := a) (l := l) hsh
  refine hi.trans (accessOp_trap h (hb hp _ ?_))
  rw [loadFlow_one h.1 hs, loadAll_denied h.1 hs (ldAccess_isLoad a f l) hl hh rfl hd]
  rfl

theorem ld_far (h : Runs s a f.g) (hsh : f.sh = false) (hs : Settled s a) (hp : ldPlan s a f = .ok l)
    (hl : (ldAccess a f l).isLocal a.core = false) (hh : heldBySubByte s a.core (ldAccess a f l) = false)
    (hr : s.room a.core (a.ident s) ((ldAccess a f l).dest a.core) 1 = true) :
    exec (.ld f) s = .next (asked s a (ldAccess a f l)) := by
  obtain ⟨body, hi, -, hb⟩ := exec_ld_ok (s := s) (a := a) (l := l) hsh
  refine hi.trans (accessOp_again h (hb hp _ ?_))
  rw [loadFlow_one h.1 hs, loadAll_far h.1 hs (ldAccess_isLoad a f l) hl hh hr]
  rfl

end

/-! ### The bytes of a store -/

/-- Bytes depend on the value modulo their number. -/
theorem leBytes_mod (n v : Nat) : leBytes n (v % 256 ^ n) = leBytes n v := by
  induction n generalizing v with
  | zero => rfl
  | succ n ih =>
    have h1 : v % 256 ^ (n + 1) / 256 = v / 256 % 256 ^ n := by rw [Nat.pow_succ', Nat.mod_mul_right_div_self]
    have h2 : v % 256 ^ (n + 1) % 256 = v % 256 := Nat.mod_mod_of_dvd _ (dvd_pow_self _ (by omega))
    have h3 : BitVec.ofNat 8 (v % 256 ^ (n + 1)) = BitVec.ofNat 8 v := BitVec.eq_of_toNat_eq (by simp [h2])
    rw [leBytes, leBytes, h1, ih, h3]

/-- Bytes of a 64-bit pattern and those of the integer that it stands for, signed or unsigned. -/
theorem leBytes_wrapInt (z : Bool) {n q : Nat} (hn : n ≤ 8) (hq : q < 2 ^ 64) :
    leBytes n (wrapInt (8 * n) (intOf (!z) 64 q)) = leBytes n q := by
  have hdvd : ((2 ^ (8 * n) : Nat) : Int) ∣ ((2 ^ 64 : Nat) : Int) :=
    Int.natCast_dvd_natCast.mpr (Nat.pow_dvd_pow 2 (by omega))
  have hmod : intOf (!z) 64 q % ((2 ^ (8 * n) : Nat) : Int) = ((q % 2 ^ (8 * n) : Nat) : Int) := by
    rw [intOf, Nat.mod_eq_of_lt hq]
    push_cast
    split
    · refine Int.modEq_of_dvd ?_
      rw [sub_sub_cancel]
      exact_mod_cast hdvd
    · rfl
  have hw : wrapInt (8 * n) (intOf (!z) 64 q) = q % 256 ^ n := by
    rw [wrapInt, show ((2 : Int) ^ (8 * n)) = ((2 ^ (8 * n) : Nat) : Int) by push_cast; rfl, hmod, Int.toNat_natCast, Nat.pow_mul]
  rw [hw, leBytes_mod]

/-- The value that a store writes, as an integer, and whether .sat takes another (15 R312). -/
def stInt (f : StF) (y : Word) : Int := intOf (!f.z) 64 (bits y 0 64)
def stOut (f : StF) (y : Word) : Bool :=
  f.sat && f.w != .a && (decide (stInt f y < intLo (!f.z) (8 * mwBytes f.w)) || decide (intHi (!f.z) (8 * mwBytes f.w) < stInt f y))
def stBytes (f : StF) (y : Word) : List Byte :=
  let b := 8 * mwBytes f.w
  if f.w = .a then leBytes 16 y.toNat
  else leBytes (mwBytes f.w)
    (wrapInt b (if stOut f y then max (intLo (!f.z) b) (min (intHi (!f.z) b) (stInt f y)) else stInt f y))

theorem intLo_le_intHi (signed : Bool) (w : Nat) : intLo signed w ≤ intHi signed w := by
  have h (n : Nat) : (1 : Int) ≤ 2 ^ n := by exact_mod_cast Nat.one_le_two_pow
  have h1 := h w
  have h2 := h (w - 1)
  cases signed <;> simp only [intLo, intHi, Bool.false_eq_true, if_true, if_false] <;> omega

/-- The nearest bound is the value clamped. -/
theorem bound_eq_clamp {lo hi v : Int} (hlh : lo ≤ hi) (h : v < lo ∨ hi < v) : (if v < lo then lo else hi) = max lo (min hi v) := by
  split <;> omega

theorem bits_lt {w : Nat} (x : BitVec w) (lo len : Nat) : bits x lo len < 2 ^ len := BitVec.isLt _

theorem stInt_eq (f : StF) (y : Word) :
    (if f.z then ((bits y 0 64 : Nat) : Int) else intOf true 64 (bits y 0 64)) = stInt f y := by
  rw [stInt]
  cases f.z with
  | false => rfl
  | true => exact congrArg Int.ofNat (Nat.mod_eq_of_lt (bits_lt y 0 64)).symm

theorem mwBytes_le {mw : MWidth} (h : mw ≠ .a) : mwBytes mw ≤ 8 := by
  revert h
  cases mw <;> decide

/-- Under .sat a value out of the width's range takes the nearest bound (15 R312). -/
theorem stValue_narrow {mw : MWidth} (h : mw ≠ .a) (z sat : Bool) (y : Word) : stValue mw z sat y =
    let b := 8 * mwBytes mw
    let v := if z then ((bits y 0 64 : Nat) : Int) else intOf true 64 (bits y 0 64)
    if sat && (decide (v < intLo (!z) b) || decide (intHi (!z) b < v)) then
      (leBytes (mwBytes mw) (wrapInt b (if v < intLo (!z) b then intLo (!z) b else intHi (!z) b)), true)
    else (leBytes (mwBytes mw) (bits y 0 64), false) := by
  cases mw with
  | a => exact absurd rfl h
  | _ => rfl

theorem stValue_eq (f : StF) (y : Word) : stValue f.w f.z f.sat y = (stBytes f y, stOut f y) := by
  by_cases ha : f.w = .a
  · have ho : stOut f y = false := by rw [stOut, ha]; simp
    rw [ho, stBytes, if_pos ha, ha]
    rfl
  have ho : (f.sat && (decide (stInt f y < intLo (!f.z) (8 * mwBytes f.w)) || decide (intHi (!f.z) (8 * mwBytes f.w) < stInt f y))) =
      stOut f y := by rw [stOut, bne_iff_ne.mpr ha, Bool.and_true]
  rw [stValue_narrow ha, stInt_eq]
  simp only [ho]
  rw [stBytes, if_neg ha]
  cases hout : stOut f y with
  | true =>
    rw [hout, Bool.and_eq_true, Bool.or_eq_true, decide_eq_true_eq, decide_eq_true_eq] at ho
    rw [bound_eq_clamp (intLo_le_intHi _ _) ho.2]
    rfl
  | false => exact Prod.ext (leBytes_wrapInt f.z (mwBytes_le ha) (bits_lt y 0 64)).symm rfl

/-! ### ST -/

section
variable {s t : State} {a : Actor} {f : StF} {l : Leaf}

/-- The access of ST to the page `l`. -/
def stAccess (a : Actor) (f : StF) (l : Leaf) : Access := mkAccess l (a.ea f.m) (.store (stBytes f (a.sdata f.d)))

/-- Executing `i` at a slot, whose meaning performs the stores `xs`, completes with them. -/
theorem completesStores_of_body {i : Instr} {g : Guard} {body : Actor → R Res} {xs : List Access} {co : Core}
    (hi : exec i s = accessOp s g body) (h : Runs s a g) (hb : body a = .ok (.next t)) (hl : LeavesMem s t a co a.x)
    (hm : t.mem = (xs.foldl storeEffect s).mem) : CompletesStores i s a xs co (nextSlot a.x a.pc) := by
  obtain ⟨w, hw, hwl, hwm⟩ := accessOp_writes h hb hl
  have hbyte : ∀ q, w.byte q = (xs.foldl storeEffect s).byte q := byte_of_mem (hwm.trans hm)
  exact ⟨w, hi.trans hw, hwl, hbyte, fun q hq =>
    (hbyte q).trans (foldl_byte_out (fun s x hx => storeEffect_byte_out s (hq x hx)) s)⟩

/-- A seed that is set to itself is no change that a flag leaves. -/
theorem orFlags_setSeed_self (s : State) (c : Nat) (fl : Flags) :
    orFlags (setSeed s c (s.core c).seed) c fl = orFlags s c fl := by
  rw [orFlags, orFlags, setSeed, State.modCore, State.modCore_core_self]
  simp only [State.modCore, State.setCore, smPut_smPut]

theorem exec_st_ok (hsh : f.sh = false) (hr : released s a f.rel.isSome = .ok ()) (hp : stPlan s a f = .ok l)
    (hready : storeReady s a (releaseFirst f.rel.isSome [stAccess a f l]) = .ok ()) :
    ∃ body, exec (.st f) s = accessOp s f.g body ∧
      body a = (storeNow (orFlags s a.core (flagIf (stOut f (a.sdata f.d)) flagSAT)) a
        (releaseFirst f.rel.isSome [stAccess a f l])).map Res.next := by
  refine ⟨_, exec_st hsh, ?_⟩
  rw [stAccess] at hready ⊢
  simp only [hr, hp, Except.bind, stValue_eq, hready]

theorem st_completes (h : Runs s a f.g) (hsh : f.sh = false) (hs : Settled s a) (hr : released s a f.rel.isSome = .ok ())
    (hp : stPlan s a f = .ok l) (hx : AtHome s a (stAccess a f l)) : CompletesStores (.st f) s a [stAccess a f l]
      { s.core a.core with fstat := (s.core a.core).fstat ||| (flagIf (stOut f (a.sdata f.d)) flagSAT).setWidth 64 }
      (nextSlot a.x a.pc) := by
  have hxs : ∀ x ∈ releaseFirst f.rel.isSome [stAccess a f l], x.op.isStore = true ∧ AtHome s a x :=
    releaseFirst_forall (P := fun x => x.op.isStore = true ∧ AtHome s a x) (fun _ _ h => h)
      (List.forall_mem_singleton.mpr ⟨rfl, hx⟩) _
  have hsound : SoundPairs s (releaseFirst f.rel.isSome [stAccess a f l]) := by
    refine releaseFirst_soundPairs ?_ _
    rintro pre x post bs he ho
    have hm : x ∈ [stAccess a f l] := he ▸ List.mem_append_right _ List.mem_cons_self
    obtain rfl := List.mem_singleton.mp hm
    cases ho
  obtain ⟨body, hi, hb⟩ := exec_st_ok hsh hr hp (storeReady_ok hs.1 hxs)
  obtain ⟨t, ht, hl, hm⟩ := storeNow_flagged h.1 hs.1 hxs hsound
    { flags := flagIf (stOut f (a.sdata f.d)) flagSAT, convert := false, intOvf := false } (s.core a.core).seed
  rw [orFlags_setSeed_self] at ht
  rw [releaseFirst_effect] at hm
  exact completesStores_of_body hi h (by rw [hb, ht]; rfl) hl hm

/-- A store that its target denies is dropped, and the denial is on its way to the core (07 R157). -/
theorem st_denied (h : Runs s a f.g) (hsh : f.sh = false) (hs : Settled s a) (hr : released s a f.rel.isSome = .ok ())
    (hp : stPlan s a f = .ok l) (hl : (stAccess a f l).isLocal a.core = true)
    (hh : heldBySubByte s a.core (stAccess a f l) = false) (hn : nearKept s a.core a.k = false) {pa : Nat}
    (hd : s.deniedAt (a.ident s) (stAccess a f l) = some pa) : ∃ u, exec (.st f) s = .next (completeSlot u a none none) ∧
      u.strand a.core a.k = some a.x ∧ u.mem = s.mem ∧ ∃ m ∈ u.net, m.dst = .core a.core ∧
        m.msg = .response { stAccess a f l with rel := f.rel.isSome } a.k 0 0 (some cDeny) (leBytes 16 pa) := by
  have hl' : ({ stAccess a f l with rel := f.rel.isSome } : Access).isLocal a.core = true := hl
  have hh' : heldBySubByte s a.core { stAccess a f l with rel := f.rel.isSome } = false := hh
  have hready : storeReady s a (releaseFirst f.rel.isSome [stAccess a f l]) = .ok () := by
    simp [storeReady, hs.1, releaseFirst, hl', hh', hn, roomFor]
  obtain ⟨body, hi, hb⟩ := exec_st_ok hsh hr hp hready
  have hu := h.1.leaves.orFlags (flagIf (stOut f (a.sdata f.d)) flagSAT)
  generalize orFlags s a.core (flagIf (stOut f (a.sdata f.d)) flagSAT) = u at hu hb
  have hid : a.ident u = a.ident s := by rw [Actor.ident, hu.2.2.2]; rfl
  have hdu : u.deniedAt (a.ident u) { stAccess a f l with rel := f.rel.isSome } = some pa := by
    rw [hid, hu.1.2.2]
    exact hd
  have hnow : storeNow u a (releaseFirst f.rel.isSome [stAccess a f l]) = .ok (denyStore (u.countDenial pa (a.ident u).part) a
      { stAccess a f l with rel := f.rel.isSome } cDeny (some pa)) := by
    simp only [storeNow, spec_none_of_leaves hu hs.1 rfl, releaseFirst, storeList, storeOne, hl', performAt_denied hdu,
      Option.isSome_none, Bool.false_eq_true, if_false, if_true]
  rw [hnow] at hb
  refine ⟨_, hi.trans (accessOp_next h hb), ?_, ?_, send_own_mem_net _ _ _ _⟩
  · rw [denyStore, State.strand, State.core, send_cores]
    exact ((KeepsStrands.countDenial u pa _).strand _ _).trans hu.2.2.1
  · rw [denyStore, send_mem, countDenial_mem, hu.1.2.2]

end

/-- Settles O18: LD is the one load of its plan, performed within the step, denied, asked for or answered (`ld_readable`,
`ld_denied`, `ld_far`, `ld_completes`), and ST the one store of its plan (`st_completes`, `st_denied`). -/
theorem scalarMemory : Obligations.ScalarMemory := by
  unfold Obligations.ScalarMemory
  refine ⟨fun s a f h hsh hs => ?_, fun s a f h hsh hs hr => ?_⟩
  · intro va n plan value done
    refine ⟨fun c hp hc => ld_traps h hsh ⟨hs, hp⟩ hc, fun l hp hl => ⟨ld_readable h hsh ⟨hs, hp⟩ hl,
      fun pa hloc hh hd => ld_denied h hsh ⟨hs, hp⟩ hl hloc hh hd, fun hloc hh hroom => ?_⟩, fun tag x m d hp ho hd => ?_⟩
    · obtain ⟨y, hy, hys, hpc, hprog⟩ := asked_strand h.1 (ldAccess a f l)
      exact ⟨_, y, ld_far h hsh ⟨hs, hp⟩ hl hloc hh hroom, hy, hys, hpc, hprog, byte_of_mem (asked_mem s a _)⟩
    · exact ld_completes h hsh hd (loadFlow_answered h.1 hs hp ho _)
  · intro va n b v out bytes co
    refine ⟨fun c hc => st_traps h hsh hr hc, fun l hl => ⟨st_completes h hsh hs hr hl, fun pa hloc hh hn hd => ?_⟩⟩
    obtain ⟨u, hu, hx, hm, hnet⟩ := st_denied h hsh hs hr hl hloc hh hn hd
    obtain ⟨hstr, hnet', hm'⟩ := completeSlot_strand hx h.2.2
    exact ⟨_, _, hu, hstr, nextSlot_s _ _, rfl, byte_of_mem (hm'.trans hm), hnet' ▸ hnet⟩

end Sys2Proof.Machine
end

section
/-! Lea operations of a package of no group, and the stores of its Lea engine (07 R167; 17 R375, R376; 24 R461, R462). -/

namespace Sys2Proof.Machine

/-! ### What a package's Lea record does not bear on -/

/-- `s` with the Lea record of package `p`. -/
def State.withLea (s : State) (p : Nat) (l : Lea) : State := s.modPkg p (fun x => { x with lea := l })

section
variable (s : State) (p : Nat) (l : Lea)

/-- A part of a package that is not its Lea record stays. -/
theorem withLea_pkg {α : Type} (g : Package → α) (hg : ∀ x, g { x with lea := l } = g x) (q : Nat) :
    g ((s.withLea p l).pkg q) = g (s.pkg q) := by
  rw [State.withLea, State.modPkg_pkg]
  split
  · next h => rw [hg, h]
  · rfl
theorem withLea_lea : ((s.withLea p l).pkg p).lea = l := by rw [State.withLea, State.modPkg_pkg_self]

theorem withLea_keepsStrands : KeepsStrands s (s.withLea p l) := .of_cores rfl

theorem withLea_admits (pa : Nat) (geom2 : Bool) (id : Ident) (r : Right) :
    (s.withLea p l).admits pa geom2 id r = s.admits pa geom2 id r := by
  have h : ∀ t, (s.withLea p l).rights t id = s.rights t id := fun t => by
    rw [State.rights, withLea_pkg s p l Package.access (fun _ => rfl), State.rights]
  simp only [State.admits, State.tableAdmits, h]

theorem withLea_walkFrom (q : Nat) (part : BitVec 6) (va : Word) (n table : Nat) :
    walkFrom (s.withLea p l) q part va n table = walkFrom s q part va n table := by
  have hd : ∀ pa, readD (s.withLea p l) pa = readD s pa := readD_of_mem rfl
  have ha : ∀ level entry, walkerAdmits (s.withLea p l) part level entry = walkerAdmits s part level entry := fun level entry => by
    rw [walkerAdmits, withLea_admits, walkerAdmits]
  have hs : ∀ entry lo hi, (s.withLea p l).sealOk q entry lo hi = s.sealOk q entry lo hi := fun entry lo hi => by
    rw [State.sealOk, withLea_pkg s p l Package.boots (fun _ => rfl), State.sealOk]
  induction n generalizing table with
  | zero => simp only [walkFrom, hd, ha, hs]
  | succ n ih => simp only [walkFrom, hd, ha, hs, ih]

theorem withLea_walk (q : Nat) (part : BitVec 6) (va : Word) : (s.withLea p l).walk q part va = s.walk q part va := by
  rw [State.walk, withLea_walkFrom, State.walk]

theorem withLea_pathCause (q pa : Nat) : pathCause (s.withLea p l) q pa = pathCause s q pa := by
  have hl : ∀ q, ((s.withLea p l).pkg q).links = (s.pkg q).links := withLea_pkg s p l Package.links (fun _ => rfl)
  have hp : portUp (s.withLea p l) = portUp s := by
    funext q i
    rw [portUp, hl, portUp]
  have hlive : livePath (s.withLea p l) q (homeDie pa) = livePath s q (homeDie pa) := by rw [livePath, hp, livePath]
  have hdis : pathDisagreed (s.withLea p l) q = pathDisagreed s q := by simp only [pathDisagreed, State.link, hp, hl]
  rw [pathCause, hlive, hdis, pathCause]

end

/-! ### A store of an engine within one line -/

/-- An access that an alignment of 8 or 16 keeps within a line is one piece of it. -/
theorem linePieces_aligned {va n : Nat} (hn : n = 8 ∨ n = 16) (ha : va % n = 0) : linePieces va n = [(va, n)] := by
  have hline : (va + n - 1) / 64 = va / 64 := by obtain rfl | rfl := hn <;> omega
  have hlo : max va (va / 64 * 64) = va := by omega
  have hhi : min (va + n) ((va / 64 + 1) * 64) = va + n := by obtain rfl | rfl := hn <;> omega
  rw [linePieces, if_neg (by omega), hline, Nat.sub_self]
  simp only [List.range_succ, List.range_zero, List.nil_append, List.map_cons, List.map_nil, Nat.add_zero, hlo, hhi,
    Nat.add_sub_cancel_left]

section
variable {s : State} {u : Requester} {va : Word} {y : Leaf} {b : List Byte}

/-- A page that a supervisor's write may take: of memory, well formed, with a live path, admitted and not poisoned. -/
structure Writable (s : State) (u : Requester) (va : Word) (y : Leaf) : Prop where
  walk : s.walk u.pkg u.id.part va = .leaf y
  sup : u.sup = true
  w : y.w = true
  x : y.x = false
  fmt : y.fmtOk = true
  space : spaceOf va ≠ 0xC0
  path : pathCause s u.pkg (y.pa va) = none
  admits : s.admits (y.pa va) y.geom2 u.id .wr = true
  poison : y.poison = false
  memory : (siteOf (y.pa va) y.geom2).isMemory = true

theorem engPage_writable (h : Writable s u va y) : engPage s u va .wr = (s, .ok y) := by
  simp [engPage, h.walk, h.sup, h.w, h.x, h.fmt, h.space, h.path, h.admits, h.poison]

variable (h : Writable s u va y) (hn : b.length = 8 ∨ b.length = 16) (ha : va.toNat % b.length = 0)
include h hn ha

theorem engCheck_writable : engCheck s u va b = (s, none) := by
  simp [engCheck, linePieces_aligned hn ha, engPage_writable h, h.space, targetStore, h.memory]

theorem engWrite_writable : engWrite s u va b = stored s (y.pa va) b := by
  simp [engWrite, engPlace, writeParts, linePieces_aligned hn ha, engPage_writable h, h.space, targetStore, h.memory, stored]

end

theorem leaWrite_writable {s : State} {p c : Nat} {part : BitVec 6} {va : Word} {y : Leaf} {b : List Byte}
    (h : Writable s { pkg := p, id := leaIdent part, sup := true } va y) (hn : b.length = 8 ∨ b.length = 16)
    (ha : va.toNat % b.length = 0) : leaWrite s p part c va b = stored s (y.pa va) b := by
  simp only [leaWrite, engCheck_writable h hn ha, engWrite_writable h hn ha]

/-! ### A sequence number taken in a package of no group -/

section
variable {s u v : State} {a : Actor} {g : Guard} {body : Actor → R Res} {d : SReg} {n : Nat}

/-- A slot that writes one register after changes that keep its strand and leave every other as it was. -/
theorem accessOp_setReg (h : Runs s a g) (hu : KeepsStrands s u) (w : Word) (hb : body a = .ok (.next (setReg u a d w))) :
    ∃ t, accessOp s g body = .next t ∧ OnlyStrand s t a.core a.k ∧
      t.strand a.core a.k = some (nextSlot (withReg a.x d w) a.pc) ∧ t.packages = u.packages ∧ t.mem = u.mem := by
  have hl : Leaves u u a (u.core a.core) a.x :=
    ⟨.of_cores (fun _ _ => rfl) rfl, fun _ _ _ => rfl, (hu.strand _ _).trans h.1.strand, rfl⟩
  obtain ⟨⟨-, -, ht⟩, ho, hy, -⟩ := slotEnd h.2.2 (hl.setReg h.1.2 d w)
  refine ⟨_, accessOp_next h hb, fun j i hji => (ho j i hji).trans (hu.strand j i), hy, ?_, ?_⟩
  · rw [ht]
  · rw [ht]

/-- The next sequence number of package `p` counted (17 R375). -/
def leaCounted (s : State) (p : Nat) : State :=
  s.withLea p { (s.pkg p).lea with localNext := ((s.pkg p).lea.localNext + 1) % 2 ^ 48 }

theorem leaTake_alone (hm : (s.pkg (pkgOf a.core)).lea.members = []) (op : LeaOp) :
    let p := pkgOf a.core
    let n := (s.pkg p).lea.localNext
    leaTake s a op = .ok (leaApplied (leaData (leaCounted s p) p n op) p n, n) := by
  rw [leaTake, hm]
  rfl

theorem leaApplied_mem (s : State) (p n : Nat) : (leaApplied s p n).mem = s.mem := rfl
theorem leaApplied_lea (s : State) (p n : Nat) : ((leaApplied s p n).pkg p).lea = { (s.pkg p).lea with applied := n } :=
  congrArg Package.lea (State.modPkg_pkg_self s p (fun x => { x with lea := { x.lea with applied := n } }))

/-- A slot whose operation has been applied under the next number of its package, with writes of memory alone. -/
theorem accessOp_leaTaken (h : Runs s a g) (hw : OnlyWrites (leaCounted s (pkgOf a.core)) v)
    (hn : n = (s.pkg (pkgOf a.core)).lea.localNext)
    (hb : body a = .ok (.next (setReg (leaApplied v (pkgOf a.core) n) a d (BitVec.ofNat 72 n)))) :
    ∃ t, accessOp s g body = .next t ∧ OnlyStrand s t a.core a.k ∧
      t.strand a.core a.k = some (nextSlot (withReg a.x d (BitVec.ofNat 72 n)) a.pc) ∧
      (t.pkg (pkgOf a.core)).lea.localNext = (n + 1) % 2 ^ 48 ∧ (t.pkg (pkgOf a.core)).lea.applied = n ∧ t.mem = v.mem := by
  have hv : v.cores = (leaCounted s (pkgOf a.core)).cores := by rw [hw.1]; rfl
  have hp : v.packages = (leaCounted s (pkgOf a.core)).packages := by rw [hw.1]; rfl
  have hk : KeepsStrands s (leaApplied v (pkgOf a.core) n) := (KeepsStrands.of_cores hv).trans (RootOnly.leaApplied v _ n).1
  obtain ⟨t, ht, ho, hy, hpk, hm⟩ := accessOp_setReg h hk _ hb
  have hlea : (t.pkg (pkgOf a.core)).lea = { (leaCounted s (pkgOf a.core)).pkg (pkgOf a.core) |>.lea with applied := n } := by
    rw [State.pkg, hpk]
    refine (leaApplied_lea v _ n).trans ?_
    rw [State.pkg, hp]
    rfl
  rw [leaCounted, withLea_lea, ← hn] at hlea
  exact ⟨t, ht, ho, hy, by rw [hlea], by rw [hlea], hm.trans (leaApplied_mem v _ n)⟩

end

end Sys2Proof.Machine
end

section
/-! FENCE, FENCE.sys.lea, BST and BSEQ (07 R165, R166; 15 R323, R324; 17 R375, R376; 24 R461, R462). -/

namespace Sys2Proof.Machine

/-! ### FENCE -/

section
variable {s : State} {a : Actor} {f : FenceF}

theorem exec_fence (h : f.sh = false) : exec (.fence f) s = accessOp s f.g (fun a =>
    if (a.spec s).isSome then stall s a .other else (releaseReady s a).bind (fun _ => R.next s)) := by
  change execFence f s = _
  rw [execFence, shadowableMem, h]
  rfl

variable (hu : unordered s a = false) (hc : denialComing s a = false)
include hu hc

theorem releaseReady_ok (hd : a.x.denial = none) : releaseReady s a = .ok () := by
  rw [releaseReady, hu, hc, hd]
  rfl
theorem releaseReady_denial {c : Cause} (hd : a.x.denial = some c) : releaseReady s a =
    trapAt (s.modStrand a.core a.k (fun x => { x with denial := none })) c.code c.eva := by
  rw [releaseReady, hu, hc, hd]
  rfl

variable (h : Runs s a f.g) (hsh : f.sh = false) (hs : a.spec s = none)
include h hsh hs

theorem fence_completes (hd : a.x.denial = none) : Completes (.fence f) s a (s.core a.core) (nextSlot a.x a.pc) := by
  rw [Completes, exec_fence hsh]
  refine accessOp_completes h ?_ h.1.leaves
  rw [hs, releaseReady_ok hu hc hd]
  rfl

theorem fence_denial {c : Cause} (hd : a.x.denial = some c) : exec (.fence f) s =
    .next (raise (s.setStrand a.core a.k { a.x with denial := none }) a.core a.k .t c a.pc 0) := by
  rw [exec_fence hsh]
  refine accessOp_trap h ?_
  rw [hs, releaseReady_denial hu hc hd, State.modStrand_some _ _ _ _ _ h.1.strand]
  rfl

end

/-! ### FENCE.sys.lea -/

section
variable {s u : State} {a : Actor} {f : FenceLeaF} {n : Nat}

theorem exec_fenceSysLea (h : f.sh = false) : exec (.fenceSysLea f) s = accessOp s f.g (fun a =>
    if (a.spec s).isSome then stall s a .other
    else (releaseReady s a).bind (fun _ =>
      (leaTake s a .fence).map (fun r => .next (setReg r.1 a f.d (BitVec.ofNat 72 r.2))))) := by
  change execFenceSysLea f s = _
  rw [execFenceSysLea, shadowableMem, h]
  rfl

theorem exec_fenceSysLea_ok (h : f.sh = false) (hs : a.spec s = none) (hr : releaseReady s a = .ok ()) :
    ∃ body, exec (.fenceSysLea f) s = accessOp s f.g body ∧
      body a = (leaTake s a .fence).map (fun r => .next (setReg r.1 a f.d (BitVec.ofNat 72 r.2))) := by
  refine ⟨_, exec_fenceSysLea h, ?_⟩
  rw [hs, hr]
  rfl

/-- The operation `op` in the queue of its package, and its strand waiting for the number. -/
def leaQueued (s : State) (a : Actor) (op : LeaOp) : State :=
  let l := (s.pkg (pkgOf a.core)).lea
  markWait ((s.withLea (pkgOf a.core) { l with queue := l.queue ++ [(a.core, a.k, op)] }).modStrand a.core a.k
    (fun x => { x with prog := .stage 3 0 })) a .lea []

theorem leaTake_queued (hm : (s.pkg (pkgOf a.core)).lea.members ≠ []) (hp : a.x.prog = .none) (op : LeaOp) :
    leaTake s a op = .error (.again (leaQueued s a op)) := by
  rw [leaTake, if_neg (by simpa using hm), hp]
  rfl

/-- The strand stands where it stood, and its operation ends the queue. -/
theorem leaQueued_stays (h : AtSlot s a) (op : LeaOp) : ∃ y, (leaQueued s a op).strand a.core a.k = some y ∧ y.pc = a.x.pc ∧
    y.s = a.x.s ∧ y.prog = .stage 3 0 ∧
    ((leaQueued s a op).pkg (pkgOf a.core)).lea.queue = (s.pkg (pkgOf a.core)).lea.queue ++ [(a.core, a.k, op)] := by
  refine ⟨{ a.x with prog := .stage 3 0, wait := waitOn s.now .lea [] a.x.wait }, ?_, rfl, rfl, rfl, ?_⟩
  · have hx : ∀ l, (s.withLea (pkgOf a.core) l).strand a.core a.k = some a.x := fun l => h.strand
    rw [leaQueued, State.modStrand_some _ _ _ _ _ (hx _), markWait, State.setStrand_modStrand, State.setStrand_strand_self]
    simp only [h.2, Bool.false_eq_true, if_false]
    rfl
  · rw [leaQueued, markWait, State.modStrand_pkg, State.modStrand_pkg, withLea_lea]

theorem leaTake_given {w : BitVec 128} {q : Nat × Nat × Nat} (hm : (s.pkg (pkgOf a.core)).lea.members ≠ [])
    (hp : a.x.prog = .stage 3 w)
    (hg : (s.pkg (pkgOf a.core)).lea.given.find? (fun g => g.1 == a.core && g.2.1 == a.k) = some q) (op : LeaOp) :
    let l := (s.pkg (pkgOf a.core)).lea
    leaTake s a op = .ok (s.withLea (pkgOf a.core) { l with given := l.given.filter (fun g => g != q) }, q.2.2) := by
  rw [leaTake, if_neg (by simpa using hm), hp]
  simp only [hg]
  rfl

end

/-! ### BST -/

section
variable {s : State} {a : Actor} {f : BstF} {x y : Leaf} {b : List Byte}

/-- The checks of BST. -/
def bstPlan (s : State) (a : Actor) (f : BstF) : Except PlanErr Leaf :=
  planOne s a (a.sr.get f.a) (bstLen f.b) (bstLen f.b) .wr false (ruleLea (a.sr.get f.a))

theorem exec_bst (s : State) (f : BstF) : exec (.bst f) s = accessOp s f.g (fun a => noSpec s a
    ((queuesLegal s a (bstUse f.b)).bind (fun _ =>
      match bstPlan s a f with
      | .error e => planFail s a e
      | .ok _ => ((queuesReady s a (bstUse f.b)).bind (fun _ => bstData s a f.b)).bind (fun b =>
        (releaseReady s a).bind (fun _ =>
          (leaTake s a (.bst (s.core a.core).part a.core (a.sr.get f.a) b)).map (fun r =>
            .next (setReg r.1 a f.d (BitVec.ofNat 72 r.2)))))))) := rfl

theorem bst_traps {c : Cause} (h : Runs s a f.g) (hs : a.spec s = none) (hq : queuesReady s a (bstUse f.b) = .ok ())
    (hp : bstPlan s a f = .error (.cause c)) : Traps (.bst f) s a c.code c.eva := by
  refine (exec_bst s f).trans (accessOp_traps h ?_)
  rw [noSpec, hs, (queuesReady_iff.mp hq).1, hp]
  rfl

theorem bstLen_cases (b : BstSrc) : bstLen b = 8 ∨ bstLen b = 16 := by
  cases b with
  | s => exact .inl rfl
  | v => exact .inr rfl
  | q => exact .inr rfl

/-- What a plan that succeeds has found: an aligned address and a page that the instruction's own rule takes. -/
theorem planOne_ok {va : Word} {n align : Nat} {want : Want} {page : Bool} {rule : Leaf → Option Code}
    (h : planOne s a va n align want page rule = .ok x) : va.toNat % align = 0 ∧ rule x = none := by
  rw [planOne] at h
  dsimp only at h
  split at h
  · cases h
  split at h
  · cases h
  next ha =>
    refine ⟨not_not.mp ha, ?_⟩
    split at h
    · split at h <;> cases h
    · cases h
    · next l hl =>
      split at h
      · cases h
      split at h
      · cases h
      split at h
      · cases h
      next hr =>
        have hx : l = x := by
          repeat' split at h
          all_goals cases h
          all_goals rfl
        exact hx ▸ hr

theorem ruleLea_outside {va : Word} (h : spaceOf va < 0x80 ∨ 0xBF < spaceOf va ∨ x.learep = false) :
    ruleLea va x = some cPermission := by
  rw [ruleLea, if_pos (by simpa only [Bool.not_eq_true] using h)]
theorem ruleLea_none {va : Word} (h : ruleLea va x = none) : spaceOf va ≠ 0xC0 := by
  intro he
  rw [ruleLea, if_pos (.inr (.inl (by rw [he]; decide)))] at h
  cases h

/-- The bytes of BST go to the page that the package's own tables give (17 R375). -/
theorem leaData_bst {op : LeaOp} (ho : op = .bst (s.core a.core).part a.core (a.sr.get f.a) b) {p n : Nat} (hb : b.length = bstLen f.b)
    (ha : (a.sr.get f.a).toNat % bstLen f.b = 0)
    (hy : Writable s { pkg := p, id := leaIdent (s.core a.core).part, sup := true } (a.sr.get f.a) y) :
    leaData (leaCounted s p) p n op = stored (leaCounted s p) (y.pa (a.sr.get f.a)) b := by
  have hy' : Writable (leaCounted s p) { pkg := p, id := leaIdent (s.core a.core).part, sup := true } (a.sr.get f.a) y :=
    { hy with
      walk := (withLea_walk _ _ _ _ _ _).trans hy.walk
      path := (withLea_pathCause _ _ _ _ _).trans hy.path
      admits := (withLea_admits _ _ _ _ _ _ _).trans hy.admits }
  rw [ho]
  exact leaWrite_writable hy' (hb ▸ bstLen_cases f.b) (hb.symm ▸ ha)

theorem exec_bst_ok (hs : a.spec s = none) (hq : queuesReady s a (bstUse f.b) = .ok ()) (hp : bstPlan s a f = .ok x)
    (hd : bstData s a f.b = .ok b) (hr : releaseReady s a = .ok ()) :
    ∃ body, exec (.bst f) s = accessOp s f.g body ∧
      body a = (leaTake s a (.bst (s.core a.core).part a.core (a.sr.get f.a) b)).map (fun r =>
        .next (setReg r.1 a f.d (BitVec.ofNat 72 r.2))) := by
  refine ⟨_, exec_bst s f, ?_⟩
  rw [noSpec, hs, (queuesReady_iff.mp hq).1, hp, hq, hd, hr]
  rfl

end

/-! ### BSEQ -/

theorem bseq_completes {s : State} {a : Actor} {f : BseqF} (h : Runs s a f.g) :
    let n := (s.pkg (pkgOf a.core)).lea.applied
    let co := s.core a.core
    Completes (.bseq f) s a { co with lseq := if co.lseq.toNat < n then BitVec.ofNat 48 n else co.lseq }
      (nextSlot (withReg a.x f.d (BitVec.ofNat 72 n)) a.pc) :=
  accessOp_completes h rfl ((h.1.leaves.modCore _ (fun _ _ => rfl)).setReg h.1.2 f.d _)

/-- Settles O22: a fence completes or takes the denial (`fence_completes`, `fence_denial`); a Lea operation of a package of no
group is applied at once under its next number (`accessOp_leaTaken`), with the bytes of BST where the package's own tables put
them (`leaData_bst`); in a group it is queued and answered (`leaTake_queued`, `leaTake_given`). -/
theorem fencesAndLeaStores : Obligations.FencesAndLeaStores := by
  unfold Obligations.FencesAndLeaStores
  refine ⟨fun s a f fl hf hfl hs => ⟨fun h hu hc => ⟨fence_completes hu hc h hf hs, fun c => fence_denial hu hc h hf hs⟩,
    fun h hr => ?_⟩, fun s a hs => ?_⟩
  · intro p l
    obtain ⟨body, hi, hb⟩ := exec_fenceSysLea_ok (f := fl) hfl hs hr
    refine ⟨fun hm => ?_, fun hm hp => ?_, fun w n hm hp hg => ?_⟩
    · rw [leaTake_alone hm] at hb
      obtain ⟨t, ht, ho, hy, hn, ha, hmem⟩ := accessOp_leaTaken h (.refl _) rfl hb
      exact ⟨t, hi.trans ht, ho, hy, hn, ha, byte_of_mem hmem⟩
    · rw [leaTake_queued hm hp] at hb
      obtain ⟨y, hy⟩ := leaQueued_stays h.1 .fence
      exact ⟨_, y, hi.trans (accessOp_again h hb), hy⟩
    · rw [leaTake_given hm hp hg] at hb
      obtain ⟨t, ht, ho, hy, -, hmem⟩ := accessOp_setReg h (withLea_keepsStrands _ _ _) _ hb
      exact ⟨t, hi.trans ht, ho, hy, byte_of_mem hmem⟩
  · intro p l co
    refine ⟨fun f b h => ?_, fun f h => bseq_completes h⟩
    intro va n hq
    refine ⟨fun x ha hw hl hp hf hx hsp => ?_, fun x y hp hd hlen hr hm hw hyw hyx hyf hyp hpath hadm hmem => ?_⟩
    · exact bst_traps (c := { code := cPermission, eva := va }) h hs hq (planOne_rule hw ha hl hp rfl hf (ruleLea_outside hx))
    · obtain ⟨halign, hrule⟩ := planOne_ok hp
      obtain ⟨body, hi, hb⟩ := exec_bst_ok hs hq hp hd hr
      have hwr : Writable s { pkg := pkgOf a.core, id := leaIdent (s.core a.core).part, sup := true } (a.sr.get f.a) y :=
        ⟨hw, rfl, hyw, hyx, hyf, ruleLea_none hrule, hpath, hadm, hyp, hmem⟩
      rw [leaTake_alone hm, leaData_bst rfl hlen halign hwr] at hb
      obtain ⟨t, ht, ho, hy, hn, happ, hmm⟩ := accessOp_leaTaken h (stored_onlyWrites _ _ _) rfl hb
      refine ⟨t, hi.trans ht, ho, hy, fun j hj => ?_, fun q hq => ?_, hn, happ⟩
      · rw [byte_of_mem hmm]
        exact stored_byte_in _ _ (hlen.symm ▸ hj)
      · rw [byte_of_mem hmm]
        exact stored_byte_out _ (hlen.symm ▸ hq)

end Sys2Proof.Machine
end

section
/-! What a turn comes to where it runs no slot: its causes, idle turns, the entries of the sequencers, upsets and events
(09 R179, R190, R198; 10 R207; 26 R472, R473). -/

namespace Sys2Proof.Machine

/-! ### Time passes -/

/-- Time leaves the turn and memory as they were. -/
theorem markBusy_keeps (s : State) (t : Nat) : (markBusy s t).turn = s.turn ∧ (markBusy s t).mem = s.mem := by
  rw [markBusy]
  refine foldl_stays (P := fun u : State => u.turn = s.turn ∧ u.mem = s.mem) (fun u cl h => ?_) _ ⟨rfl, rfl⟩
  exact h
theorem State.advance_keeps (s : State) (dt : Nat) : (s.advance dt).turn = s.turn ∧ (s.advance dt).mem = s.mem := by
  rw [State.advance]
  split
  · exact ⟨rfl, rfl⟩
  · exact markBusy_keeps s _

/-! ### The step of a turn -/

/-- A turn has ended, and the state names the next. -/
def turnEnd : Out → Out
  | .next t => .next t.nextTurn
  | .fault f => .fault f
  | .refused r => .refused r

theorem step_eq (s : State) : step s = turnEnd (runTurn exec (s.advance s.turn.dt)) := rfl

section
variable {s : State} {c k : Nat}

theorem step_slot (h : s.turn.agent = .slot c k) : step s = turnEnd (slotTurn exec (s.advance s.turn.dt) c k) := by
  rw [step_eq, runTurn, (s.advance_keeps _).1, h]
theorem step_entry (h : s.turn.agent = .execute c k) : step s = turnEnd (entryTurn exec (s.advance s.turn.dt) c k) := by
  rw [step_eq, runTurn, (s.advance_keeps _).1, h]
theorem step_flip {w : CheckedWord} {two : Bool} (h : s.turn.agent = .flip c k w two) :
    step s = .next (flipTurn (s.advance s.turn.dt) c k w two).nextTurn := by
  rw [step_eq, runTurn, (s.advance_keeps _).1, h, turnEnd]
theorem step_event {i : Instr} (h : s.turn.agent = .event i) :
    step s = turnEnd (if encode i = none then exec i (s.advance s.turn.dt) else .next (s.advance s.turn.dt)) := by
  have he : (encodeSlot i).isNone = true ↔ encode i = none := by rw [Option.isNone_iff_eq_none, encode, Option.map_eq_none_iff]
  rw [step_eq, runTurn, (s.advance_keeps _).1, h]
  simp only [he]

end

theorem correctAll_none {s : State} {x : Strand} {r : Reads} (c k : Nat) (h : x.checks.corrects r = ([], [], [])) :
    correctAll s c k x r = s := by
  simp [correctAll, h]

section
variable {ex : Instr → State → Out} {s : State} {c k : Nat} {x : Strand} (hx : s.strand c k = some x)
include hx

/-! ### A turn of a slot -/

theorem slotTurn_idle (h : cannotIssue (s.core c) k x = true ∨ awaits x = true) : slotTurn ex s c k = .next s := by
  simp only [slotTurn, hx]
  exact if_pos (by simpa using h)

section
variable (h1 : cannotIssue (s.core c) k x = false) (h2 : awaits x = false) (h3 : commits (s.core c) k x = false)
include h1 h2 h3

theorem slotTurn_watchdog (hw : watchdogDue x = true) : slotTurn ex s c k = .next
    (raise (toBank s c k { x with place := .bank, wdPending := false }) c k .n { code := cWatchdog, eva := 0 } x.pc 0) := by
  simp [slotTurn, hx, h1, h2, h3, hw]

theorem slotTurn_fetchFails (hw : watchdogDue x = false) (hd : drains x = false) {e : Code} (he : fetchSlot s c x = .error e) :
    slotTurn ex s c k = .next
      (raise (countFetch (toBank s c k { x with place := .bank }) c x x.pc e) c k .t { code := e, eva := x.pc } x.pc 0) := by
  simp [slotTurn, hx, h1, h2, h3, hw, hd, he]

end

/-! ### A turn of an entry -/

/-- The head entry runs with its operands captured, or takes SHADOW_CHECK_FAIL, once the words that it uses are sound. -/
theorem entryTurn_head {e : SeqEntry} (hh : (s.core c).halt = .none) (hd : parkDue (s.core c) = false) (hp : x.pending = none)
    (hb : x.place = .bank) (hg : gangStarted s c k = false) (hs : (s.core c).spec = none) (he : seqHead x.seq = some e)
    (hl : x.checks.lost { readsOf x e.k e.i with s := [], k := [] } = false)
    (hc : x.checks.corrects { readsOf x e.k e.i with s := [], k := [] } = ([], [], [])) :
    entryTurn ex s c k = if entryFails x e || entryUseFails s c k e
      then .next (raise s c k .v { code := cShadow, eva := 0 } x.pc e.pc)
      else ex e.i (captureOperands s c k x e) := by
  simp [entryTurn, hx, hh, hd, hp, hb, hg, hs, he, hl, correctAll_none c k hc]

/-! ### A turn of an upset -/

/-- A strand whose word `w` an upset has met: of a register that already disagrees, more than one bit does then. -/
def upsetStrand (w : CheckedWord) (two : Bool) (x : Strand) : Strand :=
  match w with
  | .s i => { x with checks := { x.checks with twoS := setBit x.checks.twoS i.val (two || bit x.checks.synS i.val)
                                               synS := setBit x.checks.synS i.val true } }
  | .v i => { x with checks := { x.checks with twoV := setBit x.checks.twoV i.val (two || bit x.checks.synV i.val)
                                               synV := setBit x.checks.synV i.val true } }
  | .k i => if i = 0 then x else
      { x with checks := { x.checks with twoK := setBit x.checks.twoK i.val (two || bit x.checks.synK i.val)
                                         synK := setBit x.checks.synK i.val true } }
  | _ => x

theorem flipTurn_eq {w : CheckedWord} {two : Bool} (h : two = true → fatalFlip w s c = false) :
    flipTurn s c k w two = flipBits s c k w two := by
  simp only [flipTurn, hx]
  refine if_neg (fun hf => ?_)
  rw [Bool.and_eq_true] at hf
  exact absurd (h hf.2) (by simp [hf.1])

theorem flipBits_strand (w : CheckedWord) (two : Bool) : (flipBits s c k w two).strand c k = some (upsetStrand w two x) := by
  have hm (f : Strand → Strand) : (s.modStrand c k f).strand c k = some (f x) := by
    rw [State.modStrand_some _ _ _ _ _ hx, State.setStrand_strand_self]
  have hc (f : Core → Core) (hf : ∀ co, (f co).strands = co.strands ∧ (f co).frames = co.frames) :
      (s.modCore c f).strand c k = some x := ((KeepsStrands.modCore s c hf).strand c k).trans hx
  cases w with
  | s i => exact hm _
  | v i => exact hm _
  | k i =>
    simp only [flipBits, upsetStrand]
    split
    · exact hx
    · exact hm _
  | slot pa =>
    simp only [flipBits]
    split
    · exact hc _ (fun _ => ⟨rfl, rfl⟩)
    · exact hc _ (fun _ => ⟨rfl, rfl⟩)
  | other => exact hc _ (fun _ => ⟨rfl, rfl⟩)

end

theorem flipBits_mem (s : State) (c k : Nat) (w : CheckedWord) (two : Bool) : (flipBits s c k w two).mem = s.mem := by
  cases w with
  | s i => exact State.modStrand_mem _ _ _ _
  | v i => exact State.modStrand_mem _ _ _ _
  | k i =>
    simp only [flipBits]
    split
    · rfl
    · exact State.modStrand_mem _ _ _ _
  | slot pa =>
    simp only [flipBits]
    split <;> rfl
  | other => rfl

/-- A queue slot with a tag: its check bits, which its shadow has written, disagree with its data from then on. -/
theorem flipBits_slotTag {s : State} {c pa : Nat} (k : Nat) (two : Bool) (h : fatalFlip (.slot pa) s c = false) :
    smGet none ((flipBits s c k (.slot pa) two).core c).slotTags pa = some true := by
  have ht : (smGet none (s.core c).slotTags pa).isSome = true := by
    simpa [fatalFlip, Option.isSome_iff_ne_none] using h
  simp [flipBits, ht, putSlotTag]

/-! ### O4 -/

/-- Settles O4: a turn of a slot that may not issue is idle (`slotTurn_idle`), one that meets the watchdog or a cause of its
fetch takes it (`slotTurn_watchdog`, `slotTurn_fetchFails`), one of an entry runs the entry or fails its check
(`entryTurn_head`), an upset marks its word (`flipBits_strand`), and an event runs where no slot has its word (`step_event`). -/
theorem stepRunsOthers : Obligations.StepRunsOthers := by
  unfold Obligations.StepRunsOthers
  intro s u after
  refine ⟨fun c k x ha hx => ⟨fun h => ?_, fun h1 h2 h3 => ⟨fun hw => ?_, fun hw hd e he => ?_⟩⟩,
    ?_, fun c k x w two ha hx => ?_, fun i ha => step_event ha⟩
  · rw [step_slot ha, slotTurn_idle hx h]; rfl
  · rw [step_slot ha, slotTurn_watchdog hx h1 h2 h3 hw]; rfl
  · rw [step_slot ha, slotTurn_fetchFails hx h1 h2 h3 hw hd he]; rfl
  · intro c k x e ha hx hh hd hp hb hg hs he r hl hc
    rw [step_entry ha, entryTurn_head hx hh hd hp hb hg hs he hl hc]
    split <;> rfl
  · refine ⟨_, step_flip ha, fun hf => ?_⟩
    rw [flipTurn_eq hx hf]
    refine ⟨flipBits_strand hx w two, fun q => ?_, fun pa hw hfat => ?_⟩
    · exact byte_of_mem ((flipBits_mem _ _ _ _ _).trans (s.advance_keeps _).2) q
    · subst hw
      exact flipBits_slotTag k two hfat

end Sys2Proof.Machine
end

section
/-! Traps of class N that a pending trap keeps back (09 R179; 12 R257). -/

namespace Sys2Proof.Machine

/-! ### The end of a slot that raises a cause -/

/-- `s` once the slot of `a` has completed, before anything that it raises. -/
def slotDone (s : State) (a : Actor) : State :=
  s.setCore a.core
    { countSlot (s.core a.core) a.k with strands := smPut (s.core a.core).strands a.k (some (nextSlot a.x a.pc)) }

theorem completeSlot_after {s : State} {a : Actor} (h : AtSlot s a) (cause : Cause) :
    completeSlot s a none (some cause) = raise (slotDone s a) a.core a.k .n cause (nextSlot a.x a.pc).pc 0 := by
  simp [completeSlot, h.strand, slotDone, State.setStrand, State.modCore, State.countCore, countSlot, nextSlot]

theorem slotDone_strand (s : State) (a : Actor) : (slotDone s a).strand a.core a.k = some (nextSlot a.x a.pc) := by
  simp [slotDone, State.strand]

theorem exec_trapI (s : State) (f : TrapF) : exec (.trapI f) s =
    accessOp s f.g (fun _ => .ok (.after s { code := cSoftwareTrap, eva := f.imm.setWidth 72 })) := rfl

/-- TRAP completes, and then raises its cause. -/
theorem exec_trapI_raises {s : State} {a : Actor} {f : TrapF} (h : AtSlot s a) (hg : a.guard f.g = true) :
    exec (.trapI f) s = .next (raise (slotDone s a) a.core a.k .n { code := cSoftwareTrap, eva := f.imm.setWidth 72 }
      (nextSlot a.x a.pc).pc 0) := by
  rw [exec_trapI, accessOp_eq h, if_pos hg, finishSlot, completeSlot_after h]

/-! ### A cause of class N beside a pending trap -/

section
variable {s : State} {c k : Nat} {x : Strand} {cause : Cause} {epc : Word} {cfg : PartCfg} {l : Leaf} {vb : List Byte}

/-- A strand that has a trap to take drops a cause of class N. -/
theorem raise_n_of_pending (hx : s.strand c k = some x) (hp : x.pending.isSome = true) (cause : Cause) (epc vpc : Word) :
    raise s c k .n cause epc vpc = s := by
  simp [raise, hx, hp]

/-- A strand that may take a trap has not taken it yet. -/
theorem TrapFits.not_taken (h : TrapFits s c k x cause epc cfg l vb) : ¬ TrapTaken s s c k x cause epc l vb := by
  obtain ⟨hx, -, htm, -⟩ := h
  rintro ⟨⟨y, hy, -, -, -, hty, -⟩, -⟩
  obtain rfl := Option.some.inj (hx.symm.trans hy)
  exact absurd (htm.symm.trans hty) (by decide)

end

/-! ### The machine -/

/-- A strand in the middle of its stack, with a trap of class V pending. -/
def heldStrand : Strand :=
  { freshStrand with
    s := freshStrand.s.set 14 0x1800
    pending := some { cls := .v, cause := { code := cArithInvalid, eva := 0 }, epc := 0, vpc := 0 } }
def heldLeaf : Leaf := { entry := 0, lo := 0xC00000000000D000, hi := 0, big := false, passed := false }
/-- Core 0 of partition 63 with that strand alone; its translation cache maps page 0, data, to physical page 0. -/
def heldCore : Core :=
  { Core.reset with
    part := 63, assigned := true, strands := [(0, some heldStrand)]
    tc := [{ part := 63, va := 0, big := false, lo := heldLeaf.lo, hi := heldLeaf.hi, passed := false }] }
/-- The vectors stand at 0, and that of SOFTWARE_TRAP names 0x40. -/
def heldState : State :=
  { State.reset with
    mem := [(0x30, 0x40)], cores := [(0, heldCore)], packages := [(0, { Package.reset with parts := [(63, some default)] })]
    turn := { agent := .slot 0 0, dt := 0, useCache := true, upset := false, free := 0 } }
def heldActor : Actor :=
  { core := 0, k := 0, x := heldStrand, exec := false, sr := heldStrand.s, kr := heldStrand.k, pc := 0 }
def heldTrap : TrapF := { g := { neg := false, k := 0 }, imm := 0 }
def heldCause : Cause := { code := cSoftwareTrap, eva := heldTrap.imm.setWidth 72 }
def heldVector : List Byte := [0x40, 0, 0, 0, 0, 0, 0, 0]
/-- The machine once the TRAP slot has completed, and its strand. -/
def heldDone : State := slotDone heldState heldActor
def heldNext : Strand := nextSlot heldStrand 0
/-- The record of the trap; the machine with the trap counted, and then with the record stored. -/
def heldRecord : List Byte := recordBytes (heldDone.core 0) 0 0 heldNext heldCause heldNext.pc 0 heldDone.tick heldDone.turn.free
def heldCounted : State := countDelivery heldDone 0 heldCause.code (heldDone.core 0).part
def heldStored : State := stored heldCounted (heldLeaf.pa 0x1000) heldRecord

theorem held_atSlot : AtSlot heldState heldActor := ⟨rfl, rfl⟩
theorem heldDone_strand : heldDone.strand 0 0 = some heldNext := slotDone_strand heldState heldActor
theorem trapRecord_heldNext : trapRecord heldNext = 0x1000 := by decide
theorem heldRecord_length : heldRecord.length = 2048 := recordBytes_length _ _ _ _ _ _ _ _ _

/-- The record lies where the strand may write. -/
theorem held_store : strandStoreRaw heldCounted 0 (strandIdent (heldDone.core 0) heldNext) 0x1000 heldRecord = .ok heldStored :=
  strandStoreRaw_ok heldRecord rfl rfl rfl (by rw [heldRecord_length]; rfl) (by rw [heldRecord_length]; decide) rfl rfl rfl

/-- The record leaves the vector as it was. -/
theorem heldStored_vector : readBytes heldStored (heldLeaf.pa 0x30) 8 = heldVector := by
  have hpa : heldLeaf.pa 0x30 + 8 ≤ heldLeaf.pa 0x1000 := by decide
  have hkeep : readBytes heldStored (heldLeaf.pa 0x30) 8 = readBytes heldCounted (heldLeaf.pa 0x30) 8 :=
    readBytes_congr _ _ _ _ (fun q _ hq => stored_byte_out _ (.inl (by omega)))
  rw [hkeep]
  rfl

theorem held_load : strandLoadRaw heldStored 0 { part := 63, cls := 1 } 0x30 8 = .ok heldVector := by
  have hw : OnlyWrites heldCounted heldStored := stored_onlyWrites _ _ _
  have hp : heldStored.poisoned (heldLeaf.pa 0x30) 8 = none := hw.poisoned_none rfl
  have hd : pieceDenied heldCounted (heldLeaf.pa 0x30) 8 heldLeaf.geom2 { part := 63, cls := 1 } .rd = none := by decide
  rw [← heldStored_vector]
  generalize heldStored = t at hw hp
  rw [hw.1] at hp ⊢
  exact strandLoadRaw_ok rfl rfl rfl rfl hd rfl hp rfl rfl

theorem held_fits : TrapFits heldDone 0 0 heldNext heldCause heldNext.pc default heldLeaf heldVector := by
  refine ⟨heldDone_strand, rfl, rfl, rfl, rfl, rfl, rfl, ?_, ?_, ?_, by decide⟩
  · rw [trapRecord_heldNext]; rfl
  · rw [trapRecord_heldNext]; exact held_store
  · rw [trapRecord_heldNext]; exact held_load

theorem held_raise : raise heldDone 0 0 .n heldCause heldNext.pc 0 = heldDone :=
  raise_n_of_pending heldDone_strand rfl _ _ _

/-- Refutes O11: `TrapFits` does not ask that the strand have no trap pending. Where it has one, here of class V, `raise` drops
a cause of class N (`raise_n_of_pending`), so the strand is not in trap mode. -/
theorem not_trapEntry : ¬ Obligations.TrapEntry := by
  intro h
  have ht := (h heldDone 0 0 heldNext .n heldCause heldNext.pc default heldLeaf heldVector (by decide) held_fits).1
  rw [held_raise] at ht
  exact held_fits.not_taken ht

/-- Refutes O12: `AtSlot` does not ask that the strand may issue. A TRAP that is executed while a trap is pending completes, and
its SOFTWARE_TRAP, class N, is dropped, though the strand is one that `TrapFits` describes. -/
theorem not_softwareTraps : ¬ Obligations.SoftwareTraps := by
  intro h
  obtain ⟨⟨htrap, -, -⟩, -⟩ := h
  obtain ⟨u, ⟨-, -, hy, -⟩, he, hfits⟩ := htrap heldState heldActor heldTrap held_atSlot rfl
  have hd : exec (.trapI heldTrap) heldState = .next heldDone := (exec_trapI_raises held_atSlot rfl).trans (congrArg _ held_raise)
  have hr := raise_n_of_pending hy rfl heldCause heldNext.pc 0
  obtain rfl : heldDone = u := Host.Outcome.next.inj (hd.symm.trans (he.trans (congrArg _ hr)))
  obtain ⟨t, ht, htaken⟩ := hfits default heldLeaf heldVector held_fits
  obtain rfl : heldDone = t := Host.Outcome.next.inj (hd.symm.trans ht)
  exact held_fits.not_taken htaken

end Sys2Proof.Machine
end

section
/-! Fields of a slot, operand specifiers and modifier codes: what is read back of what is written (10 R203, R209 to R214, Tables
10.3 to 10.5). -/

namespace Sys2Proof

/-! ### Fields (10 Table 10.3) -/

section
variable {m n : Nat} (x : BitVec m) (y : BitVec n)

@[simp] theorem fieldAt_append_low {lo len : Nat} (h : lo + len ≤ n) : fieldAt (no_index (x ++ y)) lo len = fieldAt y lo len :=
  BitVec.extractLsb'_append_eq_of_add_le h
@[simp] theorem fieldAt_append_high {lo len : Nat} (h : n ≤ lo) :
    fieldAt (no_index (x ++ y)) lo len = fieldAt x (lo - n) len :=
  BitVec.extractLsb'_append_eq_of_le h
@[simp] theorem fieldAt_whole : fieldAt x 0 m = x := BitVec.extractLsb'_eq_self
theorem fieldAt_join (lo n k : Nat) : fieldAt x (lo + n) k ++ fieldAt x lo n = fieldAt x lo (k + n) :=
  BitVec.extractLsb'_append_extractLsb'_eq_extractLsb' rfl
@[simp] theorem bitAt_append_low {i : Nat} (h : i < n) : bitAt (no_index (x ++ y)) i = bitAt y i := by
  simp [bitAt, BitVec.getLsbD_append, h]
@[simp] theorem bitAt_append_high {i : Nat} (h : n ≤ i) : bitAt (no_index (x ++ y)) i = bitAt x (i - n) := by
  simp [bitAt, BitVec.getLsbD_append, Nat.not_lt.mpr h]

end

@[simp] theorem bitAt_bit1 (b : Bool) : bitAt (bit1 b) 0 = b := by cases b <;> rfl
@[simp] theorem bitAt_one : bitAt (1#1) 0 = true := rfl
@[simp] theorem bitAt_zero (w i : Nat) : bitAt (0#w) i = false := by simp [bitAt]

theorem Slot.unpack_eq (w : SlotBits) : Slot.unpack w =
    { opc := fieldAt w 86 10, md := fieldAt w 80 6, gneg := fieldAt w 79 1, gk := fieldAt w 76 3, d := fieldAt w 68 8,
      a := fieldAt w 60 8, b := fieldAt w 52 8, dn := fieldAt w 48 4, an := fieldAt w 44 4, bn := fieldAt w 40 4,
      tail := fieldAt w 0 40 } := rfl
@[simp] theorem Slot.unpack_pack (s : Slot) : Slot.unpack s.pack = s := by
  simp [Slot.unpack_eq, Slot.pack]
@[simp] theorem Slot.pack_unpack (w : SlotBits) : (Slot.unpack w).pack = w := by
  rw [Slot.unpack_eq, Slot.pack, fieldAt_join w 80 6 10, fieldAt_join w 79 1, fieldAt_join w 76 3, fieldAt_join w 68 8,
    fieldAt_join w 60 8, fieldAt_join w 52 8, fieldAt_join w 48 4, fieldAt_join w 44 4, fieldAt_join w 40 4, fieldAt_join w 0 40]
  exact fieldAt_whole w

/-! ### Guards and unused fields (10 R209, R211) -/

section
variable (opc : Nat) (g : Guard)

@[simp] theorem slotOf_md : (slotOf opc g).md = 0#6 := rfl
@[simp] theorem slotOf_d : (slotOf opc g).d = specNone := rfl
@[simp] theorem slotOf_a : (slotOf opc g).a = specNone := rfl
@[simp] theorem slotOf_b : (slotOf opc g).b = specNone := rfl
@[simp] theorem slotOf_dn : (slotOf opc g).dn = 0#4 := rfl
@[simp] theorem slotOf_an : (slotOf opc g).an = 0#4 := rfl
@[simp] theorem slotOf_bn : (slotOf opc g).bn = 0#4 := rfl
@[simp] theorem slotOf_tail : (slotOf opc g).tail = 0#40 := rfl

@[simp] theorem getGuard_slotOf : getGuard (slotOf opc g) = g := by
  have h (k : Fin 8) : Fin.ofNat 8 (BitVec.ofNat 3 k.val).toNat = k := by revert k; decide
  simp only [getGuard, slotOf, bitAt_bit1, h]
/-- The guard of a slot stands in its own fields. -/
@[simp] theorem getGuard_mk (o : BitVec 10) (md : BitVec 6) (d a b : Spec) (dn an bn : BitVec 4) (tail : BitVec 40) :
    getGuard ⟨o, md, (slotOf opc g).gneg, (slotOf opc g).gk, d, a, b, dn, an, bn, tail⟩ = g := getGuard_slotOf opc g

end

/-! ### Operand specifiers (10 Tables 10.4 and 10.5) -/

@[simp] theorem getS_specS (i : Fin 16) : getS (specS i) = i := by revert i; decide
@[simp] theorem getS_specQ (i : Fin 16) : getS (specQ i) = i := by revert i; decide
@[simp] theorem getS_specA (i : Fin 16) : getS (specA i) = i := by revert i; decide
@[simp] theorem getV_specV (i : Fin 32) : getV (specV i) = i := by revert i; decide
@[simp] theorem getK_specK (i : Fin 8) : getK (specK i) = i := by revert i; decide
@[simp] theorem getImm_specImm (v : BitVec 5) : getImm (specImm v) = v := by revert v; decide
@[simp] theorem specClass_specS (i : Fin 16) : specClass (specS i) = 0 := by revert i; decide
@[simp] theorem specClass_specV (i : Fin 32) : specClass (specV i) = 1 := by revert i; decide
@[simp] theorem specClass_specQ (i : Fin 16) : specClass (specQ i) = 2 := by revert i; decide
@[simp] theorem specClass_specK (i : Fin 8) : specClass (specK i) = 3 := by revert i; decide
@[simp] theorem specClass_specImm (v : BitVec 5) : specClass (specImm v) = 6 := by revert v; decide
theorem engine_specImm (e : Fin 4) : Fin.ofNat 4 (specImm (BitVec.ofNat 5 e.val)).toNat = e := by revert e; decide
theorem engine_specImm_release (e : Fin 4) : Fin.ofNat 4 (specImm (BitVec.ofNat 5 (8 + e.val))).toNat = e := by
  revert e; decide
@[simp] theorem specClass_specZr : specClass specZr = 5 := rfl
/-- A specifier of any class but 7 is not none. -/
theorem ne_specNone {b : Spec} (h : specClass b ≠ 7) : b ≠ specNone := fun e => h (e ▸ rfl)
@[simp] theorem specS_ne_none (i : Fin 16) : specS i ≠ specNone := ne_specNone (by simp)
@[simp] theorem specK_ne_none (i : Fin 8) : specK i ≠ specNone := ne_specNone (by simp)

@[simp] theorem getSSrc_spec (x : SSrc) : getSSrc x.spec = x := by
  cases x with
  | s i => simp [SSrc.spec, getSSrc]
  | imm v => simp [SSrc.spec, getSSrc]
  | zr => rfl
  | loop r => cases r <;> rfl
  | pcn => rfl
@[simp] theorem SSrc.spec_ne_none (x : SSrc) : x.spec ≠ specNone := by
  cases x with
  | s i => exact specS_ne_none i
  | imm v => exact ne_specNone (by simp [SSrc.spec])
  | zr => decide
  | loop r => cases r <;> decide
  | pcn => decide
@[simp] theorem getSReg_spec (x : SReg) : getSReg x.spec = x := by
  cases x <;> simp [SReg.spec, getSReg]
@[simp] theorem SReg.spec_ne_none (x : SReg) : x.spec ≠ specNone := by
  cases x with
  | s i => exact specS_ne_none i
  | zr => decide
@[simp] theorem getSData_spec (x : SData) : getSData x.spec = x := by
  cases x <;> simp [SData.spec, getSData]
@[simp] theorem getSCount_spec (x : SCount) : getSCount x.spec = x := by
  cases x <;> simp [SCount.spec, getSCount]
@[simp] theorem getVSrc_spec (x : VSrc) : getVSrc x.spec x.need = x := by
  cases x <;> simp [VSrc.spec, VSrc.need, getVSrc]
/-- A C source has no need: it is no queue. -/
theorem getVSrc_of_okC {t : LaneTy} {x : VSrc} (h : x.okC t = true) : getVSrc x.spec 0#4 = x := by
  cases x with
  | q i n => exact absurd h Bool.false_ne_true
  | _ => exact getVSrc_spec _
@[simp] theorem VSrc.spec_ne_none (x : VSrc) : x.spec ≠ specNone := by
  cases x with
  | zr => decide
  | _ => exact ne_specNone (by simp [VSrc.spec])
@[simp] theorem getVReg_spec (x : VReg) : getVReg x.spec x.need = x := by
  cases x <;> simp [VReg.spec, VReg.need, getVReg]
@[simp] theorem getBstSrc_spec (x : BstSrc) : getBstSrc x.spec x.need = x := by
  cases x <;> simp [BstSrc.spec, BstSrc.need, getBstSrc]
@[simp] theorem getKSrc_spec (x : KSrc) : getKSrc x.spec = x := by
  cases x <;> simp [KSrc.spec, getKSrc]
@[simp] theorem getArgRegs_spec (x : ArgRegs) : getArgRegs x.spec = x := by
  cases x <;> simp [ArgRegs.spec, getArgRegs]

/-- A field of one class, or none, where no member of the class reads as none. -/
theorem getOpt_optSpec {α : Type} {f : α → Spec} {g : Spec → α} (hg : ∀ x, g (f x) = x) (hf : ∀ x, f x ≠ specNone)
    (o : Option α) : getOpt g (optSpec f o) = o := by
  cases o with
  | none => rfl
  | some x => simp [getOpt, optSpec, hf, hg]
@[simp] theorem getOpt_specS (o : Option (Fin 16)) : getOpt getS (optSpec specS o) = o :=
  getOpt_optSpec getS_specS specS_ne_none o
@[simp] theorem getOpt_specK (o : Option (Fin 8)) : getOpt getK (optSpec specK o) = o :=
  getOpt_optSpec getK_specK specK_ne_none o
@[simp] theorem getOpt_SReg (o : Option SReg) : getOpt getSReg (optSpec SReg.spec o) = o :=
  getOpt_optSpec getSReg_spec SReg.spec_ne_none o
@[simp] theorem getOpt_SSrc (o : Option SSrc) : getOpt getSSrc (optSpec SSrc.spec o) = o :=
  getOpt_optSpec getSSrc_spec SSrc.spec_ne_none o

/-! ### Modifier codes -/

@[simp] theorem getIWidth_code (x : IWidth) : getIWidth x.code = x := by cases x <;> rfl
@[simp] theorem getCond_code (x : Cond) : getCond x.code = x := by cases x <;> rfl
@[simp] theorem getCtlReg_code (x : CtlReg) : getCtlReg x.code = x := by cases x <;> rfl
@[simp] theorem getLaneTy_code (x : LaneTy) : getLaneTy x.code = x := by cases x <;> rfl
@[simp] theorem getRnd_code (x : RndField) : getRnd x.code = x := by cases x <;> rfl
@[simp] theorem getScope_code (x : Scope) : getScope x.code = x := by cases x <;> rfl
@[simp] theorem getMWidth_code (x : MWidth) : getMWidth x.code = x := by cases x <;> rfl
@[simp] theorem getRedOp_code (x : RedOp) : getRedOp x.code = x := by cases x <;> rfl
@[simp] theorem getCredOp_code (x : CredOp) : getCredOp x.code = x := by cases x <;> rfl
@[simp] theorem getCredFmt_code (x : CredFmt) : getCredFmt x.code = x := by cases x <;> rfl
@[simp] theorem getAmofFmt_code (x : AmofFmt) : getAmofFmt x.code = x := by cases x <;> rfl
@[simp] theorem getMatFmt_code (x : MatFmt) : getMatFmt x.code = x := by cases x <;> rfl
@[simp] theorem getHeadDim_code (x : HeadDim) : getHeadDim x.code = x := by cases x <;> rfl
@[simp] theorem getAttnIn_code (x : AttnIn) : getAttnIn x.code = x := by cases x <;> rfl
@[simp] theorem getAttnOut_code (x : AttnOut) : getAttnOut x.code = x := by cases x <;> rfl
@[simp] theorem getOrder_code (x : Order) : getOrder (ordCode x) = x := by
  cases x with
  | plain => rfl
  | acq sc => cases sc <;> rfl
  | rel sc => cases sc <;> rfl
@[simp] theorem scope_acqOrder (o : Option Scope) : (acqOrder o).scope? = o := by cases o <;> rfl
@[simp] theorem scope_relOrder (o : Option Scope) : (relOrder o).scope? = o := by cases o <;> rfl

/-- The qualifier that a mnemonic takes. -/
@[simp] theorem scope_order (rel : Bool) (o : Option Scope) : (if rel = true then relOrder o else acqOrder o).scope? = o := by
  cases rel <;> simp

/-! ### Parts of TAIL and MOD (10 R214; 14 Table 14.2; 15 Table 15.2; 20 R405) -/

@[simp] theorem tail2_eq (c : Spec) (imm : BitVec 32) : tail2 c imm = c ++ imm := rfl
@[simp] theorem tailC_eq (s : Slot) : tailC s = fieldAt s.tail 32 8 := rfl
@[simp] theorem tailImm_eq (s : Slot) : tailImm s = fieldAt s.tail 0 32 := rfl
@[simp] theorem tail3_eq (ofs : BitVec 37) (ts : BitVec 3) : tail3 ofs ts = ofs ++ ts := rfl
@[simp] theorem tailOfs_eq (s : Slot) : tailOfs s = fieldAt s.tail 3 37 := rfl
@[simp] theorem tailTslot_eq (s : Slot) : tailTslot s = fieldAt s.tail 0 3 := rfl
@[simp] theorem vImm_eq (rm : RndField) (sat : Bool) (x : BitVec 28) : vImm rm sat x = rm.code ++ bit1 sat ++ x := rfl
@[simp] theorem vRm_eq (s : Slot) : vRm s = getRnd (fieldAt s.tail 29 3) := rfl
@[simp] theorem vSat_eq (s : Slot) : vSat s = bitAt s.tail 28 := rfl
@[simp] theorem vLt_eq (s : Slot) : vLt s = getLaneTy (fieldAt s.md 0 5) := rfl
@[simp] theorem vMod_eq (sh : Bool) (t : LaneTy) : vMod sh t = bit1 sh ++ t.code := rfl
@[simp] theorem cvtField_eq (st : LaneTy) (pos : BitVec 4) : cvtField st pos = 0#2 ++ pos ++ 0#1 ++ st.code ++ 0#16 := rfl
@[simp] theorem getSt_eq (s : Slot) : getSt s = getLaneTy (fieldAt s.tail 16 5) := rfl
@[simp] theorem mImm_eq (ord : Order) (raw sat : Bool) (rm : RndField) (sc : BitVec 3) (bc : Bool) (disp : BitVec 18) :
    mImm ord raw sat rm sc bc disp = ordCode ord ++ bit1 raw ++ bit1 sat ++ rm.code ++ sc ++ bit1 bc ++ disp := rfl
@[simp] theorem mOrd_eq (s : Slot) : mOrd s = getOrder (fieldAt s.tail 27 5) := rfl
@[simp] theorem mRaw_eq (s : Slot) : mRaw s = bitAt s.tail 26 := rfl
@[simp] theorem mSat_eq (s : Slot) : mSat s = bitAt s.tail 25 := rfl
@[simp] theorem mRm_eq (s : Slot) : mRm s = getRnd (fieldAt s.tail 22 3) := rfl
@[simp] theorem mSc_eq (s : Slot) : mSc s = fieldAt s.tail 19 3 := rfl
@[simp] theorem mDisp_eq (s : Slot) : mDisp s = fieldAt s.tail 0 18 := rfl
@[simp] theorem getMem_eq (s : Slot) : getMem s = { a := getSReg s.a, b := getOpt getS s.b, sc := mSc s, disp := mDisp s } := rfl
@[simp] theorem getBase_eq (s : Slot) : getBase s = { a := getSReg s.a, disp := mDisp s } := rfl
@[simp] theorem mfMod_eq (mf : MatFmt) (chk : Bool) : mfMod mf chk = mf.code ++ bit1 chk ++ 0#2 := rfl
@[simp] theorem getMf_eq (s : Slot) : getMf s = getMatFmt (fieldAt s.md 3 3) := rfl
@[simp] theorem getChk_eq (s : Slot) : getChk s = bitAt s.md 2 := rfl
@[simp] theorem getDisp18_eq (s : Slot) : getDisp18 s = fieldAt s.tail 0 18 := rfl
@[simp] theorem getFold_eq (s : Slot) : getFold s = Fin.ofNat 16 (fieldAt s.md 2 4).toNat := rfl

end Sys2Proof
end

section
/-! The formats of the instructions: the fields that a format writes into a slot are read back from it (10 R203; the encoding
tables of 12, 14, 15, 17 and 20). -/

namespace Sys2Proof

/-! ### Rows 0x00 to 0x07 (chapter 12) -/

@[simp] theorem decAlu3_encAlu3 (opc : Nat) (f : Alu3) : decAlu3 (encAlu3 opc f) = f := by simp [decAlu3, encAlu3]
@[simp] theorem decAlu2_encAlu2 (opc : Nat) (z : Bool) (f : Alu2) : decAlu2 (encAlu2 opc z f) = f := by simp [decAlu2, encAlu2]
@[simp] theorem decAluI_encAluI (opc : Nat) (f : AluI) : decAluI (encAluI opc f) = f := by simp [decAluI, encAluI]
@[simp] theorem decBitField_encBitField (opc : Nat) (f : BitField) : decBitField (encBitField opc f) = f := by
  simp [decBitField, encBitField]
@[simp] theorem decLi_encLi (opc : Nat) (f : LiF) : decLi (encLi opc f) = f := by simp [decLi, encLi]
@[simp] theorem decLih_encLih (opc : Nat) (f : LihF) : decLih (encLih opc f) = f := by simp [decLih, encLih]
@[simp] theorem decLea_encLea (opc : Nat) (f : LeaF) : decLea (encLea opc f) = f := by simp [decLea, encLea]
@[simp] theorem decAdda_encAdda (opc : Nat) (f : AddaF) : decAdda (encAdda opc f) = f := by
  obtain ⟨sh, g, d, a, b⟩ := f
  cases b <;> simp [decAdda, encAdda]
@[simp] theorem decSelect_encSelect (opc : Nat) (f : SelectF) : decSelect (encSelect opc f) = f := by
  simp [decSelect, encSelect]
@[simp] theorem decCmp_encCmp (opc : Nat) (f : CmpF) : decCmp (encCmp opc f) = f := by simp [decCmp, encCmp]
@[simp] theorem decCmpi_encCmpi (opc : Nat) (f : CmpiF) : decCmpi (encCmpi opc f) = f := by simp [decCmpi, encCmpi]
@[simp] theorem decK3_encK3 (opc : Nat) (f : K3) : decK3 (encK3 opc f) = f := by simp [decK3, encK3]
@[simp] theorem decK2_encK2 (opc : Nat) (f : K2) : decK2 (encK2 opc f) = f := by simp [decK2, encK2]
@[simp] theorem decKmov_encKmov (opc : Nat) (f : KmovF) : decKmov (encKmov opc f) = f := by simp [decKmov, encKmov]
@[simp] theorem decBare_encBare (opc : Nat) (f : Bare) : decBare (encBare opc f) = f := by simp [decBare, encBare]
@[simp] theorem decBranch_encBranch (opc : Nat) (f : BranchF) : decBranch (encBranch opc f) = f := by
  simp [decBranch, encBranch]
@[simp] theorem decReg_encReg (opc : Nat) (f : RegF) : decReg (encReg opc f) = f := by simp [decReg, encReg]
@[simp] theorem decLoop_encLoop (opc : Nat) (f : LoopF) : decLoop (encLoop opc f) = f := by simp [decLoop, encLoop]
@[simp] theorem decLoopi_encLoopi (opc : Nat) (f : LoopiF) : decLoopi (encLoopi opc f) = f := by simp [decLoopi, encLoopi]
@[simp] theorem decTrap_encTrap (opc : Nat) (f : TrapF) : decTrap (encTrap opc f) = f := by simp [decTrap, encTrap]
@[simp] theorem decGetc_encGetc (opc : Nat) (f : GetcF) : decGetc (encGetc opc f) = f := by simp [decGetc, encGetc]
@[simp] theorem decSetc_encSetc (opc : Nat) (f : SetcF) : decSetc (encSetc opc f) = f := by simp [decSetc, encSetc]
@[simp] theorem decTlbi_encTlbi (opc : Nat) (kind : BitVec 5) (f : TlbiF) : decTlbi (encTlbi opc kind f) = f := by
  simp [decTlbi, encTlbi]
@[simp] theorem decBare_encTlbiAll (opc : Nat) (f : Bare) : decBare (encTlbiAll opc f) = f := by simp [decBare, encTlbiAll]
@[simp] theorem decDstReg_encDstReg (opc : Nat) (f : DstReg) : decDstReg (encDstReg opc f) = f := by simp [decDstReg, encDstReg]

/-! ### Rows 0x08 to 0x0F (chapter 14) -/

@[simp] theorem decV3_encV3 (opc : Nat) (f : V3) : decV3 (encV3 opc f) = f := by simp [decV3, encV3]
theorem decV4_encV4 (opc : Nat) {f : V4} (h : f.c.okC f.lt = true) : decV4 (encV4 opc f) = f := by
  simp [decV4, encV4, getVSrc_of_okC h]
@[simp] theorem decV3n_encV3n (opc : Nat) (f : V3n) : decV3n (encV3n opc f) = f := by simp [decV3n, encV3n]
@[simp] theorem decV2_encV2 (opc : Nat) (f : V2) : decV2 (encV2 opc f) = f := by simp [decV2, encV2]
theorem decVdot_encVdot (opc : Nat) {f : VdotF} (h : f.ok = true) : decVdot (encVdot opc f) = f := by
  obtain ⟨sh, g, lt, d, a, b, c, rm, sat⟩ := f
  cases c with
  | none => simp [decVdot, encVdot, optSpec, getOpt]
  | some c =>
    have hc : getVSrc c.spec 0#4 = c := by
      cases c with
      | q i n => simp [VdotF.ok] at h
      | _ => exact getVSrc_spec _
    simp [decVdot, encVdot, optSpec, getOpt, hc]
@[simp] theorem decVred_encVred (opc : Nat) (f : VredF) : decVred (encVred opc f) = f := by simp [decVred, encVred]
@[simp] theorem decVcmp_encVcmp (opc : Nat) (f : VcmpF) : decVcmp (encVcmp opc f) = f := by
  obtain ⟨sh, g, lt, cond, d, a, b⟩ := f
  cases b <;> simp [decVcmp, encVcmp, optSpec, getOpt]
@[simp] theorem decVsel_encVsel (opc : Nat) (f : VselF) : decVsel (encVsel opc f) = f := by simp [decVsel, encVsel]
@[simp] theorem decVperm_encVperm (opc : Nat) (f : VpermF) : decVperm (encVperm opc f) = f := by simp [decVperm, encVperm]
@[simp] theorem decVbcast_encVbcast (opc : Nat) (f : VbcastF) : decVbcast (encVbcast opc f) = f := by
  simp [decVbcast, encVbcast]
@[simp] theorem decVext_encVext (opc : Nat) (f : VextF) : decVext (encVext opc f) = f := by simp [decVext, encVext]
@[simp] theorem decVins_encVins (opc : Nat) (f : VinsF) : decVins (encVins opc f) = f := by simp [decVins, encVins]
@[simp] theorem decVcvt_encVcvt (opc : Nat) (f : VcvtF) : decVcvt (encVcvt opc f) = f := by simp [decVcvt, encVcvt]
@[simp] theorem decVpack_encVpack (opc : Nat) (f : VpackF) : decVpack (encVpack opc f) = f := by simp [decVpack, encVpack]
@[simp] theorem decVunpk_encVunpk (opc : Nat) (f : VunpkF) : decVunpk (encVunpk opc f) = f := by simp [decVunpk, encVunpk]
@[simp] theorem decVloop_encVloop (opc : Nat) (f : VloopF) : decVloop (encVloop opc f) = f := by
  obtain ⟨g, n, c⟩ := f
  cases c <;> simp [decVloop, encVloop]
@[simp] theorem decQcfg_encQcfg (opc : Nat) (f : QcfgF) : decQcfg (encQcfg opc f) = f := by simp [decQcfg, encQcfg]
@[simp] theorem decQueue_encQueue (opc : Nat) (f : QueueF) : decQueue (encQueue opc f) = f := by simp [decQueue, encQueue]
@[simp] theorem decQadv_encQadv (opc : Nat) (f : QadvF) : decQadv f.exec (encQadv opc f) = f := by simp [decQadv, encQadv]
@[simp] theorem decQstat_encQstat (opc : Nat) (f : QstatF) : decQstat (encQstat opc f) = f := by simp [decQstat, encQstat]
@[simp] theorem decKpush_encKpush (opc : Nat) (f : KpushF) : decKpush (encKpush opc f) = f := by
  simp [decKpush, encKpush, specImm]

/-! ### Rows 0x10 to 0x14 (chapter 15) -/

@[simp] theorem decLd_encLd (opc : Nat) (f : LdF) : decLd (encLd opc f) = f := by simp [decLd, encLd]
@[simp] theorem decSt_encSt (opc : Nat) (f : StF) : decSt (encSt opc f) = f := by simp [decSt, encSt]
@[simp] theorem decLdq_encLdq (opc : Nat) (rel : Bool) (f : LdqF) : decLdq (encLdq opc rel f) = f := by simp [decLdq, encLdq]
@[simp] theorem decVmem_encVmem (opc : Nat) (rel : Bool) (f : VmemF) : decVmem (encVmem opc rel f) = f := by
  simp [decVmem, encVmem]
@[simp] theorem decVstride_encVstride (opc : Nat) (rel : Bool) (f : VstrideF) : decVstride (encVstride opc rel f) = f := by
  simp [decVstride, encVstride]
@[simp] theorem decVindex_encVindex (opc : Nat) (rel : Bool) (f : VindexF) : decVindex (encVindex opc rel f) = f := by
  simp [decVindex, encVindex]
@[simp] theorem decVgathBc_encVgathBc (opc : Nat) (f : VgathBcF) : decVgathBc (encVgathBc opc f) = f := by
  simp [decVgathBc, encVgathBc]
@[simp] theorem decAmo_encAmo (opc : Nat) (f : AmoF) : decAmo (encAmo opc f) = f := by simp [decAmo, encAmo]
@[simp] theorem decCas_encCas (opc : Nat) (f : CasF) : decCas (encCas opc f) = f := by simp [decCas, encCas]
@[simp] theorem decAmof_encAmof (opc : Nat) (f : AmofF) : decAmof (encAmof opc f) = f := by simp [decAmof, encAmof]
@[simp] theorem decFence_encFence (opc : Nat) (f : FenceF) : decFence (encFence opc f) = f := by simp [decFence, encFence]
@[simp] theorem decFenceLea_encFenceLea (opc : Nat) (f : FenceLeaF) : decFenceLea (encFenceLea opc f) = f := by
  simp [decFenceLea, encFenceLea]
@[simp] theorem decCpy_encCpy (opc : Nat) (f : CpyF) : decCpy (encCpy opc f) = f := by simp [decCpy, encCpy]
@[simp] theorem decReplay_encReplay (opc : Nat) (f : ReplayF) : decReplay (encReplay opc f) = f := by
  simp [decReplay, encReplay]
@[simp] theorem decCred_encCred (opc : Nat) (f : CredF) : decCred (encCred opc f) = f := by simp [decCred, encCred]
@[simp] theorem decEseq_encEseq (opc : Nat) (f : EseqF) : decEseq (encEseq opc f) = f := by
  obtain ⟨sh, g, d, eng⟩ := f
  simp only [decEseq, encEseq, engine_specImm]
  simp
@[simp] theorem decRlqQuery_encRlqQuery (opc : Nat) (f : RlqQueryF) : decRlqQuery (encRlqQuery opc f) = f := by
  simp [decRlqQuery, encRlqQuery]
@[simp] theorem decRlqRelease_encRlqRelease (opc : Nat) (f : RlqReleaseF) : decRlqRelease (encRlqRelease opc f) = f := by
  obtain ⟨sh, g, d, a, eng⟩ := f
  simp only [decRlqRelease, encRlqRelease, engine_specImm_release]
  simp
@[simp] theorem decMbind_encMbind (opc : Nat) (f : MbindF) : decMbind (encMbind opc f) = f := by simp [decMbind, encMbind]

/-! ### Rows 0x15 to 0x17 (chapter 17) -/

@[simp] theorem decInvoke_encInvoke (opc : Nat) (f : InvokeF) : decInvoke (encInvoke opc f) = f := by
  simp [decInvoke, encInvoke]
@[simp] theorem decInvoken_encInvoken (opc : Nat) (f : InvokenF) : decInvoken (encInvoken opc f) = f := by
  simp [decInvoken, encInvoken]
@[simp] theorem decSendMbox_encSendMbox (opc : Nat) (f : SendMboxF) : decSendMbox (encSendMbox opc f) = f := by
  simp [decSendMbox, encSendMbox]
@[simp] theorem decSendAct_encSendAct (opc : Nat) (f : SendActF) : decSendAct (encSendAct opc f) = f := by
  simp [decSendAct, encSendAct]
@[simp] theorem decResolve_encResolve (opc : Nat) (f : ResolveF) : decResolve (encResolve opc f) = f := by
  simp [decResolve, encResolve]
@[simp] theorem decReg2_encResolveObj (opc : Nat) (f : Reg2) : decReg2 (encResolveObj opc f) = f := by
  simp [decReg2, encResolveObj]
@[simp] theorem decBreak_encBreak (opc : Nat) (f : BreakF) : decBreak (encBreak opc f) = f := by simp [decBreak, encBreak]
@[simp] theorem decWhen_encWhen (opc : Nat) (f : WhenF) : decWhen (encWhen opc f) = f := by simp [decWhen, encWhen]
@[simp] theorem decHget_encHget (opc : Nat) (f : HgetF) : decHget (encHget opc f) = f := by simp [decHget, encHget]
@[simp] theorem decObjnew_encObjnew (opc : Nat) (f : ObjnewF) : decObjnew (encObjnew opc f) = f := by
  simp [decObjnew, encObjnew]
@[simp] theorem decMigra_encMigra (opc : Nat) (f : MigraF) : decMigra (encMigra opc f) = f := by simp [decMigra, encMigra]
@[simp] theorem decHold_encHold (opc : Nat) (f : HoldF) : decHold (encHold opc f) = f := by
  obtain ⟨g, m⟩ := f
  cases m <;> simp [decHold, encHold]
@[simp] theorem decTask_encTask (opc : Nat) (f : TaskF) : decTask (encTask opc f) = f := by
  obtain ⟨g, d, a, n⟩ := f
  cases n <;> simp [decTask, encTask]
@[simp] theorem decTdec_encTdec (opc : Nat) (f : TdecF) : decTdec (encTdec opc f) = f := by simp [decTdec, encTdec]
@[simp] theorem decTestc_encTestc (opc : Nat) (f : TestcF) : decTestc (encTestc opc f) = f := by simp [decTestc, encTestc]
@[simp] theorem decRegD_encRegD (opc : Nat) (f : RegD) : decRegD (encRegD opc f) = f := by simp [decRegD, encRegD]
@[simp] theorem decPhwait_encPhwait (opc : Nat) (f : PhwaitF) : decPhwait (encPhwait opc f) = f := by
  simp [decPhwait, encPhwait]
@[simp] theorem decFold_encFold (opc : Nat) (f : FoldF) : decFold (encFold opc f) = f := by simp [decFold, encFold]
@[simp] theorem decFmemb_encFmemb (opc : Nat) (f : FmembF) : decFmemb (encFmemb opc f) = f := by simp [decFmemb, encFmemb]
@[simp] theorem decCbr_encCbr (opc : Nat) (f : CbrF) : decCbr (encCbr opc f) = f := by simp [decCbr, encCbr]
@[simp] theorem decBst_encBst (opc : Nat) (f : BstF) : decBst (encBst opc f) = f := by simp [decBst, encBst]
@[simp] theorem decBseq_encBseq (opc : Nat) (f : BseqF) : decBseq (encBseq opc f) = f := by simp [decBseq, encBseq]

/-! ### Rows 0x18 to 0x1B (chapter 20) -/

@[simp] theorem decWld_encWld (opc : Nat) (f : WldF) : decWld (encWld opc f) = f := by simp [decWld, encWld]
@[simp] theorem decMma_encMma (opc : Nat) (f : MmaF) : decMma (encMma opc f) = f := by
  obtain ⟨g, mf, chk, d, q, need, m⟩ := f
  cases m <;> simp [decMma, encMma, getM, mSpec, mMask]
@[simp] theorem decMrec_encMrec (opc : Nat) (f : MrecF) : decMrec (encMrec opc f) = f := by
  obtain ⟨g, mf, d, q, need, m⟩ := f
  cases m <;> simp [decMrec, encMrec, getM, mSpec, mMask]
@[simp] theorem decMpld_encMpld (opc : Nat) (f : MpldF) : decMpld (encMpld opc f) = f := by simp [decMpld, encMpld]
@[simp] theorem decTileD_encTileD (opc : Nat) (rel : Bool) (f : TileF) : decTileD (encTileD opc rel f) = f := by
  simp [decTileD, encTileD]
@[simp] theorem decTileA_encTileA (opc : Nat) (f : TileF) : decTileA (encTileA opc f) = f := by simp [decTileA, encTileA]
@[simp] theorem decTileMem_encTileMem (opc : Nat) (f : TileMemF) : decTileMem (encTileMem opc f) = f := by
  simp [decTileMem, encTileMem]
@[simp] theorem decAcvt_encAcvt (opc : Nat) (f : AcvtF) : decAcvt (encAcvt opc f) = f := by simp [decAcvt, encAcvt]
@[simp] theorem decLadcfg_encLadcfg (opc : Nat) (f : LadcfgF) : decLadcfg (encLadcfg opc f) = f := by
  simp [decLadcfg, encLadcfg]
@[simp] theorem decLadld_encLadld (opc : Nat) (f : LadldF) : decLadld (encLadld opc f) = f := by simp [decLadld, encLadld]
@[simp] theorem decLadw_encLadw (opc : Nat) (f : LadwF) : decLadw (encLadw opc f) = f := by simp [decLadw, encLadw]
@[simp] theorem decAttncfg_encAttncfg (opc : Nat) (f : AttncfgF) : decAttncfg (encAttncfg opc f) = f := by
  simp [decAttncfg, encAttncfg]
@[simp] theorem decAttn_encAttn (opc : Nat) (f : AttnF) : decAttn (encAttn opc f) = f := by simp [decAttn, encAttn]
@[simp] theorem decNbmv_encNbmv (opc : Nat) (f : NbmvF) : decNbmv (encNbmv opc f) = f := by simp [decNbmv, encNbmv]

end Sys2Proof
end

section
/-! The decoder and the encoder: what the decoder reads back from an instruction's slot, and what it accepts (10 R203, R209, R217;
10 Tables 10.6 and 10.7). -/

namespace Sys2Proof

/-! ### The opcode map (10 Table 10.6) -/

/-- The fields of a slot, read by its row and column. -/
def readAt (side : Bool) (row col : Nat) (s : Slot) : Option Instr :=
  match row with
  | 0x00 => readRow00 col s
  | 0x01 => readRow01 col s
  | 0x02 => readRow02 col s
  | 0x04 => readRow04 col s
  | 0x05 => readRow05 side col s
  | 0x06 => readRow06 col s
  | 0x07 => readRow07 col s
  | 0x08 => readRow08 col s
  | 0x09 => readRow09 col s
  | 0x0A => readRow0A col s
  | 0x0C => readRow0C col s
  | 0x0D => readRow0D col s
  | 0x0E => readRow0E col s
  | 0x0F => readRow0F side col s
  | 0x10 => readRow10 col s
  | 0x11 => readRow11 col s
  | 0x12 => readRow12 col s
  | 0x13 => readRow13 col s
  | 0x14 => readRow14 col s
  | 0x15 => readRow15 col s
  | 0x16 => readRow16 col s
  | 0x17 => readRow17 col s
  | 0x18 => readRow18 col s
  | 0x19 => readRow19 col s
  | 0x1A => readRow1A col s
  | 0x1B => readRow1B col s
  | _ => none

theorem readSlot_eq {s : Slot} {n : Nat} (side : Bool) (h : s.opc = BitVec.ofNat 10 n) :
    readSlot side s = readAt side ((BitVec.ofNat 10 n).toNat / 32) ((BitVec.ofNat 10 n).toNat % 32) s := by
  rw [← h]; rfl

/-- An opcode that asks for a side gives it to its instruction. -/
theorem Instr.side_eq {i : Instr} {s : Slot} {x : Bool} (h : encodeSlot i = some s)
    (hs : opSide (s.opc.toNat / 32) (s.opc.toNat % 32) = some x) : i.side = x := by
  cases i
  case nop f => cases h; exact absurd hs (by simp [encBare, slotOf, opSide])
  case qadvP f => cases h; exact absurd hs (by simp [encQadv, slotOf, opSide])
  case qadvC f => cases h; exact absurd hs (by simp [encQadv, slotOf, opSide])
  all_goals simp only [Instr.side, h, hs, Option.getD_some]

@[simp] theorem Instr.side_nop (f : NopF) : (Instr.nop f).side = f.exec := rfl
@[simp] theorem Instr.side_qadvP (f : QadvF) : (Instr.qadvP f).side = f.exec := rfl
@[simp] theorem Instr.side_qadvC (f : QadvF) : (Instr.qadvC f).side = f.exec := rfl

/-- An instruction stands on the side that its opcode asks for. -/
theorem sideOk_encodeSlot {i : Instr} {s : Slot} (h : encodeSlot i = some s) : sideOk s i.side = true := by
  rw [sideOk]
  split
  · rfl
  · next x hx => rw [Instr.side_eq h hx, beq_self_eq_true]

/-! ### Two instructions of one opcode -/

section
variable (opc : Nat)

@[simp] theorem encVindex_bc (rel : Bool) (f : VindexF) : bitAt (encVindex opc rel f).tail 18 = false := by simp [encVindex]
@[simp] theorem encVgathBc_bc (f : VgathBcF) : bitAt (encVgathBc opc f).tail 18 = true := by simp [encVgathBc]
@[simp] theorem encFence_lea (f : FenceF) : bitAt (encFence opc f).md 1 = false := by simp [encFence]
@[simp] theorem encFenceLea_lea (f : FenceLeaF) : bitAt (encFenceLea opc f).md 1 = true := by simp [encFenceLea]
@[simp] theorem encRlqRelease_kind (f : RlqReleaseF) : (encRlqRelease opc f).b ≠ specImm 0#5 := by
  have h (e : Fin 4) : specImm (BitVec.ofNat 5 (8 + e.val)) ≠ specImm 0 := by revert e; decide
  exact h f.eng
@[simp] theorem encSendMbox_am (f : SendMboxF) : bitAt (encSendMbox opc f).md 0 = false := by simp [encSendMbox]
@[simp] theorem encSendAct_am (f : SendActF) : bitAt (encSendAct opc f).md 0 = true := by simp only [encSendAct]; rfl
@[simp] theorem encResolve_obj (f : ResolveF) : bitAt (encResolve opc f).md 0 = false := by simp [encResolve]
@[simp] theorem encResolveObj_obj (f : Reg2) : bitAt (encResolveObj opc f).md 0 = true := by
  simp only [encResolveObj]; rfl
@[simp] theorem encTileD_rel (rel : Bool) (f : TileF) : bitAt (encTileD opc rel f).tail 0 = rel := by simp [encTileD]

end

/-! ### The round trip -/

theorem V4.okC_of_ok {f : V4} (h : f.ok = true) : f.c.okC f.lt = true := by
  simp only [V4.ok, Bool.and_eq_true] at h
  exact h.1.2

/-- The fields of an instruction are read back from its slot. -/
theorem readSlot_encodeSlot {pos : Nat} {i : Instr} {s : Slot} (hw : i.wf pos = true) (hq : ∀ f, i ≠ .qcfgUnbind f)
    (h : encodeSlot i = some s) : readSlot i.side s = some i := by
  cases i <;> cases h <;> rw [readSlot_eq _ rfl]
  case qcfgUnbind f => exact absurd rfl (hq f)
  case vfma f | vfms f | vnfma f =>
    conv_lhs => whnf
    rw [decV4_encV4 _ (V4.okC_of_ok hw)]
  case vdot f =>
    conv_lhs => whnf
    rw [decVdot_encVdot _ hw]
  case nop f => simp [readAt, readRow05, encBare]
  case vgath f | vgathBc f => simp [readAt, readRow12]
  case fence f | fenceSysLea f => simp [readAt, readRow13]
  case rlqRelease f => simp [readAt, readRow14]
  case sendMailbox f | sendActive f | resolveValue f | resolveObject f => simp [readAt, readRow15]
  case azero f | azeroRelease f => simp [readAt, readRow19]
  all_goals
    conv_lhs => whnf
    simp

theorem decodeSlot_encodeSlot {pos : Nat} {i : Instr} {s : Slot} (hw : i.wf pos = true) (hq : ∀ f, i ≠ .qcfgUnbind f)
    (h : encodeSlot i = some s) : decodeSlot pos i.side s = .ok i := by
  simp [decodeSlot, readSlot_encodeSlot hw hq h, sideOk_encodeSlot h, h, hw]

/-- What the decoder reads is well formed, has the slot that it is read from, and its side. -/
theorem decodeSlot_ok {pos : Nat} {side : Bool} {s : Slot} {i : Instr} (h : decodeSlot pos side s = .ok i) :
    readSlot side s = some i ∧ sideOk s side = true ∧ encodeSlot i = some s ∧ i.wf pos = true := by
  unfold decodeSlot at h
  split at h
  · cases h
  · next j hj =>
    split at h
    · cases h
    · next hs =>
      split at h
      · cases h
      · next he =>
        split at h
        · next hw =>
          cases h
          exact ⟨hj, by simpa using hs, not_not.mp he, hw⟩
        · split at h
          · cases h
          · split at h
            · split at h <;> cases h
            · cases h

/-- NOP and QADV alone stand on either side (10 Table 10.6). -/
theorem opSide_none {row col : Nat} (h : opSide row col = none) :
    row = 0x05 ∧ col = 0 ∨ row = 0x0F ∧ (col = 4 ∨ col = 5) := by
  unfold opSide at h
  split at h
  case h_1 => exact .inl ⟨rfl, by simpa using h⟩
  case h_10 =>
    split at h
    case h_4 | h_5 => exact .inr ⟨rfl, by omega⟩
    all_goals cases h
  all_goals cases h

/-- Where an opcode stands on either side, its instruction takes the side of its line word. -/
theorem side_of_readSlot {side : Bool} {s : Slot} {i : Instr} (h : readSlot side s = some i)
    (hs : opSide (s.opc.toNat / 32) (s.opc.toNat % 32) = none) : i.side = side := by
  change readAt side (s.opc.toNat / 32) (s.opc.toNat % 32) s = some i at h
  obtain ⟨hr, hc⟩ | ⟨hr, hc | hc⟩ := opSide_none hs <;>
  · rw [hr, hc] at h
    cases h
    rfl

theorem side_of_decodeSlot {pos : Nat} {side : Bool} {s : Slot} {i : Instr} (h : decodeSlot pos side s = .ok i) :
    i.side = side := by
  obtain ⟨hr, hs, he, -⟩ := decodeSlot_ok h
  cases hx : opSide (s.opc.toNat / 32) (s.opc.toNat % 32) with
  | none => exact side_of_readSlot hr hx
  | some x => rw [Instr.side_eq he hx]; simpa [sideOk, hx] using hs

/-- Every instruction of a slot has a word. -/
theorem encodeSlot_of_wf {pos : Nat} {i : Instr} (h : i.wf pos = true) : ∃ s, encodeSlot i = some s := by
  cases hs : encodeSlot i with
  | some s => exact ⟨s, rfl⟩
  | none =>
    cases i <;> cases hs
    all_goals exact absurd h Bool.false_ne_true

theorem decode_encode {pos : Nat} {i : Instr} (hw : i.wf pos = true) (hq : ∀ f, i ≠ .qcfgUnbind f) :
    ∃ w, encode i = some w ∧ decode pos i.side w = .ok i := by
  obtain ⟨s, hs⟩ := encodeSlot_of_wf hw
  refine ⟨s.pack, by simp [encode, hs], ?_⟩
  rw [decode, Slot.unpack_pack, decodeSlot_encodeSlot hw hq hs]

theorem encode_of_decode {pos : Nat} {side : Bool} {w : SlotBits} {i : Instr} (h : decode pos side w = .ok i) :
    encode i = some w ∧ i.wf pos = true ∧ side = i.side := by
  obtain ⟨-, -, he, hw⟩ := decodeSlot_ok h
  refine ⟨by simp [encode, he], hw, (side_of_decodeSlot h).symm⟩

/-- Settles O1: the fields of each format are read back one by one, the opcode gives the format and the side, and the decoder
accepts a slot only where encoding what it read gives the slot again (`decodeSlot_encodeSlot`, `decodeSlot_ok`). -/
theorem decodeEncode : Obligations.DecodeEncode := by
  unfold Obligations.DecodeEncode
  refine fun pos i => ⟨decode_encode, ?_, fun side w => encode_of_decode⟩
  rintro f rfl hw
  exact decode_encode (i := .qcfgBind f) hw (fun _ h => nomatch h)

/-- Settles O2: the decoder's reading of each word, one clause a word, is the instruction itself. -/
theorem decodedWords : Obligations.DecodedWords := by
  unfold Obligations.DecodedWords
  exact ⟨rfl, rfl, rfl, rfl, rfl, rfl, rfl, rfl, rfl, rfl, rfl, rfl⟩

end Sys2Proof
end

section
/-! A turn of a slot: its line, the instruction that the slot decodes to, and what the turn runs (10 R205 to R207, R217; 26 R472,
R473, R475). -/

namespace Sys2Proof.Machine

/-! ### The line and its slot -/

/-- A slot runs as encoded, whatever its SIDE bit, and as NOP where it decodes to nothing (10 R217). -/
theorem slotInstr_eq {line : List Byte} {n : Nat} {i : Instr}
    (h : decode n (sideBit line n) (slotBits line n) = .ok i ∨
      (decode n (sideBit line n) (slotBits line n) = .error .side ∧ decode n (!sideBit line n) (slotBits line n) = .ok i) ∨
      ((∃ e, e ≠ .side ∧ decode n (sideBit line n) (slotBits line n) = .error e) ∧
        i = .nop { g := { neg := false, k := 0 }, exec := sideBit line n })) : slotInstr line n = i := by
  rcases h with h | ⟨h, h'⟩ | ⟨⟨e, he, h⟩, rfl⟩
  · simp [slotInstr, h]
  · simp [slotInstr, h, h']
  · cases e with
    | side => exact absurd rfl he
    | _ => simp [slotInstr, h]

section
variable {s : State} {c : Nat} {x : Strand} {l : Leaf} {line : List Byte}

/-- A line outside the host windows is the memory at its page's address. -/
theorem fetchLine_line {pc : Word} (h : fetchLine s c x pc = .ok (l, line)) (hs : spaceOf pc ≠ 0xC0) :
    line = readBytes s (l.pa (pcLine pc)) 64 := by
  have hs' : (spaceOf pc == 0xC0) = false := beq_eq_false_iff_ne.mpr hs
  unfold fetchLine at h
  split at h
  · cases h
  · simp only [hs', Bool.false_eq_true, if_false] at h
    iterate 3 (split at h; · cases h)
    split at h
    · cases h; rfl
    · cases h

theorem fetchSlot_ok (h : fetchLine s c x x.pc = .ok (l, line)) (hp : pcShapeOk x.pc = true)
    (hq : parityOk line (pcSlot x.pc) = true) (ht : x.needTgt = true → tgtBit line (pcSlot x.pc) = true)
    (hs : scanOk l = true) : fetchSlot s c x = .ok line := by
  have ht' : (x.needTgt && !tgtBit line (pcSlot x.pc)) = false := by
    cases hn : x.needTgt with
    | false => rfl
    | true => rw [ht hn]; rfl
  simp [fetchSlot, h, hp, hq, ht', hs]

end

/-! ### The turn of a slot whose line is fetched -/

section
variable {ex : Instr → State → Out} {s : State} {c k : Nat} {x : Strand} {line : List Byte} (hx : s.strand c k = some x)
  (h1 : cannotIssue (s.core c) k x = false) (h2 : awaits x = false) (h3 : commits (s.core c) k x = false)
  (hw : watchdogDue x = false) (hd : drains x = false) (hf : fetchSlot s c x = .ok line)
include hx h1 h2 h3 hw hd hf

/-- The slot is checked and runs where no register that it names is still to be written. -/
theorem slotTurn_runs {i : Instr} (hi : slotInstr line (pcSlot x.pc) = i)
    (hn : i.side = true ∨ slotWaits x (Slot.unpack (slotBits line (pcSlot x.pc))) i = false)
    (hh : heldWaits (s.core c).spec k (Slot.unpack (slotBits line (pcSlot x.pc))) i = false) :
    slotTurn ex s c k = checkedSlot ex (toBank s c k { x with place := .bank, needTgt := false }) c k x line i := by
  have hn' : (!i.side && slotWaits x (Slot.unpack (slotBits line (pcSlot x.pc))) i) = false := by
    rcases hn with h | h <;> simp [h]
  simp [slotTurn, hx, h1, h2, h3, hw, hd, hf, hi, hn', hh]

/-- An access-side slot that names a register which an entry has yet to write waits, and so does one that names the result of
an atomic which its speculative path holds. -/
theorem slotTurn_waits {i : Instr} (hi : slotInstr line (pcSlot x.pc) = i)
    (hn : (i.side = false ∧ slotWaits x (Slot.unpack (slotBits line (pcSlot x.pc))) i = true) ∨
      heldWaits (s.core c).spec k (Slot.unpack (slotBits line (pcSlot x.pc))) i = true) :
    slotTurn ex s c k = .next ((toBank s c k { x with place := .bank, needTgt := false }).modStrand c k
      (fun y => { y with wait := waitOn s.now .sequencer [] y.wait })) := by
  have hn' : (!i.side && slotWaits x (Slot.unpack (slotBits line (pcSlot x.pc))) i ||
      heldWaits (s.core c).spec k (Slot.unpack (slotBits line (pcSlot x.pc))) i) = true := by
    rcases hn with ⟨h, h'⟩ | h
    · simp [h, h']
    · simp [h]
  simp only [slotTurn, hx, h1, h2, h3, hw, hd, hf, hi, hn', Bool.or_self, Bool.false_eq_true, if_false, if_true]

end

/-- A strand whose words all agree runs its slot as it stands. -/
theorem checkedSlot_clean {ex : Instr → State → Out} {s : State} {c k : Nat} {x : Strand} {line : List Byte} {i : Instr}
    (hl : x.checks.lost (slotReads x i) = false) (hc : x.checks.corrects (slotReads x i) = ([], [], []))
    (hs : slotCheck s c k x line (pcSlot x.pc) i = none) : checkedSlot ex s c k x line i = ex i s := by
  simp [checkedSlot, hl, correctAll_none c k hc, hs]

theorem toBank_strand (s : State) (c k : Nat) (x : Strand) : (toBank s c k x).strand c k = some x := by
  simp [toBank, State.strand, State.setStrand]

theorem toBank_mem (s : State) (c k : Nat) (x : Strand) : (toBank s c k x).mem = s.mem := rfl

/-! ### O3 -/

/-- Settles O3: the slot of the fetched line decodes to its instruction (`slotInstr_eq`), which the turn checks and runs
(`slotTurn_runs`, `checkedSlot_clean`) or keeps waiting (`slotTurn_waits`). -/
theorem stepRunsSlot : Obligations.StepRunsSlot := by
  unfold Obligations.StepRunsSlot
  intro s c k x l line i u n w v after ha hx h1 h2 h3 hw hd hl hp hq ht hs hdec held
  have hf : fetchSlot u c x = .ok line := fetchSlot_ok hl hp hq ht hs
  have hi : slotInstr line n = i := slotInstr_eq hdec
  refine ⟨fetchLine_line hl, fun hn hh => ?_, fun hn => ?_⟩
  · have hstep : step s = after (checkedSlot exec v c k x line i) := by
      rw [step_slot ha, slotTurn_runs hx h1 h2 h3 hw hd hf hi hn hh]; rfl
    refine ⟨hstep, fun hlost hcor hchk => ?_⟩
    rw [hstep, checkedSlot_clean hlost hcor hchk]
  · refine ⟨_, by rw [step_slot ha, slotTurn_waits hx h1 h2 h3 hw hd hf hi hn]; rfl, fun q => ?_, ?_⟩
    · refine byte_of_mem ?_ q
      exact (State.modStrand_mem _ _ _ _).trans ((toBank_mem _ _ _ _).trans (s.advance_keeps _).2)
    · change State.strand (State.modStrand _ _ _ _) c k = _
      rw [State.modStrand_some _ _ _ _ _ (toBank_strand _ _ _ _), State.setStrand_strand_self]

end Sys2Proof.Machine
end

section
/-! The access side: the frame of every instruction that stands on it, false guards, and shadow slots (10 R210, R211; 26 R473,
R475). -/

namespace Sys2Proof.Machine

/-! ### The side and the guard of an instruction -/

/-- An instruction whose opcode is `n` stands on the side that the opcode asks for. -/
theorem side_at {i : Instr} {w : Slot} {n : Nat} {x : Bool} (h : encodeSlot i = some w) (ho : w.opc = BitVec.ofNat 10 n)
    (hs : opSide ((BitVec.ofNat 10 n).toNat / 32) ((BitVec.ofNat 10 n).toNat % 32) = some x) : i.side = x :=
  Instr.side_eq h (by rw [ho, hs])

theorem guard_eq {i : Instr} {w : Slot} (g : Guard) (h : encodeSlot i = some w) (hn : w.gneg = (slotOf 0 g).gneg)
    (hk : w.gk = (slotOf 0 g).gk) : i.guard = g := by
  rw [Instr.guard, h, ← getGuard_slotOf 0 g]
  simp only [getGuard, hn, hk]

/-! ### The frame of an access-side instruction -/

/-- Executing `i` at a slot tests the guard of `i` before anything else. -/
def TestsGuard (i : Instr) (s : State) : Prop := ∃ body, exec i s = accessOp s i.guard body

theorem testsGuard_of {i : Instr} {w : Slot} {s : State} (g : Guard) (h : encodeSlot i = some w)
    (hn : w.gneg = (slotOf 0 g).gneg) (hk : w.gk = (slotOf 0 g).gk) (he : ∃ body, exec i s = accessOp s g body) :
    TestsGuard i s := by
  rw [TestsGuard, guard_eq g h hn hk]
  exact he

section
variable (s : State) (sh : Bool) (g : Guard) (d : SReg) (body : Actor → R Res)

theorem shadowable_guard : ∃ b, shadowable s sh g d body = accessOp s g b := by
  cases sh
  · exact ⟨_, rfl⟩
  · exact ⟨_, rfl⟩
theorem shadowableMem_guard : ∃ b, shadowableMem s sh g d body = accessOp s g b := by
  cases sh
  · exact ⟨_, rfl⟩
  · exact ⟨_, rfl⟩
theorem shadowableV_guard (d : VReg) : ∃ b, shadowableV s sh g d body = accessOp s g b := by
  cases sh
  · exact ⟨_, rfl⟩
  · exact ⟨_, rfl⟩

end

theorem access_testsGuard {pos : Nat} {i : Instr} (hw : i.wf pos = true) (hs : i.side = false) (s : State) :
    TestsGuard i s := by
  obtain ⟨w, h⟩ := encodeSlot_of_wf hw
  cases i
  case add f | addi f | sub f | mul f | mulh f | mulhz f | div f | divz f | rem f | remz f | minI f | maxI f | minz f
      | maxz f | andI f | orI f | xorI f | andn f | shl f | shr f | sar f | rol f | ror f | clz f | ctz f | popc f | sext f
      | zext f | bfx f | bfi f | li f | lih f | lea f | adda f | suba f | select f =>
    exact testsGuard_of f.g rfl rfl rfl (shadowable_guard s f.sh f.g f.d _)
  case cmp f | cmpi f | kand f | kor f | kxor f | knot f | kmov f | br f | jmp f | call f | calli f | ret f | brq f
      | endStrand f | loopR f | loopi f | trapI f | eret f | brk f | getc f | setc f | tlbiPage f | tlbiSpace f
      | tlbiPartition f | scan f | qcfgBind f | qcfgUnbind f | qlink f | qstat f | mbind f | munbind f | invoke f | invoken f
      | sendMailbox f | sendActive f | resolveValue f | resolveObject f | breakAnswer f | when f | hstat f | hget f | hsync f
      | hretire f | objnew f | objfree f | migr f | migra f | hold f | release f | task f | tdec f | launch f | cancel f
      | testc f | phtok f | phwait f | tqcfg f | tnext f | fjoin f | fleave f | fmemb f | cbrAll f | cbrAny f | fsync f
      | bst f | bseq f | wld f | mpld f | attncfg f | attn f | nbmv f =>
    exact testsGuard_of f.g rfl rfl rfl ⟨_, rfl⟩
  case nop f | qadvP f | qadvC f =>
    have he : ¬ f.exec = true := ne_true_of_eq_false hs
    exact testsGuard_of f.g rfl rfl rfl ⟨_, if_neg he⟩
  case ld f | st f | ldq f | stq f | vst f | vsts f | vscat f | vgathBc f | amoAdd f | amoMin f | amoMax f | amoAnd f | amoOr f
      | amoXor f | amoSwap f | amoCas f | amofAdd f | fence f | fenceSysLea f | cpy f | cpy2d f | replay f | cred f | eseq f
      | rlqQuery f | rlqRelease f =>
    exact testsGuard_of f.g rfl rfl rfl (shadowableMem_guard s f.sh f.g _ _)
  case vld f | vlds f | vgath f => exact testsGuard_of f.g rfl rfl rfl (shadowableV_guard s f.sh f.g _ f.d)
  all_goals cases h
  all_goals exact absurd (hs.symm.trans (side_at rfl rfl rfl)) Bool.false_ne_true

/-- Under a false guard a slot completes and does nothing else. -/
theorem TestsGuard.completes {i : Instr} {s : State} {a : Actor} (hi : TestsGuard i s) (h : AtSlot s a)
    (hg : a.guard i.guard = false) (hss : a.x.ss = false) : Completes i s a (s.core a.core) (nextSlot a.x a.pc) := by
  obtain ⟨body, he⟩ := hi
  refine ⟨completeSlot s a none none, ?_, slotEnd hss h.leaves⟩
  rw [he, accessOp_eq h, hg]
  rfl

/-! ### Shadow slots -/

/-- A strand whose register `d` a shadow has tagged, with a check code that disagrees (`bad`) or agrees. -/
def shadowTagged (x : Strand) (d : SReg) (bad : Bool) : Strand :=
  match d with
  | .s r => { x with checks := x.checks.shadowS r bad }
  | .zr => x

theorem Leaves.tagS {s s' : State} {a : Actor} {co : Core} {y : Strand} (h : Leaves s s' a co y) (d : SReg) (bad : Bool) :
    Leaves s (Machine.tagS d a bad s') a co (shadowTagged y d bad) := by
  cases d with
  | s r => exact h.modStrand _
  | zr => exact h

/-- The shadow of an instruction of rows 0x00 to 0x02 tags the destination that it names, in SHADOW mode. -/
theorem shadowable_completes {i : Instr} {s : State} {a : Actor} {sh : Bool} {g : Guard} {d : SReg} {body : Actor → R Res}
    (h : Runs s a g) (hsh : sh = true) (hi : exec i s = shadowable s sh g d body) :
    Completes i s a (s.core a.core)
      (nextSlot (if bit (s.core a.core).fctl 9 then a.x else shadowTagged a.x d s.turn.upset) a.pc) := by
  rw [Completes, hi, hsh]
  refine accessOp_completes h rfl ?_
  by_cases hm : bit (s.core a.core).fctl 9 = true
  · rw [if_pos hm, if_pos (by exact hm)]
    exact h.1.leaves
  · rw [if_neg hm, if_neg (by exact hm)]
    exact h.1.leaves.tagS d _

/-! ### What a slot reads -/

/-- The guard of an access-side instruction masks no lanes. -/
theorem guardBits_of_access {i : Instr} (hs : i.side = false) : guardBits i = none := by
  cases i
  case vadd f | vsub f | vmul f | vfma f | vfms f | vnfma f | vmin f | vmax f | vabs f | vneg f | vand f | vor f | vxor f
      | vshl f | vshr f | vsar f | vdot f | vred f | vcmp f | vsel f | vperm f | vbcast f | vins f | vrcp f | vrsq f | vexp f
      | vexp2 f | vlog2 f | vtanh f | vsin f | vcos f | vcvt f | vpack f | vunpk f =>
    exact absurd (hs.symm.trans (side_at rfl rfl rfl)) Bool.false_ne_true
  all_goals rfl

/-- An access-side slot uses its operands where its guard holds. -/
theorem usesOperands_of_access {i : Instr} (hs : i.side = false) (k : Vector KWord 8) :
    usesOperands k i = guardHolds k i.guard := by
  rw [usesOperands, guardBits_of_access hs]

theorem slotReads_s {x : Strand} {i : Instr} (hu : usesOperands x.k i = true) : (slotReads x i).s = scalarReads x i := by
  rw [slotReads, readsOf, if_pos hu]
  split <;> rfl

/-! ### What a slot meets (26 R472, R473, R475) -/

theorem bit_and {w : Nat} (x y : BitVec w) (n : Nat) : bit (x &&& y) n = (bit x n && bit y n) := BitVec.getLsbD_and
theorem bit_not {w n : Nat} (x : BitVec w) (h : n < w) : bit (~~~x) n = !bit x n := by simp [bit, h]
theorem bit_zero (w n : Nat) : bit (0#w) n = false := BitVec.getLsbD_zero

section
variable {s : State} {c k : Nat} {x : Strand} {line : List Byte} {i : Instr}

/-- An untagged operand that more than one bit of disagrees is lost. -/
theorem lost_of_scalarReads {r : Fin 16} (hr : r ∈ scalarReads x i) (hu : usesOperands x.k i = true)
    (hs : bit x.checks.synS r.val = true) (h2 : bit x.checks.twoS r.val = true) (ht : bit x.checks.tagS r.val = false) :
    x.checks.lost (slotReads x i) = true := by
  have hb : bit (x.checks.synS &&& ~~~x.checks.tagS &&& x.checks.twoS) r.val = true := by
    simp [bit_and, bit_not, hs, h2, ht]
  have ha : (slotReads x i).s.any (fun j => bit (x.checks.synS &&& ~~~x.checks.tagS &&& x.checks.twoS) j.val) = true :=
    List.any_eq_true.mpr ⟨r, by rwa [slotReads_s hu], hb⟩
  rw [Checks.lost, ha, Bool.true_or, Bool.true_or]

theorem checkedSlot_lost (ex : Instr → State → Out) (s : State) (c k : Nat) (line : List Byte)
    (hl : x.checks.lost (slotReads x i) = true) :
    checkedSlot ex s c k x line i = .next (endBare s c k x cMachineCheck 0 0) := by
  simp [checkedSlot, hl]

theorem checkedSlot_fails {ex : Instr → State → Out} {e : Code} (hl : x.checks.lost (slotReads x i) = false)
    (hc : x.checks.corrects (slotReads x i) = ([], [], [])) (he : slotCheck s c k x line (pcSlot x.pc) i = some e) :
    checkedSlot ex s c k x line i = .next (raise s c k .t { code := e, eva := 0 } x.pc 0) := by
  simp [checkedSlot, hl, correctAll_none c k hc, he]

/-- A tagged operand that its shadow contradicts fails its slot's check. -/
theorem slotCheck_shadow {pos : Nat} {r : Fin 16} (hr : r ∈ scalarReads x i) (hs : i.side = false)
    (hg : guardHolds x.k i.guard = true) (hp : privilegedStop x i = false) (ht : bit x.checks.tagS r.val = true)
    (hy : bit x.checks.synS r.val = true) : slotCheck s c k x line pos i = some cShadow := by
  have hb : bit x.checks.badS r.val = true := by
    simp [Checks.badS, bit_and, ht, hy]
  have hu : usesOperands x.k i = true := by rw [usesOperands_of_access hs, hg]
  have ha : (scalarReads x i).any (fun j => bit x.checks.badS j.val) = true := List.any_eq_true.mpr ⟨r, hr, hb⟩
  have hf : x.checks.shadowFails (readsOf x x.k i) = true := by
    rw [Checks.shadowFails, readsOf, if_pos hu, ha, Bool.true_or, Bool.true_or]
  simp [slotCheck, hg, hp, hs, hf]

/-- An operand whose residue is not that of its value fails its slot's check. -/
theorem slotCheck_residue {pos : Nat} {r : Fin 16} (hr : r ∈ residueReads i) (hg : guardHolds x.k i.guard = true)
    (hp : privilegedStop x i = false) (hf : x.checks.shadowFails (readsOf x x.k i) = false)
    (hq : (slotUses i).any (useFails s c k) = false) (hm : bit (s.core c).fctl 9 = true)
    (hres : (x.checks.res.get r).toNat ≠ (x.s.get r).toNat % 15) : slotCheck s c k x line pos i = some cResidue := by
  have hn : (x.checks.res.get r != residueOf (x.s.get r)) = true := by
    refine bne_iff_ne.mpr (fun e => hres ?_)
    rw [e, residueOf, BitVec.toNat_ofNat]
    omega
  have ha : residueFails x i = true := List.any_eq_true.mpr ⟨r, hr, hn⟩
  have hm' : residueMode s c = true := hm
  simp [slotCheck, hg, hp, hf, hq, hm', ha]

/-- A single error of the one operand that a slot reads is corrected. -/
theorem corrects_single {d : Fin 16} (hs : i.side = false) (hg : guardHolds x.k i.guard = true)
    (hy : bit x.checks.synS d.val = true) (ht : bit x.checks.tagS d.val = false) (hr : scalarReads x i = [d])
    (hv : vectorReads i = []) (hk : x.checks.synK = 0) : x.checks.corrects (slotReads x i) = ([d.val], [], []) := by
  have hu : usesOperands x.k i = true := by rw [usesOperands_of_access hs, hg]
  have hb : bit (x.checks.synS &&& ~~~x.checks.tagS) d.val = true := by
    simp [bit_and, bit_not, hy, ht]
  simp [Checks.corrects, slotReads, readsOf, hu, hs, hr, hv, hk, hb, bit_zero, List.eraseDups_cons]

/-- The use of an operand with a single error corrects it and counts one correction. -/
theorem correctAll_single {r : Reads} {d : Nat} (h : x.checks.corrects r = ([d], [], [])) :
    correctAll s c k x r = (s.countCore c 3 1 (some (s.core c).part)).modStrand c k (fun y =>
      { y with checks := { y.checks with synS := setBit y.checks.synS d false } }) := by
  rw [correctAll, h]
  rfl

/-- An operand whose check code tells the one bit that is wrong is not lost. -/
theorem lost_single {d : Fin 16} (hs : i.side = false) (hg : guardHolds x.k i.guard = true)
    (h2 : bit x.checks.twoS d.val = false) (hr : scalarReads x i = [d]) (hv : vectorReads i = []) (hk : x.checks.synK = 0) :
    x.checks.lost (slotReads x i) = false := by
  have hu : usesOperands x.k i = true := by rw [usesOperands_of_access hs, hg]
  simp [Checks.lost, slotReads, readsOf, hu, hs, hr, hv, hk, bit_and, bit_zero, h2]

end

/-! ### O13 -/

/-- Settles O13: every access-side instruction tests its guard first (`access_testsGuard`); a shadow form writes the tag of its
destination (`shadowable_completes`); and the checks come before the instruction (`checkedSlot_lost`, `checkedSlot_fails`,
`correctAll_single`). -/
theorem guardsAndShadows : Obligations.GuardsAndShadows := by
  unfold Obligations.GuardsAndShadows
  refine ⟨fun s a pos i hw hs h hg hss => (access_testsGuard hw hs s).completes h hg hss, ?_, ?_⟩
  · intro s a f h hsh i hi
    simp only [List.mem_cons, List.not_mem_nil, or_false] at hi
    obtain rfl | rfl | rfl | rfl | rfl | rfl := hi <;> exact shadowable_completes h hsh rfl
  · intro s c k x line i hx holds traps
    refine ⟨fun r hr ha he hs h2 ht => ?_, fun hl hc hp hs => ⟨fun r hr hg ht hy => ?_, fun hf hq hg hm r hr hres => ?_⟩,
      fun d hy ht h2 hr _ hv hsk hs hn hg => ?_⟩
    · have hu : usesOperands x.k i = true := by
        cases hside : i.side with
        | false => rw [usesOperands_of_access hside]; exact ha hside
        | true => exact he hside
      exact checkedSlot_lost exec s c k line (lost_of_scalarReads hr hu hs h2 ht)
    · have hp' : privilegedStop x i = false := hp.resolve_right (by simp [hg])
      exact checkedSlot_fails hl hc (slotCheck_shadow hr hs hg hp' ht hy)
    · have hp' : privilegedStop x i = false := hp.resolve_right (by simp [hg])
      exact checkedSlot_fails hl hc (slotCheck_residue hr hg hp' hf hq hm hres)
    · have hc := corrects_single hs hg hy ht hr hv hsk
      simp [checkedSlot, lost_single hs hg h2 hr hv hsk, correctAll_single hc, hn]

end Sys2Proof.Machine
end

section
/-! Execute-side slots at issue: what enters the sequencer, and the checks that come first (10 R207; 14 R268; 19 R398; 20 R418,
R426). -/

namespace Sys2Proof.Machine

/-! ### Entering the sequencer (10 R207) -/

/-- A strand with `i` as the last entry of its sequencer, with the registers as every earlier slot left them. -/
def withEntry (s : State) (a : Actor) (i : Instr) : Strand :=
  { a.x with seq := a.x.seq ++ [.one { pc := a.pc, i := i, s := a.x.s, k := a.x.k, shadowed := false, badS := a.x.checks.badS,
                                       badK := a.x.checks.badK, num := s.tick, taken := [] }] }

section
variable {s s' : State} {a : Actor} {co : Core} {i : Instr}

theorem enqueue_room (hx : s.strand a.core a.k = some a.x) (hc : a.x.capture = none) (hq : sequenced (s.core a.core) < 16) :
    enqueue s a i = .ok (.next (s.setStrand a.core a.k (withEntry s a i))) := by
  simp [enqueue, hx, hc, Nat.not_le.mpr hq, withEntry]

theorem enqueue_full (hx : s.strand a.core a.k = some a.x) (hq : 16 ≤ sequenced (s.core a.core)) :
    enqueue s a i = stall s a .sequencer := by
  simp [enqueue, hx, hq]

/-- A slot whose entry finds room completes, on the core and the state that its checks leave. -/
theorem enters_of_enqueue (hi : exec i s = finishSlot a (enqueue s' a i)) (hss : a.x.ss = false) (hc : a.x.capture = none)
    (hl : Leaves s s' a co a.x) (hq : sequenced (s'.core a.core) < 16) (ht : s'.tick = s.tick) : Enters i s a co := by
  have hm := hl.modStrand (fun _ => withEntry s' a i)
  rw [State.modStrand_some _ _ _ _ _ hl.2.2.1] at hm
  have hy : withEntry s' a i = withEntry s a i := by rw [withEntry, withEntry, ht]
  refine ⟨_, hi.trans (by rw [enqueue_room hl.2.2.1 hc hq]; rfl), ?_⟩
  rw [hy] at hm ⊢
  exact slotEnd hss hm

theorem waits_of_enqueue (hi : exec i s = finishSlot a (enqueue s a i)) (h : AtSlot s a)
    (hq : 16 ≤ sequenced (s.core a.core)) : exec i s = .next (markWait s a .sequencer []) := by
  rw [hi, enqueue_full h.strand hq]
  rfl

end

/-! ### Rows 0x05 to 0x0F (10 R207; 14 R268) -/

section
variable {s : State} {a : Actor} (h : AtSlot s a)
include h

theorem executeOp_slot (i : Instr) (body : Actor → R Res) : executeOp s i body = finishSlot a (enqueue s a i) := by
  simp [executeOp, h.1, h.2]

/-- A slot that is no shadow enters the sequencer. -/
theorem executeShadowable_slot {i : Instr} {sh : Bool} (hsh : sh = false) (tag : Actor → Bool → State → State)
    (body : Actor → R Res) : executeShadowable s i sh tag body = finishSlot a (enqueue s a i) := by
  simp [executeShadowable, h.1, h.2, hsh]

end

/-- The SH bit of a slot of rows 0x08 to 0x0E that is no shadow. -/
theorem sh_of_shadow {w : Slot} {n : Nat} {sh : Bool} {t : LaneTy} (hm : w.md = vMod sh t) (ho : w.opc = BitVec.ofNat 10 n)
    (hr : 8 ≤ (BitVec.ofNat 10 n).toNat / 32 ∧ (BitVec.ofNat 10 n).toNat / 32 ≤ 14) (hs : w.shadow = false) : sh = false := by
  have hb : bitAt w.md 5 = sh := by simp [hm]
  rw [← ho] at hr
  rw [← hb]
  simpa [Slot.shadow, hr.1, hr.2] using hs

theorem row_absurd {w : Slot} {n : Nat} (hr : w.opc.toNat / 32 ≤ 15) (ho : w.opc = BitVec.ofNat 10 n)
    (hn : 15 < (BitVec.ofNat 10 n).toNat / 32) : False := by
  rw [ho] at hr
  omega

/-- Every other execute-side slot of these rows enters the sequencer, whatever its guard. -/
theorem exec_issues {pos : Nat} {i : Instr} {w : Slot} (hw : i.wf pos = true) (he : encodeSlot i = some w)
    (hr : w.opc.toNat / 32 ≤ 15) (hsh : w.shadow = false) (hs : i.side = true) (hl : ∀ f, i ≠ .vloop f)
    (hd : ∀ f, i ≠ .vdrain f) {s : State} {a : Actor} (h : AtSlot s a) : exec i s = finishSlot a (enqueue s a i) := by
  cases i <;> cases he
  case vadd f | vsub f | vmul f | vfma f | vfms f | vnfma f | vmin f | vmax f | vabs f | vneg f | vand f | vor f | vxor f
      | vshl f | vshr f | vsar f | vdot f | vred f | vcmp f | vsel f | vperm f | vbcast f | vext f | vins f | vrcp f | vrsq f
      | vexp f | vexp2 f | vlog2 f | vtanh f | vsin f | vcos f | vcvt f | vpack f | vunpk f =>
    exact executeShadowable_slot h (sh_of_shadow rfl rfl (by decide) hsh) _ _
  case nop f | qadvP f | qadvC f => exact (if_pos hs).trans (executeOp_slot h _ _)
  case kpush f => exact executeOp_slot h _ _
  case vloop f => exact absurd rfl (hl f)
  case vdrain f => exact absurd rfl (hd f)
  case wswp f | gang f | mma f | mmas f | mrec f | azero f | azeroRelease f | ald f | ast f | acvt f | ladcfg f | ladpush f
      | ladrd f | ladld f | ladw f => exact (row_absurd hr rfl (by decide)).elim
  all_goals exact absurd ((side_at rfl rfl rfl).symm.trans hs) Bool.false_ne_true

/-! ### Rows 0x18 to 0x1A: the checks at issue (19 R398; 20 R418, R426) -/

section
variable {s : State} {a : Actor} {i : Instr} {g : Guard} {issue : Actor → R State} {body : Actor → R Res}
  (hi : exec i s = matrixOp s i g issue body) (h : AtSlot s a) (hss : a.x.ss = false) (hsp : a.spec s = none)
  (hc : a.x.capture = none) (hq : sequenced (s.core a.core) < 16)
  (hf : (seqEntries a.x).any (fun e => entryWritesK e g.k) = false)

include hi h hsp hf in
theorem matrixOp_slot : exec i s =
    finishSlot a ((if a.guard g then issue a else .ok s).bind (fun s1 => enqueue s1 a i)) := by
  simp [hi, matrixOp, h.1, h.2, noSpec, hsp, hf]

include hi h hsp hf in
theorem matrixOp_traps {code : Code} {eva : Word} (hg : a.guard g = true) (ht : issue a = trapAt s code eva) :
    Traps i s a code eva := by
  rw [Traps, matrixOp_slot hi h hsp hf, hg, if_pos rfl, ht]
  rfl

include hi h hss hsp hc hq hf in
theorem matrixOp_enters (hok : a.guard g = false ∨ issue a = .ok s) : Enters i s a (s.core a.core) := by
  have hs : (if a.guard g then issue a else .ok s) = .ok s := by
    rcases hok with hg | hs
    · simp [hg]
    · rw [hs, ite_self]
  refine enters_of_enqueue (s' := s) ?_ hss hc h.leaves hq rfl
  rw [matrixOp_slot hi h hsp hf, hs]
  rfl

include h hss hsp hc hq hf in
/-- An instruction that writes tile `d`: the tile is no rung. -/
theorem rung_issue {d : Fin 16} (hi : exec i s = matrixOp s i g (rungCheck s d) body) :
    (a.guard g = true → isRung (s.core a.core) d.val = true → Traps i s a cLadder 0) ∧
    (a.guard g = false ∨ isRung (s.core a.core) d.val = false → Enters i s a (s.core a.core)) := by
  refine ⟨fun hg hr => matrixOp_traps hi h hsp hf hg (if_pos hr), fun hok => ?_⟩
  refine matrixOp_enters hi h hss hsp hc hq hf (hok.imp_right (fun hr => ?_))
  simp [rungCheck, hr]

include hi h hss hsp hc hq hf in
/-- An instruction of the ladder, which `bad` refuses for some ladders. -/
theorem ladder_issue (bad : Nat → Nat → Bool)
    (hb : issue a = (ladderSet s a).bind (fun l => if bad l.1 l.2 then trapAt s cLadder 0 else .ok s)) :
    (a.guard g = false → Enters i s a (s.core a.core)) ∧
    (a.guard g = true → (s.core a.core).ladIssued = none → Traps i s a cLadder 0) ∧
    (∀ b r, a.guard g = true → (s.core a.core).ladIssued = some (b, r) →
      (bad b r = true → Traps i s a cLadder 0) ∧ (bad b r = false → Enters i s a (s.core a.core))) := by
  refine ⟨fun hg => matrixOp_enters hi h hss hsp hc hq hf (.inl hg), fun hg hn => matrixOp_traps hi h hsp hf hg ?_,
    fun b r hg hl => ⟨fun hr => matrixOp_traps hi h hsp hf hg ?_, fun hr => matrixOp_enters hi h hss hsp hc hq hf (.inr ?_)⟩⟩
  · rw [hb, ladderSet, hn]; rfl
  · rw [hb, ladderSet, hl]; exact if_pos hr
  · rw [hb, ladderSet, hl]; exact if_neg (by simp [hr])

/-- LADCFG at issue. -/
theorem ladcfgIssue_bad {f : LadcfgF}
    (hb : ¬ (f.r.toNat ≠ 0 ∧ f.d.val + f.r.toNat ≤ 16 ∧ (f.micro = true → microValid (s.core a.core).microActive = true))) :
    ladcfgIssue s f a = trapAt s cLadder 0 := by
  by_cases h1 : f.r.toNat = 0 ∨ 16 < f.d.val + f.r.toNat
  · exact if_pos h1
  · have h2 : (f.micro && !microValid (s.core a.core).microActive) = true := by
      push Not at h1
      simpa [h1.1, h1.2] using hb
    rw [ladcfgIssue]
    simp only [if_neg h1, h2, if_true]

theorem ladcfgIssue_good {f : LadcfgF} (h1 : f.r.toNat ≠ 0) (h2 : f.d.val + f.r.toNat ≤ 16)
    (h3 : f.micro = true → microValid (s.core a.core).microActive = true) :
    ladcfgIssue s f a = .ok (s.modCore a.core (fun c => { c with ladIssued := some (f.d.val, f.r.toNat) })) := by
  have h3' : (f.micro && !microValid (s.core a.core).microActive) = false := by
    cases hm : f.micro with
    | false => rfl
    | true => rw [h3 hm]; rfl
  simp [ladcfgIssue, h1, Nat.not_lt.mpr h2, h3']

end

/-! ### O36 -/

/-- Settles O36: a slot of rows 0x18 to 0x1A is checked, and raises LADDER or enters (`rung_issue`, `ladder_issue`,
`ladcfgIssue_bad`, `ladcfgIssue_good`); one of rows 0x05 to 0x0F enters whatever its guard (`exec_issues`), or waits where the
sequencer has no room (`waits_of_enqueue`). -/
theorem executeSideIssue : Obligations.ExecuteSideIssue := by
  unfold Obligations.ExecuteSideIssue
  constructor
  · intro s a fm fr ft fl fs fb fa fc fd fw h hss hsp hc hq co free
    refine ⟨fun p hp hf => ?_, fun p hp hf => ?_, fun hf => ?_, fun p hp hf => ?_⟩
    · simp only [List.mem_cons, List.not_mem_nil, or_false] at hp
      obtain rfl | rfl | rfl | rfl | rfl | rfl := hp <;> exact rung_issue h hss hsp hc hq hf rfl
    · simp only [List.mem_cons, List.not_mem_nil, or_false] at hp
      obtain rfl | rfl | rfl | rfl := hp <;> exact matrixOp_enters rfl h hss hsp hc hq hf (.inr rfl)
    · have hi : exec (.ladcfg fc) s = matrixOp s (.ladcfg fc) fc.g (ladcfgIssue s fc) _ := rfl
      refine ⟨fun hg => matrixOp_enters hi h hss hsp hc hq hf (.inl hg),
        fun hg hb => matrixOp_traps hi h hsp hf hg (ladcfgIssue_bad hb), fun hg ⟨h1, h2, h3⟩ => ?_⟩
      have hl := h.leaves.modCore (fun c => { c with ladIssued := some (fc.d.val, fc.r.toNat) }) (fun _ _ => rfl)
      refine enters_of_enqueue ?_ hss hc hl (by rw [State.modCore_core_self]; exact hq) rfl
      rw [matrixOp_slot hi h hsp hf, hg, if_pos rfl, ladcfgIssue_good h1 h2 h3]
      rfl
    · simp only [List.mem_cons, List.not_mem_nil, or_false] at hp
      obtain rfl | rfl | rfl | rfl := hp
      · exact ladder_issue rfl h hss hsp hc hq hf _ (by simp)
      · exact ladder_issue rfl h hss hsp hc hq hf _ (by simp)
      · exact ladder_issue rfl h hss hsp hc hq hf _ (by simp)
      · exact ladder_issue rfl h hss hsp hc hq hf _ rfl
  · intro s a pos i w hw he hr hsh hs hl hd h hss hc
    have hi := exec_issues hw he hr hsh hs hl hd h
    exact ⟨fun hq => enters_of_enqueue hi hss hc h.leaves hq rfl, waits_of_enqueue hi h⟩

end Sys2Proof.Machine
end

section
/-! Hardware loops, and transfers of control with the return stack and its memory (12 R246 to R255; 09 R195). -/

namespace Sys2Proof.Machine

/-! ### Loop-back at a completed slot (12 R254, R255) -/

section
variable {l : LoopLevel} {x : Strand} {pc : Word}

theorem loopAt_iff : loopAt l pc = true ↔ l.busy = true ∧ l.le = pc := by simp [loopAt]
theorem loopAt_eq_false : loopAt l pc = false ↔ ¬ (l.busy = true ∧ l.le = pc) := by rw [← loopAt_iff, Bool.not_eq_true]

theorem loopStep_again (h : 1 < l.lc.toNat) : loopStep l = ({ l with lc := l.lc - 1 }, true) := if_pos h
theorem loopStep_last (h : l.lc.toNat ≤ 1) : loopStep l = ({ l with lc := 0, busy := false }, false) :=
  if_neg (Nat.not_lt.mpr h)

theorem loopBack_none (h0 : loopAt x.l0 pc = false) (h1 : loopAt x.l1 pc = false) : loopBack x pc = (x, pcNext pc, false) := by
  simp only [loopBack, h0, h1]

theorem loopBack_zero (h0 : loopAt x.l0 pc = true) (h1 : loopAt x.l1 pc = false) : loopBack x pc =
    ({ x with l0 := (loopStep x.l0).1 }, if (loopStep x.l0).2 then x.l0.lb else pcNext pc, (loopStep x.l0).2) := by
  simp only [loopBack, h0, h1]

theorem loopBack_one (h0 : loopAt x.l0 pc = false) (h1 : loopAt x.l1 pc = true) : loopBack x pc =
    ({ x with l1 := (loopStep x.l1).1 }, if (loopStep x.l1).2 then x.l1.lb else pcNext pc, (loopStep x.l1).2) := by
  simp only [loopBack, h0, h1]

/-- The inner level is the one that begins later; the other is looked at when the inner one frees. -/
theorem loopBack_oneInner (h0 : loopAt x.l0 pc = true) (h1 : loopAt x.l1 pc = true) (h : x.l0.lb.toNat < x.l1.lb.toNat) :
    loopBack x pc =
      if (loopStep x.l1).2 then ({ x with l1 := (loopStep x.l1).1 }, x.l1.lb, true)
      else ({ x with l1 := (loopStep x.l1).1, l0 := (loopStep x.l0).1 }, if (loopStep x.l0).2 then x.l0.lb else pcNext pc,
        (loopStep x.l0).2) := by
  simp only [loopBack, h0, h1, h, if_true]

theorem loopBack_zeroInner (h0 : loopAt x.l0 pc = true) (h1 : loopAt x.l1 pc = true) (h : x.l1.lb.toNat ≤ x.l0.lb.toNat) :
    loopBack x pc =
      if (loopStep x.l0).2 then ({ x with l0 := (loopStep x.l0).1 }, x.l0.lb, true)
      else ({ x with l0 := (loopStep x.l0).1, l1 := (loopStep x.l1).1 }, if (loopStep x.l1).2 then x.l1.lb else pcNext pc,
        (loopStep x.l1).2) := by
  simp only [loopBack, h0, h1, Nat.not_lt.mpr h, if_false]

/-- What a strand takes from loop-back. -/
theorem nextSlot_loops (x : Strand) (pc : Word) : (nextSlot x pc).pc = (loopBack x pc).2.1 ∧
    (nextSlot x pc).l0 = (loopBack x pc).1.l0 ∧ (nextSlot x pc).l1 = (loopBack x pc).1.l1 := ⟨rfl, rfl, rfl⟩

end

/-! ### Transfers (12 R246) -/

section
variable {s u : State} {a : Actor} {i : Instr} {g : Guard} {body : Actor → R Res} {y : Strand} {p : Word}

theorem access_completes {co : Core} (hi : exec i s = accessOp s g body) (h : Runs s a g) (hb : body a = .ok (.next u))
    (hl : Leaves s u a co y) : Completes i s a co (nextSlot y a.pc) := by
  rw [Completes, hi]
  exact accessOp_completes h hb hl

theorem access_jumps (hi : exec i s = accessOp s g body) (h : Runs s a g) (hb : body a = .ok (.jump u p))
    (hl : Leaves s u a (s.core a.core) y) : JumpsTo i s a y p := by
  rw [JumpsTo, hi]
  exact accessOp_jumps h hb hl

theorem access_traps {c : Code} {eva : Word} (hi : exec i s = accessOp s g body) (h : Runs s a g)
    (hb : body a = trapAt s c eva) : Traps i s a c eva := by
  rw [Traps, hi]
  exact accessOp_traps h hb

/-- A transfer that passes its check goes on with what follows the check. -/
theorem check_passes {α : Type} {check : R Unit} (hc : check = .ok ()) (k : Unit → R α) : check.bind k = k () := by
  rw [hc]
  rfl

/-- A transfer that frees the loop levels which do not hold its target. -/
theorem access_jumpsTo (hi : exec i s = accessOp s g body) (h : Runs s a g) (hb : body a = jumpTo u a p)
    (hl : Leaves s u a (s.core a.core) y) : JumpsTo i s a (jumpFrees y p) p :=
  access_jumps hi h hb (hl.modStrand _)

end

/-! ### LOOP and LOOPI (12 R252, R253) -/

/-- A strand with one of its loop levels set. -/
def withLevel (x : Strand) (lvl : Bool) (l : LoopLevel) : Strand := if lvl then { x with l1 := l } else { x with l0 := l }

section
variable {s : State} {a : Actor} {i : Instr} {g : Guard} {body : Actor → R Res} {lvl : Bool} {n : BitVec 32} {e : Word}
  (hi : exec i s = accessOp s g body) (h : Runs s a g) (hb : body a = loopStart s a lvl n.toNat e)
include hi h hb

theorem loop_busy (hl : (if lvl then a.x.l1.busy else a.x.l0.busy) = true) : Traps i s a cLoopNesting 0 :=
  access_traps hi h (hb.trans (if_pos hl))

theorem loop_zero (hl : (if lvl then a.x.l1.busy else a.x.l0.busy) = false) (hn : n = 0) (hc : checkStatic s a e = .ok ()) :
    JumpsTo i s a (jumpFrees a.x e) e := by
  refine access_jumpsTo hi h ?_ h.1.leaves
  rw [hb, loopStart, hl, hn, check_passes hc]
  rfl

theorem loop_sets (hl : (if lvl then a.x.l1.busy else a.x.l0.busy) = false) (hn : n ≠ 0) :
    Completes i s a (s.core a.core)
      (nextSlot (withLevel a.x lvl { lb := pcNext a.pc, le := pcPrev e, lc := n, busy := true }) a.pc) := by
  have hn' : n.toNat ≠ 0 := fun hz => hn (BitVec.eq_of_toNat_eq hz)
  refine access_completes hi h (hb.trans ?_) (h.1.leaves.modStrand (withLevel · lvl _))
  rw [loopStart, hl, if_neg hn', BitVec.ofNat_toNat, BitVec.setWidth_eq]
  rfl

/-- LOOP and LOOPI, by the state of the level and the count. -/
theorem loop_acts :
    if (if lvl then a.x.l1.busy else a.x.l0.busy) = true then Traps i s a cLoopNesting 0
    else if n = 0 then checkStatic s a e = .ok () → JumpsTo i s a (jumpFrees a.x e) e
    else Completes i s a (s.core a.core)
      (nextSlot (withLevel a.x lvl { lb := pcNext a.pc, le := pcPrev e, lc := n, busy := true }) a.pc) := by
  by_cases hl : (if lvl then a.x.l1.busy else a.x.l0.busy) = true
  · rw [if_pos hl]
    exact loop_busy hi h hb hl
  · rw [if_neg hl]
    rw [Bool.not_eq_true] at hl
    split
    · next hn => exact loop_zero hi h hb hl hn
    · next hn => exact loop_sets hi h hb hl hn

end

/-! ### O14 -/

/-- Settles O14: loop-back by which levels end at the slot (`loopBack_none` to `loopBack_zeroInner`) and by the count of the
level that is looked at (`loopStep_again`, `loopStep_last`); LOOP and LOOPI are one operation (`loop_acts`). -/
theorem hardwareLoops : Obligations.HardwareLoops := by
  unfold Obligations.HardwareLoops
  refine ⟨fun x pc => ?_, fun s a => ⟨fun f h => loop_acts rfl h rfl, fun f h => ?_⟩⟩
  · simp only [← loopAt_iff, Bool.not_eq_true]
    obtain ⟨hpc, hl0, hl1⟩ := nextSlot_loops x pc
    rw [hpc, hl0, hl1]
    refine ⟨fun h0 h1 => ?_, fun h0 h1 hc => ?_, fun h0 h1 hc => ?_, fun h0 h1 hc => ?_, fun h0 h1 hc => ?_,
      fun h0 h1 hlb => ⟨fun hc => ?_, fun hc => ?_⟩, fun h0 h1 hlb => ⟨fun hc => ?_, fun hc => ?_⟩⟩
    · simp [loopBack_none h0 h1]
    · simp [loopBack_zero h0 h1, loopStep_again hc]
    · simp [loopBack_zero h0 h1, loopStep_last hc]
    · simp [loopBack_one h0 h1, loopStep_again hc]
    · simp [loopBack_one h0 h1, loopStep_last hc]
    · simp [loopBack_oneInner h0 h1 hlb, loopStep_again hc]
    · simp only [loopBack_oneInner h0 h1 hlb, loopStep_last hc]
      exact ⟨rfl, fun hc0 => by simp [loopStep_again hc0], fun hc0 => by simp [loopStep_last hc0]⟩
    · simp [loopBack_zeroInner h0 h1 hlb, loopStep_again hc]
    · simp only [loopBack_zeroInner h0 h1 hlb, loopStep_last hc]
      exact ⟨rfl, fun hc1 => by simp [loopStep_again hc1], fun hc1 => by simp [loopStep_last hc1]⟩
  · have hn : (f.count.setWidth 32).toNat = f.count.toNat := by
      rw [BitVec.toNat_setWidth]
      exact Nat.mod_eq_of_lt (f.count.isLt.trans_le (by decide))
    refine loop_acts (body := _) rfl h ?_
    rw [hn]

/-! ### The return stack (12 R247, R248; 09 R195) -/

section
variable {s : State} {a : Actor}

/-- Where a full return stack spills, and the bytes of its oldest entry (09 R195). -/
def spillAt (a : Actor) : Word := a.sr.get 14 - 8
def spillBytes (a : Actor) : List Byte := leBytes 8 (a.x.rs.getD 7 0).toNat

@[simp] theorem spillBytes_length (a : Actor) : (spillBytes a).length = 8 := leBytes_length _ _

/-- The return address is pushed in front, and s15 holds it. -/
def pushed (x : Strand) (ret : Word) : Strand :=
  { withReg x (.s 15) ret with rs := ret.setWidth 64 :: x.rs.take 7 }

theorem pushReturn_room (hr : a.x.rs.length < 8) : pushReturn s a = .ok (s.modStrand a.core a.k (pushed · (pcNext a.pc))) := by
  rw [pushReturn, if_neg (by omega)]
  rfl

theorem pushReturn_full (hr : a.x.rs.length = 8) : pushReturn s a = (spillStore s a (spillAt a) (spillBytes a)).map
    (fun u => u.modStrand a.core a.k (fun x => pushed (withReg x (.s 14) (spillAt a)) (pcNext a.pc))) := by
  rw [pushReturn, if_pos hr]
  rfl

/-- A store to the stack that its target admits is performed there. -/
theorem performAt_push {id : Ident} {x : Access} {b : List Byte} (hm : (siteOf x.pa x.geom2).isMemory = true)
    (hd : s.deniedAt id x = none) (ho : x.op = .push b) : performAt s id x = .ok (stored s x.pa b) [] := by
  rw [performAt, hd, ho]
  exact if_pos hm

theorem loadAll_push (h : AtSlot s a) (hs : Settled s a) {x : Access} {b : List Byte} (hx : AtHome s a x) (ho : x.op = .push b) :
    loadAll s a [x] none = .ok (stored s x.pa b, [[]]) := by
  obtain ⟨hl, hd, hm, hheld, hnear⟩ := hx
  have hn : nearKept s a.core a.k = false := hnear (by rw [Access.writes, ho])
  rw [loadAll, prog_of_settled h hs]
  simp [hheld, heldByAtomic, hs.1, hn, hl, performAll, performAt_push hm hd ho, ho]

theorem spillStore_atHome (h : AtSlot s a) (hs : Settled s a) {va : Word} {b : List Byte} {x : Leaf}
    (hp : planOne s a va 8 8 .wr false ruleAny = .ok x) (hx : AtHome s a (mkAccess x va (.push b))) :
    spillStore s a va b = .ok (stored s (x.pa va) b) := by
  rw [spillStore, prog_of_settled h hs, hp, hs.1]
  simp only [Option.isSome_none, Bool.false_eq_true, if_false, loadAll_push h hs hx rfl]
  rfl

theorem spillStore_misaligned (h : AtSlot s a) (hs : Settled s a) {va : Word} (b : List Byte)
    (hw : tileWaits a va.toNat 8 = false) (ha : va.toNat % 8 ≠ 0) : spillStore s a va b = trapAt s cStackSpill va := by
  rw [spillStore, prog_of_settled h hs, planOne_misaligned hw ha]
  rfl

theorem fillLoad_readable (h : AtSlot s a) (hs : Settled s a) {va : Word} {x : Leaf}
    (hp : planOne s a va 8 8 .rd false ruleAny = .ok x) (hx : Readable s a (mkAccess x va (.load 8 none))) :
    ∃ r, fillLoad s a va = .ok (s, r) ∧ r.toNat = leVal (readBytes s (x.pa va) 8) := by
  have hv : leVal (readBytes s (x.pa va) 8) < 2 ^ 64 := (leVal_lt _).trans_eq (by rw [readBytes_length])
  refine ⟨BitVec.ofNat 64 (leVal (readBytes s (x.pa va) 8)), ?_, by rw [BitVec.toNat_ofNat, Nat.mod_eq_of_lt hv]⟩
  rw [fillLoad, prog_of_settled h hs, hp]
  simp only [loadAll_readable h hs (List.forall_mem_singleton.mpr ⟨⟨8, none, rfl⟩, hx⟩) none]
  rfl

theorem fillLoad_misaligned (h : AtSlot s a) (hs : Settled s a) {va : Word} (hw : tileWaits a va.toNat 8 = false)
    (ha : va.toNat % 8 ≠ 0) : fillLoad s a va = trapAt s cStackFill va := by
  rw [fillLoad, prog_of_settled h hs, planOne_misaligned hw ha]
  rfl

end

/-! ### Calls -/

section
variable {s : State} {a : Actor} {i : Instr} {g : Guard} {body : Actor → R Res} {p : Word} {check : R Unit}
  (hi : exec i s = accessOp s g body) (hb : body a = callTo s a p check) (h : Runs s a g) (hc : check = .ok ())
include hi hb h hc

theorem call_room (hr : a.x.rs.length < 8) :
    JumpsTo i s a { withReg a.x (.s 15) (pcNext a.pc) with rs := (pcNext a.pc).setWidth 64 :: a.x.rs } p := by
  have hl := h.1.leaves.modStrand (pushed · (pcNext a.pc))
  rw [pushed, List.take_of_length_le (by omega)] at hl
  refine access_jumps hi h ?_ hl
  rw [hb, callTo, check_passes hc, pushReturn_room hr]
  rfl

theorem call_misaligned (hs : Settled s a) (hr : a.x.rs.length = 8) (ha : (spillAt a).toNat % 8 ≠ 0)
    (hw : tileWaits a (spillAt a).toNat 8 = false) : Traps i s a cStackSpill (spillAt a) := by
  refine access_traps hi h ?_
  rw [hb, callTo, check_passes hc, pushReturn_full hr, spillStore_misaligned h.1 hs _ hw ha]
  rfl

/-- A call whose oldest return address goes to memory. -/
theorem call_spills (hs : Settled s a) (hr : a.x.rs.length = 8) {x : Leaf}
    (hp : planOne s a (spillAt a) 8 8 .wr false ruleAny = .ok x)
    (hx : AtHome s a (mkAccess x (spillAt a) (.push (spillBytes a)))) :
    ∃ t, exec i s = .next t ∧
      Leaves (s.withMemOf (stored s (x.pa (spillAt a)) (spillBytes a))) t a
        (countSlot (s.core a.core) a.k) (jumped (pushed (withReg a.x (.s 14) (spillAt a)) (pcNext a.pc)) p) := by
  have hl := leavesMem_iff.mp (h.1.leaves.writes
    (stored_onlyWrites s (x.pa (spillAt a)) (spillBytes a)))
  refine ⟨_, ?_, jumpEnd h.2.2 p (hl.modStrand (fun x => pushed (withReg x (.s 14) (spillAt a)) (pcNext a.pc)))⟩
  rw [hi, accessOp_eq h.1, h.2.1, if_pos rfl, hb, callTo, check_passes hc, pushReturn_full hr,
    spillStore_atHome h.1 hs hp hx]
  rfl

/-- What a call leaves whose oldest return address goes to memory: the stack, s14, s15, and the 8 bytes. -/
theorem call_spilled (hs : Settled s a) (hr : a.x.rs.length = 8) {x : Leaf}
    (hp : planOne s a (spillAt a) 8 8 .wr false ruleAny = .ok x)
    (hx : AtHome s a (mkAccess x (spillAt a) (.push (spillBytes a)))) :
    let va := spillAt a
    let b := spillBytes a
    ∃ t y, exec i s = .next t ∧ t.strand a.core a.k = some y ∧ y.pc = p ∧ y.s.get 14 = va ∧ y.s.get 15 = pcNext a.pc ∧
      y.rs = (pcNext a.pc).setWidth 64 :: a.x.rs.take 7 ∧ readBytes t (x.pa va) 8 = b ∧
      (∀ q, q < x.pa va ∨ x.pa va + 8 ≤ q → t.byte q = s.byte q) := by
  obtain ⟨t, ht, ⟨hbyte, -, -⟩, -, hy, -⟩ := call_spills hi hb h hc hs hr hp hx
  refine ⟨t, _, ht, hy, rfl, ?_, ?_, rfl, ?_, fun q hq => (hbyte q).trans (stored_byte_out s (by simpa using hq))⟩
  · simp [jumped, pushed, withReg, withSum, Vector.get_eq_getElem]
  · simp [jumped, pushed, withReg, withSum, Vector.get_eq_getElem]
  · refine List.ext_getElem (by simp) (fun j hj hj' => ?_)
    rw [readBytes_getElem, hbyte]
    have := stored_byte_in s (x.pa (spillAt a)) hj'
    rw [List.getD_eq_getElem _ _ hj'] at this
    exact this

end

/-! ### O15 -/

/-- Settles O15: each transfer is its check and then its jump (`access_jumpsTo`); a call pushes (`call_room`) or spills
(`call_spilled`, `call_misaligned`), a return pops or fills (`fillLoad_readable`, `fillLoad_misaligned`). -/
theorem transfers : Obligations.Transfers := by
  unfold Obligations.Transfers
  refine ⟨fun s a => ⟨fun g h => ?_, fun f h hc => ⟨?_, fun rest hq hc => ?_, call_room rfl rfl h hc⟩,
    fun f h rest hq => ?_, fun f h hc => ⟨?_, call_room rfl rfl h hc⟩, fun f h r rest hrs hc => ?_⟩, fun s a hs => ?_⟩
  · exact access_completes (g := g) rfl h rfl h.1.leaves
  · exact access_jumpsTo rfl h (check_passes hc _) h.1.leaves
  · refine access_jumpsTo rfl h ?_ (h.1.leaves.modStrand (fun x => { x with bq := rest }))
    simp only [hq, if_true]
    exact check_passes hc _
  · refine access_completes rfl h ?_ (h.1.leaves.modStrand (fun x => { x with bq := rest }))
    simp only [hq]
    rfl
  · exact access_jumpsTo rfl h (check_passes hc _) h.1.leaves
  · refine access_jumps rfl h ?_ (h.1.leaves.modStrand (fun x => { x with rs := rest }))
    simp only [hrs]
    exact check_passes hc _
  · refine ⟨fun f h hr hc => ⟨fun ha hw => call_misaligned rfl rfl h hc hs hr ha hw,
        fun x hp hx => call_spilled rfl rfl h hc hs hr hp hx⟩,
      fun f h hr hc x hp hx => call_spilled rfl rfl h hc hs hr hp hx,
      fun f h hrs => ⟨fun ha hw => ?_, fun x hp hx hc => ?_⟩⟩
    · refine access_traps rfl h ?_
      simp only [hrs, fillLoad_misaligned h.1 hs hw ha]
      rfl
    · obtain ⟨r, hr, hv⟩ := fillLoad_readable h.1 hs hp hx
      rw [← hv] at hc ⊢
      refine access_jumps rfl h ?_ (h.1.leaves.setReg h.1.2 (.s 14) (a.sr.get 14 + 8))
      simp only [hrs, hr]
      exact check_passes hc _

end Sys2Proof.Machine
end

section
/-! Integer results: what a slot of rows 0x00 and 0x01 leaves, and the sums, quotients and remainders of Table 12.4 (12 R236 to
R238; 26 R475). -/

namespace Sys2Proof.Machine

/-! ### Results that are written -/

section
variable {s u : State} {a : Actor} {co : Core} {y : Strand}

theorem Leaves.setPredicted (h : Leaves s u a co y) (d : SReg) (v : Word) (carried exact : Int) :
    Leaves s (Machine.setPredicted u a d v carried exact) a co (withSum y d v (predicted u a.core v carried exact)) := by
  cases d with
  | s i => exact h.modStrand _
  | zr => exact h

/-- A core whose FSTAT.SAT is set where a result saturated. -/
def saturated (co : Core) (sat : Bool) : Core := { co with fstat := co.fstat ||| (flagIf sat flagSAT).setWidth 64 }

theorem saturated_false (co : Core) : saturated co false = co := by simp [saturated, flagIf]

variable {i : Instr} {sh : Bool} {g : Guard} {d : SReg} {body : Actor → R Res}

/-- A slot of rows 0x00 to 0x02 that is no shadow and goes on to the next slot. -/
theorem primary_completes (hi : exec i s = shadowable s sh g d body) (hsh : sh = false) (h : Runs s a g)
    (hb : body a = .ok (.next u)) (hl : Leaves s u a co y) : Completes i s a co (nextSlot y a.pc) := by
  obtain ⟨t, ht, hl'⟩ := accessOp_completes h hb hl
  exact ⟨t, by rw [hi, shadowable, hsh]; exact ht, hl'⟩

theorem primary_traps {c : Code} (hi : exec i s = shadowable s sh g d body) (hsh : sh = false) (h : Runs s a g)
    (hb : body a = trapAt s c 0) : Traps i s a c 0 := by
  rw [Traps, hi, shadowable, hsh]
  exact accessOp_traps h hb

/-- An integer result that is written, and the flag that it sets. -/
theorem aluPut_completes {put : Word → State} {v : Word} {sat : Bool} (hi : exec i s = shadowable s sh g d body)
    (hsh : sh = false) (h : Runs s a g) (hb : body a = aluPut s a put (.ok (v, sat)))
    (hl : Leaves s (put v) a (s.core a.core) y) : Completes i s a (saturated (s.core a.core) sat) (nextSlot y a.pc) :=
  primary_completes hi hsh h hb (hl.orFlags _)

theorem aluWrite_completes {v : Word} {sat : Bool} (hi : exec i s = shadowable s sh g d body) (hsh : sh = false)
    (h : Runs s a g) (hb : body a = aluWrite s a d (.ok (v, sat))) :
    Completes i s a (saturated (s.core a.core) sat) (nextSlot (withReg a.x d v) a.pc) :=
  aluPut_completes hi hsh h hb (h.1.leaves.setReg h.1.2 d v)

/-- A pattern that is written sets no flag. -/
theorem aluWrite_completes_unflagged {v : Word} (hi : exec i s = shadowable s sh g d body) (hsh : sh = false)
    (h : Runs s a g) (hb : body a = aluWrite s a d (.ok (v, false))) :
    Completes i s a (s.core a.core) (nextSlot (withReg a.x d v) a.pc) := by
  have := aluWrite_completes hi hsh h hb
  rwa [saturated_false] at this

end

/-! ### Ranges (12 R236, R238) -/

theorem wbits_pos (iw : IWidth) : 0 < wbits iw := by cases iw <;> decide
theorem wbits_le (iw : IWidth) : wbits iw ≤ 64 := by cases iw <;> decide

/-- A result that leaves the range of its width. -/
def outOfRange (z : Bool) (w : Nat) (r : Int) : Bool := decide (r < intLo (!z) w) || decide (intHi (!z) w < r)
/-- The register value of an exact result, moved into the range under .sat. -/
def aluValue (z : Bool) (w : Nat) (sat : Bool) (r : Int) : Word :=
  extend72 z w (wrapInt w (if sat then max (intLo (!z) w) (min (intHi (!z) w) r) else r))

theorem outOfRange_iff {z : Bool} {w : Nat} {r : Int} : outOfRange z w r = true ↔ r < intLo (!z) w ∨ intHi (!z) w < r := by
  simp [outOfRange]
theorem outOfRange_eq_false {z : Bool} {w : Nat} {r : Int} (h1 : intLo (!z) w ≤ r) (h2 : r ≤ intHi (!z) w) :
    outOfRange z w r = false := by
  simp [outOfRange, h1, h2]

theorem aluValue_inRange {z : Bool} {w : Nat} {r : Int} (h : outOfRange z w r = false) (sat : Bool) :
    aluValue z w sat r = extend72 z w (wrapInt w r) := by
  simp only [outOfRange, Bool.or_eq_false_iff, decide_eq_false_iff_not, not_lt] at h
  rw [aluValue, min_eq_right h.2, max_eq_right h.1, ite_self]

/-- A result that is written: in range, saturated, or wrapped where no overflow is to trap. -/
theorem aluResult_ok {fctl : DWord} {w : Nat} {z sat detect : Bool} {r : Int}
    (h : outOfRange z w r = true → sat = true ∨ detect = false ∨ z = true ∨ bit fctl 7 = false) :
    aluResult fctl w z sat detect r = .ok (aluValue z w sat r, outOfRange z w r && sat) := by
  by_cases ho : r < intLo (!z) w ∨ intHi (!z) w < r
  · have hout := outOfRange_iff.mpr ho
    rw [aluResult, if_pos ho, hout]
    cases hs : sat with
    | true => rw [if_pos rfl, bound_eq_clamp (intLo_le_intHi _ _) ho]; rfl
    | false =>
      have hd : (detect && !z && enInt fctl) = false := by
        rcases h hout with h | h | h | h
        · exact absurd (hs.symm.trans h) (by decide)
        · simp [h]
        · simp [h]
        · simp [enInt, h]
      rw [hd]
      rfl
  · have hout : outOfRange z w r = false := by simpa [outOfRange] using ho
    rw [aluResult, if_neg ho, aluValue_inRange hout, hout]
    rfl

/-- A detected signed overflow, while FCTL.EIO is set. -/
theorem aluResult_overflow {fctl : DWord} {w : Nat} {r : Int} (h : outOfRange false w r = true) (he : bit fctl 7 = true) :
    aluResult fctl w false false true r = .error cIntOverflow := by
  rw [aluResult, if_pos (outOfRange_iff.mp h)]
  simp [enInt, he]

/-! ### Sums, products, minima and maxima -/

section
variable {s : State} {a : Actor} {i : Instr} {f : Alu3}

/-- A register's pattern as Z says, and the two operands of a slot so read. -/
def aluArg (z : Bool) (w : Nat) (x : Word) : Int := intOf (!z) w (pat w x)
def firstArg (a : Actor) (f : Alu3) (z : Bool) : Int := aluArg z (wbits f.w) (a.opnd f.a)
def secondArg (a : Actor) (f : Alu3) (z : Bool) : Int := aluArg z (wbits f.w) (a.opnd f.b)

theorem aluNum_completes {z : Bool} {op : Int → Int → Int} (hi : exec i s = aluNum s f z false op) (h : Runs s a f.g)
    (hsh : f.sh = false) :
    let r := op (firstArg a f z) (secondArg a f z)
    Completes i s a (saturated (s.core a.core) (outOfRange z (wbits f.w) r && f.sat))
      (nextSlot (withReg a.x f.d (aluValue z (wbits f.w) f.sat r)) a.pc) := by
  refine aluWrite_completes hi hsh h ?_
  rw [← aluResult_ok (fctl := (s.core a.core).fctl) (fun _ => .inr (.inl rfl))]
  rfl

theorem aluSum_completes {op : Int → Int → Int} (hi : exec i s = aluSum s f op) (h : Runs s a f.g) (hsh : f.sh = false)
    (hout : outOfRange f.z (wbits f.w) (op (firstArg a f f.z) (secondArg a f f.z)) = true →
      f.sat = true ∨ f.z = true ∨ bit (s.core a.core).fctl 7 = false) :
    let r := op (firstArg a f f.z) (secondArg a f f.z)
    let v := aluValue f.z (wbits f.w) f.sat r
    Completes i s a (saturated (s.core a.core) (outOfRange f.z (wbits f.w) r && f.sat))
      (nextSlot (withSum a.x f.d v (predicted s a.core v (op (a.residue f.a) (a.residue f.b))
        (op (a.opnd f.a).toNat (a.opnd f.b).toNat))) a.pc) := by
  refine aluPut_completes (put := fun v => setPredicted s a f.d v _ _) hi hsh h ?_ (h.1.leaves.setPredicted f.d _ _ _)
  rw [← aluResult_ok (fctl := (s.core a.core).fctl) (detect := true) (fun ho => (hout ho).imp_right .inr)]
  rfl

theorem aluSum_traps {op : Int → Int → Int} (hi : exec i s = aluSum s f op) (h : Runs s a f.g) (hsh : f.sh = false)
    (hsat : f.sat = false) (hz : f.z = false) (he : bit (s.core a.core).fctl 7 = true)
    (hout : outOfRange false (wbits f.w) (op (firstArg a f false) (secondArg a f false)) = true) :
    Traps i s a cIntOverflow 0 := by
  refine primary_traps hi hsh h ?_
  dsimp only
  rw [hsat, hz]
  exact congrArg (aluPut s a _) (aluResult_overflow hout he)

end

/-! ### ADDI -/

section
variable {s : State} {a : Actor} {f : AluI}

/-- The exact sum of ADDI. -/
def addiSum (a : Actor) (f : AluI) : Int :=
  aluArg f.z (wbits f.w) (a.opnd f.a) + intOf (!f.z) (wbits f.w) (f.imm.signExtend 64).toNat

theorem addi_completes (h : Runs s a f.g) (hsh : f.sh = false)
    (hout : outOfRange f.z (wbits f.w) (addiSum a f) = true →
      f.sat = true ∨ f.z = true ∨ bit (s.core a.core).fctl 7 = false) :
    let imm := (f.imm.signExtend 72).toNat
    let v := aluValue f.z (wbits f.w) f.sat (addiSum a f)
    Completes (.addi f) s a (saturated (s.core a.core) (outOfRange f.z (wbits f.w) (addiSum a f) && f.sat))
      (nextSlot (withSum a.x f.d v (predicted s a.core v (a.residue f.a + imm) ((a.opnd f.a).toNat + imm))) a.pc) := by
  refine aluPut_completes (put := fun v => setPredicted s a f.d v _ _) rfl hsh h ?_ (h.1.leaves.setPredicted f.d _ _ _)
  rw [← aluResult_ok (fctl := (s.core a.core).fctl) (detect := true) (fun ho => (hout ho).imp_right .inr)]
  rfl

theorem addi_traps (h : Runs s a f.g) (hsh : f.sh = false) (hsat : f.sat = false) (hz : f.z = false)
    (he : bit (s.core a.core).fctl 7 = true) (hout : outOfRange f.z (wbits f.w) (addiSum a f) = true) :
    Traps (.addi f) s a cIntOverflow 0 := by
  refine primary_traps rfl hsh h ?_
  rw [addiSum, hz] at hout
  dsimp only
  rw [hsat, hz]
  exact congrArg (aluPut s a _) (aluResult_overflow hout he)

end

/-! ### O7 -/

/-- Settles O7: a result is written as `aluResult_ok` says (`aluSum_completes`, `aluNum_completes`, `addi_completes`), or
overflows and traps (`aluSum_traps`, `addi_traps`). -/
theorem integerArithmetic : Obligations.IntegerArithmetic := by
  unfold Obligations.IntegerArithmetic
  refine ⟨fun s a f h hsh p hp => ?_, fun s a f h hsh => ?_, fun s a f h hsh hsat hz he p hp => ?_⟩
  · simp only [List.mem_cons, List.not_mem_nil, or_false] at hp
    obtain rfl | rfl | rfl | rfl | rfl | rfl | rfl | rfl | rfl := hp
    · exact fun hout => aluSum_completes (op := fun x y => x + y) rfl h hsh
        (fun ho => (hout ho).imp_right (·.resolve_left Bool.noConfusion))
    · exact fun hout => aluSum_completes (op := fun x y => x - y) rfl h hsh
        (fun ho => (hout ho).imp_right (·.resolve_left Bool.noConfusion))
    · exact fun hout => aluSum_completes (op := fun x y => x * y) rfl h hsh
        (fun ho => (hout ho).imp_right (·.resolve_left Bool.noConfusion))
    all_goals exact fun _ => aluNum_completes rfl h hsh
  · intro w r out co
    split
    · next hc =>
      obtain ⟨ho, hsat, hz, he⟩ := hc
      exact addi_traps h hsh hsat hz he ho
    · next hc =>
      refine addi_completes h hsh (fun ho => ?_)
      by_contra hn
      simp only [not_or, Bool.not_eq_true, Bool.not_eq_false] at hn
      exact hc ⟨ho, hn⟩
  · intro w r hr
    have hout : outOfRange false w r = true := by
      rw [outOfRange_iff]
      refine hr.imp id (fun hr => ?_)
      change (2 : Int) ^ (w - 1) - 1 < r
      omega
    simp only [List.mem_cons, List.not_mem_nil, or_false] at hp
    obtain rfl | rfl | rfl := hp <;> exact aluSum_traps rfl h hsh hsat hz he hout

/-! ### Quotients and remainders (12 R238) -/

/-- A pattern read as Z says is in the range of its width. -/
theorem aluArg_mem (z : Bool) {w : Nat} (hw : 0 < w) (x : Word) :
    intLo (!z) w ≤ aluArg z w x ∧ aluArg z w x ≤ intHi (!z) w := by
  cases z with
  | false =>
    rw [aluArg, Bool.not_false, intOf_signed _ _ hw]
    have h1 := BitVec.le_toInt (BitVec.ofNat w (pat w x))
    have h2 := BitVec.toInt_lt (x := BitVec.ofNat w (pat w x))
    simp only [intLo, intHi, if_true]
    omega
  | true =>
    have hp : pat w x % 2 ^ w < 2 ^ w := Nat.mod_lt _ (Nat.two_pow_pos w)
    have hc : ((2 : Int) ^ w) = ((2 ^ w : Nat) : Int) := by push_cast; rfl
    simp only [aluArg, intOf, intLo, intHi, Bool.not_true, Bool.false_and, Bool.false_eq_true, if_false, hc]
    omega

/-- A remainder lies between zero and the dividend. -/
theorem tmod_between (x y : Int) :
    (0 ≤ x → 0 ≤ x.tmod y ∧ x.tmod y ≤ x) ∧ (x < 0 → x ≤ x.tmod y ∧ x.tmod y ≤ 0) := by
  have habs : (x.tmod y).natAbs ≤ x.natAbs := by rw [Int.natAbs_tmod]; exact Nat.mod_le _ _
  refine ⟨fun hx => ?_, fun hx => ?_⟩
  · have := Int.tmod_nonneg y hx
    omega
  · have h := Int.tmod_nonneg y (show 0 ≤ -x by omega)
    rw [Int.neg_tmod] at h
    omega

theorem tmod_inRange (z : Bool) {w : Nat} (hw : 0 < w) (x : Word) (y : Int) :
    outOfRange z w ((aluArg z w x).tmod y) = false := by
  have hx := aluArg_mem z hw x
  have hb := tmod_between (aluArg z w x) y
  have h0 : intLo (!z) w ≤ 0 ∧ 0 ≤ intHi (!z) w := by
    have h1 : (1 : Int) ≤ 2 ^ (w - 1) := by exact_mod_cast Nat.one_le_two_pow
    have h2 : (1 : Int) ≤ 2 ^ w := by exact_mod_cast Nat.one_le_two_pow
    cases z <;> simp only [intLo, intHi, Bool.not_false, Bool.not_true, Bool.false_eq_true, if_true, if_false] <;> omega
  rcases lt_or_ge (aluArg z w x) 0 with h | h
  · exact outOfRange_eq_false (hx.1.trans (hb.2 h).1) ((hb.2 h).2.trans h0.2)
  · exact outOfRange_eq_false (h0.1.trans (hb.1 h).1) ((hb.1 h).2.trans hx.2)

/-- A quotient is in range but for the least signed number over minus one. -/
theorem tdiv_inRange (z : Bool) {w : Nat} (hw : 0 < w) (x y : Word) (hy : aluArg z w y ≠ 0)
    (ho : ¬ (z = false ∧ aluArg z w x = -(2 ^ (w - 1)) ∧ aluArg z w y = -1)) :
    outOfRange z w ((aluArg z w x).tdiv (aluArg z w y)) = false := by
  have hx := aluArg_mem z hw x
  have hy' := aluArg_mem z hw y
  revert hx hy' hy ho
  generalize aluArg z w x = m
  generalize aluArg z w y = n
  intro hy ho hx hy'
  have habs : (m.tdiv n).natAbs = m.natAbs / n.natAbs := Int.natAbs_tdiv m n
  have hle : m.natAbs / n.natAbs ≤ m.natAbs := Nat.div_le_self _ _
  cases z with
  | true =>
    simp only [intLo, intHi, Bool.not_true, Bool.false_eq_true, if_false] at hx hy'
    have h0 : 0 ≤ m.tdiv n := Int.tdiv_nonneg hx.1 hy'.1
    refine outOfRange_eq_false h0 ?_
    change m.tdiv n ≤ 2 ^ w - 1
    omega
  | false =>
    simp only [intLo, intHi, Bool.not_false, if_true] at hx
    generalize hP : (2 : Int) ^ (w - 1) = P at hx ho
    have hlo : -P ≤ m.tdiv n := by omega
    have hhi : m.tdiv n ≤ P - 1 := by
      by_contra hgt
      have hm : m = -P := by omega
      have hn : n.natAbs = 1 := by
        by_contra hn
        have := Nat.div_lt_self (show 0 < m.natAbs by omega) (show 1 < n.natAbs by omega)
        omega
      have hn1 : n = 1 := by
        refine (Int.natAbs_eq_iff.mp hn).resolve_right (fun h => ho ⟨rfl, hm, h⟩)
      rw [hn1, Int.tdiv_one] at hgt
      omega
    subst hP
    exact outOfRange_eq_false hlo hhi

section
variable {s : State} {a : Actor} {i : Instr} {f : Alu3} {z rem : Bool} {op : Int → Int → Int}
  (hi : exec i s = aluDiv s f z rem op) (h : Runs s a f.g) (hsh : f.sh = false)
include hi h hsh

theorem aluDiv_zero (hy : secondArg a f z = 0) (hsat : f.sat = false) : Traps i s a cIntDivZero 0 := by
  refine primary_traps hi hsh h ((if_pos hy).trans ?_)
  rw [hsat]
  rfl

theorem aluDiv_zero_sat (hy : secondArg a f z = 0) (hsat : f.sat = true) :
    let x := firstArg a f z
    Completes i s a (saturated (s.core a.core) true) (nextSlot (withReg a.x f.d (extend72 z (wbits f.w) (wrapInt (wbits f.w)
      (if rem = true then x else if x < 0 then intLo (!z) (wbits f.w) else intHi (!z) (wbits f.w))))) a.pc) := by
  refine aluWrite_completes hi hsh h ((if_pos hy).trans ?_)
  rw [hsat]
  rfl

variable (hy : secondArg a f z ≠ 0)
include hy

theorem aluDiv_inRange
    (ho : outOfRange z (wbits f.w) (op (firstArg a f z) (secondArg a f z)) = false) :
    Completes i s a (saturated (s.core a.core) false) (nextSlot (withReg a.x f.d (extend72 z (wbits f.w) (wrapInt (wbits f.w)
      (op (firstArg a f z) (secondArg a f z))))) a.pc) := by
  refine aluWrite_completes hi hsh h ((if_neg hy).trans ?_)
  have hr := aluResult_ok (fctl := (s.core a.core).fctl) (sat := f.sat) (detect := !z && !rem)
    (fun ht => absurd (ho.symm.trans ht) (by decide))
  rw [aluValue_inRange ho, ho, Bool.false_and] at hr
  exact congrArg (aluWrite s a f.d) hr

end

/-! ### The least number over minus one (12 R238) -/

theorem least_tdiv_neg_one (p : Int) : (-p).tdiv (-1) = p := by rw [Int.tdiv_neg, Int.tdiv_one, neg_neg]

theorem outOfRange_bound (w : Nat) : outOfRange false w (2 ^ (w - 1)) = true := by
  rw [outOfRange_iff]
  right
  change (2 : Int) ^ (w - 1) - 1 < 2 ^ (w - 1)
  omega

theorem aluValue_bound_sat (w : Nat) : aluValue false w true (2 ^ (w - 1)) = extend72 false w (wrapInt w (2 ^ (w - 1) - 1)) := by
  have hp : (1 : Int) ≤ 2 ^ (w - 1) := by exact_mod_cast Nat.one_le_two_pow
  have hm : max (intLo (!false) w) (min (intHi (!false) w) (2 ^ (w - 1))) = 2 ^ (w - 1) - 1 := by
    simp only [intLo, intHi, Bool.not_false, if_true]
    omega
  rw [aluValue, if_pos rfl, hm]

/-- Without .sat the quotient wraps to the dividend. -/
theorem aluValue_bound_wraps {w : Nat} (hw : 0 < w) :
    aluValue false w false (2 ^ (w - 1)) = extend72 false w (wrapInt w (-(2 ^ (w - 1)))) := by
  have hp : (2 : Int) ^ w = 2 ^ (w - 1) + 2 ^ (w - 1) := by
    rw [← two_mul, ← pow_succ', Nat.sub_add_cancel hw]
  have hm : (2 : Int) ^ (w - 1) % 2 ^ w = -(2 ^ (w - 1)) % 2 ^ w :=
    Int.modEq_iff_dvd.mpr ⟨-1, by rw [hp]; ring⟩
  rw [aluValue, if_neg Bool.false_ne_true, wrapInt, wrapInt, hm]

section
variable {s : State} {a : Actor} {f : Alu3}
  (hx : firstArg a f false = -(2 ^ (wbits f.w - 1))) (hy : secondArg a f false = -1)
include hx hy

theorem div_overflow_body : ∃ body, exec (.div f) s = shadowable s f.sh f.g f.d body ∧ body a = aluWrite s a f.d
    (aluResult (s.core a.core).fctl (wbits f.w) false f.sat true (2 ^ (wbits f.w - 1))) := by
  refine ⟨_, rfl, ?_⟩
  rw [← least_tdiv_neg_one (2 ^ (wbits f.w - 1)), ← hx, ← hy]
  have hy0 : secondArg a f false ≠ 0 := by rw [hy]; decide
  exact if_neg hy0

variable (h : Runs s a f.g) (hsh : f.sh = false)
include h hsh

theorem div_overflow_written (he : f.sat = true ∨ bit (s.core a.core).fctl 7 = false) :
    Completes (.div f) s a (saturated (s.core a.core) f.sat)
      (nextSlot (withReg a.x f.d (aluValue false (wbits f.w) f.sat (2 ^ (wbits f.w - 1)))) a.pc) := by
  obtain ⟨body, hi, hb⟩ := div_overflow_body (s := s) hx hy
  rw [aluResult_ok (fun _ => he.imp id (fun he => .inr (.inr he))), outOfRange_bound, Bool.true_and] at hb
  exact aluWrite_completes hi hsh h hb

theorem div_overflow_traps (hsat : f.sat = false) (he : bit (s.core a.core).fctl 7 = true) :
    Traps (.div f) s a cIntOverflow 0 := by
  obtain ⟨body, hi, hb⟩ := div_overflow_body (s := s) hx hy
  rw [hsat, aluResult_overflow (outOfRange_bound _) he] at hb
  exact primary_traps hi hsh h hb

end

/-! ### O8 -/

/-- Settles O8: a zero divisor traps or saturates (`aluDiv_zero`, `aluDiv_zero_sat`); a remainder, and a quotient but for one, is
in range (`tmod_inRange`, `tdiv_inRange`); that one overflows (`div_overflow_written`, `div_overflow_traps`). -/
theorem integerDivision : Obligations.IntegerDivision := by
  unfold Obligations.IntegerDivision
  intro s a f h hsh p hp
  obtain ⟨hi, hdiv⟩ : exec p.1 s = aluDiv s f p.2.1 p.2.2 (if p.2.2 then Int.tmod else Int.tdiv) ∧
      (p.2.1 = false → p.2.2 = false → p.1 = .div f) := by
    simp only [List.mem_cons, List.not_mem_nil, or_false] at hp
    obtain rfl | rfl | rfl | rfl := hp
    · exact ⟨rfl, fun _ _ => rfl⟩
    · exact ⟨rfl, fun hz => Bool.noConfusion hz⟩
    · exact ⟨rfl, fun _ hr => Bool.noConfusion hr⟩
    · exact ⟨rfl, fun hz => Bool.noConfusion hz⟩
  obtain ⟨i, z, rem⟩ := p
  intro _ w x y co done
  have hw : 0 < w := wbits_pos f.w
  split
  · next hy =>
    split
    · next hsat => exact aluDiv_zero_sat hi h hsh hy hsat
    · next hsat => exact aluDiv_zero hi h hsh hy (by simpa using hsat)
  · next hy =>
    split
    · next hr =>
      obtain rfl : rem = true := hr
      exact aluDiv_inRange hi h hsh hy (tmod_inRange z hw _ _)
    · next hr =>
      obtain rfl : rem = false := by simpa using hr
      split
      · next hov =>
        obtain ⟨hz, hx, hy1⟩ := hov
        obtain rfl : z = false := hz
        obtain rfl : i = .div f := hdiv rfl rfl
        split
        · next hsat =>
          have hc := div_overflow_written hx hy1 h hsh (.inl hsat)
          rw [hsat, aluValue_bound_sat] at hc
          exact hc
        · next hsat =>
          rw [Bool.not_eq_true] at hsat
          split
          · next he => exact div_overflow_traps hx hy1 h hsh hsat he
          · next he =>
            have hc := div_overflow_written hx hy1 h hsh (.inr (by simpa using he))
            rw [hsat, aluValue_bound_wraps hw, ← hx] at hc
            exact hc
      · next hov => exact aluDiv_inRange hi h hsh hy (tdiv_inRange z hw _ _ hy hov)

end Sys2Proof.Machine
end

section
/-! Patterns: logic, shifts, rotates, counts, extensions and bit fields (12 R237, R239). -/

namespace Sys2Proof.Machine

/-! ### Patterns as bit vectors -/

/-- The register value of a pattern (12 R236). -/
def extended {w : Nat} (z : Bool) (v : BitVec w) : Word := if z then v.setWidth 72 else (v.signExtend 64).setWidth 72

theorem extend72_eq {w : Nat} (hw : 0 < w) (z : Bool) (v : BitVec w) {n : Nat} (hn : n = v.toNat) :
    extend72 z w n = extended z v := by
  subst hn
  cases z with
  | false => rw [extend72_signed _ _ hw, BitVec.ofNat_toNat, BitVec.setWidth_eq]; rfl
  | true =>
    rw [extend72, if_pos rfl, Nat.mod_eq_of_lt v.isLt]
    exact BitVec.ofNat_toNat _ _

theorem pat_eq (w : Nat) (x : Word) : pat w x = (x.setWidth w).toNat := (BitVec.toNat_setWidth ..).symm

section
variable {w : Nat} (x y : BitVec w) (c : Nat)

theorem andn_toNat : x.toNat &&& (2 ^ w - 1 - y.toNat) = (x &&& ~~~y).toNat := by
  rw [BitVec.toNat_and, BitVec.toNat_not]

theorem patShl_eq : patShl w x.toNat c = (x <<< c).toNat := by
  rw [BitVec.toNat_shiftLeft, Nat.shiftLeft_eq, patShl]

theorem patShr_eq : patShr x.toNat c = (x >>> c).toNat := by
  rw [BitVec.toNat_ushiftRight, Nat.shiftRight_eq_div_pow, patShr]

theorem intOf_toNat (hw : 0 < w) : intOf true w x.toNat = x.toInt := by
  rw [intOf_signed _ _ hw, BitVec.ofNat_toNat, BitVec.setWidth_eq]

/-- An integer modulo 2^w is the pattern of its bit vector. -/
theorem wrapInt_eq (w : Nat) (r : Int) : wrapInt w r = (BitVec.ofInt w r).toNat := by
  rw [BitVec.toNat_ofInt, wrapInt]
  norm_cast

theorem patSar_eq (hw : 0 < w) : patSar w x.toNat c = (x.sshiftRight c).toNat := by
  rw [patSar, intOf_toNat x hw, wrapInt_eq, BitVec.sshiftRight, Int.shiftRight_eq_div_pow]
  norm_cast

theorem patRol_eq (hc : c < w) : patRol w x.toNat c = (x.rotateLeft c).toNat := by
  have hx := x.isLt
  have hp : 2 ^ w = 2 ^ (w - c) * 2 ^ c := by rw [← Nat.pow_add, Nat.sub_add_cancel hc.le]
  have hlow : x.toNat / 2 ^ (w - c) < 2 ^ c := Nat.div_lt_of_lt_mul (by rwa [← hp])
  have hhigh : x.toNat * 2 ^ c % 2 ^ w = 2 ^ c * (x.toNat % 2 ^ (w - c)) := by
    rw [hp, Nat.mul_mod_mul_right, Nat.mul_comm]
  have hsum : 2 ^ c * (x.toNat % 2 ^ (w - c)) + x.toNat / 2 ^ (w - c) < 2 ^ w :=
    calc 2 ^ c * (x.toNat % 2 ^ (w - c)) + x.toNat / 2 ^ (w - c)
      _ < 2 ^ c * (x.toNat % 2 ^ (w - c) + 1) := by rw [Nat.mul_add_one]; omega
      _ ≤ 2 ^ c * 2 ^ (w - c) := Nat.mul_le_mul_left _ (Nat.mod_lt _ (Nat.two_pow_pos _))
      _ = 2 ^ w := by rw [hp, Nat.mul_comm]
  rw [patRol, BitVec.toNat_rotateLeft, Nat.mod_eq_of_lt hc, Nat.shiftLeft_eq, Nat.shiftRight_eq_div_pow, ← Nat.mod_add_mod,
    hhigh, ← Nat.two_pow_add_eq_or_of_lt hlow, Nat.mod_eq_of_lt hsum]

theorem patRor_eq (hc : c < w) : patRol w x.toNat ((w - c) % w) = (x.rotateRight c).toNat := by
  rw [patRol_eq _ _ (Nat.mod_lt _ (by omega))]
  congr 1
  rcases Nat.eq_zero_or_pos c with rfl | h0
  · have hz : x >>> w = 0#w := BitVec.ushiftRight_eq_zero (Nat.le_refl w)
    simp [BitVec.rotateLeft_def, BitVec.rotateRight_def, hz]
  · rw [BitVec.rotateLeft_def, BitVec.rotateRight_def, Nat.mod_mod, Nat.mod_eq_of_lt hc, Nat.mod_eq_of_lt (by omega : w - c < w),
      Nat.sub_sub_self hc.le, BitVec.or_comm]

end

/-! ### Counts -/

theorem countLead_spec (w x : Nat) : countLead w x ≤ w ∧ (∀ j < countLead w x, x.testBit (w - 1 - j) = false) ∧
    (countLead w x < w → x.testBit (w - 1 - countLead w x) = true) := by
  induction w with
  | zero => simp [countLead]
  | succ w ih =>
    obtain ⟨hle, hz, ho⟩ := ih
    rw [countLead]
    split
    · next h => exact ⟨Nat.zero_le _, fun j hj => absurd hj (Nat.not_lt_zero j), fun _ => by simpa using h⟩
    · next h =>
      refine ⟨by omega, fun j hj => ?_, fun hl => ?_⟩
      · cases j with
        | zero => simpa using h
        | succ j => rw [show w + 1 - 1 - (j + 1) = w - 1 - j by omega]; exact hz j (by omega)
      · rw [show w + 1 - 1 - (countLead w x + 1) = w - 1 - countLead w x by omega]; exact ho (by omega)

theorem countTrail_spec (w x : Nat) : countTrail w x ≤ w ∧ (∀ j < countTrail w x, x.testBit j = false) ∧
    (countTrail w x < w → x.testBit (countTrail w x) = true) := by
  induction w generalizing x with
  | zero => simp [countTrail]
  | succ w ih =>
    obtain ⟨hle, hz, ho⟩ := ih (x / 2)
    rw [countTrail]
    split
    · next h =>
      exact ⟨Nat.zero_le _, fun j hj => absurd hj (Nat.not_lt_zero j), fun _ => by simpa [Nat.testBit_zero] using h⟩
    · next h =>
      refine ⟨by omega, fun j hj => ?_, fun hl => ?_⟩
      · cases j with
        | zero => simpa [Nat.testBit_zero] using h
        | succ j => rw [Nat.testBit_succ]; exact hz j (by omega)
      · rw [Nat.testBit_succ]; exact ho (by omega)

theorem countOnes_eq (w x : Nat) : countOnes w x = (List.range w).countP (fun j => x.testBit j) := by
  induction w generalizing x with
  | zero => rfl
  | succ w ih =>
    rw [countOnes, ih, List.range_succ_eq_map, List.countP_cons, List.countP_map]
    have hs : (List.range w).countP ((fun j => x.testBit j) ∘ Nat.succ) = (List.range w).countP (fun j => (x / 2).testBit j) :=
      List.countP_congr (fun j _ => by simp [Nat.testBit_succ])
    rw [hs, Nat.testBit_zero]
    rcases Nat.mod_two_eq_zero_or_one x with h | h <;> simp [h, Nat.add_comm]

/-- A count of bits is no more than the width, so it is extended as it stands. -/
theorem extend72_count {n : Nat} (iw : IWidth) (hn : n ≤ wbits iw) :
    extend72 false (wbits iw) (wrapInt (wbits iw) n) = BitVec.ofNat 72 n := by
  have hlt : n < 2 ^ (wbits iw - 1) := hn.trans_lt (by cases iw <;> decide)
  have h64 : n < 2 ^ 64 := (hn.trans (wbits_le iw)).trans_lt (by decide)
  have hle : 2 ^ (wbits iw - 1) ≤ 2 ^ wbits iw := Nat.pow_le_pow_right (by decide) (by omega)
  have hw : wrapInt (wbits iw) n = n := by
    rw [wrapInt_eq, BitVec.ofInt_natCast, BitVec.toNat_ofNat, Nat.mod_eq_of_lt (hlt.trans_le hle)]
  have hi : intOf true (wbits iw) n = n := by
    rw [intOf, Nat.mod_eq_of_lt (hlt.trans_le hle), decide_eq_false (by omega)]
    rfl
  rw [hw, extend72, if_neg Bool.false_ne_true, hi, BitVec.ofInt_natCast]
  refine BitVec.eq_of_toNat_eq ?_
  rw [BitVec.toNat_setWidth, BitVec.toNat_ofNat, BitVec.toNat_ofNat, Nat.mod_eq_of_lt h64]

/-! ### Slots -/

section
variable {s : State} {a : Actor} {i : Instr}

theorem aluPat_completes {f : Alu3} {op : Nat → Nat → Nat → Nat → Nat} {v : BitVec (wbits f.w)}
    (hi : exec i s = aluPat s f op) (h : Runs s a f.g) (hsh : f.sh = false)
    (hv : op (wbits f.w) ((a.opnd f.a).setWidth (wbits f.w)).toNat ((a.opnd f.b).setWidth (wbits f.w)).toNat
      (((a.opnd f.b).setWidth 64 : DWord).toNat % wbits f.w) = v.toNat) :
    Completes i s a (s.core a.core) (nextSlot (withReg a.x f.d (extended f.z v)) a.pc) := by
  rw [← extend72_eq (wbits_pos f.w) f.z v hv]
  refine aluWrite_completes_unflagged hi hsh h ?_
  simp only [pat_eq]

theorem aluOne_completes {f : Alu2} {z : Bool} {op : Nat → Nat → Int} (hi : exec i s = aluOne s f z op) (h : Runs s a f.g)
    (hsh : f.sh = false) {v : Word}
    (hv : extend72 z (wbits f.w) (wrapInt (wbits f.w) (op (wbits f.w) ((a.opnd f.a).setWidth (wbits f.w)).toNat)) = v) :
    Completes i s a (s.core a.core) (nextSlot (withReg a.x f.d v) a.pc) := by
  rw [← hv, ← pat_eq]
  exact aluWrite_completes_unflagged hi hsh h rfl

/-- BFX takes a field of the low 64 bits (R239). -/
theorem bfx_completes {f : BitField} (h : Runs s a f.g) (hsh : f.sh = false) (hlen : 1 ≤ f.len.toNat) :
    Completes (.bfx f) s a (s.core a.core)
      (nextSlot (withReg a.x f.d (extended f.z ((a.opnd f.a).extractLsb' f.pos.toNat f.len.toNat))) a.pc) := by
  rw [← extend72_eq hlen f.z _ rfl]
  exact primary_completes rfl hsh h rfl (h.1.leaves.setReg h.1.2 f.d _)

/-- The low 64 bits of a register with a field of it replaced. -/
def inserted (a : Actor) (f : BitField) : Word :=
  zext72 (setBits (low64 (sregVal a.sr f.d)) f.pos.toNat f.len.toNat (a.opnd f.a).toNat)

theorem bfi_completes {f : BitField} (h : Runs s a f.g) (hsh : f.sh = false) :
    Completes (.bfi f) s a (s.core a.core) (nextSlot (withReg a.x f.d (inserted a f)) a.pc) :=
  primary_completes rfl hsh h rfl (h.1.leaves.setReg h.1.2 f.d _)

theorem inserted_getLsbD (a : Actor) (f : BitField) (j : Nat) : (inserted a f).getLsbD j =
    (decide (j < 64) && (if f.pos.toNat ≤ j ∧ j < f.pos.toNat + f.len.toNat then (a.opnd f.a).getLsbD (j - f.pos.toNat)
      else (sregVal a.sr f.d).getLsbD j)) := by
  rw [inserted, zext72, BitVec.getLsbD_setWidth]
  by_cases hj : j < 64
  · rw [getLsbD_setBits _ _ _ _ _ hj, low64, BitVec.getLsbD_setWidth]
    simp [hj, show j < 72 by omega, BitVec.getLsbD]
  · rw [BitVec.getLsbD_of_ge _ _ (by omega)]
    simp [hj]

end

/-! ### O9 -/

/-- Settles O9: a pattern is written as it is extended (`aluPat_completes`, `aluOne_completes`), each operation on patterns is
that on bit vectors, and each count is what its recursion counts (`countLead_spec`, `countTrail_spec`, `countOnes_eq`). -/
theorem bitOperations : Obligations.BitOperations := by
  unfold Obligations.BitOperations
  refine ⟨fun s a f h hsh => ?_, fun s a f h hsh => ?_, fun s a f h hsh hlen _ =>
    ⟨bfx_completes h hsh hlen, inserted a f, bfi_completes h hsh, inserted_getLsbD a f⟩⟩
  · intro w x y c p hp
    have hw : 0 < w := wbits_pos f.w
    have hc : c < w := Nat.mod_lt _ hw
    simp only [List.mem_cons, List.not_mem_nil, or_false] at hp
    obtain rfl | rfl | rfl | rfl | rfl | rfl | rfl | rfl | rfl := hp
    · exact aluPat_completes (op := fun _ x y _ => x &&& y) (v := x &&& y) rfl h hsh (BitVec.toNat_and x y).symm
    · exact aluPat_completes (op := fun _ x y _ => x ||| y) (v := x ||| y) rfl h hsh (BitVec.toNat_or x y).symm
    · exact aluPat_completes (op := fun _ x y _ => x ^^^ y) (v := x ^^^ y) rfl h hsh (BitVec.toNat_xor x y).symm
    · exact aluPat_completes (op := fun w x y _ => x &&& (2 ^ w - 1 - y)) (v := x &&& ~~~y) rfl h hsh (andn_toNat x y)
    · exact aluPat_completes (op := fun w x _ c => patShl w x c) (v := x <<< c) rfl h hsh (patShl_eq x c)
    · exact aluPat_completes (op := fun _ x _ c => patShr x c) (v := x >>> c) rfl h hsh (patShr_eq x c)
    · exact aluPat_completes (op := fun w x _ c => patSar w x c) (v := x.sshiftRight c) rfl h hsh (patSar_eq x c hw)
    · exact aluPat_completes (op := fun w x _ c => patRol w x c) (v := x.rotateLeft c) rfl h hsh (patRol_eq x c hc)
    · exact aluPat_completes (op := fun w x _ c => patRol w x ((w - c) % w)) (v := x.rotateRight c) rfl h hsh (patRor_eq x c hc)
  · intro w x done
    have hw : 0 < w := wbits_pos f.w
    obtain ⟨hl, hlz, hlo⟩ := countLead_spec w x.toNat
    obtain ⟨ht, htz, hto⟩ := countTrail_spec w x.toNat
    have hp : (List.range w).countP (fun j => x.getLsbD j) ≤ w := List.countP_le_length.trans_eq List.length_range
    refine ⟨⟨_, hl, hlz, hlo, aluOne_completes (op := fun w x => countLead w x) rfl h hsh (extend72_count f.w hl)⟩,
      ⟨_, ht, htz, hto, aluOne_completes (op := fun w x => countTrail w x) rfl h hsh (extend72_count f.w ht)⟩,
      aluOne_completes (op := fun w x => countOnes w x) rfl h hsh ?_,
      aluOne_completes (op := fun w x => intOf true w x) rfl h hsh (extend72_eq (z := false) hw x ?_),
      aluOne_completes (op := fun _ x => x) rfl h hsh (extend72_eq (z := true) hw x ?_)⟩
    · rw [countOnes_eq]
      exact extend72_count f.w hp
    · rw [intOf_toNat x hw, wrapInt_eq, BitVec.ofInt_toInt]
    · rw [wrapInt_eq, BitVec.ofInt_natCast, BitVec.ofNat_toNat, BitVec.setWidth_eq]

end Sys2Proof.Machine
end

section
/-! Constants and addresses, compares, predicate instructions (12 R241 to R244). -/

namespace Sys2Proof.Machine

/-! ### Row 0x02 (12 R241) -/

section
variable {s : State} {a : Actor} {i : Instr} {sh : Bool} {g : Guard} {d : SReg} {body : Actor → R Res}
  (hi : exec i s = shadowable s sh g d body) (h : Runs s a g) (hsh : sh = false)
include hi h hsh

theorem move_completes {v : Word} (hb : body a = .ok (.next (setReg s a d v))) :
    Completes i s a (s.core a.core) (nextSlot (withReg a.x d v) a.pc) :=
  primary_completes hi hsh h hb (h.1.leaves.setReg h.1.2 d v)

/-- A sum that predicts its residue (26 R475). -/
theorem sum_completes {v : Word} {carried exact : Int} (hb : body a = .ok (.next (setPredicted s a d v carried exact))) :
    Completes i s a (s.core a.core) (nextSlot (withSum a.x d v (predicted s a.core v carried exact)) a.pc) :=
  primary_completes hi hsh h hb (h.1.leaves.setPredicted d v carried exact)

end

/-! ### Compares (12 R242, R243) -/

/-- The condition of Table 12.7 on bit vectors. -/
def condOf (c : Cond) {w : Nat} (x y : BitVec w) : Bool :=
  match c with
  | .eq => decide (x = y)
  | .ne => decide (x ≠ y)
  | .lt => x.slt y
  | .le => x.sle y
  | .gt => y.slt x
  | .ge => y.sle x
  | .ltz => x.slt 0
  | .lez => x.sle 0
  | .gtz => (0 : BitVec w).slt x
  | .gez => (0 : BitVec w).sle x
  | .ltu => x.ult y
  | .leu => x.ule y
  | .gtu => y.ult x
  | .geu => y.ule x

theorem condHolds_eq (c : Cond) {w : Nat} (hw : 0 < w) (x y : BitVec w) : condHolds c w x.toNat y.toNat = condOf c x y := by
  have heq : (x.toNat == y.toNat) = decide (x = y) := by
    rw [Bool.eq_iff_iff, beq_iff_eq, decide_eq_true_iff, BitVec.toNat_inj]
  unfold condHolds
  simp only [intOf_toNat _ hw]
  cases c with
  | eq => exact heq
  | ne => simp [condOf, bne, heq]
  | _ => simp [condOf, BitVec.slt, BitVec.sle, BitVec.ult, BitVec.ule]

section
variable {s : State} {a : Actor} {i : Instr} {g : Guard} {body : Actor → R Res} {d : Fin 8}

theorem predicate_completes {v : KWord} (hi : exec i s = accessOp s g body) (h : Runs s a g)
    (hb : body a = .ok (.next (setK s a d v))) : Completes i s a (s.core a.core) (nextSlot (withPred a.x d v) a.pc) :=
  access_completes hi h hb (h.1.leaves.setK h.1.2 d v)

/-- A compare of two patterns of `w` bits sets all 16 bits of its predicate register. -/
theorem compare_completes {c : Cond} {w : Nat} (hw : 0 < w) {x y : BitVec w} (hi : exec i s = accessOp s g body)
    (h : Runs s a g) (hb : body a = .ok (.next (setK s a d (kAll (condHolds c w x.toNat y.toNat))))) :
    Completes i s a (s.core a.core) (nextSlot (withPred a.x d (if condOf c x y then 0xFFFF else 0)) a.pc) := by
  rw [condHolds_eq c hw] at hb
  exact predicate_completes hi h hb

/-- The second operand of CMP. -/
def compared (a : Actor) (b : Option SSrc) : Word :=
  match b with
  | some x => a.opnd x
  | none => 0

theorem cmp_completes {f : CmpF} (h : Runs s a f.g) : Completes (.cmp f) s a (s.core a.core) (nextSlot (withPred a.x f.d
    (if condOf f.cond ((a.opnd f.a).setWidth (wbits f.w)) ((compared a f.b).setWidth (wbits f.w)) then 0xFFFF else 0)) a.pc) := by
  refine compare_completes (wbits_pos f.w) (body := _) rfl h ?_
  rw [← pat_eq, ← pat_eq]
  cases f.b with
  | some x => rfl
  | none =>
    have h0 : pat (wbits f.w) 0 = 0 := Nat.zero_mod _
    rw [compared, h0]

theorem cmpi_completes {f : CmpiF} (h : Runs s a f.g) : Completes (.cmpi f) s a (s.core a.core) (nextSlot (withPred a.x f.d
    (if condOf f.cond ((a.opnd f.a).setWidth (wbits f.w)) ((f.imm.signExtend 64).setWidth (wbits f.w))
      then 0xFFFF else 0)) a.pc) := by
  refine compare_completes (wbits_pos f.w) (body := _) rfl h ?_
  rw [← pat_eq, BitVec.toNat_setWidth]

/-! ### Predicate instructions (12 R244) -/

/-- What KMOV moves, as a predicate and as a scalar. -/
theorem kmov_completes {f : KmovF} (h : Runs s a f.g) : Completes (.kmov f) s a (s.core a.core) (nextSlot (match f.d, f.a with
    | .k i, .k j => withPred a.x i (a.k0 j)
    | .k i, .s j => withPred a.x i ((a.sr.get j).setWidth 16)
    | .k i, .zr => withPred a.x i 0
    | .s i, .k j => withReg a.x (.s i) ((a.k0 j).setWidth 72)
    | .s i, .s j => withReg a.x (.s i) (a.sr.get j)
    | .s i, .zr => withReg a.x (.s i) 0
    | .zr, _ => a.x) a.pc) := by
  obtain ⟨g, d, x⟩ := f
  cases d with
  | k i =>
    cases x with
    | k j =>
      refine predicate_completes rfl h ?_
      simp
    | s j => exact predicate_completes rfl h rfl
    | zr => exact predicate_completes rfl h rfl
  | s i =>
    cases x with
    | k j => exact access_completes rfl h rfl (h.1.leaves.setReg h.1.2 (.s i) _)
    | s j => exact access_completes rfl h rfl (h.1.leaves.setReg h.1.2 (.s i) _)
    | zr => exact access_completes rfl h rfl (h.1.leaves.setReg h.1.2 (.s i) _)
  | zr => cases x <;> exact access_completes rfl h rfl h.1.leaves

end

/-! ### O10 -/

/-- Settles O10: row 0x02 writes its destination (`move_completes`, `sum_completes`); a compare sets its predicate as the
condition of Table 12.7 holds (`cmp_completes`, `cmpi_completes`), and the predicate instructions set theirs (`predicate_completes`,
`kmov_completes`). -/
theorem scalarMoves : Obligations.ScalarMoves := by
  unfold Obligations.ScalarMoves
  refine ⟨fun s a => ⟨fun f h hsh => sum_completes rfl h hsh rfl, fun f h hsh => move_completes rfl h hsh rfl,
    fun f h hsh => sum_completes rfl h hsh ?_, fun f h hsh => ⟨?_, ?_⟩, fun f h hsh => move_completes rfl h hsh rfl⟩,
    fun s a => ⟨fun f h => ?_, fun f h => ?_, fun f h => ⟨predicate_completes rfl h rfl, predicate_completes rfl h rfl,
      predicate_completes rfl h rfl⟩, fun f h => predicate_completes rfl h rfl, fun f h => ?_⟩⟩
  · cases f.b with
    | none => simp
    | some r => simp [sext72, low64]
  · refine sum_completes rfl h hsh ?_
    cases f.b with
    | src x => simp [srcImm, immResidue]
    | imm v => simp [srcImm, immResidue]
  · refine sum_completes rfl h hsh ?_
    cases f.b with
    | src x => simp [srcImm, immResidue]
    | imm v => simp [srcImm, immResidue]
  · exact cmp_completes h
  · exact cmpi_completes h
  · exact kmov_completes h

end Sys2Proof.Machine
end

section
/-! GETC, SETC, TLBI and SCAN (12 R258 to R261; 10 R218; 05 R130; 26 R475). -/

namespace Sys2Proof.Machine

/-! ### GETC (12 R258, R259) -/

/-- FOLD is EJECT above MEMB. -/
theorem foldWord_eq (x : Strand) : zext72 (foldWord x) = (x.eject ++ x.memb).setWidth 72 := by
  have h1 := x.eject.isLt
  have h2 := x.memb.isLt
  refine BitVec.eq_of_toNat_eq ?_
  rw [zext72, foldWord, BitVec.toNat_setWidth, BitVec.toNat_setWidth, BitVec.toNat_ofNat, BitVec.toNat_append,
    Nat.shiftLeft_eq, Nat.mul_comm _ (2 ^ 16), ← Nat.two_pow_add_eq_or_of_lt h2]
  omega

/-- GETC writes the control register, where it need not wait. -/
theorem getc_completes {s : State} {a : Actor} {f : GetcF} (h : Runs s a f.g)
    (hq : f.reg = .fstat ∨ f.reg = .ladstep → seqIdle a.x = true) :
    Completes (.getc f) s a (s.core a.core) (nextSlot (withReg a.x f.d (controlReg s a f.reg)) a.pc) := by
  refine access_completes (body := _) rfl h (if_neg ?_) (h.1.leaves.setReg h.1.2 f.d _)
  exact fun ⟨hr, hn⟩ => hn (hq hr)

/-! ### SETC (12 R258, R262) -/

theorem noSpec_none {s : State} {a : Actor} (hs : a.spec s = none) (k : R Res) : noSpec s a k = k := by rw [noSpec, hs]; rfl

/-- A change of FCTL.CHK bears on each strand of the core alike. -/
theorem smGet_map_strands (m : SMap (Option Strand)) (f : Strand → Strand) (k : Nat) :
    smGet none (m.map (fun q => (q.1, q.2.map f))) k = (smGet none m k).map f := by
  induction m with
  | nil => rfl
  | cons p t ih =>
    simp only [List.map_cons, smGet]
    split
    · rfl
    · exact ih

section
variable {s : State} {a : Actor} {f : SetcF} (h : Runs s a f.g) (hs : a.spec s = none)
include h hs

/-- SETC of the SS bit of STATUS, or of CAUSE, changes its strand alone. -/
theorem setc_strand {y : Strand → Strand} (hb : ∃ body, exec (.setc f) s = accessOp s f.g body ∧ body a = noSpec s a
      (if a.x.prio ≠ 3 then trapAt s cPrivileged 0 else R.next (s.modStrand a.core a.k y))) :
    if a.x.prio = 3 then Completes (.setc f) s a (s.core a.core) (nextSlot (y a.x) a.pc)
    else Traps (.setc f) s a cPrivileged 0 := by
  obtain ⟨body, hi, hb⟩ := hb
  rw [noSpec_none hs] at hb
  split
  · next hp => exact access_completes hi h (hb.trans (if_neg (not_not.mpr hp))) (h.1.leaves.modStrand y)
  · next hp => exact access_traps hi h (hb.trans (if_pos hp))

/-- SETC of a register of the core waits for the sequencer and changes the core. -/
theorem setc_core (hq : seqIdle a.x = true) {w : Core → Core} (hb : ∃ body, exec (.setc f) s = accessOp s f.g body ∧
      body a = noSpec s a (if seqIdle a.x then R.next (s.modCore a.core w) else stall s a .sequencer)) :
    exec (.setc f) s = .next (completeSlot (s.modCore a.core w) a none none) := by
  obtain ⟨body, hi, hb⟩ := hb
  rw [noSpec_none hs, if_pos hq] at hb
  rw [hi]
  exact accessOp_next h hb

end

/-- SETC FCTL writes the bits that are not reserved, and may switch the check mode. -/
theorem setcFctl_exec {s : State} {a : Actor} {f : SetcF} (h : Runs s a f.g) (hs : a.spec s = none) (hr : f.reg = .fctl)
    (hq : seqIdle a.x = true) : exec (.setc f) s = .next (completeSlot (s.modCore a.core (fun co =>
      switchChecks { co with fctl := (a.opnd f.a).setWidth 64 &&& 0x3FF }
        ((s.core a.core).fctl.getLsbD 9 != (a.opnd f.a).getLsbD 9))) a none none) := by
  have hbit : bit (low64 (a.opnd f.a)) 9 = (a.opnd f.a).getLsbD 9 := by simp [bit, low64]
  rw [← hbit]
  exact setc_core h hs hq ⟨_, rfl, by simp only [hr]; rfl⟩

/-- The result of `setc_core` where the change has nothing to do with the strands. -/
theorem completes_modCore {s : State} {a : Actor} {i : Instr} {g : Guard} {w : Core → Core} (h : Runs s a g)
    (hi : exec i s = .next (completeSlot (s.modCore a.core w) a none none))
    (hw : ∀ q S, w { q with strands := S } = { w q with strands := S }) :
    Completes i s a (w (s.core a.core)) (nextSlot a.x a.pc) :=
  ⟨_, hi, slotEnd h.2.2 (h.1.leaves.modCore w hw)⟩

/-- A change of FCTL.CHK: no tag of the core stands, and every residue of its strands is formed anew (26 R475). -/
theorem setcFctl_switches {s : State} {a : Actor} {i : Instr} {g : Guard} {v : DWord} (h : Runs s a g)
    (hi : exec i s = .next (completeSlot (s.modCore a.core (fun co => switchChecks { co with fctl := v } true)) a none none)) :
    ∃ t, exec i s = .next t ∧ OnlyCore s t a.core ∧ (t.core a.core).fctl = v ∧
      t.strand a.core a.k = some (nextSlot { a.x with checks := a.x.checks.switched a.x.s } a.pc) ∧
      ∀ k x, k ≠ a.k → s.strand a.core k = some x →
        t.strand a.core k = some { x with checks := x.checks.switched x.s } := by
  generalize hu : s.modCore a.core (fun co => switchChecks { co with fctl := v } true) = u at hi
  have hstr : ∀ k, u.strand a.core k =
      (s.strand a.core k).map (fun x => { x with checks := x.checks.switched x.s }) := fun k => by
    rw [← hu, State.strand, State.modCore_core_self]
    exact smGet_map_strands _ _ k
  have hx : u.strand a.core a.k = some { a.x with checks := a.x.checks.switched a.x.s } := by rw [hstr, h.1.strand]; rfl
  rw [completeSlot_eq hx h.2.2] at hi
  refine ⟨_, hi, .of_cores (fun j hj => ?_) ?_, ?_, ?_, fun k x hk hkx => ?_⟩
  · rw [State.setCore_core_ne _ _ _ _ hj, ← hu, State.modCore_core, if_neg hj]
  · rw [← hu]; rfl
  · rw [State.setCore_core_self, ← hu, State.modCore_core_self]; rfl
  · rw [State.strand, State.setCore_core_self]
    exact smGet_smPut_self _ _ _ _
  · rw [State.strand, State.setCore_core_self]
    exact (smGet_smPut_ne _ _ _ hk).trans ((hstr k).trans (by rw [hkx]; rfl))

/-! ### TLBI (12 R260) -/

/-- The cores after a change of each core of one package, of which a core that is not listed has nothing to take. -/
theorem core_mapPkg (s : State) (p : Nat) (f : Core → Core) (hf : f Core.reset = Core.reset) (c : Nat) :
    ({ s with cores := s.cores.map (fun q => if pkgOf q.1 = p then (q.1, f q.2) else q) } : State).core c =
      if pkgOf c = p then f (s.core c) else s.core c := by
  simp only [State.core]
  induction s.cores with
  | nil => simp [hf]
  | cons q t ih =>
    obtain ⟨j, v⟩ := q
    have hkey : (if pkgOf j = p then (j, f v) else (j, v)) = (j, if pkgOf j = p then f v else v) := by split <;> rfl
    simp only [List.map_cons, hkey, smGet]
    by_cases hj : j = c
    · rw [if_pos hj, if_pos hj, hj]
    · rw [if_neg hj, if_neg hj]
      exact ih

section
variable {s : State} {a : Actor} {i : Instr} {g : Guard} {body : Actor → R Res} {sel : TcEntry → Bool}
  (hi : exec i s = accessOp s g body) (hb : body a = tlbi s a sel) (h : Runs s a g)
include hi hb h

theorem tlbi_privileged (hp : a.x.prio ≠ 3) : Traps i s a cPrivileged 0 := access_traps hi h (hb.trans (if_pos hp))

/-- Every translation cache of the package drops what TLBI selects of its partition, and no other cache changes. -/
theorem tlbi_drops (hp : a.x.prio = 3) (hs : a.spec s = none) (hr : releaseReady s a = .ok ()) :
    ∃ t, exec i s = .next t ∧ (∀ pa, t.byte pa = s.byte pa) ∧ t.strand a.core a.k = some (nextSlot a.x a.pc) ∧
      (∀ c, pkgOf c = pkgOf a.core →
        (t.core c).tc = (s.core c).tc.filter (fun e => !(e.part == (s.core a.core).part && sel e))) ∧
      (∀ c, pkgOf c ≠ pkgOf a.core → t.core c = s.core c) := by
  have hcore := core_mapPkg s (pkgOf a.core)
    (fun co => { co with tc := co.tc.filter (fun e => !(e.part == (s.core a.core).part && sel e)) }) rfl
  generalize hu : ({ s with cores := s.cores.map (fun q => if pkgOf q.1 = pkgOf a.core then (q.1, { q.2 with
    tc := q.2.tc.filter (fun e => !(e.part == (s.core a.core).part && sel e)) }) else q) } : State) = u at hcore
  have hbu : body a = .ok (.next u) := by
    rw [hb, tlbi, if_neg (not_not.mpr hp), noSpec_none hs, check_passes hr, ← hu]
    rfl
  have hx : u.strand a.core a.k = some a.x := by rw [State.strand, hcore, if_pos rfl]; exact h.1.strand
  have ht := accessOp_next h hbu
  rw [completeSlot_eq hx h.2.2, ← hi] at ht
  refine ⟨_, ht, fun pa => ?_, ?_, fun c hc => ?_, fun c hc => ?_⟩
  · rw [State.setCore_byte, ← hu]; rfl
  · rw [State.strand, State.setCore_core_self]
    exact smGet_smPut_self _ _ _ _
  · have hc' : (u.core c).tc = (s.core c).tc.filter (fun e => !(e.part == (s.core a.core).part && sel e)) := by
      rw [hcore, if_pos hc]
    rw [State.setCore_core]
    split
    · next hca => rw [← hc', hca]; rfl
    · exact hc'
  · rw [State.setCore_core_ne _ _ _ _ (fun hca => hc (congrArg pkgOf hca)), hcore, if_neg hc]

end

/-! ### SCAN (12 R261; 10 R218, R221) -/

/-- The page of a SCAN, as it is handed to the scanner. -/
def scanRequest (s : State) (a : Actor) (f : DstReg) (l : Leaf) : ScanReq :=
  { core := a.core, strand := a.k, tag := s.tick, part := (s.core a.core).part, va := a.sr.get f.a, leaf := l.entry, lo := l.lo,
    big := l.big }

/-- The state in which a SCAN waits for the scanner. -/
def scanSubmitted (s : State) (a : Actor) (f : DstReg) (l : Leaf) : State :=
  markWait ((s.modCluster (clOf a.core) (fun c => { c with scans := c.scans ++ [scanRequest s a f l] })).modStrand a.core a.k
    (fun x => { x with prog := .stage 1 (BitVec.ofNat 128 s.tick) })) a .scan []

theorem scanSubmitted_scans (s : State) (a : Actor) (f : DstReg) (l : Leaf) :
    ((scanSubmitted s a f l).cluster (clOf a.core)).scans = (s.cluster (clOf a.core)).scans ++ [scanRequest s a f l] := by
  simp [scanSubmitted, markWait]

section
variable {s : State} {a : Actor} {f : DstReg} (h : Runs s a f.g)
include h

theorem scan_privileged (hp : a.x.prio ≠ 3) : Traps (.scan f) s a cPrivileged 0 := access_traps rfl h (if_pos hp)

variable (hp : a.x.prio = 3) (hs : a.spec s = none)
include hp hs

theorem scan_completes {w : BitVec 128} (hw : a.x.prog = .stage 2 w) :
    Completes (.scan f) s a (s.core a.core) (nextSlot (withReg a.x f.d (w.setWidth 72)) a.pc) := by
  refine access_completes (body := _) rfl h ?_ (h.1.leaves.setReg h.1.2 f.d (w.setWidth 72))
  simp only [hp, noSpec_none hs, hw]
  rfl

theorem scan_submits {l : Leaf} (hpr : a.x.prog = .none)
    (hl : s.walk (pkgOf a.core) (s.core a.core).part (a.sr.get f.a) = .leaf l) :
    exec (.scan f) s = .next (scanSubmitted s a f l) := by
  refine accessOp_again h ?_
  simp only [hp, noSpec_none hs, hpr, hl]
  rfl

end

/-! ### O16 -/

/-- Settles O16: GETC is `getc_completes`; SETC changes its strand (`setc_strand`), or its core (`setc_core`), whose check
codes a change of FCTL.CHK forms anew (`setcFctl_switches`); TLBI and SCAN by their priority (`tlbi_drops`, `scan_submits`). -/
theorem controlRegisters : Obligations.ControlRegisters := by
  unfold Obligations.ControlRegisters
  refine ⟨fun s a => ⟨fun f h hq => ?_, fun f h hs => ⟨fun hr => ?_, fun hr => ?_, fun hr hq hc => ?_, fun hr hq hc => ?_,
    fun hr hq => ?_, fun hr hq => ?_⟩⟩, fun s a hs => ⟨fun g h hp => ⟨fun r => ⟨?_, ?_⟩, ?_, fun d r => ?_⟩,
    fun g h hp hr r p hpm => ?_, fun f h hp => ⟨fun w hw => scan_completes h hp hs hw, fun l hpr hl => ?_⟩⟩⟩
  · have := getc_completes h hq
    generalize f.reg = r at this ⊢
    cases r with
    | fold => rw [controlReg, foldWord_eq] at this; exact this
    | _ => exact this
  · exact setc_strand (y := fun x => { x with ss := (a.opnd f.a).getLsbD 12 }) h hs ⟨_, rfl, by simp only [hr]; rfl⟩
  · exact setc_strand (y := fun x => { x with cause := (a.opnd f.a).setWidth 6 }) h hs ⟨_, rfl, by simp only [hr]⟩
  · have he := setcFctl_exec h hs hr hq
    rw [hc, bne_self_eq_false] at he
    exact completes_modCore h he (fun _ _ => rfl)
  · have he := setcFctl_exec h hs hr hq
    rw [bne_iff_ne.mpr hc] at he
    exact setcFctl_switches h he
  · exact completes_modCore h (setc_core h hs hq ⟨_, rfl, by simp only [hr]; rfl⟩) (fun _ _ => rfl)
  · exact completes_modCore h (setc_core h hs hq ⟨_, rfl, by simp only [hr]; rfl⟩) (fun _ _ => rfl)
  · exact tlbi_privileged rfl rfl h hp
  · exact tlbi_privileged rfl rfl h hp
  · exact tlbi_privileged rfl rfl h hp
  · exact scan_privileged h hp
  · simp only [List.mem_cons, List.not_mem_nil, or_false] at hpm
    obtain rfl | rfl | rfl := hpm <;> exact tlbi_drops rfl rfl h hp hs hr
  · exact ⟨_, scan_submits h hp hs hpr hl, _, scanSubmitted_scans s a f l, rfl, rfl, rfl, rfl, rfl, rfl⟩

end Sys2Proof.Machine
end

section
/-! VDRAIN on a core whose table of strands is out of order (14 R293). -/

namespace Sys2Proof.Machine

/-- A NOP of the execute side that waits in a sequencer. -/
def waitingNop : SeqEntry :=
  { pc := 0, i := .nop { g := { neg := false, k := 0 }, exec := true }, s := freshStrand.s, k := freshStrand.k, shadowed := false
    badS := 0, badK := 0, num := 0, taken := [] }
/-- A strand with eight entries in its core's sequencer. -/
def eightStrand : Strand := { freshStrand with seq := List.replicate 8 (.one waitingNop) }
/-- A core whose table lists strand 1, which is not live, before strand 0. -/
def disorderCore : Core := { Core.reset with strands := [(1, none), (0, some eightStrand)] }
def disorderState : State :=
  { State.reset with
    cores := [(0, disorderCore)], turn := { agent := .slot 0 0, dt := 0, useCache := false, free := 0, upset := false } }
def disorderActor : Actor :=
  { core := 0, k := 0, x := eightStrand, exec := false, sr := freshStrand.s, kr := freshStrand.k, pc := 0 }
/-- A VDRAIN at that strand's slot. -/
def eightDrain : Bare := { g := { neg := false, k := 0 } }

theorem disorder_runs : Runs disorderState disorderActor eightDrain.g := ⟨⟨rfl, rfl⟩, by decide, rfl⟩

/-- The strand is written in front of the entry that stood there, so its entries count twice and the sequencer is full. -/
theorem disorder_waits : exec (.vdrain eightDrain) disorderState =
    .next (markWait (disorderState.setStrand 0 0 eightStrand) disorderActor .sequencer []) := by
  rfl

/-- Refutes O27, in its clause that VDRAIN enters: the statement does not ask, as that of O44 does, that the core's table of
strands be canonical. VDRAIN writes its strand before it counts the entries of the sequencer; where the table is out of order
the strand then stands there twice, and VDRAIN waits although eight entries are free. -/
theorem not_sequencing : ¬ Obligations.Sequencing := by
  intro h
  obtain ⟨t, ht, -, -, hy, -⟩ := (h disorderState disorderActor).2.1 eightDrain disorder_runs rfl rfl (by decide)
  obtain rfl : markWait (disorderState.setStrand 0 0 eightStrand) disorderActor .sequencer [] = t :=
    Host.Outcome.next.inj (disorder_waits.symm.trans ht)
  have hw := congrArg (fun x => x.map (fun y => y.wait.isSome)) hy
  exact absurd hw (by decide)

end Sys2Proof.Machine
end

section
/-! Compares, single lanes, dot products, reductions, packing and unpacking (14 R268, R269, R275 to R277, R280, R284 to
R289). -/

namespace Sys2Proof.Machine

/-! ### Writes of an entry, and the tags of its shadow -/

section
variable {s u t : State} {a : Actor} {co : Core} {y : Strand}

/-- A strand whose head entry's shadow, where it carries one, has put its tags on a destination (14 R289; 26 R473). -/
def shadowMarked (s : State) (a : Actor) (tag : Bool → Checks → Checks) (y : Strand) : Strand :=
  if shadowMarks s a then { y with checks := tag s.turn.upset y.checks } else y

theorem Leaves.shadowMarked (h : Leaves s t a co y) (tag : Bool → Checks → Checks) :
    Leaves s (if shadowMarks s a then modChecks a (tag s.turn.upset) t else t) a co (Machine.shadowMarked s a tag y) := by
  rw [Machine.shadowMarked]
  split
  · exact h.modStrand _
  · exact h

/-- The tags of a shadow change nothing but check bits. -/
theorem Leaves.tagIf (h : Leaves s t a co y) {wrote : Bool} {tag : Bool → State → State}
    (ht : ∀ bad v z, Leaves s v a co z → ∃ q, Leaves s (tag bad v) a co { z with checks := q }) :
    ∃ q, Leaves s (if shadowMarks s a then Machine.tagIf wrote tag s.turn.upset t else t) a co { y with checks := q } := by
  cases shadowMarks s a with
  | false => exact ⟨y.checks, h⟩
  | true =>
    cases wrote with
    | false => exact ⟨y.checks, h⟩
    | true => exact ht _ _ _ h

theorem Leaves.tagV (d : Fin 32) (bad : Bool) (h : Leaves s t a co y) :
    ∃ q, Leaves s (Machine.tagV d a bad t) a co { y with checks := q } := ⟨_, h.modStrand _⟩

/-- Predicate and scalar registers as the head entry writes them: the entries that issued later see the values (14 R268). -/
def entryPred (x : Strand) (d : Fin 8) (k : KWord) : Strand :=
  (withPred x d k).mapEntries (fun e => { e with k := e.k.set d k, badK := setBit e.badK d.val false })
def entryReg (x : Strand) (i : Fin 16) (v : Word) : Strand :=
  (withReg x (.s i) v).mapEntries (fun e => { e with s := e.s.set i v, badS := setBit e.badS i.val false })

theorem AtEntry.setK (h : AtEntry s a) {d : Fin 8} (hd : d ≠ 0) (k : KWord) :
    Leaves s (Machine.setK s a d k) a (s.core a.core) (entryPred a.x d k) := by
  have hp : a.x.putK a.exec d k = entryPred a.x d k := by
    simp only [Strand.putK, entryPred, withPred, hd, h.2, if_false, if_true]
  rw [← hp]
  exact h.leaves.modStrand _
theorem AtEntry.setS (h : AtEntry s a) (i : Fin 16) (v : Word) :
    Leaves s (Machine.setS s a i v) a (s.core a.core) (entryReg a.x i v) := by
  have hp : a.x.putS a.exec i v = entryReg a.x i v := by rw [Strand.putS, h.2]; rfl
  rw [← hp]
  exact h.leaves.modStrand _

end

/-! ### VCMP (14 R277) -/

section
variable {s : State} {a : Actor} {f : VcmpF} {x : VWord} {ys : List VWord}

/-- The predicate register that VCMP writes. -/
def cmpPred (a : Actor) (f : VcmpF) (x y : VWord) : KWord :=
  (a.lanes f.g f.lt).foldl (fun k i => setBits k (govern f.lt.width i) (f.lt.width / 8)
    (if vcond f.lt f.cond (lane f.lt.width x i) (lane f.lt.width y i) then 2 ^ (f.lt.width / 8) - 1 else 0)) (a.kr.get f.d)

/-- VCMP is a shadowable instruction that writes its predicate register where a lane is enabled. -/
theorem exec_vcmp (hq : queuesReady s a (srcUse f.a ++ f.b.toList.flatMap srcUse) = .ok ()) (hx : vsrc s a f.lt f.a = .ok x)
    (hy : f.b.toList.mapM (vsrc s a f.lt) = .ok ys) :
    ∃ body, exec (.vcmp f) s = executeShadowable s (.vcmp f) f.sh
        (fun a => tagIf (!(a.lanes f.g f.lt).isEmpty) (tagK f.d a)) body ∧
      body a = R.next (if (a.lanes f.g f.lt).isEmpty then s else setK s a f.d (cmpPred a f x (ys.headD 0))) := by
  refine ⟨_, rfl, ?_⟩
  simp only [hq, hx, hy]
  rfl

theorem vcmp_completes (h : AtEntry s a) (hq : queuesReady s a (srcUse f.a ++ f.b.toList.flatMap srcUse) = .ok ())
    (hx : vsrc s a f.lt f.a = .ok x) (hy : f.b.toList.mapM (vsrc s a f.lt) = .ok ys) :
    EntryCompletes (.vcmp f) s a (s.core a.core) (if f.d = 0 ∨ a.lanes f.g f.lt = [] then a.x else
      shadowMarked s a (fun bad q => q.shadowK f.d bad) (entryPred a.x f.d (cmpPred a f x (ys.headD 0)))) := by
  obtain ⟨body, hi, hb⟩ := exec_vcmp hq hx hy
  refine executeShadowable_completes h hi hb ?_
  by_cases hl : a.lanes f.g f.lt = []
  · simpa [hl, tagIf] using h.leaves
  · have he : (a.lanes f.g f.lt).isEmpty = false := List.isEmpty_eq_false_iff.mpr hl
    by_cases hd : f.d = 0
    · simpa [hd, he, tagIf, tagK, setK, Strand.putK] using h.leaves.modStrand (fun z => z)
    · simpa [hd, he, hl, tagIf, tagK] using (h.setK hd _).shadowMarked (fun bad q => q.shadowK f.d bad)

end

/-! ### VEXT and VINS (14 R280) -/

section
variable {s : State} {a : Actor} {x : VWord}

theorem laneWidth_pos (t : LaneTy) : 0 < t.width := by cases t <;> decide
theorem laneWidth_le (t : LaneTy) : t.width ≤ 64 := by cases t <;> decide

theorem lane_lt (w : Nat) (v : VWord) (i : Nat) : lane w v i < 2 ^ w := bits_lt _ _ _

/-- The value that VEXT writes: a lane of a signed type is extended by its sign, any other by zeros. -/
theorem extValue_eq (t : LaneTy) (b : Nat) (hb : b < 2 ^ t.width) :
    zext72 (if t.isSigned then BitVec.ofInt 64 (intOf true t.width b) else BitVec.ofNat 64 b) =
      if t.isSigned then ((BitVec.ofNat t.width b).signExtend 64).setWidth 72 else (BitVec.ofNat t.width b).setWidth 72 := by
  split
  · rw [intOf_signed _ _ (laneWidth_pos t)]
    rfl
  · have h64 : b < 2 ^ 64 := hb.trans_le (Nat.pow_le_pow_right (by decide) (laneWidth_le t))
    refine BitVec.eq_of_toNat_eq ?_
    simp only [zext72, BitVec.toNat_setWidth, BitVec.toNat_ofNat, Nat.mod_eq_of_lt hb, Nat.mod_eq_of_lt h64]

/-- VEXT writes its scalar register where its guard is true. -/
theorem exec_vext {f : VextF} (hq : queuesReady s a (regUseIn f.a) = .ok ()) :
    ∃ body, exec (.vext f) s = executeShadowable s (.vext f) f.sh (fun a => tagIf (a.guard f.g) (tagS f.d a)) body ∧
      body a = if a.guard f.g then
        (vreg s a f.a).bind (fun x => R.next (setReg s a f.d (zext72 (if f.lt.isSigned then
          BitVec.ofInt 64 (intOf true f.lt.width (lane f.lt.width x f.idx.toNat))
          else BitVec.ofNat 64 (lane f.lt.width x f.idx.toNat)))))
      else R.next s := by
  refine ⟨_, rfl, ?_⟩
  simp only [hq]
  rfl

theorem vext_idle {f : VextF} (h : AtEntry s a) (hg : a.guard f.g = false) (hq : queuesReady s a (regUseIn f.a) = .ok ()) :
    EntryCompletes (.vext f) s a (s.core a.core) a.x := by
  obtain ⟨body, hi, hb⟩ := exec_vext hq
  refine executeShadowable_completes h hi (hb.trans (if_neg (by rw [hg]; decide))) ?_
  simpa [hg, tagIf] using h.leaves

theorem vext_completes {f : VextF} (h : AtEntry s a) (hg : a.guard f.g = true)
    (hq : queuesReady s a (regUseIn f.a) = .ok ()) (hx : vreg s a f.a = .ok x) :
    let b : BitVec f.lt.width := BitVec.ofNat _ (lane f.lt.width x f.idx.toNat)
    let v : Word := if f.lt.isSigned then (b.signExtend 64).setWidth 72 else b.setWidth 72
    EntryCompletes (.vext f) s a (s.core a.core) (match f.d with
      | .s i => shadowMarked s a (fun bad q => q.shadowS i bad) (entryReg a.x i v)
      | .zr => a.x) := by
  obtain ⟨body, hi, hb⟩ := exec_vext hq
  rw [if_pos hg, hx, Except.bind, extValue_eq f.lt _ (lane_lt _ _ _)] at hb
  refine executeShadowable_completes h hi hb ?_
  cases hd : f.d with
  | s i => simpa [hg, hd, tagIf, tagS, setReg] using (h.setS i _).shadowMarked (fun bad q => q.shadowS i bad)
  | zr => simpa [hg, hd, tagIf, tagS, setReg] using h.leaves

/-- The operand of VINS. -/
def insSrc (f : VinsF) : VSrc :=
  match f.a with
  | .s i => .s i
  | .imm v => .imm v

/-- VINS writes one lane where it is enabled. -/
theorem exec_vins {f : VinsF} :
    ∃ body, exec (.vins f) s = executeShadowable s (.vins f) f.sh
        (fun a => tagIf (a.enabled f.g f.lt.width f.idx.toNat) (tagV f.d a)) body ∧
      body a = if a.enabled f.g f.lt.width f.idx.toNat then
        (vsrc s a f.lt (insSrc f)).bind (fun x =>
          (writeLanes s a (.v f.d) f.lt.width [(f.idx.toNat, lane f.lt.width x 0)]).map Res.next)
      else R.next s :=
  ⟨_, rfl, rfl⟩

theorem vins_idle {f : VinsF} (h : AtEntry s a) (hg : a.enabled f.g f.lt.width f.idx.toNat = false) :
    EntryCompletes (.vins f) s a (s.core a.core) a.x := by
  obtain ⟨body, hi, hb⟩ := exec_vins (s := s) (a := a) (f := f)
  refine executeShadowable_completes h hi (hb.trans (if_neg (by rw [hg]; decide))) ?_
  simpa [hg, tagIf] using h.leaves

theorem vins_completes {f : VinsF} (h : AtEntry s a) (hg : a.enabled f.g f.lt.width f.idx.toNat = true)
    (hx : vsrc s a f.lt (insSrc f) = .ok x) :
    EntryCompletes (.vins f) s a (s.core a.core)
      (withLanes s a a.x f.d f.lt.width [(f.idx.toNat, lane f.lt.width x 0)]) := by
  obtain ⟨body, hi, hb⟩ := exec_vins (s := s) (a := a) (f := f)
  obtain ⟨t, ht, hl⟩ := h.leaves.withLanes f.d f.lt.width [(f.idx.toNat, lane f.lt.width x 0)]
  rw [if_pos hg, hx, Except.bind, ht] at hb
  refine executeShadowable_completes h hi hb ?_
  rw [hg]
  exact hl

end

/-! ### VDOT and VPACK (14 R275, R286) -/

section
variable {s : State} {a : Actor} {x y : VWord}

/-- Lanes of a v register that a shadowable instruction computes and commits together (14 R270). -/
theorem vectorOp_completes {i : Instr} {sh : Bool} {g : Guard} {t : LaneTy} {d : Fin 32} {one : Nat → BitVec 32 → LaneRes}
    {body : Actor → R Res} (h : AtEntry s a) (hi : exec i s = executeShadowable s i sh (tagLanes (.v d) g t) body)
    (hb : body a = vectorOp s a g t (.v d) one) :
    let r := runLanes one (a.lanes g t) (s.core a.core).seed
    firstCause (s.core a.core).fctl r.2.1 = none →
    EntryCompletes i s a (flagged (s.core a.core) r.2.1 r.2.2) (withLanes s a a.x d t.width r.1) := by
  intro r hf
  obtain ⟨u, hu, hl⟩ := commit_withLanes h d t.width hf
  refine executeShadowable_completes h hi (hb.trans ((vectorOp_eq ..).trans hu)) ?_
  rwa [runLanes_isEmpty] at hl

theorem vdot_completes {f : VdotF} {d : Fin 32} {c : List VWord} (h : AtEntry s a) (hd : f.d = .v d)
    (hq : queuesReady s a (regUseOut f.d ++ srcUse f.a ++ srcUse f.b ++ f.c.toList.flatMap srcUse) = .ok ())
    (hx : vsrc s a f.lt f.a = .ok x) (hy : vsrc s a f.lt f.b = .ok y) (hc : f.c.toList.mapM (vsrc s a (dotDest f.lt)) = .ok c) :
    let r := runLanes (dotLane f.lt (modeOf f.rm (s.core a.core).fctl) f.sat x y c.head?) (a.lanes f.g (dotDest f.lt))
      (s.core a.core).seed
    firstCause (s.core a.core).fctl r.2.1 = none →
    EntryCompletes (.vdot f) s a (flagged (s.core a.core) r.2.1 r.2.2) (withLanes s a a.x d (dotDest f.lt).width r.1) := by
  have hi : ∃ body, exec (.vdot f) s = executeShadowable s (.vdot f) f.sh (tagLanes f.d f.g (dotDest f.lt)) body ∧
      body a = vectorOp s a f.g (dotDest f.lt) f.d
        (dotLane f.lt (modeOf f.rm (s.core a.core).fctl) f.sat x y c.head?) := by
    refine ⟨_, rfl, ?_⟩
    simp only [hq, hx, hy, hc]
    rfl
  rw [hd] at hi
  obtain ⟨body, hi, hb⟩ := hi
  exact vectorOp_completes h hi hb

theorem vpack_completes {f : VpackF} (h : AtEntry s a) (hq : queuesReady s a (srcUse f.a ++ srcUse f.b) = .ok ())
    (hx : vsrc s a f.st f.a = .ok x) (hy : vsrc s a f.st f.b = .ok y) :
    let one := fun (i : Nat) (seed : BitVec 32) => eltTo f.dt (modeOf f.rm (s.core a.core).fctl) f.sat
      (laneElt f.st (if i < f.st.lanes then lane f.st.width x i else lane f.st.width y (i - f.st.lanes))) seed
    let r := runLanes one (a.lanes f.g f.dt) (s.core a.core).seed
    firstCause (s.core a.core).fctl r.2.1 = none →
    EntryCompletes (.vpack f) s a (flagged (s.core a.core) r.2.1 r.2.2) (withLanes s a a.x f.d f.dt.width r.1) := by
  refine vectorOp_completes h rfl ?_
  simp only [hq, hx, hy]
  rfl

end

/-! ### VCVT between types that are no block types (14 R284) -/

section
variable {s : State} {a : Actor} {f : VcvtF} {x : VWord}

theorem vcvt_plain_completes (h : AtEntry s a) (hd : f.dt.isBlock = false) (hst : f.st.isBlock = false)
    (hq : queuesReady s a (srcUse f.a) = .ok ()) (hx : vsrc s a f.st f.a = .ok x) :
    let one := fun (i : Nat) (seed : BitVec 32) => eltTo f.dt (modeOf f.rm (s.core a.core).fctl) f.sat
      (laneElt f.st (lane f.st.width x ((cvtSource f.st f.dt f.pos.toNat i).getD 0))) seed
    let r := runLanes one (cvtLanes f a) (s.core a.core).seed
    firstCause (s.core a.core).fctl r.2.1 = none →
    EntryCompletes (.vcvt f) s a (flagged (s.core a.core) r.2.1 r.2.2) (withLanes s a a.x f.d f.dt.width r.1) := by
  intro one r hf
  have hi : ∃ body, exec (.vcvt f) s = executeShadowable s (.vcvt f) f.sh
      (fun a => tagIf (!(cvtLanes f a).isEmpty) (tagV f.d a)) body ∧
      body a = (commitFlags s a.core r.2.1 r.2.2).bind (fun u => (writeLanes u a (.v f.d) f.dt.width r.1).map Res.next) := by
    refine ⟨_, rfl, ?_⟩
    simp only [hq, hx, hd, hst, Bool.false_and, Bool.false_eq_true, if_false]
    rfl
  obtain ⟨body, hi, hb⟩ := hi
  obtain ⟨u, hu, hl⟩ := commit_withLanes h f.d f.dt.width hf
  rw [runLanes_isEmpty] at hl
  exact executeShadowable_completes h hi (hb.trans hu) hl

end

/-! ### VRED (14 R276) -/

section
variable {t : LaneTy} {op : RedOp} {mode : Mode} {sat : Bool}

/-- A level of the tree over no values leaves none. -/
theorem redLevel_absent (l : List (Option Nat)) (seed : BitVec 32) (h : ∀ v ∈ l, v = none) :
    ∀ v ∈ (redLevel t op mode sat l seed).1, v = none := by
  fun_induction redLevel t op mode sat l seed with
  | case1 x y r seed p q ih =>
    obtain rfl := h x (by simp)
    obtain rfl := h y (by simp)
    exact List.forall_mem_cons.mpr ⟨rfl, ih (fun v hv => h v (by simp [hv]))⟩
  | case2 l seed hl => exact h

/-- The tree over no values has no value. -/
theorem redTree_absent (n : Nat) (l : List (Option Nat)) (seed : BitVec 32) (h : ∀ v ∈ l, v = none) :
    (redTree t op mode sat n l seed).1 = none := by
  induction n generalizing l seed with
  | zero =>
    cases l with
    | nil => rfl
    | cons v l => exact h v List.mem_cons_self
  | succ n ih => exact ih _ _ (redLevel_absent l seed h)

end

section
variable {s : State} {a : Actor} {f : VredF} {x : VWord}

/-- The members of the reduction: the enabled lanes. -/
def redLanes (a : Actor) (f : VredF) (x : VWord) : List (Option Nat) :=
  (List.range f.lt.lanes).map (fun i => if a.enabled f.g f.lt.width i then some (lane f.lt.width x i) else none)

/-- The result of the reduction, its flags and its draws. -/
def redResult (s : State) (a : Actor) (f : VredF) (x : VWord) : Option Nat × Raised × BitVec 32 :=
  redTree f.lt f.op (modeOf f.rm (s.core a.core).fctl) f.sat (Nat.log2 f.lt.lanes) (redLanes a f x) (s.core a.core).seed

theorem lanes_of_redResult {b : Nat} (h : (redResult s a f x).1 = some b) : (a.lanes f.g f.lt).isEmpty = false := by
  refine List.isEmpty_eq_false_iff.mpr (fun hl => ?_)
  have hn : (redResult s a f x).1 = none := by
    refine redTree_absent _ _ _ (fun v hv => ?_)
    obtain ⟨i, hi, rfl⟩ := List.mem_map.mp hv
    exact if_neg (List.filter_eq_nil_iff.mp hl i hi)
  exact absurd (hn.symm.trans h) (by simp)

theorem exec_vred (hq : queuesReady s a (regUseOut f.d ++ srcUse f.a) = .ok ()) (hx : vsrc s a f.lt f.a = .ok x) :
    ∃ body, exec (.vred f) s = executeShadowable s (.vred f) f.sh (tagLanes f.d f.g f.lt) body ∧
      body a = match (redResult s a f x).1 with
        | none => R.next s
        | some b => (commitFlags s a.core (redResult s a f x).2.1 (redResult s a f x).2.2).bind (fun s1 =>
            (writeLanes s1 a f.d f.lt.width
              ((0, b) :: (List.range f.lt.lanes).tail.map (fun i => (i, 0)))).map Res.next) := by
  refine ⟨_, rfl, ?_⟩
  simp only [hq, hx]
  rfl

/-- With no lane enabled VRED leaves the sequencer and writes nothing. -/
theorem vred_absent {d : Fin 32} (h : AtEntry s a) (hd : f.d = .v d)
    (hq : queuesReady s a (regUseOut f.d ++ srcUse f.a) = .ok ()) (hx : vsrc s a f.lt f.a = .ok x)
    (hr : (redResult s a f x).1 = none) :
    ∃ t, exec (.vred f) s = .next t ∧ ∃ y, t.strand a.core a.k = some y ∧ y.v = a.x.v ∧ y.seq = seqPop a.x.seq := by
  obtain ⟨body, hi, hb⟩ := exec_vred hq hx
  rw [hr] at hb
  rw [hd] at hi
  obtain ⟨q, hl⟩ := h.leaves.tagIf (wrote := !(a.lanes f.g f.lt).isEmpty) (tag := tagV d a) (fun bad _ _ hv => hv.tagV d bad)
  obtain ⟨t, ht, -, -, hy, -⟩ := executeShadowable_completes h hi hb hl
  exact ⟨t, ht, _, hy, rfl, rfl⟩

theorem vred_completes {d : Fin 32} {b : Nat} (h : AtEntry s a) (hd : f.d = .v d)
    (hq : queuesReady s a (regUseOut f.d ++ srcUse f.a) = .ok ()) (hx : vsrc s a f.lt f.a = .ok x)
    (hr : (redResult s a f x).1 = some b) (hf : firstCause (s.core a.core).fctl (redResult s a f x).2.1 = none) :
    EntryCompletes (.vred f) s a (flagged (s.core a.core) (redResult s a f x).2.1 (redResult s a f x).2.2)
      (withLanes s a a.x d f.lt.width ((0, b) :: (List.range f.lt.lanes).tail.map (fun i => (i, 0)))) := by
  obtain ⟨body, hi, hb⟩ := exec_vred hq hx
  have hlanes := lanes_of_redResult hr
  rw [hr] at hb
  rw [hd] at hi hb
  obtain ⟨u, hu, hl⟩ := commit_withLanes h d f.lt.width
    (q := ((0, b) :: (List.range f.lt.lanes).tail.map (fun i => (i, 0)), (redResult s a f x).2)) hf
  refine executeShadowable_completes h hi (hb.trans hu) ?_
  rw [tagLanes, hlanes]
  exact hl

end

/-! ### VUNPK (14 R287) -/

section
variable {s u : State} {a : Actor} {co : Core} {y : Strand} {f : VunpkF} {x : VWord}

theorem slotLanes_get (y : Strand) (d : Fin 32) (w : Nat) (ls : List (Nat × Nat)) (j : Fin 32) :
    (slotLanes y d w ls).v.get j = if j = d then putLanes w (y.v.get j) ls else y.v.get j := by
  rw [slotLanes]
  split
  · next h => simp [h, putLanes]
  · split
    · next hj => rw [hj]; exact Vector.getElem_set_self _
    · next hj => exact Vector.getElem_set_ne d.isLt j.isLt (fun e => hj (Fin.ext e.symm))
theorem slotLanes_kept (y : Strand) (d : Fin 32) (w : Nat) (ls : List (Nat × Nat)) :
    (slotLanes y d w ls).s = y.s ∧ (slotLanes y d w ls).k = y.k ∧ (slotLanes y d w ls).seq = y.seq := by
  rw [slotLanes]
  split <;> exact ⟨rfl, rfl, rfl⟩

/-- Lanes of a v register that the instruction has not yet written. -/
theorem Leaves.writeV (h : Leaves s u a co y) {d : Fin 32} (hv : y.v.get d = a.x.v.get d) (w : Nat) (ls : List (Nat × Nat)) :
    ∃ t, writeLanes u a (.v d) w ls = .ok t ∧ Leaves s t a co (Machine.slotLanes y d w ls) := by
  refine ⟨_, rfl, ?_⟩
  cases ls with
  | nil => exact h
  | cons p l =>
    have hp : Leaves s (putV u a d (putLanes w (a.x.v.get d) (p :: l))) a co
        { y with v := y.v.set d (putLanes w (y.v.get d) (p :: l)), checks := y.checks.wroteV d } := by
      rw [hv]
      exact h.modStrand _
    exact hp

/-- The halves of VUNPK's results: the lanes of its register, and those of the next. -/
def unpkLow (n : Nat) (ls : List (Nat × Nat)) : List (Nat × Nat) := ls.filter (fun l => decide (l.1 < n))
def unpkHigh (n : Nat) (ls : List (Nat × Nat)) : List (Nat × Nat) :=
  (ls.filter (fun l => decide (n ≤ l.1))).map (fun l => (l.1 - n, l.2))

/-- VUNPK's results, in ascending order of the source's lanes. -/
def unpkResult (s : State) (a : Actor) (f : VunpkF) (x : VWord) : List (Nat × Nat) × Raised × BitVec 32 :=
  runLanes (fun i seed => eltTo f.dt (modeOf f.rm (s.core a.core).fctl) f.sat (laneElt f.st (lane f.st.width x i)) seed)
    (a.lanes f.g f.dt ++ (a.lanes f.g f.dt).map (· + f.dt.lanes)) (s.core a.core).seed

/-- VUNPK is a shadowable instruction that writes two registers. -/
theorem exec_vunpk (hq : queuesReady s a (srcUse f.a) = .ok ()) (hx : vsrc s a f.st f.a = .ok x) :
    let r := unpkResult s a f x
    ∃ body, exec (.vunpk f) s = executeShadowable s (.vunpk f) f.sh (fun a => tagIf (!(a.lanes f.g f.dt).isEmpty)
        (fun bad t => tagV (Fin.ofNat 32 (f.d.val + 1)) a bad (tagV f.d a bad t))) body ∧
      body a = (commitFlags s a.core r.2.1 r.2.2).bind (fun s1 =>
        (writeLanes s1 a (.v f.d) f.dt.width (unpkLow f.dt.lanes r.1)).bind (fun s2 =>
          (writeLanes s2 a (.v (Fin.ofNat 32 (f.d.val + 1))) f.dt.width (unpkHigh f.dt.lanes r.1)).map Res.next)) := by
  refine ⟨_, rfl, ?_⟩
  simp only [hq, hx]
  rfl

/-- The register after `d`. -/
theorem next_val {d : Fin 32} (h : d.val ≤ 30) : (Fin.ofNat 32 (d.val + 1)).val = d.val + 1 := Nat.mod_eq_of_lt (by omega)

theorem next_ne {d : Fin 32} (h : d.val ≤ 30) : Fin.ofNat 32 (d.val + 1) ≠ d := fun e => by
  have hv := congrArg Fin.val e
  rw [next_val h] at hv
  omega

/-- The vector registers after writes of two neighbours. -/
theorem slotLanes_pair_get {d : Fin 32} (h : d.val ≤ 30) (y : Strand) (w : Nat) (low high : List (Nat × Nat)) (j : Fin 32) :
    (slotLanes (slotLanes y d w low) (Fin.ofNat 32 (d.val + 1)) w high).v.get j =
      if j = d then putLanes w (y.v.get j) low else if j.val = d.val + 1 then putLanes w (y.v.get j) high else y.v.get j := by
  have hj : j = Fin.ofNat 32 (d.val + 1) ↔ j.val = d.val + 1 := by rw [Fin.ext_iff, next_val h]
  rw [slotLanes_get, slotLanes_get]
  by_cases hd : j = d
  · subst hd
    rw [if_neg (next_ne h).symm, if_pos rfl, if_pos rfl]
  · simp only [hj, hd, if_false]

/-- What an entry leaves that has written lanes of two neighbouring registers. -/
theorem Leaves.pair {t : State} {d : Fin 32} {w : Nat} {low high : List (Nat × Nat)} {q : Checks} (hd : d.val ≤ 30)
    (h : Leaves s t a co (popped
      { Machine.slotLanes (Machine.slotLanes a.x d w low) (Fin.ofNat 32 (d.val + 1)) w high with checks := q })) :
    ∃ y, t.strand a.core a.k = some y ∧ y.seq = seqPop a.x.seq ∧
      (∀ j : Fin 32, y.v.get j = if j = d then putLanes w (a.x.v.get j) low
        else if j.val = d.val + 1 then putLanes w (a.x.v.get j) high else a.x.v.get j) ∧
      y.s = a.x.s ∧ y.k = a.x.k ∧ (∀ pa, t.byte pa = s.byte pa) ∧ OnlyStrand s t a.core a.k := by
  obtain ⟨⟨hm, -, -⟩, ho, hy, -⟩ := h
  obtain ⟨hs, hk, hq⟩ := slotLanes_kept a.x d w low
  obtain ⟨hs', hk', hq'⟩ := slotLanes_kept (Machine.slotLanes a.x d w low) (Fin.ofNat 32 (d.val + 1)) w high
  exact ⟨_, hy, congrArg seqPop (hq'.trans hq), slotLanes_pair_get hd a.x w low high, hs'.trans hs, hk'.trans hk, hm, ho⟩

/-- VUNPK leaves its two registers written, and its shadow's tags. -/
theorem vunpk_completes (h : AtEntry s a) (hd : f.d.val ≤ 30) (hq : queuesReady s a (srcUse f.a) = .ok ())
    (hx : vsrc s a f.st f.a = .ok x) :
    let r := unpkResult s a f x
    let low := slotLanes a.x f.d f.dt.width (unpkLow f.dt.lanes r.1)
    let both := slotLanes low (Fin.ofNat 32 (f.d.val + 1)) f.dt.width (unpkHigh f.dt.lanes r.1)
    firstCause (s.core a.core).fctl r.2.1 = none →
    ∃ q, EntryCompletes (.vunpk f) s a (flagged (s.core a.core) r.2.1 r.2.2) { both with checks := q } := by
  intro r low both hf
  obtain ⟨body, hi, hb⟩ := exec_vunpk hq hx
  obtain ⟨u, hu, hlu⟩ := (h.leaves.committed r.2.1 r.2.2).writeV (d := f.d) rfl f.dt.width (unpkLow f.dt.lanes r.1)
  obtain ⟨t, ht, hlt⟩ := hlu.writeV (d := Fin.ofNat 32 (f.d.val + 1))
    (by rw [slotLanes_get, if_neg (next_ne hd)]) f.dt.width (unpkHigh f.dt.lanes r.1)
  obtain ⟨q, hl⟩ := hlt.tagIf (wrote := !(a.lanes f.g f.dt).isEmpty)
    (tag := fun bad t => tagV (Fin.ofNat 32 (f.d.val + 1)) a bad (tagV f.d a bad t)) (fun bad v z hv => by
      obtain ⟨q, hq⟩ := hv.tagV f.d bad
      exact hq.tagV _ bad)
  rw [commitFlags_ok _ _ _ hf, Except.bind, hu, Except.bind, ht] at hb
  exact ⟨q, executeShadowable_completes h hi hb hl⟩

end

/-! ### O26 -/

/-- Settles O26: each clause is what its instruction leaves as the head entry (`vcmp_completes`, `vext_completes`,
`vins_completes`, `vdot_completes`, `vred_completes`, `vpack_completes`, `vcvt_plain_completes`, `vunpk_completes`). -/
theorem vectorElements : Obligations.VectorElements := by
  unfold Obligations.VectorElements
  refine ⟨fun s a h => ⟨fun f x ys hq hx hy => vcmp_completes h hq hx hy, fun f hg hq => vext_idle h hg hq,
    fun f x hg hq hx => vext_completes h hg hq hx, fun f hg => vins_idle h hg, fun f x hg hx => vins_completes h hg hx⟩,
    fun s a h => ⟨fun f d x y c hd hq hx hy hc => vdot_completes h hd hq hx hy hc, fun f d x hd hq hx => ?_,
    fun f x y hq hx hy => vpack_completes h hq hx hy, fun f x hdt hst hq hx => vcvt_plain_completes h hdt hst hq hx,
    fun f x hd hq hx => ?_⟩⟩
  · change match (redResult s a f x).1 with
      | none => _
      | some b => _
    split
    · next hr => exact vred_absent h hd hq hx hr
    · next b hr => exact vred_completes h hd hq hx hr
  · intro n ls one r hf
    obtain ⟨q, t, ht, hl⟩ := vunpk_completes h hd hq hx hf
    obtain ⟨y, hy, hseq, hv, hs, hk, hm, ho⟩ := hl.pair hd
    exact ⟨t, y, ht, hy, hseq, hv, hs, hk, hm, ho⟩

end Sys2Proof.Machine
end

section
/-! Queue bindings at their core: QCFG, QLINK, QADV and QSTAT, and vector results whose destination is a queue (14 R270, R295 to
R301). -/

namespace Sys2Proof.Machine

/-! ### The end of an entry -/

/-- At its entry an execute-side instruction has its effect and leaves the sequencer. -/
theorem executeOp_completes {s t : State} {a : Actor} {i : Instr} {body : Actor → R Res} {co : Core} {y : Strand}
    (h : AtEntry s a) (hi : exec i s = executeOp s i body) (hb : body a = .ok (.next t)) (hl : Leaves s t a co y) :
    EntryCompletes i s a co y :=
  ⟨_, by rw [hi, executeOp, h.1]; simp only [h.2, if_true, hb]; rfl, hl.modStrand _⟩

/-! ### Messages of a core -/

section
variable (s : State) (c : Nat) (d : Dest) (cls : Nat) (m : Msg)

theorem sendUnit_core (j : Nat) : (sendUnit s c d cls m).core j = s.core j := by
  rw [State.core, sendUnit_cores, State.core]
theorem sendUnit_strand (j k : Nat) : (sendUnit s c d cls m).strand j k = s.strand j k := by
  rw [State.strand, sendUnit_core, State.strand]
theorem sendUnit_mem : (sendUnit s c d cls m).mem = s.mem := send_mem _ _ _ _ _ _

end

theorem setQueue_keeps (s : State) (c : Nat) (q : Fin 16) (g : Queue → Queue) : KeepsStrands s (setQueue s c q g) :=
  .modCore s c (fun _ => ⟨rfl, rfl⟩)

/-! ### The end of a slot, part by part -/

section
variable {s t : State} {a : Actor} {g : Guard} {body : Actor → R Res} {y : Strand}

/-- A slot that completes changes, beyond what its meaning `t` has changed, its own strand and the counts of its core. -/
theorem accessOp_ends (h : Runs s a g) (hb : body a = .ok (.next t)) (hy : t.strand a.core a.k = some y) :
    ∃ v, accessOp s g body = .next v ∧ v.strand a.core a.k = some (nextSlot y a.pc) ∧ OnlyStrand t v a.core a.k ∧
      v.mem = t.mem ∧ v.kept = t.kept ∧ (v.core a.core).queues = (t.core a.core).queues := by
  refine ⟨_, accessOp_next h hb, ?_⟩
  rw [completeSlot_eq hy h.2.2]
  obtain ⟨-, ho, hs, -⟩ := leaves_setCore t a (countSlot (t.core a.core) a.k) (nextSlot y a.pc)
  exact ⟨hs, ho, rfl, rfl, by rw [State.setCore_core_self]; rfl⟩

end

/-! ### QCFG (14 R295) -/

section
variable {s : State} {a : Actor} {f : QcfgF}

/-- The fields DIR, SZ and NSLOT of the binding word (14 Table 14.11). -/
def cfgDir (a : Actor) (f : QcfgF) : BitVec 2 := (a.sr.get f.b).extractLsb' 20 2
def cfgSz (a : Actor) (f : QcfgF) : BitVec 2 := (a.sr.get f.b).extractLsb' 0 2
def cfgNslot (a : Actor) (f : QcfgF) : Nat := bits (a.sr.get f.b) 8 9

/-- The word is reserved, names fewer than 2 or more than 256 slots, or makes the core its own peer. -/
def cfgBad (a : Actor) (f : QcfgF) : Bool :=
  cfgReserved (a.sr.get f.b) || decide (cfgNslot a f < 2) || decide (256 < cfgNslot a f) ||
    ((cfgDir a f == 1 || cfgDir a f == 2) && decide (bits (a.sr.get f.b) 32 22 = a.core))

/-- Where the ring lies that the word asks for. -/
def cfgRing (s : State) (a : Actor) (f : QcfgF) : Except PlanErr Nat :=
  planRing s a (a.sr.get f.a) (slotSize (cfgSz a f)) (cfgNslot a f * slotSize (cfgSz a f))

/-- The binding of the ring at `pa`; DIR 11 unbinds. -/
def cfgBinding (a : Actor) (f : QcfgF) (pa : Nat) : Queue :=
  { Queue.reset with
    bound := true, base := pa, sz := cfgSz a f, nslot := cfgNslot a f, dir := cfgDir a f
    peer := if cfgDir a f = 0 then 0 else bits (a.sr.get f.b) 32 22, linked := cfgDir a f == 0 }

/-- QCFG step by step: the word's checks, its ring, the entries that still use the queue, the binding. -/
theorem qcfgBody_eq (s : State) (a : Actor) (f : QcfgF) : qcfgBody s a f =
    if (a.spec s).isSome then stall s a .other
    else if cfgBad a f then trapAt s cQueueUnconfigured 0
    else
      match (if cfgDir a f = 3 then .ok 0 else cfgRing s a f : Except PlanErr Nat) with
      | .error e => planFail s a e
      | .ok pa =>
        if earlierNames a.x f.q (fun _ => true) || slotInUse (s.core a.core) a.k f.q then stall s a .sequencer
        else if cfgDir a f = 3 then R.next (bindQueue s a.core f.q Queue.reset)
        else R.next (bindQueue s a.core f.q (cfgBinding a f pa)) := rfl

theorem qcfgBody_reserved (hs : a.spec s = none) (hr : cfgReserved (a.sr.get f.b) = true) :
    qcfgBody s a f = trapAt s cQueueUnconfigured 0 := by
  simp [qcfgBody_eq, hs, cfgBad, hr]

theorem cfgBad_eq_false (hr : cfgReserved (a.sr.get f.b) = false) (h2 : 2 ≤ cfgNslot a f) (h256 : cfgNslot a f ≤ 256)
    (hpeer : cfgDir a f = 1 ∨ cfgDir a f = 2 → bits (a.sr.get f.b) 32 22 ≠ a.core) : cfgBad a f = false := by
  simp only [cfgBad, hr, Nat.not_lt.mpr h2, Nat.not_lt.mpr h256, decide_false, Bool.false_or, Bool.and_eq_false_imp,
    Bool.or_eq_true, beq_iff_eq, decide_eq_false_iff_not]
  exact hpeer

section
variable (hs : a.spec s = none) (hl : cfgBad a f = false) (he : earlierNames a.x f.q (fun _ => true) = false)
  (hu : slotInUse (s.core a.core) a.k f.q = false)
include hs hl he hu

theorem qcfgBody_unbinds (hd : cfgDir a f = 3) : qcfgBody s a f = R.next (bindQueue s a.core f.q Queue.reset) := by
  simp [qcfgBody_eq, hs, hl, he, hu, hd]
theorem qcfgBody_binds (hd : cfgDir a f ≠ 3) {pa : Nat} (hp : cfgRing s a f = .ok pa) :
    qcfgBody s a f = R.next (bindQueue s a.core f.q (cfgBinding a f pa)) := by
  simp only [qcfgBody_eq, hs, hl, he, hu, if_neg hd, hp, Option.isSome_none, Bool.false_eq_true, if_false, Bool.or_self]

end

section
variable (s) (c : Nat) (q : Fin 16) (b : Queue)

/-- The state with a new binding, and no check bits left of the old ring, before the old peer is told. -/
def rebound : State :=
  let old := (s.core c).queues.get q
  let mine := fun (pa : Nat) => decide (old.base ≤ pa) && decide (pa < old.base + old.nslot * slotSize old.sz)
  (setQueue s c q (fun _ => { b with epoch := old.epoch + 1 })).modCore c (fun co =>
    { co with slotTags := co.slotTags.filter (fun t => !mine t.1) })

/-- What a message leaves as it was, telling the old peer leaves as it was. -/
theorem bindQueue_field {α : Type} {g : State → α} (hg : ∀ t c d cls m, g (sendUnit t c d cls m) = g t) :
    g (bindQueue s c q b) = g (rebound s c q b) := by
  change g (if _ then sendUnit (rebound s c q b) _ _ _ _ else rebound s c q b) = _
  split
  · exact hg ..
  · rfl
theorem bindQueue_queues : ((bindQueue s c q b).core c).queues =
    (s.core c).queues.set q { b with epoch := ((s.core c).queues.get q).epoch + 1 } := by
  rw [bindQueue_field s c q b (g := fun t => (t.core c).queues) (fun _ _ _ _ _ => by rw [sendUnit_core])]
  simp only [rebound, setQueue, State.modCore_core_self]
theorem rebound_keeps : KeepsStrands s (rebound s c q b) :=
  (setQueue_keeps s c q _).trans (.modCore _ c (fun _ => ⟨rfl, rfl⟩))
theorem bindQueue_strand (j k : Nat) : (bindQueue s c q b).strand j k = s.strand j k :=
  (bindQueue_field s c q b (g := fun t => t.strand j k) (fun _ _ _ _ _ => sendUnit_strand ..)).trans
    ((rebound_keeps s c q b).strand j k)
theorem bindQueue_mem : (bindQueue s c q b).mem = s.mem :=
  bindQueue_field s c q b (fun _ _ _ _ _ => sendUnit_mem ..)

end

/-- A slot that binds queue `f.q` anew leaves the binding and its core's other bindings. -/
theorem qcfg_binds {i : Instr} {b : Queue} (h : Runs s a f.g) (hi : exec i s = accessOp s f.g (fun a => qcfgBody s a f))
    (hb : qcfgBody s a f = R.next (bindQueue s a.core f.q b)) :
    ∃ t, exec i s = .next t ∧ (t.core a.core).queues.get f.q = { b with epoch := ((s.core a.core).queues.get f.q).epoch + 1 } ∧
      (∀ q, q ≠ f.q → (t.core a.core).queues.get q = (s.core a.core).queues.get q) ∧ ∀ pa, t.byte pa = s.byte pa := by
  have hy := (bindQueue_strand s a.core f.q b a.core a.k).trans h.1.strand
  obtain ⟨v, hv, -, -, hm, -, hq⟩ := accessOp_ends (body := fun a => qcfgBody s a f) h hb hy
  rw [bindQueue_queues] at hq
  refine ⟨v, hi.trans hv, ?_, fun q hne => ?_, byte_of_mem (hm.trans (bindQueue_mem ..))⟩
  · rw [hq]; exact Vector.getElem_set_self _
  · rw [hq]; exact Vector.getElem_set_ne _ _ (fun e => hne (Fin.ext e.symm))

/-- A reserved word traps, whether it binds or unbinds. -/
theorem qcfg_traps (h : Runs s a f.g) (hs : a.spec s = none) (hr : cfgReserved (a.sr.get f.b) = true) :
    ∀ i ∈ [Instr.qcfgBind f, .qcfgUnbind f], Traps i s a cQueueUnconfigured 0 := by
  have hb := qcfgBody_reserved (s := s) (f := f) hs hr
  simp only [List.forall_mem_cons]
  exact ⟨accessOp_traps h hb, accessOp_traps h hb, List.forall_mem_nil _⟩

end

/-! ### Advances (14 R298, R299) -/

section
variable {s : State} {a : Actor} {f : QadvF} {produce : Bool}

theorem earlierNames_of_all {x : Strand} {q : Fin 16} (h : earlierNames x q (fun _ => true) = false) (p : Bool → Bool) :
    earlierNames x q p = false := by
  rw [earlierNames, List.any_eq_false] at h ⊢
  intro e he hp
  obtain ⟨m, hm, hq⟩ := List.any_eq_true.mp hp
  exact h e he (List.any_eq_true.mpr ⟨m, hm, by rw [((Bool.and_eq_true _ _).mp hq).1, Bool.and_true]⟩)

/-- A use of a queue that no wait has been marked for is ready once the queue is bound for it and meets its need. -/
theorem queuesReady_single {u : QUse} (hw : a.waited = []) (hl : (a.queue s u.q).legal u.produce = true)
    (hm : (a.queue s u.q).met u = true) : queuesReady s a [u] = .ok () := by
  have hu : ∀ v ∈ a.open [u], v = u := fun v hv => List.mem_singleton.mp (List.mem_filter.mp hv).1
  refine queuesReady_iff.mpr ⟨if_neg ?_, fun v hv => by rw [hu v hv]; exact hm⟩
  simp only [hw, List.any_nil, Bool.or_false, List.any_eq_true, not_exists, not_and]
  intro v hv
  rw [hu v hv, hl]
  decide

theorem qadvBody_unbound (hs : a.spec s = none) (hb : ((s.core a.core).queues.get f.q).bound = false) :
    qadvBody s a f produce = trapAt s cQueueUnconfigured 0 := by
  simp [qadvBody, queue_of_spec_none hs, Queue.legal, hb]

theorem qadvBody_zero (hs : a.spec s = none) (hw : a.waited = []) (hl : ((s.core a.core).queues.get f.q).legal produce = true)
    (hn : advCount a f.n = 0) : qadvBody s a f produce = R.next s := by
  simp [qadvBody, queue_of_spec_none hs, hw, hl, hn]

theorem Queue.legal_of {b : Queue} (hb : b.bound = true) (hd : b.dir = 0 ∨ b.dir = if produce then 2 else 1) :
    b.legal produce = true := by
  cases produce <;> obtain hd | hd := hd <;> simp [Queue.legal, hb, hd]

/-- An advance by at least one, off a speculative path and with no wait marked, of a linked queue that has the slots for it. -/
structure MayAdvance (s : State) (a : Actor) (f : QadvF) (produce : Bool) : Prop where
  spec : a.spec s = none
  waited : a.waited = []
  bound : ((s.core a.core).queues.get f.q).bound = true
  linked : ((s.core a.core).queues.get f.q).linked = true
  pos : 0 < advCount a f.n
  room : advCount a f.n ≤ if produce then ((s.core a.core).queues.get f.q).free else ((s.core a.core).queues.get f.q).filled

/-- It is made where the queue is bound for it and neither an earlier entry nor an earlier write holds it back. -/
theorem MayAdvance.body (h : MayAdvance s a f produce)
    (hd : ((s.core a.core).queues.get f.q).dir = 0 ∨ ((s.core a.core).queues.get f.q).dir = if produce then 2 else 1)
    (he : a.exec = true ∨ earlierNames a.x f.q (fun _ => true) = false)
    (hr : produce = true → ((s.core a.core).queues.get f.q).dir = 2 → unordered s a = false) :
    qadvBody s a f produce = R.next (advance s a.core f.q produce (advCount a f.n)) := by
  obtain ⟨hs, hw, hb, hk, hn, hm⟩ := h
  have hl := Queue.legal_of hb hd
  have hq := queue_of_spec_none hs f.q
  have hready := queuesReady_single (s := s) (u := { q := f.q, need := advCount a f.n, produce := produce }) hw
    (by rw [hq]; exact hl) (by rw [hq, Queue.met, hk, Bool.true_and]; exact decide_eq_true hm)
  have hwait : advanceWaits s a f.q produce = false := by
    rw [advanceWaits, hq, Bool.and_eq_false_imp]
    simpa using hr
  have hearly : (!a.exec && earlierNames a.x f.q (fun p => p == produce)) = false := by
    obtain he | he := he
    · rw [he]; rfl
    · rw [earlierNames_of_all he, Bool.and_false]
  simp only [qadvBody, hq, hw, hl, hearly, hready, hs, hwait, Nat.ne_of_gt hn, List.any_nil, Bool.not_true, Bool.or_self,
    Bool.false_eq_true, if_false, Option.isSome_none]
  rfl

/-- A binding after an advance. -/
def Queue.advanced (b : Queue) (produce : Bool) (n : Nat) : Queue :=
  if produce then { b with p := b.p + BitVec.ofNat 32 n } else { b with c := b.c + BitVec.ofNat 32 n }

/-- A local queue has no peer to tell. -/
theorem advance_local {c : Nat} {q : Fin 16} (n : Nat) (hd : ((s.core c).queues.get q).dir = 0) :
    advance s c q produce n = setQueue s c q (fun b => b.advanced produce n) := by
  cases produce <;> simp [advance, hd, Queue.advanced]

/-- The advance of a local queue changes its binding alone. -/
theorem Leaves.advance {co : Core} {y : Strand} (h : Leaves s s a co y) (q : Fin 16) (n : Nat)
    (hd : ((s.core a.core).queues.get q).dir = 0) :
    Leaves s (Machine.advance s a.core q produce n) a
      { co with queues := co.queues.set q ((co.queues.get q).advanced produce n) } y := by
  rw [advance_local n hd]
  exact h.modCore (fun co => { co with queues := co.queues.set q ((co.queues.get q).advanced produce n) }) (fun _ _ => rfl)

/-- What a slot leaves that has sent one message of its core. -/
theorem accessOp_sends {i : Instr} {g : Guard} {body : Actor → R Res} {u : State} {d : Dest} {cls : Nat} {m : Msg}
    (h : Runs s a g) (hi : exec i s = accessOp s g body) (hb : body a = .ok (.next (sendUnit u a.core d cls m)))
    (hk : KeepsStrands s u) (hm : u.mem = s.mem) (hkept : u.kept = s.kept) (hc : cls ≠ clsRSP ∧ cls ≠ clsENG) :
    Sends i s a [(d, cls, m)] a.x := by
  have hs (j k : Nat) : (sendUnit u a.core d cls m).strand j k = s.strand j k := (sendUnit_strand ..).trans (hk.strand j k)
  obtain ⟨v, hv, hx, ho, hmem, hkv, -⟩ := accessOp_ends h hb ((hs _ _).trans h.1.strand)
  refine ⟨v, hi.trans hv, fun j k hjk => (ho j k hjk).trans (hs j k), hx,
    byte_of_mem (hmem.trans ((sendUnit_mem ..).trans hm)), ?_⟩
  rw [Sent, hkv, sendUnit, send_kept _ _ _ _ _ hc, hkept]
  rfl

/-- What an advance tells the peer: a producer publishes, a consumer gives credit (14 R298). -/
def Queue.advanceMsg (b : Queue) (produce : Bool) (n : Nat) : Msg :=
  if produce then .queuePublish b.peerQ n else .queueCredit b.peerQ n

theorem advance_peer {c : Nat} {q : Fin 16} (n : Nat) (hd : ((s.core c).queues.get q).dir = if produce then 2 else 1) :
    let b := (s.core c).queues.get q
    advance s c q produce n = sendUnit (setQueue s c q (fun b => b.advanced produce n)) c (.core b.peer) clsMSG
      (b.advanceMsg produce n) := by
  cases produce <;> simp [Machine.advance, hd, Queue.advanced, Queue.advanceMsg]

/-- An advance of a queue with a peer, at its slot. -/
theorem MayAdvance.sends {i : Instr} (h : MayAdvance s a f produce) (hr : Runs s a f.g)
    (hi : exec i s = accessOp s f.g (fun a => qadvBody s a f produce))
    (he : earlierNames a.x f.q (fun _ => true) = false)
    (hd : ((s.core a.core).queues.get f.q).dir = if produce then 2 else 1) (hu : produce = true → unordered s a = false) :
    let b := (s.core a.core).queues.get f.q
    Sends i s a [(.core b.peer, clsMSG, b.advanceMsg produce (advCount a f.n))] a.x := by
  have hadv := h.body (.inr hd) (.inr he) (fun hp _ => hu hp)
  rw [advance_peer _ hd] at hadv
  exact accessOp_sends (body := fun a => qadvBody s a f produce) hr hi hadv (setQueue_keeps _ _ _ _) rfl rfl (by decide)

/-- The advance of a local queue is an advance that nothing holds back but an earlier entry. -/
theorem MayAdvance.body_local (h : MayAdvance s a f produce) (hd : ((s.core a.core).queues.get f.q).dir = 0)
    (he : a.exec = true ∨ earlierNames a.x f.q (fun _ => true) = false) :
    qadvBody s a f produce = R.next (advance s a.core f.q produce (advCount a f.n)) :=
  h.body (.inl hd) he (fun _ h2 => absurd (hd.symm.trans h2) (by decide))

/-- An advance of a local queue, at its slot. -/
theorem MayAdvance.completes {i : Instr} (h : MayAdvance s a f produce) (hr : Runs s a f.g)
    (hi : exec i s = accessOp s f.g (fun a => qadvBody s a f produce))
    (he : earlierNames a.x f.q (fun _ => true) = false) (hd : ((s.core a.core).queues.get f.q).dir = 0) :
    let b := (s.core a.core).queues.get f.q
    Completes i s a
      { s.core a.core with queues := (s.core a.core).queues.set f.q (b.advanced produce (advCount a f.n)) }
      (nextSlot a.x a.pc) := by
  rw [Completes, hi]
  exact accessOp_completes hr (h.body_local hd (.inr he)) (hr.1.leaves.advance f.q _ hd)

/-- An advance of a local queue, at its entry. -/
theorem MayAdvance.entryCompletes {i : Instr} (h : MayAdvance s a f produce) (ha : AtEntry s a)
    (hi : exec i s = executeOp s i (fun a => guarded s a f.g (qadvBody s a f produce))) (hg : a.guard f.g = true)
    (hd : ((s.core a.core).queues.get f.q).dir = 0) :
    let b := (s.core a.core).queues.get f.q
    EntryCompletes i s a
      { s.core a.core with queues := (s.core a.core).queues.set f.q (b.advanced produce (advCount a f.n)) } a.x :=
  executeOp_completes ha hi ((if_pos hg).trans (h.body_local hd (.inl ha.2))) (ha.leaves.advance f.q _ hd)

end

/-! ### QLINK (14 R296) -/

section
variable {s : State} {a : Actor} {f : QueueF}

theorem qlink_traps (h : Runs s a f.g) (hs : a.spec s = none) (hb : ((s.core a.core).queues.get f.q).bound = false ∨
    ((s.core a.core).queues.get f.q).dir = 0 ∨ ((s.core a.core).queues.get f.q).dir = 3) :
    Traps (.qlink f) s a cQueueUnconfigured 0 := by
  refine accessOp_traps h ?_
  dsimp only
  rw [hs]
  obtain hb | hb | hb := hb <;> simp [hb]

/-- A QLINK that waits for its peer completes once the binding is linked. -/
theorem qlink_completes (h : Runs s a f.g) (hs : a.spec s = none) (hw : a.waited = [])
    (hb : ((s.core a.core).queues.get f.q).bound = true)
    (hd : ((s.core a.core).queues.get f.q).dir = 1 ∨ ((s.core a.core).queues.get f.q).dir = 2)
    (hbad : ((s.core a.core).queues.get f.q).badLink = false) (hl : ((s.core a.core).queues.get f.q).linked = true)
    (hp : a.x.prog = .stage 1 0) : Completes (.qlink f) s a (s.core a.core) (nextSlot a.x a.pc) := by
  refine accessOp_completes h ?_ h.1.leaves
  dsimp only
  rw [hs, hw, hp]
  obtain hd | hd := hd <;> simp [hb, hd, hbad, hl] <;> rfl

end

/-! ### Queue destinations (14 R270, R297) -/

section
variable {s : State} {a : Actor} {q : Fin 16} {n : BitVec 4} {w : Nat} {ls : List (Nat × Nat)}

/-- Lanes of an outbound queue go to the peer's ring in a message (14 R297). -/
theorem writeLanes_outbound {u : State} (hs : a.spec u = none) (hd : ((u.core a.core).queues.get q).dir = 2) (hl : ls ≠ []) :
    let b := (u.core a.core).queues.get q
    writeLanes u a (.q q n) w ls = .ok (sendUnit u a.core (.core b.peer) clsMSG
      (.queueWrite b.peerQ (b.slotPa b.peerBase (b.p.toNat + n.toNat - 1)) (vBytes (putLanes w 0 ls))
        (vBytes (ls.foldl (fun v l => setLane w v l.1 (2 ^ w - 1)) (0 : VWord))))) := by
  have he : ls.isEmpty = false := List.isEmpty_eq_false_iff.mpr hl
  simp only [writeLanes, he, queueRoom, hs, queueStore, queue_of_spec_none hs, hd, sendHeld, Option.isSome_none,
    Bool.false_eq_true, if_false, if_true]
  rfl

/-- What the lanes of a queue destination leave: the own ring's slot written under its mask, or the message that carries the
lanes to the peer's ring. -/
structure QueueWritten (s t : State) (a : Actor) (q : Fin 16) (n : BitVec 4) (w : Nat) (ls : List (Nat × Nat)) : Prop where
  strand : t.strand a.core a.k = s.strand a.core a.k
  outbound : ((s.core a.core).queues.get q).dir = 2 → ∀ pa, t.byte pa = s.byte pa
  own : ((s.core a.core).queues.get q).dir ≠ 2 →
    let b := (s.core a.core).queues.get q
    let slot := b.slotPa b.base (b.p.toNat + n.toNat - 1)
    (∀ j < 16, t.byte (slot + j) =
      if (vBytes (ls.foldl (fun v l => setLane w v l.1 (2 ^ w - 1)) (0 : VWord))).getD j 0 = 0 then s.byte (slot + j)
      else (vBytes (putLanes w 0 ls)).getD j 0) ∧
    ∀ pa, pa < slot ∨ slot + 16 ≤ pa → t.byte pa = s.byte pa

theorem writeLanes_queueWritten {u : State} {co : Core} (hs : a.spec u = none) (h : Leaves s u a co a.x)
    (hx : s.strand a.core a.k = some a.x) (hq : co.queues = (s.core a.core).queues) (hl : ls ≠ []) :
    ∃ t, writeLanes u a (.q q n) w ls = .ok t ∧ QueueWritten s t a q n w ls := by
  have hu : (u.core a.core).queues = (s.core a.core).queues := by rw [h.2.2.2]; exact hq
  by_cases hd : ((s.core a.core).queues.get q).dir = 2
  · refine ⟨_, writeLanes_outbound hs (by rw [hu]; exact hd) hl, ?_, fun _ pa => ?_, fun hn => absurd hd hn⟩
    · rw [sendUnit_strand, h.2.2.1, hx]
    · exact (byte_of_mem (sendUnit_mem ..) pa).trans (h.1.1 pa)
  · refine ⟨_, writeLanes_queue hs (by rw [hu]; exact hd) hl, ?_, fun h2 => absurd h2 hd, fun _ => ?_⟩
    · obtain ⟨-, hy, -⟩ := putQueue_leaves (w := w) (ls := ls) h (((u.core a.core).queues.get q).slotPa
        ((u.core a.core).queues.get q).base (((u.core a.core).queues.get q).p.toNat + n.toNat - 1))
      rw [hy, hx]
    · rw [hu]
      exact putQueue_byte h _

end

/-- R270 for an instruction whose destination is a queue. -/
theorem laneOp_queue {s : State} {a : Actor} (h : AtEntry s a) (hs : a.spec s = none) (hm : shadowMarks s a = false) {i : Instr}
    {sh : Bool} {g : Guard} {t : LaneTy} {q : Fin 16} {n : BitVec 4} {srcs : List VSrc} {vs : List VWord}
    {f : State → Actor → List VWord → Nat → BitVec 32 → LaneRes} (hi : exec i s = laneOp s i sh g t (.q q n) srcs f)
    (hq : queuesReady s a (regUseOut (.q q n) ++ srcs.flatMap srcUse) = .ok ()) (hv : srcs.mapM (vsrc s a t) = .ok vs) :
    let r := runLanes (f s a vs) (a.lanes g t) (s.core a.core).seed
    firstCause (s.core a.core).fctl r.2.1 = none → r.1 ≠ [] →
    ∃ u, exec i s = finishEntry a (.ok (.next u)) ∧ QueueWritten s u a q n t.width r.1 := by
  intro r hf hr
  have hl := h.leaves.committed r.2.1 r.2.2
  obtain ⟨u, hu, hw⟩ :=
    writeLanes_queueWritten (q := q) (n := n) (w := t.width) (spec_none_of_leaves hl hs rfl) hl h.strand rfl hr
  have hb := sources_read (fun vs => vectorOp s a g t (.q q n) (f s a vs)) hq hv
  rw [vectorOp_eq, commitFlags_ok _ _ _ hf, Except.bind, hu] at hb
  refine ⟨u, hi.trans ((executeShadowable_next h i sh hb).trans ?_), hw⟩
  rw [hm]
  rfl

/-! ### O28 -/

/-- The clauses about a QADV of the access side. -/
theorem qadv_clauses {s : State} {a : Actor} (f : QadvF) (h : Runs s a f.g) (hx : f.exec = false) (hs : a.spec s = none)
    (he : earlierNames a.x f.q (fun _ => true) = false) (hw : a.waited = []) :
    let n := advCount a f.n
    let co := s.core a.core
    let b := co.queues.get f.q
    (b.bound = false → Traps (.qadvP f) s a cQueueUnconfigured 0 ∧ Traps (.qadvC f) s a cQueueUnconfigured 0) ∧
    (b.bound = true → b.linked = true → b.dir = 0 →
      (n = 0 → Completes (.qadvP f) s a co (nextSlot a.x a.pc) ∧ Completes (.qadvC f) s a co (nextSlot a.x a.pc)) ∧
      (0 < n → n ≤ b.free → Completes (.qadvP f) s a
        { co with queues := co.queues.set f.q (b.advanced true n) } (nextSlot a.x a.pc)) ∧
      (0 < n → n ≤ b.filled → Completes (.qadvC f) s a
        { co with queues := co.queues.set f.q (b.advanced false n) } (nextSlot a.x a.pc))) ∧
    (b.bound = true → b.linked = true → 0 < n →
      (b.dir = 2 → n ≤ b.free → unordered s a = false →
        Sends (.qadvP f) s a [(.core b.peer, clsMSG, .queuePublish b.peerQ n)] a.x) ∧
      (b.dir = 1 → n ≤ b.filled → Sends (.qadvC f) s a [(.core b.peer, clsMSG, .queueCredit b.peerQ n)] a.x)) := by
  intro n co b
  have hP : exec (.qadvP f) s = accessOp s f.g (fun a => qadvBody s a f true) := if_neg (by simp [hx])
  have hC : exec (.qadvC f) s = accessOp s f.g (fun a => qadvBody s a f false) := if_neg (by simp [hx])
  refine ⟨fun hb => ⟨hP.trans (accessOp_traps h (qadvBody_unbound hs hb)),
      hC.trans (accessOp_traps h (qadvBody_unbound hs hb))⟩,
    fun hb hl hd => ⟨fun hn => ?_, fun hn hm => ?_, fun hn hm => ?_⟩, fun hb hl hn => ⟨fun hd hm hr => ?_, fun hd hm => ?_⟩⟩
  · rw [Completes, Completes, hP, hC]
    exact ⟨accessOp_completes h (qadvBody_zero hs hw (Queue.legal_of hb (.inl hd)) hn) h.1.leaves,
      accessOp_completes h (qadvBody_zero hs hw (Queue.legal_of hb (.inl hd)) hn) h.1.leaves⟩
  · exact MayAdvance.completes (produce := true) ⟨hs, hw, hb, hl, hn, hm⟩ h hP he hd
  · exact MayAdvance.completes (produce := false) ⟨hs, hw, hb, hl, hn, hm⟩ h hC he hd
  · exact MayAdvance.sends (produce := true) ⟨hs, hw, hb, hl, hn, hm⟩ h hP he hd (fun _ => hr)
  · exact MayAdvance.sends (produce := false) ⟨hs, hw, hb, hl, hn, hm⟩ h hC he hd (fun h2 => absurd h2 (by decide))

/-- Settles O28: the clauses about the instructions are `qcfg_traps`, `qcfg_binds`, `qlink_traps`, `qlink_completes`,
`qadv_clauses` and `MayAdvance.entryCompletes`; lanes of a queue destination are written as `laneOp_queue` says. -/
theorem queues : Obligations.Queues := by
  unfold Obligations.Queues
  refine ⟨fun s a => ⟨fun f h hs he hu => ?_, fun f h hs hw => ?_, fun f h hx hs he hw => ?_, fun f h hx hg hs hw => ?_,
    fun f h => ?_⟩, fun s a f3 f4 fn f2 fs fp fb h hs hm p hp vs q n hd hq hv => ?_⟩
  · refine ⟨qcfg_traps h hs, fun hr h2 h256 hpeer => ⟨fun hd => ?_, fun hd pa hp => ?_⟩⟩
    · obtain ⟨t, ht, hb, -, hm⟩ := qcfg_binds (i := .qcfgUnbind f) h rfl
        (qcfgBody_unbinds hs (cfgBad_eq_false hr h2 h256 hpeer) he hu hd)
      exact ⟨t, ht, congrArg Queue.bound hb, hm⟩
    · obtain ⟨t, ht, hb, ho, hm⟩ := qcfg_binds (i := .qcfgBind f) h rfl
        (qcfgBody_binds hs (cfgBad_eq_false hr h2 h256 hpeer) he hu hd hp)
      exact ⟨t, _, ht, hb, rfl, rfl, rfl, rfl, rfl, rfl, rfl, rfl, rfl, ho, hm⟩
  · exact ⟨qlink_traps h hs, qlink_completes h hs hw⟩
  · exact qadv_clauses f h hx hs he hw
  · intro n co b hb hl hd hn
    exact ⟨fun hm => MayAdvance.entryCompletes (produce := true) ⟨hs, hw, hb, hl, hn, hm⟩ h (if_pos hx) hg hd,
      fun hm => MayAdvance.entryCompletes (produce := false) ⟨hs, hw, hb, hl, hn, hm⟩ h (if_pos hx) hg hd⟩
  · exact accessOp_completes h rfl (h.1.leaves.setReg h.1.2 f.d _)
  · obtain ⟨sh, f, hi, hf⟩ := laneWise_isLaneOp s a f3 f4 fn f2 fs fp fb p hp
    intro co b r slot data mask hfc hne
    rw [hd] at hi hq
    have hl := laneOp_queue h hs hm hi hq hv
    rw [hf] at hl
    obtain ⟨u, hu, hw⟩ := hl hfc hne
    have hx : u.strand a.core a.k = some a.x := hw.strand.trans h.strand
    refine ⟨_, hu, ⟨popped a.x, ?_, rfl, rfl⟩, fun h2 => ?_, fun h2 pa => ?_⟩
    · rw [State.modStrand_some _ _ _ _ _ hx, State.setStrand_strand_self]
      rfl
    · obtain ⟨hin, hout⟩ := hw.own h2
      exact ⟨fun pa hpa => (State.modStrand_byte ..).trans (hout pa hpa),
        fun j hj => (State.modStrand_byte ..).trans (hin j hj)⟩
    · exact (State.modStrand_byte ..).trans (hw.outbound h2 pa)

end Sys2Proof.Machine
end

section
/-! The messages of a queue link at their core (14 R289, R295 to R300). -/

namespace Sys2Proof.Machine

/-! ### The link that a message names -/

/-- The binding `q` of core `c` is linked to its peer `src`. -/
def LinkedTo (s : State) (c src : Nat) (q : Fin 16) : Prop :=
  ((s.core c).queues.get q).linked = true ∧ ((s.core c).queues.get q).peer = src

theorem onLink_linked {s : State} {c src : Nat} {q : Fin 16} (h : LinkedTo s c src q) (k : Queue → State) :
    onLink s c src q k = k ((s.core c).queues.get q) := by
  obtain ⟨hl, hp⟩ := h
  simp [onLink, hl, hp]

/-- A message of a link that no longer stands is counted, and has no other effect (14 R295). -/
theorem onLink_gone {s : State} {c src : Nat} {q : Fin 16} (h : ¬ LinkedTo s c src q) (k : Queue → State) :
    onLink s c src q k = s.countCore c 0x14 1 (some (s.core c).part) := by
  refine if_neg (fun hb => h ?_)
  simpa [LinkedTo] using hb

section
variable {s u : State} {n c : Nat} {f : Flit}

theorem Arrives.cores (h : Arrives s n f u) : u.cores = s.cores := by obtain ⟨w, p, d, rfl⟩ := h.eq; rfl
theorem Arrives.modCore (h : Arrives s n f u) (g : Core → Core) : u.modCore c g = u.setCore c (g (s.core c)) := by
  rw [State.modCore, h.core]

theorem Arrives.linkedTo (h : Arrives s n f u) {src : Nat} {q : Fin 16} : LinkedTo u c src q ↔ LinkedTo s c src q := by
  rw [LinkedTo, LinkedTo, h.core]

/-- A message of a queue link has the effect that its core gives it. -/
theorem Arrives.takes_queueEvent {i : Instr} {act : State → Nat → Nat → Msg → Option State} {t : State}
    (h : Arrives s n f u) (hc : f.dst = .core c) (hi : exec i s = .next (queueEvent n s act))
    (ha : act u c f.src f.msg = some t) : Takes i s f t := by
  rw [Takes, hi, queueEvent, h.deliver]
  rw [hc]
  exact ha

/-- A message that needs its link has its effect `k` on the binding, or is counted as stale. -/
theorem Arrives.takes_onLink {i : Instr} {act : State → Nat → Nat → Msg → Option State} {q : Fin 16} {k : Queue → State}
    (h : Arrives s n f u) (hc : f.dst = .core c) (hi : exec i s = .next (queueEvent n s act))
    (ha : act u c f.src f.msg = some (onLink u c f.src q k)) :
    (LinkedTo s c f.src q → Takes i s f (k ((s.core c).queues.get q))) ∧
    (¬ LinkedTo s c f.src q → Takes i s f (u.countCore c 0x14 1 (some (s.core c).part))) := by
  refine ⟨fun hl => ?_, fun hl => ?_⟩
  · rw [← h.core c]
    exact h.takes_queueEvent hc hi (ha.trans (congrArg some (onLink_linked (h.linkedTo.mpr hl) k)))
  · rw [← h.core c]
    exact h.takes_queueEvent hc hi (ha.trans (congrArg some (onLink_gone (mt h.linkedTo.mp hl) k)))

/-- A message that changes the binding of its link. -/
theorem Arrives.takes_binding {i : Instr} {act : State → Nat → Nat → Msg → Option State} {q : Fin 16}
    {g : Queue → Queue} (h : Arrives s n f u) (hc : f.dst = .core c) (hi : exec i s = .next (queueEvent n s act))
    (ha : act u c f.src f.msg = some (onLink u c f.src q (fun _ => setQueue u c q g))) :
    (LinkedTo s c f.src q → Takes i s f
      (u.setCore c { s.core c with queues := (s.core c).queues.set q (g ((s.core c).queues.get q)) })) ∧
    (¬ LinkedTo s c f.src q → Takes i s f (u.countCore c 0x14 1 (some (s.core c).part))) := by
  have ht := h.takes_onLink hc hi ha
  rwa [setQueue, h.modCore] at ht

/-! ### The messages -/

theorem Arrives.takes_queueLink {q : Fin 16} {nslot : Nat} {sz dir : BitVec 2} {base : Nat} (h : Arrives s n f u)
    (hc : f.dst = .core c) (hm : f.msg = .queueLink q nslot sz dir base)
    (hn : (s.core c).queues.toList.any (fun b => b.bound && b.linked && b.peer == f.src && b.peerQ == q) = false) :
    let o : LinkOffer := { src := f.src, q := q, nslot := nslot, sz := sz, dir := dir, base := base }
    Takes (.queueLinkFlit n) s f
      (u.setCore c (linkAll { s.core c with linkOffers := (s.core c).linkOffers ++ [o] })) := by
  refine h.takes_queueEvent hc rfl ?_
  rw [hm]
  dsimp only
  rw [h.modCore, if_neg (by rw [hn]; decide)]

theorem Arrives.takes_queueUnlink {q : Fin 16} (h : Arrives s n f u) (hc : f.dst = .core c) (hm : f.msg = .queueUnlink q)
    (hp : ((s.core c).queues.get q).peer = f.src) (hd : ((s.core c).queues.get q).dir ≠ 0) :
    Takes (.queueUnlinkFlit n) s f (u.setCore c
      { s.core c with queues := (s.core c).queues.set q { (s.core c).queues.get q with linked := false } }) := by
  refine h.takes_queueEvent hc rfl ?_
  rw [hm]
  dsimp only
  rw [setQueue, h.modCore, if_pos ⟨hp, hd⟩]

/-- The state in which a slot write of the peer has been performed (14 R297). -/
def slotWritten (u : State) (c : Nat) (b : Queue) (pa : Nat) (bytes mask : List Byte) : State :=
  let new := maskedBytes (readBytes u pa bytes.length) bytes mask
  putSlotTag (clearPoison (writeBytes u pa new) pa new.length) c (pa - (pa - b.base) % slotSize b.sz) none

theorem slotWritten_cores (u : State) (c : Nat) (b : Queue) (pa : Nat) (bytes mask : List Byte) :
    (slotWritten u c b pa bytes mask).cores = smPut u.cores c
      { u.core c with slotTags := smSet none (u.core c).slotTags (pa - (pa - b.base) % slotSize b.sz) none } := by
  simp only [slotWritten, putSlotTag, State.modCore, State.setCore, State.core, clearPoison_cores, writeBytes_cores]

theorem slotWritten_byte {bytes mask : List Byte} (u : State) (c : Nat) (b : Queue) (pa : Nat)
    (hl : mask.length = bytes.length) :
    (∀ i < bytes.length, (slotWritten u c b pa bytes mask).byte (pa + i) =
      if mask.getD i 0 = 0 then u.byte (pa + i) else bytes.getD i 0) ∧
    ∀ a, a < pa ∨ pa + bytes.length ≤ a → (slotWritten u c b pa bytes mask).byte a = u.byte a := by
  have hn : (maskedBytes (readBytes u pa bytes.length) bytes mask).length = bytes.length := by
    rw [maskedBytes_length] <;> simp [hl]
  refine ⟨fun i hi => ?_, fun a ha => ?_⟩
  · rw [slotWritten, putSlotTag, State.modCore_byte, byte_of_mem (clearPoison_mem _ _ _),
      writeBytes_byte_in _ _ _ _ (by rw [hn]; exact hi), maskedBytes_getElem _ (by simpa using hi), readBytes_getElem]
  · rw [slotWritten, putSlotTag, State.modCore_byte, byte_of_mem (clearPoison_mem _ _ _),
      writeBytes_byte_out _ _ _ _ (by rw [hn]; exact ha)]

/-- A slot write of a link that stands (14 R289, R297). -/
theorem Arrives.takes_queueWrite {q : Fin 16} {pa : Nat} {bytes mask : List Byte} (h : Arrives s n f u) (hc : f.dst = .core c)
    (hm : f.msg = .queueWrite q pa bytes mask) :
    (LinkedTo s c f.src q → Takes (.queueSlotWriteMessage n) s f (slotWritten u c ((s.core c).queues.get q) pa bytes mask)) ∧
    (¬ LinkedTo s c f.src q → Takes (.queueSlotWriteMessage n) s f (u.countCore c 0x14 1 (some (s.core c).part))) :=
  h.takes_onLink (k := fun b => slotWritten u c b pa bytes mask) hc rfl (by rw [hm]; rfl)

/-- The check bits of a shadow come to the slot that they name. -/
theorem Arrives.takes_queueTag {q : Fin 16} {pa : Nat} {bad : Bool} (h : Arrives s n f u) (hc : f.dst = .core c)
    (hm : f.msg = .queueTag q pa bad) :
    (LinkedTo s c f.src q → Takes (.queueSlotWriteMessage n) s f
      (u.setCore c { s.core c with slotTags := smSet none (s.core c).slotTags pa (some bad) })) ∧
    (¬ LinkedTo s c f.src q → Takes (.queueSlotWriteMessage n) s f (u.countCore c 0x14 1 (some (s.core c).part))) := by
  have ht := h.takes_onLink (i := .queueSlotWriteMessage n) (k := fun _ => putSlotTag u c pa (some bad)) hc rfl (by rw [hm])
  rwa [putSlotTag, h.modCore] at ht

end

/-! ### O51 -/

/-- Settles O51: each message has the effect that its core gives it (`Arrives.takes_queueEvent`); one that needs its link has
it, or is counted as stale (`Arrives.takes_onLink`, `Arrives.takes_binding`). -/
theorem queueMessages : Obligations.QueueMessages := by
  unfold Obligations.QueueMessages
  intro s u n c f h hc
  refine ⟨fun q nslot sz dir base hm hn => h.takes_queueLink hc hm hn, fun q hm hp hd => h.takes_queueUnlink hc hm hp hd,
    fun q pa bytes mask hm hl => ?_, fun q pa bad hm => h.takes_queueTag hc hm, fun q m hm => ?_, fun q m hm => ?_⟩
  · obtain ⟨hw, hg⟩ := h.takes_queueWrite hc hm
    obtain ⟨hin, hout⟩ := slotWritten_byte u c ((s.core c).queues.get q) pa hl
    have ht := slotWritten_cores u c ((s.core c).queues.get q) pa bytes mask
    rw [h.cores, h.core] at ht
    refine ⟨fun hq => ⟨_, _, hw hq, ht, smGet_smSet_self _ _ _ _, fun i hi => ?_, fun a ha => ?_⟩, hg⟩
    · rw [hin i hi, byte_of_mem h.mem]
    · rw [hout a ha, byte_of_mem h.mem]
  · exact h.takes_binding (g := fun b => { b with p := b.p + BitVec.ofNat 32 m }) hc rfl (by rw [hm])
  · exact h.takes_binding (g := fun b => { b with c := b.c + BitVec.ofNat 32 m }) hc rfl (by rw [hm])

end Sys2Proof.Machine
end

section
/-! Atomics at their home: the old value for D, the new value of Table 15.4 for memory (15 R320 to R322). -/

namespace Sys2Proof.Machine

/-! ### The new value (15 Table 15.4) -/

/-- The low bits of a register pattern, as an atomic's operand carries them. -/
theorem low64_mod {w : Nat} (x : Word) (h : w ≤ 64) : (low64 x).toNat % 2 ^ w = bits x 0 w := by
  rw [low64, bits, BitVec.toNat_setWidth, BitVec.extractLsb'_toNat, Nat.shiftRight_zero,
    Nat.mod_mod_of_dvd _ (Nat.pow_dvd_pow 2 h)]

theorem iwBytes_le (w : IWidth) : 8 * iwBytes w ≤ 64 := by cases w <;> decide

section
variable {s : State} {a : Actor} {f : AmoF} {fc : CasF} {ff : AmofF}

/-- A slot whose meaning is the common body of the atomics, with the new value that the form gives. -/
def IsAtomic (s : State) (a : Actor) (p : AtomicForm) : Prop :=
  (∃ body, exec p.i s = accessOp s p.g body ∧ body a = atomicBody s a p.ord p.d p.m p.z p.rule p.x) ∧
    ∀ old, atomicNew p.x old = p.new old

theorem exec_intAtomic {i : Instr} {op : AtomicOp} (h : f.sh = false) (hi : exec i s = intAtomic s f op) :
    exec i s = accessOp s f.g (fun a => atomicBody s a f.ord f.d f.m f.z (ruleInt (iwBytes f.w))
      { op := op, len := iwBytes f.w, signed := !f.z, b := low64 (a.sdata f.b), c := 0 }) := by
  rw [hi, intAtomic, shadowableMem, h]
  rfl

theorem exec_amoCas (h : fc.sh = false) : exec (.amoCas fc) s = accessOp s fc.g (fun a =>
    atomicBody s a fc.ord fc.d fc.m fc.z (ruleInt (iwBytes fc.w))
      { op := .cas, len := iwBytes fc.w, signed := !fc.z, b := low64 (a.sdata fc.b), c := low64 (a.sr.get fc.c) }) := by
  change execAmoCas fc s = _
  rw [execAmoCas, shadowableMem, h]
  rfl

theorem exec_amofAdd (h : ff.sh = false) : exec (.amofAdd ff) s = accessOp s ff.g (fun a =>
    atomicBody s a ff.ord ff.d ff.m true (ruleFloat ff.fmt)
      { op := .fadd ff.fmt, len := if ff.fmt = .fp32 then 4 else 2, signed := false, b := low64 (a.sdata ff.b), c := 0 }) := by
  change execAmofAdd ff s = _
  rw [execAmofAdd, shadowableMem, h]
  rfl

/-- Every atomic of row 0x13 is one. -/
theorem atomicForms_isAtomic (hf : f.sh = false) (hfc : fc.sh = false) (hff : ff.sh = false) {p : AtomicForm}
    (hp : p ∈ atomicForms a f fc ff) : IsAtomic s a p := by
  have hb (w : IWidth) (x : Word) : (low64 x).toNat % 2 ^ (8 * iwBytes w) = bits x 0 (8 * iwBytes w) := low64_mod x (iwBytes_le w)
  have hff' : 8 * (if ff.fmt = .fp32 then 4 else 2) ≤ 64 := by split <;> decide
  simp only [atomicForms, List.mem_cons, List.not_mem_nil, or_false] at hp
  obtain rfl | rfl | rfl | rfl | rfl | rfl | rfl | rfl | rfl := hp
  · exact ⟨⟨_, exec_intAtomic hf rfl, rfl⟩, fun old => by simp only [atomicNew, hb]⟩
  · exact ⟨⟨_, exec_intAtomic hf rfl, rfl⟩, fun old => by simp only [atomicNew, hb]⟩
  · exact ⟨⟨_, exec_intAtomic hf rfl, rfl⟩, fun old => by simp only [atomicNew, hb]⟩
  · exact ⟨⟨_, exec_intAtomic hf rfl, rfl⟩, fun old => by simp only [atomicNew, hb]⟩
  · exact ⟨⟨_, exec_intAtomic hf rfl, rfl⟩, fun old => by simp only [atomicNew, hb]⟩
  · exact ⟨⟨_, exec_intAtomic hf rfl, rfl⟩, fun old => by simp only [atomicNew, hb]⟩
  · exact ⟨⟨_, exec_intAtomic hf rfl, rfl⟩, fun old => by simp only [atomicNew, hb]⟩
  · exact ⟨⟨_, exec_amoCas hfc, rfl⟩, fun old => by simp only [atomicNew, hb]⟩
  · exact ⟨⟨_, exec_amofAdd hff, rfl⟩, fun old => by simp only [atomicNew, low64_mod _ hff']⟩

end

/-! ### An atomic at its home -/

section
variable {s t : State} {a : Actor} {p : AtomicForm} {l : Leaf}

/-- The one access of an atomic, which its release precedes (15 R324). -/
def atomicAccess (a : Actor) (p : AtomicForm) (l : Leaf) : Access :=
  { mkAccess l (a.eaBase p.m) (.atomic p.x) with rel := ordRel p.ord }
/-- The checks of an atomic. -/
def atomicPlan (s : State) (a : Actor) (p : AtomicForm) : Except PlanErr Leaf :=
  planOne s a (a.eaBase p.m) p.x.len p.x.len .amo false p.rule
/-- The strand of an atomic that takes `old`. -/
def atomicStrand (a : Actor) (p : AtomicForm) (old : Nat) : Strand := withReg a.x p.d (extend72 p.z (8 * p.x.len) old)

/-- An atomic at its home: memory takes the new value, if there is one, and no other byte changes. -/
theorem performAt_atomicForm (hn : ∀ old, atomicNew p.x old = p.new old) (hr : Readable s a (atomicAccess a p l)) :
    let va := a.eaBase p.m
    let old := readU s (l.pa va) p.x.len
    ∃ t, performAt s (a.ident s) (atomicAccess a p l) = .ok t (readBytes s (l.pa va) p.x.len) ∧ OnlyWrites s t ∧
      (∀ q, q < l.pa va ∨ l.pa va + p.x.len ≤ q → t.byte q = s.byte q) ∧
      readU t (l.pa va) p.x.len = (p.new old).getD old % 2 ^ (8 * p.x.len) := by
  obtain ⟨⟨-, hd, hm, -, -⟩, hp, -⟩ := hr
  have hnew := hn (readU s (l.pa (a.eaBase p.m)) p.x.len)
  cases hv : p.new (readU s (l.pa (a.eaBase p.m)) p.x.len) with
  | none =>
    refine ⟨s, performAt_atomic_none hm hd rfl hp (hnew.trans hv), .refl s, fun _ _ => rfl, ?_⟩
    have hlt := leVal_lt (readBytes s (l.pa (a.eaBase p.m)) p.x.len)
    rw [readBytes_length] at hlt
    rw [hv]
    exact (Nat.mod_eq_of_lt hlt).symm
  | some v =>
    refine ⟨_, performAt_atomic hm hd rfl hp (hnew.trans hv), stored_onlyWrites _ _ _, fun q hq => ?_, ?_⟩
    · exact stored_byte_out s (by rwa [leBytes_length])
    · rw [hv]
      exact readU_stored _ _ _ _

/-- A register write after writes of memory. -/
theorem OnlyWrites.setReg (hw : OnlyWrites s t) (h : AtSlot s a) (d : SReg) (v : Word) :
    LeavesMem s (setReg t a d v) a (s.core a.core) (withReg a.x d v) ∧ (setReg t a d v).mem = t.mem := by
  have hl : LeavesMem s t a (s.core a.core) a.x := h.leaves.writes hw
  have hm : (Machine.setReg t a d v).mem = t.mem ∧ (Machine.setReg t a d v).poison = t.poison := by
    cases d <;> simp [Machine.setReg, setS]
  refine ⟨?_, hm.1⟩
  have hs : s.withMemOf (Machine.setReg t a d v) = s.withMemOf t := by rw [State.withMemOf, hm.1, hm.2]; rfl
  rw [leavesMem_iff, hs]
  exact (leavesMem_iff.mp hl).setReg h.2 d v

/-- An atomic on the strand's own die is performed within the step. -/
theorem loadFlow_atomic (h : AtSlot s a) (hs : Settled s a) {x : Access} {m : Atomic} (ho : x.op = .atomic m)
    (hx : AtHome s a x) {d : List Byte} (hp : performAt s (a.ident s) x = .ok t d) :
    loadFlow s a [] (onePlan (.ok x)) = .ok (t, [(x, d)]) := by
  obtain ⟨hloc, -, -, hsub, hnear⟩ := hx
  have hwr : x.writes = true := by rw [Access.writes, ho]
  have hprog := prog_of_settled h hs
  have hall : loadAll s a [x] none = .ok (t, [d]) := by
    simp only [loadAll, hprog, List.any_cons, List.any_nil, List.all_cons, List.all_nil, hsub, heldByAtomic, hs.1, Option.any_none,
      hnear hwr, hloc, Bool.and_false, Bool.or_self, Bool.and_self, Bool.false_eq_true, if_false, if_true, performAll, hp, ho]
  have hplan : loadPlan s a (onePlan (.ok x)) = .ok (t, [d]) := by
    rw [loadPlan, hprog]
    exact hall
  rw [loadFlow, hplan, attempt, hprog]
  rfl

/-- The answer to the one atomic that a slot waits for is its value (15 R308, R321). -/
theorem loadFlow_atomicAnswered (h : AtSlot s a) {x : Access} {m : Atomic} {tag : Nat} {d : List Byte}
    (hp : a.x.prog = .gather tag [x] [(0, none, d)] none) (ho : x.op = .atomic m) (r : Except PlanErr Access) :
    loadFlow s a [] (onePlan r) = .ok (s, [(x, d)]) := by
  have hprog : a.prog = .gather tag [x] [(0, none, d)] none := by rw [Actor.prog, h.2]; exact hp
  have hall : loadAll s a [] none = .ok (s, [d]) := by
    rw [loadAll, hprog]
    simp [gathered, ho]
  have hplan : loadPlan s a (onePlan r) = .ok (s, [d]) := by
    rw [loadPlan, hprog]
    cases r <;> simp [hall, onePlan, planList, Except.bind]
  rw [loadFlow, hplan, attempt, hprog]
  rfl

/-- The body of an atomic on no speculative path, once its release is done. -/
theorem atomicBody_eq (hs : a.spec s = none) (hr : released s a (ordRel p.ord && !a.x.prog.isGather) = .ok ()) :
    atomicBody s a p.ord p.d p.m p.z p.rule p.x =
      (loadFlow s a [] (onePlan ((atomicPlan s a p).map (atomicAccess a p)))).map (fun r =>
        .next (setReg r.1 a p.d (extend72 p.z (8 * p.x.len) (leVal ((r.2.head?.map (·.2)).getD []))))) := by
  rw [atomicBody.eq_def]
  simp only [hs, hr, Option.isSome_none, Bool.false_eq_true, if_false, Except.bind]
  rw [atomicPlan]
  cases planOne _ _ _ _ _ _ _ _ <;> rfl

theorem atomic_traps (hi : IsAtomic s a p) (h : Runs s a p.g) (hs : Settled s a) (hr : released s a (ordRel p.ord) = .ok ())
    {c : Cause} (hc : atomicPlan s a p = .error (.cause c)) : Traps p.i s a c.code c.eva := by
  obtain ⟨⟨body, hx, hb⟩, -⟩ := hi
  refine hx.trans (accessOp_traps h ?_)
  rw [hb, atomicBody_eq hs.1 (by rw [hs.2]; simpa [Prog.isGather] using hr), hc,
    loadFlow_cause h.1 hs (queuesReady_nil s a) (p := onePlan _) (fun x hm => absurd hm List.not_mem_nil) rfl]
  rfl

theorem atomic_performed (hi : IsAtomic s a p) (h : Runs s a p.g) (hs : Settled s a)
    (hr : released s a (ordRel p.ord) = .ok ()) (hp : atomicPlan s a p = .ok l) (hx : Readable s a (atomicAccess a p l)) :
    let va := a.eaBase p.m
    let old := readU s (l.pa va) p.x.len
    ∃ t, exec p.i s = .next t ∧ LeavesMem s t a (countSlot (s.core a.core) a.k) (nextSlot (atomicStrand a p old) a.pc) ∧
      (∀ q, q < l.pa va ∨ l.pa va + p.x.len ≤ q → t.byte q = s.byte q) ∧
      readU t (l.pa va) p.x.len = (p.new old).getD old % 2 ^ (8 * p.x.len) := by
  obtain ⟨⟨body, hi, hb⟩, hn⟩ := hi
  obtain ⟨u, hu, hw, hout, hval⟩ := performAt_atomicForm hn hx
  have hbody := hb
  rw [atomicBody_eq hs.1 (by rw [hs.2]; simpa [Prog.isGather] using hr), hp] at hbody
  have hflow := loadFlow_atomic h.1 hs (x := atomicAccess a p l) rfl hx.1 hu
  rw [show (Except.ok l : Except PlanErr Leaf).map (atomicAccess a p) = .ok (atomicAccess a p l) from rfl, hflow] at hbody
  obtain ⟨hl, hm⟩ := hw.setReg h.1 p.d (extend72 p.z (8 * p.x.len) (readU s (l.pa (a.eaBase p.m)) p.x.len))
  obtain ⟨t, ht, htl, htm⟩ := accessOp_writes h hbody hl
  have hmem := htm.trans hm
  refine ⟨t, hi.trans ht, htl, fun q hq => (byte_of_mem hmem q).trans (hout q hq), ?_⟩
  rw [← hval, readU, readU, readBytes_of_mem hmem]

theorem atomic_answered (hi : IsAtomic s a p) (h : Runs s a p.g) (hs : a.spec s = none) {tag : Nat} {x : Access} {y : Atomic}
    {d : List Byte} (hp : a.x.prog = .gather tag [x] [(0, none, d)] none) (ho : x.op = .atomic y) :
    Completes p.i s a (s.core a.core) (nextSlot (atomicStrand a p (leVal d)) a.pc) := by
  obtain ⟨⟨body, hi, hb⟩, -⟩ := hi
  have hr : released s a (ordRel p.ord && !a.x.prog.isGather) = .ok () := by
    rw [hp]
    simp [Prog.isGather, released]
  rw [atomicBody_eq hs hr, loadFlow_atomicAnswered h.1 hp ho] at hb
  rw [Completes, hi]
  exact accessOp_completes h hb (h.1.leaves.setReg h.1.2 p.d _)

end

/-- Settles O21: each form is the common body of the atomics with the new value of Table 15.4 (`atomicForms_isAtomic`), whose
one access traps at its checks, is performed at its home, or is answered (`atomic_traps`, `atomic_performed`,
`atomic_answered`). -/
theorem atomics : Obligations.Atomics := by
  unfold Obligations.Atomics
  intro s a f fc ff hs hf hfc hff p hp h va n plan after
  have hi : IsAtomic s a p := atomicForms_isAtomic hf hfc hff hp
  exact ⟨fun hprog hr => ⟨fun c hc => atomic_traps hi h ⟨hs, hprog⟩ hr hc,
      fun l hl hx => atomic_performed hi h ⟨hs, hprog⟩ hr hl hx⟩,
    fun tag x y d hg ho _ => atomic_answered hi h hs hg ho⟩

end Sys2Proof.Machine
end

section
/-! Whole slots of the strand's own rings: LDQ, STQ and VGATH.bc (14 R297; 15 R313, R318; 26 R473). -/

namespace Sys2Proof.Machine

/-! ### Lists in pieces -/

/-- Elements of a list with their numbers, taken in ascending order of the numbers. -/
theorem zipIdx_foldl_eq_range {α σ : Type} (f : σ → α × Nat → σ) (d : α) (l : List α) (s : σ) :
    l.zipIdx.foldl f s = (List.range l.length).foldl (fun u i => f u (l.getD i d, i)) s := by
  have h : l.zipIdx = (List.range l.length).map (fun i => (l.getD i d, i)) := by
    refine List.ext_getElem (by simp) fun i h1 h2 => ?_
    have hi : i < l.length := by simpa using h1
    simp [hi]
  rw [h, List.foldl_map]

theorem getD_drop_take (l : List Byte) {n i m : Nat} (h : i < m) : ((l.drop n).take m).getD i 0 = l.getD (n + i) 0 := by
  simp [List.getD_eq_getElem?_getD, h]

/-- Bytes read from further on. -/
theorem readBytes_drop_take (s : State) (pa : Nat) {n i m : Nat} (h : i + m ≤ n) :
    ((readBytes s pa n).drop i).take m = readBytes s (pa + i) m := by
  refine List.ext_getElem (by simp; omega) fun j h1 h2 => ?_
  rw [List.getElem_take, List.getElem_drop, readBytes_getElem, readBytes_getElem, Nat.add_assoc]

/-- Under a mask of all bytes every byte is the new one. -/
theorem maskedBytes_full {old data : List Byte} (h : data.length = old.length) :
    maskedBytes old data (List.replicate old.length 0xFF) = data := by
  have hl := maskedBytes_length (mask := List.replicate old.length (0xFF : Byte)) h (by simp)
  refine List.ext_getElem (hl.trans h.symm) fun j h1 h2 => ?_
  have hj : j < old.length := hl ▸ h1
  rw [maskedBytes_getElem h1 hj, if_neg (by simp [hj]), List.getD_eq_getElem _ _ h2]

/-! ### The check bits of a slot (26 R473) -/

theorem smErase_smErase {β : Type} (m : SMap β) (k : Nat) : smErase (smErase m k) k = smErase m k := by
  induction m with
  | nil => rfl
  | cons p t ih =>
    obtain ⟨j, v⟩ := p
    by_cases h : j = k <;> simp [smErase, h, ih]

theorem putSlotTag_none_twice (s : State) (c pa : Nat) :
    putSlotTag (putSlotTag s c pa none) c pa none = putSlotTag s c pa none := by
  have h (m : SMap (Option Bool)) : smSet none (smSet none m pa none) pa none = smSet none m pa none := by
    simp only [smSet, if_true, smErase_smErase]
  simp only [putSlotTag, State.modCore, State.setCore_core_self, State.setCore_setCore, h]

/-! ### Writes of memory after other changes of a slot -/

section
variable {s t u : State} {a : Actor} {co : Core} {y : Strand}

theorem LeavesMem.writes (h : LeavesMem s u a co y) (hw : OnlyWrites u t) : LeavesMem s t a co y := by
  have := (leavesMem_iff.mp h).writes hw
  rw [leavesMem_iff] at this ⊢
  exact this
theorem LeavesMem.modCore (h : LeavesMem s u a co y) (f : Core → Core)
    (hf : ∀ q S, f { q with strands := S } = { f q with strands := S }) : LeavesMem s (u.modCore a.core f) a (f co) y := by
  rw [leavesMem_iff] at h ⊢
  exact h.modCore f hf
theorem LeavesMem.untag (h : LeavesMem s u a co y) (slot : Nat) :
    LeavesMem s (putSlotTag u a.core slot none) a (untagged co slot) y :=
  h.modCore (fun q => { q with slotTags := smSet none q.slotTags slot none }) (fun _ _ => rfl)
theorem LeavesMem.queues (h : LeavesMem s u a co y) : (u.core a.core).queues = co.queues := by
  rw [h.2.2.1]
theorem LeavesMem.spec_none (h : LeavesMem s u a co y) (hs : a.spec s = none) (hc : co.spec = (s.core a.core).spec) :
    a.spec u = none := spec_none_of_leaves (leavesMem_iff.mp h) hs hc

theorem OnlyWrites.core (h : OnlyWrites s t) (c : Nat) : t.core c = s.core c := by rw [h.1]; rfl

end

/-! ### A slot of the strand's own ring (15 R313; 26 R473) -/

/-- The slot of binding `b` that a producing use of need `need` names. -/
def Queue.producePa (b : Queue) (need : Nat) : Nat := b.slotPa b.base (b.p.toNat + need - 1)

section
variable {s u : State} {a : Actor} {q : Fin 16} {need : Nat} {b : Queue} {data : List Byte}

/-- Sixteen bytes of a slot of the strand's own ring whose check bits are clear. -/
theorem queueStore_own (hs : a.spec u = none) (hb : (u.core a.core).queues.get q = b) (hd : b.dir ≠ 2) {ofs : Nat}
    (hl : data.length = 16) : queueStore u a q need ofs data (List.replicate 16 0xFF) =
      stored (putSlotTag u a.core (b.producePa need) none) (b.producePa need + ofs) data := by
  have hm := maskedBytes_full (old := readBytes u (b.producePa need + ofs) 16) (data := data) (by rw [hl, readBytes_length])
  rw [readBytes_length] at hm
  rw [maskedBytes] at hm
  simp only [queueStore, queue_of_spec_none hs, hb, hd, setSlotTag, hs, specBuf_of_none hs, overlay_nil, Option.isSome_none,
    Bool.false_eq_true, if_false, hl, stored]
  rw [Queue.producePa] at hm ⊢
  simp only [Queue.operandPa, if_true, hm, hl]

/-- The first `n` units of 16 bytes of a slot. -/
def unitsStored (u : State) (slot : Nat) (data : List Byte) (n : Nat) : State :=
  (List.range n).foldl (fun v i => stored v (slot + 16 * i) ((data.drop (16 * i)).take 16)) u

theorem unitsStored_succ (u : State) (slot : Nat) (data : List Byte) (n : Nat) : unitsStored u slot data (n + 1) =
    stored (unitsStored u slot data n) (slot + 16 * n) ((data.drop (16 * n)).take 16) := by
  simp only [unitsStored, List.range_succ, List.foldl_append, List.foldl_cons, List.foldl_nil]

theorem unitsStored_onlyWrites (u : State) (slot : Nat) (data : List Byte) (n : Nat) :
    OnlyWrites u (unitsStored u slot data n) := .foldl (fun _ _ => stored_onlyWrites _ _ _) _ _

theorem unitsStored_byte (u : State) (slot : Nat) {data : List Byte} {n : Nat} (h : 16 * n ≤ data.length) :
    (∀ j < 16 * n, (unitsStored u slot data n).byte (slot + j) = data.getD j 0) ∧
      ∀ pa, pa < slot ∨ slot + 16 * n ≤ pa → (unitsStored u slot data n).byte pa = u.byte pa := by
  induction n with
  | zero => exact ⟨fun j hj => absurd hj (by omega), fun _ _ => rfl⟩
  | succ n ih =>
    obtain ⟨hin, hout⟩ := ih (by omega)
    have hl : ((data.drop (16 * n)).take 16).length = 16 := by simp; omega
    rw [unitsStored_succ]
    refine ⟨fun j hj => ?_, fun pa hpa => ?_⟩
    · by_cases hj' : j < 16 * n
      · rw [stored_byte_out _ (.inl (by omega)), hin j hj']
      · have := stored_byte_in (unitsStored u slot data n) (slot + 16 * n) (j := j - 16 * n) (by rw [hl]; omega)
        rw [getD_drop_take _ (by omega), show slot + 16 * n + (j - 16 * n) = slot + j by omega,
          show 16 * n + (j - 16 * n) = j by omega] at this
        exact this
    · rw [stored_byte_out _ (by rw [hl]; omega), hout pa (by omega)]

/-- A slot of the strand's own ring takes whole units of 16 bytes, and loses its check bits. -/
theorem fillSlot_own (hs : a.spec u = none) (hb : (u.core a.core).queues.get q = b) (hd : b.dir ≠ 2) {n : Nat} (hn : 0 < n)
    (hl : data.length = 16 * n) : fillSlot u a q need data =
      unitsStored (putSlotTag u a.core (b.producePa need) none) (b.producePa need) data n := by
  have key : ∀ m ≤ n, 0 < m → (List.range m).foldl (fun v i =>
      queueStore v a q need (16 * i) ((data.drop (16 * i)).take 16) (List.replicate 16 0xFF)) u =
      unitsStored (putSlotTag u a.core (b.producePa need) none) (b.producePa need) data m := by
    intro m hm hpos
    induction m with
    | zero => omega
    | succ m ih =>
      have hlen : ((data.drop (16 * m)).take 16).length = 16 := by simp; omega
      rw [unitsStored_succ, List.range_succ, List.foldl_append, List.foldl_cons, List.foldl_nil]
      cases Nat.eq_zero_or_pos m with
      | inl h0 => subst h0; exact queueStore_own hs hb hd hlen
      | inr h0 =>
        rw [ih (by omega) h0]
        have hw := unitsStored_onlyWrites (putSlotTag u a.core (b.producePa need) none) (b.producePa need) data m
        have hcore : (unitsStored (putSlotTag u a.core (b.producePa need) none) (b.producePa need) data m).core a.core =
            untagged (u.core a.core) (b.producePa need) := (hw.core _).trans (State.modCore_core_self _ _ _)
        rw [queueStore_own (by rw [Actor.spec, hcore]; exact hs) (by rw [hcore]; exact hb) hd hlen]
        have ht : putSlotTag (unitsStored (putSlotTag u a.core (b.producePa need) none) (b.producePa need) data m) a.core
            (b.producePa need) none = unitsStored (putSlotTag u a.core (b.producePa need) none) (b.producePa need) data m := by
          have h2 := congrArg (fun v => v.withMemOf
            (unitsStored (putSlotTag u a.core (b.producePa need) none) (b.producePa need) data m))
            (putSlotTag_none_twice u a.core (b.producePa need))
          rw [hw.1]
          exact h2
        rw [ht]
  rw [fillSlot, hl, Nat.mul_div_cancel_left n (by decide)]
  exact key n le_rfl hn

/-- What a filled slot leaves, and its bytes. -/
theorem fillSlot_leaves {co : Core} {y : Strand} (hu : LeavesMem s u a co y) (hs : a.spec u = none) (hb : co.queues.get q = b)
    (hd : b.dir ≠ 2) {n : Nat} (hn : 0 < n) (hl : data.length = 16 * n) :
    LeavesMem s (fillSlot u a q need data) a (untagged co (b.producePa need)) y ∧
      (∀ j < 16 * n, (fillSlot u a q need data).byte (b.producePa need + j) = data.getD j 0) ∧
      ∀ pa, pa < b.producePa need ∨ b.producePa need + 16 * n ≤ pa → (fillSlot u a q need data).byte pa = u.byte pa := by
  rw [fillSlot_own hs (by rw [hu.queues]; exact hb) hd hn hl]
  obtain ⟨hin, hout⟩ := unitsStored_byte (putSlotTag u a.core (b.producePa need) none) (b.producePa need) hl.ge
  exact ⟨(hu.untag _).writes (unitsStored_onlyWrites _ _ _ _), hin, hout⟩

end

/-! ### Several slots of one ring (15 R318) -/

section
variable {s : State} {a : Actor} {q : Fin 16} {need : Nat} {b : Queue}

/-- The slots of needs `need` on, each filled with its data. -/
def slotsFilled (s : State) (a : Actor) (q : Fin 16) (need : Nat) (data : Nat → List Byte) (m : Nat) : State :=
  (List.range m).foldl (fun u j => fillSlot u a q (need + j) (data j)) s

theorem slotsFilled_succ (s : State) (a : Actor) (q : Fin 16) (need : Nat) (data : Nat → List Byte) (m : Nat) :
    slotsFilled s a q need data (m + 1) = fillSlot (slotsFilled s a q need data m) a q (need + m) (data m) := by
  simp only [slotsFilled, List.range_succ, List.foldl_append, List.foldl_cons, List.foldl_nil]

theorem foldl_untagged_keeps (l : List Nat) (co : Core) :
    (l.foldl untagged co).queues = co.queues ∧ (l.foldl untagged co).spec = co.spec := by
  induction l generalizing co with
  | nil => exact ⟨rfl, rfl⟩
  | cons p l ih => exact ih (untagged co p)

/-- Slots of one ring that lie fewer than its number apart do not meet. -/
theorem producePa_disjoint (b : Queue) {need i j : Nat} (h0 : 0 < need) (hij : i < j) (hj : j < i + b.nslot) :
    b.producePa (need + i) + slotSize b.sz ≤ b.producePa (need + j) ∨
      b.producePa (need + j) + slotSize b.sz ≤ b.producePa (need + i) := by
  have hne : (b.p.toNat + (need + i) - 1) % b.nslot ≠ (b.p.toNat + (need + j) - 1) % b.nslot := by
    intro h
    have hd := (Nat.modEq_iff_dvd' (by omega)).mp h
    have := Nat.le_of_dvd (by omega) hd
    omega
  simp only [Queue.producePa, Queue.slotPa]
  obtain h | h := Nat.lt_or_gt_of_ne hne
  · have := Nat.mul_le_mul_right (slotSize b.sz) (Nat.succ_le_of_lt h)
    rw [Nat.succ_mul] at this
    omega
  · have := Nat.mul_le_mul_right (slotSize b.sz) (Nat.succ_le_of_lt h)
    rw [Nat.succ_mul] at this
    omega

theorem slotSize_eq (sz : BitVec 2) : slotSize sz = 16 * 2 ^ sz.toNat := rfl

theorem slotsFilled_leaves {y : Strand} (hl : LeavesMem s s a (s.core a.core) y) (hs : a.spec s = none)
    (hb : (s.core a.core).queues.get q = b) (hd : b.dir ≠ 2) (h0 : 0 < need) {data : Nat → List Byte} {m : Nat} (hm : m ≤ b.nslot)
    (hdata : ∀ j < m, (data j).length = slotSize b.sz) :
    LeavesMem s (slotsFilled s a q need data m) a
        (((List.range m).map (fun j => b.producePa (need + j))).foldl untagged (s.core a.core)) y ∧
      (∀ j < m, ∀ i < slotSize b.sz,
        (slotsFilled s a q need data m).byte (b.producePa (need + j) + i) = (data j).getD i 0) ∧
      ∀ pa, (∀ j < m, pa < b.producePa (need + j) ∨ b.producePa (need + j) + slotSize b.sz ≤ pa) →
        (slotsFilled s a q need data m).byte pa = s.byte pa := by
  induction m with
  | zero => exact ⟨hl, fun j hj => absurd hj (by omega), fun _ _ => rfl⟩
  | succ m ih =>
    obtain ⟨hlv, hin, hout⟩ := ih (by omega) (fun j hj => hdata j (by omega))
    obtain ⟨hq, hsp⟩ := foldl_untagged_keeps ((List.range m).map (fun j => b.producePa (need + j))) (s.core a.core)
    obtain ⟨hlv', hin', hout'⟩ := fillSlot_leaves (q := q) (need := need + m) (b := b) hlv (hlv.spec_none hs hsp)
      (by rw [hq]; exact hb) hd (Nat.two_pow_pos b.sz.toNat) (hdata m (by omega))
    rw [← slotSize_eq] at hin' hout'
    rw [slotsFilled_succ]
    refine ⟨?_, fun j hj i hi => ?_, fun pa hpa => ?_⟩
    · rw [List.range_succ, List.map_append, List.foldl_append]
      exact hlv'
    · obtain hj' | rfl := Nat.lt_succ_iff_lt_or_eq.mp hj
      · have := producePa_disjoint b h0 hj' (by omega)
        rw [hout' _ (by omega), hin j hj' i hi]
      · exact hin' i hi
    · rw [hout' pa (hpa m (by omega)), hout pa (fun j hj => hpa j (by omega))]

end

/-! ### LDQ (15 R313) -/

section
variable {s t : State} {a : Actor} {f : LdqF} {l : Leaf}

/-- The use that LDQ makes of its queue. -/
def ldqUse (f : LdqF) : List QUse := [{ q := f.q, need := f.need.toNat, produce := true }]
/-- The accesses of LDQ to the page `l`. -/
def ldqLoads (a : Actor) (f : LdqF) (l : Leaf) (size : Nat) : List Access :=
  slotUnits l (a.ea f.m) size (fun _ => .load 16 none)

theorem exec_ldq (h : f.sh = false) : exec (.ldq f) s = accessOp s f.g (fun a =>
    let size := slotSize (a.queue s f.q).sz
    let va := a.ea f.m
    let p : List Access × Option PlanErr := match planOne s a va size size .rd false ruleAny with
      | .error e => ([], some e)
      | .ok x => (slotUnits x va size (fun _ => .load 16 none), none)
    (loadFlow s a [{ q := f.q, need := f.need.toNat, produce := true }] p).bind (fun r =>
      (queueRoom r.1 a (r.2.length)).map (fun _ =>
        .next (fillSlot r.1 a f.q f.need.toNat (r.2.flatMap (·.2)))))) := by
  change execLdq f s = _
  rw [execLdq, shadowableMem, h]
  rfl

theorem slotUnits_isLoad (l : Leaf) (va : Word) (size : Nat) : ∀ x ∈ slotUnits l va size (fun _ => .load 16 none), IsLoad x := by
  intro x hx
  obtain ⟨i, -, rfl⟩ := List.mem_map.mp hx
  exact ⟨_, _, rfl⟩

theorem slotUnits_data_length (l : Leaf) (va : Word) (size : Nat) :
    ((slotUnits l va size (fun _ => .load 16 none)).flatMap (dataAt s)).length = 16 * (size / 16) := by
  have h : ∀ x ∈ slotUnits l va size (fun _ => .load 16 none), (dataAt s x).length = 16 := by
    intro x hx
    obtain ⟨i, -, rfl⟩ := List.mem_map.mp hx
    exact readBytes_length _ _ _
  rw [List.length_flatMap, List.map_congr_left h, List.map_const', List.sum_replicate]
  simp [slotUnits, Nat.mul_comm]

/-- LDQ whose checks have passed and whose units are read fills its slot with them. -/
theorem ldq_body (h : Runs s a f.g) (hsh : f.sh = false) (hs : Settled s a) {size : Nat}
    (hsize : size = slotSize ((s.core a.core).queues.get f.q).sz) (hq : queuesReady s a (ldqUse f) = .ok ())
    (hp : planOne s a (a.ea f.m) size size .rd false ruleAny = .ok l) (hx : ∀ x ∈ ldqLoads a f l size, Readable s a x) :
    ∃ body, exec (.ldq f) s = accessOp s f.g body ∧
      body a = .ok (.next (fillSlot s a f.q f.need.toNat ((ldqLoads a f l size).flatMap (dataAt s)))) := by
  refine ⟨_, exec_ldq hsh, ?_⟩
  subst hsize
  have hflow := loadFlow_ok h.1 hs (p := (ldqLoads a f l (slotSize ((s.core a.core).queues.get f.q).sz), none)) hq
    (fun x hm => ⟨slotUnits_isLoad _ _ _ x hm, hx x hm⟩) rfl
  rw [ldqUse, ldqLoads] at hflow
  simp only [queue_of_spec_none hs.1, hp, hflow, Except.bind, queueRoom, hs.1, Except.map, ldqLoads, List.flatMap_map]

/-- LDQ into a ring of the strand's own share. -/
theorem ldq_own (h : Runs s a f.g) (hsh : f.sh = false) (hs : Settled s a) {b : Queue}
    (hb : (s.core a.core).queues.get f.q = b) (hd : b.dir ≠ 2) (hq : queuesReady s a (ldqUse f) = .ok ())
    (hp : planOne s a (a.ea f.m) (slotSize b.sz) (slotSize b.sz) .rd false ruleAny = .ok l)
    (hx : ∀ x ∈ ldqLoads a f l (slotSize b.sz), Readable s a x) :
    ∃ t, exec (.ldq f) s = .next t ∧
      LeavesMem s t a (countSlot (untagged (s.core a.core) (b.producePa f.need.toNat)) a.k) (nextSlot a.x a.pc) ∧
      (∀ j < slotSize b.sz, t.byte (b.producePa f.need.toNat + j) =
        ((ldqLoads a f l (slotSize b.sz)).flatMap (dataAt s)).getD j 0) ∧
      ∀ q, q < b.producePa f.need.toNat ∨ b.producePa f.need.toNat + slotSize b.sz ≤ q → t.byte q = s.byte q := by
  obtain ⟨body, hi, hbody⟩ := ldq_body h hsh hs (by rw [hb]) hq hp hx
  have hlen := slotUnits_data_length (s := s) l (a.ea f.m) (slotSize b.sz)
  have hsz : slotSize b.sz / 16 = 2 ^ b.sz.toNat := Nat.mul_div_cancel_left _ (by decide)
  rw [hsz] at hlen
  obtain ⟨hl, hin, hout⟩ := fillSlot_leaves (q := f.q) (need := f.need.toNat) (h.1.leaves.writes (.refl s)) hs.1 hb hd
    (Nat.two_pow_pos _) hlen
  obtain ⟨t, ht, htl, htm⟩ := accessOp_writes h hbody hl
  exact ⟨t, hi.trans ht, htl, fun j hj => (byte_of_mem htm _).trans (hin j hj),
    fun q hq => (byte_of_mem htm _).trans (hout q hq)⟩

/-- A slot of an outbound queue goes to the peer in messages. -/
theorem fillSlot_outbound {q : Fin 16} {need : Nat} {data : List Byte} (hs : a.spec s = none)
    (hd : ((s.core a.core).queues.get q).dir = 2) :
    (fillSlot s a q need data).cores = s.cores ∧ (fillSlot s a q need data).mem = s.mem := by
  refine foldl_stays (P := fun u : State => u.cores = s.cores ∧ u.mem = s.mem) (fun u i hu => ?_) _ ⟨rfl, rfl⟩
  have hc : u.core a.core = s.core a.core := by rw [State.core, hu.1]; rfl
  have hsu : a.spec u = none := by rw [Actor.spec, hc]; exact hs
  simp only [queueStore, queue_of_spec_none hsu, hc, hd, sendHeld, hsu, Option.isSome_none, Bool.false_eq_true, if_false, if_true,
    sendUnit_cores, sendUnit_mem]
  exact hu

theorem ldq_outbound (h : Runs s a f.g) (hsh : f.sh = false) (hs : Settled s a) {size : Nat}
    (hsize : size = slotSize ((s.core a.core).queues.get f.q).sz) (hd : ((s.core a.core).queues.get f.q).dir = 2)
    (hq : queuesReady s a (ldqUse f) = .ok ()) (hp : planOne s a (a.ea f.m) size size .rd false ruleAny = .ok l)
    (hx : ∀ x ∈ ldqLoads a f l size, Readable s a x) :
    ∃ t, exec (.ldq f) s = .next t ∧ OnlyStrand s t a.core a.k ∧ t.strand a.core a.k = some (nextSlot a.x a.pc) ∧
      ∀ pa, t.byte pa = s.byte pa := by
  obtain ⟨body, hi, hbody⟩ := ldq_body h hsh hs hsize hq hp hx
  obtain ⟨hc, hm⟩ := fillSlot_outbound (q := f.q) (need := f.need.toNat)
    (data := (ldqLoads a f l size).flatMap (dataAt s)) hs.1 hd
  have hk := KeepsStrands.of_cores hc
  obtain ⟨t, ht, hy, ho, htm, -⟩ := accessOp_ends h hbody ((hk.strand _ _).trans h.1.strand)
  exact ⟨t, hi.trans ht, fun j i hji => (ho j i hji).trans (hk.strand j i), hy, byte_of_mem (htm.trans hm)⟩

end

/-! ### STQ (15 R313) -/

section
variable {s t : State} {a : Actor} {f : LdqF} {l : Leaf}

/-- Stores of whole bytes meet no stored pair. -/
theorem soundPairs_of_store {xs : List Access} (h : ∀ x ∈ xs, ∃ b, x.op = .store b) : SoundPairs s xs := by
  rintro pre x post bs rfl ho
  obtain ⟨b, hb⟩ := h x (by simp)
  rw [ho] at hb
  cases hb

/-- Stores performed at a slot that has changed nothing else. -/
theorem storeNow_own (h : AtSlot s a) (hs : a.spec s = none) {xs : List Access}
    (hx : ∀ x ∈ xs, (∃ b, x.op = .store b) ∧ AtHome s a x) :
    ∃ t, storeNow s a xs = .ok t ∧ LeavesMem s t a (s.core a.core) a.x ∧ t.mem = (xs.foldl storeEffect s).mem := by
  obtain ⟨t, ht, hm, hw⟩ := storeList_runs (s := s) (u := s) (a := a) (xs := xs) rfl (fun _ h => h) (fun x hm => by
    obtain ⟨⟨b, hb⟩, hloc, hd, hmem, -⟩ := hx x hm
    exact ⟨by rw [hb]; rfl, hloc, hd, hmem⟩) (soundPairs_of_store (fun x hm => (hx x hm).1))
  exact ⟨t, by rw [storeNow, hs]; exact ht, h.leaves.writes hw, hm⟩

/-- The slot that STQ takes. -/
def stqSlot (b : Queue) (f : LdqF) : Nat := b.slotPa b.base (b.c.toNat + f.need.toNat - 1)
/-- The accesses of STQ to the page `l`. -/
def stqStores (s : State) (a : Actor) (f : LdqF) (l : Leaf) (b : Queue) : List Access :=
  slotUnits l (a.ea f.m) (slotSize b.sz) (fun i => .store (readBytes s (stqSlot b f + 16 * i) 16))

theorem exec_stq (h : f.sh = false) : exec (.stq f) s = accessOp s f.g (fun a =>
    let us : List QUse := [{ q := f.q, need := f.need.toNat, produce := false }]
    (queuesLegal s a us).bind (fun _ =>
      (released s a f.ord.isSome).bind (fun _ =>
        let size := slotSize (a.queue s f.q).sz
        let va := a.ea f.m
        match planOne s a va size size .wr false ruleAny with
        | .error e => planFail s a e
        | .ok x =>
          (queuesReady s a us).bind (fun _ =>
            (queueBytes s a f.q f.need.toNat 0 size).bind (fun b =>
              let xs := releaseFirst f.ord.isSome (slotUnits x va size (fun i => .store ((b.drop (16 * i)).take 16)))
              (storeReady s a xs).bind (fun _ => (storeNow s a xs).map Res.next)))))) := by
  change execStq f s = _
  rw [execStq, shadowableMem, h]
  rfl

/-- A slot that an access-side instruction takes from memory without poison. -/
theorem queueBytes_slot (h : AtSlot s a) (hs : a.spec s = none) {q : Fin 16} {b : Queue}
    (hb : (s.core a.core).queues.get q = b) {need n : Nat}
    (hp : s.poisoned (b.slotPa b.base (b.c.toNat + need - 1)) n = none) :
    queueBytes s a q need 0 n = .ok (readBytes s (b.slotPa b.base (b.c.toNat + need - 1)) n) := by
  have ht : a.taken q need = none := by rw [Actor.taken, h.2]; rfl
  rw [queueBytes, ht]
  simp only [queue_of_spec_none hs, hb, Queue.operandPa, Bool.false_eq_true, if_false, Nat.add_zero, hp, Option.isSome_none,
    specBuf_of_none hs, overlay_nil]

theorem slotUnits_congr (l : Leaf) (va : Word) (size : Nat) {op op' : Nat → AccessOp} (h : ∀ i < size / 16, op i = op' i) :
    slotUnits l va size op = slotUnits l va size op' :=
  List.map_congr_left fun i hi => by rw [h i (List.mem_range.mp hi)]

theorem stq_completes (h : Runs s a f.g) (hsh : f.sh = false) (hs : Settled s a) {b : Queue}
    (hb : (s.core a.core).queues.get f.q = b)
    (hq : queuesReady s a [{ q := f.q, need := f.need.toNat, produce := false }] = .ok ())
    (hr : released s a f.ord.isSome = .ok ())
    (hp : planOne s a (a.ea f.m) (slotSize b.sz) (slotSize b.sz) .wr false ruleAny = .ok l)
    (hpo : s.poisoned (stqSlot b f) (slotSize b.sz) = none) (hx : ∀ x ∈ stqStores s a f l b, AtHome s a x) :
    CompletesStores (.stq f) s a (stqStores s a f l b) (s.core a.core) (nextSlot a.x a.pc) := by
  have hunits : slotUnits l (a.ea f.m) (slotSize b.sz)
      (fun i => .store (((readBytes s (stqSlot b f) (slotSize b.sz)).drop (16 * i)).take 16)) = stqStores s a f l b :=
    slotUnits_congr _ _ _ fun i hi => by rw [readBytes_drop_take _ _ (by omega)]
  have hop : ∀ x ∈ stqStores s a f l b, ∃ d, x.op = .store d := by
    intro x hm
    obtain ⟨i, -, rfl⟩ := List.mem_map.mp hm
    exact ⟨_, rfl⟩
  have hxs : ∀ x ∈ releaseFirst f.ord.isSome (stqStores s a f l b), (∃ d, x.op = .store d) ∧ AtHome s a x :=
    releaseFirst_forall (P := fun x => (∃ d, x.op = .store d) ∧ AtHome s a x) (fun _ _ h => h)
      (fun x hm => ⟨hop x hm, hx x hm⟩) _
  have hready := storeReady_ok hs.1 (fun x hm => ⟨by obtain ⟨⟨d, hd⟩, -⟩ := hxs x hm; rw [hd]; rfl, (hxs x hm).2⟩)
  obtain ⟨t, ht, hl, hm⟩ := storeNow_own h.1 hs.1 hxs
  rw [releaseFirst_effect] at hm
  refine completesStores_of_body (t := t) (exec_stq hsh) h ?_ hl hm
  have hbytes := queueBytes_slot h.1 hs.1 hb hpo
  rw [← stqSlot] at hbytes
  simp only [(queuesReady_iff.mp hq).1, hr, queue_of_spec_none hs.1, hb, hp, hq, hbytes, Except.bind, hunits, hready, ht, Except.map]

end

/-! ### VGATH.bc (15 R318) -/

section
variable {s t : State} {a : Actor} {f : VgathBcF}

/-- The entries of VGATH.bc, its address for one, and how many it takes. -/
def bcEntry (a : Actor) (f : VgathBcF) (j : Nat) : Nat := lane 32 (a.x.v.get f.b) j
def bcVa (a : Actor) (f : VgathBcF) (j : Nat) : Word :=
  a.eaBase f.m + BitVec.ofNat 72 (bcEntry a f j * 2 ^ bits (a.sr.get f.c) 32 6)
def bcCount (a : Actor) (f : VgathBcF) : Nat := min (bits (a.sr.get f.c) 0 32) 4
/-- The use that VGATH.bc makes of its queue. -/
def bcUse (a : Actor) (f : VgathBcF) : List QUse :=
  [{ q := f.q, need := f.need.toNat + bcCount a f - 1, produce := true }]
/-- The checks of one block of `z` bytes. -/
def bcPlan (s : State) (a : Actor) (f : VgathBcF) (z j : Nat) : Except PlanErr Access :=
  (planOne s a (bcVa a f j) z z .rd true ruleAny).map (fun x => mkAccess x (bcVa a f j) (.load z none))

theorem exec_vgathBc (h : f.sh = false) : exec (.vgathBc f) s = accessOp s f.g (fun a =>
    (queuesLegal s a (bcUse a f)).bind (fun _ =>
      if bits (a.sr.get f.c) 32 6 < 6 ∨ 30 < bits (a.sr.get f.c) 32 6 ∨ bits (a.sr.get f.c) 38 34 ≠ 0 then
        trapAt s cGatherBounds 0
      else if bcCount a f = 0 then R.next s
      else if (List.range (bcCount a f)).any (fun j => bcEntry a f j == 0xFFFFFFFF) then trapAt s cGatherBounds 0
      else
        (queuesReady s a (bcUse a f)).bind (fun _ =>
          (loadPlan s a (planList (bcPlan s a f (slotSize (a.queue s f.q).sz)) (List.range (bcCount a f)))).bind (fun r =>
            (queueRoom r.1 a (bcCount a f * (slotSize (a.queue s f.q).sz / 16))).map (fun _ =>
              .next (r.2.zipIdx.foldl (fun st d => fillSlot st a f.q (f.need.toNat + d.2) d.1) r.1)))))) := by
  change execVgathBc f s = _
  rw [execVgathBc, shadowableMem, h]
  rfl

/-- A plan without a cause has an access for each of its elements. -/
theorem planList_length {g : Nat → Except PlanErr Access} {l : List Nat} {xs : List Access} (h : planList g l = (xs, none)) :
    xs.length = l.length := by
  induction l generalizing xs with
  | nil => cases h; rfl
  | cons i l ih =>
    rw [planList] at h
    split at h
    · cases h
    · obtain ⟨rfl, h2⟩ := Prod.mk.inj h
      exact congrArg (· + 1) (ih (Prod.ext rfl h2))

/-- What VGATH.bc meets before its accesses, once its queue is legal. -/
theorem vgathBc_bounds (h : Runs s a f.g) (hsh : f.sh = false) (hq : queuesLegal s a (bcUse a f) = .ok ())
    (hb : bits (a.sr.get f.c) 32 6 < 6 ∨ 30 < bits (a.sr.get f.c) 32 6 ∨ bits (a.sr.get f.c) 38 34 ≠ 0 ∨
      ∃ j < bcCount a f, bcEntry a f j = 0xFFFFFFFF) : Traps (.vgathBc f) s a cGatherBounds 0 := by
  refine (exec_vgathBc hsh).trans (accessOp_traps h ?_)
  simp only [hq, Except.bind]
  by_cases hw : bits (a.sr.get f.c) 32 6 < 6 ∨ 30 < bits (a.sr.get f.c) 32 6 ∨ bits (a.sr.get f.c) 38 34 ≠ 0
  · rw [if_pos hw]
  · obtain ⟨j, hj, he⟩ : ∃ j < bcCount a f, bcEntry a f j = 0xFFFFFFFF := by tauto
    rw [if_neg hw, if_neg (by omega), if_pos (List.any_eq_true.mpr ⟨j, List.mem_range.mpr hj, by rw [he]; rfl⟩)]

variable (hw : 6 ≤ bits (a.sr.get f.c) 32 6 ∧ bits (a.sr.get f.c) 32 6 ≤ 30 ∧ bits (a.sr.get f.c) 38 34 = 0)
include hw

theorem vgathBc_empty (h : Runs s a f.g) (hsh : f.sh = false) (hq : queuesLegal s a (bcUse a f) = .ok ())
    (hm : bcCount a f = 0) : Completes (.vgathBc f) s a (s.core a.core) (nextSlot a.x a.pc) := by
  rw [Completes, exec_vgathBc hsh]
  refine accessOp_completes h ?_ h.1.leaves
  simp only [hq, Except.bind]
  rw [if_neg (by omega), if_pos hm]
  rfl

/-- VGATH.bc whose blocks are read fills a slot with each. -/
theorem vgathBc_body (h : Runs s a f.g) (hsh : f.sh = false) (hs : Settled s a) {z : Nat} {xs : List Access}
    (hz : z = slotSize ((s.core a.core).queues.get f.q).sz) (hm : 0 < bcCount a f)
    (he : ∀ j < bcCount a f, bcEntry a f j ≠ 0xFFFFFFFF) (hq : queuesReady s a (bcUse a f) = .ok ())
    (hp : planList (bcPlan s a f z) (List.range (bcCount a f)) = (xs, none)) (hx : ∀ x ∈ xs, IsLoad x ∧ Readable s a x) :
    ∃ body, exec (.vgathBc f) s = accessOp s f.g body ∧ body a = .ok (.next
      (slotsFilled s a f.q f.need.toNat (fun j => (xs[j]?.map (dataAt s)).getD []) (bcCount a f))) := by
  refine ⟨_, exec_vgathBc hsh, ?_⟩
  subst hz
  have hlen : xs.length = bcCount a f := (planList_length hp).trans List.length_range
  have hload : loadPlan s a (xs, none) = .ok (s, xs.map (dataAt s)) := by
    rw [loadPlan, prog_of_settled h.1 hs]
    exact loadAll_readable h.1 hs hx none
  have hfold : (xs.map (dataAt s)).zipIdx.foldl (fun st d => fillSlot st a f.q (f.need.toNat + d.2) d.1) s =
      slotsFilled s a f.q f.need.toNat (fun j => (xs[j]?.map (dataAt s)).getD []) (bcCount a f) := by
    rw [zipIdx_foldl_eq_range _ [], List.length_map, hlen]
    simp only [slotsFilled, List.getD_eq_getElem?_getD, List.getElem?_map]
  have hany : ¬ (List.range (bcCount a f)).any (fun j => bcEntry a f j == 0xFFFFFFFF) = true := by
    rw [List.any_eq_true]
    rintro ⟨j, hj, hej⟩
    exact he j (List.mem_range.mp hj) (beq_iff_eq.mp hej)
  simp only [(queuesReady_iff.mp hq).1, hq, Except.bind, queue_of_spec_none hs.1, hp, hload, queueRoom, hs.1, Except.map, hfold]
  rw [if_neg (by omega), if_neg hm.ne', if_neg hany]

theorem vgathBc_fills (h : Runs s a f.g) (hsh : f.sh = false) (hs : Settled s a) {b : Queue} {xs : List Access}
    (hb : (s.core a.core).queues.get f.q = b) (hd : b.dir ≠ 2) (h0 : 0 < f.need.toNat) (hm : 0 < bcCount a f)
    (he : ∀ j < bcCount a f, bcEntry a f j ≠ 0xFFFFFFFF) (hq : queuesReady s a (bcUse a f) = .ok ())
    (hp : planList (bcPlan s a f (slotSize b.sz)) (List.range (bcCount a f)) = (xs, none)) (hx : ∀ x ∈ xs, Readable s a x) :
    ∃ t, exec (.vgathBc f) s = .next t ∧
      LeavesMem s t a (countSlot (((List.range (bcCount a f)).map (fun j => b.producePa (f.need.toNat + j))).foldl untagged
        (s.core a.core)) a.k) (nextSlot a.x a.pc) ∧
      (∀ j < bcCount a f, ∀ i < slotSize b.sz, t.byte (b.producePa (f.need.toNat + j) + i) =
        ((xs[j]?.map (dataAt s)).getD []).getD i 0) ∧
      ∀ q, (∀ j < bcCount a f, q < b.producePa (f.need.toNat + j) ∨ b.producePa (f.need.toNat + j) + slotSize b.sz ≤ q) →
        t.byte q = s.byte q := by
  have hop : ∀ x ∈ xs, x.op = .load (slotSize b.sz) none := by
    have := planList_forall (f := bcPlan s a f (slotSize b.sz)) (P := fun x => x.op = .load (slotSize b.sz) none)
      (fun i x hx => by obtain ⟨l, -, rfl⟩ := except_map_eq_ok hx; rfl) (List.range (bcCount a f))
    rwa [hp] at this
  have hdata : ∀ j < bcCount a f, ((xs[j]?.map (dataAt s)).getD []).length = slotSize b.sz := by
    intro j hj
    have hlen : xs.length = bcCount a f := (planList_length hp).trans List.length_range
    rw [List.getElem?_eq_getElem (hlen ▸ hj), Option.map_some, Option.getD_some, dataAt, hop _ (List.getElem_mem _)]
    exact readBytes_length _ _ _
  have hroom : bcCount a f ≤ b.nslot := by
    have hmet := (queuesReady_iff.mp hq).2 { q := f.q, need := f.need.toNat + bcCount a f - 1, produce := true }
      (by simp [bcUse, Actor.open])
    simp only [Queue.met, queue_of_spec_none hs.1, hb, if_true, Bool.and_eq_true, decide_eq_true_eq, Queue.free] at hmet
    omega
  obtain ⟨body, hi, hbody⟩ := vgathBc_body hw h hsh hs (by rw [hb]) hm he hq hp
    (fun x hmem => ⟨⟨_, _, hop x hmem⟩, hx x hmem⟩)
  obtain ⟨hl, hin, hout⟩ := slotsFilled_leaves (q := f.q) (need := f.need.toNat) (h.1.leaves.writes (.refl s)) hs.1 hb hd h0 hroom
    hdata
  obtain ⟨t, ht, htl, htm⟩ := accessOp_writes h hbody hl
  exact ⟨t, hi.trans ht, htl, fun j hj i hij => (byte_of_mem htm _).trans (hin j hj i hij),
    fun q hqq => (byte_of_mem htm _).trans (hout q hqq)⟩

end

/-- The slots of VGATH.bc, counted from the first. -/
theorem producePa_add (b : Queue) {need : Nat} (h : 0 < need) (j : Nat) :
    b.producePa (need + j) = b.slotPa b.base (b.p.toNat + need - 1 + j) := by
  rw [Queue.producePa]
  congr 1
  omega

/-- Settles O19: LDQ fills one slot of its own ring or sends it to the peer (`ldq_own`, `ldq_outbound`), STQ performs the stores
of its slot's units (`stq_completes`), and VGATH.bc fills slots of one ring that do not meet (`vgathBc_fills`). -/
theorem queueMemory : Obligations.QueueMemory := by
  unfold Obligations.QueueMemory
  intro s a hs co
  refine ⟨fun f l h hsh _ hd => ldq_own h hsh hs rfl hd, fun f l h hsh hd => ldq_outbound h hsh hs rfl hd,
    fun f l h hsh _ => stq_completes h hsh hs rfl, fun f xs h hsh h0 hd => ?_⟩
  intro b z w m entry va slot hl
  refine ⟨vgathBc_bounds h hsh hl, fun h6 h30 h38 he => ⟨vgathBc_empty ⟨h6, h30, h38⟩ h hsh hl, fun hm hq hp hx => ?_⟩⟩
  have := vgathBc_fills ⟨h6, h30, h38⟩ h hsh hs rfl hd h0 hm he hq hp hx
  simp only [producePa_add _ h0] at this
  exact this

end Sys2Proof.Machine
end

section
/-! Appends of engine commands: what an append leaves, and the checks before it (15 R327, R328, R331 to R335; 20 R422 to R424). -/

namespace Sys2Proof.Machine

/-! ### What the tables of a package depend on -/

section
variable {s u : State}

/-- A walk reads memory, and the access tables and seals of the packages (07 R149, R156). -/
theorem walk_of_tables (hm : u.mem = s.mem) (hp : u.packages = s.packages) (p : Nat) (part : BitVec 6) (va : Word) :
    u.walk p part va = s.walk p part va := by
  have hk : ∀ q, u.pkg q = s.pkg q := fun q => by rw [State.pkg, hp, State.pkg]
  have ha : ∀ level entry, walkerAdmits u part level entry = walkerAdmits s part level entry := fun level entry => by
    simp only [walkerAdmits, State.admits, State.tableAdmits, State.rights, hk]
  have hs : ∀ entry lo hi, u.sealOk p entry lo hi = s.sealOk p entry lo hi := fun entry lo hi => by
    simp only [State.sealOk, hk]
  have hw : ∀ n table, walkFrom u p part va n table = walkFrom s p part va n table := by
    intro n
    induction n with
    | zero => intro table; simp only [walkFrom, readD_of_mem hm, ha, hs]
    | succ n ih => intro table; simp only [walkFrom, readD_of_mem hm, ha, hs, ih]
  rw [State.walk, hw, State.walk]

theorem copyGeo_of_tables (hm : u.mem = s.mem) (hp : u.packages = s.packages) (p : Nat) (part : BitVec 6) (op : EngineOp) :
    copyGeo u p part op = copyGeo s p part op := by
  have hf : ∀ va n, firstPage u p part va n = firstPage s p part va n := fun va n => by
    simp only [firstPage, walk_of_tables hm hp]
  simp only [copyGeo, hf]

end

/-! ### The append (15 R327) -/

section
variable {s t : State} {a : Actor} {x : Command}

/-- A command with its engine's next sequence number. -/
def Command.numbered (x : Command) (s : State) : Command := { x with seq := nextSeq ((s.core x.core).engSeq.get x.eng) }
/-- The ranges of a command are known, and the lock table of its cluster has room for them. -/
def lockRoom (s : State) (y : Command) : Bool :=
  rangesKnown s y && decide ((s.cluster (clOf y.core)).locks.length + (rangesOf s y).length ≤ 64)
/-- The lock of one range of a command. -/
def Command.lock (y : Command) (r : Nat × Nat × Bool) : RangeLock :=
  { part := y.part, lo := r.1, hi := r.2.1, dst := r.2.2, core := y.core, eng := y.eng, seq := y.seq, retained := false }
/-- The locks that a command registers at its append. -/
def newLocks (s : State) (y : Command) : List RangeLock := if lockRoom s y then (rangesOf s y).map y.lock else []

/-- What an append makes of its core and its cluster. -/
def appendCore (s : State) (x : Command) (co : Core) : Core :=
  { co with
    engSeq := co.engSeq.set x.eng (x.numbered s).seq
    staging := co.staging ++ [{ x.numbered s with registered := lockRoom s (x.numbered s) }] }
structure Appended (s t : State) (x : Command) : Prop where
  core : t.core x.core = appendCore s x (s.core x.core)
  others : ∀ c, c ≠ x.core → t.core c = s.core c
  locks : (t.cluster (clOf x.core)).locks = (s.cluster (clOf x.core)).locks ++ newLocks s (x.numbered s)
  mem : t.mem = s.mem

theorem Appended.keepsStrands (h : Appended s t x) : KeepsStrands s t := by
  intro c
  by_cases hc : c = x.core
  · subst hc
    rw [h.core]
    exact ⟨rfl, rfl⟩
  · rw [h.others c hc]
    exact ⟨rfl, rfl⟩

/-- The sequence number that an append counts is none of what its ranges depend on. -/
theorem rangesOf_numbered (s : State) (x y : Command) (e : Vector (BitVec 32) 4) :
    rangesOf (s.modCore x.core (fun co => { co with engSeq := e })) y = rangesOf s y ∧
      rangesKnown (s.modCore x.core (fun co => { co with engSeq := e })) y = rangesKnown s y := by
  have hr : ∀ c, ((s.modCore x.core (fun co => { co with engSeq := e })).core c).retained = (s.core c).retained := fun c => by
    rw [State.modCore_core]
    split
    · next h => rw [h]
    · rfl
  have hg := copyGeo_of_tables (s := s) (u := s.modCore x.core (fun co => { co with engSeq := e })) rfl rfl
  exact ⟨by simp only [rangesOf, retainedOf, hr, hg], by simp only [rangesKnown, retainedOf, hr]⟩

/-- An append while staging has room. -/
theorem appendCommand_appended (hl : (s.core x.core).staging.length < 32) (hx : x.registered = false) :
    ∃ t, appendCommand s x = some t ∧ Appended s t x := by
  have hfull : ¬ stagingLimit ≤ (s.core x.core).staging.length := Nat.not_le.mpr hl
  let u := s.modCore x.core (fun co => { co with engSeq := (s.core x.core).engSeq.set x.eng (x.numbered s).seq })
  have hu : s.modCore x.core (fun co => { co with engSeq := co.engSeq.set x.eng (x.numbered s).seq }) = u := rfl
  obtain ⟨hranges, hknown⟩ := rangesOf_numbered s x (x.numbered s) ((s.core x.core).engSeq.set x.eng (x.numbered s).seq)
  have heq : appendCommand s x =
      match (if rangesKnown u (x.numbered s) then registerRanges u (x.numbered s) else none) with
      | some v => some (v.modCore x.core (fun co => { co with staging := co.staging ++ [{ x.numbered s with registered := true }] }))
      | none => some (u.modCore x.core (fun co => { co with staging := co.staging ++ [x.numbered s] })) := by
    simp only [appendCommand, hfull, decide_false, Bool.false_eq_true, if_false, Option.bind_some]
    rfl
  have hreg : (if rangesKnown u (x.numbered s) then registerRanges u (x.numbered s) else none) =
      if lockRoom s (x.numbered s) then
        some (u.modCluster (clOf x.core) (fun c => { c with locks := c.locks ++ (rangesOf s (x.numbered s)).map (x.numbered s).lock }))
      else none := by
    rw [hknown, registerRanges, lockRoom]
    cases rangesKnown s (x.numbered s) with
    | false => rfl
    | true =>
      simp only [if_true, Bool.true_and, decide_eq_true_eq]
      rw [hranges]
      rfl
  have hs : ∀ (b : Bool), x.numbered s = { x.numbered s with registered := b } ∨ b = true := fun b => by
    cases b
    · left; rw [Command.numbered, ← hx]
    · right; rfl
  rw [heq, hreg]
  cases hr : lockRoom s (x.numbered s) with
  | false =>
    refine ⟨_, rfl, ?_, fun c hc => ?_, ?_, rfl⟩
    · simp only [State.modCore_core_self, appendCore, hr]
      rw [← (hs false).resolve_right (by decide)]
      simp only [u, State.modCore_core_self]
    · simp only [u, State.modCore_core, if_neg hc]
    · rw [newLocks, hr]
      exact (List.append_nil _).symm
  | true =>
    refine ⟨_, rfl, ?_, fun c hc => ?_, ?_, rfl⟩
    · simp only [State.modCore_core_self, appendCore, hr, State.modCluster_core, u]
    · simp only [u, State.modCore_core, if_neg hc, State.modCluster_core]
    · rw [newLocks, hr]
      simp only [State.modCore_cluster, State.modCluster_cluster_self, if_true, u]

theorem append_appended (hs : a.spec s = none) (hc : x.core = a.core) (hl : (s.core a.core).staging.length < 32)
    (hx : x.registered = false) : ∃ t, append s a x = R.next t ∧ Appended s t x := by
  obtain ⟨t, ht, hta⟩ := appendCommand_appended (hc.symm ▸ hl) hx
  refine ⟨t, ?_, hta⟩
  have hfull : ¬ (stagingLimit ≤ (s.core a.core).staging.length ∧ unordered s a = true) := fun h => Nat.not_le.mpr hl h.1
  rw [append, hs, ht, if_neg hfull]
  rfl

end

/-! ### The slot of an append -/

section
variable {s t u : State} {a : Actor} {g : Guard} {body : Actor → R Res} {i : Instr} {x : Command} {y : Strand}

theorem leaves_self (h : t.strand a.core a.k = some y) : Leaves t t a (t.core a.core) y :=
  ⟨.of_cores (fun _ _ => rfl) rfl, fun _ _ _ => rfl, h, rfl⟩

/-- A slot whose meaning appends a command and changes its own strand to `y`. -/
theorem stages_of_leaves (hi : exec i s = accessOp s g body) (h : Runs s a g) (hc : x.core = a.core) (ht : Appended s t x)
    (hu : Leaves t u a (t.core a.core) y) (hb : body a = .ok (.next u)) : Stages i s a x y := by
  have hk := ht.keepsStrands
  have hcore := ht.core
  have hlocks := ht.locks
  rw [hc] at hcore hlocks
  obtain ⟨⟨hbyte, -, hv⟩, ho, hy, hvc⟩ := slotEnd h.2.2 hu
  refine ⟨_, hi.trans (accessOp_next h hb), fun j i hji => (ho j i hji).trans (hk.strand j i), hy,
    fun pa => (hbyte pa).trans (byte_of_mem ht.mem pa), ?_, ?_, ?_⟩
  · rw [hvc, hcore, appendCore, Command.numbered, hc]
    simp only [countSlot, lockRoom]
  · rw [hvc, hcore, appendCore, Command.numbered, hc]
    rfl
  · rw [hv, newLocks, lockRoom, Command.numbered, hc] at *
    exact hlocks

/-- A slot whose meaning is an append. -/
theorem stages_of_append (hi : exec i s = accessOp s g body) (h : Runs s a g) (hs : a.spec s = none)
    (hl : (s.core a.core).staging.length < 32) (hc : x.core = a.core) (hx : x.registered = false)
    (hb : body a = append s a x) : Stages i s a x a.x := by
  obtain ⟨t, ht, hta⟩ := append_appended hs hc hl hx
  exact stages_of_leaves hi h hc hta (leaves_self ((hta.keepsStrands.strand _ _).trans h.1.strand)) (hb.trans ht)

end

/-! ### Copies (15 R331 to R333) -/

section
variable {s : State} {a : Actor} {g : Guard} {body : Actor → R Res} {i : Instr} {k : Option (Fin 16)} {dst src : Word}
  {rows len ds ss : Nat}

/-- A copy's ranges (15 Table 15.6). -/
def copyRanges (s : State) (a : Actor) (dst src : Word) (rows len ds ss : Nat) : List (Nat × Nat × Bool) :=
  if rows * len = 0 then [] else
    [(src.toNat, src.toNat + (rows - 1) * ss + len, false),
     (dst.toNat, dst.toNat + (rows - 1) * ds +
       (copyGeo s (pkgOf a.core) (s.core a.core).part (.cpy dst src rows len ds ss)).drow, true)]

/-- The checks of a copy, in their order, and its append. -/
theorem copy_stages (hi : exec i s = accessOp s g body) (h : Runs s a g) (hs : a.spec s = none)
    (hl : (s.core a.core).staging.length < 32) (hb : body a = copyBody s a k dst src rows len ds ss) :
    let shape := len % 64 = 0 ∧ ds % 64 = 0 ∧ ss % 64 = 0 ∧ rows * len / 64 < 2 ^ 26
    (dst.toNat % 64 ≠ 0 → Traps i s a cMisaligned dst) ∧
    (dst.toNat % 64 = 0 → src.toNat % 64 ≠ 0 → Traps i s a cMisaligned src) ∧
    (dst.toNat % 64 = 0 → src.toNat % 64 = 0 → ¬ shape → Traps i s a cMisaligned 0) ∧
    (dst.toNat % 64 = 0 → src.toNat % 64 = 0 → shape → ∀ c, completionPair s a k = .ok c →
      Stages i s a (newCommand s a 0 c.1 c.2 (.cpy dst src rows len ds ss) (copyRanges s a dst src rows len ds ss)) a.x) := by
  have hshape : (len % 64 ≠ 0 ∨ ds % 64 ≠ 0 ∨ ss % 64 ≠ 0 ∨ maxUnits < rows * len / 64) ↔
      ¬ (len % 64 = 0 ∧ ds % 64 = 0 ∧ ss % 64 = 0 ∧ rows * len / 64 < 2 ^ 26) := by
    rw [maxUnits]
    omega
  refine ⟨fun hd => ?_, fun hd hsrc => ?_, fun hd hsrc hn => ?_, fun hd hsrc hsh c hc => ?_⟩
  · exact access_traps hi h (hb.trans (if_pos hd))
  · exact access_traps hi h (hb.trans (by rw [copyBody, if_neg (not_not.mpr hd), if_pos hsrc]))
  · exact access_traps hi h (hb.trans (by
      rw [copyBody, if_neg (not_not.mpr hd), if_neg (not_not.mpr hsrc), if_pos (hshape.mpr hn)]))
  · refine stages_of_append hi h hs hl rfl rfl (hb.trans ?_)
    rw [copyBody, if_neg (not_not.mpr hd), if_neg (not_not.mpr hsrc), if_neg (fun hn => hshape.mp hn hsh), hc]
    rfl

end

theorem exec_cpy {s : State} {f : CpyF} (h : f.sh = false) : exec (.cpy f) s = accessOp s f.g (fun a =>
    copyBody s a f.c (a.sr.get f.d) (a.sr.get f.a) 1 (a.sr.get f.b).toNat 0 0) := by
  change execCpy f s = _
  rw [execCpy, shadowableMem, h]
  rfl

theorem exec_cpy2d {s : State} {f : CpyF} (h : f.sh = false) : exec (.cpy2d f) s = accessOp s f.g (fun a =>
    copyBody s a f.c (a.sr.get f.d) (a.sr.get f.a) (bits (a.sr.get f.b) 32 32) (bits (a.sr.get f.b) 0 32)
      (bits (a.sr.get (f.b + 1)) 32 32) (bits (a.sr.get (f.b + 1)) 0 32)) := by
  change execCpy2d f s = _
  rw [execCpy2d, shadowableMem, h]
  rfl

theorem exec_replay {s : State} {f : ReplayF} (h : f.sh = false) : exec (.replay f) s = accessOp s f.g (fun a =>
    (completionPair s a f.c).bind (fun p =>
      append s a (newCommand s a 0 p.1 p.2 (.replay (BitVec.ofNat 32 (bits (a.sr.get f.a) 0 32))) []))) := by
  change execReplay f s = _
  rw [execReplay, shadowableMem, h]
  rfl

/-! ### CRED (15 R335) -/

section
variable {s : State} {a : Actor} {f : CredF}

/-- A CRED's command, with the number of its reduction on its fold, once its completion pair is read. -/
def credCommand (s : State) (a : Actor) (f : CredF) (c : Word × DWord) : Command :=
  let w := a.sr.get f.b
  let count := bits w 0 32
  let fold : Fin 16 := Fin.ofNat 16 (bits w 32 4)
  let dst := a.sr.get f.d
  let src := a.sr.get f.a
  let n := count * credSize f.fmt
  newCommand s a 3 c.1 c.2 (.cred f.op f.fmt dst src count fold (smGet 0 a.x.credRounds fold.val))
    (if count = 0 then [] else [(src.toNat, src.toNat + n, false), (dst.toNat, dst.toNat + n, true)])
/-- A strand that has counted one more reduction on a fold. -/
def countReduction (fold : Nat) (n : Nat) (y : Strand) : Strand := { y with credRounds := smPut y.credRounds fold n }

theorem exec_cred (h : f.sh = false) : exec (.cred f) s = accessOp s f.g (fun a =>
    let w := a.sr.get f.b
    let fold : Fin 16 := Fin.ofNat 16 (bits w 32 4)
    let n := bits w 0 32 * credSize f.fmt
    if !bit a.x.memb fold.val then trapAt s cFoldEjected 0
    else if (a.sr.get f.d).toNat % 64 ≠ 0 then trapAt s cMisaligned (a.sr.get f.d)
    else if (a.sr.get f.a).toNat % 64 ≠ 0 then trapAt s cMisaligned (a.sr.get f.a)
    else if n % 64 ≠ 0 ∨ maxUnits * 64 < n ∨ bits w 36 36 ≠ 0 then trapAt s cMisaligned 0
    else
      (completionPair s a f.c).bind (fun p => (append s a (credCommand s a f p)).map (fun r => match r with
        | .next t => .next (t.modStrand a.core a.k (countReduction fold.val (smGet 0 a.x.credRounds fold.val + 1)))
        | q => q))) := by
  change execCred f s = _
  rw [execCred, shadowableMem, h]
  rfl

theorem cred_stages (h : Runs s a f.g) (hsh : f.sh = false) (hs : a.spec s = none) (hl : (s.core a.core).staging.length < 32) :
    let w := a.sr.get f.b
    let fold : Fin 16 := Fin.ofNat 16 (bits w 32 4)
    let n := bits w 0 32 * credSize f.fmt
    (bit a.x.memb fold.val = false → Traps (.cred f) s a cFoldEjected 0) ∧
    (bit a.x.memb fold.val = true → (a.sr.get f.d).toNat % 64 ≠ 0 → Traps (.cred f) s a cMisaligned (a.sr.get f.d)) ∧
    (bit a.x.memb fold.val = true → (a.sr.get f.d).toNat % 64 = 0 → (a.sr.get f.a).toNat % 64 = 0 → n % 64 = 0 →
      n ≤ (2 ^ 26 - 1) * 64 → bits w 36 36 = 0 → ∀ c, completionPair s a f.c = .ok c →
      Stages (.cred f) s a (credCommand s a f c) (countReduction fold.val (smGet 0 a.x.credRounds fold.val + 1) a.x)) := by
  intro w fold n
  refine ⟨fun hm => ?_, fun hm hd => ?_, fun hm hd hsrc hn hmax hres c hc => ?_⟩
  · exact access_traps (exec_cred hsh) h (if_pos (by rw [hm]; rfl))
  · exact access_traps (exec_cred hsh) h (by rw [if_neg (by rw [hm]; decide), if_pos hd])
  · obtain ⟨t, ht, hta⟩ := append_appended (x := credCommand s a f c) hs rfl hl rfl
    refine stages_of_leaves (exec_cred hsh) h rfl hta
      ((leaves_self ((hta.keepsStrands.strand _ _).trans h.1.strand)).modStrand (countReduction fold.val _)) ?_
    rw [if_neg (by rw [hm]; decide), if_neg (not_not.mpr hd), if_neg (not_not.mpr hsrc),
      if_neg (by rintro (h' | h' | h'); exacts [h' hn, absurd hmax (Nat.not_le.mpr h'), h' hres]), hc]
    simp only [Except.bind, ht]
    rfl

end

/-! ### NBMV (20 R424) -/

section
variable {s : State} {a : Actor} {f : NbmvF}

theorem exec_nbmv : exec (.nbmv f) s = accessOp s f.g (fun a => noSpec s a (
    let d := a.sr.get f.d
    let v := a.sr.get f.a
    let b := a.sr.get f.b
    let rows := bits (a.sr.get (f.b + 1)) 32 32
    let len := bits (a.sr.get (f.b + 1)) 0 32
    if v.toNat % 64 ≠ 0 then trapAt s cMisaligned v
    else if d.toNat % 64 ≠ 0 then trapAt s cMisaligned d
    else if b.toNat % 2 ^ 16 ≠ 0 then trapAt s cMisaligned b
    else if len % 64 ≠ 0 ∨ len < 64 ∨ 65536 < len ∨ 2 ^ 24 < rows then trapAt s cMisaligned 0
    else
      (completionPair s a f.c).bind (fun c => append s a (newCommand s a 1 c.1 c.2 (.nbmv f.mf f.chk d v b rows len)
        ((v.toNat, v.toNat + len, false) :: (if rows = 0 then [] else [(d.toNat, d.toNat + 4 * rows, true)])))))) := rfl

theorem nbmv_stages (h : Runs s a f.g) (hs : a.spec s = none) (hl : (s.core a.core).staging.length < 32) :
    let d := a.sr.get f.d
    let v := a.sr.get f.a
    let b := a.sr.get f.b
    let rows := bits (a.sr.get (f.b + 1)) 32 32
    let len := bits (a.sr.get (f.b + 1)) 0 32
    (v.toNat % 64 ≠ 0 → Traps (.nbmv f) s a cMisaligned v) ∧
    (v.toNat % 64 = 0 → d.toNat % 64 ≠ 0 → Traps (.nbmv f) s a cMisaligned d) ∧
    (v.toNat % 64 = 0 → d.toNat % 64 = 0 → b.toNat % 2 ^ 16 ≠ 0 → Traps (.nbmv f) s a cMisaligned b) ∧
    (v.toNat % 64 = 0 → d.toNat % 64 = 0 → b.toNat % 2 ^ 16 = 0 → len % 64 = 0 → 64 ≤ len → len ≤ 65536 → rows ≤ 2 ^ 24 →
      ∀ c, completionPair s a f.c = .ok c →
      Stages (.nbmv f) s a (newCommand s a 1 c.1 c.2 (.nbmv f.mf f.chk d v b rows len)
        ((v.toNat, v.toNat + len, false) :: (if rows = 0 then [] else [(d.toNat, d.toNat + 4 * rows, true)]))) a.x) := by
  intro d v b rows len
  refine ⟨fun hv => ?_, fun hv hd => ?_, fun hv hd hb => ?_, fun hv hd hb hl64 hlo hhi hrows c hc => ?_⟩
  · exact access_traps exec_nbmv h ((noSpec_none hs _).trans (if_pos hv))
  · exact access_traps exec_nbmv h ((noSpec_none hs _).trans (by rw [if_neg (not_not.mpr hv), if_pos hd]))
  · exact access_traps exec_nbmv h ((noSpec_none hs _).trans (by
      rw [if_neg (not_not.mpr hv), if_neg (not_not.mpr hd), if_pos hb]))
  · refine stages_of_append exec_nbmv h hs hl rfl rfl ((noSpec_none hs _).trans ?_)
    rw [if_neg (not_not.mpr hv), if_neg (not_not.mpr hd), if_neg (not_not.mpr hb), if_neg (by omega), hc]
    rfl

end

/-! ### ATTN (20 R422, R423) -/

section
variable {s : State} {a : Actor} {f : AttnF} {l : Leaf}

/-- The address that word `w` of an attention descriptor at `va` names. -/
def attnAddr (va : Word) (w : DWord) : Word := setBits va 0 64 w.toNat
/-- The operation of ATTN, from the words of its descriptor. -/
def attnOp (s : State) (a : Actor) (f : AttnF) (word : Nat → DWord) : EngineOp :=
  let at_ := fun (i : Nat) => attnAddr (a.sr.get f.a) (word i)
  let cfg := (s.core a.core).attn
  .attn f.chk (at_ 0) (at_ 1) (at_ 2) (at_ 3) (at_ 4) (if word 5 = 0 then 0 else at_ 5) (bits (word 6) 32 6)
    (bits (word 6) 0 32) cfg.dh cfg.inp cfg.out cfg.scale
/-- Its ranges: the output, the log-sums, the queries, the page table. -/
def attnRanges (s : State) (a : Actor) (f : AttnF) (word : Nat → DWord) : List (Nat × Nat × Bool) :=
  let at_ := fun (i : Nat) => attnAddr (a.sr.get f.a) (word i)
  let cfg := (s.core a.core).attn
  let lse : Word := if word 5 = 0 then 0 else at_ 5
  let range := fun (x : Word) (n : Nat) (d : Bool) => if n = 0 then [] else [(x.toNat, x.toNat + n, d)]
  range (at_ 4) (32 * dhSize cfg.dh * attnOutBytes cfg.out) true ++ (if lse = 0 then [] else range lse 128 true) ++
    range (at_ 0) (32 * dhSize cfg.dh * mfBits (attnInFmt cfg.inp) / 8) false ++
    range (at_ 3) (4 * ((bits (word 6) 0 32 + 31) / 32)) false
/-- ATTN once its descriptor is read. -/
def attnBody (s : State) (a : Actor) (f : AttnF) (word : Nat → DWord) : R Res :=
  match [0, 1, 2, 4, 5].find? (fun i => (word i).toNat % 64 ≠ 0) with
  | some i => trapAt s cMisaligned (attnAddr (a.sr.get f.a) (word i))
  | none =>
    if (word 3).toNat % 16 ≠ 0 then trapAt s cMisaligned (attnAddr (a.sr.get f.a) (word 3))
    else if bits (word 6) 32 6 < 6 ∨ 30 < bits (word 6) 32 6 ∨ bits (word 6) 38 26 ≠ 0 ∨ word 7 ≠ 0 then trapAt s cGatherBounds 0
    else
      (completionPair s a f.c).bind (fun c =>
        append s a (newCommand s a 2 c.1 c.2 (attnOp s a f word) (attnRanges s a f word)))

theorem exec_attn : exec (.attn f) s = accessOp s f.g (fun a => noSpec s a (
    (loadPlan s a (onePlan ((planOne s a (a.sr.get f.a) 64 64 .rd false ruleAny).map (fun x =>
      mkAccess x (a.sr.get f.a) (.load 64 none))))).bind (fun r =>
        attnBody r.1 a f (fun i => BitVec.ofNat 64 (leVal ((r.2.flatten.drop (8 * i)).take 8)))))) := rfl

/-- The eight words of a descriptor are all that ATTN takes of it. -/
theorem attnBody_congr {word word' : Nat → DWord} (h : ∀ i < 8, word i = word' i) :
    attnBody s a f word = attnBody s a f word' := by
  have h0 := h 0 (by decide)
  have h1 := h 1 (by decide)
  have h2 := h 2 (by decide)
  have h3 := h 3 (by decide)
  have h4 := h 4 (by decide)
  have h5 := h 5 (by decide)
  have h6 := h 6 (by decide)
  have h7 := h 7 (by decide)
  have hf : ∀ l : List Nat, (∀ i ∈ l, i < 8) →
      (l.find? (fun i => decide ((word i).toNat % 64 ≠ 0)) = l.find? (fun i => decide ((word' i).toNat % 64 ≠ 0)) ∧
        ∀ i, l.find? (fun i => decide ((word' i).toNat % 64 ≠ 0)) = some i → word i = word' i) := fun l hl =>
    ⟨List.find?_congr fun i hi => by rw [h i (hl i hi)], fun i hi => h i (hl i (List.mem_of_find?_eq_some hi))⟩
  obtain ⟨he, hi⟩ := hf [0, 1, 2, 4, 5] (by decide)
  simp only [attnBody, attnOp, attnRanges, he, h0, h3, h4, h5, h6, h7, h1, h2]
  split
  · next i hs => rw [hi i hs]
  · rfl

/-- The word `i` of the descriptor at `va`, as memory holds it. -/
def attnWord (s : State) (l : Leaf) (va : Word) (i : Nat) : DWord := BitVec.ofNat 64 (readU s (l.pa va + 8 * i) 8)

/-- ATTN whose descriptor is read. -/
theorem attn_body (h : Runs s a f.g) (hs : Settled s a) (hp : planOne s a (a.sr.get f.a) 64 64 .rd false ruleAny = .ok l)
    (hx : Readable s a (mkAccess l (a.sr.get f.a) (.load 64 none))) :
    ∃ body, exec (.attn f) s = accessOp s f.g body ∧ body a = attnBody s a f (attnWord s l (a.sr.get f.a)) := by
  refine ⟨_, exec_attn, ?_⟩
  have hload : loadPlan s a (onePlan (.ok (mkAccess l (a.sr.get f.a) (.load 64 none)))) =
      .ok (s, [readBytes s (l.pa (a.sr.get f.a)) 64]) := by
    rw [loadPlan, prog_of_settled h.1 hs]
    exact loadAll_readable h.1 hs (List.forall_mem_singleton.mpr ⟨⟨_, _, rfl⟩, hx⟩) none
  have hplan : (planOne s a (a.sr.get f.a) 64 64 .rd false ruleAny).map (fun x => mkAccess x (a.sr.get f.a) (.load 64 none)) =
      .ok (mkAccess l (a.sr.get f.a) (.load 64 none)) := by rw [hp]; rfl
  rw [noSpec_none hs.1, hplan, hload]
  simp only [Except.bind]
  refine attnBody_congr fun i hi => ?_
  simp only [List.flatten_cons, List.flatten_nil, List.append_nil]
  rw [readBytes_drop_take _ _ (by omega)]
  rfl

theorem attn_stages (h : Runs s a f.g) (hs : Settled s a) (hl : (s.core a.core).staging.length < 32)
    (hp : planOne s a (a.sr.get f.a) 64 64 .rd false ruleAny = .ok l)
    (hx : Readable s a (mkAccess l (a.sr.get f.a) (.load 64 none))) {word : Nat → DWord}
    (hw : attnWord s l (a.sr.get f.a) = word) (h64 : ∀ i ∈ [0, 1, 2, 4, 5], (word i).toNat % 64 = 0)
    (h16 : (word 3).toNat % 16 = 0) :
    ((bits (word 6) 32 6 < 6 ∨ 30 < bits (word 6) 32 6 ∨ bits (word 6) 38 26 ≠ 0 ∨ word 7 ≠ 0) →
      Traps (.attn f) s a cGatherBounds 0) ∧
    (6 ≤ bits (word 6) 32 6 → bits (word 6) 32 6 ≤ 30 → bits (word 6) 38 26 = 0 → word 7 = 0 →
      ∀ c, completionPair s a f.c = .ok c →
      Stages (.attn f) s a (newCommand s a 2 c.1 c.2 (attnOp s a f word) (attnRanges s a f word)) a.x) := by
  obtain ⟨body, hi, hb⟩ := attn_body h hs hp hx
  have hfind : [0, 1, 2, 4, 5].find? (fun i => decide ((word i).toNat % 64 ≠ 0)) = none :=
    List.find?_eq_none.mpr fun i hm => by simpa using h64 i hm
  rw [hw, attnBody, hfind] at hb
  simp only [h16, ne_eq, not_true, if_false] at hb
  refine ⟨fun hbad => access_traps hi h (hb.trans (if_pos hbad)), fun h6 h30 hres h7 c hc => ?_⟩
  refine stages_of_append hi h hs.1 hl rfl rfl (hb.trans ?_)
  rw [if_neg (by rintro (h' | h' | h' | h'); exacts [absurd h6 (Nat.not_le.mpr h'), absurd h30 (Nat.not_le.mpr h'), h' hres, h' h7]),
    hc]
  rfl

end

end Sys2Proof.Machine
end

section
/-! ESEQ, RLQ, ATTNCFG, MBIND and MUNBIND, and the engine instructions together (15 R329, R336, R337; 02 R70; 20 R421). -/

namespace Sys2Proof.Machine

/-! ### What the end of a command leaves of the cores (09 R193; 15 R330) -/

/-- The strands, the frames and the staged commands of every core are as they were. -/
def KeepsStaged (s t : State) : Prop := KeepsStrands s t ∧ ∀ c, (t.core c).staging = (s.core c).staging

namespace KeepsStaged

variable {s t u : State}

theorem refl (s : State) : KeepsStaged s s := ⟨.refl s, fun _ => rfl⟩
theorem trans (h : KeepsStaged s t) (h' : KeepsStaged t u) : KeepsStaged s u :=
  ⟨h.1.trans h'.1, fun c => (h'.2 c).trans (h.2 c)⟩
theorem of_cores (h : t.cores = s.cores) : KeepsStaged s t :=
  ⟨.of_cores h, fun c => by rw [State.core, h, State.core]⟩
theorem modCore (s : State) (c : Nat) {f : Core → Core}
    (h : ∀ x, (f x).strands = x.strands ∧ (f x).frames = x.frames ∧ (f x).staging = x.staging) :
    KeepsStaged s (s.modCore c f) := by
  refine ⟨.modCore s c fun x => ⟨(h x).1, (h x).2.1⟩, fun j => ?_⟩
  rw [State.modCore_core]
  split
  · next e => exact e ▸ (h _).2.2
  · rfl
theorem foldl {α : Type} {f : State → α → State} (h : ∀ s x, KeepsStaged s (f s x)) (l : List α) (s : State) :
    KeepsStaged s (l.foldl f s) :=
  foldl_stays (P := KeepsStaged s) (fun _ _ ht => ht.trans (h _ _)) l (refl s)

theorem countCore (s : State) (c code n : Nat) (part : Option (BitVec 6)) : KeepsStaged s (s.countCore c code n part) :=
  modCore s c fun _ => ⟨rfl, rfl, rfl⟩

theorem countDenial (s : State) (pa : Nat) (part : BitVec 6) : KeepsStaged s (s.countDenial pa part) := by
  rw [State.countDenial]
  split
  · exact countCore _ _ _ _ _
  · split
    · exact countCore _ _ _ _ _
    · exact of_cores rfl
  · exact of_cores rfl
  · exact of_cores rfl
  · exact of_cores rfl
  · exact refl s

theorem routineWrite (s : State) (id : Ident) (c slot half : Nat) (v : DWord) :
    KeepsStaged s (routineWrite s id c slot half v) := by
  have hput : ∀ r, KeepsStaged s (s.setCore c { s.core c with routines := r }) := fun r =>
    modCore s c (f := fun co => { co with routines := r }) fun _ => ⟨rfl, rfl, rfl⟩
  rw [Machine.routineWrite]
  dsimp only
  split
  · split
    · exact of_cores rfl
    · exact hput _
  · split
    · exact of_cores rfl
    · exact hput _

theorem parkActWrite (s : State) (c : Nat) (v : DWord) : KeepsStaged s (s.modCore c (parkActWrite v)) :=
  modCore s c fun x => by
    rw [Machine.parkActWrite]
    split
    · split <;> exact ⟨rfl, rfl, rfl⟩
    · exact ⟨rfl, rfl, rfl⟩

theorem setSharedScale (s : State) (p pa : Nat) : KeepsStaged s (setSharedScale s p pa) := by
  rw [Machine.setSharedScale]
  split
  · exact of_cores rfl
  · exact refl s

/-- A word of control space that is written. -/
theorem ctlWrite {id : Ident} {pa : Nat} {v : DWord} (h : ctlWrite s id pa v = .done t) : KeepsStaged s t := by
  have hif : ∀ {c : Prop} [Decidable c] {u : State}, (if c then CtlResult.done u else .deny) = .done t → KeepsStaged s u →
      KeepsStaged s t := by
    intro c _ u he hu
    split at he
    · exact CtlResult.done.inj he ▸ hu
    · cases he
  rw [Machine.ctlWrite] at h
  split at h
  · dsimp only at h
    split at h
    · exact hif h (of_cores rfl)
    split at h
    · exact CtlResult.done.inj h ▸ routineWrite _ _ _ _ _ _
    split at h
    · exact hif h (parkActWrite _ _ _)
    split at h
    · exact hif h (modCore _ _ fun _ => ⟨rfl, rfl, rfl⟩)
    split at h
    · exact hif h (of_cores rfl)
    · exact CtlResult.done.inj h ▸ refl s
  · dsimp only at h
    split at h
    · exact hif h (of_cores rfl)
    split at h
    · exact hif h ((of_cores (writeD_cores _ _ _)).trans (setSharedScale _ _ _))
    · cases h
  · cases h

/-- What a store, performed or not, leaves. -/
def Done.Keeps (s : State) : Done → Prop
  | .ok t _ => KeepsStaged s t
  | .fail t _ _ => KeepsStaged s t
  | .refuse _ => True

theorem ctlStore (s : State) (id : Ident) (pa : Nat) (b : List Byte) (skip : Bool) (ws : List Nat) :
    Done.Keeps s (ctlStore s id pa b skip ws) := by
  have htrans : ∀ {u v : State} {d : Done}, KeepsStaged u v → Done.Keeps v d → Done.Keeps u d := by
    intro u v d huv hd
    cases d with
    | ok w _ => exact huv.trans hd
    | fail w _ _ => exact huv.trans hd
    | refuse _ => trivial
  induction ws generalizing s skip with
  | nil => exact refl s
  | cons w ws ih =>
    rw [Machine.ctlStore]
    split
    · exact ih s false
    split
    · trivial
    split
    · next hw => exact htrans (ctlWrite hw) (ih _ _)
    · exact countDenial _ _ _
    · trivial

theorem targetStore (s : State) (id : Ident) (pa : Nat) (geom2 : Bool) (b : List Byte) :
    Done.Keeps s (targetStore s id pa geom2 b) := by
  rw [Machine.targetStore]
  split
  · exact of_cores (writeBytes_cores _ _ _)
  · exact ctlStore _ _ _ _ _ _

theorem writeParts (s : State) (id : Ident) (ps : List (Nat × Bool × List Byte)) : KeepsStaged s (writeParts s id ps) :=
  foldl (fun u q => by
    have h := targetStore u id q.1 q.2.1 q.2.2
    split
    · next he => rwa [he] at h
    · exact refl u) ps s

theorem engPage (s : State) (u : Requester) (va : Word) (want : Right) : KeepsStaged s (engPage s u va want).1 := by
  rw [Machine.engPage]
  split
  · exact refl s
  · exact countDenial _ _ _
  dsimp only
  generalize (if want = .rd then _ else _) = ok
  split
  · exact refl s
  split
  · exact refl s
  split
  · split
    · exact refl s
    split <;> exact refl s
  split
  · exact refl s
  split
  · exact countDenial _ _ _
  split <;> exact refl s

theorem engCheck (s : State) (u : Requester) (va : Word) (b : List Byte) : KeepsStaged s (engCheck s u va b).1 := by
  refine foldl_stays (P := fun (acc : State × Option Code) => KeepsStaged s acc.1) (fun acc q hacc => ?_) _ (refl s)
  have hp := hacc.trans (engPage acc.1 u (BitVec.ofNat 72 q.1) .wr)
  dsimp only
  split
  · exact hacc
  split
  · exact hp
  · next l _ =>
    have hst := targetStore (Machine.engPage acc.1 u (BitVec.ofNat 72 q.1) .wr).1 u.id (l.pa (BitVec.ofNat 72 q.1)) l.geom2
      ((b.drop (q.1 - va.toNat)).take q.2)
    split
    · exact hp
    split
    · exact hp
    · next he =>
      rw [he] at hst
      exact hp.trans hst
    · exact hp

theorem commandFault (s : State) (x : Command) (status : Code) (va : Word) (sectors : List Nat) :
    KeepsStaged s (commandFault s x status va sectors) := of_cores (KeepsUnits.postFault _ _ _).1

theorem postCompletion (s : State) (x : Command) (status : Code) : KeepsStaged s (postCompletion s x status) := by
  have hword : KeepsStaged s (if x.comp = 0 then s else
      match (Machine.engCheck s x.who x.comp (leBytes 8 (completionWord x.seq status x.units).toNat)).2 with
      | some c => Machine.commandFault
          (Machine.engCheck s x.who x.comp (leBytes 8 (completionWord x.seq status x.units).toNat)).1 x c x.comp []
      | none => engWrite (Machine.engCheck s x.who x.comp (leBytes 8 (completionWord x.seq status x.units).toNat)).1 x.who
          x.comp (leBytes 8 (completionWord x.seq status x.units).toNat)) := by
    split
    · exact refl s
    split
    · exact (engCheck _ _ _ _).trans (commandFault _ _ _ _ _)
    · exact (engCheck _ _ _ _).trans (writeParts _ _ _)
  rw [Machine.postCompletion]
  dsimp only
  split
  · exact hword.trans (of_cores (postEvent_cores _ _ _))
  · exact hword.trans ((of_cores (postEvent_cores _ _ _)).trans (countCore _ _ _ _ _))

theorem credWithout (s : State) (x : Command) (status : Code) : KeepsStaged s (credWithout s x status) := by
  rw [Machine.credWithout]
  split
  · split
    · exact refl s
    · exact of_cores (send_cores _ _ _ _ _ _)
  · exact refl s

theorem endCommand (s : State) (x : Command) (status : Code) : KeepsStaged s (endCommand s x status) :=
  (credWithout s x status).trans ((of_cores rfl).trans (postCompletion _ x status))

theorem pageFaults (s : State) (g : CopyGeo) (x : Command) : KeepsStaged s (pageFaults s g x) :=
  foldl (fun u page => by
    rw [pageFault]
    split
    · exact commandFault _ _ _ _ _
    · exact refl u) _ s

theorem abandonCommand (s : State) (x : Command) (status : Code) : KeepsStaged s (abandonCommand s x status) := by
  rw [Machine.abandonCommand]
  split
  · dsimp only
    split
    · exact (commandFault _ _ _ _ _).trans (endCommand _ _ _)
    · exact (pageFaults _ _ _).trans (endCommand _ _ _)
  · exact (commandFault _ _ _ _ _).trans (endCommand _ _ _)

end KeepsStaged

/-! ### ESEQ (15 R329) -/

section
variable {s : State} {a : Actor} {f : EseqF}

theorem exec_eseq (h : f.sh = false) : exec (.eseq f) s = accessOp s f.g (fun a =>
    if (a.spec s).isSome then stall s a .other
    else if unordered s a then stall s a .fence
    else
      match publishStrand s a.core a.k (some f.eng) with
      | none => stall s a .locks
      | some s1 => R.next (setReg s1 a f.d (((s.core a.core).engSeq.get f.eng).setWidth 72))) := by
  change execEseq f s = _
  rw [execEseq, shadowableMem, h]
  rfl

/-- A core whose staging has command `x` no more. -/
def unstaged (x : Command) (co : Core) : Core :=
  { co with staging := co.staging.filter (fun q => !(q.eng == x.eng && q.seq == x.seq)) }
/-- A core with command `x` at the end of its engine's chain. -/
def chained (tick : Nat) (x : Command) (co : Core) : Core :=
  { co with chains := co.chains.set x.eng (co.chains.get x.eng ++ [{ x with pub := tick }]) }

/-- The staged commands that ESEQ publishes. -/
theorem publishStrand_eng (s : State) (c k : Nat) (e : Fin 4) :
    publishStrand s c k (some e) = publishList s ((s.core c).staging.filter (fun x => x.strand == k && x.eng == e)) := by
  have hp : ∀ x : Command, (x.strand == k && (some e).all (· == x.eng)) = (x.strand == k && x.eng == e) := fun x => by
    rw [Option.all_some, Bool.beq_comm (a := e)]
  simp only [publishStrand, hp]

/-- A registered command that moves data and is no replay joins its chain. -/
theorem publishList_one {x : Command} (hreg : x.registered = true) (hz : isZeroLength x = false) (hop : ∀ n, x.op ≠ .replay n) :
    publishList s [x] = some ((s.modCore x.core (unstaged x)).modCore x.core (chained s.tick x)) := by
  have hx : { x with registered := true } = x := by rw [← hreg]
  have hpub : ∀ u, publishOne u x = u.modCore x.core (chained u.tick x) := fun u => by
    rw [publishOne, hz, if_neg (by decide)]
    split
    · next n h => exact absurd h (hop n)
    · rfl
  simp only [publishList, hreg, if_true, hx, hpub]
  rfl

end

/-! ### RLQ (15 R336) -/

section
variable {s : State} {a : Actor}

theorem exec_rlqQuery {f : RlqQueryF} (h : f.sh = false) : exec (.rlqQuery f) s = accessOp s f.g (fun a =>
    R.next (setReg s a f.d (match lockAt (s.cluster (clOf a.core)) (s.core a.core).part (a.sr.get f.a).toNat with
      | some l => lockWord l
      | none => 0))) := by
  change execRlqQuery f s = _
  rw [execRlqQuery, shadowableMem, h]
  rfl

theorem lockWord_eq (l : RangeLock) : lockWord l =
    BitVec.ofNat 72 (l.seq.toNat * 2 ^ 32 + l.eng.val * 2 ^ 30 + b2n l.dst * 2 ^ 29 + b2n l.retained * 2 ^ 28 + 1) := by
  rw [lockWord, Nat.mod_eq_of_lt l.eng.isLt]

variable {f : RlqReleaseF}

theorem exec_rlqRelease (h : f.sh = false) : exec (.rlqRelease f) s = accessOp s f.g (fun a =>
    if (a.spec s).isSome then stall s a .other
    else
      R.next (setReg (releaseCommand s a.core f.eng (BitVec.ofNat 32 (bits (a.sr.get f.a) 0 32))).1 a f.d
        (if (releaseCommand s a.core f.eng (BitVec.ofNat 32 (bits (a.sr.get f.a) 0 32))).2 then 1 else 0))) := by
  change execRlqRelease f s = _
  rw [execRlqRelease, shadowableMem, h]
  rfl

variable {e : Fin 4} {seq : BitVec 32} {c : Nat} {x : Command}

/-- The command of an engine that a number names. -/
def Command.named (e : Fin 4) (seq : BitVec 32) (x : Command) : Bool := x.eng == e && x.seq == seq

theorem releaseCommand_absent (hs : (s.core c).staging.find? (Command.named e seq) = none)
    (hc : ((s.core c).chains.get e).find? (Command.named e seq) = none)
    (hr : (s.core c).retained.find? (Command.named e seq) = none) : releaseCommand s c e seq = (s, false) := by
  rw [releaseCommand]
  unfold Command.named at hs hc hr
  simp only [hs, hc, hr]

theorem releaseCommand_running (hs : (s.core c).staging.find? (Command.named e seq) = none)
    (hc : ((s.core c).chains.get e).find? (Command.named e seq) = some x) (hr : x.running = true) :
    releaseCommand s c e seq =
      match x.op with
      | .cred .. => (s, false)
      | _ => (s.modCore c (fun co => { co with chains := co.chains.set e ((co.chains.get e).map (fun q =>
          if q.named e seq then { q with stop := true } else q)) }), true) := by
  rw [releaseCommand]
  unfold Command.named at hs hc
  simp only [hs, hc, hr, if_true]
  rfl

theorem releaseCommand_staged (hs : (s.core c).staging.find? (Command.named e seq) = some x) :
    releaseCommand s c e seq = (abandonCommand
      (s.modCore c (fun co => { co with staging := co.staging.filter (fun q => !q.named e seq) })) x cAbandoned, true) := by
  rw [releaseCommand]
  unfold Command.named at hs
  simp only [hs]
  rfl

end

/-! ### ATTNCFG (20 R421) -/

theorem exec_attncfg {s : State} {f : AttncfgF} : exec (.attncfg f) s = accessOp s f.g (fun a =>
    noSpec s a (R.next (s.modCore a.core (fun c =>
      { c with attn := { dh := f.dh, inp := f.inp, out := f.out, scale := (a.sr.get f.a).setWidth 32 } })))) := rfl

/-! ### MBIND and MUNBIND (15 R337; 02 R70) -/

section
variable {s t u : State} {a : Actor} {co : Core} {y : Strand}

theorem exec_mbind {f : MbindF} : exec (.mbind f) s = accessOp s f.g (fun a =>
    if (a.spec s).isSome then stall s a .other
    else
      (ownMailbox s a (a.sr.get f.a)).bind (fun m =>
        match (s.mailbox a.core m).bind with
        | .pipeline _ _ => trapAt s cDeny (a.sr.get f.a)
        | _ => R.next ((s.mailbox a.core m).parked.foldl (fun st x => dispatchMail st a.core f.slot x)
            (setMailbox s a.core m { bind := .slot f.slot, parked := [] })))) := rfl

theorem exec_munbind {f : RegF} : exec (.munbind f) s = accessOp s f.g (fun a =>
    if (a.spec s).isSome then stall s a .other
    else
      (ownMailbox s a (a.sr.get f.a)).bind (fun m =>
        R.next (if (s.mailbox a.core m).bind = .none then s
          else setMailbox s a.core m { s.mailbox a.core m with bind := .none }))) := rfl

/-- A mailbox of the strand's own core, through a leaf that its translation finds. -/
theorem ownMailbox_of_leaf {va : Word} {l : Leaf} {cl pos ofs : Nat}
    (hl : strandLeaf s a.core (a.x.prio == 3) va true false false = .ok l) (hf : l.fmtOk = true)
    (hsite : siteOf (l.pa va) l.geom2 = .mailbox cl pos ofs) (hpos : pos < 16) (hc : cl * 16 + pos = a.core)
    (hsp : spaceOf va ≠ 0xC0) : ownMailbox s a va = .ok (ofs / 4096) := by
  have ht : translate s a va true false = .ok l := by simp only [translate, hl, hf, if_true]
  simp only [ownMailbox, ht, Except.bind, hsite, hpos, hc, true_and, if_pos hsp]

/-- Parked messages join their routine's queue, one start each, at a core that runs. -/
theorem Leaves.dispatchMail (h : Leaves s u a co y) (hh : co.halt = .none) (slot : BitVec 5) (l : List MailMsg) :
    ∃ co', Leaves s (l.foldl (fun st x => dispatchMail st a.core slot x) u) a co' y ∧ co'.mailboxes = co.mailboxes ∧
      (smGet Routine.reset co'.routines slot.toNat).queue.length =
        (smGet Routine.reset co.routines slot.toNat).queue.length + l.length := by
  induction l generalizing u co with
  | nil => exact ⟨co, h, rfl, rfl⟩
  | cons m l ih =>
    have hu : (u.core a.core).halt = .none := by rw [h.2.2.2]; exact hh
    have hm := h.modCore (fun co =>
      let r := smGet Routine.reset co.routines slot.toNat
      { co with routines := smPut co.routines slot.toNat { r with queue := r.queue ++
        [{ Start.plain u.now with
            s8 := zext72 (m.args.getD 0 0), s9 := zext72 (m.args.getD 1 0), s10 := zext72 (m.args.getD 2 0)
            s11 := zext72 (m.args.getD 3 0), s13 := m.s13, part := m.part }] } }) (fun _ _ => rfl)
    obtain ⟨co', hl', hmb, hq⟩ := ih hm hh
    refine ⟨co', ?_, hmb, ?_⟩
    · rw [List.foldl_cons, Machine.dispatchMail, queueStart, queueAt_of_running _ _ hu]
      exact hl'
    · rw [hq]
      simp only [smGet_smPut_self, List.length_append, List.length_cons, List.length_nil]
      omega

end

end Sys2Proof.Machine
end

section
/-! The engine instructions together (15 R327 to R337; 20 R421 to R424). -/

namespace Sys2Proof.Machine

section
variable {s : State} {a : Actor}

/-- A slot that does what `Completes` leaves out: changes beyond its own core, with its own strand alone changed. -/
theorem completes_only {i : Instr} {co : Core} {y : Strand} (h : Completes i s a co y) :
    ∃ t, exec i s = .next t ∧ OnlyStrand s t a.core a.k ∧ t.strand a.core a.k = some y ∧ (∀ pa, t.byte pa = s.byte pa) ∧
      t.core a.core = { countSlot co a.k with strands := (t.core a.core).strands } := by
  obtain ⟨t, ht, ⟨hb, -, -⟩, ho, hy, hc⟩ := h
  exact ⟨t, ht, ho, hy, hb, hc⟩

theorem eseq_settled {f : EseqF} (hs : a.spec s = none) (h : Runs s a f.g) (hsh : f.sh = false) (hu : unordered s a = false) :
    let co := s.core a.core
    let mine := co.staging.filter (fun x => x.strand == a.k && x.eng == f.eng)
    let y := nextSlot (withReg a.x f.d ((co.engSeq.get f.eng).setWidth 72)) a.pc
    (mine = [] → Completes (.eseq f) s a co y) ∧
    (∀ x, mine = [x] → x.core = a.core → x.registered = true → isZeroLength x = false → (∀ n, x.op ≠ .replay n) →
      Completes (.eseq f) s a (chained s.tick x (unstaged x co)) y) := by
  intro co mine y
  have hbody : ∀ {u : State}, publishList s mine = some u →
      (if (a.spec s).isSome then stall s a .other
        else if unordered s a then stall s a .fence
        else
          match publishStrand s a.core a.k (some f.eng) with
          | none => stall s a .locks
          | some s1 => R.next (setReg s1 a f.d ((co.engSeq.get f.eng).setWidth 72))) =
        R.next (setReg u a f.d ((co.engSeq.get f.eng).setWidth 72)) := by
    intro u hp
    rw [hs, hu, publishStrand_eng, hp]
    rfl
  refine ⟨fun hm => ?_, fun x hm hc hreg hz hop => ?_⟩
  · exact access_completes (exec_eseq hsh) h (hbody (u := s) (by rw [hm]; rfl)) (h.1.leaves.setReg h.1.2 f.d _)
  · refine access_completes (exec_eseq hsh) h (hbody (by rw [hm]; exact publishList_one hreg hz hop)) ?_
    rw [hc]
    exact ((h.1.leaves.modCore (unstaged x) fun _ _ => rfl).modCore (chained s.tick x) fun _ _ => rfl).setReg h.1.2 f.d _

theorem rlqRelease_settled {f : RlqReleaseF} (hs : a.spec s = none) (h : Runs s a f.g) (hsh : f.sh = false) :
    let co := s.core a.core
    let is := Command.named f.eng (BitVec.ofNat 32 (bits (a.sr.get f.a) 0 32))
    let y := fun (v : Word) => nextSlot (withReg a.x f.d v) a.pc
    (co.staging.find? is = none → (co.chains.get f.eng).find? is = none → co.retained.find? is = none →
      Completes (.rlqRelease f) s a co (y 0)) ∧
    (∀ x, co.staging.find? is = none → (co.chains.get f.eng).find? is = some x → x.running = true →
      let mark := (co.chains.get f.eng).map (fun q => if is q then { q with stop := true } else q)
      match x.op with
      | .cred .. => Completes (.rlqRelease f) s a co (y 0)
      | _ => Completes (.rlqRelease f) s a { co with chains := co.chains.set f.eng mark } (y 1)) ∧
    (∀ x, co.staging.find? is = some x → ∃ t, exec (.rlqRelease f) s = .next t ∧ OnlyStrand s t a.core a.k ∧
      t.strand a.core a.k = some (y 1) ∧ (t.core a.core).staging = co.staging.filter (fun q => !is q)) := by
  intro co is y
  have hbody : ∀ {r : State × Bool}, releaseCommand s a.core f.eng (BitVec.ofNat 32 (bits (a.sr.get f.a) 0 32)) = r →
      (if (a.spec s).isSome then stall s a .other
        else
          R.next (setReg (releaseCommand s a.core f.eng (BitVec.ofNat 32 (bits (a.sr.get f.a) 0 32))).1 a f.d
            (if (releaseCommand s a.core f.eng (BitVec.ofNat 32 (bits (a.sr.get f.a) 0 32))).2 then 1 else 0))) =
        R.next (setReg r.1 a f.d (if r.2 then 1 else 0)) := by
    intro r hr
    rw [hs, hr]
    rfl
  refine ⟨fun hst hch hre => ?_, fun x hst hch hr => ?_, fun x hst => ?_⟩
  · exact access_completes (exec_rlqRelease hsh) h (hbody (releaseCommand_absent hst hch hre)) (h.1.leaves.setReg h.1.2 f.d 0)
  · have hrel := releaseCommand_running hst hch hr
    split
    · next heq =>
      rw [heq] at hrel
      exact access_completes (exec_rlqRelease hsh) h (hbody hrel) (h.1.leaves.setReg h.1.2 f.d 0)
    · next hn =>
      split at hrel
      · next heq => exact absurd heq (hn _ _ _ _ _ _ _)
      · exact access_completes (exec_rlqRelease hsh) h (hbody hrel)
          ((h.1.leaves.modCore (fun q => { q with chains := q.chains.set f.eng ((q.chains.get f.eng).map (fun q =>
            if is q then { q with stop := true } else q)) }) fun _ _ => rfl).setReg h.1.2 f.d 1)
  · have hrel := releaseCommand_staged hst
    have hkeep := KeepsStaged.abandonCommand
      (s.modCore a.core (fun co => { co with staging := co.staging.filter (fun q => !is q) })) x cAbandoned
    have hk := (KeepsStrands.modCore s a.core (f := fun co => { co with staging := co.staging.filter (fun q => !is q) })
      fun _ => ⟨rfl, rfl⟩).trans hkeep.1
    obtain ⟨-, ho, hy, hc⟩ := slotEnd h.2.2 ((leaves_self ((hk.strand _ _).trans h.1.strand)).setReg h.1.2 f.d 1)
    refine ⟨_, (exec_rlqRelease hsh).trans (accessOp_next h (hbody hrel)), fun j i hji => (ho j i hji).trans (hk.strand j i), hy, ?_⟩
    exact (congrArg Core.staging hc).trans ((hkeep.2 a.core).trans (by rw [State.modCore_core_self]))

end

/-! ### MBIND and MUNBIND (15 R337) -/

section
variable {s : State} {a : Actor} {m : Nat}

/-- A core whose mailbox `m` is `b`. -/
def withMailbox (m : Nat) (b : Mailbox) (co : Core) : Core := { co with mailboxes := smPut co.mailboxes m b }

theorem mbind_slot {f : MbindF} (hs : a.spec s = none) (h : Runs s a f.g) (hh : (s.core a.core).halt = .none)
    (hm : ownMailbox s a (a.sr.get f.a) = .ok m) (hb : ∀ x y, (s.mailbox a.core m).bind ≠ .pipeline x y) :
    ∃ co', Completes (.mbind f) s a co' (nextSlot a.x a.pc) ∧
      co'.mailboxes = smPut (s.core a.core).mailboxes m { bind := .slot f.slot, parked := [] } ∧
      (smGet Routine.reset co'.routines f.slot.toNat).queue.length =
        (smGet Routine.reset (s.core a.core).routines f.slot.toNat).queue.length + (s.mailbox a.core m).parked.length := by
  obtain ⟨co', hl, hmb, hq⟩ := (h.1.leaves.modCore (withMailbox m { bind := .slot f.slot, parked := [] }) fun _ _ => rfl).dispatchMail hh
    f.slot (s.mailbox a.core m).parked
  refine ⟨co', access_completes exec_mbind h ?_ hl, hmb, hq⟩
  rw [hs, if_neg (by decide), hm]
  simp only [Except.bind]
  rfl

theorem mbind_pipeline {f : MbindF} (hs : a.spec s = none) (h : Runs s a f.g) (hm : ownMailbox s a (a.sr.get f.a) = .ok m)
    (hb : ∃ x y, (s.mailbox a.core m).bind = .pipeline x y) : Traps (.mbind f) s a cDeny (a.sr.get f.a) := by
  obtain ⟨x, y, hxy⟩ := hb
  refine access_traps exec_mbind h ?_
  rw [hs, if_neg (by decide), hm]
  simp only [Except.bind, hxy]

theorem munbind_settled {f : RegF} (hs : a.spec s = none) (h : Runs s a f.g) (hm : ownMailbox s a (a.sr.get f.a) = .ok m) :
    let b := s.mailbox a.core m
    (b.bind ≠ .none →
      Completes (.munbind f) s a (withMailbox m { b with bind := .none } (s.core a.core)) (nextSlot a.x a.pc)) ∧
    (b.bind = .none → Completes (.munbind f) s a (s.core a.core) (nextSlot a.x a.pc)) := by
  intro b
  refine ⟨fun hb => access_completes exec_munbind h ?_ (h.1.leaves.modCore (withMailbox m { b with bind := .none })
    fun _ _ => rfl), fun hb => access_completes exec_munbind h ?_ h.1.leaves⟩
  · rw [hs, if_neg (by decide), hm]
    simp only [Except.bind]
    rw [if_neg hb]
    rfl
  · rw [hs, if_neg (by decide), hm]
    simp only [Except.bind]
    rw [if_pos hb]
    rfl

end

/-! ### O29 -/

/-- Settles O29. The appends: each check in its order, then a slot that stages the command (`stages_of_append`). The rest: the
core that each leaves; a command that is released ends by an abandonment, which keeps strands and staging
(`KeepsStaged.abandonCommand`). -/
theorem engineInstructions : Obligations.EngineInstructions := by
  unfold Obligations.EngineInstructions
  refine ⟨fun s a hset hl => ⟨?_, ?_, ?_, ?_, ?_⟩, fun s a hs => ?_⟩
  · intro f h hsh dst src p q v hv
    simp only [List.mem_cons, List.not_mem_nil, or_false] at hv
    obtain rfl | rfl := hv
    · exact copy_stages (exec_cpy hsh) h hset.1 hl rfl
    · exact copy_stages (exec_cpy2d hsh) h hset.1 hl rfl
  · intro f h hsh c hc
    exact stages_of_append (exec_replay hsh) h hset.1 hl rfl rfl (by rw [hc]; rfl)
  · intro f h hsh
    exact cred_stages h hsh hset.1 hl
  · intro f h
    exact nbmv_stages h hset.1 hl
  · intro f l h va word at_ cfg lse out len hp hx h64 h16
    exact attn_stages h hset hl hp hx rfl h64 h16
  · intro co
    refine ⟨fun f h hsh hu => ?_, fun f h hsh => ?_, fun f h hsh => rlqRelease_settled hs h hsh, fun f h => ?_, ?_⟩
    · obtain ⟨hnone, hone⟩ := eseq_settled hs h hsh hu
      refine ⟨hnone, fun x hm hc hreg hz hop => ?_⟩
      obtain ⟨t, ht, ho, hy, hb, hco⟩ := completes_only (hone x hm hc hreg hz hop)
      have he : x.eng = f.eng := by
        have hx := List.mem_filter.mp (hm ▸ List.mem_singleton_self x)
        exact eq_of_beq (Bool.and_eq_true_iff.mp hx.2).2
      exact ⟨t, ht, ho, hy, by rw [hco]; simp only [← he]; rfl, by rw [hco]; rfl, hb⟩
    · refine access_completes (exec_rlqQuery hsh) h ?_ (h.1.leaves.setReg h.1.2 f.d _)
      simp only [lockWord_eq]
      rfl
    · exact access_completes exec_attncfg h (noSpec_none hs _) (h.1.leaves.modCore
        (fun c => { c with attn := { dh := f.dh, inp := f.inp, out := f.out, scale := (a.sr.get f.a).setWidth 32 } })
        fun _ _ => rfl)
    · intro f fu l cl pos ofs hh hf va m b hleaf hfmt hsite hpos hcore hsp
      have hm : ownMailbox s a va = .ok m := ownMailbox_of_leaf hleaf hfmt hsite hpos hcore hsp
      have hmu : ownMailbox s a (a.sr.get fu.a) = .ok m := hf ▸ hm
      refine ⟨fun h hb => ?_, fun h hb => mbind_pipeline hs h hm hb, fun h hb => ?_, fun h hb => (munbind_settled hs h hmu).2 hb⟩
      · obtain ⟨co', hcomp, hmb, hq⟩ := mbind_slot hs h hh hm hb
        obtain ⟨t, ht, ho, hy, hbyte, hco⟩ := completes_only hcomp
        have hboxes : (t.core a.core).mailboxes = smPut co.mailboxes m { bind := .slot f.slot, parked := [] } := by
          rw [hco]; exact hmb
        refine ⟨t, ht, ho, hy, hbyte, by rw [hboxes, smGet_smPut_self], fun n hn => by rw [hboxes, smGet_smPut_ne _ _ _ hn], ?_⟩
        rw [hco]
        exact hq
      · obtain ⟨t, ht, ho, hy, hbyte, hco⟩ := completes_only ((munbind_settled hs h hmu).1 hb)
        refine ⟨t, ht, ho, hy, hbyte, ?_⟩
        rw [hco]
        exact smGet_smPut_self _ _ _ _

end Sys2Proof.Machine
end

section
/-! Engine commands: their start, their end and the data of a reduction (15 R327, R330, R331, R335; 07 R156, R173; 09 R194). -/

namespace Sys2Proof.Machine

/-! ### The start (15 R327, R331; 07 R156) -/

section
variable {s : State} {c : Nat} {e : Fin 4} {x : Command}

/-- A copy: the commands of which `startCommand` and the end know sectors. -/
def EngineOp.copies (op : EngineOp) : Prop := ∃ dst src rows rb ds ss, op = .cpy dst src rows rb ds ss
/-- The engine's access table gives the command's strand the CMD right. -/
def Command.admitted (s : State) (x : Command) : Bool :=
  (s.rights (engineTarget (clOf x.core) x.eng.val) { part := x.part, cls := if x.prio3 then 1 else 0 }).getLsbD 3
/-- A command that its engine has taken. -/
def Command.started (x : Command) : Command := { x with running := true }
/-- A denial counted at the cluster's shepherd. -/
def denialCounted (s : State) (x : Command) : State := s.countShepherd (clOf x.core) 0x10 1 (some x.part)

theorem exec_engineCommandStart (h : headOf s c e = some x) (hr : x.running = false) (ht : e = 2 → tileFree s x = true) :
    exec (.engineCommandStart c e) s = .next (startCommand s x) := by
  have hf : (x.running || (e == 2 && !tileFree s x)) = false := by
    rw [hr, Bool.false_or]
    by_cases he : e = 2
    · rw [ht he, Bool.not_true, Bool.and_false]
    · rw [beq_false_of_ne he, Bool.false_and]
  change execEngineCommandStart c e s = _
  rw [execEngineCommandStart, h]
  simp only [hf, Bool.false_eq_true, if_false]

theorem startCommand_eq : startCommand s x =
    if !x.admitted s then
      setHead (denialCounted s x)
        (match x.op with
          | .cpy .. => allMissing (copyGeo s (pkgOf x.core) x.part x.op) x.started cDeny
          | _ => { x.started with status := some cDeny })
    else
      match x.op with
      | .cpy _ _ rows rowBytes _ _ =>
        let g := copyGeo s (pkgOf x.core) x.part x.op
        if g.kind = .mismatch then setHead s (allMissing g x.started cFormat)
        else if g.kind = .convert ∧ rows * rowBytes * (fmtBits g.df).getD 8 % (64 * max 1 ((fmtBits g.sf).getD 8)) ≠ 0 then
          setHead s (allMissing g x.started cMisaligned)
        else setHead s x.started
      | .cred op fmt _ src count fold round =>
        let r := engRead s x.who src (count * credSize fmt)
        (match r.2 with
          | .error c => setHead r.1 { x.started with status := some c }
          | .ok b => setHead (send r.1 x.core (engineIdent x.part x.eng) (rootDest (pkgOf x.core)) clsCOL
              (.credIn fold round { core := x.core, strand := x.strand, seq := x.seq, op := op, fmt := fmt, count := count,
                                    ok := true, bytes := b }))
            { x.started with sent := true })
      | .attn _ _ _ _ _ _ _ _ _ dh _ _ _ =>
        setTile (setHead s x.started) (clOf x.core)
          { core := x.core, block := 0, mx := List.replicate 32 negInf32, l := List.replicate 32 0
            o := List.replicate 32 (List.replicate (dhSize dh) 0), stall := none, lastWalk := s.now }
      | _ => setHead s x.started := rfl

/-- The strand of a command that starts has no CMD right at the engine. -/
theorem startCommand_denied (h : x.admitted s = false) :
    (x.op.copies → startCommand s x =
      setHead (denialCounted s x) (allMissing (copyGeo s (pkgOf x.core) x.part x.op) x.started cDeny)) ∧
    (¬ x.op.copies → startCommand s x = setHead (denialCounted s x) { x.started with status := some cDeny }) := by
  rw [startCommand_eq, h, Bool.not_false, if_pos rfl]
  constructor
  · rintro ⟨dst, src, rows, rb, ds, ss, hop⟩
    simp only [hop]
  · intro hn
    split
    · next hop => exact absurd ⟨_, _, _, _, _, _, hop⟩ hn
    · rfl

section
variable (h : x.admitted s = true)
include h

theorem startCommand_copy {dst src : Word} {rows rb ds ss : Nat} (hop : x.op = .cpy dst src rows rb ds ss) :
    let g := copyGeo s (pkgOf x.core) x.part x.op
    startCommand s x =
      if g.kind = .mismatch then setHead s (allMissing g x.started cFormat)
      else if g.kind = .convert ∧ rows * rb * (fmtBits g.df).getD 8 % (64 * max 1 ((fmtBits g.sf).getD 8)) ≠ 0 then
        setHead s (allMissing g x.started cMisaligned)
      else setHead s x.started := by
  rw [startCommand_eq, h, Bool.not_true, if_neg Bool.false_ne_true]
  simp only [hop]

theorem startCommand_nbmv {mf : MatFmt} {chk : Bool} {dst a b : Word} {rows len : Nat}
    (hop : x.op = .nbmv mf chk dst a b rows len) : startCommand s x = setHead s x.started := by
  rw [startCommand_eq, h, Bool.not_true, if_neg Bool.false_ne_true]
  simp only [hop]

theorem startCommand_attn {chk : Bool} {q kb vb tb out lse : Word} {l2 len : Nat} {dh : HeadDim} {inp : AttnIn} {outp : AttnOut}
    {sc : BitVec 32} (hop : x.op = .attn chk q kb vb tb out lse l2 len dh inp outp sc) :
    startCommand s x = setTile (setHead s x.started) (clOf x.core)
      { core := x.core, block := 0, mx := List.replicate 32 negInf32, l := List.replicate 32 0
        o := List.replicate 32 (List.replicate (dhSize dh) 0), stall := none, lastWalk := s.now } := by
  rw [startCommand_eq, h, Bool.not_true, if_neg Bool.false_ne_true]
  simp only [hop]

/-- A reduction that starts reads its data and hands it to the package's root. -/
theorem startCommand_cred {op : CredOp} {fmt : CredFmt} {dst src : Word} {n : Nat} {fold : Fin 16} {round : Nat} {b : List Byte}
    (hop : x.op = .cred op fmt dst src n fold round) (hr : engRead s x.who src (n * credSize fmt) = (s, .ok b)) :
    startCommand s x = setHead (send s x.core (engineIdent x.part x.eng) (rootDest (pkgOf x.core)) clsCOL
        (.credIn fold round { core := x.core, strand := x.strand, seq := x.seq, op := op, fmt := fmt, count := n, ok := true,
                              bytes := b }))
      { x.started with sent := true } := by
  rw [startCommand_eq, h, Bool.not_true, if_neg Bool.false_ne_true]
  simp only [hop, hr]

end

end

/-! ### The end (15 R330; 07 R173; 09 R194) -/

section
variable {s : State} {c : Nat} {e : Fin 4} {x : Command}

theorem exec_engineCommandEnd (h : headOf s c e = some x) (hr : x.running = true) (hroom : eventRoom s x.eventCluster = true) :
    exec (.engineCommandEnd c e) s =
      match x.status with
      | some code =>
        .next (if code = cNone then endCommand (clearTile (popHead s x) x) x cNone
          else abandonCommand (clearTile (popHead s x) x) x code)
      | none =>
        match x.op with
        | .cpy .. =>
          if !(dropSectors s x).2.flying.isEmpty then .next (dropSectors s x).1
          else if x.stop then
            .next (abandonCommand (popHead (dropSectors s x).1 (dropSectors s x).2) (dropSectors s x).2 cAbandoned)
          else if decide ((copyTodo (copyGeo s (pkgOf c) x.part x.op) (dropSectors s x).2).length ≤ (dropSectors s x).2.next) &&
              leaDone (dropSectors s x).1 (dropSectors s x).2 then
            .next (endCopy (dropSectors s x).1 (dropSectors s x).2)
          else .next (dropSectors s x).1
        | .nbmv mf chk dst a b rows len => .next (endNbmv s x mf chk dst a b rows len)
        | .attn _ _ _ _ _ _ _ _ len _ _ _ _ =>
          if x.stop then .next (abandonCommand (clearTile (popHead s x) x) x cAbandoned)
          else
            match (s.cluster (clOf c)).attn with
            | some t => if attnBlocks len ≤ t.block then .next (endAttn s x t) else .next s
            | none => .next s
        | _ => .next s := by
  change execEngineCommandEnd c e s = _
  rw [execEngineCommandEnd, h]
  exact if_neg (by rw [hr, hroom]; decide)

theorem abandonCommand_of_not_copies (h : ¬ x.op.copies) (u : State) (code : Code) :
    abandonCommand u x code = endCommand (commandFault u x code x.output []) x code := by
  rw [abandonCommand]
  split
  · next hop => exact absurd ⟨_, _, _, _, _, _, hop⟩ h
  · rfl

/-- No sector of a command is on its way: none is lost. -/
theorem dropSectors_idle (h : ∀ f ∈ s.net, ∀ d n k ps, f.msg = .sector d n k ps → ¬ (d = x.core ∧ n = x.seq)) :
    dropSectors s x = (s, x) := by
  have hlost : s.net.filter (fun f => match f.msg with
      | .sector c n _ _ => c == x.core && n == x.seq && !livePath s (pkgOf c) f.dst.die
      | _ => false) = [] := by
    refine List.filter_eq_nil_iff.mpr fun f hf => ?_
    split
    · next d n k ps hm =>
      have hne := h f hf d n k ps hm
      simp only [Bool.and_eq_true, beq_iff_eq]
      exact fun hc => hne hc.1
    · decide
  exact if_pos (List.isEmpty_iff.mpr hlost)

/-- Where the missing sectors of a copy lie does not depend on the formats of its pages. -/
theorem lowestMissing_geo (g g' : CopyGeo) (op : EngineOp) (ms : List (Nat × Code)) :
    lowestMissing g op ms = lowestMissing g' op ms := by
  have hd : ∀ k, (sectorDest g op k).1 = (sectorDest g' op k).1 := fun k => by
    cases op <;> rfl
  simp only [lowestMissing, hd]

/-- A copy all of whose sectors are written, and one that lacks some. -/
theorem endCopy_cases :
    (x.missing = [] → endCopy s x = endCommand (popHead s x) x cNone) ∧
    (∀ g m, lowestMissing g x.op x.missing = some m → endCopy s x =
      postCompletion (retain (pageFaults (popHead s x) (copyGeo s (pkgOf x.core) x.part x.op) x)
        (copyGeo s (pkgOf x.core) x.part x.op) x) x m.2) := by
  refine ⟨fun hm => ?_, fun g m hm => ?_⟩
  · rw [endCopy, hm]
    rfl
  · rw [lowestMissing_geo g (copyGeo s (pkgOf x.core) x.part x.op)] at hm
    rw [endCopy]
    simp only [hm]
    rfl

end

/-! ### Locks, completion word and event record of a command that ends (15 R330) -/

section
variable {s : State} {x : Command} {l : Leaf}

/-- The completion word written in memory: one piece of a line. -/
theorem completion_written {u : State} {b : List Byte} (hb : b.length = 8) (h8 : x.comp.toNat % 8 = 0)
    (hp : engPage u x.who x.comp .wr = (u, .ok l)) (hsp : spaceOf x.comp ≠ 0xC0)
    (hm : (siteOf (l.pa x.comp) l.geom2).isMemory = true) :
    engCheck u x.who x.comp b = (u, none) ∧ engWrite u x.who x.comp b = stored u (l.pa x.comp) b := by
  have hl := linePieces_aligned (Or.inl hb) (hb.symm ▸ h8)
  constructor
  · simp [engCheck, hl, hp, hsp, targetStore, hm]
  · simp [engWrite, engPlace, writeParts, hl, hp, hsp, targetStore, hm, stored]

/-- A command that ends without a cause, whose completion word lies in memory and whose shepherd's queue has room. -/
theorem endCommand_posts (hw : credWithout s x cNone = s) (h0 : x.comp ≠ 0) (h8 : x.comp.toNat % 8 = 0)
    (hp : engPage (freeLocks s x) x.who x.comp .wr = (freeLocks s x, .ok l)) (hsp : spaceOf x.comp ≠ 0xC0)
    (hm : (siteOf (l.pa x.comp) l.geom2).isMemory = true) (hroom : eventRoom s x.eventCluster = true) :
    endCommand s x cNone = putEvent
      (stored (freeLocks s x) (l.pa x.comp) (leBytes 8 (completionWord x.seq cNone x.units).toNat)) x.eventCluster
      (eventRecord x.eng.val x.core (completionWord x.seq cNone x.units) x.task 1) := by
  obtain ⟨hcheck, hwrite⟩ := completion_written (b := leBytes 8 (completionWord x.seq cNone x.units).toNat)
    (leBytes_length _ _) h8 hp hsp hm
  have hq : eventRoom (stored (freeLocks s x) (l.pa x.comp) (leBytes 8 (completionWord x.seq cNone x.units).toNat))
      x.eventCluster = true := by
    have hcl : (stored (freeLocks s x) (l.pa x.comp) (leBytes 8 (completionWord x.seq cNone x.units).toNat)).cluster
        x.eventCluster = (freeLocks s x).cluster x.eventCluster := by
      rw [State.cluster, stored, show ∀ (u : State) n, (clearPoison u (l.pa x.comp) n).clusters = u.clusters from fun _ _ => rfl,
        writeBytes_clusters, State.cluster]
    rw [eventRoom, hcl, freeLocks, State.modCluster_cluster]
    rw [eventRoom] at hroom
    split
    · next hc => exact hc ▸ hroom
    · exact hroom
  rw [endCommand, hw, postCompletion]
  simp only [if_neg h0, hcheck, hwrite, if_true]
  exact if_pos hq

end

end Sys2Proof.Machine
end

section
/-! The copy engine's sectors, and where a flit to another package travels (15 R331, R332; 22 R433; 25 R467). -/

namespace Sys2Proof.Machine

/-! ### A link carries the flits that entered it (22 R433; 24 R454) -/

section
variable {l : Link} {f g : Flit}

/-- A frame that a later flit does not take out of the link: the last, numbered last, or one of the up to 64 before. -/
def Link.Holds (l : Link) (e : BitVec 32 × List Flit) : Prop :=
  (l.inFlight.getLast? = some e ∧ e.1 = l.lastSeq) ∨
    (0 < (l.lastSeq - e.1).toNat ∧ (l.lastSeq - e.1).toNat ≤ l.replay.length)
/-- A flit waits for the link or travels in one of its frames. -/
def Link.Carries (l : Link) (f : Flit) : Prop := f ∈ l.waiting ∨ ∃ e ∈ l.inFlight, f ∈ e.2 ∧ l.Holds e

/-- A frame with one more packet, if it is numbered `q`. -/
def joined (q : BitVec 32) (fs : List Flit) (f : Flit) (x : BitVec 32 × List Flit) : BitVec 32 × List Flit :=
  if x.1 == q then (q, fs ++ [f]) else x

/-- A flit joins the last frame, which is numbered last. -/
theorem joinFrame_some {m : Link} (h : joinFrame l f = some m) : ∃ fs, l.inFlight.getLast? = some (l.lastSeq, fs) ∧
    m = { l with replay := l.replay.map (joined l.lastSeq fs f), inFlight := l.inFlight.map (joined l.lastSeq fs f) } := by
  rw [joinFrame] at h
  split at h
  · cases h
  · next q fs hlast =>
    dsimp only at h
    split at h
    · next hc =>
      obtain ⟨hq, -⟩ := hc
      subst hq
      exact ⟨fs, hlast, (Option.some.inj h).symm⟩
    · cases h

/-- The link with a frame of one flit more. -/
def Link.framed (l : Link) (f : Flit) : Link :=
  { l with
    lastSeq := l.lastSeq + 1, replay := l.replay ++ [(l.lastSeq + 1, [f])], inFlight := l.inFlight ++ [(l.lastSeq + 1, [f])]
    beat := l.beat + 16 }

/-- What becomes of a flit that enters a link. -/
theorem linkPush_cases (l : Link) (f : Flit) :
    linkPush l f = { l with waiting := l.waiting ++ [f] } ∨
    (∃ fs, l.inFlight.getLast? = some (l.lastSeq, fs) ∧ linkPush l f =
      { l with replay := l.replay.map (joined l.lastSeq fs f), inFlight := l.inFlight.map (joined l.lastSeq fs f) }) ∨
    (l.replay.length < 64 ∧ linkPush l f = l.framed f) := by
  rw [linkPush]
  split
  · exact .inl rfl
  · next hw =>
    split
    · next m hm => exact .inr (.inl (joinFrame_some hm))
    · split
      · next hr => exact .inr (.inr ⟨hr, rfl⟩)
      · refine .inl ?_
        rw [not_ne_iff.mp hw, List.nil_append]

theorem joined_last {fs : List Flit} (h : l.inFlight.getLast? = some (l.lastSeq, fs)) :
    (l.inFlight.map (joined l.lastSeq fs f)).getLast? = some (l.lastSeq, fs ++ [f]) := by
  rw [List.getLast?_map, h, Option.map_some, joined, beq_self_eq_true, if_pos rfl]

/-- A flit that enters a link is carried there. -/
theorem linkPush_carries_self (l : Link) (f : Flit) : (linkPush l f).Carries f := by
  rcases linkPush_cases l f with h | ⟨fs, hlast, h⟩ | ⟨-, h⟩ <;> rw [h]
  · exact .inl (List.mem_append_right _ (List.mem_singleton_self f))
  · have hl := joined_last (f := f) hlast
    exact .inr ⟨_, List.mem_of_getLast? hl, List.mem_append_right _ (List.mem_singleton_self f), .inl ⟨hl, rfl⟩⟩
  · exact .inr ⟨(l.lastSeq + 1, [f]), List.mem_append_right _ (List.mem_singleton_self _), List.mem_singleton_self f,
      .inl ⟨List.getLast?_concat, rfl⟩⟩

/-- A flit that a link carries stays there as another enters. -/
theorem Link.Carries.linkPush (h : l.Carries g) (f : Flit) : (linkPush l f).Carries g := by
  rcases linkPush_cases l f with hp | ⟨fs, hlast, hp⟩ | ⟨hr, hp⟩ <;> rw [hp]
  · rcases h with h | h
    · exact .inl (List.mem_append_left _ h)
    · exact .inr h
  · rcases h with h | ⟨e, he, hg, ⟨hel, -⟩ | ⟨h0, h1⟩⟩
    · exact .inl h
    · obtain rfl := Option.some.inj (hlast.symm.trans hel)
      have hl := joined_last (f := f) hlast
      exact .inr ⟨_, List.mem_of_getLast? hl, List.mem_append_left _ hg, .inl ⟨hl, rfl⟩⟩
    · have hne : e.1 ≠ l.lastSeq := fun hc => by rw [hc, BitVec.sub_self] at h0; exact absurd h0 (by decide)
      have hj : joined l.lastSeq fs f e = e := by rw [joined, beq_false_of_ne hne, if_neg Bool.false_ne_true]
      exact .inr ⟨e, List.mem_map.mpr ⟨e, he, hj⟩, hg, .inr ⟨h0, by rwa [List.length_map]⟩⟩
  · rcases h with h | ⟨e, he, hg, hold⟩
    · exact .inl h
    · refine .inr ⟨e, List.mem_append_left _ he, hg, .inr ?_⟩
      have hle : (l.lastSeq - e.1).toNat ≤ l.replay.length := by
        rcases hold with ⟨-, hq⟩ | ⟨-, hle⟩
        · rw [hq, BitVec.sub_self]
          exact Nat.zero_le _
        · exact hle
      have hsucc : (l.lastSeq + 1 - e.1).toNat = (l.lastSeq - e.1).toNat + 1 := by bv_omega
      simp only [Link.framed, List.length_append, List.length_singleton, hsucc]
      omega

end

/-! ### The fabric carries what is sent (22 R433) -/

section
variable {s t : State} {p : Nat} {f : Flit}

/-- A flit is in the fabric of the packages or on a tree port of package `p`. -/
def State.Carries (s : State) (p : Nat) (f : Flit) : Prop := f ∈ s.net ∨ ∃ port < 16, (s.link p port).Carries f

theorem State.Carries.of_eq (h : s.Carries p f) (hn : t.net = s.net) (hp : t.packages = s.packages) : t.Carries p f := by
  have hl : ∀ port, t.link p port = s.link p port := fun port => by rw [State.link, State.pkg, hp, State.link, State.pkg]
  simpa only [State.Carries, hn, hl] using h

theorem setLink_link (s : State) (p port : Nat) (l : Link) (hport : port < 16) (q i : Nat) :
    (s.setLink p port l).link q i = if q = p ∧ i = port then l else s.link q i := by
  rw [State.link, State.setLink, State.modPkg_pkg]
  by_cases hq : q = p
  · subst hq
    by_cases hi : i = port
    · subst hi
      simp [Vector.getD, show i < 17 by omega]
    · simp [State.link, Vector.getD, hi, Ne.symm hi]
  · simp only [if_neg hq, if_neg (fun h : q = p ∧ i = port => hq h.1), State.link]

/-- A flit that leaves its package enters a tree port, or the fabric keeps it. -/
theorem enterLink_cases (s : State) (f : Flit) :
    enterLink s f = { s with net := s.net ++ [f] } ∨
    ∃ port < 16, enterLink s f = s.setLink (pkgOf f.src) port (linkPush (s.link (pkgOf f.src) port) f) := by
  rw [enterLink]
  split
  · exact .inl rfl
  · next port hport =>
    have hm := List.mem_of_getElem? hport
    exact .inr ⟨port, List.mem_range.mp (List.mem_filter.mp hm).1, rfl⟩

theorem enterLink_carries_self (s : State) (f : Flit) : (enterLink s f).Carries (pkgOf f.src) f := by
  rcases enterLink_cases s f with h | ⟨port, hport, h⟩ <;> rw [h]
  · exact .inl (List.mem_append_right _ (List.mem_singleton_self f))
  · exact .inr ⟨port, hport, by rw [setLink_link _ _ _ _ hport, if_pos ⟨rfl, rfl⟩]; exact linkPush_carries_self _ _⟩

theorem State.Carries.enterLink (h : s.Carries p f) (g : Flit) : (enterLink s g).Carries p f := by
  rcases enterLink_cases s g with he | ⟨port, hport, he⟩ <;> rw [he]
  · rcases h with h | h
    · exact .inl (List.mem_append_left _ h)
    · exact .inr h
  · rcases h with h | ⟨i, hi, h⟩
    · exact .inl h
    · refine .inr ⟨i, hi, ?_⟩
      rw [setLink_link _ _ _ _ hport]
      split
      · next hc => exact hc.2 ▸ hc.1 ▸ h.linkPush g
      · exact h

/-- A flit that is sent: it leaves its package, or the fabric takes it. -/
theorem send_carriage (s : State) (src : Nat) (who : Ident) (d : Dest) (cls : Nat) (m : Msg) :
    ∃ (f : Flit) (u v : State), f.src = src ∧ f.cls = cls ∧ f.msg = m ∧ u.net = s.net ∧ u.packages = s.packages ∧
      (v = enterLink u f ∨ v = { u with net := u.net ++ [f] }) ∧
      (send s src who d cls m).net = v.net ∧ (send s src who d cls m).packages = v.packages := by
  rw [send]
  dsimp only
  refine ⟨_, (if m.isWrite then s.modDie (dieOf src) (fun x => { x with writes := x.writes + 1 }) else s), _, ?_, ?_, ?_, ?_, ?_,
    (ite_eq_or_eq _ _ _).imp id id, rfl, rfl⟩
  · rfl
  · rfl
  · rfl
  · split <;> rfl
  · split <;> rfl

theorem send_carries_self (s : State) (src : Nat) (who : Ident) (d : Dest) (cls : Nat) (m : Msg) :
    ∃ f, (send s src who d cls m).Carries (pkgOf src) f ∧ f.cls = cls ∧ f.msg = m := by
  obtain ⟨f, u, v, rfl, hcls, hmsg, -, -, hv, hn, hp⟩ := send_carriage s src who d cls m
  refine ⟨f, State.Carries.of_eq (s := v) ?_ hn hp, hcls, hmsg⟩
  rcases hv with rfl | rfl
  · exact enterLink_carries_self _ _
  · exact .inl (List.mem_append_right _ (List.mem_singleton_self f))

theorem State.Carries.send (h : s.Carries p f) (src : Nat) (who : Ident) (d : Dest) (cls : Nat) (m : Msg) :
    (send s src who d cls m).Carries p f := by
  obtain ⟨g, u, v, -, -, -, hun, hup, hv, hn, hp⟩ := send_carriage s src who d cls m
  refine State.Carries.of_eq (s := v) ?_ hn hp
  have hu := h.of_eq hun hup
  rcases hv with rfl | rfl
  · exact hu.enterLink g
  · rcases hu with hu | hu
    · exact .inl (List.mem_append_left _ hu)
    · exact .inr hu

end

end Sys2Proof.Machine
end

section
/-! Sectors of a copy, and the engine commands together (15 R327 to R335; 07 R156, R173; 09 R194; 25 R467). -/

namespace Sys2Proof.Machine

/-! ### One sector of a copy (15 R331, R332) -/

section
variable {s : State} {x : Command} {g : CopyGeo} {k : Nat} {gs : Segs}

theorem headOf_setHead (s : State) (x : Command) : headOf (setHead s x) x.core x.eng = some x := by
  rw [headOf, setHead, State.modCore_core_self]
  exact congrArg List.head? (Vector.getElem_set_self x.eng.isLt)

/-- A copy whose engine has come to one more sector. -/
def Command.moved (x : Command) : Command := { x with next := x.next + 1 }

/-- The engine's next sector: missing with its cause, written, or on its way. -/
def moveSector (s : State) (x : Command) (g : CopyGeo) (k : Nat) : State × Command :=
  let y := x.moved
  let r := sectorData s x g k
  match r.2 with
  | .error c => (r.1, { y with missing := y.missing ++ [(k, c)] })
  | .ok gs =>
    let q := checkSegs r.1 x gs
    match q.2 with
    | some c => (q.1, { y with missing := y.missing ++ [(k, c)] })
    | none =>
      let t := sendSector q.1 y k gs
      (t.1, if t.2.flying.contains k then t.2 else t.2.wrote g k)

/-- A sector of a page that is not replicated moves alone. -/
theorem moveSectors_single {l : Leaf} (hw : s.walk (pkgOf x.core) x.part (BitVec.ofNat 72 (sectorDest g x.op k).1) = .leaf l)
    (hl : l.learep = false) (rest : List Nat) :
    moveSectors s x g (k :: rest) = setHead (moveSector s x g k).1 (moveSector s x g k).2 := by
  rw [moveSectors, moveSector]
  simp only [List.head?_cons, hw, hl, Bool.false_eq_true, if_false, List.take_succ_cons, List.take_zero, List.foldl_cons,
    List.foldl_nil, List.length_singleton]
  cases hd : (sectorData s x g k).2 with
  | error c =>
    simp only [List.isEmpty_nil, if_true]
    rfl
  | ok gs =>
    cases hc : (checkSegs (sectorData s x g k).1 x gs).2 with
    | some c =>
      simp only [hc, List.isEmpty_nil, if_true]
      rfl
    | none =>
      simp only [hc, List.isEmpty_nil, if_true]
      rfl

theorem moveSector_error {v : State} {c : Code} (h : sectorData s x g k = (v, .error c)) :
    moveSector s x g k = (v, { x.moved with missing := x.missing ++ [(k, c)] }) := by
  simp only [moveSector, h]
  rfl

/-- A sector that can be written goes out. -/
theorem moveSector_ok (hd : sectorData s x g k = (s, .ok gs)) (hc : checkSegs s x gs = (s, none)) :
    moveSector s x g k = ((sendSector s x.moved k gs).1, if (sendSector s x.moved k gs).2.flying.contains k then
      (sendSector s x.moved k gs).2 else (sendSector s x.moved k gs).2.wrote g k) := by
  simp only [moveSector, hd, hc]

/-- A sector whose bytes all lie in the package is written at once. -/
theorem sendSector_near (h : (placeSegs s x gs).all (fun q => homePkg q.1 == pkgOf x.core) = true) :
    sendSector s x k gs = (writeSegs s x gs, x) := by
  have hfar : (placeSegs s x gs).filter (fun q => homePkg q.1 != pkgOf x.core) = [] :=
    List.filter_eq_nil_iff.mpr fun q hq => by simpa using List.all_eq_true.mp h q hq
  have hnear : (placeSegs s x gs).filter (fun q => homePkg q.1 == pkgOf x.core) = placeSegs s x gs :=
    List.filter_eq_self.mpr (List.all_eq_true.mp h)
  simp only [sendSector, hfar, hnear, List.map_nil, List.eraseDups_nil, List.foldl_nil, List.append_nil]
  rfl

/-- The sector frame that goes to die `d`: the sector's bytes of that die, in other packages. -/
def sectorFrame (s : State) (x : Command) (k : Nat) (gs : Segs) (d : Nat) : Msg :=
  .sector x.core x.seq k ((placeSegs s x gs).filter (fun r => homePkg r.1 != pkgOf x.core && homeDie r.1 == d))

/-- Each die of another package that holds bytes of a sector is sent its frame, and the sector is on its way. -/
theorem sendSector_far {q : Nat × Bool × List Byte} (hq : q ∈ placeSegs s x gs) (hp : homePkg q.1 ≠ pkgOf x.core) :
    (∃ f, (sendSector s x k gs).1.Carries (pkgOf x.core) f ∧ f.cls = clsENG ∧ f.msg = sectorFrame s x k gs (homeDie q.1)) ∧
      k ∈ (sendSector s x k gs).2.flying := by
  have hfar : q ∈ (placeSegs s x gs).filter (fun r => homePkg r.1 != pkgOf x.core) :=
    List.mem_filter.mpr ⟨hq, bne_iff_ne.mpr hp⟩
  have hdie : homeDie q.1 ∈ (((placeSegs s x gs).filter (fun r => homePkg r.1 != pkgOf x.core)).map
      (fun r => homeDie r.1)).eraseDups := List.mem_eraseDups.mpr (List.mem_map_of_mem hfar)
  refine ⟨?_, List.mem_append_right _ (List.mem_map.mpr ⟨_, hdie, rfl⟩)⟩
  refine foldl_reaches (P := fun _ => True)
    (Q := fun (u : State) => ∃ f : Flit, u.Carries (pkgOf x.core) f ∧ f.cls = clsENG ∧ f.msg = sectorFrame s x k gs (homeDie q.1))
    (fun _ _ _ => trivial) (fun u d ⟨f, hf, hcls, hmsg⟩ => ⟨f, hf.send _ _ _ _ _, hcls, hmsg⟩) (fun u _ => ?_) hdie trivial
  obtain ⟨f, hf, hcls, hmsg⟩ := send_carries_self u x.core x.who.id _ clsENG _
  refine ⟨f, hf, hcls, hmsg.trans ?_⟩
  rw [sectorFrame, List.filter_filter]
  simp only [Bool.and_comm]

end

section
variable {s : State} {cl i k : Nat} {x : Command} {g : CopyGeo} {rest : List Nat} {l : Leaf}

/-- The copies of a cluster take turns: the next that still has sectors to move, after core `from`. -/
def nextCopy (s : State) (cl : Nat) : Option (Nat × Command × CopyGeo) :=
  ((List.range 16).map (fun j => ((s.cluster cl).copyNext + j) % 16)).findSome?
    (fun j => (copyRuns s (cl * 16 + j)).map (fun r => (j, r)))
/-- A cluster at whose core `i` a sector has been moved. -/
def turned (s : State) (cl i : Nat) : State := s.modCluster cl (fun y => { y with copyNext := (i + 1) % 16 })

theorem exec_copySector (hn : nextCopy s cl = some (i, x, g)) (hk : (copyTodo g x).drop x.next = k :: rest)
    (hw : (turned s cl i).walk (pkgOf x.core) x.part (BitVec.ofNat 72 (sectorDest g x.op k).1) = .leaf l)
    (hl : l.learep = false) :
    exec (.copySector cl) s = .next (setHead (moveSector (turned s cl i) x g k).1 (moveSector (turned s cl i) x g k).2) := by
  rw [← moveSectors_single hw hl rest, ← hk]
  change execCopySector cl s = _
  rw [nextCopy] at hn
  rw [execCopySector, hn]
  rfl

/-- What a sector that lies in part in another package leaves: its frames in the fabric, and its number among those on their
way. -/
theorem farSector_sent {gs : Segs} (he : x.eng = 0) (hd : sectorData s x g k = (s, .ok gs)) (hc : checkSegs s x gs = (s, none))
    (hfar : (placeSegs s x.moved gs).all (fun q => homePkg q.1 == pkgOf x.core) = false) :
    let t := setHead (moveSector s x g k).1 (moveSector s x g k).2
    (∃ z, headOf t x.core 0 = some z ∧ z.flying.contains k = true ∧ z.units = x.units ∧ z.missing = x.missing) ∧
      ∀ q ∈ placeSegs s x.moved gs, homePkg q.1 ≠ pkgOf x.core →
        ∃ f, t.Carries (pkgOf x.core) f ∧ f.cls = clsENG ∧
          f.msg = sectorFrame s x.moved k gs (homeDie q.1) := by
  obtain ⟨q, hq, hp⟩ : ∃ q ∈ placeSegs s x.moved gs, homePkg q.1 ≠ pkgOf x.core := by
    simpa using hfar
  have hfly : (sendSector s x.moved k gs).2.flying.contains k = true :=
    List.contains_iff_mem.mpr (sendSector_far (x := x.moved) hq hp).2
  have hm := moveSector_ok hd hc
  rw [if_pos hfly] at hm
  intro t
  have ht : t = setHead (sendSector s x.moved k gs).1 (sendSector s x.moved k gs).2 := by
    simp only [t, hm]
  refine ⟨⟨_, ?_, hfly, rfl, rfl⟩, fun q hq hp => ?_⟩
  · have h := headOf_setHead (sendSector s x.moved k gs).1 (sendSector s x.moved k gs).2
    rw [ht, ← he]
    exact h
  · obtain ⟨⟨f, hf, hcls, hmsg⟩, -⟩ := sendSector_far (x := x.moved) (k := k) hq hp
    exact ⟨f, by rw [ht]; exact hf.of_eq rfl rfl, hcls, hmsg⟩

/-- A flit that a package's ports carry, in the fabric, waiting, or in a frame. -/
theorem State.Carries.in_fabric {p : Nat} {f : Flit} (h : s.Carries p f) :
    f ∈ s.net ∨ ∃ i < 16, f ∈ (s.link p i).waiting ∨ ∃ e ∈ (s.link p i).inFlight, f ∈ e.2 := by
  rcases h with h | ⟨i, hi, h | ⟨e, he, hf, -⟩⟩
  · exact .inl h
  · exact .inr ⟨i, hi, .inl h⟩
  · exact .inr ⟨i, hi, .inr ⟨e, he, hf⟩⟩

end

/-! ### The data of a reduction (15 R335) -/

section
variable {s u : State} {n c : Nat} {f : Flit} {x : Command} {op : CredOp} {fmt : CredFmt} {dst src : Word} {m : Nat}
  {fold : Fin 16} {round : Nat} {ok : Bool} {b : List Byte}

/-- The data of a reduction, or the word that there is none, come to its command. -/
theorem Arrives.takes_credOut (h : Arrives s n f u) (hf : f.dst = .core c) (hm : f.msg = .credOut x.seq ok b)
    (hx : headOf s c 3 = some x) (hs : x.status = none) (hop : x.op = .cred op fmt dst src m fold round) :
    (ok = false → Takes (.credResult n) s f (setHead u { x with status := some cAbandoned })) ∧
    (ok = true → engCheck u x.who dst b = (u, none) → Takes (.credResult n) s f
      (setHead (engWrite u x.who dst b) { x with status := some cNone, units := b.length / 64 })) := by
  have hu : headOf u c 3 = some x := by rw [headOf, h.core]; exact hx
  have hlive : ¬ (x.seq ≠ x.seq ∨ x.status.isSome) := by simp [hs]
  refine ⟨fun hok => congrArg Host.Outcome.next (h.deliver ?_), fun hok hc => congrArg Host.Outcome.next (h.deliver ?_)⟩
  · simp only [hf, hm, hu, hop, hok, if_neg hlive, Bool.not_false, if_true]
  · simp only [hf, hm, hu, hop, hok, if_neg hlive, Bool.not_true, Bool.false_eq_true, if_false, hc]

end

end Sys2Proof.Machine
end

section
/-! The engine commands together (15 R327 to R335; 07 R156, R173; 09 R194; 25 R467). -/

namespace Sys2Proof.Machine

section
variable {s : State} {c : Nat} {e : Fin 4} {x : Command}

/-- What the start of a command comes to, by its kind. -/
theorem engineCommandStart_runs {t : State} (h : headOf s c e = some x) (hr : x.running = false)
    (ht : e = 2 → tileFree s x = true) (hs : startCommand s x = t) : exec (.engineCommandStart c e) s = .next t :=
  hs ▸ exec_engineCommandStart h hr ht

/-- The end of a command whose status is known (15 R330). -/
theorem engineCommandEnd_status (h : headOf s c e = some x) (hr : x.running = true) (hroom : eventRoom s x.eventCluster = true)
    {code : Code} (hs : x.status = some code) : exec (.engineCommandEnd c e) s =
      .next (if code = cNone then endCommand (clearTile (popHead s x) x) x cNone
        else abandonCommand (clearTile (popHead s x) x) x code) := by
  rw [exec_engineCommandEnd h hr hroom, hs]

/-- The end of a copy none of whose sectors is on its way (07 R173; 09 R194). -/
theorem engineCommandEnd_copy (h : headOf s c e = some x) (hr : x.running = true) (hroom : eventRoom s x.eventCluster = true)
    (hs : x.status = none) (hop : x.op.copies) (hf : x.flying = [])
    (hn : ∀ f ∈ s.net, ∀ d n k ps, f.msg = .sector d n k ps → ¬ (d = x.core ∧ n = x.seq)) :
    exec (.engineCommandEnd c e) s =
      if x.stop then .next (abandonCommand (popHead s x) x cAbandoned)
      else if decide ((copyTodo (copyGeo s (pkgOf c) x.part x.op) x).length ≤ x.next) && leaDone s x then .next (endCopy s x)
      else .next s := by
  obtain ⟨dst, src, rows, rb, ds, ss, hop⟩ := hop
  rw [exec_engineCommandEnd h hr hroom, hs, dropSectors_idle hn, hf]
  simp only [hop]
  rfl

theorem engineCommandEnd_nbmv (h : headOf s c e = some x) (hr : x.running = true) (hroom : eventRoom s x.eventCluster = true)
    (hs : x.status = none) {mf : MatFmt} {chk : Bool} {dst a b : Word} {rows len : Nat}
    (hop : x.op = .nbmv mf chk dst a b rows len) :
    exec (.engineCommandEnd c e) s = .next (endNbmv s x mf chk dst a b rows len) := by
  rw [exec_engineCommandEnd h hr hroom, hs]
  simp only [hop]

theorem engineCommandEnd_attn (h : headOf s c e = some x) (hr : x.running = true) (hroom : eventRoom s x.eventCluster = true)
    (hs : x.status = none) (hstop : x.stop = false) {t : AttnTile} (ht : (s.cluster (clOf c)).attn = some t)
    (hb : attnBlocks (attnLen x.op) ≤ t.block)
    (hop : ∃ chk q kb vb tb out lse l2 len dh inp outp sc, x.op = .attn chk q kb vb tb out lse l2 len dh inp outp sc) :
    exec (.engineCommandEnd c e) s = .next (endAttn s x t) := by
  obtain ⟨chk, q, kb, vb, tb, out, lse, l2, len, dh, inp, outp, sc, hop⟩ := hop
  rw [hop, attnLen] at hb
  rw [exec_engineCommandEnd h hr hroom, hs]
  simp only [hop, hstop, Bool.false_eq_true, if_false, ht, if_pos hb]

end

/-! ### What a command that ends leaves of memory and its cluster -/

section
variable {s : State} {x : Command} {pa cl : Nat} {r : List Byte}

/-- `s` with the locks of command `x` freed, its completion word `w` at `pa`, and an event record `r`. -/
theorem completed_memory (w : DWord) (hr : r.length = 32) :
    let b := leBytes 8 w.toNat
    let t := putEvent (stored (freeLocks s x) pa b) cl r
    let record := eventPa cl ((s.cluster cl).evHead + (s.cluster cl).evCount)
    (pa + 8 ≤ record ∨ record + 32 ≤ pa → readD t pa = w) ∧ readBytes t record 32 = r ∧
    (∀ q, (q < pa ∨ pa + 8 ≤ q) → (q < record ∨ record + 32 ≤ q) → t.byte q = s.byte q) ∧
    (t.cluster (clOf x.core)).locks = (s.cluster (clOf x.core)).locks.filter (fun l => !x.owns l) ∧
    (t.cluster cl).evCount = (s.cluster cl).evCount + 1 := by
  intro b t record
  have hb : b.length = 8 := leBytes_length _ _
  have hsame : ∀ j, (stored (freeLocks s x) pa b).cluster j = (freeLocks s x).cluster j := fun j => by
    rw [State.cluster, show (stored (freeLocks s x) pa b).clusters = (writeBytes (freeLocks s x) pa b).clusters from rfl,
      writeBytes_clusters, State.cluster]
  have hq : ((freeLocks s x).cluster cl).evHead = (s.cluster cl).evHead ∧
      ((freeLocks s x).cluster cl).evCount = (s.cluster cl).evCount := by
    rw [freeLocks, State.modCluster_cluster]
    split
    · next hc => rw [hc]; exact ⟨rfl, rfl⟩
    · exact ⟨rfl, rfl⟩
  obtain ⟨hhead, hcount⟩ := hq
  have hrec : eventPa cl (((stored (freeLocks s x) pa b).cluster cl).evHead + ((stored (freeLocks s x) pa b).cluster cl).evCount) =
      record := by rw [hsame, hhead, hcount]
  have hout : ∀ q, (q < record ∨ record + 32 ≤ q) → t.byte q = (stored (freeLocks s x) pa b).byte q := fun q hq => by
    simp only [t, putEvent, hrec]
    rw [byte_of_mem (State.modCluster_mem _ _ _)]
    exact writeBytes_byte_out _ _ _ _ (hr.symm ▸ hq)
  refine ⟨fun hd => ?_, ?_, fun q hpa hq => ?_, ?_, ?_⟩
  · have hread : readU t pa 8 = readU (stored (freeLocks s x) pa b) pa 8 := by
      rw [readU, readBytes_congr (stored (freeLocks s x) pa b) t pa 8 fun q h1 h2 => hout q (by omega), readU]
    rw [readD, hread, readU_stored, Nat.mod_eq_of_lt (show w.toNat < 2 ^ (8 * 8) from w.isLt), BitVec.ofNat_toNat]
    exact BitVec.setWidth_eq w
  · have h := readBytes_putEvent (stored (freeLocks s x) pa b) cl r
    rwa [hrec, hr] at h
  · rw [hout q hq, stored_byte_out _ (hb.symm ▸ hpa)]
    rfl
  · have hl : (t.cluster (clOf x.core)).locks = ((stored (freeLocks s x) pa b).cluster (clOf x.core)).locks := by
      simp only [t, putEvent, State.modCluster_cluster]
      split
      · next hc => rw [← hc, State.cluster, writeBytes_clusters, State.cluster]
      · rw [State.cluster, writeBytes_clusters, State.cluster]
    rw [hl, hsame, freeLocks, State.modCluster_cluster_self]
  · rw [show t = putEvent (stored (freeLocks s x) pa b) cl r from rfl, putEvent_evCount, hsame, hcount]

/-- The completion word of a command without a cause (15 R330). -/
theorem completionWord_none (seq : BitVec 32) (units : Nat) :
    completionWord seq cNone units = BitVec.ofNat 64 (seq.toNat * 2 ^ 32 + units % 2 ^ 26) := by
  rw [completionWord, show cNone.toNat = 0 from rfl, Nat.zero_mul, Nat.add_zero]

theorem eventRecord_length (source core : Nat) (word task : DWord) (dec : Nat) :
    (eventRecord source core word task dec).length = 32 := by
  simp only [eventRecord, List.length_append, leBytes_length]

end

/-! ### O52 -/

/-- Settles O52: the start by the kind of command, one sector (`exec_copySector`, `farSector_sent`), the end by status and kind,
the memory and the cluster that a completion leaves (`endCommand_posts`, `completed_memory`), and the data of a reduction. -/
theorem engineCommands : Obligations.EngineCommands := by
  unfold Obligations.EngineCommands
  refine ⟨?start, ?sector, ?finish, ?completion, ?data⟩
  case start =>
    intro s c e x h hcore heng hr ht y cl admitted run g all copies
    subst hcore heng
    have hruns : ∀ {t}, startCommand s x = t → run t := engineCommandStart_runs h hr ht
    refine ⟨fun ha => ?_, fun ha => ⟨?_, ?_, ?_, ?_⟩⟩
    · exact ⟨fun hc => hruns ((startCommand_denied ha).1 hc), fun hc => hruns ((startCommand_denied ha).2 hc)⟩
    · exact fun mf chk dst a b rows len hop => hruns (startCommand_nbmv ha hop)
    · intro dst src rows rb ds ss hop whole
      have hcopy := startCommand_copy ha hop
      refine ⟨fun hk hw => hruns ?_, fun hk => hruns ?_, fun hk hw => hruns ?_⟩
      · exact hcopy.trans (by rw [if_neg hk, if_neg fun hc => hc.2 (hw hc.1)]; rfl)
      · exact hcopy.trans (if_pos hk)
      · exact hcopy.trans (by rw [if_neg (fun hm => by rw [hk] at hm; cases hm), if_pos ⟨hk, hw⟩]; rfl)
    · exact fun chk q kb vb tb out lse l2 len dh inp outp sc hop => hruns (startCommand_attn ha hop)
    · exact fun op fmt dst src n fold round b hop hread => hruns (startCommand_cred ha hop hread)
  case sector =>
    intro s cl i k x g rest hn hk hcore heng u here l hw hl
    have hexec := exec_copySector hn hk hw hl
    refine ⟨?_, fun v code hd => ?_⟩
    · intro gs hd hc y parts near
      refine ⟨fun hnear hfly => ?_, fun hfar => ?_⟩
      · have hm := moveSector_ok hd hc
        rw [sendSector_near (x := x.moved) hnear, if_neg (by simpa [Command.moved] using hfly)] at hm
        rw [hexec, show turned s cl i = u from rfl, hm]
        rfl
      · obtain ⟨⟨z, hz, hfly, hunits, hmiss⟩, hsent⟩ := farSector_sent heng hd hc hfar
        refine ⟨_, z, hexec, hz, hfly, hunits, hmiss, fun q hq hp => ?_⟩
        obtain ⟨f, hf, hcls, hmsg⟩ := hsent q hq hp
        exact ⟨f, hf.in_fabric, hcls, hmsg⟩
    · rw [hexec, show turned s cl i = u from rfl, moveSector_error hd]
      rfl
  case finish =>
    intro s c e x h hr hroom u run copies
    refine ⟨fun hs => ?_, fun code hs hne => ?_, fun hs => ⟨?_, ?_, ?_⟩⟩
    · exact (engineCommandEnd_status h hr hroom hs).trans (congrArg _ (if_pos rfl))
    · have hend := (engineCommandEnd_status h hr hroom hs).trans (congrArg Host.Outcome.next (if_neg hne))
      exact ⟨fun hc => hend.trans (congrArg _ (abandonCommand_of_not_copies hc u code)), fun _ => hend⟩
    · intro hc hf hn g
      have hend := engineCommandEnd_copy h hr hroom hs hc hf hn
      refine ⟨fun hstop => hend.trans (if_pos hstop), fun hstop hlea hnext => ?_⟩
      have hcopy : exec (.engineCommandEnd c e) s = .next (endCopy s x) := by
        rw [hend, hstop, if_neg Bool.false_ne_true, hlea, if_pos (by simpa using hnext)]
      exact ⟨fun hm => hcopy.trans (congrArg _ (endCopy_cases.1 hm)),
        fun m hm => hcopy.trans (congrArg _ (endCopy_cases.2 g m hm))⟩
    · exact fun mf chk dst a b rows len hop => engineCommandEnd_nbmv h hr hroom hs hop
    · exact fun t ht hb hstop hop => engineCommandEnd_attn h hr hroom hs hstop ht hb hop
  case completion =>
    intro s x l hw h0 h8 hp hsp hm hroom t cl word record
    have ht : t = _ := endCommand_posts hw h0 h8 hp hsp hm hroom
    rw [ht]
    obtain ⟨hword, hrest⟩ := completed_memory (s := s) (x := x) (pa := word) (cl := cl) (completionWord x.seq cNone x.units)
      (eventRecord_length x.eng.val x.core (completionWord x.seq cNone x.units) x.task 1)
    exact ⟨fun hd => (hword hd).trans (completionWord_none _ _), hrest⟩
  case data =>
    intro s u n c f x ok b h hf hm hx hs op fmt dst src m fold round hop
    exact h.takes_credOut hf hm hx hs hop

end Sys2Proof.Machine
end
